-- ==== Sys2Proof/Word.lean ====
section
/-!
DEFINITION. The words the whole model is written over: bytes, 32- and 64-bit words, lanes of a vector register,
and the finite map (a list of key and value pairs) that holds what is there only for some keys.
-/
namespace Sys2Proof

/-- One byte. -/
abbrev Byte := BitVec 8

/-- A 32-bit word: a lane, or half of a 64-bit set-up register. -/
abbrev Word := BitVec 32

/-- A 64-bit word: a general register, an address, a 64-bit set-up register. -/
abbrev DWord := BitVec 64

/-- The 64 lanes of a vector register; a lane beyond the list's end reads 0. -/
abbrev Lanes := List Word

/-- A finite map: strictly rising keys; a key that is not listed stands for the map's default value. -/
abbrev SMap (α : Type) := List (Nat × α)

end Sys2Proof
end

