-- ==== Sys2Proof/Operand.lean ====
section
/-!
DEFINITION. The data that commands carry into the module: who writes a register, frames, link symbol blocks, training
markers and the places whose parity can be bad.
-/
namespace Sys2Proof.Machine

/-- The values of the TCK_PARAM layout (R78): the guard window in µs less 1, and the period in ns. -/
structure TickParam where
  guardM1 : BitVec 6
  period  : BitVec 24
deriving DecidableEq, Repr

/-- Response status (R362, and 5: UNREACHABLE, R443, that a fabric answer adds). -/
inductive Status where
  | ok | busError | epochStale | absorbed | absent | unreachable
deriving DecidableEq, Repr

/-- The body of a TICK_MARKER (R462). -/
structure Marker where
  tick   : DWord := 0
  param  : TickParam := ⟨7, 250000⟩
  pend   : Option TickParam := none
  pendTick : DWord := 0
  acc    : Nat := 0
  hops   : Nat := 0
  close  : BitVec 16 := 0
  closeTick : DWord := 0
deriving DecidableEq, Repr

/-- Fields of a reduction partial that must agree among the members (R455). -/
structure RedId where
  group : Nat
  rseq  : Word
  op    : Nat
  etype : Nat
  count : Nat
  leaves : Nat
  reduce : Bool
deriving DecidableEq, Repr

/-- Frame opcodes (R432). -/
inductive FrameOp where
  | read | write | atomic | mcastWrite
  | readRsp | writeAck | atomicRsp | mcastAck | seqNack
  | redPart | redResult | redCredit
  | tickMarker | barrierReport | barrierClose | flowClose | flowCloseAck | linkHello
  | reserved
deriving DecidableEq, Repr

/-- A frame (R431). -/
structure Frame where
  dst   : Nat := 0
  src   : Nat := 0
  op    : FrameOp := .read
  /-- lane: 0 to 3 escape, 4 adaptive -/
  lane  : Nat := 4
  srcDie : Nat := 0
  size  : Nat := 0
  data  : List Byte := []
  aop   : Nat := 0
  ret   : Bool := false
  seq   : BitVec 24 := 0
  inc   : Byte := 0
  issKind : Nat := 0
  issIdx : Nat := 0
  tag   : Nat := 0
  tenant : Nat := 0
  damaged : Bool := false
  rt    : Bool := false
  status : Status := .ok
  addr  : BitVec 48 := 0
  group : Nat := 0
  hops  : Nat := 0
  floor : BitVec 24 := 0
  operand : DWord := 0
  compare : DWord := 0
  /-- MCAST_ACK: deliveries and the pruned bit (R449) -/
  count : Nat := 0
  pruned : Bool := false
  /-- control bodies -/
  marker : Marker := {}
  tick  : DWord := 0
  mask  : BitVec 16 := 0
  /-- reductions: fields, level of the tree, combined vector and its flags -/
  red   : RedId := ⟨0, 0, 0, 0, 0, 1, false⟩
  level : Nat := 0
  vec   : List DWord := []
  flags : BitVec 7 := 0
  /-- LINK_HELLO: the peer's port, and a fresh-start mark -/
  port  : Nat := 0
  /-- target epoch (R431) -/
  epoch : Byte := 0
  /-- reductions: the first element that the frame carries -/
  off   : Nat := 0
  /-- a reserved bit of the header is set (R432) -/
  rsv   : Bool := false
  /-- header bytes that fail parity at the egress port (R598) -/
  hdrBad : Bool := false
deriving DecidableEq, Repr

/-- The fields of a training marker that a receiver acts on (R480, R481). -/
structure TMarker where
  lane    : Nat := 0
  port    : Nat := 0
  modid   : Nat := 0
  rxGood  : BitVec 9 := 0
  ready   : Bool := false
  resync  : Bool := false
  failed  : Bool := false
  fresh   : Bool := false
  idValid : Bool := false
  txLanes : BitVec 9 := 0
  expect  : BitVec 10 := 0
deriving DecidableEq, Repr

/-- A frame unit of 32 bytes (R428, R429): nothing, a frame header, or a data unit of the frame whose header came before. The
header carries the frame's fields and bytes. -/
inductive FrameUnit where
  | idle
  | head (f : Frame)
  | data
deriving DecidableEq, Repr

/-- A link symbol block, decoded (R428, R429, R477): its eight frame units (unlisted: idle), its credit field and stamps. -/
structure Block where
  seq     : BitVec 10
  ack     : BitVec 10 := 0
  units   : List FrameUnit := []
  credSel : BitVec 4 := 0
  credCnt : BitVec 4 := 0
  echoTx  : BitVec 11 := 0
  echoRx  : BitVec 11 := 0
  echoTurn : BitVec 6 := 0
deriving DecidableEq, Repr

/-- What a read of host memory, or of what lies outside the module, brings (R513, R545). -/
inductive HostData (α : Type) where
  | ok (a : α)
  | failed
  | poisoned
deriving DecidableEq, Repr

/-- Times of a received block (R460): the coarse round trip in 1/8 ns, and the time from its arrival to the start of the block that
this port sends next. -/
structure EchoTimes where
  coarse : Nat := 0
  turn   : Nat := 0
deriving DecidableEq, Repr

/-- A stored byte or word whose parity is bad (R590, R592): what the model keeps in place of the parity bits. -/
inductive Place where
  /-- a byte of memory, by its canonical local address -/
  | mem (a : Nat)
  /-- a byte of a stack, by its canonical local address, that its on-die ECC corrects (false) or cannot correct (true) (R415) -/
  | ecc (a : Nat) (uncorrectable : Bool)
  /-- a lane of a vector register, a sum-store row, a codebook slot entry (slot·256 + entry, C8 slots from 8), a generator,
  an entry of the top-k unit, a Winnow ticket and a sum (bank·256 + unit) of the matrix-vector path of a tile -/
  | vreg (t thr r lane : Nat)
  | sum (t row : Nat)
  | book (t e : Nat)
  | gen (t g : Nat)
  | topk (t e : Nat)
  | ticket (t k : Nat)
  | mvSum (t k : Nat)
  /-- a routing (0), group (1), reduction (2) or window (3) table entry -/
  | table (k i : Nat)
  /-- general register file, predicates or semaphores of a thread, as saved in a context (R258) -/
  | greg (t thr : Nat)
deriving DecidableEq, Repr

/-- Who writes a set-up register: the owner through BAR0 of port d's PF, a host on a function page (port, function),
Granger, or the tile's own firmware (R42, R44, R241, R505). -/
inductive Agent where
  | owner (port : Nat)
  | granger
  | page (port fn : Nat)
  | tileFw (t : Nat)
deriving DecidableEq, Repr

/-- Operation of a logic design's request (R556). -/
inductive OOp where
  | read | write | atomic | torusMcast | fabricMcast | copy | release | acquire
deriving DecidableEq, Repr

/-- A request on a logic port's OREQ channel (R556): `rect` is x0, x1, y0, y1; `size` is in bytes. -/
structure OReq where
  op      : OOp
  tag     : Nat
  addr    : DWord := 0
  size    : Nat := 0
  aop     : Nat := 0
  ret     : Bool := false
  rt      : Bool := false
  rect    : Nat × Nat × Nat × Nat := (0, 0, 0, 0)
  group   : Nat := 0
  operand : DWord := 0
  compare : DWord := 0
  data    : List Byte := []
deriving DecidableEq, Repr

/-- Where a critical command comes from: the descriptor at the head of a ring, the management path (R683), or
Granger's own tile or cluster reset of a target (R629). -/
inductive CmdSrc where
  | ring (r : Nat)
  | mctp
  | granger (target : Nat)
deriving DecidableEq, Repr

/-- Damage that a hop does to a packet (R359, R363): wrong bits of the header's bytes 0x00 to 0x03 and of their copy, whether it makes
the opcode a reserved one (R361), and offsets of data bytes (or of the operand) that fail parity from then on. -/
structure Damage where
  route  : BitVec 32 := 0
  copy   : BitVec 32 := 0
  opcode : Bool := false
  data   : List Nat := []
deriving DecidableEq, Repr

/-- A unit whose checker or generator fails a test (R609). -/
inductive Checked where
  | tile (t : Nat)
  | transit (r : Nat)
  | stack (s : Nat)
  | hostPort (d : Nat)
  | fabricPort (q : Nat)
  | bridge
  | region (r : Nat)
  | ioDie (d : Nat)
deriving DecidableEq, Repr

/-- Why deep idle ends (R644). -/
inductive WakeCause where
  | written (a : Agent)
  | descriptor
  | fabric
deriving DecidableEq, Repr

end Sys2Proof.Machine
end

