-- ==== Sys2Proof/Syntax.lean ====
section
/-!
DEFINITION. `Instr`: one constructor for each row of spec/opcode_table.json, in the table's order, with the row's
operands. A tile instruction names its tile and thread: its word stands in the tile's instruction store at the thread's
pc. A packet, frame or descriptor is named by its number in the state. What only the outside can tell (times, damage,
temperatures, data that a host or another module supplies) is an operand.
-/
namespace Sys2Proof
open Sys2Proof.Machine

inductive Instr where
  /-- R48. A write setting TCK_CTRL.enable starts the tick, with the first edge at the next reference clock edge on a standalone or master module. -/
  | tickEnable (a : Agent)
  /-- R75. Writing TCK_CTRL.clear_stats clears the barrier stall counters and every partition miss counter. -/
  | clearStats (a : Agent)
  /-- R48. At the end of each period the tick counter increments and a new tick begins. -/
  | tickEdge (upsets : List Place)
  /-- R49. The guard window of the current tick begins P minus G after the edge. -/
  | guardStart
  /-- R259. At the guard-start edge of a task's deadline tick, a still-running task misses and the tile sends a miss notice and acts per discipline. -/
  | deadlineEdge (t : Nat)
  /-- R463. A received tick marker sets the follower's compensated edge and is forwarded on downstream ports. -/
  | tickMarker (id : Nat) (arrival : Int) (turn : SMap Nat)
  /-- R57. A Locked follower that gets no marker within 2 ns after its predicted edge enters Holdover. -/
  | holdoverEntry
  /-- R57. After the holdover limit of ticks without a marker, the follower enters Free-run. -/
  | freeRunEntry
  /-- R67. When all of a group's tick-n accesses are acknowledged and downstream shares are closed, a module closes its share and reports it upstream. -/
  | barrierShareClose (g : Nat) (n : Nat) (ns : Nat)
  /-- R464. A received barrier report records closed downstream shares for a tick. -/
  | barrierReport (id : Nat)
  /-- R464. A received barrier close releases the module's held tiles of the closed groups and is forwarded downstream. -/
  | barrierClose (id : Nat) (ns : Nat)
  /-- R60. A critical command schedules a new period and guard window at an effective tick. -/
  | tickParam (src : CmdSrc)
  /-- R134. An array matrix-multiply instruction is checked and queued. -/
  | amm (t : Nat) (thr : Nat)
  /-- R140. An instruction is queued that drains sum-store rows to the loft. -/
  | adrn (t : Nat) (thr : Nat)
  /-- R140. An instruction is queued that loads a codebook slot from the loft. -/
  | acbl (t : Nat) (thr : Nat)
  /-- R141. An instruction is queued that writes, and optionally clears, the histogram counters. -/
  | ahist (t : Nat) (thr : Nat)
  /-- R140. The thread waits until every earlier array queue entry has completed. -/
  | abar (t : Nat) (thr : Nat)
  /-- R148. The array begins the next queue entry once the timing bounds allow. -/
  | arrayEntryStart (t : Nat) (bubbles : List Nat)
  /-- R147. An array entry completes when its last row is written, releasing waiting ABARs. -/
  | arrayEntryComplete (t : Nat) (bubbles : List Nat)
  /-- R165. Writing 1 zeroes the array instruction, row and bubble counters. -/
  | arrClear (a : Agent) (t : Nat)
  /-- R212. A matrix-vector instruction is checked and queued. -/
  | mvm (t : Nat) (thr : Nat)
  /-- R211. The thread waits until every earlier matrix-vector entry has completed. -/
  | mbar (t : Nat) (thr : Nat)
  /-- R216. The matrix-vector path starts its next entry after the previous entry's last weight request. -/
  | mvpEntryStart (t : Nat)
  /-- R216. A matrix-vector entry completes when its last output row is written. -/
  | mvpEntryComplete (t : Nat) (stall : Nat)
  /-- R226. Writing 1 zeroes the vector unit counters. -/
  | vecClear (a : Agent) (t : Nat)
  /-- R226. Writing 1 zeroes the matrix-vector counters. -/
  | mvpClear (a : Agent) (t : Nat)
  /-- R174. Lane-wise add. -/
  | vadd (t : Nat) (thr : Nat)
  /-- R174. Lane-wise subtract. -/
  | vsub (t : Nat) (thr : Nat)
  /-- R174. Lane-wise multiply. -/
  | vmul (t : Nat) (thr : Nat)
  /-- R174. Lane-wise fused multiply-add. -/
  | vfma (t : Nat) (thr : Nat)
  /-- R177. Lane minimum. -/
  | vmin (t : Nat) (thr : Nat)
  /-- R177. Lane maximum. -/
  | vmax (t : Nat) (thr : Nat)
  /-- R177. Lane comparison writing all-ones or zero. -/
  | vcmp (t : Nat) (thr : Nat)
  /-- R174. Lane select by a selector register. -/
  | vsel (t : Nat) (thr : Nat)
  /-- R178. Format conversion along the permitted paths. -/
  | vcvt (t : Nat) (thr : Nat)
  /-- R178. W16 to L8 quantisation in two blocks. -/
  | vql8 (t : Nat) (thr : Nat)
  /-- R178. L8 to W16 conversion. -/
  | vdl8 (t : Nat) (thr : Nat)
  /-- R181. Correctly rounded special function. -/
  | vsf (t : Nat) (thr : Nat)
  /-- R174. Bitwise lane operation. -/
  | vbit (t : Nat) (thr : Nat)
  /-- R174. Lane shift. -/
  | vshf (t : Nat) (thr : Nat)
  /-- R179. Cross-lane reduction in fixed order. -/
  | vred (t : Nat) (thr : Nat)
  /-- R174. Lane permutation. -/
  | vperm (t : Nat) (thr : Nat)
  /-- R180. Lane exchange at a power-of-two distance into two registers. -/
  | vxln (t : Nat) (thr : Nat)
  /-- R194. Radix-2 complex butterfly. -/
  | vbf2 (t : Nat) (thr : Nat)
  /-- R195. Radix-4 complex butterfly. -/
  | vbf4 (t : Nat) (thr : Nat)
  /-- R174. Broadcast a general register to every lane. -/
  | vput (t : Nat) (thr : Nat)
  /-- R174. Copy one lane into a general register. -/
  | vget (t : Nat) (thr : Nat)
  /-- R184. Load a near-memory row into a vector register. -/
  | vld (t : Nat) (thr : Nat)
  /-- R184. Store a vector register to a near-memory row. -/
  | vst (t : Nat) (thr : Nat)
  /-- R184. Load 64 packed elements from the loft. -/
  | vldl (t : Nat) (thr : Nat)
  /-- R184. Store 64 packed elements to the loft. -/
  | vstl (t : Nat) (thr : Nat)
  /-- R193. Set an address generator from general registers. -/
  | vag (t : Nat) (thr : Nat)
  /-- R193. Read an address generator's index. -/
  | vagrd (t : Nat) (thr : Nat)
  /-- R201. Load and bind a random generator. -/
  | vrset (t : Nat) (thr : Nat)
  /-- R201. Read a random generator's state. -/
  | vrget (t : Nat) (thr : Nat)
  /-- R201. Draw 32 random bits per lane. -/
  | vrand (t : Nat) (thr : Nat)
  /-- R203. Gumbel-max sampling step updating the running best. -/
  | vsample (t : Nat) (thr : Nat)
  /-- R204. Reduce lane pairs to one argmax key. -/
  | vsred (t : Nat) (thr : Nat)
  /-- R205. Insert lanes into the top-k unit. -/
  | vtopk (t : Nat) (thr : Nat)
  /-- R206. Set the top-p cut over the top-k list. -/
  | vtopp (t : Nat) (thr : Nat)
  /-- R207. Sample among the kept top-k entries. -/
  | vtops (t : Nat) (thr : Nat)
  /-- R187. Repeat the next vector instruction a stated number of times. -/
  | rep (t : Nat) (thr : Nat)
  /-- R233. Scalar add. -/
  | add (t : Nat) (thr : Nat)
  /-- R233. Scalar subtract. -/
  | sub (t : Nat) (thr : Nat)
  /-- R233. Scalar multiply, low half. -/
  | mul (t : Nat) (thr : Nat)
  /-- R233. Scalar multiply, high half. -/
  | mulh (t : Nat) (thr : Nat)
  /-- R233. Scalar bitwise and. -/
  | and (t : Nat) (thr : Nat)
  /-- R233. Scalar bitwise or. -/
  | or (t : Nat) (thr : Nat)
  /-- R233. Scalar bitwise xor. -/
  | xor (t : Nat) (thr : Nat)
  /-- R233. Scalar shift left. -/
  | shl (t : Nat) (thr : Nat)
  /-- R233. Scalar logical shift right. -/
  | shr (t : Nat) (thr : Nat)
  /-- R233. Scalar arithmetic shift right. -/
  | sar (t : Nat) (thr : Nat)
  /-- R233. Scalar minimum. -/
  | min (t : Nat) (thr : Nat)
  /-- R233. Scalar maximum. -/
  | max (t : Nat) (thr : Nat)
  /-- R233. Set the upper 32 bits of a register. -/
  | movhi (t : Nat) (thr : Nat)
  /-- R233. Compare into a predicate. -/
  | cmp (t : Nat) (thr : Nat)
  /-- R233. Select by a predicate. -/
  | sel (t : Nat) (thr : Nat)
  /-- R233. Relative branch. -/
  | br (t : Nat) (thr : Nat)
  /-- R233. Register jump. -/
  | jr (t : Nat) (thr : Nat)
  /-- R233. Decrement and branch if not zero. -/
  | loop (t : Nat) (thr : Nat)
  /-- R233. Branch with the return address saved. -/
  | call (t : Nat) (thr : Nat)
  /-- R233. Predicate logic. -/
  | plog (t : Nat) (thr : Nat)
  /-- R234. Scalar load from the loft or a tenant address. -/
  | ld (t : Nat) (thr : Nat)
  /-- R234. Scalar store to the loft or a tenant address. -/
  | st (t : Nat) (thr : Nat)
  /-- R235. Scalar atomic operation. -/
  | atom (t : Nat) (thr : Nat)
  /-- R239. Release and/or acquire fence. -/
  | fence (t : Nat) (thr : Nat)
  /-- R240. Add to a tile semaphore, releasing waiters in order. -/
  | spost (t : Nat) (thr : Nat)
  /-- R240. Wait for and subtract from a tile semaphore. -/
  | swait (t : Nat) (thr : Nat)
  /-- R238. Read a tick, time or identity value. -/
  | tread (t : Nat) (thr : Nat)
  /-- R238. Wait for a tick edge, a guard edge or a tick count. -/
  | twait (t : Nat) (thr : Nat)
  /-- R238. The thread goes Off, ending the task when it is the last. -/
  | texit (t : Nat) (thr : Nat)
  /-- R238. The task ends. -/
  | tend (t : Nat) (thr : Nat)
  /-- R241. Firmware reads one of its tile's set-up registers. -/
  | fget (t : Nat) (thr : Nat)
  /-- R241. Firmware writes one of its tile's set-up registers. -/
  | fset (t : Nat) (thr : Nat)
  /-- R262. Firmware mode ends and the tile becomes idle. -/
  | fend (t : Nat) (thr : Nat)
  /-- R249. A launch message reaches a tile and is epoch-checked and queued. -/
  | launch (id : Nat)
  /-- R249. The head launch starts once the tile is free, its start tick has come and the barrier allows. -/
  | taskStart (t : Nat)
  /-- R250. Zeroing, program fetch and context load finish, and the threads become Ready. -/
  | taskPrepared (t : Nat) (prog : Option (List Byte)) (ctx : Option (List Byte))
  /-- R248. The ring engine receives a start report and may launch the ring's next task. -/
  | startReport (id : Nat)
  /-- R259. The ring engine receives a miss notice and counts the miss, posting DEADLINE_MISS for Hard. -/
  | missNotice (id : Nat)
  /-- R236. A space-1 load or atomic result returns to its waiting thread. -/
  | missReturn (t : Nat) (thr : Nat)
  /-- R244. The sequencer switches Active thread on a wait, a long source stall or 256 issue cycles. -/
  | threadSwitch (t : Nat) (idle : Nat)
  /-- R257. After all of a task's writes are acknowledged, the tile saves the context and sends the completion report. -/
  | taskReport (t : Nat)
  /-- R68. The ring engine receives a completion report and writes the completion record in ring order. -/
  | completionReport (r : Nat)
  /-- R262. Granger starts a maintenance action in a guard window, entering firmware at 0x0040. -/
  | firmwareEntry (t : Nat)
  /-- R267. Writing 1 zeroes the sequencer counters. -/
  | seqClear (a : Agent) (t : Nat)
  /-- R273. Arm a stream slot from a descriptor. -/
  | sarm (t : Nat) (thr : Nat)
  /-- R288. Re-arm a persistent slot with a new base and optional count. -/
  | srearm (t : Nat) (thr : Nat)
  /-- R285. Wait for and take the next buffer half. -/
  | swaitb (t : Nat) (thr : Nat)
  /-- R284. Return the oldest taken input half to filling. -/
  | srel (t : Nat) (thr : Nat)
  /-- R284. Push the oldest taken output half. -/
  | spush (t : Nat) (thr : Nat)
  /-- R289. Skip an input stream forward to a target element. -/
  | sskip (t : Nat) (thr : Nat)
  /-- R284. Wait until every write of the slot is acknowledged. -/
  | sflush (t : Nat) (thr : Nat)
  /-- R290. End the slot's use and return it to Idle. -/
  | sstop (t : Nat) (thr : Nat)
  /-- R284. Return the slot status word. -/
  | sstat (t : Nat) (thr : Nat)
  /-- R297. The engine injects a request when a class credit, a tag and a ready slot allow. -/
  | streamInject (t : Nat) (slot : Nat)
  /-- R279. Read data for an input stream arrives, and halves become Ready in order. -/
  | streamReadResponse (t : Nat) (slot : Nat) (late : Nat)
  /-- R292. A linked half arrives at its consumer. -/
  | linkHalf (id : Nat)
  /-- R292. A credit arrives at a linked output, allowing another half to be sent. -/
  | linkCredit (id : Nat)
  /-- R293. An END token reaches the consumer. -/
  | linkEnd (id : Nat)
  /-- R293. An ABORT token reaches the consumer and may end its task with STREAM_ABORT. -/
  | linkAbort (id : Nat)
  /-- R293. A CLOSE token closes the producer slot. -/
  | linkClose (id : Nat)
  /-- R306. The I/O die translation service walks or looks up a tenant translation. -/
  | translationRequest (id : Nat)
  /-- R306. A translation answer reaches a tile and resumes the held slot or access. -/
  | translationResponse (id : Nat)
  /-- R317. Writing 1 zeroes the stream counters. -/
  | strClear (a : Agent) (t : Nat)
  /-- R327. Open a ticket and queue a prediction job. -/
  | wpred (t : Nat) (thr : Nat)
  /-- R327. Queue the check job of an open ticket. -/
  | wchk (t : Nat) (thr : Nat)
  /-- R332. Put a linked output into tentative mode under a ticket. -/
  | wtent (t : Nat) (thr : Nat)
  /-- R328. Wait for a predicted mask or a ticket's resolution. -/
  | wwait (t : Nat) (thr : Nat)
  /-- R336. Speculatively load from the next undelivered half. -/
  | wpeek (t : Nat) (thr : Nat)
  /-- R336. Open a speculation with a restart pc. -/
  | wspec (t : Nat) (thr : Nat)
  /-- R345. Compute an attention block's bound and perform the skip test. -/
  | wbound (t : Nat) (thr : Nat)
  /-- R330. A predictor or checker job starts and its descriptor is read and checked. -/
  | winnowJobStart (t : Nat) (checker : Bool)
  /-- R324. The predictor finishes and writes the predicted mask. -/
  | winnowPredictionDone (t : Nat)
  /-- R326. The checker finishes, writes its masks and resolves the ticket, sending COMMIT or SQUASH. -/
  | winnowCheckDone (t : Nat)
  /-- R333. A COMMIT token makes held halves Ready and clears taints. -/
  | commit (id : Nat)
  /-- R333. A SQUASH token returns held halves to filling and redirects tainted threads. -/
  | squash (id : Nat)
  /-- R351. Writing 1 zeroes the Winnow counters. -/
  | winClear (a : Agent) (t : Nat)
  /-- R392. A read request reaches its endpoint and is served or answered with an error. -/
  | read (id : Nat)
  /-- R370. A write request reaches its endpoint and is applied in issuer order and acknowledged. -/
  | write (id : Nat)
  /-- R393. An atomic reaches its endpoint and is executed or refused. -/
  | atomic (id : Nat)
  /-- R373. A torus multicast write reaches a tile of the rectangle and is acknowledged with a status. -/
  | mcastWrite (id : Nat)
  /-- R594. Read data reaches its issuer and is delivered, or re-read on transit parity damage. -/
  | readRsp (id : Nat)
  /-- R369. A write acknowledgement reaches its issuer, freeing the tag and releasing held writes. -/
  | writeAck (id : Nat)
  /-- R596. An atomic result reaches its issuer. -/
  | atomicRsp (id : Nat)
  /-- R373. A multicast acknowledgement reaches its issuer, which reports once all are counted. -/
  | mcastAck (id : Nat)
  /-- R354. A router forwards a packet along its dimension-order route. -/
  | packetForward (id : Nat) (damage : Damage) (cycle : Nat)
  /-- R363. An access with no answer after 2 ms ends with a bus error. -/
  | accessTimeout (n : Nat)
  /-- R385. Writing clear zeroes the router counters. -/
  | torClear (a : Agent) (t : Nat)
  /-- R385. Writing gl_clear zeroes the Gleaner counters. -/
  | glClear (a : Agent) (t : Nat)
  /-- R387. A write to TOR_GL_CTRL enables a probe or changes its tracing. -/
  | gleanerEnable (a : Agent) (t : Nat) (v : Word)
  /-- R402. A controller sweeps and centres every lane at bring-up. -/
  | granaryTraining (stk : Nat) (ca : Bool) (sweeps : SMap (List (BitVec 128)))
  /-- R394. A pseudo-channel chooses and performs its next access by priority. -/
  | pchAccess (stk : Nat) (c : Nat) (agedBelow : Nat) (ecc : Nat)
  /-- R397. A refresh falls due and is issued or postponed by credit. -/
  | refreshDue (stk : Nat) (c : Nat)
  /-- R398. Owed refreshes are issued back to back when no real-time request waits. -/
  | refreshRepay (stk : Nat) (c : Nat)
  /-- R401. A pseudo-channel gains one neighbour-refresh budget unit every 512 ns. -/
  | nrefBudgetGain (stk : Nat) (c : Nat)
  /-- R394. A row closes after 64 Granary cycles without access. -/
  | rowClose (stk : Nat) (c : Nat) (bank : Nat)
  /-- R396. The controller reads the stack temperature each millisecond and selects the refresh interval. -/
  | stackTempRead (stk : Nat) (temp : Byte)
  /-- R403. Granger has a pseudo-channel re-centred in a guard window. -/
  | recentre (stk : Nat) (c : Nat) (found : Bool) (rd : BitVec 28) (wd : BitVec 28)
  /-- R404. A pseudo-channel with no eye is swept again and repaired with redundant lanes, or lost. -/
  | trainingRecovery (stk : Nat) (c : Nat) (first : List (BitVec 128)) (second : List (BitVec 128))
  /-- R406. Writing GRN_REMAP.go requests a remap of a lost pseudo-channel and zeroes the spare blocks. -/
  | remapRequest (a : Agent) (stk : Nat) (pch : Nat)
  /-- R406. The remap activates at the next guard window. -/
  | remapActivate (stk : Nat)
  /-- R409. Writing GRN_PASR.enter places the stack in partial-array self-refresh. -/
  | pasrEnter (a : Agent) (stk : Nat)
  /-- R409. The stack leaves self-refresh on a request or on GRN_PASR.exit, and marks rows for scrub. -/
  | pasrExit (a : Option Agent) (stk : Nat)
  /-- R410. An unscrubbed row is zeroed after a self-refresh exit. -/
  | scrubRow (stk : Nat)
  /-- R413. A write to GRN_RESV is admitted against capacity or refused. -/
  | reservationWrite (a : Agent) (stk : Nat) (p : Nat) (v : Word)
  /-- R422. Writing 1 zeroes the Granary counters and max_temp. -/
  | grnClear (a : Agent) (stk : Nat)
  /-- R487. A link symbol block is decoded, accepted in sequence or rejected, and its credits applied. -/
  | blockReceive (q : Nat) (b : Block) (clean : Bool) (errors : List (Nat × Nat)) (arrival : Nat) (times : EchoTimes)
  /-- R435. A module routes an arriving or originated frame by its routing table. -/
  | frameForward (id : Nat)
  /-- R435. An unordered frame without adaptive credit for 64 cycles moves to escape lane 0. -/
  | adaptiveEscape (id : Nat)
  /-- R439. The flow home accepts, discards or NACKs an ordered frame by sequence number. -/
  | flowFrame (id : Nat)
  /-- R441. A flow response reaches the source, which answers the issuer and frees the replay copy. -/
  | flowResponse (id : Nat)
  /-- R442. A received SEQ_NACK makes the source re-send unacknowledged frames in order. -/
  | seqNack (id : Nat)
  /-- R442. A frame unacknowledged for e2e_us triggers a re-send of the flow. -/
  | e2eTimeout (ctx : Nat)
  /-- R443. A flow with no acknowledgement for flow_dead_us answers its frames UNREACHABLE and closes. -/
  | flowDead (ctx : Nat)
  /-- R437. A send context idle for 1 ms sends FLOW_CLOSE. -/
  | flowIdleClose (ctx : Nat)
  /-- R437. A receiver frees its flow context and answers FLOW_CLOSE_ACK. -/
  | flowClose (id : Nat)
  /-- R437. The sender frees its send context. -/
  | flowCloseAck (id : Nat)
  /-- R444. A remote read without a response after e2e_us is sent once more, or answered UNREACHABLE later. -/
  | readRetry (d : Nat) (tag : Nat)
  /-- R447. The copy engine writes a block whose read has returned, or stops on a failed read. -/
  | copyBlock (k : Nat) (host : HostData (List Byte))
  /-- R449. A module receives a fabric multicast, writes locally and copies it along the tree. -/
  | fabricMcastWrite (id : Nat)
  /-- R449. A branch acknowledgement arrives, and the subtree's ack is sent when all have answered. -/
  | fabricMcastAck (id : Nat)
  /-- R450. After flow_dead_us the sender reports the multicast with missing branches. -/
  | mcastReportTimeout (k : Nat)
  /-- R452. An Up port losing its link becomes Held and queues frames. -/
  | portHeld (q : Nat)
  /-- R452. The hold time expires, the port becomes Down and its queue is discarded. -/
  | holdExpiry (q : Nat)
  /-- R452. A Held or Down port regains its link and becomes Up. -/
  | portReturnUp (q : Nat)
  /-- R453. After a routing update drains the old queue and settle_us passes, ordered frames use the new path. -/
  | pathSettle (dst : Nat)
  /-- R457. A reduction partial arrives and is combined at its tree level. -/
  | redPart (id : Nat)
  /-- R457. A reduction credit lets the right member send partials. -/
  | redCredit (id : Nat)
  /-- R457. An all-reduce result arrives, is written and passed down. -/
  | redResult (id : Nat)
  /-- R459. A member lacking a partial or result after the timeout ends with REDUCE_FAILED. -/
  | reduceTimeout (k : Nat)
  /-- R482. A received LINK_HELLO records the peer and lets the port become Up. -/
  | linkHello (id : Nat)
  /-- R468. A write assigns the module ID in every KFB_ block. -/
  | kfbModuleId (a : Agent) (d : Nat) (v : Word)
  /-- R471. Writing 1 zeroes the fabric counters. -/
  | kfbClear (a : Agent) (d : Nat)
  /-- R482. A lane detects a signal, and the port moves from NoSignal to Adapt. -/
  | signalDetect (q : Nat) (l : Nat)
  /-- R482. A bring-up phase misses its time limit and the attempt ends. -/
  | phaseTimeout (q : Nat)
  /-- R482. Ten ms after a failed attempt, a new attempt starts from Adapt. -/
  | attemptRestart (q : Nat)
  /-- R483. Granger writes a slip and invert trial and reads whether the lane matches. -/
  | slipTrial (q : Nat) (slips : List (Nat × Nat × Bool × Bool))
  /-- R481. An agreed marker field is acted on for lane mapping, readiness and lane choice. -/
  | trainingMarker (q : Nat) (l : Nat) (m : TMarker)
  /-- R488. A lane in use loses lock and the port starts a resync. -/
  | laneLockLoss (q : Nat) (l : Nat)
  /-- R488. At the end of a 1 ms window, excess corrected bytes or rejected blocks start a resync. -/
  | errorWindow (q : Nat)
  /-- R490. A resync that does not complete in 4 µs escalates to a fast retrain. -/
  | resyncTimeout (q : Nat)
  /-- R490. A fast retrain that does not complete in 15 µs escalates to a full retrain. -/
  | fastRetrainTimeout (q : Nat)
  /-- R498. Writing LNK_CTRL.retrain starts a full retrain. -/
  | retrain (a : Agent) (q : Nat)
  /-- R498. Writing LNK_CTRL.enable starts or stops a port's training. -/
  | portEnable (a : Agent) (q : Nat) (on : Bool)
  /-- R495. A write to LNK_TEST selects a loopback mode. -/
  | loopbackSet (a : Agent) (q : Nat) (mode : Nat)
  /-- R501. Writing 1 zeroes the lane counters. -/
  | lnkClear (a : Agent) (d : Nat)
  /-- R512. Each poll period, the ring engine reads doorbell lines and fetches new descriptors. -/
  | doorbellPoll (d : Nat) (f : Nat) (words : SMap (HostData DWord))
  /-- R517. A fetched descriptor is started in ring order. -/
  | descriptorFetched (r : Nat) (data : HostData (List (BitVec 1024)))
  /-- R518. A TASK descriptor is checked and launched to its tile. -/
  | task (r : Nat)
  /-- R519. A COPY descriptor moves bytes between memories. -/
  | copy (r : Nat)
  /-- R520. An MCAST descriptor sends a fabric or torus multicast. -/
  | mcast (r : Nat) (data : HostData (List Byte))
  /-- R521. A REDUCE descriptor starts this member's part of a reduction. -/
  | reduce (r : Nat)
  /-- R522. An XINV descriptor invalidates cached translations of a range. -/
  | xinv (r : Nat)
  /-- R516. A NOP descriptor completes in ring order. -/
  | nop (r : Nat)
  /-- R523. RING_CREATE sets up a ring pair. -/
  | ringCreate (r : Nat)
  /-- R523. RING_DESTROY stops a ring pair after its held tasks report. -/
  | ringDestroy (r : Nat)
  /-- R571. A critical command fetches and stages a bale into logic regions. -/
  | loadBale (src : CmdSrc)
  /-- R630. A RESET command with tile scope resets one tile. -/
  | tileReset (src : CmdSrc)
  /-- R629. A RESET command with cluster scope resets one cluster. -/
  | clusterReset (src : CmdSrc)
  /-- R630. A RESET command with partition scope resets a partition's clusters, regions and buckets. -/
  | partitionReset (src : CmdSrc)
  /-- R636. A RESET command with module scope resets the module domain and wakes the tiles again. -/
  | moduleReset (src : CmdSrc)
  /-- R639. A critical command writes a new firmware or configuration image to the unselected slot and selects it. -/
  | fwUpdate (src : CmdSrc) (image : HostData (List Byte))
  /-- R534. ASSIGN sub-op 0 binds a tenant to a function. -/
  | assignBind (src : CmdSrc)
  /-- R534. ASSIGN sub-op 1 unbinds a tenant. -/
  | assignUnbind (src : CmdSrc)
  /-- R534. ASSIGN sub-op 2 assigns a partition to a tenant. -/
  | assignPartition (src : CmdSrc)
  /-- R565. ASSIGN sub-op 3 releases a partition and empties its regions. -/
  | releasePartition (src : CmdSrc)
  /-- R535. ASSIGN sub-op 4 sets a partition's clusters and regions. -/
  | definePartition (src : CmdSrc)
  /-- R532. A critical command writes entries of a routing, group, reduction or ingress table. -/
  | tableUpdate (src : CmdSrc) (data : HostData (List Byte))
  /-- R536. A critical command unwraps a new key into a slot, or clears the slot. -/
  | keyChange (src : CmdSrc)
  /-- R669. MARGIN_OVERRIDE field 0 sets the core frequency target. -/
  | marginFrequency (src : CmdSrc)
  /-- R669. MARGIN_OVERRIDE field 1 sets a die voltage offset. -/
  | marginOffset (src : CmdSrc)
  /-- R669. MARGIN_OVERRIDE field 2 freezes re-planning. -/
  | marginFreeze (src : CmdSrc)
  /-- R669. MARGIN_OVERRIDE field 3 releases every override. -/
  | marginRelease (src : CmdSrc)
  /-- R683. A critical command arrives over the management path and is checked against Granger's slot. -/
  | mctpCrit (msg : BitVec 1024)
  /-- R537. A function level reset stops the function. -/
  | functionLevelReset (d : Nat) (f : Nat)
  /-- R537. Clearing Bus Master Enable stops the function. -/
  | busMasterClear (d : Nat) (f : Nat)
  /-- R537. A link-down or hot reset stops every function of the port. -/
  | hostLinkDown (d : Nat)
  /-- R537. Clearing VF Enable stops every virtual function. -/
  | vfEnableClear (d : Nat)
  /-- R540. Writing 0 to HST_FN_CTRL.enable stops the function. -/
  | functionDisable (d : Nat) (f : Nat)
  /-- R540. Writing 1 to HST_FN_CTRL.enable makes an Idle function Running. -/
  | functionEnable (d : Nat) (f : Nat) (v : Word)
  /-- R537. After tasks report and accesses drain, the function's rings are discarded and it becomes Idle. -/
  | functionStopDone (d : Nat) (f : Nat)
  /-- R545. Writing 1 zeroes the host counters. -/
  | hstClear (a : Agent) (d : Nat)
  /-- R572. The last section is staged and the checks pass, so the load's regions become Armed. -/
  | baleStaged (k : Nat) (bale : HostData (List Byte))
  /-- R573. At a suitable guard start, every region of the load commits together. -/
  | baleCommit (k : Nat)
  /-- R577. A load Armed for commit_wait_ms ends with COMMIT_WAIT. -/
  | commitWaitExpiry (k : Nat)
  /-- R579. The configuration engine finds an active frame differing from its shadow and repairs it. -/
  | configScrub (r : Nat) (upset : Option (Nat × BitVec 1024 × Bool))
  /-- R557. A logic design issues a request on a logic port, which translates and sends it. -/
  | oreq (n : Nat) (req : OReq)
  /-- R560. A logic design answers an inbound window request. -/
  | irsp (n : Nat) (itag : Nat) (st : Status) (data : List Byte)
  /-- R560. An inbound window access unanswered for 2 ms ends with a bus error. -/
  | windowTimeout (n : Nat) (itag : Nat)
  /-- R574. A write to LGC_OSC sets a user oscillator's frequency, unless the oscillator is in use. -/
  | oscWrite (a : Agent) (d : Nat) (n : Nat) (khz : Word)
  /-- R555. A write to LGC_HB_OWNER changes hard-block owners and idles the changed blocks. -/
  | hbOwnerWrite (a : Agent) (d : Nat) (v : DWord)
  /-- R584. Writing 1 zeroes the logic counters. -/
  | lgcClear (a : Agent) (d : Nat)
  /-- R588. Writing 1 zeroes the configuration counters. -/
  | cfgClear (a : Agent) (d : Nat)
  /-- R610. The collector receives an error report and writes or folds a log entry, posting events. -/
  | errorReport (n : Nat) (within : Bool)
  /-- R600. At the end of a 1 s window, a stack exceeding ce_per_s gets an HBM_CE_RATE record. -/
  | ceRateWindow
  /-- R613. At the end of a 1 s window, excess transit records post TRANSIT_RATE. -/
  | transitRateWindow
  /-- R618. Writing 1 zeroes the integrity counters and log_wrapped. -/
  | intClear (a : Agent)
  /-- R701. After deglitch, the module brings up its rails in order. -/
  | pwrGoodRise (p48 : Bool)
  /-- R703. The module removes every rail except management. -/
  | pwrGoodFall
  /-- R703. P48V below 42 V for over 10 ms removes every rail except management. -/
  | p48vDrop
  /-- R704. P3V3_AUX leaving its range powers the module off. -/
  | auxLoss
  /-- R702. A rail not good by 20 ms, or leaving its window, removes all rails but management. -/
  | railFault
  /-- R708. A junction comparator trip removes rails as a rail fault does. -/
  | thermalTrip
  /-- R704. MOD_RESET# low holds the management domain in reset. -/
  | modResetAssert
  /-- R621. Release of MOD_RESET# starts Granger's boot, which verifies and loads images. -/
  | modResetRelease
  /-- R608. Once boot is done and rails are good, Granger tests every parity checker and locks the PLLs. -/
  | bringupCheckers (bad : List Checked) (tested : Word) (pll : Bool)
  /-- R622. When stacks and host ports finish training, the memory test and tile wake begin. -/
  | trainingComplete
  /-- R623. A stack pair finishes its memory test and the next pair starts. -/
  | memtestPairDone (errs : List (Nat × Nat × Nat)) (seconds : Nat)
  /-- R625. Every 2 ms the next wave of tiles wakes and fetches firmware. -/
  | tileWaveStart
  /-- R625. A tile reports its test signature to Granger, which sets its width. -/
  | tileSignature (t : Nat) (badCols : Word) (bad : Bool)
  /-- R625. A tile not reporting within 10 ms of its wave start gets width 0. -/
  | waveTimeout (w : Nat)
  /-- R627. Granger builds the capability table, enables the tick and ring engines and sets ready. -/
  | capabilityBuild
  /-- R630. A tile's firmware image arrives and the tile enters firmware at 0x0000. -/
  | tileFirmwareFetched (t : Nat) (image : List Byte)
  /-- R633. A killed task's report is sent at the 2 ms limit. -/
  | resetDrainLate (t : Nat)
  /-- R642. Setting a BUP_PARK bit parks a cluster. -/
  | clusterPark (a : Agent) (c : Nat)
  /-- R642. Clearing a BUP_PARK bit wakes a parked cluster. -/
  | clusterWake (a : Agent) (c : Nat)
  /-- R643. Writing BUP_DEEP.enter places the module in deep idle. -/
  | deepIdleEnter (a : Agent)
  /-- R644. Writing BUP_DEEP.exit ends deep idle. -/
  | deepIdleExit (cause : WakeCause)
  /-- R648. A write to BUP_BOOT_CFG stores the memory-test choice in flash. -/
  | bootCfgWrite (a : Agent) (v : Word)
  /-- R649. Writing 1 zeroes the bring-up counters. -/
  | bupClear (a : Agent)
  /-- R641. A restarted Granger re-reads every unit, rewrites the table and posts GRANGER_RESTARTED. -/
  | grangerReturn
  /-- R657. In a guard window, an idle tile runs a self-test slice and Granger compares the signatures. -/
  | selftestSlice (t : Nat) (steps : List Bool)
  /-- R661. Writing HLT_ST_REQ.go queues an out-of-turn self-test. -/
  | selftestRequest (a : Agent) (cluster : Bool) (target : Nat)
  /-- R663. A tile's oldest untested step passing overdue_h is flagged and posted. -/
  | selftestOverdue (t : Nat)
  /-- R664. In a guard window, Granger tests one cluster's worth of transit checkers. -/
  | serviceCheckerTest (bad : List Checked)
  /-- R665. Granger reads every router's parity count each second. -/
  | parityPoll
  /-- R666. Every millisecond Granger samples path replicas and ring oscillators. -/
  | ageingSample (slacks : List Int)
  /-- R667. Every replan_h hours, or on slack below floor, Granger re-plans core voltages. -/
  | marginReplan
  /-- R668. A planned voltage or frequency change is applied in a free guard window. -/
  | marginApply (d : Nat)
  /-- R668. A change deferred for defer_min minutes posts MARGIN_DEFERRED. -/
  | marginDeferTimeout (d : Nat)
  /-- R670. The core clock moves to the safe source and the PLL is reprogrammed. -/
  | clockChange
  /-- R670. Once the PLL holds lock, the core clock returns to it at the new frequency. -/
  | pllLock
  /-- R689. Writing HLT_EVC_CFG.clr zeroes a counter and clears sat. -/
  | evcClear (a : Agent) (k : Nat)
  /-- R688. Writing 1 zeroes the health counters. -/
  | hltClear (a : Agent)
  /-- R680. Every poll_us Granger polls each unit's state against its copy. -/
  | grangerPoll
  /-- R696. Writing 1 zeroes the Granger counters. -/
  | grgClear (a : Agent)
  /-- R43. A set-up register write without its own row is applied or refused under the stopped-unit and field rules. -/
  | registerWrite (a : Agent) (off : Nat) (wide : Bool) (v : DWord)
  /-- R482. A lane with a signal finishes equaliser adaptation and its clock recovery locks, moving the port from Adapt to Align (and relocking in a fast retrain, R490). -/
  | clockRecoveryLock (q : Nat) (l : Nat)
  /-- R503. A host port's PCIe link finishes training or returns after a link-down, updating HST_STATUS width and rate. -/
  | hostLinkUp (d : Nat) (width : BitVec 2) (rate : BitVec 3)
  /-- R639. Granger finishes writing and reading back the unselected flash slot of a FW_UPDATE, selects it and completes the command. -/
  | fwSlotSelected
  /-- R403. After 1 s of deferred re-centring of a pseudo-channel, Granger posts RECENTRE_OVERDUE. -/
  | recentreOverdue (stk : Nat) (c : Nat)
  /-- R682. The board programs the small flash through the MG_SPI target while BUP_STATUS.fail_code is 1. -/
  | boardRecovery (target : Nat) (slot : Bool) (ver : BitVec 16)
deriving DecidableEq, Repr

end Sys2Proof
end

