-- ==== Sys2Proof/Decode.lean ====
section
/-! DEFINITION. The command that a table word spells. -/
namespace Sys2Proof

/-- No row of spec/opcode_table.json gives a bit pattern: a command is an event at the block's boundary, named with its
operands, and a tile instruction's word stands in the tile's instruction store, where the command's meaning reads it. So no
word spells a command (DESIGN CHOICE, log entry 2). -/
def decodeTableWord (_nbits _w : Nat) : Option Instr := none

end Sys2Proof
end

