-- ==== Sys2Proof/Machine/Flags.lean ====
section
/-!
DEFINITION. The seven sticky flags of a task (03 R116) as the bits of one vector, and the raising of one on a condition. Which
operation raises which flag stands beside the operation itself, in Numerics.lean.
-/
namespace Sys2Proof.Machine

/-- The seven sticky flags of R116, bit 0 first. -/
abbrev Flags := BitVec 7

def fINVALID : Flags := 1
def fOVERFLOW : Flags := 2
def fUNDERFLOW : Flags := 4
def fINEXACT : Flags := 8
def fSAT : Flags := 16
def fDENORM : Flags := 32
def fNAR : Flags := 64

/-- A flag raised on a condition. -/
def fif (c : Bool) (f : Flags) : Flags := if c then f else 0

end Sys2Proof.Machine
end

