-- ==== Sys2Proof/Machine/Numerics.lean ====
section
/-!
DEFINITION. Number formats and numeric behaviour (03 R84 to R119): the rounding routine, the log tables, the
conversions, the array product and the A40 add, the drain and the histogram bins. A value is a Nat that holds the
format's bits; every function that raises flags answers them beside its result.
-/
namespace Sys2Proof.Machine

/-! ### The fixed tables (R99) -/

/-- T[f] = round(128 · log2(1 + f/128)) (R99). -/
def tabT : List Nat :=
  [0, 1, 3, 4, 6, 7, 8, 10, 11, 13, 14, 15, 17, 18, 19, 20] ++
  [22, 23, 24, 26, 27, 28, 29, 31, 32, 33, 34, 35, 37, 38, 39, 40] ++
  [41, 42, 44, 45, 46, 47, 48, 49, 50, 51, 52, 53, 55, 56, 57, 58] ++
  [59, 60, 61, 62, 63, 64, 65, 66, 67, 68, 69, 70, 71, 72, 73, 74] ++
  [75, 76, 77, 78, 79, 80, 81, 81, 82, 83, 84, 85, 86, 87, 88, 89] ++
  [90, 91, 91, 92, 93, 94, 95, 96, 97, 97, 98, 99, 100, 101, 102, 103] ++
  [103, 104, 105, 106, 107, 107, 108, 109, 110, 111, 111, 112, 113, 114, 115, 115] ++
  [116, 117, 118, 118, 119, 120, 121, 121, 122, 123, 124, 124, 125, 126, 127, 127]

/-- U[k] = round(128 · (2^(k/128) − 1)) (R99). -/
def tabU : List Nat :=
  [0, 1, 1, 2, 3, 4, 4, 5, 6, 6, 7, 8, 9, 9, 10, 11] ++
  [12, 12, 13, 14, 15, 15, 16, 17, 18, 19, 19, 20, 21, 22, 23, 23] ++
  [24, 25, 26, 27, 28, 28, 29, 30, 31, 32, 33, 34, 34, 35, 36, 37] ++
  [38, 39, 40, 41, 42, 43, 43, 44, 45, 46, 47, 48, 49, 50, 51, 52] ++
  [53, 54, 55, 56, 57, 58, 59, 60, 61, 62, 63, 64, 65, 66, 67, 68] ++
  [69, 70, 72, 73, 74, 75, 76, 77, 78, 79, 80, 82, 83, 84, 85, 86] ++
  [87, 88, 90, 91, 92, 93, 94, 96, 97, 98, 99, 100, 102, 103, 104, 105] ++
  [107, 108, 109, 111, 112, 113, 115, 116, 117, 118, 120, 121, 123, 124, 125, 127]

/-- T8[f] = round(8 · log2(1 + f/128)) (R99). -/
def tabT8 : List Nat :=
  [0, 0, 0, 0, 0, 0, 1, 1, 1, 1, 1, 1, 1, 1, 1, 1] ++
  [1, 1, 2, 2, 2, 2, 2, 2, 2, 2, 2, 2, 2, 2, 2, 3] ++
  [3, 3, 3, 3, 3, 3, 3, 3, 3, 3, 3, 3, 3, 3, 4, 4] ++
  [4, 4, 4, 4, 4, 4, 4, 4, 4, 4, 4, 4, 4, 4, 5, 5] ++
  [5, 5, 5, 5, 5, 5, 5, 5, 5, 5, 5, 5, 5, 5, 5, 6] ++
  [6, 6, 6, 6, 6, 6, 6, 6, 6, 6, 6, 6, 6, 6, 6, 6] ++
  [6, 7, 7, 7, 7, 7, 7, 7, 7, 7, 7, 7, 7, 7, 7, 7] ++
  [7, 7, 7, 7, 7, 7, 8, 8, 8, 8, 8, 8, 8, 8, 8, 8]

/-- U8[k] = round(128 · (2^(k/8) − 1)) (R99). -/
def tabU8 : List Nat :=
  [0, 12, 24, 38, 53, 69, 87, 107]

/-- S16[k] = round(2^(k/128) · 2^24) (R99). -/
def tabS16 : List Nat :=
  [16777216, 16868315, 16959908, 17051999, 17144589, 17237683, 17331282, 17425389] ++
  [17520007, 17615139, 17710787, 17806955, 17903645, 18000860, 18098603, 18196877] ++
  [18295684, 18395028, 18494911, 18595336, 18696307, 18797826, 18899897, 19002521] ++
  [19105703, 19209445, 19313750, 19418622, 19524063, 19630077, 19736666, 19843835] ++
  [19951585, 20059920, 20168843, 20278358, 20388467, 20499175, 20610483, 20722396] ++
  [20834917, 20948048, 21061794, 21176158, 21291142, 21406751, 21522987, 21639855] ++
  [21757357, 21875498, 21994279, 22113706, 22233781, 22354509, 22475891, 22597933] ++
  [22720638, 22844009, 22968049, 23092764, 23218155, 23344227, 23470984, 23598429] ++
  [23726566, 23855399, 23984932, 24115168, 24246111, 24377765, 24510133, 24643221] ++
  [24777031, 24911568, 25046835, 25182837, 25319578, 25457060, 25595290, 25734270] ++
  [25874004, 26014497, 26155754, 26297777, 26440571, 26584141, 26728490, 26873623] ++
  [27019544, 27166258, 27313768, 27462079, 27611195, 27761121, 27911861, 28063420] ++
  [28215802, 28369011, 28523052, 28677929, 28833647, 28990211, 29147625, 29305894] ++
  [29465022, 29625014, 29785875, 29947609, 30110222, 30273717, 30438101, 30603377] ++
  [30769550, 30936625, 31104608, 31273503, 31443315, 31614049, 31785710, 31958304] ++
  [32131834, 32306307, 32481727, 32658099, 32835430, 33013723, 33192984, 33373219]

/-- S8[k] = round(2^(k/8) · 2^24) (R99). -/
def tabS8 : List Nat :=
  [16777216, 18295684, 19951585, 21757357, 23726566, 25874004, 28215802, 30769550]


/-- Entry of a table. -/
def tab (t : List Nat) (i : Nat) : Nat := t.getD i 0

/-! ### Rounding (R96 to R98) -/

/-- Rounding modes of R96. -/
def RNE : Nat := 0
def RTZ : Nat := 1
def RUP : Nat := 2
def RDN : Nat := 3
def SR : Nat := 4

/-- The routine of R97: `sig` has bit 62 set, the exact value is (−1)^s · sig · 2^(e−62). -/
def roundSig (s : Bool) (e : Int) (sig : Nat) (sticky : Bool) (p mode rnd : Nat) : Nat × Flags :=
  let tiny := decide (e < -126)
  let drop0 : Nat := 63 - p + (if tiny then (-126 - e).toNat else 0)
  let big := decide (63 < drop0)
  let sticky := sticky || (big && sig != 0)
  let sig := if big then 0 else sig
  let drop := if big then 63 else drop0
  let q := sig >>> drop
  let rem := sig % 2 ^ drop
  let half := 2 ^ (drop - 1)
  let lost := rem != 0 || sticky
  let up : Nat :=
    if mode = 0 then (if half < rem || (rem == half && (sticky || q % 2 == 1)) then 1 else 0)
    else if mode = 2 then (if lost && !s then 1 else 0)
    else if mode = 3 then (if lost && s then 1 else 0)
    else if mode = 4 then ((rem * 2 ^ 16 / 2 ^ drop) + rnd) / 2 ^ 16
    else 0
  let q := q + up
  let mag := if tiny then q else (e + 126).toNat * 2 ^ (p - 1) + q
  let inf := 255 * 2 ^ (p - 1)
  let ovf := decide (inf ≤ mag)
  let toInf := mode == 0 || mode == 4 || (mode == 2 && !s) || (mode == 3 && s)
  let mag := if ovf then (if toInf then inf else inf - 1) else mag
  ((if s then 2 ^ (p + 7) else 0) + mag,
    fif lost fINEXACT ||| fif (tiny && lost) fUNDERFLOW ||| fif ovf (fOVERFLOW ||| fINEXACT))

/-- R97 for the exact non-zero value (−1)^s · m · 2^x: bring the leading one to bit 62 and round. -/
def roundW (s : Bool) (m : Nat) (x : Int) (p mode rnd : Nat) : Nat × Flags :=
  let l := Nat.log2 m
  let e : Int := x + l
  if l ≤ 62 then roundSig s e (m * 2 ^ (62 - l)) false p mode rnd
  else roundSig s e (m / 2 ^ (l - 62)) (m % 2 ^ (l - 62) != 0) p mode rnd

/-! ### W16 and W32 (R85 to R87), with p = 8 or 24 significant bits -/

/-- The class of a W value. A finite non-zero value is (−1)^neg · m · 2^x. -/
inductive WVal where
  | zero (neg : Bool)
  | fin (neg : Bool) (m : Nat) (x : Int) (sub : Bool)
  | inf (neg : Bool)
  | nan (sig : Bool)
deriving DecidableEq, Repr

/-- Classify the bits of a W16 (p = 8) or W32 (p = 24) value. -/
def wDecode (p w : Nat) : WVal :=
  let neg := w / 2 ^ (p + 7) % 2 == 1
  let e := w / 2 ^ (p - 1) % 256
  let f := w % 2 ^ (p - 1)
  if e = 255 then (if f = 0 then .inf neg else .nan (f / 2 ^ (p - 2) % 2 == 0))
  else if e = 0 then (if f = 0 then .zero neg else .fin neg f (-125 - (p : Int)) true)
  else .fin neg (2 ^ (p - 1) + f) ((e : Int) - 126 - p) false

/-- The canonical NaN (R87). -/
def qnan (p : Nat) : Nat := 255 * 2 ^ (p - 1) + 2 ^ (p - 2)
/-- A signed infinity. -/
def wInf (p : Nat) (neg : Bool) : Nat := (if neg then 2 ^ (p + 7) else 0) + 255 * 2 ^ (p - 1)
/-- A signed zero. -/
def wZero (p : Nat) (neg : Bool) : Nat := if neg then 2 ^ (p + 7) else 0
/-- DENORM_IN for a consumed subnormal, INVALID for a consumed signalling NaN (R109). -/
def wFlags : WVal → Flags
  | .fin _ _ _ true => fDENORM
  | .nan true => fINVALID
  | _ => 0
def isNan : WVal → Bool
  | .nan _ => true
  | _ => false

/-- The exact sum of two dyadic numbers ±m·2^x as a signed integer times a power of two. -/
def dyAdd (a : Int) (x : Int) (b : Int) (y : Int) : Int × Int :=
  let z := min x y
  (a * 2 ^ (x - z).toNat + b * 2 ^ (y - z).toNat, z)

def sgn (neg : Bool) (m : Nat) : Int := if neg then -(m : Int) else m

/-- Round a signed dyadic; an exact zero takes the sign R108 gives. -/
def roundDy (v : Int × Int) (zeroNeg : Bool) (p mode rnd : Nat) : Nat × Flags :=
  if v.1 = 0 then (wZero p zeroNeg, 0)
  else roundW (decide (v.1 < 0)) v.1.natAbs v.2 p mode rnd

/-- The sum of two values, rounded once into p bits (R107 to R109). `flags` holds those of consuming operands. -/
def wAddV (a b : WVal) (p mode rnd : Nat) : Nat × Flags :=
  match a, b with
  | .nan _, _ => (qnan p, 0)
  | _, .nan _ => (qnan p, 0)
  | .inf s, .inf t => if s = t then (wInf p s, 0) else (qnan p, fINVALID)
  | .inf s, _ => (wInf p s, 0)
  | _, .inf t => (wInf p t, 0)
  | .zero s, .zero t => (wZero p (if s = t then s else mode == 3), 0)
  | .zero _, .fin t m x _ => roundW t m x p mode rnd
  | .fin s m x _, .zero _ => roundW s m x p mode rnd
  | .fin s m x _, .fin t n y _ => roundDy (dyAdd (sgn s m) x (sgn t n) y) (mode == 3) p mode rnd

/-- The exact product of two values, as a value (a finite product is exact, whatever its range: R107). -/
def wMulV (a b : WVal) : WVal × Flags :=
  match a, b with
  | .nan _, _ => (.nan false, 0)
  | _, .nan _ => (.nan false, 0)
  | .inf _, .zero _ => (.nan false, fINVALID)
  | .zero _, .inf _ => (.nan false, fINVALID)
  | .inf s, .inf t => (.inf (xor s t), 0)
  | .inf s, .fin t _ _ _ => (.inf (xor s t), 0)
  | .fin s _ _ _, .inf t => (.inf (xor s t), 0)
  | .zero s, .zero t => (.zero (xor s t), 0)
  | .zero s, .fin t _ _ _ => (.zero (xor s t), 0)
  | .fin s _ _ _, .zero t => (.zero (xor s t), 0)
  | .fin s m x _, .fin t n y _ => (.fin (xor s t) (m * n) (x + y) false, 0)

/-- Round an exact value into p bits. -/
def roundV (a : WVal) (p mode rnd : Nat) : Nat × Flags :=
  match a with
  | .nan _ => (qnan p, 0)
  | .inf s => (wInf p s, 0)
  | .zero s => (wZero p s, 0)
  | .fin s m x _ => roundW s m x p mode rnd

/-- Negate a value's sign (a NaN has none). -/
def wNegV : WVal → WVal
  | .zero s => .zero (!s)
  | .fin s m x b => .fin (!s) m x b
  | .inf s => .inf (!s)
  | .nan q => .nan q

/-- Add operands with pa and pb bits into p bits (R107, R109). -/
def wAdd (pa a pb b p mode rnd : Nat) : Nat × Flags :=
  let x := wDecode pa a
  let y := wDecode pb b
  let r := wAddV x y p mode rnd
  (r.1, r.2 ||| wFlags x ||| wFlags y)

/-- Subtract. -/
def wSub (pa a pb b p mode rnd : Nat) : Nat × Flags :=
  let x := wDecode pa a
  let y := wDecode pb b
  let r := wAddV x (wNegV y) p mode rnd
  (r.1, r.2 ||| wFlags x ||| wFlags y)

/-- Multiply. -/
def wMul (pa a pb b p mode rnd : Nat) : Nat × Flags :=
  let x := wDecode pa a
  let y := wDecode pb b
  let m := wMulV x y
  let r := roundV m.1 p mode rnd
  (r.1, r.2 ||| m.2 ||| wFlags x ||| wFlags y)

/-- Fused multiply-add a·b + c, rounded once (R107, R108). -/
def wFma (pa a pb b pc c p mode rnd : Nat) : Nat × Flags :=
  let x := wDecode pa a
  let y := wDecode pb b
  let z := wDecode pc c
  let m := wMulV x y
  let r := wAddV m.1 z p mode rnd
  (r.1, r.2 ||| m.2 ||| wFlags x ||| wFlags y ||| wFlags z)

/-- W32 to W16 and W16 to W32 (R101), of whose NaNs only a signalling one raises INVALID. DEDUCED: log entry 134. -/
def wConv (pa a p mode rnd : Nat) : Nat × Flags :=
  let x := wDecode pa a
  let r := roundV x p mode rnd
  (r.1, r.2 ||| wFlags x)

/-! ### L16 and L8 conversions (R102 to R105) -/

/-- Normalise a finite non-zero W16: its E and 7-bit fraction (R102). -/
def w16Norm (w : Nat) : Int × Nat :=
  let e := w / 128 % 256
  let f := w % 128
  if e = 0 then ((Nat.log2 f : Int) - 133, f * 2 ^ (7 - Nat.log2 f) % 128) else ((e : Int) - 127, f)

def w16ToL16 (w : Nat) : Nat × Flags :=
  let s := w / 32768 % 2
  match wDecode 8 w with
  | .nan sig => (0x8000, fif sig fINVALID ||| fNAR)
  | .inf _ => (s * 32768 + 0x7fff, 0)
  | .zero _ => (0, 0)
  | .fin _ _ _ sub =>
    let (E, f) := w16Norm w
    let m : Int := 128 * E + tab tabT f + 16400
    let fl := fif sub fDENORM ||| fif (f != 0) fINEXACT
    if 32766 < m then (s * 32768 + 0x7ffe, fl ||| fSAT ||| fINEXACT)
    else if m < 1 then (0, fl ||| fUNDERFLOW ||| fINEXACT)
    else (s * 32768 + m.toNat, fl)

def l16ToW (l p mode rnd : Nat) : Nat × Flags :=
  let s := l / 32768 % 2 == 1
  let m := l % 32768
  if m = 0 then (if s then (qnan p, fINVALID) else (0, 0))
  else if m = 32767 then (wInf p s, 0)
  else
    let L : Int := (m : Int) - 16400
    let E := L / 128
    let k := (L % 128).toNat
    let r := roundW s (128 + tab tabU k) (E - 7) p mode rnd
    (r.1, r.2 ||| fif (k != 0) fINEXACT ||| fif (k != 0 && decide (E < -126)) fUNDERFLOW)

/-- lw of R104: the log of |w| in eighths. -/
def w16Log8 (w : Nat) : Int := 8 * (w16Norm w).1 + tab tabT8 (w16Norm w).2

def isFinNZ (w : Nat) : Bool :=
  match wDecode 8 w with
  | .fin _ _ _ _ => true
  | _ => false

def isZeroW (p w : Nat) : Bool :=
  match wDecode p w with
  | .zero _ => true
  | _ => false

/-- auto_b of R104, with the sentence after it: an empty block that holds NaNs or infinities gets b = 1. -/
def autoB (blk : List Nat) : Nat :=
  match (blk.filter isFinNZ).map w16Log8 with
  | [] => if blk.all (isZeroW 8) then 0 else 1
  | l :: ls =>
    let b : Int := 127 + (ls.foldl max l - 31 + 7) / 8
    (max 1 (min 254 b)).toNat

/-- w16_to_l8 of R104, for b in 1 to 254. -/
def w16ToL8 (w b : Nat) : Nat × Flags :=
  let s := w / 32768 % 2
  match wDecode 8 w with
  | .zero _ => (0, 0)
  | .nan sig => (0x80, fif sig fINVALID ||| fNAR)
  | .inf _ => (s * 128 + 127, fSAT ||| fINEXACT)
  | .fin _ _ _ sub =>
    let m : Int := w16Log8 w - 8 * ((b : Int) - 127) + 96
    let fl := fif sub fDENORM ||| fif ((w16Norm w).2 != 0) fINEXACT
    if 127 < m then (s * 128 + 127, fl ||| fSAT ||| fINEXACT)
    else if m < 1 then (0, fl ||| fUNDERFLOW ||| fINEXACT)
    else (s * 128 + m.toNat, fl)

def l8ToW16 (c b mode rnd : Nat) : Nat × Flags :=
  let s := c / 128 % 2 == 1
  let m := c % 128
  if b = 0 || (m == 0 && !s) then (0, 0)
  else if b = 255 || m = 0 then (0x7fc0, fINVALID)
  else
    let L : Int := 8 * ((b : Int) - 127) + m - 96
    let E := L / 8
    let k := (L % 8).toNat
    let r := roundW s (128 + tab tabU8 k) (E - 7) 8 mode rnd
    (r.1, r.2 ||| fif (k != 0) fINEXACT ||| fif (k != 0 && decide (E < -126)) fUNDERFLOW)

/-! ### Integers (R106) -/

/-- The integer that a W value rounds to, with "the value changed". The exact value is ±m·2^x. -/
def roundInt (neg : Bool) (m : Nat) (x : Int) (mode rnd : Nat) : Int × Bool :=
  if 0 ≤ x then (sgn neg (m * 2 ^ x.toNat), false)
  else
    let d := (-x).toNat
    let q := m / 2 ^ d
    let rem := m % 2 ^ d
    let lost := rem != 0
    let half := 2 ^ (d - 1)
    let up : Nat :=
      if mode = 0 then (if half < rem || (rem == half && q % 2 == 1) then 1 else 0)
      else if mode = 2 then (if lost && !neg then 1 else 0)
      else if mode = 3 then (if lost && neg then 1 else 0)
      else if mode = 4 then (if 2 ^ 16 ≤ rem * 2 ^ 16 / 2 ^ d + rnd then 1 else 0)
      else 0
    (sgn neg (q + up), lost)

/-- Range of an n-bit integer. -/
def intLo (signed : Bool) (n : Nat) : Int := if signed then -(2 ^ (n - 1) : Int) else 0
def intHi (signed : Bool) (n : Nat) : Int := if signed then 2 ^ (n - 1) - 1 else 2 ^ n - 1

/-- Two's complement bits of an integer. -/
def intBits (v : Int) (n : Nat) : Nat := (v % ((2 ^ n : Nat) : Int)).toNat
/-- The integer that n bits spell. -/
def bitsInt (signed : Bool) (n b : Nat) : Int :=
  let b : Nat := b % 2 ^ n
  if signed && decide (2 ^ (n - 1) ≤ b) then (b : Int) - (2 ^ n : Nat) else (b : Int)

/-- Clamp to the range; SAT when it clamps. -/
def intSat (signed : Bool) (n : Nat) (v : Int) : Nat × Flags :=
  if intHi signed n < v then (intBits (intHi signed n) n, fSAT)
  else if v < intLo signed n then (intBits (intLo signed n) n, fSAT)
  else (intBits v n, 0)

/-- Floating point to integer (R106). -/
def wToInt (pa a : Nat) (signed : Bool) (n mode rnd : Nat) : Nat × Flags :=
  let x := wDecode pa a
  match x with
  | .nan _ => (0, fINVALID)
  | .inf s => (intBits (if s then intLo signed n else intHi signed n) n, fSAT ||| fINEXACT)
  | .zero _ => (0, 0)
  | .fin s m e _ =>
    let (v, lost) := roundInt s m e mode rnd
    let r := intSat signed n v
    (r.1, wFlags x ||| fif lost fINEXACT ||| r.2 ||| fif (r.2 != 0) fINEXACT)

/-- Integer to floating point (R106). -/
def intToW (v : Int) (p mode rnd : Nat) : Nat × Flags := roundDy (v, 0) false p mode rnd

/-! ### A40 (R88, R89, R111) -/

/-- A decoded A40: zero, a finite value (−1)^neg·m·2^x, an infinity or NaR. -/
inductive AVal where
  | zero
  | fin (neg : Bool) (m : Nat) (x : Int)
  | inf (neg : Bool)
  | nar
deriving DecidableEq, Repr

def a40Nar : Nat := 0x7fe0000001
def a40Inf (neg : Bool) : Nat := (if neg then 2 ^ 39 else 0) + 1023 * 2 ^ 29

/-- Decode the 40 bits. -/
def a40Decode (a : Nat) : AVal :=
  let neg := a / 2 ^ 39 % 2 == 1
  let e : Nat := a / 2 ^ 29 % 1024
  let f : Nat := a % 2 ^ 29
  if e = 0 then .zero
  else if e = 1023 then (if f = 0 then .inf neg else .nar)
  else .fin neg (2 ^ 29 + f) ((e : Int) - 540)

/-- Read a 64-bit container: one with bits above 39 set is NaR and raises INVALID (R89). -/
def a40OfContainer (c : Nat) : Nat × Flags :=
  if c < 2 ^ 40 then (c, 0) else (a40Nar, fINVALID)

/-- Round an exact sum to A40: nearest even at 29 fraction bits; the flush of R111; overflow to infinity (R89). -/
def a40Round (v : Int × Int) : Nat × Flags :=
  if v.1 = 0 then (0, 0)
  else
    let neg := decide (v.1 < 0)
    let m := v.1.natAbs
    let l := Nat.log2 m
    -- value = m·2^x, leading bit weight l + x; keep 30 significant bits
    let q0 := if l ≤ 29 then m * 2 ^ (29 - l) else m / 2 ^ (l - 29)
    let rem := if l ≤ 29 then 0 else m % 2 ^ (l - 29)
    let half := if l ≤ 29 then 1 else 2 ^ (l - 30)
    let q := q0 + (if 29 < l && (half < rem || (rem == half && q0 % 2 == 1)) then 1 else 0)
    let e0 : Int := v.2 + l
    let e := if q = 2 ^ 30 then e0 + 1 else e0
    let f := if q = 2 ^ 30 then 0 else q - 2 ^ 29
    if e < -510 then (0, fUNDERFLOW ||| fINEXACT)
    else if 511 < e then (a40Inf neg, fOVERFLOW ||| fINEXACT)
    else ((if neg then 2 ^ 39 else 0) + (e + 511).toNat * 2 ^ 29 + f, 0)

/-- Add two decoded values (R111). -/
def a40AddV (a b : AVal) : Nat × Flags :=
  match a, b with
  | .nar, _ => (a40Nar, 0)
  | _, .nar => (a40Nar, 0)
  | .inf s, .inf t => if s = t then (a40Inf s, 0) else (a40Nar, fINVALID)
  | .inf s, _ => (a40Inf s, 0)
  | _, .inf t => (a40Inf t, 0)
  | .zero, .zero => (0, 0)
  | .zero, .fin t n y => a40Round (sgn t n, y)
  | .fin s m x, .zero => a40Round (sgn s m, x)
  | .fin s m x, .fin t n y => a40Round (dyAdd (sgn s m) x (sgn t n) y)

/-- a40_add_rne on bits. -/
def a40Add (a b : Nat) : Nat × Flags := a40AddV (a40Decode a) (a40Decode b)

/-! ### Products (R110) -/

/-- Codes of an L16 operand and of an L8 operand with its scale byte, classified (R90 to R92). -/
inductive LVal where
  | zero
  | nar
  | inf (neg : Bool)
  /-- magnitude as a log in steps of 1/128 (L16), or code m − 96 and scale b − 127 (L8) -/
  | fin16 (neg : Bool) (l : Int)
  | fin8 (neg : Bool) (c b : Int)
deriving DecidableEq, Repr

def l16Decode (l : Nat) : LVal :=
  let s := l / 32768 % 2 == 1
  let m := l % 32768
  if m = 0 then (if s then .nar else .zero) else if m = 32767 then .inf s else .fin16 s ((m : Int) - 16400)

def l8Decode (c b : Nat) : LVal :=
  let s := c / 128 % 2 == 1
  let m := c % 128
  if b = 0 then .zero else if b = 255 then .nar
  else if m = 0 then (if s then .nar else .zero) else .fin8 s ((m : Int) - 96) ((b : Int) - 127)

/-- The product of two operands of one kind, as an A40-addable value, with its flags (R110). -/
def lProduct (a w : LVal) : AVal × Flags :=
  match a, w with
  | .nar, _ => (.nar, 0)
  | _, .nar => (.nar, 0)
  | .zero, .inf _ => (.nar, fINVALID)
  | .inf _, .zero => (.nar, fINVALID)
  | .zero, _ => (.zero, 0)
  | _, .zero => (.zero, 0)
  | .inf s, .inf t => (.inf (xor s t), 0)
  | .inf s, .fin16 t _ => (.inf (xor s t), 0)
  | .inf s, .fin8 t _ _ => (.inf (xor s t), 0)
  | .fin16 s _, .inf t => (.inf (xor s t), 0)
  | .fin8 s _ _, .inf t => (.inf (xor s t), 0)
  | .fin16 s la, .fin16 t lw =>
    let ls := la + lw
    (.fin (xor s t) (tab tabS16 (ls % 128).toNat) (ls / 128 - 24), 0)
  | .fin8 s ca ba, .fin8 t cw bw =>
    let ls := ca + cw
    (.fin (xor s t) (tab tabS8 (ls % 8).toNat) (ls / 8 + ba + bw - 24), 0)
  -- operands of different kinds never meet in one product
  | .fin16 _ _, .fin8 _ _ _ => (.zero, 0)
  | .fin8 _ _ _, .fin16 _ _ => (.zero, 0)

/-- One accumulation step of R112: acc + product. -/
def macStep (acc : Nat × Flags) (a w : LVal) : Nat × Flags :=
  let p := lProduct a w
  let r := a40AddV (a40Decode acc.1) p.1
  (r.1, acc.2 ||| p.2 ||| r.2)

/-- The sum over a list of operand pairs, in its order (R112, R113). -/
def macList (acc : Nat × Flags) : List (LVal × LVal) → Nat × Flags
  | [] => acc
  | (a, w) :: rest => macList (macStep acc a w) rest

/-! ### Weight expansion (R94, R95) -/

/-- An I4 or I8 weight q of n bits with scale s (W16) and zero point z, expanded to L16 (R95). -/
def expandInt (n : Nat) (signed : Bool) (q s z : Nat) : Nat × Flags :=
  let d : Int := bitsInt signed n q - (z : Int)
  let x := wDecode 8 s
  let v : Nat × Flags :=
    match x with
    | .nan _ => (qnan 8, 0)
    | .inf t => if d = 0 then (qnan 8, fINVALID) else (wInf 8 (xor t (decide (d < 0))), 0)
    | .zero t => (wZero 8 (xor t (decide (d < 0))), 0)
    | .fin t m e _ =>
      if d = 0 then (wZero 8 t, 0) else roundW (xor t (decide (d < 0))) (m * d.natAbs) e 8 RNE 0
  let l := w16ToL16 v.1
  (l.1, v.2 ||| wFlags x ||| l.2)

/-! ### The drain and the histogram (R115, R118, R119) -/

/-- Drain an A40 into W16 (p = 8) or W32 (p = 24), with the saturate option. -/
def drainW (a p : Nat) (sat : Bool) : Nat × Flags :=
  match a40Decode a with
  | .zero => (0, 0)
  | .nar => (qnan p, fINVALID)
  | .inf s => (wInf p s, 0)
  | .fin s m x =>
    let r := roundW s m x p RNE 0
    if sat && r.1 % 2 ^ (p + 7) == 255 * 2 ^ (p - 1) then (r.1 - 1, fSAT ||| fINEXACT) else r

/-- A drained output: out 0 W16, 1 W32, 2 raw A40. -/
def drainOut (out a : Nat) (sat : Bool) : Nat × Flags :=
  if out = 0 then drainW a 8 sat else if out = 1 then drainW a 24 sat
  else (a, fif (a40Decode a == .nar) fNAR)

/-- The bin of a W value (R118). -/
def histBin (p w : Nat) : Nat :=
  match wDecode p w with
  | .zero _ => 64
  | .nan _ => 67
  | .inf _ => 66
  | .fin _ _ _ true => 65
  | .fin _ _ _ false => w / 2 ^ (p - 1) % 256 / 4

/-- The bin of a drained output (R119). -/
def drainBin (out a w : Nat) : Nat :=
  if out = 0 then histBin 8 w else if out = 1 then histBin 24 w else histBin 24 (drainW a 24 false).1

end Sys2Proof.Machine
end

