-- ==== Sys2Proof/Config.lean ====
section
/-!
DEFINITION. What the spec fixes for every part (counts and sizes), and the FREE VALUES: constants without a body, so
that nothing can be proved of the value a source leaves open.
-/
namespace Sys2Proof.Config

/-- The n-th value the spec leaves open in a run (`State.freeCount` numbers them); see notes/assumptions/1.md. -/
opaque freeValue : Nat → BitVec 64

/-- The AES-256 key that Granger's slot (2,049) holds from manufacture (13 R529): the spec gives no value. -/
opaque grangerKey : BitVec 256

/-- What the header of a firmware or configuration image of a target says: its version and its floor; none where its magic,
target or length is wrong (16 R621, R639). The spec does not give the header's layout; see notes/assumptions/1.md. -/
opaque fwHeader : Nat → List Byte → Option (BitVec 16 × BitVec 16)

/-- Tiles of a module (R20, R21). -/
def tiles : Nat := 2304

/-- Clusters of a module (R23). -/
def clusters : Nat := 144

/-- Partitions of a module (R9, R26). -/
def partitions : Nat := 64

/-- Tenants of a module (R9). -/
def tenants : Nat := 2048

/-- Bytes that a fitted stack populates (R29, R35). -/
def stackBytes : Nat := 64000000000

end Sys2Proof.Config
end

