-- ==== Sys2Proof/Machine/State.lean ====
section
/-!
DEFINITION. The state of the module as plain data: one record per unit, in the order of the spec's chapters, then
`State`, the reasons a step can stop, and `State.reset`. A map (`SMap`) lists only what differs from its unit's reset
record; looking up a key that is not listed gives that record.
-/
namespace Sys2Proof.Machine

/-- The part as ordered and as fused at the factory (R1, R2, R4, R10, R45; 04 R126). Log entry 3. -/
structure Part where
  /-- fitted stacks, numbered from 0: 4, 6 or 8 -/
  nStacks : Nat := 8
  /-- fitted I/O dies, numbered from 0: 2 or 4 -/
  nIoDies : Nat := 4
  /-- stepping B0 (false: A0) -/
  b0 : Bool := true
  /-- in-service physical columns of a tile, bit per column; fewer than 28 set: fused off. Unlisted: all 32 -/
  colMap : SMap Word := []
  /-- lanes of a fabric port that final test found good (bits 7:0 data, bit 8 spare). Unlisted: all nine -/
  lanesGood : SMap (BitVec 9) := []
  /-- pseudo-channels of a stack that are good. Unlisted: all 64 -/
  pchGood : SMap DWord := []
  /-- frame units that a lane's buffer holds at a fabric port's peer: the spec gives no number. DESIGN CHOICE: log entry 39 -/
  laneUnits : Nat := 1024
  /-- logic regions that are good -/
  regionsGood : Word := 0xFFFFFFFF#32
  /-- logic ports that are good -/
  portsGood : BitVec 384 := BitVec.allOnes 384
deriving DecidableEq, Repr

/-- What the writer of the last set-up or function-page register write was answered (R42, R43, R506). -/
inductive RegAnswer where
  | none
  | ok
  /-- bus error: refused, no effect (a host's posted write is dropped and sets HST_ERR kind 1) -/
  | busError
deriving DecidableEq, Repr

/-- TCK_STATUS.state (R55). -/
inductive TickState where
  | off | standalone | master | acquiring | locked | holdover | freeRun
deriving DecidableEq, Repr

/-- TCK_PART_CFG_p (R82). -/
structure PartTickCfg where
  group  : BitVec 4 := 0
  finish : Bool := false
  hard   : Bool := false
deriving DecidableEq, Repr

/-- Barrier state of one group (R67, R464): ticks up to which something is closed. -/
structure Barrier where
  /-- the module's own share is closed for every tick up to this one -/
  share : Nat := 0
  /-- the group is closed (on this module) for every tick up to this one -/
  closed : Nat := 0
  /-- downstream fabric port to the last tick it reported closed -/
  down : SMap Nat := []
deriving DecidableEq, Repr

/-- An edge after which some barrier group was still open (R67, R81): the time in ns from it to the last edge, and whether a
late close has counted it. -/
structure StallEdge where
  age : Nat := 0
  counted : Bool := false
deriving DecidableEq, Repr

/-- The tick unit (R48 to R83). -/
structure Tick where
  enable   : Bool := false
  role     : BitVec 2 := 0
  upstream : BitVec 5 := 0
  state    : TickState := .off
  conflict : Bool := false
  inGuard  : Bool := false
  depth    : Byte := 0
  count    : DWord := 0
  param    : TickParam := ⟨7, 250000⟩
  pendParam : Option TickParam := none
  pendTick : DWord := 0
  offset   : BitVec 16 := 0
  limitM1  : BitVec 12 := 63
  stalls   : BitVec 48 := 0
  maxStall : Word := 0
  cfg      : SMap PartTickCfg := []
  miss     : SMap (BitVec 48) := []
  barriers : SMap Barrier := []
  /-- edges, by their number, whose barriers are not all closed (R67) -/
  stallEdges : SMap StallEdge := []
  /-- edges that skipped numbers (R56, R58): the number taken, to the number before it -/
  skips : SMap Nat := []
  /-- a follower in Acquiring that has adopted a marker (R56), and its run of good markers -/
  adopted  : Bool := false
  goodRun  : Nat := 0
  /-- consecutive ticks without a marker, in Holdover (R57) -/
  missed   : Nat := 0
  /-- a marker was accepted for the current tick -/
  markerSeen : Bool := false
  /-- Granger has posted ROW_DISTURB_OVERRUN in the current tick (R401) -/
  overPosted : Bool := false
deriving DecidableEq, Repr

/-- A partition: its clusters, its logic regions and the tenant that holds it (R26, R27, R534, R535). -/
structure PartRec where
  clusters : BitVec 144 := 0
  regions  : Word := 0
  tenant   : Option Nat := none
deriving DecidableEq, Repr

/-- The capability table as Granger last built it (R45). -/
structure CapTable where
  built      : Bool := false
  generation : Word := 0
  crc        : Word := 0
  tileWidth  : SMap Byte := []
  enabledTiles : BitVec 16 := 0
  enabledColumns : Word := 0
  regions    : Word := 0
  ports      : BitVec 384 := 0
  lanes      : SMap (BitVec 9) := []
  portsFitted : Word := 0
  portsRunning : Word := 0
  pch        : SMap DWord := []
deriving DecidableEq, Repr

/-- State of a hardware thread (R243). -/
inductive ThState where
  | off | ready | active | miss | unit | sync | held | firmware
deriving DecidableEq, Repr

/-- Why an instruction has not issued yet; it issues again, unchanged, when the reason is gone (R245, R287, R327, R329,
R332, R336). -/
inductive Why where
  | arrQ
  | mvpQ
  /-- no operation tag is free -/
  | tag
  /-- the class of a space-1 access has no share of the injection port (R295 to R297) -/
  | share (cls : Nat)
  /-- a translation is on its way -/
  | xlate (va : DWord)
  /-- pushed halves of a slot are still to be issued (SREARM, SSTOP), or its writes to be acknowledged (SFLUSH) -/
  | issued (slot : Nat)
  | flushed (slot : Nat)
  | predQ
  | chkQ
  /-- WWAIT: the predicted mask (fn 0) or the resolution (fn 1) of a ticket -/
  | ticket (k : Nat) (fn : Bool)
  /-- WTENT: the slot is tentative under another ticket -/
  | tent (slot : Nat)
  /-- WPEEK: the next undelivered half has not arrived; the taint list is full -/
  | peek (slot : Nat)
  | taintFull
deriving DecidableEq, Repr

/-- What a thread in Unit, Sync or Held waits for (R239, R240, R245, R246, R287, R328, R336). -/
inductive Wait where
  | none
  /-- FENCE: release half, acquire half -/
  | fence (release acquire : Bool)
  /-- SWAIT: semaphore and amount (the order is the tile's `semOrder`) -/
  | sem (n : Nat) (amount : Nat)
  /-- TWAIT 0 and 1: the next tick edge, the next guard-start edge -/
  | tickEdge
  | guardEdge
  /-- TWAIT 2: until TCK_COUNT reaches the value -/
  | tickCount (n : DWord)
  /-- ABAR and MBAR: entries ahead of it that have not completed -/
  | abar (n : Nat)
  | mbar (n : Nat)
  /-- the instruction at the pc has not issued -/
  | retry (why : Why)
  /-- the Hard barrier holds the access at the pc (R246) -/
  | barrier
  /-- SWAITB waits for the next half of a slot, to be written to register gd (R285) -/
  | half (slot gd : Nat)
  /-- a tainted thread at an instruction it may not issue (R337) -/
  | taint
deriving DecidableEq, Repr

/-- An address generator (R192). -/
structure AddrGen where
  base   : BitVec 21 := 0
  stride : BitVec 21 := 0
  idx    : BitVec 24 := 0
  inc    : BitVec 24 := 0
  mode   : Bool := false
  n      : BitVec 5 := 24
  shift  : BitVec 5 := 0
  fw     : BitVec 5 := 24
deriving DecidableEq, Repr

/-- A load or value-returning atomic that a thread waits for (R236). -/
structure Miss where
  gd   : Nat
  size : Nat
  sext : Bool
  addr : DWord
  /-- offset of the instruction -/
  pc   : DWord := 0
  /-- the answer, once it has arrived: status, data, and whether data or answer was damaged beyond repair -/
  ans  : Option (Status × List Byte × Bool) := none
deriving DecidableEq, Repr

/-- A thread (R228). A general or vector register that is not listed holds 0. -/
structure Thread where
  st    : ThState := .off
  pc    : DWord := 0
  g     : SMap DWord := []
  p     : Byte := 0
  v     : SMap Lanes := []
  ag    : SMap AddrGen := []
  wait  : Wait := .none
  miss  : Option Miss := none
  /-- open speculation: restart pc (R336) -/
  spec  : Option DWord := none
  /-- held halves (slot, half) that the thread has peeked at (R336) -/
  taint : List (Nat × Nat) := []
  /-- flags raised while tainted (R339), and a squash that waits for the thread's REP to end (R338) -/
  specFlags : BitVec 7 := 0
  redirect : Bool := false
deriving DecidableEq, Repr

/-- A launch message (R247). -/
structure Launch where
  ioDie  : Nat := 0
  ring   : Nat := 0
  seq    : Nat := 0
  tenant : Nat := 0
  part   : Nat := 0
  epoch  : Byte := 0
  start  : DWord := 0
  span   : Nat := 1
  mask   : Byte := 1
  entry  : BitVec 16 := 0x2000
  args   : List DWord := []
  progAddr : DWord := 0
  progLen  : Nat := 8
  progTag  : DWord := 0
  ctxAddr  : DWord := 0
  ctxVa    : Bool := false
  load   : Bool := false
  save   : Bool := false
  keep   : Bool := false
deriving DecidableEq, Repr

/-- A task on its tile: preparing, running, or ending with a code (R250, R254 to R257). -/
inductive Phase where
  | preparing | running | ending
deriving DecidableEq, Repr

/-- The running task. -/
structure Task where
  launch : Launch
  phase  : Phase := .preparing
  code   : Nat := 0
  second : Bool := false
  fThread : Nat := 0
  fUnit  : Nat := 0
  fPc    : BitVec 16 := 0
  fAddr  : DWord := 0
  /-- origin of a STREAM_ABORT (R293) -/
  origin : Nat := 0
  originCode : Nat := 0
  missed : Bool := false
  lateEdges : Nat := 0
  /-- the context load (or the start without one) completed (R258) -/
  loaded : Bool := false
  /-- partition epoch held when the task started (R602) -/
  epoch  : Byte := 0
  /-- slot on which the task's fault arose (R312) -/
  faultSlot : Option Nat := none
  /-- ABORT and CLOSE tokens have been sent (R310 step 4) -/
  tokensSent : Bool := false
  /-- the context save: not begun, its writes issued, done; it failed (R257, R258) -/
  ctxPhase : Nat := 0
  ctxFail : Bool := false
deriving DecidableEq, Repr

/-- State of a stream slot (R271). -/
inductive SlotState where
  | idle | active | done | closed
deriving DecidableEq, Repr

/-- State of a buffer half (R278). -/
inductive HalfState where
  | engine | ready | taken | free
deriving DecidableEq, Repr

/-- An armed stream descriptor (R272). -/
structure Desc where
  base  : DWord := 0
  dir   : Nat := 0
  persistent : Bool := false
  rt    : Bool := false
  esz   : Nat := 2
  ndimsM1 : Nat := 0
  peerSlot : Nat := 0
  peerTile : Nat := 0
  buf   : Nat := 0
  half  : Nat := 1
  counts : List Nat := []
  strides : List (BitVec 48) := []
  sid   : BitVec 16 := 0
deriving DecidableEq, Repr

/-- One half of a slot's buffer. -/
structure Half where
  st    : HalfState := .engine
  /-- group of elements the half carries (R277); bytes that are due (input; 0: no group) or were pushed (output) -/
  group : Nat := 0
  bytes : Nat := 0
  /-- input: bytes that have arrived clean or hold a fault -/
  count : Nat := 0
  /-- a request for it was issued (R298) -/
  begun : Bool := false
  /-- thread that pushed it (R300) -/
  thr   : Nat := 0
  /-- linked input: a tentative half that arrived clean and is held, and the producer's tag that waits for it (R334, R335) -/
  held  : Bool := false
  tag   : Nat := 0
  uid   : Nat := 0
  /-- linked output: pushed in tentative mode -/
  tent  : Bool := false
deriving DecidableEq, Repr

/-- A fault that an input slot holds for an element (R309): element, STR_ERR cause, end code, address. -/
structure SlotFault where
  elem  : Nat
  cause : Nat
  code  : Nat
  addr  : DWord
deriving DecidableEq, Repr

/-- A credit that reached a slot which was not armed (DESIGN CHOICE, log entry 14): its sender's tile and slot, the half size that it
names, tenant and epoch. -/
structure Credit where
  tile   : Nat
  slot   : Nat
  n      : Nat
  half   : Nat
  tenant : Nat
  epoch  : Byte
deriving DecidableEq, Repr

/-- A cached leaf translation (R304, R306). -/
structure Leaf where
  tenant : Nat
  /-- virtual page number at the page's own size: va / size -/
  vpn  : Nat
  /-- log2 of the page size: 16, 21 or 30 -/
  log2 : Nat
  /-- the leaf entry -/
  entry : DWord
deriving DecidableEq, Repr

/-- A stream slot (R269 to R294, R332 to R334). -/
structure Slot where
  st    : SlotState := .idle
  d     : Desc := {}
  h0    : Half := {}
  h1    : Half := {}
  /-- half that SWAITB acts on next, half that SREL or SPUSH acts on next -/
  takeHalf : Nat := 0
  relHalf  : Nat := 0
  /-- input: next group to fill -/
  nextGroup : Nat := 0
  /-- next element to request (input) or to issue (output), and bytes of it already requested -/
  nextReq : Nat := 0
  reqOff  : Nat := 0
  /-- translation of the element that is partly requested (R275, R307, R311) -/
  leaf  : Option Leaf := none
  /-- input: next element to deliver -/
  nextDel : Nat := 0
  use   : Word := 0
  /-- the model's own: armings of the slot in this task, which tell the writes of one from those of another -/
  arming : Nat := 0
  credits : Nat := 0
  /-- halves delivered since the slot was armed -/
  delivered : Nat := 0
  faults : List SlotFault := []
  refused : Bool := false
  vaLo  : DWord := 0
  vaHi  : DWord := 0
  /-- threads waiting in SWAITB, oldest first, with the register each writes -/
  waiters : List (Nat × Nat) := []
  /-- linked slot closed short (R293, R294): SWAITB reports failed -/
  failed : Bool := false
  /-- linked output: the ticket of tentative mode; group of the first tentative half; tentative halves
  sent since the mode began (R332, R333) -/
  ticket : Option Nat := none
  tentGroup : Option Nat := none
  tentSent : Nat := 0
  /-- a translation that the slot waits for is outstanding (R306) -/
  xlate : Bool := false
  early : List Credit := []
deriving DecidableEq, Repr

/-- The stream engine of a tile. -/
structure Stream where
  slots : SMap Slot := []
  split : Word := 0x00040606
  /-- credit of each class, 0 read, 1 write, 2 remote (R297), and the slot whose turn it is (R295) -/
  cr    : SMap Nat := []
  rr    : Nat := 0
  err   : DWord := 0
  errAddr : DWord := 0
  ctr   : SMap (BitVec 48) := []
  /-- translation cache, most recently used first (64 leaves, R306) -/
  tlb   : List Leaf := []
deriving DecidableEq, Repr

/-- Progress of a ticket (R326 to R329). -/
inductive TicketState where
  | free | open | resolved
deriving DecidableEq, Repr

/-- A Winnow ticket. -/
structure Ticket where
  st    : TicketState := .free
  nb    : Nat := 0
  predDone : Bool := false
  chkQueued : Bool := false
  fail  : Bool := false
  ended : Bool := false
  pred  : BitVec 256 := 0
  chk   : BitVec 256 := 0
  repair : BitVec 256 := 0
deriving DecidableEq, Repr

/-- A queued job: its ticket and the loft offset of its descriptor, and the thread that queued it. -/
structure WinJob where
  ticket : Nat
  off    : Nat
  thr    : Nat := 0
  /-- offset of the instruction that queued it -/
  pc     : DWord := 0
  /-- nb and the bytes of the descriptor, read when the job starts (R322) -/
  nb     : Nat := 0
  desc   : List Byte := []
deriving DecidableEq, Repr

/-- The Winnow unit of a tile (R320 to R352). -/
structure Winnow where
  tickets : SMap Ticket := []
  predQ  : List WinJob := []
  chkQ   : List WinJob := []
  /-- jobs that have started -/
  predRun : Option WinJob := none
  chkRun  : Option WinJob := none
  err    : DWord := 0
  ctr    : SMap (BitVec 48) := []
deriving DecidableEq, Repr

/-- A router port: the router of a tile ID, and the port number (R356, R357). -/
structure Endpoint where
  router : Nat
  port   : Nat
deriving DecidableEq, Repr

/-- Packet opcodes (R361); the control kinds are told apart by the message. -/
inductive PktOp where
  | read | write | atomic | mcastWrite
  | readRsp | writeAck | atomicRsp | mcastAck
  | linkHalf | linkCredit | linkToken
  | control
deriving DecidableEq, Repr

/-- Tokens on a link (R293, R333). -/
inductive Token where
  | fin | abort (origin code : Nat) | close | commit | squash
  /-- the peer found a mismatch (R294) -/
  | mismatch
deriving DecidableEq, Repr

/-- A completion report (R257). -/
structure TaskReport where
  ioDie : Nat := 0
  ring  : Nat
  seq   : Nat
  code  : Nat
  second : Bool := false
  flags : BitVec 7 := 0
  late  : Bool := false
  lateCount : Nat := 0
  fThread : Nat := 0
  fUnit : Nat := 0
  fPc   : BitVec 16 := 0
  fAddr : DWord := 0
  origin : Nat := 0
  originCode : Nat := 0
  startTick : DWord := 0
  ctxSaved : Bool := false
  extents : List (BitVec 256) := []
deriving DecidableEq, Repr

/-- Messages of the control class, and translation traffic (R247, R248, R257, R259, R306). -/
inductive Msg where
  | none
  | launch (l : Launch)
  | startReport (ring seq : Nat)
  | report (r : TaskReport)
  | miss (ring seq part : Nat)
  /-- a translation asked for thread `who` (0 to 7) or slot `who - 8` of a tile, or for a logic port -/
  | xlate (who tenant : Nat) (va : DWord) (need : Nat)
  | xlateRsp (who : Nat) (va : DWord) (leaf : Option Leaf)
  | token (k : Token)
  | start
deriving DecidableEq, Repr

/-- Who issued an access (R70, R605). -/
inductive Issuer where
  | tile (t : Nat)
  | lport (n : Nat)
  /-- a ring engine or copy engine of an I/O die -/
  | engine (d : Nat)
  /-- the flow home of I/O die d, for one issuer of another module: module·2^15 + kind·2^12 + index (R440) -/
  | home (d key : Nat)
  | gleaner (c : Nat)
deriving DecidableEq, Repr

/-- A packet in the torus (R360), with where it stands. -/
structure Packet where
  op    : PktOp
  src   : Endpoint
  dst   : Endpoint
  /-- destinations still ahead: one router for a unicast, the tiles of the rectangle for a multicast (R371) -/
  dests : List Nat := []
  /-- the router the packet stands at, the port it came in by, and its virtual channel (R355) -/
  pos   : Nat
  inPort : Nat := 4
  vc    : Bool := false
  /-- it has left its last router and stands at its destination's interface -/
  out   : Bool := false
  /-- order in which it came into the buffer or to the interface where it stands -/
  ord   : Nat := 0
  issuer : Issuer := .tile 0
  tag   : Nat := 0
  /-- the access that it belongs to (R363: an answer is matched to its request) -/
  uid   : Nat := 0
  addr  : DWord := 0
  size  : Nat := 0
  data  : List Byte := []
  status : Status := .ok
  aop   : Nat := 0
  ret   : Bool := false
  operand : DWord := 0
  compare : DWord := 0
  tenant : Nat := 0
  part  : Nat := 0
  epoch : Byte := 0
  rt    : Bool := false
  tentative : Bool := false
  tickPar : Bool := false
  /-- bulk class: producer or consumer slot named, and the half's group -/
  slot  : Nat := 0
  srcSlot : Nat := 0
  group : Nat := 0
  msg   : Msg := .none
  /-- wrong bits of the header's routing bytes and of their copy, and a header whose opcode has become a reserved one -/
  route : BitVec 32 := 0
  copy  : BitVec 32 := 0
  opBad : Bool := false
  /-- offsets of data or operand bytes that fail parity -/
  bad   : List Nat := []
  /-- a control message: times it has been damaged and sent again (R599) -/
  resent : Nat := 0
  /-- a read sent again under R594 -/
  reread : Bool := false
deriving DecidableEq, Repr

/-- What an access is for: where its answer goes (R236, R295, R367). -/
inductive Purpose where
  /-- a thread's load or value-returning atomic -/
  | miss (thr : Nat)
  /-- a thread's posted store or atomic -/
  | store (thr : Nat) (pc : DWord) (va : DWord)
  /-- elements of an input slot: use, group, first byte of the half, first and last element -/
  | streamRd (slot : Nat) (use : Nat) (group : Nat) (off : Nat) (first last : Nat)
  /-- elements of an output slot: use, group, thread, first element and its virtual address -/
  | streamWr (slot : Nat) (use : Nat) (group : Nat) (thr : Nat) (elem : Nat) (va : DWord)
  /-- a linked half; tentative halves keep the tag to resolution -/
  | linkHalf (slot group thr : Nat) (tent : Bool)
  /-- a logic design's request, by its own tag -/
  | oreq (dtag : Nat)
  /-- the write of a copy's block at an offset (R447) -/
  | copyWr (id off : Nat)
  /-- the read of a copy's block at an offset -/
  | copyRd (id off : Nat)
  /-- a torus multicast of a descriptor -/
  | mcast (ring seq : Nat)
  /-- a request that a flow home injected: flow context key, sequence number, incarnation and the frame's tag -/
  | flow (ctx seq inc tag : Nat)
  /-- a READ of another module: source module, source I/O die and tag (R444) -/
  | remoteRead (src die tag : Nat)
  /-- this member's own write of a fabric multicast (R449) -/
  | mcastLocal (id : Nat)
  | trace
  /-- the context that a tile saves -/
  | ctx
deriving DecidableEq, Repr

/-- An access that has been issued and not yet answered: one operation tag of its issuer. -/
structure Access where
  issuer : Issuer
  tag    : Nat
  purpose : Purpose
  /-- the model's own: tells this use of the tag from every other -/
  uid    : Nat := 0
  /-- the request, kept for a re-read and held under R369 while `held` -/
  req    : Packet
  held   : Bool := false
  dropped : Bool := false
  /-- tick of issue and partition, for the Hard barrier (R67) -/
  tick   : DWord := 0
  part   : Option Nat := none
  /-- destination module of a request that leaves, none for this module -/
  remote : Option Nat := none
  /-- issuer's epoch when the tag was taken (R605) -/
  epoch  : Byte := 0
  /-- multicast acknowledgements still due, delivered, lowest refused tile and its status (R373) -/
  mcDue  : Nat := 0
  mcOk   : Nat := 0
  mcRefused : Option (Nat × Status) := none
deriving DecidableEq, Repr

/-- A router, with its interface, and the Gleaner probe (used in the block of each cluster's first tile). -/
structure Router where
  err   : DWord := 0
  ctr   : SMap (BitVec 48) := []
  glCtrl : Word := 0
  glFull : Bool := false
  glMatch : DWord := 0
  glMask : DWord := 0
  glLo  : BitVec 48 := 0
  glHi  : BitVec 48 := 0
  glBase : BitVec 48 := 0
  glSize : BitVec 40 := 0
  glPtr : BitVec 40 := 0
  /-- a record that waits for its partner in a 64-byte packet (R381) -/
  glHalf : List Byte := []
  /-- round robin at an output port (R368): the class that is next, by port, and the input channel (port·2 + VC) that is next, by
  port·4 + class -/
  rrClass : SMap Nat := []
  rrIn   : SMap Nat := []
deriving DecidableEq, Repr

/-- The torus: packets in flight by number, the number the next one takes, and the stamp that the next packet to enter a buffer,
or the next access, takes. -/
structure Net where
  pkts   : SMap Packet := []
  nextId : Nat := 0
  stamp  : Nat := 0
deriving DecidableEq, Repr

/-- An array or matrix-vector instruction in its queue, with the registers it read at issue (R131, R211). -/
structure UnitOp where
  word : DWord
  gw : DWord := 0
  gx : DWord := 0
  gy : DWord := 0
  gp : DWord := 0
  gs : DWord := 0
  thr : Nat := 0
  /-- offset of the instruction -/
  pc : DWord := 0
deriving DecidableEq, Repr

/-- What one row (array) or one pass (matrix-vector) of a started entry will leave: loft bytes or a sum-store row,
the flags it raises and the histogram bins it counts (R153). -/
structure RowOut where
  loft : List (Nat × List Byte) := []
  sum  : Option (Nat × List (BitVec 40)) := none
  flags : BitVec 7 := 0
  bins : List Nat := []
deriving DecidableEq, Repr

/-- A started entry with its outputs, which become visible when it completes (R133, R147). -/
structure UnitRun where
  op   : UnitOp
  /-- flags that its stationary load or weight expansion raises (R145) -/
  load : BitVec 7 := 0
  rows : List RowOut := []
deriving DecidableEq, Repr

/-- A random generator (R197): key, counter and owner thread. -/
structure Gen where
  key   : DWord := 0
  ctr   : BitVec 128 := 0
  owner : Option Nat := none
deriving DecidableEq, Repr

/-- The top-k unit (R205, R206): entries (logit, index) in descending key order. -/
structure TopK where
  k     : Nat := 0
  owner : Option Nat := none
  es    : List (Word × Word) := []
  cut   : Option Nat := none
deriving DecidableEq, Repr

/-- A running REP (R187 to R191): its thread and the iterations left. -/
structure Rep where
  thr  : Nat
  left : Nat
deriving DecidableEq, Repr

/-- A tile (R20, R228, R263). -/
structure Tile where
  threads : SMap Thread := []
  sems    : SMap Nat := []
  /-- threads waiting in SWAIT, in the order in which they reached it (R240) -/
  semOrder : List Nat := []
  queue   : List Launch := []
  task    : Option Task := none
  prevTenant : Option Nat := none
  progTag : DWord := 0
  seqTask : DWord := 0
  fault   : DWord := 0
  faultAddr : DWord := 0
  seqCtr  : SMap (BitVec 48) := []
  lastActive : Nat := 0
  firmware : Bool := false
  /-- task flags (R117) and histogram (R118) -/
  flags   : BitVec 7 := 0
  hist    : SMap Word := []
  /-- sum store: a listed row has its written bit set (R129) -/
  sums    : SMap (List (BitVec 40)) := []
  /-- codebook slots: key slot·256 + entry, C4 slots 0-7, C8 slots 8-9 (R142) -/
  book    : SMap (BitVec 16) := []
  arrQ    : List UnitOp := []
  /-- started entries that have not completed, oldest first (R148) -/
  arrRun  : List UnitRun := []
  arrErr  : DWord := 0
  arrCtr  : SMap (BitVec 48) := []
  gens    : SMap Gen := []
  topk    : TopK := {}
  rep     : Option Rep := none
  vecErr  : DWord := 0
  vecCtr  : SMap (BitVec 48) := []
  mvpQ    : List UnitOp := []
  mvpRun  : List UnitRun := []
  mvpErr  : DWord := 0
  mvpCtr  : SMap (BitVec 48) := []
  str     : Stream := {}
  win     : Winnow := {}
deriving DecidableEq, Repr

/-- GRN_STATUS.state (R417). -/
inductive StackState where
  | untrained | training | running | selfRefresh | scrubbing | failed
deriving DecidableEq, Repr

/-- A remap (R406, R407). -/
inductive Remap where
  | none | pending | active
deriving DecidableEq, Repr

/-- GRN_RESV_p with its token bucket (R411, R425): the bucket in units of 2^-16 byte. -/
structure Resv where
  rate   : BitVec 11 := 0
  burst  : BitVec 10 := 0
  tokens : Nat := 0
deriving DecidableEq, Repr

/-- A request queued on a pseudo-channel (R392): its packet, and whether its data effect is already made. -/
structure PchReq where
  pkt   : Packet
  rt    : Bool := false
  /-- arrival order on the pseudo-channel; longer than 8 µs in the queue (R394 step 3) -/
  order : Nat := 0
  /-- waits for its row to be scrubbed (R410) -/
  scrubWait : Bool := false
  /-- neighbour refresh or activate caused -/
  bank  : Nat := 0
  row   : Nat := 0
deriving DecidableEq, Repr

/-- State of a pseudo-channel (R426). -/
inductive PchState where
  | inService | recentring | lost
deriving DecidableEq, Repr

/-- A pseudo-channel (R391 to R405, R426). -/
structure Pch where
  st     : PchState := .inService
  credit : Nat := 0
  /-- byte lanes that use a redundant lane (R404) -/
  repaired : BitVec 4 := 0
  rdelay : BitVec 28 := 0
  wdelay : BitVec 28 := 0
  queue  : List PchReq := []
  nextOrder : Nat := 0
  /-- open row of a bank, and hits it has served in a row while an older request waited (R394) -/
  openRow : SMap (Nat × Nat) := []
  /-- activate-count table of a bank: (row, count) entries, at most 16 (R399) -/
  acts   : SMap (List (Nat × Nat)) := []
  /-- refreshes issued since the tables were cleared (R398) -/
  refreshes : Nat := 0
  budget : Nat := 16
  /-- a drain in progress (R394): one more than the writes still to drain before reads may go ahead again; 0: none -/
  draining : Nat := 0
  /-- temperature at which it was last centred, and the tick (R403) -/
  centred : Byte := 0
  centredTick : DWord := 0
  overdue : Bool := false
deriving DecidableEq, Repr

/-- A stack controller (R389 to R426). -/
structure Stack where
  st     : StackState := .untrained
  hot    : Bool := false
  remapPch : BitVec 6 := 0
  /-- GRN_REMAP.pch as written -/
  remapSel : BitVec 6 := 0
  remap  : Remap := .none
  rdThresh : BitVec 6 := 16
  hotForce : Bool := false
  keep   : BitVec 4 := 8
  /-- segments that the last self-refresh kept -/
  kept   : BitVec 4 := 8
  temp   : Byte := 0
  maxTemp : Byte := 0
  err    : DWord := 0
  ctr    : SMap (BitVec 48) := []
  resv   : SMap Resv := []
  pchs   : SMap Pch := []
  /-- row indexes (offset >> 22) still to scrub, in scrub order (R410) -/
  unscrubbed : List Nat := []
  /-- redundant data lanes in use, per channel (two pseudo-channels) (R404) -/
  spares : SMap Nat := []
  /-- the memory test of R623 runs on the stack (R721) -/
  testing : Bool := false
  tested : Bool := false
  /-- a guard window has begun since the remap was written (R406) -/
  remapArmed : Bool := false
  /-- pseudo-channels re-centred in the current guard window (R403) -/
  recentred : Nat := 0
deriving DecidableEq, Repr

/-- Where an arrived or originated frame stands: the port it came in by, or none for one of this module's own. -/
structure Parcel where
  inPort : Option Nat
  die    : Nat
  frame  : Frame
deriving DecidableEq, Repr

/-- KFB_PORT state (R451). -/
inductive PortState where
  | disabled | training | up | held | down | failed
deriving DecidableEq, Repr

/-- A fabric port as the fabric sees it (R451 to R453, R460, R474). -/
structure FPort where
  st    : PortState := .disabled
  peerPort : BitVec 5 := 0
  peerModule : BitVec 16 := 0
  holdLeft : BitVec 16 := 0
  delayValid : Bool := false
  delay : Word := 0
  /-- the last 1,024 echoes, latest first, since the port came Up or its lanes changed (R460, R492) -/
  echoes : List Nat := []
  /-- frames queued for the port, oldest first -/
  queue : List Frame := []
  /-- data units still to send of the frame that the last block cut, and the class whose turn is next (R433) -/
  txLeft : Nat := 0
  rrClass : Nat := 0
  /-- frame units sent for which the peer has not returned credit, by class·8 + lane -/
  used  : SMap Nat := []
  /-- frame units consumed here whose credit has not been returned, by class·4 + escape lane, and the pair whose turn is next -/
  owed  : SMap Nat := []
  rrCred : Nat := 0
  /-- frames of which units are still to arrive, the innermost first, and how many -/
  rx    : List (Frame × Nat) := []
  /-- echo_tx of the last block received -/
  peerTx : BitVec 11 := 0
deriving DecidableEq, Repr

/-- A send context (R437, R438), keyed by source die and destination. -/
structure SendCtx where
  die   : Nat
  dst   : Nat
  inc   : Byte := 0
  next  : BitVec 24 := 0
  unacked : List Frame := []
  closing : Bool := false
deriving DecidableEq, Repr

/-- A receive context (R439 to R441), keyed by source module and source die. -/
structure RecvCtx where
  src   : Nat
  die   : Nat
  inc   : Byte := 0
  expected : BitVec 24 := 0
  /-- responses kept for duplicates, by sequence number -/
  kept  : List Frame := []
deriving DecidableEq, Repr

/-- An outstanding READ sent to another module (R444). -/
structure RemoteRead where
  die   : Nat
  tag   : Nat
  frame : Frame
  retried : Bool := false
  /-- the torus request to answer -/
  pkt   : Packet
deriving DecidableEq, Repr

/-- A copy that a copy engine runs (R447). -/
structure Copy where
  id    : Nat := 0
  die   : Nat
  ring  : Nat
  seq   : Nat
  src   : DWord
  dst   : DWord
  size  : Nat
  srcSpace : Nat := 0
  dstSpace : Nat := 0
  tenant : Nat := 0
  /-- byte offset of the next block -/
  next  : Nat := 0
  failed : Option Nat := none
  /-- status of the lowest failing block -/
  status : Nat := 0
  /-- logic port (module-wide number) and its tag for a copy that a design asked for -/
  lport : Option (Nat × Nat) := none
  /-- module of the destination (pair order, R447) -/
  dmod  : Nat := 0
  /-- blocks whose read has returned and which are not yet written: offset and bytes -/
  ready : List (Nat × List Byte) := []
  /-- the result of a reduction, on its way to memory: the flags to report (R458) -/
  red   : Option (BitVec 7) := none
deriving DecidableEq, Repr

/-- A fabric multicast in progress at this module (R449, R450). -/
structure Mcast where
  id    : Nat := 0
  group : Nat
  src   : Nat
  tag   : Nat
  /-- I/O die of the sender, and the I/O die here that handles the frame -/
  die   : Nat
  here  : Nat := 0
  /-- port the frame arrived on; none at the sender -/
  inPort : Option Nat := none
  /-- branches still to answer; branches pruned or failed; deliveries of the subtree; the local write -/
  waiting : Word := 0
  mask  : BitVec 33 := 0
  count : Nat := 0
  localDue : Bool := false
  pruned : Bool := false
  /-- tick in which it left its sender (R67) -/
  tick  : Nat := 0
  /-- the descriptor (ring, seq) or the logic port (number, tag) that sent it -/
  ring  : Option (Nat × Nat) := none
  lport : Option (Nat × Nat) := none
deriving DecidableEq, Repr

/-- A reduction that a member runs (R455 to R459). -/
structure Reduction where
  num   : Nat := 0
  id    : RedId
  ring  : Nat
  seq   : Nat
  n     : Nat
  rank  : Nat
  tenant : Nat
  result : DWord
  /-- vectors that this member holds, by index at the current level of the tree -/
  level : Nat := 0
  vec   : List DWord := []
  flags : BitVec 7 := 0
  /-- a RED_CREDIT has been received from the left member; one has been sent to the right member -/
  credit : Bool := false
  creditSent : Bool := false
  /-- the partial was sent to the left member: only the result is still due -/
  sent  : Bool := false
  /-- elements of the partial or result that have arrived, and the flags they bring -/
  got   : List DWord := []
  gotFlags : BitVec 7 := 0
deriving DecidableEq, Repr

/-- I/O die d's KFB_ block (R466 to R475). -/
structure Kfb where
  enable : Bool := false
  err    : DWord := 0
  settle : BitVec 16 := 20
  flowDead : BitVec 16 := 1000
  e2e    : BitVec 16 := 100
  hold   : BitVec 16 := 20
  redMs  : BitVec 16 := 100
  tickDown : Byte := 0
  ctr    : SMap (BitVec 48) := []
deriving DecidableEq, Repr

/-- The fabric side of the module. -/
structure Fabric where
  idAssigned : Bool := false
  moduleId : BitVec 16 := 0
  dies   : SMap Kfb := []
  ports  : SMap FPort := []
  routing : SMap DWord := []
  mgroups : SMap DWord := []
  rgroups : SMap (BitVec 128) := []
  windows : SMap (BitVec 128) := []
  /-- frames that have arrived or been made here and wait to be acted on -/
  parcels : SMap Parcel := []
  nextParcel : Nat := 0
  send   : SMap SendCtx := []
  recv   : SMap RecvCtx := []
  /-- destinations whose path has changed, with the old port: their ordered frames wait (R453) -/
  settling : List (Nat × Nat) := []
  /-- destinations whose ordered path stays on the alternate port after the primary came back (R452) -/
  onAlt  : List Nat := []
  /-- incarnation of the last flow between two parties, by the send context's key (R438) -/
  lastInc : SMap Byte := []
  /-- flows that wait for a send context (by its key) and for a receive context (by its key), and have been counted (R437) -/
  sendWaits : List Nat := []
  recvWaits : List Nat := []
  /-- request tag that a die's next READ takes (R444) -/
  readTags : SMap Nat := []
  reads  : List RemoteRead := []
  copies : List Copy := []
  mcasts : List Mcast := []
  reductions : List Reduction := []
  nextTag : Nat := 0
deriving DecidableEq, Repr

/-- LNK_STATUS phase (R482, R499). -/
inductive Phase12 where
  | off | noSignal | adapt | align | exchange | running | resync | fastRetrain | failed | loopback
deriving DecidableEq, Repr

/-- One lane of a port, receive side (R500, R502). -/
structure Lane where
  seen    : BitVec 4 := 15
  skew    : BitVec 6 := 0
  disable : Bool := false
  rxGood  : Bool := false
  aligned : Bool := false
  locked  : Bool := false
  signal  : Bool := false
  matched : Bool := false
  invert  : Bool := false
  slip    : BitVec 3 := 0
  ce      : BitVec 48 := 0
  testErr : BitVec 48 := 0
  /-- lost in service, until a retrain the owner asks for (R493) -/
  lost    : Bool := false
  /-- trials of the slip search done in this attempt (R483), corrected bytes in the current 1 ms window -/
  trials  : Nat := 0
  ceWin   : Nat := 0
deriving DecidableEq, Repr

/-- A port's link (R481 to R502). -/
structure Link where
  enable  : Bool := false
  phase   : Phase12 := .off
  selfSeen : Bool := false
  attempts : Nat := 0
  txW4    : Bool := false
  rxW4    : Bool := false
  txLanes : BitVec 9 := 0
  rxLanes : BitVec 9 := 0
  peerGood : BitVec 9 := 0
  mode    : BitVec 2 := 0
  ctr     : SMap (BitVec 48) := []
  lanes   : SMap Lane := []
  /-- markers last seen per lane: a field is acted on when two in a row agree (R481) -/
  lastMark : SMap TMarker := []
  /-- two agreeing markers of the peer showed ready; this side's receiver is ready -/
  peerReady : Bool := false
  selfReady : Bool := false
  /-- peer (module, port) last seen, and fresh: no retry buffer is held (R481, R491) -/
  peer    : Option (Nat × Nat) := none
  fresh   : Bool := true
  /-- retry buffer, oldest first; next link_seq to send; last ack received and how often in a row -/
  retry   : List Block := []
  nextSeq : BitVec 10 := 0
  lastAck : BitVec 10 := 0
  ackRun  : Nat := 0
  /-- last block accepted in sequence -/
  accepted : BitVec 10 := 0x3ff
  /-- blocks rejected in the current 1 ms window -/
  rejWin  : Nat := 0
  /-- LINK_HELLO received, and sent, since the link came up -/
  hello   : Bool := false
  helloSent : Bool := false
  /-- the port has run since power-on (R45) -/
  ran     : Bool := false
  /-- the port waits 10 ms before its next attempt (R482) -/
  waiting : Bool := false
deriving DecidableEq, Repr

/-- I/O die d's LNK_ block (R496, R497, R501). -/
structure LnkDie where
  attempts : Byte := 8
  ueLimit : Byte := 64
  ceLimit : BitVec 16 := 4096
  err     : DWord := 0
deriving DecidableEq, Repr

/-- HST_FN_STATUS.state (R541). -/
inductive FnState where
  | idle | running | stopping
deriving DecidableEq, Repr

/-- One function of a host port (R507, R515, R539 to R541, R546). -/
structure Func where
  evLog2    : BitVec 4 := 0
  adminLog2 : BitVec 4 := 4
  enable    : Bool := false
  st        : FnState := .idle
  cfgErr    : Bool := false
  incarnation : BitVec 6 := 0
  adminSq   : DWord := 0
  adminCq   : DWord := 0
  evq       : DWord := 0
  db        : DWord := 0
  tenant    : Option Nat := none
  quota     : Nat := 0
  /-- event records written, ev_head last read, events dropped since the last record (R515) -/
  evWritten : Nat := 0
  evHead    : Word := 0
  evDropped : Word := 0
deriving DecidableEq, Repr

/-- A completion record (R524). -/
structure Record where
  cookie    : Word := 0
  status    : Byte := 0
  flags     : BitVec 7 := 0
  info      : BitVec 5 := 0
  lateCount : Byte := 0
  tile      : BitVec 16 := 0
  fault     : BitVec 6 := 0
  extCount  : Byte := 0
  faultAddr : DWord := 0
  faultPc   : BitVec 16 := 0
  originTile : BitVec 16 := 0
  originCode : Byte := 0
  startTick : DWord := 0
  endTick   : DWord := 0
  result    : DWord := 0
  result2   : Word := 0
deriving DecidableEq, Repr

/-- How far a held descriptor has come (R68, R517): fetched, started (the engine or a tile is at work on it), or
done with its record ready to be written in ring order. -/
inductive HeldState where
  | fetched
  | started
  | done (r : Record)
deriving DecidableEq, Repr

/-- A descriptor that its ring holds between fetch and completion record. -/
structure Held where
  seq   : Nat
  bytes : BitVec 1024
  st    : HeldState := .fetched
  /-- the launch of a TASK was sent and its start report has not yet come (R248) -/
  launchSent : Bool := false
  /-- dirty-extent entries that the tile's report carried (R312), 32 bytes each, and a lost flag -/
  extents : List (BitVec 256) := []
deriving DecidableEq, Repr

/-- A ring pair (R509 to R513, R523). -/
structure Ring where
  port     : Nat
  fn       : Nat
  sq       : DWord
  cq       : DWord
  sizeLog2 : Nat
  slot     : Nat
  subTail  : Word := 0
  compHead : Word := 0
  /-- descriptors fetched, started and answered with a record, counted from RING_CREATE -/
  fetched  : Nat := 0
  /-- the next descriptors a poll decided to fetch: how many (R512) -/
  toFetch  : Nat := 0
  recorded : Nat := 0
  held     : List Held := []
  stopped  : Bool := false
  /-- a descriptor read has failed: the last record due says so, and then the pair's fault is posted (R513) -/
  readFault : Bool := false
  /-- a RING_DESTROY waits for the held tasks: admin ring and sequence number of the destroy descriptor -/
  destroying : Option (Nat × Nat) := none
deriving DecidableEq, Repr

/-- A tenant's bind (R507, R534). -/
structure Tenant where
  bound : Option (Nat × Nat) := none
  root  : DWord := 0
deriving DecidableEq, Repr

/-- A key slot (R529, R531): the key, the last counter accepted and the high-water mark in flash. -/
structure KeySlot where
  key  : Option (BitVec 256) := none
  last : Nat := 0
  high : Nat := 0
deriving DecidableEq, Repr

/-- I/O die d's host side (R503, R542 to R547). -/
structure HostDie where
  enable : Bool := false
  /-- a checker of the port failed (R609) -/
  disabled : Bool := false
  poll   : Byte := 10
  linkUp : Bool := false
  width  : BitVec 2 := 3
  rate   : BitVec 3 := 0
  err    : DWord := 0
  /-- counters by register offset (R547) -/
  ctr    : SMap (BitVec 48) := []
deriving DecidableEq, Repr

/-- State and stage of a logic region (R562). -/
inductive RegState where
  | empty | running | held
deriving DecidableEq, Repr
inductive RegStage where
  | none | staging | armed
deriving DecidableEq, Repr

/-- A logic region's configuration (R562 to R579, R587). Boundary frames are decoded; logic and block-RAM frames are
the design's own and opaque to the device (R568): the model keeps the frames as bytes. -/
structure Region where
  st      : RegState := .empty
  stage   : RegStage := .none
  imageValid : Bool := false
  upset   : Bool := false
  staged  : BitVec 16 := 0
  userId  : DWord := 0
  /-- active and shadow frames, by frame address; an unlisted frame is zero -/
  active  : SMap (BitVec 1024) := []
  shadow  : SMap (BitVec 1024) := []
  /-- user_id of the section in the shadow -/
  shadowId : DWord := 0
  /-- block RAM contents: an unlisted 128-byte piece is zero -/
  bram    : SMap (BitVec 1024) := []
  /-- clock nets stopped for deep idle (R643) -/
  stopped : Bool := false
  /-- epoch of its partition when the region last left isolation (R602) -/
  epoch   : Byte := 0
deriving DecidableEq, Repr

/-- A load from its command to its commit (R571 to R577). -/
structure Load where
  ring    : Nat
  seq     : Nat
  mask    : Word
  /-- address 0 and length 0: the regions are emptied at the commit -/
  clear   : Bool := false
  addr    : DWord := 0
  len     : Nat := 0
  space   : Nat := 0
  digest  : BitVec 256 := 0
  armed   : Bool := false
  /-- it could commit at the last guard-start edge (R573) -/
  chosen  : Bool := false
  tenant  : Option Nat := none
deriving DecidableEq, Repr

/-- An inbound request that the port has presented to its design (R560). -/
structure Inbound where
  itag   : Nat
  pkt    : Packet
deriving DecidableEq, Repr

/-- A logic port (R377, R556 to R561). -/
structure LPort where
  tlb    : List Leaf := []
  inbound : List Inbound := []
  /-- answers and reports given to the design: tag, status, data -/
  orsp   : List (Nat × Status × List Byte) := []
  /-- MREP: tag, delivered, expected or lowest refused tile, mask or status (R561) -/
  mrep   : List (Nat × Nat × Nat × Nat) := []
  /-- fences waiting: tag, release and acquire, in order -/
  fences : List (Nat × Bool × Bool) := []
  /-- inbound requests that the window bridge has ended and the design has still to answer (R560) -/
  late   : List Nat := []
deriving DecidableEq, Repr

/-- A hard block of a static region (R553): a UART, an SPI or I²C controller, or the small-flash port: at work or idle, and the bytes in
its FIFOs, oldest first. -/
structure HardBlock where
  busy : Bool := false
  tx   : List Byte := []
  rx   : List Byte := []
deriving DecidableEq, Repr

/-- Compute die d's LGC_ and CFG_ blocks (R581 to R589). -/
structure LgcDie where
  /-- hard blocks, in the order of LGC_HB_OWNER's fields -/
  blocks : SMap HardBlock := []
  err    : DWord := 0
  osc    : SMap (BitVec 30) := []
  hb     : BitVec 36 := 0
  probe  : Bool := false
  sel    : SMap (BitVec 9) := []
  ctr    : SMap (BitVec 48) := []
  commitWait : BitVec 16 := 1000
  stagingRegion : BitVec 3 := 0
  dict   : BitVec 13 := 0
  cfgErr : DWord := 0
  cfgCtr : SMap (BitVec 48) := []
deriving DecidableEq, Repr

/-- An error report on its way to the collector (R610, R611): the fields of its log entry. -/
structure Report where
  kind   : Nat
  source : Nat
  unit   : Nat
  tick   : DWord := 0
  addr   : DWord := 0
  tenant : Option Nat := none
  part   : Option Nat := none
  epoch  : Byte := 0
  detail : Nat := 0
  folded : Nat := 0
deriving DecidableEq, Repr

/-- The INT_ block and the collector (R601, R610 to R619). -/
structure Integrity where
  eventEn  : BitVec 16 := 0xFFFF
  ceOver   : Bool := false
  transitOver : Bool := false
  logWrapped : Bool := false
  logCount : Nat := 0
  /-- entries written since INT_CLEAR -/
  sinceClear : Nat := 0
  /-- the last 256 entries, slot (number mod 256) to entry and number -/
  log      : SMap (Nat × Report) := []
  ceThresh : BitVec 16 := 1024
  transitThresh : BitVec 16 := 16
  done     : Bool := false
  failed   : Bool := false
  failedCount : BitVec 16 := 0
  tested   : Word := 0
  ctr      : SMap (BitVec 48) := []
  /-- reports sent and not yet collected, oldest first -/
  reports  : List Report := []
  /-- event codes 0x60 to 0x6F posted in the current tick -/
  postedTick : BitVec 16 := 0
  /-- transit records of the current 1 s window; corrected reads per stack of the current window -/
  transitWin : Nat := 0
  ceWin    : SMap Nat := []
  /-- absorbed, stale and late-reply counts that the interfaces have not yet sent (R610) -/
  sumAbsorbed : Nat := 0
  sumStale : Nat := 0
  sumLate  : Nat := 0
  /-- 8-bit epochs (R601) -/
  partEpoch : SMap Byte := []
  clusterEpoch : SMap Byte := []
  tileEpoch : SMap Byte := []
deriving DecidableEq, Repr

/-- How far a tile's power and reset have come (R625, R630, R642, R643). -/
inductive TilePower where
  /-- not powered: before its wave, parked, or in deep idle -/
  | off
  /-- covered by a reset or waking: waits for its firmware (R630 steps 1 to 3) -/
  | resetting
  /-- firmware runs its entry at 0x0000 -/
  | booting
  /-- idle or at work: accepts launches -/
  | awake
deriving DecidableEq, Repr

/-- What Granger and the fuses say of a tile (R126, R626, R658, R691). -/
structure TileCtl where
  power   : TilePower := .off
  /-- a reset covers the tile (steps 1 to 3): requests are answered ABSORBED (R607) -/
  inReset : Bool := false
  /-- the firmware fetch of step 3 has been made -/
  fetched : Bool := false
  /-- a wave's wake: the tile becomes idle only once its signature has been reported (R625, R636) -/
  sigDue  : Bool := false
  /-- tile test reported, for the wave it belongs to (R625) -/
  reported : Bool := false
  /-- disabled in service (width 0) -/
  disabled : Bool := false
  /-- disabled by bad firmware, until its next reset (R592) -/
  halted  : Bool := false
  /-- pc of the last fault of its firmware that the tile reported to Granger (R242) -/
  fwFault : Option DWord := none
  /-- physical columns out of service beside the fuses' (bit set: removed) -/
  removed : Word := 0
  /-- tile firmware version that the tile runs (R639) -/
  fwVer   : BitVec 16 := 0
  /-- HLT_TILE_t (R691) -/
  spare   : BitVec 2 := 0
  spareBank : BitVec 4 := 0
  overdue : Bool := false
  requested : Bool := false
  failedOnce : Bool := false
  stepsLeft : Byte := 0
  lastDone : Word := 0
  /-- next step of the tile's self-test cycle, and the step that awaits its re-run (R658) -/
  nextStep : Nat := 0
  /-- TOR_PARITY_SEEN at the last poll and seconds of growth in a row (R665) -/
  parityLast : BitVec 48 := 0
  parityRun : Nat := 0
  /-- tick at which SELFTEST_OVERDUE was last posted -/
  overduePosted : Option Nat := none
deriving DecidableEq, Repr

/-- One image slot of the small flash (R621, R639, R640). -/
structure FwSlot where
  valid : Bool := true
  ver   : BitVec 16 := 0
  floor : BitVec 16 := 0
deriving DecidableEq, Repr

/-- BUP_FW_VER_n with the flash behind it. -/
structure FwTarget where
  slot0   : FwSlot := {}
  slot1   : FwSlot := {}
  sel     : Bool := false
  running : BitVec 16 := 0
  floor   : BitVec 16 := 0
  raises  : Nat := 0
deriving DecidableEq, Repr

/-- A RESET whose record waits for its units (R635). -/
structure ResetJob where
  scope  : Nat
  target : Nat
  issuer : Nat
  /-- units still to reach step 4 -/
  tiles  : List Nat := []
  ring   : Option (Nat × Nat) := none
deriving DecidableEq, Repr

/-- BUP_MEMTEST_s (R651). -/
structure MemTest where
  result : BitVec 2 := 0
  quick  : Bool := false
  lost   : BitVec 7 := 0
  seconds : BitVec 16 := 0
  errors : Word := 0
deriving DecidableEq, Repr

/-- A task that a reset killed and whose report has not gone out (R633). -/
structure Killed where
  tile   : Nat
  launch : Launch
  /-- tile epoch of the accesses that the report waits for -/
  epoch  : Byte
deriving DecidableEq, Repr

/-- A FW_UPDATE that runs (R639): its target, the image's version and floor, and the ring that waits. -/
structure FwJob where
  target : Nat
  ver    : BitVec 16
  floor  : BitVec 16
  /-- ring and sequence number that wait for the record; the management path waits -/
  ring   : Option (Nat × Nat) := none
  mctp   : Bool := false
deriving DecidableEq, Repr

/-- Bring-up and resets (R620 to R654). -/
structure Bringup where
  ready   : Bool := false
  grangerUp : Bool := false
  belowMin : Bool := false
  failCode : Byte := 0
  wavesDone : Nat := 0
  memRound : Nat := 0
  phase   : Nat := 0
  /-- waves started in this bring-up or module reset -/
  wavesStarted : Nat := 0
  /-- phase 1 has finished since the management domain last started -/
  bootDone : Bool := false
  /-- logic regions that failed a checker test (R609) -/
  badRegions : Word := 0
  /-- fabric ports Disabled by a failed checker (R609) -/
  badPorts : Word := 0
  /-- ready has been set since power-good last rose (R704) -/
  wasReady : Bool := false
  checked : Bool := false
  trained : Bool := false
  /-- user area of the small flash (R554): 4 MiB a die, die 0 first; an unlisted byte is erased, 0xFF -/
  userFlash : SMap Byte := []
  /-- BUP_BOOT_CFG in flash, and the value in force since power-on -/
  bootCfg : BitVec 2 := 0
  memMode : BitVec 2 := 0
  resetLast : DWord := 0
  fw      : SMap FwTarget := []
  fwJob   : Option FwJob := none
  memtest : SMap MemTest := []
  park    : BitVec 144 := 0
  /-- deep idle: active, exiting, launches held, keep values to restore by stack -/
  deep    : Bool := false
  exiting : Bool := false
  exitCause : Nat := 0
  savedKeep : SMap (BitVec 4) := []
  ctr     : SMap (BitVec 48) := []
  tiles   : SMap TileCtl := []
  resets  : List ResetJob := []
  killed  : List Killed := []
  /-- resets of units' epochs with their ticks, as far as they may lie within 2 ms (R606) -/
  recent  : List (Nat × Nat) := []
deriving DecidableEq, Repr

/-- One event counter of a tile (R675 to R679, R689, R690). -/
structure EvCtr where
  value  : BitVec 48 := 0
  sat    : Bool := false
  mode   : BitVec 2 := 0
  source : BitVec 6 := 0
  /-- mode and source as written, in force from the next task start (R677) -/
  newMode : BitVec 2 := 0
  newSource : BitVec 6 := 0
  snap   : BitVec 48 := 0
  last   : BitVec 48 := 0
deriving DecidableEq, Repr

/-- A tile's event counters and tags. -/
structure EvTile where
  cs     : SMap EvCtr := []
  lastSeq : Word := 0
deriving DecidableEq, Repr

/-- Clock and voltage of a compute die (R667, R687). -/
structure DieHealth where
  vcore  : BitVec 16 := 800
  offset : BitVec 16 := 0
  slack  : BitVec 16 := 0
  kps    : Byte := 8
  /-- planned voltage in mV -/
  vplan  : Int := 800
  /-- voltage planned at the last bring-up, to which the rail rises (R701) -/
  vboot  : Int := 800
  /-- replica slacks of the last hour with their ticks, as far as a later one is not lower (R666): the first is the lowest -/
  samples : List (Nat × Int) := []
deriving DecidableEq, Repr

/-- A pending MARGIN_OVERRIDE: field, die, value and the ring that waits (R669). -/
structure MarginJob where
  field : Nat
  die   : Nat
  value : Int
  ring  : Option (Nat × Nat) := none
  /-- it came over the management path -/
  mctp  : Bool := false
  /-- tick at which it was accepted -/
  tick  : Nat := 0
deriving DecidableEq, Repr

/-- An entry of GRG_DISC_LOG (R695). -/
structure Disc where
  seq   : Nat
  kind  : Nat
  unit  : Nat
  state : BitVec 16
  copy  : BitVec 16
  epoch : DWord
  tick  : DWord
deriving DecidableEq, Repr

/-- Health, clocks and Granger's view (R655 to R696). -/
structure Health where
  unserviceable : Bool := false
  frozen  : Bool := false
  marginPending : Bool := false
  relocking : Bool := false
  stEnable : Bool := true
  overdueH : Byte := 48
  cycleH  : Byte := 24
  maxTiles : Byte := 4
  reqCluster : Bool := false
  reqTarget : BitVec 12 := 0
  requests : List (Bool × Nat) := []
  replanH : Byte := 6
  targetPs : Byte := 30
  floorPs : Byte := 10
  deferMin : Byte := 60
  fMhz    : BitVec 16 := 1200
  fTarget : BitVec 16 := 1200
  fLimit  : BitVec 16 := 1400
  /-- frequency that a clock change in progress leads to -/
  fNew    : BitVec 16 := 1200
  cdcOverrun : Byte := 0
  evcSel  : BitVec 12 := 0
  dies    : SMap DieHealth := []
  ctr     : SMap (BitVec 48) := []
  ev      : SMap EvTile := []
  /-- snap_tick, which every tile takes at the same edge (R679) -/
  evSnapTick : Word := 0
  jobs    : List MarginJob := []
  /-- tiles that ran a slice in the current guard window; dies whose voltage it has changed (bits 3:0), and a clock change in
  it (bit 4) (R659, R662, R668) -/
  slices  : Nat := 0
  windowTaken : BitVec 5 := 0
  viewValid : Bool := false
  units   : BitVec 16 := 0
  viewEpoch : DWord := 0
  pollUs  : BitVec 11 := 1000
  eid     : Byte := 0
  smbus   : BitVec 7 := 0
  uart    : BitVec 2 := 0
  discs   : SMap Disc := []
  nDisc   : Nat := 0
  grgCtr  : SMap (BitVec 48) := []
  /-- Granger's copy of each unit's state: key kind·2^20 + unit (R680), and the view epoch it was tagged with -/
  view    : SMap (Nat × DWord) := []
  /-- a critical command that arrived on the management path (R683) and has not been answered; the last answer -/
  mctp    : Option (BitVec 1024) := none
  mctpReply : Option Record := none
deriving DecidableEq, Repr

/-- The board's side: pins and rails (R700 to R708). -/
structure Board where
  aux     : Bool := false
  p48     : Bool := false
  pwrGood : Bool := false
  /-- MOD_RESET# is low -/
  resetLow : Bool := true
  rails   : Bool := false
  railFault : Bool := false
  /-- thermal trips recorded in the small flash -/
  trips   : Nat := 0
deriving DecidableEq, Repr

/-- The whole module: every register, store, queue, mode and pin, and the queue of waiting commands. -/
structure State where
  part    : Part := {}
  tick    : Tick := {}
  cap     : CapTable := {}
  parts   : SMap PartRec := []
  tiles   : SMap Tile := []
  routers : SMap Router := []
  /-- bytes of Granary and tile slots, by canonical local address: rising, no zero byte listed -/
  mem     : List Host.Cell := []
  /-- stored bytes and words whose parity is bad -/
  bad     : List Place := []
  net     : Net := {}
  /-- accesses issued and not answered: the operation tags of every issuer -/
  accesses : List Access := []
  hbm     : SMap Stack := []
  fab     : Fabric := {}
  links   : SMap Link := []
  lnk     : SMap LnkDie := []
  host    : SMap HostDie := []
  funcs   : SMap Func := []
  rings   : SMap Ring := []
  tenants : SMap Tenant := []
  keys    : SMap KeySlot := []
  /-- translation service caches of the I/O dies, most recently used first (R306) -/
  xsvc    : SMap (List Leaf) := []
  /-- what the device has written to host memory: key port·2^64 + bus address -/
  hostMem : SMap Byte := []
  regions : SMap Region := []
  loads   : List Load := []
  lports  : SMap LPort := []
  lgc     : SMap LgcDie := []
  integ   : Integrity := {}
  bup     : Bringup := {}
  health  : Health := {}
  board   : Board := {}
  /-- model's own: the answer to the last register write; how many free values have been used -/
  answer  : RegAnswer := .none
  freeCount : Nat := 0
  /-- commands that wait, first in first out -/
  pending : List Instr := []
deriving DecidableEq, Repr

/-- Why a step can stop with a fault. Raised by no command: every error the spec describes is an answer, an error
register, a report or a task's end code, and so a next state. It is there for the interface. -/
inductive Fault where
  /-- never raised; safe -/
  | none
deriving DecidableEq, Repr

/-- Why a step can refuse a command. -/
inductive Refusal where
  /-- the row has no meaning yet; raised by `exec`'s own arm alone; safe -/
  | notModelled (mnemonic : String)
deriving DecidableEq, Repr

/-- The module before power is applied: every register at the value its map gives for reset, nothing running, memory
with nothing listed, an empty queue. What the maps leave to fuses, flash or bring-up is named in log entry 3. -/
def State.reset : State := { keys := [(2049, { key := some Config.grangerKey })] }

end Sys2Proof.Machine
end

