-- ==== Sys2Proof/Machine/Ops.lean ====
section
/-!
DEFINITION. The named operations that every command's meaning is written over: finite maps, bytes and words, memory,
the address map (01 R34 to R41), units and their owners, counters, free values, error reports (15 R610) and event
records (13 R514, R515, R527).
-/
namespace Sys2Proof.Machine

/-- What a command answers. -/
abbrev Out := Host.Outcome State Fault Refusal

/-! ### Finite maps -/

/-- The value listed for a key. -/
def smGet {α : Type} : SMap α → Nat → Option α
  | [], _ => none
  | (a, v) :: m, k => if a = k then some v else smGet m k

/-- The value for a key, or the default. -/
def smGetD {α : Type} (m : SMap α) (k : Nat) (d : α) : α := (smGet m k).getD d

/-- List a value for a key, keeping the keys rising. -/
def smSet {α : Type} : SMap α → Nat → α → SMap α
  | [], k, v => [(k, v)]
  | (a, w) :: m, k, v =>
    if k < a then (k, v) :: (a, w) :: m
    else if k = a then (k, v) :: m
    else (a, w) :: smSet m k v

/-- Remove a key. -/
def smErase {α : Type} (m : SMap α) (k : Nat) : SMap α := m.filter (fun e => e.1 != k)

/-- Change the value of a key, from the default when it is not listed. -/
def smUpd {α : Type} (m : SMap α) (k : Nat) (d : α) (f : α → α) : SMap α := smSet m k (f (smGetD m k d))

/-! ### Bytes, words and lists -/

/-- The n low bytes of a number, least significant first (R15). -/
def leBytes : Nat → Nat → List Byte
  | 0, _ => []
  | n + 1, v => BitVec.ofNat 8 v :: leBytes n (v / 256)

/-- The number that bytes spell, least significant first. -/
def ofLe : List Byte → Nat
  | [] => 0
  | b :: bs => b.toNat + 256 * ofLe bs

/-- `n` elements of a list of bytes from offset `off`; bytes beyond the end read 0. -/
def slice (bs : List Byte) (off n : Nat) : List Byte :=
  let x := (bs.drop off).take n
  x ++ List.replicate (n - x.length) 0

/-- A little-endian field of a byte list. -/
def field (bs : List Byte) (off n : Nat) : Nat := ofLe (slice bs off n)

/-- Bits [hi:lo] of a number. -/
def bits (v hi lo : Nat) : Nat := v / 2 ^ lo % 2 ^ (hi + 1 - lo)

/-- Bit i of a number. -/
def bitN (v i : Nat) : Bool := v.testBit i

/-- 1 for true. -/
def b2n (b : Bool) : Nat := if b then 1 else 0

/-- Put bytes over a list at an offset, inside its length. -/
def overlay (bs : List Byte) (off : Nat) (new : List Byte) : List Byte :=
  (bs.take off) ++ (new ++ bs.drop (off + new.length))

/-- Change element i of a list. -/
def modifyNth {α : Type} (l : List α) (i : Nat) (f : α → α) : List α :=
  match l, i with
  | [], _ => []
  | x :: r, 0 => f x :: r
  | x :: r, i + 1 => x :: modifyNth r i f

/-- Remove element i of a list. -/
def removeNth {α : Type} (l : List α) (i : Nat) : List α := l.take i ++ l.drop (i + 1)

/-- Change the first element for which p holds. -/
def modifyFirst {α : Type} (p : α → Bool) (f : α → α) : List α → List α
  | [] => []
  | x :: r => if p x then f x :: r else x :: modifyFirst p f r

/-- Number of ones of a bit vector. -/
def popcount {w : Nat} (v : BitVec w) : Nat := ((List.range w).filter (fun i => v.getLsbD i)).length

/-- Set bit i of a bit vector to b. -/
def setBit {w : Nat} (v : BitVec w) (i : Nat) (b : Bool) : BitVec w :=
  if b then v ||| (1#w <<< i) else v &&& ~~~(1#w <<< i)

/-- Saturating add at w bits. -/
def satAdd (w : Nat) (v : BitVec w) (n : Nat) : BitVec w := BitVec.ofNat w (min (v.toNat + n) (2 ^ w - 1))

/-! ### Memory

Bytes by canonical local address; an unlisted address reads 0 (DESIGN CHOICE, log entry 4). -/

/-- One byte of memory. -/
def memGet : List Host.Cell → Nat → Byte
  | [], _ => 0
  | (a, v) :: m, k => if a = k then v else memGet m k

/-- Write one byte, in canonical form: addresses rise and no zero byte is listed. -/
def memPut : List Host.Cell → Nat → Byte → List Host.Cell
  | [], k, v => if v = 0 then [] else [(k, v)]
  | (a, w) :: m, k, v =>
    if k < a then (if v = 0 then (a, w) :: m else (k, v) :: (a, w) :: m)
    else if k = a then (if v = 0 then m else (k, v) :: m)
    else (a, w) :: memPut m k v

/-- Write bytes at rising addresses. -/
def memPutList (m : List Host.Cell) (a : Nat) : List Byte → List Host.Cell
  | [] => m
  | b :: bs => memPutList (memPut m a b) (a + 1) bs

/-- Read n bytes. -/
def memGetList (m : List Host.Cell) (a : Nat) : Nat → List Byte
  | 0 => []
  | n + 1 => memGet m a :: memGetList m (a + 1) n

/-- Every address of the list lies above `lo`, they rise, and no byte is 0. -/
def Memory.wfFrom : Nat → List Host.Cell → Bool
  | _, [] => true
  | lo, (a, v) :: m => decide (lo ≤ a) && (v != 0) && Memory.wfFrom (a + 1) m

/-- The canonical form of memory. -/
def Memory.wf (m : List Host.Cell) : Bool := Memory.wfFrom 0 m

/-- Read n bytes at a canonical address. -/
def State.rd (s : State) (a n : Nat) : List Byte := memGetList s.mem a n

/-- A place of memory in a range. -/
def Place.inMem (a n : Nat) : Place → Bool
  | .mem x => decide (a ≤ x) && decide (x < a + n)
  | .ecc x _ => decide (a ≤ x) && decide (x < a + n)
  | _ => false

/-- Write bytes at a canonical address; each written byte has good parity again (R591). -/
def State.wr (s : State) (a : Nat) (bs : List Byte) : State :=
  { s with mem := memPutList s.mem a bs, bad := s.bad.filter (fun p => !(p.inMem a bs.length)) }

/-- Some byte of a range fails parity. DESIGN CHOICE: log entry 106. -/
def State.badMem (s : State) (a n : Nat) : Bool :=
  s.bad.any (fun p => match p with | .mem _ => p.inMem a n | _ => false)

/-- On-die ECC severity of a range of a stack (R415): 0 clean, 1 corrected, 2 uncorrectable. DESIGN CHOICE: log entry 122. -/
def State.eccAt (s : State) (a n : Nat) : Nat :=
  if s.bad.any (fun p => match p with | .ecc _ true => p.inMem a n | _ => false) then 2
  else if s.bad.any (fun p => match p with | .ecc _ false => p.inMem a n | _ => false) then 1
  else 0

/-- The first offset of a range whose byte fails parity. -/
def State.badOff (s : State) (a n : Nat) : Nat :=
  (List.range n).find? (fun i => s.bad.contains (.mem (a + i))) |>.getD 0

/-- A stored word other than a byte of memory fails parity. -/
def State.isBad (s : State) (p : Place) : Bool := s.bad.contains p

/-- The place has good parity again. -/
def State.clean (s : State) (p : Place) : State := { s with bad := s.bad.filter (fun q => q != p) }

/-! ### Free values (DESIGN CHOICE, log entry 1) -/

/-- The next free value, w bits wide, and the state that has used it. -/
def State.free (s : State) (w : Nat) : BitVec w × State :=
  ((Config.freeValue s.freeCount).setWidth w, { s with freeCount := s.freeCount + 1 })

/-! ### Units -/

/-- Coordinates of a tile (R21). -/
def tileX (t : Nat) : Nat := t % 48
def tileY (t : Nat) : Nat := t / 48
/-- Compute die of a tile (R21). -/
def tileDie (t : Nat) : Nat := 2 * b2n (decide (24 ≤ tileY t)) + b2n (decide (24 ≤ tileX t))
/-- Cluster of a tile (R23). -/
def tileCluster (t : Nat) : Nat := tileY t / 4 * 12 + tileX t / 4
/-- First tile of a cluster, and its sixteen tiles. -/
def clusterFirst (c : Nat) : Nat := (c / 12 * 4) * 48 + c % 12 * 4
def clusterTiles (c : Nat) : List Nat :=
  (List.range 4).flatMap (fun dy => (List.range 4).map (fun dx => clusterFirst c + 48 * dy + dx))
/-- Compute die of a cluster. -/
def clusterDie (c : Nat) : Nat := tileDie (clusterFirst c)

/-- Tile to which logic port n of the module attaches (R24). -/
def lportTile (n : Nat) : Nat :=
  let d := n / 96
  let p := n % 96
  let k := p % 24
  let x0 := 24 * (d % 2)
  let y0 := 24 * (d / 2)
  match p / 24 with
  | 0 => y0 * 48 + (x0 + k)
  | 1 => (y0 + k) * 48 + (x0 + 23)
  | 2 => (y0 + 23) * 48 + (x0 + k)
  | _ => (y0 + k) * 48 + x0

/-- Region that owns a logic port (R24), module-wide. -/
def lportRegion (n : Nat) : Nat := 8 * (n / 96) + n % 96 / 12

/-- A tile, its reset record when it is not listed. -/
def State.tile (s : State) (t : Nat) : Tile := smGetD s.tiles t {}
def State.setTile (s : State) (t : Nat) (x : Tile) : State := { s with tiles := smSet s.tiles t x }
def State.updTile (s : State) (t : Nat) (f : Tile → Tile) : State := s.setTile t (f (s.tile t))

/-- A thread of a tile. -/
def Tile.th (x : Tile) (k : Nat) : Thread := smGetD x.threads k {}
def Tile.setTh (x : Tile) (k : Nat) (h : Thread) : Tile := { x with threads := smSet x.threads k h }
def Tile.updTh (x : Tile) (k : Nat) (f : Thread → Thread) : Tile := x.setTh k (f (x.th k))
def State.thread (s : State) (t k : Nat) : Thread := (s.tile t).th k
def State.updThread (s : State) (t k : Nat) (f : Thread → Thread) : State := s.updTile t (fun x => x.updTh k f)

/-- A slot of a tile's stream engine. -/
def Tile.slot (x : Tile) (i : Nat) : Slot := smGetD x.str.slots i {}
def Tile.setSlot (x : Tile) (i : Nat) (v : Slot) : Tile := { x with str := { x.str with slots := smSet x.str.slots i v } }
def State.slot (s : State) (t i : Nat) : Slot := (s.tile t).slot i
def State.updSlot (s : State) (t i : Nat) (f : Slot → Slot) : State := s.updTile t (fun x => x.setSlot i (f (x.slot i)))

def State.router (s : State) (t : Nat) : Router := smGetD s.routers t {}
def State.updRouter (s : State) (t : Nat) (f : Router → Router) : State := { s with routers := smUpd s.routers t {} f }
def State.stack (s : State) (k : Nat) : Stack := smGetD s.hbm k {}
def State.updStack (s : State) (k : Nat) (f : Stack → Stack) : State := { s with hbm := smUpd s.hbm k {} f }
def State.ctl (s : State) (t : Nat) : TileCtl := smGetD s.bup.tiles t {}
def State.updBup (s : State) (f : Bringup → Bringup) : State := { s with bup := f s.bup }
def State.updCtl (s : State) (t : Nat) (f : TileCtl → TileCtl) : State :=
  s.updBup (fun b => { b with tiles := smUpd b.tiles t {} f })
def State.updTick (s : State) (f : Tick → Tick) : State := { s with tick := f s.tick }
def State.updFab (s : State) (f : Fabric → Fabric) : State := { s with fab := f s.fab }
def State.updInt (s : State) (f : Integrity → Integrity) : State := { s with integ := f s.integ }
def State.updHealth (s : State) (f : Health → Health) : State := { s with health := f s.health }
def State.kfb (s : State) (d : Nat) : Kfb := smGetD s.fab.dies d {}
def State.updKfb (s : State) (d : Nat) (f : Kfb → Kfb) : State := s.updFab (fun x => { x with dies := smUpd x.dies d {} f })
def State.fport (s : State) (q : Nat) : FPort := smGetD s.fab.ports q {}
def State.updFport (s : State) (q : Nat) (f : FPort → FPort) : State := s.updFab (fun x => { x with ports := smUpd x.ports q {} f })
def State.link (s : State) (q : Nat) : Link := smGetD s.links q {}
def State.updLink (s : State) (q : Nat) (f : Link → Link) : State := { s with links := smUpd s.links q {} f }
def State.lnkDie (s : State) (d : Nat) : LnkDie := smGetD s.lnk d {}
def State.updLnkDie (s : State) (d : Nat) (f : LnkDie → LnkDie) : State := { s with lnk := smUpd s.lnk d {} f }
def State.hostDie (s : State) (d : Nat) : HostDie := smGetD s.host d {}
def State.updHost (s : State) (d : Nat) (f : HostDie → HostDie) : State := { s with host := smUpd s.host d {} f }
/-- Key of function f of port d. -/
def fnKey (d f : Nat) : Nat := 2048 * d + f
def State.func (s : State) (d f : Nat) : Func := smGetD s.funcs (fnKey d f) {}
def State.updFunc (s : State) (d f : Nat) (g : Func → Func) : State := { s with funcs := smUpd s.funcs (fnKey d f) {} g }
def State.updRing (s : State) (r : Nat) (f : Ring → Ring) : State :=
  match smGet s.rings r with
  | none => s
  | some x => { s with rings := smSet s.rings r (f x) }
def State.region (s : State) (r : Nat) : Region := smGetD s.regions r {}
def State.updRegion (s : State) (r : Nat) (f : Region → Region) : State := { s with regions := smUpd s.regions r {} f }
def State.lport (s : State) (n : Nat) : LPort := smGetD s.lports n {}
def State.updLport (s : State) (n : Nat) (f : LPort → LPort) : State := { s with lports := smUpd s.lports n {} f }
def State.lgcDie (s : State) (d : Nat) : LgcDie := smGetD s.lgc d {}
def State.updLgc (s : State) (d : Nat) (f : LgcDie → LgcDie) : State := { s with lgc := smUpd s.lgc d {} f }
def State.partRec (s : State) (p : Nat) : PartRec := smGetD s.parts p {}
def State.tenant (s : State) (t : Nat) : Tenant := smGetD s.tenants t {}
def State.tickCfg (s : State) (p : Nat) : PartTickCfg := smGetD s.tick.cfg p {}

/-- In-service physical columns of a tile as the fuses leave them (04 R126). -/
def State.fuseCols (s : State) (t : Nat) : Word := smGetD s.part.colMap t (BitVec.allOnes 32)
/-- A fused-off tile: fewer than 28 columns in service at the factory (R22, R126). -/
def State.fusedOff (s : State) (t : Nat) : Bool := decide (popcount (s.fuseCols t) < 28)
/-- Physical columns in service, in rising order: logical column k is the k-th (R126). -/
def State.cols (s : State) (t : Nat) : Word := s.fuseCols t &&& ~~~(s.ctl t).removed
/-- Width W of a tile: 28 to 32, or 0 when fused off or disabled (R45). -/
def State.tileW (s : State) (t : Nat) : Nat :=
  let n := popcount (s.cols t)
  if s.fusedOff t || (s.ctl t).disabled || (s.ctl t).halted || decide (n < 28) then 0 else n
/-- A tile that carries work when a partition holds it. -/
def State.tileUsable (s : State) (t : Nat) : Bool := decide (t < Config.tiles) && s.tileW t != 0

/-- Partition that holds a cluster (R26). -/
def State.partOfCluster (s : State) (c : Nat) : Option Nat :=
  (s.parts.find? (fun e => e.2.clusters.getLsbD c)).map (·.1)
def State.partOfTile (s : State) (t : Nat) : Option Nat := s.partOfCluster (tileCluster t)
def State.partOfRegion (s : State) (r : Nat) : Option Nat :=
  (s.parts.find? (fun e => e.2.regions.getLsbD r)).map (·.1)
/-- Tiles of a partition, in rising cluster order. -/
def State.partTiles (s : State) (p : Nat) : List Nat :=
  ((List.range Config.clusters).filter (fun c => (s.partRec p).clusters.getLsbD c)).flatMap clusterTiles
/-- Logic regions of a partition. -/
def State.partRegions (s : State) (p : Nat) : List Nat :=
  (List.range 32).filter (fun r => (s.partRec p).regions.getLsbD r)

/-- The tile runs a task: SEQ_STATUS.task_active (R39). -/
def Tile.active (x : Tile) : Bool := x.task.isSome
def State.taskActive (s : State) (t : Nat) : Bool := (s.tile t).active

/-- Tiles that have left their reset record. -/
def State.touched (s : State) : List Nat := s.tiles.map (·.1)

/-- A partition runs work: a tile of its clusters runs a task or has one queued. A Running logic region alone is no work
(R643 step 3; DEDUCED, log entry 6). -/
def State.partBusy (s : State) (p : Nat) : Bool :=
  s.touched.any (fun t => (s.partRec p).clusters.getLsbD (tileCluster t) && ((s.tile t).active || !(s.tile t).queue.isEmpty))

/-- Some partition of the module runs work (R74). -/
def State.anyBusy (s : State) : Bool := s.parts.any (fun e => s.partBusy e.1)

/-- The tenant and partition of the task that a tile runs. -/
def State.taskTenant (s : State) (t : Nat) : Option Nat := (s.tile t).task.map (·.launch.tenant)
def State.taskPart (s : State) (t : Nat) : Option Nat := (s.tile t).task.map (·.launch.part)

/-! ### Ticks -/

/-- Tick edges that have fallen since a tick's guard-start edge: numbers that an edge skipped had none (R58, R64). -/
def Tick.edgesSince (t : Tick) (d : Nat) : Nat :=
  (t.count.toNat - d) - t.skips.foldl (fun n e => n + (e.1 - 1 - max e.2 d)) 0

/-- Length of the guard window in µs (R78). -/
def State.guardUs (s : State) : Nat := s.tick.param.guardM1.toNat + 1

/-! ### Epochs (R601) -/

def State.tileEpoch (s : State) (t : Nat) : Byte := smGetD s.integ.tileEpoch t 0
def State.partEpoch (s : State) (p : Nat) : Byte := smGetD s.integ.partEpoch p 0
def State.clusterEpoch (s : State) (c : Nat) : Byte := smGetD s.integ.clusterEpoch c 0

/-! ### The address map (R32 to R41) -/

/-- Base of stack k's slot in the per-stack view. -/
def stackBase (k : Nat) : Nat := k * 0x1000000000
/-- Base of tile t's slot (R38). -/
def tileBase (t : Nat) : Nat := 0x10000000000 + t * 0x200000
/-- Slot offsets of near memory and of the instruction store. -/
def nearOff : Nat := 0x140000
def instOff : Nat := 0x160000
/-- Bytes of the loft. -/
def loftBytes : Nat := 0x140000

/-- The unit that a local address names, with the offset inside it. -/
inductive Target where
  | stack (k off : Nat)
  | loft (t off : Nat)
  | near (t off : Nat)
  | inst (t off : Nat)
  | window (r off : Nat)
  | setup (off : Nat)
  | nowhere
deriving DecidableEq, Repr

/-- The unit of one byte of the local map (R34 to R41); `nowhere` for a reserved range, a hole or an absent unit. -/
def State.target (s : State) (a : Nat) : Target :=
  if a < 0x8000000000 then
    let k := a / 0x1000000000
    let off := a % 0x1000000000
    if k < s.part.nStacks ∧ off < Config.stackBytes then .stack k off else .nowhere
  else if a < 0x10000000000 then
    let i := a - 0x8000000000
    let g := i / 4096
    if i < s.part.nStacks * Config.stackBytes then
      .stack (g % s.part.nStacks) (g / s.part.nStacks * 4096 + i % 4096) else .nowhere
  else if a < 0x10120000000 then
    let t := (a - 0x10000000000) / 0x200000
    let off := (a - 0x10000000000) % 0x200000
    if s.fusedOff t then .nowhere
    else if off < 0x140000 then .loft t off
    else if off < 0x160000 then .near t (off - 0x140000)
    else if off < 0x170000 then .inst t (off - 0x160000)
    else .nowhere
  else if 0x20000000000 ≤ a ∧ a < 0x22000000000 then
    .window ((a - 0x20000000000) / 0x100000000) ((a - 0x20000000000) % 0x100000000)
  else if 0x30000000000 ≤ a ∧ a < 0x30100000000 then .setup (a - 0x30000000000)
  else .nowhere

/-- Two bytes lie in one unit's range of one row of the map, on one side of every boundary (R34). -/
def Target.same : Target → Target → Bool
  | .stack k _, .stack k' _ => k == k'
  | .loft t _, .loft t' _ => t == t'
  | .near t _, .near t' _ => t == t'
  | .inst t _, .inst t' _ => t == t'
  | .window r _, .window r' _ => r == r'
  | .setup _, .setup _ => true
  | _, _ => false

/-- The row of the map that an address lies in: two views of the Granary are two rows. -/
def mapRow (a : Nat) : Nat :=
  if a < 0x8000000000 then 0 else if a < 0x10000000000 then 1 else if a < 0x20000000000 then 2
  else if a < 0x30000000000 then 3 else 4

/-- The unit that an access of n bytes reaches as a whole, if its first and last byte lie in one unit's range. An access
through the interleaved view reaches the unit of its first byte; its requests never cross a 256-byte block (R276). -/
def State.reach (s : State) (a n : Nat) : Target :=
  let x := s.target a
  let y := s.target (a + (n - 1))
  if mapRow a = mapRow (a + (n - 1)) ∧ (x.same y ∨ (mapRow a = 1 ∧ x ≠ .nowhere ∧ y ≠ .nowhere)) then x else .nowhere

/-- Canonical address of a byte that memory holds: the per-stack name, or the tile slot's own. -/
def Target.canon : Target → Option Nat
  | .stack k off => some (stackBase k + off)
  | .loft t off => some (tileBase t + off)
  | .near t off => some (tileBase t + nearOff + off)
  | .inst t off => some (tileBase t + instOff + off)
  | _ => none

/-- The local part of a global address and its module ID (R32). -/
def gModule (a : DWord) : Nat := a.toNat / 2 ^ 48
def gLocal (a : DWord) : Nat := a.toNat % 2 ^ 48

/-- Where a global address leads (R33): a module other than this one, this module, or nowhere before the ID is set. -/
inductive Dest where
  | here
  | module (m : Nat)
  | refused
deriving DecidableEq, Repr

def State.dest (s : State) (a : DWord) : Dest :=
  let m := gModule a
  if s.fab.idAssigned then (if m = s.fab.moduleId.toNat then .here else .module m)
  else if m = 0 then .here else .refused

/-! ### Counters -/

/-- Add n to the 48-bit saturating counter at a register offset. -/
def ctrAdd (m : SMap (BitVec 48)) (off n : Nat) : SMap (BitVec 48) :=
  if n = 0 then m else smUpd m off 0 (fun v => satAdd 48 v n)
def State.torCtr (s : State) (t off n : Nat) : State := s.updRouter t (fun r => { r with ctr := ctrAdd r.ctr off n })
def State.kfbCtr (s : State) (d off n : Nat) : State := s.updKfb d (fun k => { k with ctr := ctrAdd k.ctr off n })
def State.hstCtr (s : State) (d off n : Nat) : State := s.updHost d (fun k => { k with ctr := ctrAdd k.ctr off n })
def State.grnCtr (s : State) (d off n : Nat) : State := s.updStack d (fun k => { k with ctr := ctrAdd k.ctr off n })
def State.intCtr (s : State) (off n : Nat) : State := s.updInt (fun k => { k with ctr := ctrAdd k.ctr off n })
def State.bupCtr (s : State) (off n : Nat) : State := s.updBup (fun k => { k with ctr := ctrAdd k.ctr off n })
def State.hltCtr (s : State) (off n : Nat) : State := s.updHealth (fun k => { k with ctr := ctrAdd k.ctr off n })
def State.grgCtr (s : State) (off n : Nat) : State := s.updHealth (fun k => { k with grgCtr := ctrAdd k.grgCtr off n })
def State.lgcCtr (s : State) (d off n : Nat) : State := s.updLgc d (fun k => { k with ctr := ctrAdd k.ctr off n })
def State.cfgCtr (s : State) (d off n : Nat) : State := s.updLgc d (fun k => { k with cfgCtr := ctrAdd k.cfgCtr off n })
def State.lnkCtr (s : State) (q off n : Nat) : State := s.updLink q (fun k => { k with ctr := ctrAdd k.ctr off n })
/-- An error register that keeps the first error until its valid bit (bit 63) is cleared. -/
def firstErr (old new : DWord) : DWord := if old.getLsbD 63 then old else new ||| (1#64 <<< 63)

/-! ### Error reports (R610, R611) -/

/-- A unit sends an error report to the collector. -/
def State.report (s : State) (kind source unit : Nat) (addr detail : Nat) (tenant part : Option Nat) (epoch : Byte) : State :=
  let s := match kind with
    | 1 => s.intCtr 0x100 1
    | 2 => s.intCtr 0x108 1
    | 4 => s.intCtr 0x118 1
    | 5 => s.intCtr 0x120 1
    | _ => s
  s.updInt (fun x => { x with reports := x.reports ++
    [{ kind, source, unit, tick := s.tick.count, addr := BitVec.ofNat 64 addr, tenant, part, epoch, detail }] })

/-! ### Event records (R514, R515, R527, R528) -/

/-- Write bytes to host memory through port d. -/
def State.hostWr (s : State) (d : Nat) (a : Nat) (bs : List Byte) : State :=
  { s with hostMem := (bs.zipIdx).foldl (fun m e => smSet m (2 ^ 64 * d + (a + e.2) % 2 ^ 64) e.1) s.hostMem }

/-- HST_ERR keeps the first error (R545). -/
def State.hstErr (s : State) (d kind fn ring : Nat) : State :=
  s.updHost d (fun h => { h with err := firstErr h.err (BitVec.ofNat 64 (kind * 2 ^ 56 + fn * 2 ^ 32 + ring)) })

/-- The function has an event ring. -/
def Func.hasEvents (f : Func) : Bool := f.st == .running && decide (4 ≤ f.evLog2.toNat)

/-- An event for function f of port d: its record, or a drop that is counted (R515). -/
def State.event (s : State) (d f code part unit detail : Nat) : State :=
  let x := s.func d f
  if x.hasEvents && decide ((x.evWritten - x.evHead.toNat) % 2 ^ 32 < 2 ^ x.evLog2.toNat) then
    let n := 2 ^ x.evLog2.toNat
    let phase := 1 - x.evWritten / n % 2
    let rec_ := leBytes 2 code ++ leBytes 2 part ++ leBytes 4 unit ++ leBytes 8 s.tick.count.toNat ++ leBytes 8 detail
      ++ leBytes 4 x.evDropped.toNat ++ leBytes 4 phase
    ((s.hostWr d (x.evq.toNat + 32 * (x.evWritten % n)) rec_).updFunc d f
      (fun y => { y with evWritten := y.evWritten + 1, evDropped := 0 })).hstCtr d 0x118 1
  else
    (s.updFunc d f (fun y => { y with evDropped := y.evDropped + 1 })).hstCtr d 0x120 1

/-- The lowest-numbered host port whose PF has an event ring (R528). -/
def State.ownerPort (s : State) : Option Nat :=
  (List.range s.part.nIoDies).find? (fun d => (s.func d 0).hasEvents)

/-- An owner event; with no PF event ring it is dropped and counted on I/O die 0 (DESIGN CHOICE, log entry 7). -/
def State.ownerEvent (s : State) (code part unit detail : Nat) : State :=
  match s.ownerPort with
  | some d => s.event d 0 code part unit detail
  | none => s.hstCtr 0 0x120 1

/-- Granger posts an owner event; while Granger is away it is lost (R641). DEDUCED: log entry 107. -/
def State.grangerEvent (s : State) (code part unit detail : Nat) : State :=
  if s.bup.grangerUp then s.ownerEvent code part unit detail else s

/-- An event for a tenant: to the function it is bound to, or dropped. -/
def State.tenantEvent (s : State) (ten code part unit detail : Nat) : State :=
  match (s.tenant ten).bound with
  | some (d, f) => s.event d f code part unit detail
  | none => s.hstCtr 0 0x120 1

/-! ### A tile's counters (R676 to R678, R166, R227, R268, R318, R352) -/

/-- An event counter counts: mode 1 always, mode 2 while a task is active. -/
def EvCtr.counts (c : EvCtr) (active : Bool) : Bool := c.mode == 1 || (c.mode == 2 && active)

/-- Add n events of a source to a tile's event counters; one that reaches the top sets sat and posts EVC_SATURATED. -/
def State.evAdd (s : State) (t src n : Nat) : State :=
  if n = 0 then s
  else
    let act := s.taskActive t
    (List.range 8).foldl (fun s k =>
      match smGet s.health.ev t with
      | none => s
      | some e =>
        let c := smGetD e.cs k {}
        if c.counts act && c.source.toNat == src then
          let v := satAdd 48 c.value n
          let top := v == BitVec.allOnes 48
          let s := s.updHealth (fun h => { h with ev := smSet h.ev t { e with cs := smSet e.cs k { c with value := v, sat := c.sat || top } } })
          if top && !c.sat then s.ownerEvent 0x49 0xFF t (t * 256 + k) else s
        else s) s

def State.strCtr (s : State) (t off n : Nat) : State :=
  let s := match off with
    | 0x128 => s.evAdd t 18 n | 0x130 => s.evAdd t 19 n | 0x138 => s.evAdd t 20 n
    | 0x140 => s.evAdd t 21 n | 0x108 => s.evAdd t 22 n | 0x148 => s.evAdd t 23 n | _ => s
  s.updTile t (fun x => { x with str := { x.str with ctr := ctrAdd x.str.ctr off n } })
def State.winCtr (s : State) (t off n : Nat) : State :=
  let s := match off with | 0x118 => s.evAdd t 24 n | 0x150 => s.evAdd t 25 n | _ => s
  s.updTile t (fun x => { x with win := { x.win with ctr := ctrAdd x.win.ctr off n } })
def State.seqCtrAdd (s : State) (t off n : Nat) : State :=
  let s := match off with
    | 0x100 => s.evAdd t 3 n | 0x108 => s.evAdd t 4 n | 0x110 => s.evAdd t 5 n | 0x120 => s.evAdd t 6 n | _ => s
  s.updTile t (fun x => { x with seqCtr := ctrAdd x.seqCtr off n })
/-- The counters of stalls do not advance (DESIGN CHOICE, log entry 104). -/
def State.vecCtrAdd (s : State) (t off n : Nat) : State :=
  let s := match off with | 0x100 => s.evAdd t 16 n | 0x108 => s.evAdd t 17 n | _ => s
  s.updTile t (fun x => { x with vecCtr := ctrAdd x.vecCtr off n })
def State.arrCtrAdd (s : State) (t off n : Nat) : State :=
  let s := if 0x108 ≤ off ∧ off ≤ 0x130 then s.evAdd t (8 + (off - 0x108) / 8) n else s
  s.updTile t (fun x => { x with arrCtr := ctrAdd x.arrCtr off n })
def State.mvpCtrAdd (s : State) (t off n : Nat) : State :=
  let s := match off with | 0x108 => s.evAdd t 14 n | 0x110 => s.evAdd t 15 n | _ => s
  s.updTile t (fun x => { x with mvpCtr := ctrAdd x.mvpCtr off n })

/-- A report of a tile about its own task. -/
def State.tileReport (s : State) (kind t addr detail : Nat) : State :=
  let s := if kind = 1 then s.evAdd t 28 1 else s
  s.report kind 0 t addr detail (s.taskTenant t) (s.partOfTile t) (s.tileEpoch t)

end Sys2Proof.Machine
end

