-- ==== Sys2Proof/Machine/NetOps.lean ====
section
/-!
DEFINITION. The torus as commands use it (09 R353 to R377): endpoints and routes, packets put into the network and
answered, the operation tags of an issuer and the hold rule for its writes.
-/
namespace Sys2Proof.Machine

/-! ### Attachments (R24, R356, R357) -/

/-- What stands behind a router port. -/
inductive Iface where
  | tile (t : Nat)
  | lport (n : Nat)
  | mem (k i : Nat)
  | io (d i : Nat)
  | setup (d : Nat)
  | none
deriving DecidableEq, Repr

/-- Router of local position (lx, ly) of compute die d. -/
def dieRouter (d lx ly : Nat) : Nat := (24 * (d / 2) + ly) * 48 + (24 * (d % 2) + lx)

/-- The four logic ports that take router port 6 because a lower-numbered one has port 5 of the same corner (R357). -/
def cornerPort (p : Nat) : Bool := p == 24 || p == 71 || p == 72 || p == 95

def tileEnd (t : Nat) : Endpoint := ⟨t, 4⟩
def lportEnd (n : Nat) : Endpoint := ⟨lportTile n, if cornerPort (n % 96) then 6 else 5⟩
def memEnd (k i : Nat) : Endpoint := ⟨dieRouter (k / 2) (4 + i) (if k % 2 = 0 then 0 else 23), 6⟩
def ioEnd (d i : Nat) : Endpoint := ⟨dieRouter d 23 (4 + i), 6⟩
def setupEnd (d : Nat) : Endpoint := ⟨dieRouter d 0 12, 6⟩

/-- The unit behind a router port (R357). -/
def ifaceAt (e : Endpoint) : Iface :=
  let d := tileDie e.router
  let lx := tileX e.router % 24
  let ly := tileY e.router % 24
  match e.port with
  | 4 => .tile e.router
  | 5 =>
    match (List.range 96).find? (fun p => lportTile (96 * d + p) == e.router) with
    | some p => .lport (96 * d + p)
    | none => .none
  | 6 =>
    match (List.range 96).find? (fun p => cornerPort p && lportTile (96 * d + p) == e.router) with
    | some p => .lport (96 * d + p)
    | none =>
      if ly = 0 ∧ 4 ≤ lx ∧ lx < 20 then .mem (2 * d) (lx - 4)
      else if ly = 23 ∧ 4 ≤ lx ∧ lx < 20 then .mem (2 * d + 1) (lx - 4)
      else if lx = 23 ∧ 4 ≤ ly ∧ ly < 20 then .io d (ly - 4)
      else if lx = 0 ∧ ly = 12 then .setup d
      else .none
  | _ => .none

/-- Router ports that exist (R356, R357, R383): bit n for port n. -/
def State.portsPresent (s : State) (t : Nat) : Nat :=
  31 + (match ifaceAt ⟨t, 5⟩ with | .none => 0 | _ => 32)
    + (match ifaceAt ⟨t, 6⟩ with
      | .none => 0
      | .mem k _ => if k < s.part.nStacks then 64 else 0
      | .io d _ => if d < s.part.nIoDies then 64 else 0
      | _ => 64)

/-! ### Routes (R353 to R355) -/

/-- Direction of the next hop in one dimension: none, up or down; 24 hops either way goes up (R354). -/
def stepDir (a b : Nat) : Option Bool :=
  if a = b then none else some (decide ((b + 48 - a) % 48 ≤ 24))

/-- Router port by which a packet at `pos` leaves for router `dst`: x first, then y; none when it is there. -/
def hopPort (pos dst : Nat) : Option Nat :=
  match stepDir (tileX pos) (tileX dst) with
  | some up => some (if up then 0 else 1)
  | none => (stepDir (tileY pos) (tileY dst)).map (fun up => if up then 2 else 3)

/-- The neighbour behind router port 0 to 3. -/
def neighbour (pos port : Nat) : Nat :=
  let x := tileX pos
  let y := tileY pos
  match port with
  | 0 => y * 48 + (x + 1) % 48
  | 1 => y * 48 + (x + 47) % 48
  | 2 => (y + 1) % 48 * 48 + x
  | _ => (y + 47) % 48 * 48 + x

/-- Port at which a packet arrives that left by the given port. -/
def oppositePort (port : Nat) : Nat := match port with | 0 => 1 | 1 => 0 | 2 => 3 | _ => 2

/-- The virtual channel after a hop (R355): VC1 from the dateline on, VC0 again at the turn to y. -/
def hopVc (pos port inPort : Nat) (vc : Bool) : Bool :=
  let x := tileX pos
  let y := tileY pos
  let dateline := match port with
    | 0 => x == 47
    | 1 => x == 0
    | 2 => y == 47
    | _ => y == 0
  let turned := decide (2 ≤ port) && !(inPort == 2 || inPort == 3)
  (vc && !turned) || dateline

/-! ### Which endpoint an address names (R364, R365, R720) -/

/-- Home I/O die of compute die d. -/
def State.homeIo (s : State) (d : Nat) : Nat := if d < s.part.nIoDies then d else d - 2

/-- Compute die of an issuer. -/
def Issuer.die : Issuer → Nat
  | .tile t => tileDie t
  | .lport n => n / 96
  | .engine d => d
  | .home d _ => d
  | .gleaner c => clusterDie c

/-- Index of an issuer for R365; an I/O die's is the port of R720 for the local address (or tile) it names. -/
def Issuer.index (i : Issuer) (s : State) (a : Nat) : Nat :=
  match i with
  | .tile t => t
  | .lport n => n
  | .gleaner c => clusterFirst c
  | .home _ key => (key % 4096 + key / 2 ^ 15) % 16
  | .engine _ =>
    match s.target a with
    | .stack .. => a / 256 % 16
    | .loft t _ | .near t _ | .inst t _ => t % 16
    | .window r off => (12 * (r % 8) + off / 2 ^ 28 + 96 * (r / 8)) % 16
    | _ => 0

/-- Endpoint of a request for a local address, or none for a bus error at the issuer. -/
def State.endpoint (s : State) (i : Issuer) (a : Nat) : Option Endpoint :=
  match s.target a with
  | .stack k _ => some (memEnd k (i.index s a % 16))
  | .loft t _ | .near t _ | .inst t _ => some (tileEnd t)
  | .window r off => if off / 2 ^ 28 < 12 then some (lportEnd (96 * (r / 8) + 12 * (r % 8) + off / 2 ^ 28)) else none
  | .setup _ => none
  | .nowhere =>
    -- the slot of a fused-off tile has an interface, which answers ABSENT (R375)
    if 0x10000000000 ≤ a ∧ a < 0x10120000000 then some (tileEnd ((a - 0x10000000000) / 0x200000)) else none

/-- Endpoint that a request of an issuer enters or leaves the torus by. -/
def Issuer.endpoint (i : Issuer) (s : State) (a : Nat) : Endpoint :=
  match i with
  | .tile t => tileEnd t
  | .lport n => lportEnd n
  | .gleaner c => tileEnd (clusterFirst c)
  | .engine d | .home d _ => ioEnd d (i.index s a % 16)

/-! ### Packets -/

/-- Flits of a packet: a header, and one for each 128 data bytes (R360). -/
def Packet.flits (p : Packet) : Nat := 1 + (p.data.length + 127) / 128

/-- A new packet takes the next number and the next stamp. DESIGN CHOICE: log entry 109. -/
def State.addPkt (s : State) (p : Packet) : State :=
  { s with net := { pkts := smSet s.net.pkts s.net.nextId { p with ord := s.net.stamp }, nextId := s.net.nextId + 1,
                    stamp := s.net.stamp + 1 } }

/-- An endpoint is an I/O port. -/
def Endpoint.isIo (e : Endpoint) : Bool := match ifaceAt e with | .io .. => true | _ => false

/-- Put a packet into the torus at its source interface, last in its buffer, with the parity of the tick (R355, R360). What an I/O
die's units send one another stands at its port at once, and never enters the torus (R720). -/
def State.inject (s : State) (p : Packet) : State :=
  s.addPkt { p with pos := p.src.router, inPort := p.src.port, vc := false, out := p.src == p.dst && p.src.isIo,
                    tickPar := s.tick.count.getLsbD 0, dests := if p.dests.isEmpty then [p.dst.router] else p.dests }

/-- Take a packet out of the torus. -/
def State.dropPkt (s : State) (id : Nat) : State := { s with net := { s.net with pkts := smErase s.net.pkts id } }

/-- Traffic class (R366): request, response, bulk, control. -/
def PktOp.cls : PktOp → Nat
  | .read | .write | .atomic | .mcastWrite => 0
  | .readRsp | .writeAck | .atomicRsp | .mcastAck => 1
  | .linkHalf | .linkCredit | .linkToken => 2
  | .control => 3

/-- Two packets of one class between the same two endpoints share a route and a virtual channel (R354, R368): none
overtakes the other. -/
def Packet.samePath (p q : Packet) : Bool := p.src == q.src && p.dst == q.dst && p.op.cls == q.op.cls

/-- No packet of the same path has reached the interface before it. -/
def State.firstOnPath (s : State) (p : Packet) : Bool :=
  !s.net.pkts.any (fun e => e.2.out && decide (e.2.ord < p.ord) && e.2.samePath p)

/-- A packet that stands at its destination's interface, first on its path. -/
def State.arrived (s : State) (id : Nat) (op : PktOp) : Option Packet :=
  match smGet s.net.pkts id with
  | none => none
  | some p => if p.op = op ∧ p.out ∧ s.firstOnPath p then some p else none

/-- A packet whose data or operand bytes fail parity. -/
def Packet.isBad (p : Packet) : Bool := !p.bad.isEmpty

/-- Answer a request. -/
def State.respond (s : State) (p : Packet) (op : PktOp) (status : Status) (data : List Byte) : State :=
  s.inject { op, src := p.dst, dst := p.src, pos := p.dst.router, issuer := p.issuer, tag := p.tag, uid := p.uid,
             status, data, size := data.length, tenant := p.tenant, addr := p.addr }

/-- Response opcode of a request. -/
def PktOp.answer : PktOp → PktOp
  | .read => .readRsp
  | .write => .writeAck
  | .atomic => .atomicRsp
  | .mcastWrite => .mcastAck
  | .linkHalf => .writeAck
  | o => o

/-- A control message between two endpoints, about a task of a tenant. -/
def State.sendMsg (s : State) (src dst : Endpoint) (m : Msg) (part : Nat) (epoch : Byte) (tenant : Nat) : State :=
  s.inject { op := .control, src, dst, pos := src.router, part, epoch, tenant, msg := m }

/-- I/O port of an I/O die's own traffic with tile t (R720). -/
def tileIo (d t : Nat) : Endpoint := ioEnd d (t % 16)

/-! ### The Hard barrier (02 R67) -/

/-- Partition of an issuer's traffic, for the Hard barrier (R67). -/
def State.issuerPart (s : State) : Issuer → Option Nat
  | .tile t => s.partOfTile t
  | .lport n => s.partOfRegion (lportRegion n)
  | _ => none

/-- Group of a Hard partition. -/
def State.hardGroup (s : State) (p : Nat) : Option Nat :=
  let c := s.tickCfg p
  if c.hard then some c.group.toNat else none

/-- The latest tick up to which group g's barrier has closed on this module. -/
def State.closedTick (s : State) (g : Nat) : Nat := (smGetD s.tick.barriers g {}).closed

/-- Group g's barrier holds its tiles: the barrier of the tick before this one is still open. -/
def State.groupHeld (s : State) (g : Nat) : Bool := decide (s.closedTick g + 1 < s.tick.count.toNat)

/-- A partition is held by the Hard barrier (R67 step 1). -/
def State.partHeld (s : State) (p : Nat) : Bool :=
  match s.hardGroup p with
  | some g => s.groupHeld g
  | none => false

/-- The Hard barrier holds what an issuer would issue (R67 step 1). -/
def State.issuerHeld (s : State) (i : Issuer) : Bool :=
  match s.issuerPart i with
  | some p => s.partHeld p
  | none => false

/-- A tile is held by the Hard barrier. -/
def State.tileHeld (s : State) (t : Nat) : Bool :=
  match s.partOfTile t with
  | some p => s.partHeld p
  | none => false

/-! ### Operation tags (R236, R295, R367, R369, R377, R381) -/

/-- Tags an issuer has; the spec gives no number for an I/O die's own (DESIGN CHOICE, log entry 8). -/
def Issuer.tags : Issuer → Nat
  | .tile _ => 1024
  | .lport _ => 256
  | .gleaner _ => 16
  | _ => 1024

def State.accessesOf (s : State) (i : Issuer) : List Access := s.accesses.filter (fun a => a.issuer == i)

/-- The lowest tag of an issuer that no access holds. -/
def State.freeTag (s : State) (i : Issuer) : Option Nat :=
  let used := (s.accessesOf i).map (·.tag)
  (List.range i.tags).find? (fun k => !used.contains k)

/-- A write, atomic or multicast write: what the hold rule and pair order bind. -/
def PktOp.ordered : PktOp → Bool
  | .write | .atomic | .mcastWrite => true
  | _ => false

/-- An earlier unacknowledged access that holds a later one of its issuer (R369, R374): both are ordered; it is bound for the same
module, or for this one; and it went to another endpoint, is a multicast (as the later one may be), or is itself held.
DEDUCED: log entry 119. -/
def Access.holds (b a : Access) : Bool :=
  b.req.op.ordered && a.req.op.ordered && (b.remote == a.remote || b.remote.isNone)
    && (b.held || b.req.dst != a.req.dst || b.req.op == .mcastWrite || a.req.op == .mcastWrite)

/-- The hold rule for a new access. -/
def State.mustHold (s : State) (a : Access) : Bool := (s.accessesOf a.issuer).any (fun b => b.holds a)

/-- Held packets are counted at a tile's interface (R386). -/
def State.countHeld (s : State) : Issuer → State
  | .tile t => s.torCtr t 0x158 1
  | _ => s

/-- A new access with its stamp, which its packet and the answer carry. What an I/O die's own units send to another module leaves by
the port itself (R720). -/
def Access.stamped (a : Access) (u : Nat) : Access :=
  let src := match a.issuer, a.remote with | .engine _, some _ => a.req.dst | _, _ => a.req.src
  { a with uid := u, req := { a.req with uid := u, src } }

/-- Put an access into its issuer's list and its packet into the torus, or hold it under R369. -/
def State.issue (s : State) (a : Access) : State :=
  let a := a.stamped s.net.stamp
  let s := { s with net := { s.net with stamp := s.net.stamp + 1 } }
  if s.mustHold a then ({ s with accesses := s.accesses ++ [{ a with held := true }] }).countHeld a.issuer
  else ({ s with accesses := s.accesses ++ [a] }).inject a.req

/-- The first held access of a list that no earlier one holds. -/
def firstFree : List Access → List Access → Option Access
  | _, [] => none
  | before, a :: rest => if a.held && !before.any (fun b => b.holds a) then some a else firstFree (before ++ [a]) rest

/-- Release what an issuer's hold rule no longer holds, in the order of issue: it leaves the issuer now, and so not while the Hard
barrier holds the issuer (R67, R72). `k` bounds the packets released. -/
def State.releaseHeld (s : State) (i : Issuer) : Nat → State
  | 0 => s
  | k + 1 =>
    match firstFree [] (s.accessesOf i) with
    | none => s
    | some a =>
      if s.issuerHeld i then s
      else
        (({ s with accesses := s.accesses.map (fun (b : Access) =>
          if b.issuer = i ∧ b.tag = a.tag then { b with held := false, tick := s.tick.count } else b) }).inject a.req).releaseHeld i k

/-- End an access: its tag is free again, and held packets of its issuer may leave. -/
def State.retire (s : State) (i : Issuer) (tag : Nat) : State :=
  let s := { s with accesses := s.accesses.filter (fun a => !(a.issuer == i && a.tag == tag)) }
  s.releaseHeld i (s.accessesOf i).length

/-- The access that holds a tag. -/
def State.access (s : State) (i : Issuer) (tag : Nat) : Option Access :=
  s.accesses.find? (fun a => a.issuer == i && a.tag == tag)

/-- Change the access that holds a tag. -/
def State.updAccess (s : State) (i : Issuer) (tag : Nat) (f : Access → Access) : State :=
  { s with accesses := modifyFirst (fun a => a.issuer == i && a.tag == tag) f s.accesses }

/-- Epoch recorded in a tag (R605). -/
def State.tagEpoch (s : State) : Issuer → Byte
  | .tile t => s.tileEpoch t
  | .lport n => match s.partOfRegion (lportRegion n) with | some p => s.partEpoch p | none => 0
  | _ => 0

/-- Partition of the interface at an endpoint: a tile's or a logic port's. -/
def State.endPart (s : State) (e : Endpoint) : Option Nat :=
  match ifaceAt e with
  | .tile t => s.partOfTile t
  | .lport n => s.partOfRegion (lportRegion n)
  | _ => none

/-- Partition epoch that an issuer fills a checked request's epoch byte with (R602). -/
def State.issuerEpoch (s : State) : Issuer → Byte
  | .tile t => match (s.tile t).task with | some k => k.epoch | none => 0
  | .lport n => (s.region (lportRegion n)).epoch
  | _ => 0

/-- A request of a kind that carries a checked epoch (R602): from a tile or logic port to a tile slot of the issuer's
own partition, and a multicast. -/
def State.checkedKind (s : State) (i : Issuer) (op : PktOp) (dst : Endpoint) : Bool :=
  match op with
  | .mcastWrite | .linkHalf | .linkCredit | .linkToken => true
  | _ =>
    match i with
    | .tile _ | .lport _ =>
      match ifaceAt dst, s.issuerPart i, s.endPart dst with
      | .tile _, some p, some q => p == q
      | _, _, _ => false
    | _ => false

/-- A request for a global address. None: a bus error at the issuer, nothing sent (R33, R364). -/
def State.mkReq (s : State) (i : Issuer) (op : PktOp) (g : DWord) (size : Nat) (data : List Byte) : Option (Packet × Option Nat) :=
  match s.dest g with
  | .refused => none
  | .here =>
    (s.endpoint i (gLocal g)).map (fun e =>
      ({ op, src := i.endpoint s (gLocal g), dst := e, pos := 0, issuer := i, addr := BitVec.ofNat 64 (gLocal g), size, data,
         epoch := if s.checkedKind i op e then s.issuerEpoch i else 0 }, none))
  | .module m =>
    let e := ioEnd (s.homeIo i.die) ((i.index s (gLocal g) + m) % 16)
    some ({ op, src := i.endpoint s (gLocal g), dst := e, pos := 0, issuer := i, addr := g, size, data }, some m)

/-- An access of an issuer with a free tag (R605). -/
def State.mkAccess (s : State) (i : Issuer) (tag : Nat) (pu : Purpose) (p : Packet) (remote : Option Nat) : Access :=
  { issuer := i, tag, purpose := pu, req := { p with tag }, tick := s.tick.count, part := s.issuerPart i, remote,
    epoch := s.tagEpoch i }

end Sys2Proof.Machine
end

