-- ==== Sys2Proof/Machine/HostOps.lean ====
section
/-!
DEFINITION. Descriptors and completion records (13 R508, R514 to R517, R524 to R526): the next descriptor of a ring, the
checks that every descriptor shares, and records written in ring order.
-/
namespace Sys2Proof.Machine

/-! ### Descriptors (R516, R517) -/

/-- A little-endian field of a 128-byte descriptor. -/
def dfield (b : BitVec 1024) (off n : Nat) : Nat := b.toNat / 2 ^ (8 * off) % 2 ^ (8 * n)

/-- Every byte of the body outside the listed ranges (first, last) is zero, and so are byte 2, byte 3 and bytes 0x70 to
0x7F; hflags has at most bit 0. DEDUCED: log entry 51. -/
def plainLayout (b : BitVec 1024) (used : List (Nat × Nat)) : Bool :=
  decide (dfield b 1 1 < 2) && dfield b 2 2 == 0 && dfield b 0x70 16 == 0
    && ((List.range 104).map (· + 8)).all (fun i => used.any (fun u => decide (u.1 ≤ i) && decide (i ≤ u.2)) || dfield b i 1 == 0)

/-- Tenant that a ring acts for. -/
def State.ringTenant (s : State) (x : Ring) : Option Nat := (s.func x.port x.fn).tenant

/-- The descriptor that a ring starts next (R68, R517): every earlier one has started and, with `after` set, has its record;
none while a TASK before it waits for its start report. -/
def State.nextDesc (s : State) (r : Nat) : Option (Ring × Held) :=
  match smGet s.rings r with
  | none => none
  | some x =>
    if (s.func x.port x.fn).st ≠ .running then none
    else
      match x.held.find? (fun h => match h.st with | .fetched => true | _ => false) with
      | none => none
      | some h =>
        if h.launchSent then none
        else if dfield h.bytes 1 1 % 2 = 1 ∧ (x.held.head?.map (·.seq)) ≠ some h.seq then none
        else some (x, h)

/-- Start the next descriptor of a ring if it has the given type. -/
def State.startDesc (s : State) (r type : Nat) (go : Ring → Held → State → State) : State :=
  match s.nextDesc r with
  | none => s
  | some (x, h) => if dfield h.bytes 0 1 = type then go x h s else s

def State.updHeld (s : State) (r seq : Nat) (f : Held → Held) : State :=
  s.updRing r (fun x => { x with held := x.held.map (fun h => if h.seq = seq then f h else h) })

/-- The descriptor is at work. -/
def State.started (s : State) (r seq : Nat) : State := s.updHeld r seq (fun h => { h with st := .started })

/-! ### Records (R514, R524 to R526) -/

/-- The 64 bytes of a record. -/
def Record.bytes (c : Record) (seq phase : Nat) : List Byte :=
  leBytes 4 c.cookie.toNat ++ leBytes 4 seq ++ [c.status] ++ leBytes 1 c.flags.toNat ++ leBytes 1 c.info.toNat ++ [c.lateCount]
    ++ leBytes 2 c.tile.toNat ++ leBytes 1 c.fault.toNat ++ [c.extCount] ++ leBytes 8 c.faultAddr.toNat ++ leBytes 2 c.faultPc.toNat
    ++ leBytes 2 c.originTile.toNat ++ [c.originCode] ++ leBytes 3 0 ++ leBytes 8 c.startTick.toNat ++ leBytes 8 c.endTick.toNat
    ++ leBytes 8 c.result.toNat ++ leBytes 4 c.result2.toNat ++ leBytes 4 phase

/-- Write a descriptor's record: extents first, then the record, at its place in the completion ring. -/
def State.writeRecord (s : State) (x : Ring) (h : Held) (c : Record) : State :=
  let ext := if dfield h.bytes 0 1 = 1 then dfield h.bytes 0x58 8 else 0
  let s := if ext = 0 then s else (h.extents.zipIdx).foldl (fun s e => s.hostWr x.port (ext + 32 * e.2) (leBytes 32 e.1.toNat)) s
  let c := { c with
    cookie := BitVec.ofNat 32 (dfield h.bytes 4 4), extCount := BitVec.ofNat 8 h.extents.length,
    info := if !h.extents.isEmpty && ext == 0 then c.info ||| 8 else c.info, endTick := s.tick.count }
  let n := 2 ^ x.sizeLog2
  (s.hostWr x.port (x.cq.toNat + 64 * (h.seq % n)) (c.bytes h.seq (1 - h.seq / n % 2))).hstCtr x.port 0x110 1

/-- A read of host memory that failed or was poisoned is recorded (R545). -/
def State.hostReadErr {α : Type} (s : State) (d fn ring : Nat) : HostData α → State
  | .ok _ => s
  | .failed => s.hstErr d 2 fn ring
  | .poisoned => s.hstErr d 3 fn ring

/-- A ring pair is stopped: RING_FAULT with its cause, 1 sub_tail, 2 comp_head, 3 a descriptor read (R513). -/
def State.ringFault (s : State) (r cause : Nat) (x : Ring) : State :=
  let s := s.updRing r (fun x => { x with stopped := true, toFetch := 0 })
  ((s.event x.port x.fn 2 0xFF r cause).hstCtr x.port 0x138 1).hstErr x.port 4 x.fn r

/-- Write the records that are due at the head of a ring, in ring order; none of a function that is not Running (R537). After the record
of a failed descriptor read the pair's fault is posted (R513). -/
def State.flushRing (s : State) (r : Nat) : Nat → State
  | 0 => s
  | n + 1 =>
    match smGet s.rings r with
    | none => s
    | some x =>
      if (s.func x.port x.fn).st ≠ .running then s
      else
        match x.held with
        | [] => s
        | h :: rest =>
          match h.st with
          | .done c =>
            let s := (s.writeRecord x h c).updRing r (fun x => { x with held := rest, recorded := x.recorded + 1 })
            (if x.readFault && rest.isEmpty then s.ringFault r 3 x else s).flushRing r n
          | _ => s

/-- Most descriptors that a ring holds (R68). -/
def heldMax : Nat := 256

/-- A held descriptor is done; records due are written. -/
def State.done (s : State) (r seq : Nat) (c : Record) : State :=
  (s.updHeld r seq (fun h => { h with st := .done c })).flushRing r (heldMax + 1)

/-- A held descriptor is done. A ring that a RING_DESTROY has emptied is discarded, and the destroy descriptor is done. DEDUCED: log entry 52. -/
def State.finish (s : State) (r seq : Nat) (c : Record) : State :=
  let s := s.done r seq c
  match smGet s.rings r with
  | none => s
  | some x =>
    match x.destroying, x.held with
    | some (ar, aseq), [] => ({ s with rings := smErase s.rings r }).done ar aseq {}
    | _, _ => s

/-- Done with a status alone. -/
def State.finishWith (s : State) (r seq status : Nat) : State := s.finish r seq { status := BitVec.ofNat 8 status }

def BAD_DESCRIPTOR : Nat := 0x40
def NOT_PERMITTED : Nat := 0x41
def AUTH_FAILED : Nat := 0x42
def COUNTER_STALE : Nat := 0x43
def CMD_REFUSED : Nat := 0x44
def HOST_FAULT : Nat := 0x45
def REDUCE_MISMATCH : Nat := 0x46
def REDUCE_FAILED : Nat := 0x47
def MCAST_PARTIAL : Nat := 0x48
def UNREACHABLE : Nat := 0x49
/-- Codes of R254 that the engine uses too. -/
def BUS_ERROR : Nat := 6
def TRANSLATION_FAULT : Nat := 7

/-- Completion status of a copy's access. -/
def Status.endCode : Status → Nat
  | .ok => 0
  | .unreachable => UNREACHABLE
  | _ => BUS_ERROR

end Sys2Proof.Machine
end

