-- ==== Sys2Proof/Machine/SeqOps.lean ====
section
/-!
DEFINITION. A tile's shared operations (06, 07, 08): its memories, translation caches, waiting threads, tokens of links,
the end of a task, and how an instruction issues from a thread's pc.
-/
namespace Sys2Proof.Machine

/-! ### A tile's memories (R38, R39) -/

def loftAddr (t off : Nat) : Nat := tileBase t + off
def nearAddr (t row : Nat) : Nat := tileBase t + nearOff + 256 * row
def instAddr (t off : Nat) : Nat := tileBase t + instOff + off

def State.loft (s : State) (t off n : Nat) : List Byte := s.rd (loftAddr t off) n
def State.loftWr (s : State) (t off : Nat) (bs : List Byte) : State := s.wr (loftAddr t off) bs
def State.loftBad (s : State) (t off n : Nat) : Bool := s.badMem (loftAddr t off) n

/-- Words of a byte list, least significant byte first. -/
def toWords : Nat → List Byte → List Word
  | 0, _ => []
  | n + 1, bs => BitVec.ofNat 32 (field bs 0 4) :: toWords n (bs.drop 4)
/-- Bytes of words. -/
def ofWords (ws : List Word) : List Byte := ws.flatMap (fun w => leBytes 4 w.toNat)

/-- One row of near memory: 64 words (R170). -/
def State.near (s : State) (t row : Nat) : Lanes := toWords 64 (s.rd (nearAddr t row) 256)
def State.nearWr (s : State) (t row : Nat) (v : Lanes) : State := s.wr (nearAddr t row) (ofWords v)

/-- Flags raised by a unit for the tile's task (R117). -/
def State.flagsOr (s : State) (t : Nat) (f : Flags) : State := s.updTile t (fun x => { x with flags := x.flags ||| f })

/-- Flags raised by a thread: a tainted thread's are held apart (R339). -/
def State.raise (s : State) (t thr : Nat) (f : Flags) : State :=
  if (s.thread t thr).taint.isEmpty then s.flagsOr t f
  else s.updThread t thr (fun h => { h with specFlags := h.specFlags ||| f })

/-- Count histogram bins (R118); a bin saturates at 2^32 − 1. -/
def countBins (h : SMap Word) (bins : List Nat) : SMap Word := bins.foldl (fun m b => smUpd m b 0 (fun v => satAdd 32 v 1)) h

/-- Outputs of one row or pass become visible (R133, R147, R211). -/
def State.applyRow (s : State) (t : Nat) (r : RowOut) : State :=
  let s := r.loft.foldl (fun s e => s.loftWr t e.1 e.2) s
  let s := match r.sum with
    | some (row, v) => (s.updTile t (fun x => { x with sums := smSet x.sums row v })).clean (.sum t row)
    | none => s
  s.updTile t (fun x => { x with flags := x.flags ||| r.flags, hist := countBins x.hist r.bins })

def State.applyRows (s : State) (t : Nat) (rs : List RowOut) : State := rs.foldl (fun s r => s.applyRow t r) s

/-! ### Translation caches (R302 to R306) -/

def Leaf.covers (l : Leaf) (tenant va : Nat) : Bool := l.tenant == tenant && va / 2 ^ l.log2 == l.vpn

def tlbFind (c : List Leaf) (tenant va : Nat) : Option Leaf := c.find? (fun l => l.covers tenant va)

/-- Use a leaf: it becomes the most recently used. -/
def tlbTouch (c : List Leaf) (l : Leaf) : List Leaf := l :: c.filter (fun x => x != l)

/-- Add a leaf to a cache of n, dropping the least recently used. -/
def tlbAdd (c : List Leaf) (l : Leaf) (n : Nat) : List Leaf := (tlbTouch c l).take n

/-- Permission bits that an access needs of a leaf (R304, R305). -/
def needRead : Nat := 4
def needWrite : Nat := 8
def needAtomic : Nat := 28

/-- The leaf grants what the access needs. -/
def Leaf.grants (l : Leaf) (need : Nat) : Bool := l.entry.toNat &&& need == need

/-- Global physical address of a virtual address under a leaf. -/
def Leaf.phys (l : Leaf) (va : DWord) : DWord :=
  BitVec.ofNat 64 (l.entry.toNat / 2 ^ l.log2 * 2 ^ l.log2 + va.toNat % 2 ^ l.log2)

/-- What a cache says of an address: the physical address, a failed translation, or a miss. -/
inductive Xlate where
  | ok (pa : DWord) (l : Leaf)
  | fail
  | miss
deriving DecidableEq, Repr

/-- An address with bits above 47 is in no leaf: it misses, and its walk fails (R302). -/
def xlateIn (c : List Leaf) (tenant : Nat) (va : DWord) (need : Nat) : Xlate :=
  if 2 ^ 48 ≤ va.toNat then .miss
  else
    match tlbFind c tenant va.toNat with
    | none => .miss
    | some l => if l.grants need then .ok (l.phys va) l else .fail

/-- I/O die of the ring engine that launched a tile's task (R306). -/
def State.taskIo (s : State) (t : Nat) : Nat := match (s.tile t).task with | some k => k.launch.ioDie | none => 0

/-- Ask the translation service for a leaf on behalf of thread `who` or slot `who` − 8 (R306). -/
def State.askXlate (s : State) (t who : Nat) (va : DWord) (need : Nat) : State :=
  let d := s.taskIo t
  let s := s.strCtr t 0x148 1
  s.inject { op := .read, src := tileEnd t, dst := tileIo d t, pos := t, issuer := .tile t, addr := va,
             tenant := (s.taskTenant t).getD 0, msg := .xlate who ((s.taskTenant t).getD 0) va need }

/-- Mark a leaf of the tile's cache as the most recently used. -/
def State.tlbUse (s : State) (t : Nat) (l : Leaf) : State :=
  s.updTile t (fun x => { x with str := { x.str with tlb := tlbTouch x.str.tlb l } })

/-! ### Operation tags of a tile (R295) -/

/-- Tags that streams hold: those of stream reads, writes and linked halves. -/
def Purpose.ofSlot : Purpose → Option Nat
  | .streamRd k .. => some k
  | .streamWr k .. => some k
  | .linkHalf k .. => some k
  | _ => none

/-- Accesses that hold one of the tile's 1,024 tags; a load holds its thread's miss register instead (R236, R367). -/
def State.tagsHeld (s : State) (t : Nat) : List Access := (s.accessesOf (.tile t)).filter (fun a => decide (a.tag < 1024))

def State.slotTags (s : State) (t k : Nat) : Nat := ((s.tagsHeld t).filter (fun a => a.purpose.ofSlot == some k)).length
def State.streamTags (s : State) (t : Nat) : Nat := ((s.tagsHeld t).filter (fun a => a.purpose.ofSlot.isSome)).length

/-- A tag is free to a slot: at most 992 for streams and 256 for one slot (R295). -/
def State.slotTagFree (s : State) (t k : Nat) : Bool :=
  decide (s.streamTags t < 992) && decide (s.slotTags t k < 256) && decide ((s.tagsHeld t).length < 1024)

/-- A tag is free to a scalar store or atomic. -/
def State.scalarTagFree (s : State) (t : Nat) : Bool := decide ((s.tagsHeld t).length < 1024)

/-! ### The bandwidth split (R296, R297) -/

/-- Class of a request: read, write or remote (R296). -/
def classOf (op : PktOp) (remote : Bool) : Nat := if remote then 2 else if op = .read then 0 else 1

/-- Share of a class in sixteenths (R314). -/
def Stream.share (x : Stream) (c : Nat) : Nat := bits x.split.toNat (8 * c + 4) (8 * c)

/-- Credits after n cycles without an injection (R297). -/
def Stream.earn (x : Stream) (n : Nat) : Stream :=
  { x with cr := [0, 1, 2].foldl (fun m c => smSet m c (min (smGetD x.cr c 0 + n * x.share c) 32)) x.cr }

/-- A class may inject now. -/
def Stream.eligible (x : Stream) (c : Nat) : Bool := decide (16 ≤ smGetD x.cr c 0)

/-- A class may inject now or in a later cycle. -/
def Stream.classOpen (x : Stream) (c : Nat) : Bool := x.share c != 0 || x.eligible c

/-- Cycle after cycle, up to `fuel`, until n flits of a class have been injected; and the cycles in which none was (R297). -/
def Stream.wheel (c : Nat) : Nat → Nat → Stream → Nat → Stream × Nat
  | 0, _, x, idle => (x, idle)
  | _, 0, x, idle => (x, idle)
  | fuel + 1, n + 1, x, idle =>
    let x := x.earn 1
    if x.eligible c then Stream.wheel c fuel n { x with cr := smUpd x.cr c 0 (fun v => v - 16) } idle
    else Stream.wheel c fuel (n + 1) x (idle + 1)

/-- Cycles pass in which the tile injects nothing: how many, no command says (a free value; DESIGN CHOICE, log entry 132). -/
def State.portIdle (s : State) (t : Nat) : State :=
  let (v, s) := s.free 16
  s.updTile t (fun x => { x with str := x.str.earn v.toNat })

/-- Inject a request of a class: its flits against the class's credit, and its bytes (R296, R297, R318). A waiting flit needs at most
16 cycles. -/
def State.chargeClass (s : State) (t : Nat) (op : PktOp) (n : Nat) (remote : Bool) : State :=
  let c := classOf op remote
  let flits := 1 + (if op = .write ∨ op = .linkHalf then (n + 127) / 128 else 0)
  let (y, idle) := (s.tile t).str.wheel c (17 * flits) flits 0
  ((s.updTile t (fun x => { x with str := y })).strCtr t 0x150 idle).strCtr t (if remote then 0x138 else if op = .read then 0x128 else 0x130) n

/-- The name of a thread's next load: a miss register is no tag, but an answer that a task left behind may still come. -/
def State.loadTag (s : State) (t thr : Nat) : Nat :=
  let used := (s.accessesOf (.tile t)).map (·.tag)
  (((List.range (used.length + 1)).map (fun k => 1024 + thr + 8 * k)).find? (fun k => !used.contains k)).getD (1024 + thr)

/-- Deadline tick of a launch (R259). -/
def Launch.deadline (l : Launch) : DWord := l.start + BitVec.ofNat 64 l.span - 1

/-! ### Slots -/

def Slot.half (x : Slot) (i : Nat) : Half := if i % 2 = 0 then x.h0 else x.h1
def Slot.setHalf (x : Slot) (i : Nat) (h : Half) : Slot := if i % 2 = 0 then { x with h0 := h } else { x with h1 := h }
def Slot.updHalf (x : Slot) (i : Nat) (f : Half → Half) : Slot := x.setHalf i (f (x.half i))

/-- Elements of a use (R274), of a half (R277), and bytes of an element and of a half. -/
def Desc.total (d : Desc) : Nat := (d.counts.take (d.ndimsM1 + 1)).foldl (· * ·) 1
def Desc.elem (d : Desc) : Nat := 2 ^ d.esz
def Desc.halfBytes (d : Desc) : Nat := 64 * d.half
def Desc.perHalf (d : Desc) : Nat := d.halfBytes / d.elem
/-- Elements of group k. -/
def Desc.groupLen (d : Desc) (k : Nat) : Nat := min d.perHalf (d.total - k * d.perHalf)
/-- Loft offset of half i. -/
def Desc.halfOff (d : Desc) (i : Nat) : Nat := 64 * d.buf + (i % 2) * d.halfBytes

/-- Address of element i (R274). -/
def elemAddrFrom : List Nat → List (BitVec 48) → Nat → Nat → DWord → DWord
  | c :: cs, x :: xs, k + 1, i, a => elemAddrFrom cs xs k (i / c) (a + BitVec.ofNat 64 (i % c) * x.signExtend 64)
  | _, _, _, _, a => a
def Desc.addr (d : Desc) (i : Nat) : DWord := elemAddrFrom d.counts d.strides (d.ndimsM1 + 1) i d.base

/-- Halves of an output slot that have been pushed and not issued or sent in full. -/
def Slot.drainCount (x : Slot) : Nat := if x.d.dir == 1 || x.d.dir == 2 then b2n (x.h0.st == .engine) + b2n (x.h1.st == .engine) else 0
def Slot.draining (x : Slot) : Bool := x.drainCount != 0

/-- Record the first stream fault or mismatch (R316). -/
def State.strErr (s : State) (t cause slot elem : Nat) (addr : DWord) : State :=
  s.updTile t (fun x =>
    if x.str.err.getLsbD 63 then x
    else { x with str := { x.str with
      err := BitVec.ofNat 64 (2 ^ 63 + cause * 2 ^ 56 + slot * 2 ^ 48 + elem % 2 ^ 40), errAddr := addr } })

/-- Send a token on a link (R293, R333). -/
def State.sendToken (s : State) (t slot : Nat) (k : Token) : State :=
  let x := s.slot t slot
  s.inject { op := .linkToken, src := tileEnd t, dst := tileEnd x.d.peerTile, pos := t, issuer := .tile t,
             slot := x.d.peerSlot, srcSlot := slot, msg := .token k, tenant := (s.taskTenant t).getD 0,
             epoch := s.issuerEpoch (.tile t) }

/-- Send n credits on a link (R292). -/
def State.sendCredit (s : State) (t slot n : Nat) : State :=
  let x := s.slot t slot
  s.inject { op := .linkCredit, src := tileEnd t, dst := tileEnd x.d.peerTile, pos := t, issuer := .tile t, size := n,
             slot := x.d.peerSlot, srcSlot := slot, group := x.d.halfBytes, tenant := (s.taskTenant t).getD 0,
             epoch := s.issuerEpoch (.tile t) }

/-- Input halves with a request issued that are dropped before a task took them (R298). -/
def Slot.begunHalves (x : Slot) : Nat :=
  if x.d.dir = 0 ∨ x.d.dir = 3 then
    b2n (x.h0.begun && (x.h0.st == .engine || x.h0.st == .ready)) + b2n (x.h1.begun && (x.h1.st == .engine || x.h1.st == .ready))
  else 0

/-- Held halves of a slot (R334). -/
def Slot.heldHalves (x : Slot) : Nat := b2n x.h0.held + b2n x.h1.held

/-- Mark every access of a slot as dropped: its response frees its tag and nothing else (R288, R289, R295). -/
def State.dropSlotReads (s : State) (t k : Nat) (p : Access → Bool) : State :=
  { s with accesses := s.accesses.map (fun (a : Access) =>
      match a.purpose with
      | .streamRd j .. => if a.issuer = .tile t ∧ j = k ∧ p a then { a with dropped := true } else a
      | _ => a) }

/-! ### Threads that wait (R239, R240, R243 to R246, R287) -/

/-- Accesses that a release fence of a thread waits for (R239, R300, R335). -/
def Access.releaseOf (a : Access) (thr : Nat) : Bool :=
  match a.purpose with
  | .store k .. => k == thr
  | .miss k => k == thr && a.req.op == .atomic
  | .streamWr _ _ _ k _ _ => k == thr
  | .linkHalf _ _ k _ => k == thr
  | _ => false

/-- Reads and atomics that an acquire fence of a thread waits for (R239). -/
def Access.acquireOf (a : Access) (thr : Nat) : Bool :=
  match a.purpose with
  | .store k .. => k == thr && a.req.op == .atomic
  | .miss k => k == thr
  | _ => false

/-- Pushed halves of a thread that are still to be issued (R300). -/
def Tile.pushedBy (x : Tile) (thr : Nat) : Bool :=
  x.str.slots.any (fun e => (e.2.d.dir == 1 || e.2.d.dir == 2) &&
    ((e.2.h0.st == .engine && e.2.h0.thr == thr) || (e.2.h1.st == .engine && e.2.h1.thr == thr)))

/-- Undelivered half that WPEEK reads next (R336): the half that SWAITB would take next, when it is held or Ready. -/
def Slot.peekable (x : Slot) : Bool :=
  let h := x.half x.takeHalf
  h.held || h.st == .ready

/-- What a thread waits for has come about. -/
def State.waitOver (s : State) (t thr : Nat) (w : Wait) : Bool :=
  let x := s.tile t
  match w with
  | .none => true
  | .fence r a =>
    (!r || (!(s.accessesOf (.tile t)).any (fun k => k.releaseOf thr) && !x.pushedBy thr)) &&
    (!a || !(s.accessesOf (.tile t)).any (fun k => k.acquireOf thr))
  | .sem .. => false
  | .tickEdge => false
  | .guardEdge => false
  | .tickCount n => decide (n.toNat ≤ s.tick.count.toNat)
  | .abar n => n == 0
  | .mbar n => n == 0
  | .retry why =>
    match why with
    | .arrQ => decide (x.arrQ.length < 16)
    | .mvpQ => decide (x.mvpQ.length < 8)
    | .tag => s.scalarTagFree t
    | .share c => x.str.classOpen c
    | .xlate va => (tlbFind x.str.tlb ((s.taskTenant t).getD 0) va.toNat).isSome
    | .issued k => !(x.slot k).draining
    | .flushed k => !(s.accessesOf (.tile t)).any (fun a =>
        match a.purpose with | .streamWr j .. => j == k | .linkHalf j .. => j == k | _ => false)
    | .predQ => decide (x.win.predQ.length < 4)
    | .chkQ => decide (x.win.chkQ.length < 4)
    | .ticket k fn =>
      let tk := smGetD x.win.tickets k {}
      if fn then tk.st == .resolved else tk.predDone || tk.st == .resolved
    | .tent k => (x.slot k).ticket.isNone
    | .peek k => (x.slot k).peekable
    | .taintFull => decide ((x.th thr).taint.length < 4)
  | .barrier => !s.tileHeld t
  | .half .. => false
  | .taint => (x.th thr).taint.isEmpty

/-- State of a thread of the tile that may issue: Ready, or Firmware in firmware mode (R243). -/
def Tile.readySt (x : Tile) : ThState := if x.firmware then .firmware else .ready

/-- A waiting thread may issue again: its wait is cleared. -/
def Thread.ready (h : Thread) (st : ThState) : Thread := { h with st, wait := .none }

/-- Threads of a tile whose waits are over become Ready (R243). -/
def State.wake (s : State) (t : Nat) : State :=
  (List.range 8).foldl (fun s k =>
    let h := s.thread t k
    if (h.st == .unit || h.st == .sync || h.st == .held) && s.waitOver t k h.wait then s.updThread t k (fun h => h.ready (s.tile t).readySt) else s) s

/-- Give the semaphore's count to its waiters in the order in which they reached SWAIT; the first whose amount exceeds
the count blocks every later one (R240). -/
def Tile.serveSem (x : Tile) (n : Nat) : List Nat → Tile
  | [] => x
  | k :: ks =>
    match (x.th k).wait with
    | .sem m amount =>
      if m = n then
        let c := smGetD x.sems n 0
        if amount ≤ c then
          ({ x with sems := smSet x.sems n (c - amount), semOrder := x.semOrder.filter (fun j => j != k) }.updTh k (fun h => h.ready x.readySt)).serveSem n ks
        else x
      else x.serveSem n ks
    | _ => x.serveSem n ks

/-! ### Ending a task (R254 to R260, R310, R340) -/

/-- SEQ_FAULT: the first non-OK end (R266). -/
def Tile.recordEnd (x : Tile) (code thr unit : Nat) (pc addr : DWord) : Tile :=
  if code = 0 ∨ x.fault.getLsbD 63 then x
  else { x with fault := BitVec.ofNat 64 (2 ^ 63 + code * 2 ^ 50 + thr * 2 ^ 47 + unit * 2 ^ 44 + pc.toNat % 2 ^ 16 * 2 ^ 16),
                faultAddr := addr }

/-- Threads go Off; the thread of a running REP issues on to its last iteration (R66, R189, R256). -/
def Tile.stopThreads (x : Tile) : Tile :=
  { x with
    threads := x.threads.map (fun e =>
      if x.rep.any (fun r => r.thr == e.1) then e
      else (e.1, { e.2 with st := .off, wait := .none, miss := none, spec := none, taint := [], specFlags := 0, redirect := false })),
    semOrder := [] }

/-- What a completed AHIST writes: the 68 counters, then, with clr, zeroes them (R141). -/
def State.ahistDone (s : State) (t : Nat) (op : UnitOp) : State :=
  let h := (s.tile t).hist
  let s := s.loftWr t (op.gy.toNat % 2 ^ 21) ((List.range 68).flatMap (fun b => leBytes 4 (smGetD h b 0).toNat))
  if op.word.getLsbD 55 then s.updTile t (fun x => { x with hist := [] }) else s

/-- An entry is an AMM, or an AHIST. -/
def UnitOp.opcode (o : UnitOp) : Nat := o.word.toNat / 2 ^ 56

/-- Loft bytes, sums, flags and bins of the rows of entries, in order (R153, R158). -/
def State.applyRuns (s : State) (t : Nat) (rs : List (UnitRun × RowOut)) : State :=
  let s := s.applyRows t (rs.map (·.2))
  s.arrCtrAdd t 0x108 (rs.filter (fun e => e.1.op.opcode == 0x40)).length

/-- Entries, the last started one apart, whose rows are all among the first n: they have completed (R147, R158, R211). -/
def runsDone : Nat → List UnitRun → Nat
  | n, r :: q :: rest => if r.rows.length ≤ n then 1 + runsDone (n - r.rows.length) (q :: rest) else 0
  | _, _ => 0

/-- K of an MVM: cycles of a pass (R212, R216). -/
def mvK (w : Nat) : Nat := 32 * (bits w 15 8 + 1)

/-- Parts of flags that a stop leaves raised: which of them is a free value. -/
def State.someFlags (s : State) (t : Nat) (f : Flags) : State :=
  let (m, s) := s.free 7
  s.flagsOr t (f &&& m)

/-- The array stops (R158): queued entries go; rows already in the array finish and stand. How many of the started
entries' rows those are, which flags the loader has raised and whether a running AHIST has written, are free values (log
entry 1). DESIGN CHOICE: log entry 20. -/
def State.stopArray (s : State) (t : Nat) : State :=
  let x := s.tile t
  if x.arrRun.isEmpty then s.updTile t (fun x => { x with arrQ := [] })
  else
    let (n, s) := s.free 32
    let rows := x.arrRun.flatMap (fun r => r.rows.map (fun o => (r, o)))
    let n := n.toNat
    let s := (s.applyRuns t (rows.take (n % (rows.length + 1)))).arrCtrAdd t 0x100 (runsDone (n % (rows.length + 1)) x.arrRun)
    let s := x.arrRun.foldl (fun s r => s.someFlags t r.load) s
    let s := if x.arrRun.any (fun r => r.op.opcode == 0x43) && n.testBit 31 then
      match x.arrRun.find? (fun r => r.op.opcode == 0x43) with | some r => s.ahistDone t r.op | none => s else s
    s.updTile t (fun x => { x with arrQ := [], arrRun := [] })

/-- A reset drops the started entries of the array and the path: the rows injected and the cycles run stay counted (R166, R227,
R630). How many those are is a free value (log entry 1). -/
def State.rowsLost (s : State) (t : Nat) : State :=
  let rows := (s.tile t).arrRun.flatMap (fun r => if r.op.opcode == 0x40 then r.rows else [])
  let cycles := (s.tile t).mvpRun.foldl (fun n r => n + mvK r.op.word.toNat * r.rows.length) 0
  if rows.isEmpty && cycles == 0 then s
  else
    let (n, s) := s.free 32
    let (m, s) := s.free 64
    (s.arrCtrAdd t 0x108 (n.toNat % (rows.length + 1))).mvpCtrAdd t 0x108 (m.toNat % (cycles + 1))

/-- The first n passes of the path's started entries have drained and stand, with their cycles and the entries that they complete;
of the pass in progress only flags and cycles remain (R220, R227). How many of them is a free value (log entry 1). -/
def State.mvpKeep (s : State) (t n : Nat) : State :=
  let runs := (s.tile t).mvpRun
  let passes := runs.flatMap (fun r => r.rows.map (fun q => (mvK r.op.word.toNat, q)))
  let s := s.applyRows t ((passes.take n).map (·.2))
  let s := (s.mvpCtrAdd t 0x108 ((passes.take n).foldl (fun a e => a + e.1) 0)).mvpCtrAdd t 0x100 (runsDone n runs)
  match passes[n]? with
  | some e => let (c, s) := s.free 32; (s.someFlags t e.2.flags).mvpCtrAdd t 0x108 (c.toNat % (e.1 + 1))
  | none => s

/-- The matrix-vector path stops (R220): passes already drained stand, and the pass in progress is lost. -/
def State.stopMvp (s : State) (t : Nat) : State :=
  let x := s.tile t
  if x.mvpRun.isEmpty then s.updTile t (fun x => { x with mvpQ := [] })
  else
    let (m, s) := s.free 32
    let s := s.mvpKeep t (m.toNat % ((x.mvpRun.flatMap (·.rows)).length + 1))
    let s := x.mvpRun.foldl (fun s r => s.someFlags t r.load) s
    s.updTile t (fun x => { x with mvpQ := [], mvpRun := [] })

/-- The array and the matrix-vector path stop. -/
def State.stopUnits (s : State) (t : Nat) : State := (s.stopArray t).stopMvp t

/-- A running job that is cut off: the cycles that it ran are a free value (R352; DESIGN CHOICE, log entry 1). -/
def State.cutCycles (s : State) (t off : Nat) (ran : Bool) : State :=
  if ran then let (v, s) := s.free 32; s.winCtr t off v.toNat else s

/-- The Winnow engines stop, and every open ticket resolves Fail with ended set (R340, R343). -/
def State.stopWinnow (s : State) (t : Nat) : State :=
  let n := ((s.tile t).win.tickets.filter (fun e => e.2.st == .open)).length
  let s := (s.cutCycles t 0x128 (s.tile t).win.predRun.isSome).cutCycles t 0x130 (s.tile t).win.chkRun.isSome
  (s.updTile t (fun x => { x with win := { x.win with
    tickets := x.win.tickets.map (fun e => if e.2.st == .open then (e.1, { e.2 with st := .resolved, fail := true, ended := true }) else e),
    predQ := [], chkQ := [], predRun := none, chkRun := none } })).winCtr t 0x140 n

/-- Draining linked halves that have not been sent are dropped and Free (R310 step 2). -/
def Slot.dropUnsent (x : Slot) : Slot :=
  if x.d.dir = 2 then
    let f := fun (h : Half) => if h.st = .engine then { h with st := .free, tent := false } else h
    { x with h0 := f x.h0, h1 := f x.h1 }
  else x

/-- An output element whose requests are only partly sent (R311). -/
def Tile.elemBegun (x : Tile) : Bool := x.str.slots.any (fun e => e.2.d.dir == 1 && e.2.reqOff != 0)

/-- A slot that is Idle again: only credits that came early stay (DESIGN CHOICE, log entry 14). -/
def Slot.idled (x : Slot) : Slot := { early := x.early, arming := x.arming }

/-- Every slot Idle (R269). -/
def Stream.idled (x : Stream) : Stream :=
  { x with slots := (x.slots.filter (fun e => !e.2.early.isEmpty)).map (fun e => (e.1, e.2.idled)) }

/-- Acknowledge a tentative half to its producer (R335). -/
def State.ackHalf (s : State) (t peer : Nat) (h : Half) (st : Status) : State :=
  s.inject { op := .writeAck, src := tileEnd t, dst := tileEnd peer, pos := t, issuer := .tile peer, tag := h.tag, uid := h.uid, status := st }

/-- A half that holds nothing and waits for its data again. -/
def Half.emptied (h : Half) : Half := { h with held := false, tag := 0, uid := 0, count := 0, begun := false }

/-- A linked input gives up its held halves (R333, R342): each is acknowledged and counted. -/
def State.dropHeld (s : State) (t k : Nat) : State :=
  let x := s.slot t k
  let s := if x.h0.held then s.ackHalf t x.d.peerTile x.h0 .ok else s
  let s := if x.h1.held then s.ackHalf t x.d.peerTile x.h1 .ok else s
  (s.updSlot t k (fun x => { x with
    h0 := if x.h0.held then x.h0.emptied else x.h0
    h1 := if x.h1.held then x.h1.emptied else x.h1 })).winCtr t 0x148 x.heldHalves

/-- Step 4 of R310, with the SQUASH tokens of R340 before it. -/
def State.sendEndTokens (s : State) (t origin code : Nat) : State :=
  (List.range 32).foldl (fun s k =>
    let x := s.slot t k
    if x.st ≠ .active then s
    else if x.d.dir = 2 then
      let s := if x.ticket.isSome then s.sendToken t k .squash else s
      s.sendToken t k (.abort origin code)
    else if x.d.dir = 3 then ((s.strCtr t 0x118 x.heldHalves).dropHeld t k).sendToken t k .close
    else s) s

/-- Send the tokens of an aborted task once no element is half issued (R310 steps 2 and 4). -/
def State.abortTokens (s : State) (t : Nat) : State :=
  match (s.tile t).task with
  | none => s
  | some k =>
    if k.phase = .ending ∧ k.code ≠ 0 ∧ !k.tokensSent ∧ !(s.tile t).elemBegun then
      let origin := if k.code = 8 then k.origin else t
      let code := if k.code = 8 then k.originCode else k.code
      (s.sendEndTokens t origin code).updTile t (fun x => { x with task := x.task.map (fun k => { k with tokensSent := true }) })
    else s

/-- The causes that have no faulting thread and instruction: a deadline, a reset, a stream, the loader; and those that
have no address. The spec does not say what SEQ_FAULT and the report show of what a cause does not have (DESIGN CHOICE, log entry 1). -/
def endLacksThread (code unit : Nat) : Bool := code == 1 || code == 0x0C || code == 0x0D || unit == 4 || unit == 7
def endLacksAddr (code : Nat) : Bool := code == 1 || code == 2 || code == 3 || code == 8 || code == 9 || code == 0x0C || code == 0x0D

/-- The fault fields of an end: thread, unit, pc, address. What its cause does not have is a free value; an OK end leaves
them 0. DESIGN CHOICE: log entry 19. -/
def State.endFields (s : State) (code thr unit : Nat) (pc addr : DWord) : (Nat × Nat × DWord × DWord) × State :=
  if code = 0 then ((0, 0, 0, 0), s)
  else
    let (t, s) := if endLacksThread code unit then s.free 3 else (BitVec.ofNat 3 thr, s)
    let (p, s) := if endLacksThread code unit then s.free 64 else (pc, s)
    let (u, s) := if code == 1 || code == 0x0C || code == 0x0D then s.free 3 else (BitVec.ofNat 3 unit, s)
    let (a, s) := if endLacksAddr code then s.free 64 else (addr, s)
    ((t.toNat, u.toNat, p, a), s)

/-- Begin to end the tile's task with a code (R255, R256); a cause that comes later only sets second_fault. -/
def State.endTask (s : State) (t code thr unit : Nat) (pc addr : DWord) : State :=
  match (s.tile t).task with
  | none => s
  | some k =>
    if k.phase = .ending then
      if code = 0 then s else s.updTile t (fun x => { x with task := some { k with second := true } })
    else
      let ((thr, unit, pc, addr), s) := s.endFields code thr unit pc addr
      let s := s.updTile t (fun x => ({ x with task := some { k with
        phase := .ending, code, fThread := thr, fUnit := unit, fPc := pc.setWidth 16, fAddr := addr } }.recordEnd code thr unit pc addr).stopThreads)
      if code = 0 then s
      else
        (((s.stopUnits t).stopWinnow t).updTile t (fun x =>
          { x with str := { x.str with slots := x.str.slots.map (fun e => (e.1, e.2.dropUnsent)) } })).abortTokens t

/-- A stream fault of a slot ends the task (R308): code, STR_ERR cause, element and address. -/
def State.streamFault (s : State) (t slot code cause elem : Nat) (addr : DWord) : State :=
  let fresh := match (s.tile t).task with | some k => k.phase != Phase.ending | none => false
  let s := s.strErr t cause slot elem addr
  let s := if fresh then s.updTile t (fun x => { x with task := x.task.map (fun (k : Task) => { k with faultSlot := some slot }) }) else s
  s.endTask t code 0 4 0 addr

/-! ### Resets that end (R629, R630, R635, R645, R649, R654) -/

/-- A tile that a reset can run on: not fused off, not disabled, powered. -/
def State.resettable (s : State) (t : Nat) : Bool :=
  !s.fusedOff t && !(s.ctl t).disabled && (s.ctl t).power != .off && decide (28 ≤ popcount (s.cols t))

/-- A tile has reached step 4, or will not run. -/
def State.resetOver (s : State) (t : Nat) : Bool := ((s.ctl t).power == .awake && !(s.ctl t).inReset) || !s.resettable t

/-- A reset has ended on every unit that it covers: its event, and its record. -/
def State.jobDone (s : State) (j : ResetJob) : State :=
  let s := s.grangerEvent 0x70 0xFF j.target (j.scope * 65536 + j.target)
  match j.ring with | some (r, seq) => s.finishWith r seq 0 | none => s

/-- Finish the resets whose units have all reached step 4, and the exit from deep idle once every tile is idle. -/
def State.settleResets (s : State) : State :=
  let jobs := s.bup.resets.map (fun j => { j with tiles := j.tiles.filter (fun t => !s.resetOver t) })
  let s := s.updBup (fun b => { b with resets := jobs.filter (fun j => !j.tiles.isEmpty) })
  let s := (jobs.filter (fun j => j.tiles.isEmpty)).foldl (fun s j => s.jobDone j) s
  if s.bup.exiting && (List.range Config.tiles).all (fun t => s.resetOver t) then
    (s.updBup (fun b => { b with deep := false, exiting := false })).grangerEvent 0x74 0xFF 0 s.bup.exitCause
  else s

/-- A tile whose entry at 0x0000 has ended is idle, unless its tile test is still to be reported (R625, R630 step 4). -/
def TileCtl.booted (c : TileCtl) : TileCtl :=
  if c.power = .booting ∧ !c.sigDue then { c with power := .awake, inReset := false } else c

/-- Firmware ends: the tile goes idle (R242, R262), which may end the reset that ran it (R630 step 4). -/
def State.endFirmware (s : State) (t : Nat) : State :=
  ((s.updTile t (fun x => { x.updTh 0 (fun h => { h with st := .off, wait := .none, miss := none }) with firmware := false, rep := none })).updCtl t
    TileCtl.booted).settleResets

/-- Firmware comes to a fault: it ends as FEND ends it, and the tile reports the fault's pc to Granger (R242). DEDUCED: log entry 71. -/
def State.firmwareFault (s : State) (t : Nat) : State :=
  (s.updCtl t (fun c => { c with fwFault := some (s.thread t 0).pc })).endFirmware t

/-- A fault of a thread: it ends the task (R254), or firmware. -/
def State.faultEnd (s : State) (t code thr unit : Nat) (pc addr : DWord) : State :=
  if (s.tile t).firmware then s.firmwareFault t else s.endTask t code thr unit pc addr

/-! ### Issue (R231, R242, R243, R337) -/

/-- What an instruction does when it reaches issue. -/
inductive Verdict where
  /-- the task ends with a code; unit and address for SEQ_FAULT -/
  | fault (code unit : Nat) (addr : DWord)
  /-- the instruction has not issued: its thread waits -/
  | wait (st : ThState) (w : Wait) (s : State)
  /-- it has issued; the thread goes on at the next instruction -/
  | done (s : State)
  /-- it has issued; the thread goes on at a target -/
  | jump (pc : DWord) (s : State)
  /-- it has issued; the thread waits before it goes on at the next instruction -/
  | park (st : ThState) (w : Wait) (s : State)
  /-- it has issued and has itself set its thread's pc and state -/
  | own (s : State)

/-- An encoding fault. -/
def illegal : Verdict := .fault 2 0 0

/-- Opcodes with a meaning (R231, R242). -/
def definedOp (o : Nat) : Bool :=
  decide (o ≤ 0x0E) || (decide (0x20 ≤ o) && decide (o ≤ 0x23)) || o == 0x28 || (decide (0x30 ≤ o) && decide (o ≤ 0x32))
    || (decide (0x38 ≤ o) && decide (o ≤ 0x3E)) || (decide (0x40 ≤ o) && decide (o ≤ 0x44)) || o == 0x48 || o == 0x49
    || (decide (0x50 ≤ o) && decide (o ≤ 0x58)) || (decide (0x60 ≤ o) && decide (o ≤ 0x66))
    || (decide (0x80 ≤ o) && decide (o ≤ 0x94)) || (decide (0x98 ≤ o) && decide (o ≤ 0x9B))
    || o == 0xA0 || o == 0xA1 || (decide (0xA8 ≤ o) && decide (o ≤ 0xAA)) || (decide (0xB0 ≤ o) && decide (o ≤ 0xB4))
    || o == 0xBF || (decide (0xF0 ≤ o) && decide (o ≤ 0xF2))

/-- Opcodes that a tainted thread may issue (R337), the vector ones apart: see `taintVec`. -/
def taintOp (o : Nat) : Bool :=
  decide (o ≤ 0x2F) || o == 0x30 || o == 0x38 || o == 0x3B || o == 0x64 || o == 0x66

/-- Tainted flag raising, redirect and speculation close when nothing is left on the taint list (R338, R339). -/
def Thread.closeSpec (h : Thread) : Thread := { h with spec := none, specFlags := 0 }

/-- Send a thread to its restart pc (R338). -/
def State.redirect (s : State) (t thr : Nat) : State :=
  let h := s.thread t thr
  match h.spec with
  | none => s
  | some pc =>
    -- the answer of a load that the speculation left is discarded
    let s : State := { s with accesses := s.accesses.map (fun (a : Access) =>
      if a.issuer = Issuer.tile t ∧ a.purpose = Purpose.miss thr then { a with dropped := true } else a) }
    (s.updThread t thr (fun h =>
      { h with
        pc, spec := none, taint := [], specFlags := 0, redirect := false, wait := .none, miss := none,
        st := if h.st = .active then .active else .ready })).winCtr t 0x150 1

/-- Carry out a verdict for the instruction at the thread's pc. `ok` says that a tainted thread may issue it. -/
def State.settle (s : State) (t thr : Nat) (ok : Bool) (v : Verdict) : State :=
  let h := s.thread t thr
  match v with
  | .fault code unit addr =>
    -- the checks of R242 come before any wait; other faults arise when the instruction executes
    if !ok && !h.taint.isEmpty && code != 2 && code != 3 then s.updThread t thr (fun h => { h with st := .sync, wait := .taint })
    else s.faultEnd t code thr unit h.pc addr
  | v =>
    if !ok && !h.taint.isEmpty then s.updThread t thr (fun h => { h with st := .sync, wait := .taint })
    else
      match v with
      | .fault .. => s
      | .wait st w s' => s'.updThread t thr (fun h => { h with st, wait := w })
      | .done s' => (s'.updThread t thr (fun x => { x with pc := h.pc + 8 })).seqCtrAdd t 0x100 1
      | .jump pc s' => (s'.updThread t thr (fun x => { x with pc })).seqCtrAdd t 0x100 1
      | .park st w s' => (s'.updThread t thr (fun x => { x with pc := h.pc + 8, st, wait := w })).seqCtrAdd t 0x100 1
      | .own s' => s'.seqCtrAdd t 0x100 1

/-- The thread may issue: it is Active in a running task, or it is thread 0 in firmware; no REP runs (R189, R243, R262). -/
def State.mayIssue (s : State) (t thr : Nat) : Bool :=
  let x := s.tile t
  x.rep.isNone && decide (thr < 8) &&
    (if x.firmware then thr == 0 && (x.th 0).st == .firmware
     else (match x.task with | some k => k.phase == .running | none => false) && (x.th thr).st == .active)

/-- The pc lies where the tile's mode lets it issue (R242). -/
def State.pcOk (s : State) (t : Nat) (pc : DWord) : Bool :=
  let p := pc.toNat
  p % 8 == 0 && (if (s.tile t).firmware then decide (p < 0x10000) else decide (0x2000 ≤ p) && decide (p < 0x10000))

/-- The instruction word at an instruction-store offset. -/
def State.instWord (s : State) (t : Nat) (pc : DWord) : Nat := ofLe (s.rd (instAddr t pc.toNat) 8)

/-- Opcode of a word. -/
def opc (w : Nat) : Nat := bits w 63 56

/-- A command that names an instruction of one opcode: what the thread's pc brings to issue. A bad pc, a reserved opcode
and a parity error end the task; a word of another opcode leaves the state as it is (DEDUCED, log entry 5). -/
def State.issueAt (s : State) (t thr o : Nat) (ok : Nat → Bool) (run : Nat → State → Verdict) : State :=
  if !s.mayIssue t thr then s
  else
    let pc := (s.thread t thr).pc
    if !s.pcOk t pc then s.faultEnd t 2 thr 0 pc 0
    else if s.badMem (instAddr t pc.toNat) 8 then
      let s := s.tileReport 1 t (instAddr t pc.toNat) 0
      if (s.tile t).firmware then (s.firmwareFault t).updCtl t (fun c => { c with halted := true })
      else (s.updTile t (fun x => { x with progTag := 0 })).endTask t 5 thr 0 pc (BitVec.ofNat 64 pc.toNat)
    else
      let w := s.instWord t pc
      if !definedOp (opc w) then s.settle t thr true illegal
      else if opc w ≠ o then s
      else s.settle t thr (ok w) (run w s)

/-! ### The S format (R232) -/

def sGd (w : Nat) : Nat := bits w 55 51
def sGa (w : Nat) : Nat := bits w 50 46
def sGb (w : Nat) : Nat := bits w 45 41
def sI (w : Nat) : Bool := bitN w 40
def sImm (w : Nat) : DWord := (BitVec.ofNat 32 (bits w 39 8)).signExtend 64
def sPg (w : Nat) : Nat := bits w 7 5
def sPn (w : Nat) : Bool := bitN w 4
def sFn (w : Nat) : Nat := bits w 3 0

/-- A general register. -/
def Thread.reg (h : Thread) (r : Nat) : DWord := smGetD h.g r 0
def State.g (s : State) (t thr r : Nat) : DWord := (s.thread t thr).reg r
def State.setG (s : State) (t thr r : Nat) (v : DWord) : State := s.updThread t thr (fun h => { h with g := smSet h.g r v })
/-- A predicate: p0 always reads 1, and a write to it has no effect (R229). -/
def Thread.pred (h : Thread) (k : Nat) : Bool := k == 0 || h.p.getLsbD k
def State.setP (s : State) (t thr k : Nat) (v : Bool) : State :=
  if k = 0 then s else s.updThread t thr (fun h => { h with p := setBit h.p k v })

/-- The guard of an S-format word (R232). -/
def State.guard (s : State) (t thr w : Nat) : Bool := xor ((s.thread t thr).pred (sPg w)) (sPn w)

/-- The second operand of R233: g[gb], or the immediate. -/
def State.opB (s : State) (t thr w : Nat) : DWord := if sI w then sImm w else s.g t thr (sGb w)

/-- An S-format instruction: its encoding is checked whatever its guard; a false guard makes it a no-op (R232). -/
def guarded (t thr : Nat) (enc : Nat → Bool) (run : Nat → State → Verdict) (w : Nat) (s : State) : Verdict :=
  if !enc w then illegal else if !s.guard t thr w then .done s else run w s

end Sys2Proof.Machine
end

