-- ==== Sys2Proof/Machine/Operands.lean ====
section
/-!
DEFINITION. Operand forms and the operations that several families share: the operations of atomics (06 R235), the checks
of encodings (R232, R242), and the space-1 access of a thread (R234 to R237).
-/
namespace Sys2Proof.Machine

/-! ### Atomics (R235, R393) -/

/-- The sizes that an aop permits, as log2 of bytes. -/
def aopSize (aop size : Nat) : Bool :=
  match aop with
  | 7 => size == 1
  | 8 => size == 2
  | 9 => size == 3
  | _ => decide (aop < 7) && decide (size < 4)

/-- An atomic that a destination serves: a listed aop, a permitted size in bytes, an aligned address (R393). -/
def atomicOk (aop bytes addr : Nat) : Bool :=
  (List.range 4).any (fun k => 2 ^ k == bytes && aopSize aop k) && addr % bytes == 0

/-- The value that an atomic of `bytes` bytes leaves, from the old value, the operand and the compare value. -/
def atomicNew (aop bytes old operand compare : Nat) : Nat :=
  let n := 8 * bytes
  let x := operand % 2 ^ n
  match aop with
  | 0 => (old + x) % 2 ^ n
  | 1 => if bitsInt true n old ≤ bitsInt true n x then old else x
  | 2 => if bitsInt true n x ≤ bitsInt true n old then old else x
  | 3 => min old x
  | 4 => max old x
  | 5 => x
  | 6 => if old = compare % 2 ^ n then x else old
  | 7 => (wAdd 8 old 8 x 8 RNE 0).1
  | 8 => (wAdd 24 old 24 x 24 RNE 0).1
  | _ => (a40Add (a40OfContainer old).1 (a40OfContainer x).1).1

/-! ### Encoding checks of the S format (R232 to R242) -/

/-- Fields that an opcode uses. -/
structure Uses where
  gd : Bool := false
  /-- gd names a predicate: bits [55:54] must be 0 -/
  pd : Bool := false
  ga : Bool := false
  /-- gb or imm by the i bit -/
  b  : Bool := false
  gb : Bool := false
  imm : Bool := false
  /-- imm[15:0] only -/
  imm16 : Bool := false
  fns : List Nat := [0]

/-- A field that is not used is 0, and fn is listed. -/
def Uses.ok (u : Uses) (w : Nat) : Bool :=
  u.fns.contains (sFn w)
    && (u.gd || (u.pd && decide (sGd w < 8)) || sGd w == 0)
    && (u.ga || sGa w == 0)
    && (if u.b then (if sI w then sGb w == 0 else bits w 39 8 == 0)
        else (u.gb || sGb w == 0) && !sI w && (u.imm || (u.imm16 && decide (bits w 39 8 < 65536)) || bits w 39 8 == 0))

/-- A loft range of a space-0 access: aligned and inside the loft (R234, R235). -/
def loftRange (a : DWord) (n : Nat) : Bool := a.toNat % n == 0 && decide (a.toNat + n ≤ loftBytes)

/-! ### Space-1 accesses of a thread (R33, R234 to R237, R246) -/

/-- The request of a thread's space-1 access; an address that goes nowhere is a bus error (R33, R364). -/
def State.tileReq (s : State) (t : Nat) (op : PktOp) (pa : DWord) (n : Nat) (data : List Byte) : Option (Packet × Option Nat) :=
  (s.mkReq (.tile t) op pa n data).map (fun e => ({ e.1 with tenant := (s.taskTenant t).getD 0, part := (s.taskPart t).getD 0 }, e.2))

/-- Class of a request for a physical address, or none where it goes nowhere (R296). -/
def State.reqClass (s : State) (t : Nat) (op : PktOp) (pa : DWord) : Option Nat :=
  (s.tileReq t op pa 1 []).map (fun e => classOf op e.2.isSome)

/-- What stands in the way of a thread's space-1 access, in order: alignment, a tenant
to translate for (firmware has none, log entry 9), the Hard barrier, translation, a tag, a share of the port (R297). -/
def State.space1 (s : State) (t thr : Nat) (va : DWord) (n need : Nat) (tagged : Bool) (go : DWord → State → Verdict) : Verdict :=
  if va.toNat % n ≠ 0 then .fault 4 0 va
  else if (s.tile t).firmware then .fault 7 0 va
  else if s.tileHeld t then .wait .held .barrier s
  else
    match xlateIn (s.tile t).str.tlb ((s.taskTenant t).getD 0) va need with
    | .fail => .fault 7 0 va
    | .miss => .wait .unit (.retry (.xlate va)) (s.askXlate t thr va need)
    | .ok pa l =>
      let s := (s.tlbUse t l).portIdle t
      let c := s.reqClass t (if need = needRead then .read else .write) pa
      if tagged && !s.scalarTagFree t then .wait .unit (.retry .tag) s
      else if c.any (fun c => !(s.tile t).str.classOpen c) then .wait .unit (.retry (.share (c.getD 0))) s
      else go pa s

end Sys2Proof.Machine
end

