-- ==== Sys2Proof/Machine/Array.lean ====
section
/-!
DEFINITION. The log array (04 R123 to R166) and the matrix-vector path (05 R209 to R227): the checks of their instructions
at issue, and what their entries leave. An entry reads its operands when it starts and its outputs become visible when it
completes (R133, R147, R211; DESIGN CHOICE, log entry 10).
-/
namespace Sys2Proof.Machine

/-! ### Fields and layouts (R134 to R137, R212, R213) -/

/-- Modes: 0 L8, 1 L16, 2 C4, 3 C8, 4 I4, 5 I8. -/
def aMode (w : Nat) : Nat := bits w 55 53
def aOut (w : Nat) : Nat := bits w 52 51
def aSat (w : Nat) : Bool := bitN w 50
def aHist (w : Nat) : Bool := bitN w 49
/-- The general registers that an array-class word names. -/
def aGw (w : Nat) : Nat := bits w 40 36
def aGx (w : Nat) : Nat := bits w 35 31
def aGy (w : Nat) : Nat := bits w 30 26
def aGp (w : Nat) : Nat := bits w 25 21
def aGs (w : Nat) : Nat := bits w 20 16
/-- AMM: init, wsig, cb, M and wsel. -/
def ammInit (w : Nat) : Nat := bits w 48 47
def ammSig (w : Nat) : Bool := bitN w 46
def ammCb (w : Nat) : Nat := bits w 45 43
def ammM (w : Nat) : Nat := bits w 15 4 + 1
def aWsel (w : Nat) : Nat := bits w 2 0

/-- Low and high 21-bit offsets of a register. -/
def lo21 (v : DWord) : Nat := v.toNat % 2 ^ 21
def hi21 (v : DWord) : Nat := v.toNat / 2 ^ 21 % 2 ^ 21
/-- 16-bit field k of a register. -/
def half16 (v : DWord) (k : Nat) : Nat := v.toNat / 2 ^ (16 * k) % 65536
/-- ss_base. -/
def ssBase (v : DWord) : Nat := bits v.toNat 57 48

/-- Bytes of an output element. -/
def outBytes (out : Nat) : Nat := if out = 0 then 2 else if out = 1 then 4 else 8
/-- Bytes of an array row of the stationary block. -/
def statBytes (mode : Nat) : Nat := if mode < 2 then 64 else if mode = 2 ∨ mode = 4 then 16 else 32

/-- An aligned range of the loft. -/
def okRange (off len al : Nat) : Bool := off % al == 0 && decide (off + len ≤ loftBytes)

/-- The registers of an array-class word, read at issue (R131). -/
def State.unitOp (s : State) (t thr w : Nat) : UnitOp :=
  { word := BitVec.ofNat 64 w, gw := s.g t thr (aGw w), gx := s.g t thr (aGx w), gy := s.g t thr (aGy w),
    gp := s.g t thr (aGp w), gs := s.g t thr (aGs w), thr, pc := (s.thread t thr).pc }

/-- Put an entry into the array queue; a full queue makes the thread wait (R131). -/
def State.queueArr (s : State) (t : Nat) (o : UnitOp) : Verdict :=
  if 16 ≤ (s.tile t).arrQ.length then .wait .unit (.retry .arrQ) s
  else .done (s.updTile t (fun x => { x with arrQ := x.arrQ ++ [o] }))

/-- Output rows lie aligned in the loft; with M > 1 a stride does not fall short of a row (R137, R138). -/
def rowsOk (off stride rows len : Nat) (strict : Bool) : Bool :=
  okRange off ((rows - 1) * stride + len) 64 && stride % 64 == 0 && (!strict || rows == 1 || decide (len ≤ stride))

/-- The rules of R138 for an AMM, on a tile of width W. -/
def ammOk (W : Nat) (o : UnitOp) : Bool :=
  let w := o.word.toNat
  let mode := aMode w
  let m := ammM w
  let out := aOut w
  let init := ammInit w
  bits w 42 41 == 0 && !bitN w 3 && decide (mode ≤ 5) && init != 3 && decide (aWsel w ≤ 4)
    && (mode != 3 || decide (ammCb w ≤ 1))
    && o.gw.toNat / 2 ^ 42 == 0 && o.gx.toNat / 2 ^ 42 == 0 && o.gs.toNat / 2 ^ 58 == 0
    && (out == 3 || o.gy.toNat / 2 ^ 21 == 0) && (init != 1 || o.gp.toNat / 2 ^ 21 == 0)
    && okRange (lo21 o.gw) (32 * statBytes mode) 64
    && rowsOk (lo21 o.gx) (half16 o.gs 0) m 64 false
    && (mode != 0 || (okRange (hi21 o.gw) (2 * W) 2 && okRange (hi21 o.gx) (2 * m) 2))
    && (decide (mode < 4) || okRange (hi21 o.gw) (4 * W) 4)
    && (out == 3 || rowsOk (lo21 o.gy) (half16 o.gs 1) m (outBytes out * W) true)
    && (init != 1 || rowsOk (lo21 o.gp) (half16 o.gs 2) m (8 * W) true)
    && ((init != 2 && out != 3) || decide (ssBase o.gs + m ≤ 1024))

/-- The rules of R138 and R140 for an ADRN. -/
def adrnOk (W : Nat) (o : UnitOp) : Bool :=
  let w := o.word.toNat
  bits w 55 53 == 0 && bits w 48 31 == 0 && bits w 25 21 == 0 && !bitN w 3 && aOut w != 3 && decide (aWsel w ≤ 4)
    && o.gy.toNat / 2 ^ 21 == 0 && o.gs.toNat / 2 ^ 58 == 0
    && rowsOk (lo21 o.gy) (half16 o.gs 1) (ammM w) (outBytes (aOut w) * W) true
    && decide (ssBase o.gs + ammM w ≤ 1024)

/-- The rules of R140 for an ACBL. -/
def acblOk (o : UnitOp) : Bool :=
  let w := o.word.toNat
  let c8 := bitN w 55
  bits w 51 36 == 0 && bits w 30 0 == 0 && (!c8 || decide (bits w 54 52 ≤ 1)) && o.gx.toNat / 2 ^ 21 == 0
    && (if c8 then okRange (lo21 o.gx) 512 64 else okRange (lo21 o.gx) 32 32)

/-- The rules of R140 for an AHIST. -/
def ahistOk (o : UnitOp) : Bool :=
  let w := o.word.toNat
  bits w 54 31 == 0 && bits w 25 0 == 0 && o.gy.toNat / 2 ^ 21 == 0 && okRange (lo21 o.gy) 272 16

/-- R139: a wsel of 0 to 4 other than W − 28 is a width fault, whatever else is wrong. -/
def widthFault (W w : Nat) : Bool := decide (aWsel w ≤ 4) && aWsel w + 28 != W

/-- AMM. -/
def execAmm (t thr : Nat) (s : State) : Out :=
  .next (s.issueAt t thr 0x40 (fun _ => false) (fun w s =>
    let o := s.unitOp t thr w
    if widthFault (s.tileW t) w then .fault 3 0 0
    else if !ammOk (s.tileW t) o then illegal else s.queueArr t o))

/-- ADRN. -/
def execAdrn (t thr : Nat) (s : State) : Out :=
  .next (s.issueAt t thr 0x41 (fun _ => false) (fun w s =>
    let o := s.unitOp t thr w
    if widthFault (s.tileW t) w then .fault 3 0 0
    else if !adrnOk (s.tileW t) o then illegal else s.queueArr t o))

/-- ACBL. -/
def execAcbl (t thr : Nat) (s : State) : Out :=
  .next (s.issueAt t thr 0x42 (fun _ => false) (fun w s =>
    let o := s.unitOp t thr w
    if !acblOk o then illegal else s.queueArr t o))

/-- AHIST. -/
def execAhist (t thr : Nat) (s : State) : Out :=
  .next (s.issueAt t thr 0x43 (fun _ => false) (fun w s =>
    let o := s.unitOp t thr w
    if !ahistOk o then illegal else s.queueArr t o))

/-- ABAR: the thread waits until every entry ahead of it has completed; it takes no entry itself. DEDUCED: log entry 135. -/
def execAbar (t thr : Nat) (s : State) : Out :=
  .next (s.issueAt t thr 0x44 (fun _ => false) (fun w s =>
    if bits w 55 0 ≠ 0 then illegal
    else
      let n := (s.tile t).arrQ.length + (s.tile t).arrRun.length
      if n = 0 then .done s else .park .sync (.abar n) s))

/-! ### What an entry computes (R112, R113, R129, R143, R145, R153) -/

/-- A parity error that a unit finds: source, row and location of its error register (R159, R164, R225). -/
structure UnitErr where
  source : Nat
  row    : Nat
  loc    : Nat
deriving DecidableEq, Repr

/-- The first bad byte of a loft range, as an error of a source. -/
def State.loftErr (s : State) (t off n source row : Nat) : Option UnitErr :=
  if s.loftBad t off n then some ⟨source, row, off + s.badOff (loftAddr t off) n⟩ else none

/-- First error of a list of checks. -/
def firstOf : List (Option UnitErr) → Option UnitErr
  | [] => none
  | some e :: _ => some e
  | none :: r => firstOf r

/-- An element of a packed row: 4 bits (C4, I4) or 8 bits (R93). -/
def packed (four : Bool) (row : List Byte) (j : Nat) : Nat :=
  if four then (row.getD (j / 2) 0).toNat / 16 ^ (j % 2) % 16 else (row.getD j 0).toNat

/-- A codebook entry; an unloaded one is zero (R142). C8 slots follow the eight C4 slots. -/
def bookKey (c8 : Bool) (slot e : Nat) : Nat := ((if c8 then 8 else 0) + slot) * 256 + e
def Tile.bookEntry (x : Tile) (k : Nat) : Nat := (smGetD x.book k 0).toNat

/-- A weight as stored, expanded for the multiplier: its value and flags. `row` holds the stored row, j the element, `prm`
the scale byte (L8) or parameter entry (I4, I8). -/
def weightAt (x : Tile) (mode : Nat) (sig : Bool) (cb : Nat) (row : List Byte) (j prm : Nat) : LVal × Flags :=
  match mode with
  | 0 => (l8Decode (row.getD j 0).toNat prm, 0)
  | 1 => (l16Decode (field row (2 * j) 2), 0)
  | 2 => (l16Decode (x.bookEntry (bookKey false cb (packed true row j))), 0)
  | 3 => (l16Decode (x.bookEntry (bookKey true cb (packed false row j))), 0)
  | _ =>
    let four := mode == 4
    let e := expandInt (if four then 4 else 8) sig (packed four row j) (prm % 65536) (prm / 65536 % 256)
    (l16Decode e.1, e.2)

/-- The codebook entry that element j of a row reads and that fails parity. -/
def State.bookErr (s : State) (t mode cb row : Nat) (bs : List Byte) (n : Nat) : Option UnitErr :=
  if mode = 2 ∨ mode = 3 then
    ((List.range n).find? (fun j => s.isBad (.book t (bookKey (mode == 3) cb (packed (mode == 2) bs j))))).map
      (fun j => ⟨5, row, cb * 256 + packed (mode == 2) bs j⟩)
  else none

/-- Flags of a list of results. -/
def orFlags (l : List Flags) : Flags := l.foldl (· ||| ·) 0

/-- Drain one row of sums: bytes, flags and bins (R115, R118, R119, R153). -/
def drainRow (out : Nat) (sat hist : Bool) (off : Nat) (sums : List Nat) (fl : Flags) : RowOut :=
  let ds := sums.map (fun a => (a, drainOut out a sat))
  { loft := [(off, ds.flatMap (fun d => leBytes (outBytes out) d.2.1))],
    flags := fl ||| orFlags (ds.map (fun d => d.2.2)),
    bins := if hist then ds.map (fun d => drainBin out d.1 d.2.1) else [] }

/-- A sum-store row as the array sees it: the last started entry that writes it, else the store; a row whose written bit
is clear gives zero sums (R129, R132, R148). -/
def Tile.sumRow (x : Tile) (row : Nat) : List Nat :=
  let pend := (x.arrRun.flatMap (·.rows)).filterMap (fun r => r.sum)
  match pend.reverse.find? (fun e => e.1 == row) with
  | some e => e.2.map (·.toNat)
  | none => match smGet x.sums row with | some v => v.map (·.toNat) | none => []

/-- A bad sum-store row that no started entry rewrites, whatever its written bit. DESIGN CHOICE: log entry 136. -/
def State.sumErr (s : State) (t row i : Nat) : Option UnitErr :=
  let pend := ((s.tile t).arrRun.flatMap (·.rows)).filterMap (fun r => r.sum)
  if s.isBad (.sum t row) && !pend.any (fun e => e.1 == row) then some ⟨4, i, row⟩ else none

/-- Rows of an entry up to the first error. -/
def rowsUntil (f : Nat → Except UnitErr RowOut) : List Nat → List RowOut × Option UnitErr
  | [] => ([], none)
  | i :: is =>
    match f i with
    | .error e => ([], some e)
    | .ok r => let x := rowsUntil f is; (r :: x.1, x.2)

/-- The stationary block of an AMM: element k of column j, with the flags of its expansion (R125, R137, R143, R145). -/
def State.ammWeights (s : State) (t W : Nat) (o : UnitOp) : List (List (LVal × Flags)) :=
  let w := o.word.toNat
  let mode := aMode w
  let n := statBytes mode
  let wb := lo21 o.gw
  let wp := hi21 o.gw
  let plane := s.loft t wp (if mode = 0 then 2 * W else if 4 ≤ mode then 4 * W else 0)
  let rows := (List.range 32).map (fun r => s.loft t (wb + n * r) n)
  let at_ := fun (r e j : Nat) =>
    weightAt (s.tile t) mode (ammSig w) (ammCb w) (rows.getD r []) (if mode = 0 then 2 * j + e else j)
      (if mode = 0 then (plane.getD (2 * j + r / 16) 0).toNat else field plane (4 * j) 4)
  -- column j: contraction elements in order
  (List.range W).map (fun j =>
    (List.range 32).flatMap (fun r => if mode = 0 then [at_ r 0 j, at_ r 1 j] else [at_ r 0 j]))

/-- The first parity error that stops an AMM's stationary load (R159). DESIGN CHOICE on its order and row: log entry 137. -/
def State.ammLoadErr (s : State) (t W : Nat) (o : UnitOp) : Option UnitErr :=
  let w := o.word.toNat
  let mode := aMode w
  let n := statBytes mode
  let wb := lo21 o.gw
  firstOf (s.loftErr t (hi21 o.gw) (if mode = 0 then 2 * W else if 4 ≤ mode then 4 * W else 0) 1 0
    :: (List.range 32).flatMap (fun r =>
      [s.loftErr t (wb + n * r) n 1 r, s.bookErr t mode (ammCb w) r (s.loft t (wb + n * r) n) W]))

/-- Input row i of an AMM (R137). -/
def State.ammInput (s : State) (t : Nat) (o : UnitOp) (i : Nat) : List LVal :=
  let row := s.loft t (lo21 o.gx + i * half16 o.gs 0) 64
  if aMode o.word.toNat = 0 then
    let sc := s.loft t (hi21 o.gx + 2 * i) 2
    (List.range 64).map (fun k => l8Decode (row.getD k 0).toNat (sc.getD (k / 32) 0).toNat)
  else (List.range 32).map (fun k => l16Decode (field row (2 * k) 2))

/-- Initial sums of row i, with the flags of malformed containers (R89, R134). -/
def State.ammInitRow (s : State) (t W : Nat) (o : UnitOp) (i : Nat) : List (Nat × Flags) :=
  match ammInit o.word.toNat with
  | 1 => (List.range W).map (fun j => a40OfContainer (field (s.loft t (lo21 o.gp + i * half16 o.gs 2) (8 * W)) (8 * j) 8))
  | 2 => (List.range W).map (fun j => (((s.tile t).sumRow (ssBase o.gs + i)).getD j 0, 0))
  | _ => List.replicate W (0, 0)

/-- The first parity error of row i (R159). DESIGN CHOICE on its order: log entry 137. -/
def State.ammRowErr (s : State) (t W : Nat) (o : UnitOp) (i : Nat) : Option UnitErr :=
  let init := ammInit o.word.toNat
  firstOf [s.loftErr t (lo21 o.gx + i * half16 o.gs 0) 64 2 i,
    (if aMode o.word.toNat = 0 then s.loftErr t (hi21 o.gx + 2 * i) 2 2 i else none),
    (if init = 1 then s.loftErr t (lo21 o.gp + i * half16 o.gs 2) (8 * W) 3 i else none),
    (if init = 2 then s.sumErr t (ssBase o.gs + i) i else none)]

/-- Row i of an AMM: sums by R112, to the sum store or through the drain. -/
def State.ammRow (s : State) (t W : Nat) (o : UnitOp) (wt : List (List (LVal × Flags))) (i : Nat) : Except UnitErr RowOut :=
  match s.ammRowErr t W o i with
  | some e => .error e
  | none =>
    let w := o.word.toNat
    let x := s.ammInput t o i
    let init := s.ammInitRow t W o i
    let accs := (List.zip init wt).map (fun c => macList c.1 (List.zip x (c.2.map (·.1))))
    let fl := orFlags (accs.map (·.2))
    let sums := accs.map (·.1)
    .ok (if aOut w = 3 then
        { sum := some (ssBase o.gs + i, (sums ++ List.replicate (32 - W) 0).map (BitVec.ofNat 40 ·)), flags := fl }
      else drainRow (aOut w) (aSat w) (aHist w) (lo21 o.gy + i * half16 o.gs 1) sums fl)

/-- Row i of an ADRN. -/
def State.adrnRow (s : State) (t W : Nat) (o : UnitOp) (i : Nat) : Except UnitErr RowOut :=
  match s.sumErr t (ssBase o.gs + i) i with
  | some e => .error e
  | none =>
    let w := o.word.toNat
    let row := (s.tile t).sumRow (ssBase o.gs + i)
    .ok (drainRow (aOut w) (aSat w) (aHist w) (lo21 o.gy + i * half16 o.gs 1) ((List.range W).map (fun j => row.getD j 0)) 0)

/-- Add operand counts to the five bubble counters (R151, R166): how many bubbles there were, only timing can tell. -/
def State.addBubbles (s : State) (t : Nat) (b : List Nat) : State :=
  (b.zipIdx.take 5).foldl (fun s e => s.arrCtrAdd t (0x110 + 8 * e.2) e.1) s

/-- The array finds a parity error (R159): rows in flight finish, the rest of the queue goes, ARR_ERR records it and the
task ends. The entries started before the failing one, the last of arrRun, complete (R147, R166). DESIGN CHOICE: log entry 131. -/
def State.arrFail (s : State) (t : Nat) (o : UnitOp) (e : UnitErr) : State :=
  let x := s.tile t
  let s := (s.applyRuns t (x.arrRun.flatMap (fun r => r.rows.map (fun q => (r, q))))).arrCtrAdd t 0x100 (x.arrRun.length - 1)
  let s := s.updTile t (fun x => { x with
    flags := x.flags ||| orFlags (x.arrRun.map (·.load)), arrQ := [], arrRun := [],
    arrErr := firstErr x.arrErr (BitVec.ofNat 64 (e.source * 2 ^ 56 + e.row * 2 ^ 44 + e.loc)) })
  (s.tileReport 1 t (if e.source ≤ 3 then loftAddr t e.loc else 0) 0).endTask t 5 o.thr 1 o.pc (BitVec.ofNat 64 e.loc)

/-- Start an entry with its rows, which makes room in the queue (R245); a parity error stops it after the rows before the bad one. -/
def State.startRun (s : State) (t : Nat) (o : UnitOp) (load : Flags) (x : List RowOut × Option UnitErr) : State :=
  let s := s.updTile t (fun y => { y with arrQ := y.arrQ.drop 1, arrRun := y.arrRun ++ [{ op := o, load, rows := x.1 }] })
  match x.2 with
  | none => s.wake t
  | some e => s.arrFail t o e

/-- ARRAY_ENTRY_START: the array takes the next entry (R132, R141, R148). ADRN and AHIST begin only when every earlier
entry has completed, and nothing begins beside a running AHIST. An error of ACBL's bytes has row 0 (DESIGN CHOICE: log entry 137). -/
def execArrayEntryStart (t : Nat) (bubbles : List Nat) (s : State) : Out :=
  .next (
    let x := s.tile t
    let W := s.tileW t
    match x.arrQ with
    | [] => s
    | o :: _ =>
      let drained := o.opcode == 0x41 || o.opcode == 0x43
      if x.arrRun.any (fun r => r.op.opcode == 0x43) || (drained && !x.arrRun.isEmpty) then s
      else
        let s := s.addBubbles t bubbles
        match o.opcode with
        | 0x40 =>
          match s.ammLoadErr t W o with
          | some e => s.startRun t o 0 ([], some e)
          | none =>
            let wt := s.ammWeights t W o
            s.startRun t o (orFlags (wt.map (fun c => orFlags (c.map (·.2))))) (rowsUntil (s.ammRow t W o wt) (List.range (ammM o.word.toNat)))
        | 0x41 => s.startRun t o 0 (rowsUntil (s.adrnRow t W o) (List.range (ammM o.word.toNat)))
        | 0x42 =>
          let c8 := bitN o.word.toNat 55
          let slot := bits o.word.toNat 54 52
          let n := if c8 then 256 else 16
          match s.loftErr t (lo21 o.gx) (2 * n) 1 0 with
          | some e => s.startRun t o 0 ([], some e)
          | none =>
            let bs := s.loft t (lo21 o.gx) (2 * n)
            let s := s.updTile t (fun x => { x with
              book := (List.range n).foldl (fun m k => smSet m (bookKey c8 slot k) (BitVec.ofNat 16 (field bs (2 * k) 2))) x.book })
            let s := { s with bad := s.bad.filter (fun p => match p with
              | .book a e => !(a == t && e / 256 == bookKey c8 slot 0 / 256) | _ => true) }
            s.startRun t o 0 ([], none)
        | _ => s.startRun t o 0 ([], none))

/-- One entry of the array or the path has completed: waiting barriers count down (R133, R211). -/
def Thread.countDown (mv : Bool) (h : Thread) : Thread :=
  match h.wait with
  | .abar n => if mv then h else { h with wait := .abar (n - 1) }
  | .mbar n => if mv then { h with wait := .mbar (n - 1) } else h
  | _ => h

def State.barriers (s : State) (t : Nat) (mv : Bool) : State :=
  (s.updTile t (fun x => { x with threads := x.threads.map (fun e => (e.1, e.2.countDown mv)) })).wake t

/-- ARRAY_ENTRY_COMPLETE: the oldest started entry completes: its outputs, flags and bins become visible, and ABARs behind
it count it (R133, R147, R153, R166). -/
def execArrayEntryComplete (t : Nat) (bubbles : List Nat) (s : State) : Out :=
  .next (
    match (s.tile t).arrRun with
    | [] => s
    | r :: rest =>
      let s := s.updTile t (fun x => { x with flags := x.flags ||| r.load, arrRun := rest })
      let s := s.applyRuns t (r.rows.map (fun q => (r, q)))
      let s := if r.op.opcode = 0x43 then s.ahistDone t r.op else s
      ((s.addBubbles t bubbles).arrCtrAdd t 0x100 1).barriers t false)

/-! ### The matrix-vector path (R209 to R221) -/

def mvInit (w : Nat) : Bool := bitN w 48
def mvSig (w : Nat) : Bool := bitN w 47
def mvCb (w : Nat) : Nat := bits w 46 44
def mvM (w : Nat) : Nat := 2 ^ bits w 43 42
def mvNp (w : Nat) : Nat := bits w 7 0 + 1
/-- Outputs of a pass, and of the instruction (R210). -/
def mvP (w : Nat) : Nat := (if aMode w = 0 then 256 else 128) / mvM w
def mvN (w : Nat) : Nat := mvNp w * mvP w
/-- Bits of a stored weight, and bytes of a row of n weights. -/
def mvWBytes (mode n : Nat) : Nat := if mode = 1 then 2 * n else if mode = 2 ∨ mode = 4 then n / 2 else n
/-- Bytes of the K-element input row. -/
def mvXBytes (w : Nat) : Nat := if aMode w = 0 then mvK w else 2 * mvK w
/-- Elements of an I4 or I8 group, and groups of the contraction. -/
def mvGrp (o : UnitOp) : Nat := 32 * 2 ^ bits o.gs.toNat 63 62
def mvGroups (o : UnitOp) : Nat := (mvK o.word.toNat + mvGrp o - 1) / mvGrp o

/-- Rows at a stride that lie aligned in the loft. -/
def mvRows (off stride rows len : Nat) : Bool :=
  okRange off ((rows - 1) * stride + len) 64 && (rows == 1 || stride % 64 == 0)

/-- The rules of R214 (DEDUCED, log entry 11). -/
def mvmOk (o : UnitOp) : Bool :=
  let w := o.word.toNat
  let mode := aMode w
  let m := mvM w
  let n := mvN w
  let k := mvK w
  let wst := half16 o.gs 1
  let xst := half16 o.gs 0
  let yst := half16 o.gs 2
  let int := decide (4 ≤ mode)
  !bitN w 41 && decide (mode ≤ 5) && aOut w != 3 && (mode != 3 || decide (mvCb w ≤ 1))
    && o.gw.toNat / 2 ^ 42 == 0 && o.gx.toNat / 2 ^ 42 == 0 && o.gy.toNat / 2 ^ 21 == 0
    && (!mvInit w || o.gp.toNat / 2 ^ 21 == 0) && bits o.gs.toNat 61 48 == 0
    && (!int || bits o.gs.toNat 63 62 != 3)
    && wst % 64 == 0 && okRange (lo21 o.gw) ((k - 1) * wst + mvWBytes mode n) 64
    && mvRows (lo21 o.gx) xst m (mvXBytes w)
    && (mode != 0 || (okRange (hi21 o.gw) (k / 32 * n) 1 && okRange (hi21 o.gx) (m * (k / 32)) 1))
    && (!int || okRange (hi21 o.gw) (4 * (mvGroups o * n)) 4)
    && mvRows (lo21 o.gy) yst m (outBytes (aOut w) * n)
    && (!mvInit w || (mvRows (lo21 o.gp) yst m (8 * n) && (m == 1 || decide (8 * n ≤ yst))))
    && decide (mvWBytes mode n ≤ wst) && decide (mvXBytes w ≤ xst) && decide (outBytes (aOut w) * n ≤ yst)

/-- MVM. -/
def execMvm (t thr : Nat) (s : State) : Out :=
  .next (s.issueAt t thr 0x48 (fun _ => false) (fun w s =>
    let o := s.unitOp t thr w
    if !mvmOk o then illegal
    else if 8 ≤ (s.tile t).mvpQ.length then .wait .unit (.retry .mvpQ) s
    else .done (s.updTile t (fun x => { x with mvpQ := x.mvpQ ++ [o] }))))

/-- MBAR: the thread waits until every earlier entry of the path has completed. -/
def execMbar (t thr : Nat) (s : State) : Out :=
  .next (s.issueAt t thr 0x49 (fun _ => false) (fun w s =>
    if bits w 55 0 ≠ 0 then illegal
    else
      let n := (s.tile t).mvpQ.length + (s.tile t).mvpRun.length
      if n = 0 then .done s else .park .sync (.mbar n) s))

/-- Weight k of output n of an MVM (R213, R215). -/
def State.mvWeight (s : State) (t : Nat) (o : UnitOp) (row : List Byte) (base k n : Nat) : LVal × Flags :=
  let w := o.word.toNat
  let mode := aMode w
  let prm :=
    if mode = 0 then ofLe (s.loft t (hi21 o.gw + k / 32 * mvN w + n) 1)
    else if 4 ≤ mode then ofLe (s.loft t (hi21 o.gw + 4 * (k / mvGrp o * mvN w + n)) 4) else 0
  weightAt (s.tile t) mode (mvSig w) (mvCb w) row (n - base) prm

/-- Input element k of row i. -/
def State.mvInput (s : State) (t : Nat) (o : UnitOp) (i k : Nat) : LVal :=
  let w := o.word.toNat
  let row := lo21 o.gx + i * half16 o.gs 0
  if aMode w = 0 then
    l8Decode (ofLe (s.loft t (row + k) 1)) (ofLe (s.loft t (hi21 o.gx + i * (mvK w / 32) + k / 32) 1))
  else l16Decode (ofLe (s.loft t (row + 2 * k) 2))

/-- The first bad byte that pass c would consume (R221, R225). -/
def State.mvErr (s : State) (t : Nat) (o : UnitOp) (c : Nat) : Option UnitErr :=
  let w := o.word.toNat
  let mode := aMode w
  let p := mvP w
  let n := mvN w
  let m := mvM w
  let wOff := fun k => lo21 o.gw + k * half16 o.gs 1 + mvWBytes mode (c * p)
  firstOf (
    (List.range (mvK w)).map (fun k => s.loftErr t (wOff k) (mvWBytes mode p) 1 0)
    ++ (List.range m).map (fun i => s.loftErr t (lo21 o.gx + i * half16 o.gs 0) (mvXBytes w) 2 0)
    ++ (if mode = 0 then
          (List.range (mvK w / 32)).map (fun q => s.loftErr t (hi21 o.gw + q * n + c * p) p 3 0)
            ++ [s.loftErr t (hi21 o.gx) (m * (mvK w / 32)) 3 0]
        else if 4 ≤ mode then (List.range (mvGroups o)).map (fun q => s.loftErr t (hi21 o.gw + 4 * (q * n + c * p)) (4 * p) 3 0)
        else [])
    ++ (if mvInit w then (List.range m).map (fun i => s.loftErr t (lo21 o.gp + i * half16 o.gs 2 + 8 * (c * p)) (8 * p) 4 0) else [])
    ++ (List.range (mvK w)).map (fun k => s.bookErr t mode (mvCb w) 0 (s.loft t (wOff k) (mvWBytes mode p)) p))

/-- Pass c of an MVM: its output rows (R210, R213). -/
def State.mvPass (s : State) (t : Nat) (o : UnitOp) (c : Nat) : Except UnitErr RowOut :=
  match s.mvErr t o c with
  | some e => .error e
  | none =>
    let w := o.word.toNat
    let p := mvP w
    let ks := List.range (mvK w)
    let rows := ks.map (fun k => s.loft t (lo21 o.gw + k * half16 o.gs 1 + mvWBytes (aMode w) (c * p)) (mvWBytes (aMode w) p))
    let wt := (List.range p).map (fun j => (List.zip ks rows).map (fun e => s.mvWeight t o e.2 (c * p) e.1 (c * p + j)))
    let expand := orFlags (wt.map (fun col => orFlags (col.map (·.2))))
    let outs := (List.range (mvM w)).map (fun i =>
      let x := ks.map (s.mvInput t o i)
      let accs := (wt.zipIdx).map (fun e =>
        let init := if mvInit w then a40OfContainer (ofLe (s.loft t (lo21 o.gp + i * half16 o.gs 2 + 8 * (c * p + e.2)) 8)) else (0, 0)
        macList init (List.zip x (e.1.map (·.1))))
      drainRow (aOut w) (aSat w) (aHist w) (lo21 o.gy + i * half16 o.gs 2 + outBytes (aOut w) * (c * p))
        (accs.map (·.1)) (orFlags (accs.map (·.2))))
    .ok { loft := outs.flatMap (·.loft), flags := expand ||| orFlags (outs.map (·.flags)), bins := outs.flatMap (·.bins) }

/-- The path finds a parity error in an entry (R221, R225): what has drained stands, MVP_ERR records it and the task ends. Of the
passes before the bad one the last may not have drained (R216, R220). -/
def State.mvpFail (s : State) (t n : Nat) (o : UnitOp) (e : UnitErr) : State :=
  let s := (s.mvpKeep t n).updTile t (fun x => { x with
    mvpQ := [], mvpRun := [],
    mvpErr := firstErr x.mvpErr (BitVec.ofNat 64 (e.source * 2 ^ 56 + o.thr * 2 ^ 48 + e.loc)) })
  (s.tileReport 1 t (if e.source ≤ 4 then loftAddr t e.loc else 0) 0).endTask t 5 o.thr 3 o.pc (BitVec.ofNat 64 e.loc)

/-- Sums of the path have good parity again. -/
def State.cleanSums (s : State) (t : Nat) : State :=
  { s with bad := s.bad.filter (fun p => match p with | .mvSum a _ => a != t | _ => true) }

/-- A sum of the path that fails parity: its bank and unit (R225). -/
def State.sumBad (s : State) (t : Nat) : Option Nat :=
  s.bad.findSome? (fun p => match p with | .mvSum a k => if a = t then some k else none | _ => none)

/-- MVP_ENTRY_START: the path takes its next entry (R211, R216), which makes room in the queue (R245). A pass begins its sums anew. -/
def execMvpEntryStart (t : Nat) (s : State) : Out :=
  .next (
    match (s.tile t).mvpQ with
    | [] => s
    | o :: _ =>
      let x := rowsUntil (s.mvPass t o) (List.range (mvNp o.word.toNat))
      let s := if (s.tile t).mvpRun.isEmpty then s.cleanSums t else s
      let s := s.updTile t (fun y => { y with mvpQ := y.mvpQ.drop 1, mvpRun := y.mvpRun ++ [{ op := o, rows := x.1 }] })
      match x.2 with
      | none => s.wake t
      | some e =>
        let total := ((s.tile t).mvpRun.flatMap (·.rows)).length
        let (b, s) := s.free 1
        let (c, s) := s.free 32
        (s.mvpCtrAdd t 0x108 (c.toNat % (mvK o.word.toNat + 1))).mvpFail t (total - b.toNat) o e)

/-- MVP_ENTRY_COMPLETE: the oldest started entry completes (R211, R216, R227). A bad sum stops it in the pass that would drain it
(R221); which one that is, is a free value (log entry 1). -/
def execMvpEntryComplete (t stall : Nat) (s : State) : Out :=
  .next (
    match (s.tile t).mvpRun with
    | [] => s
    | r :: rest =>
      match s.sumBad t with
      | some k =>
        let (n, s) := s.free 32
        (s.cleanSums t).mvpFail t (n.toNat % max 1 r.rows.length) r.op ⟨6, 0, k⟩
      | none =>
      let s := s.updTile t (fun x => { x with mvpRun := rest })
      let s := s.applyRows t r.rows
      let w := r.op.word.toNat
      ((((s.mvpCtrAdd t 0x100 1).mvpCtrAdd t 0x108 (mvNp w * mvK w)).mvpCtrAdd t 0x110 stall)).barriers t true)

end Sys2Proof.Machine
end

