-- ==== Sys2Proof/Machine/Crypto.lean ====
section
/-!
DEFINITION. The standard algorithms that the spec names: SHA-256 (FIPS 180-4; 14 R571, 16 R639), AES-256 (FIPS 197), its
CMAC (NIST SP 800-38B; 13 R530) and key unwrapping (NIST SP 800-38F KW; 13 R536). Bytes are numbers below 256.
-/
namespace Sys2Proof.Machine

/-! ### SHA-256 -/

/-- The largest r below 2^(b+1) with r^k at most n, bit by bit from bit b on over a root r found so far. -/
def rootBits (k n : Nat) : Nat → Nat → Nat
  | 0, r => if (r + 1) ^ k ≤ n then r + 1 else r
  | b + 1, r => rootBits k n b (if (r + 2 ^ (b + 1)) ^ k ≤ n then r + 2 ^ (b + 1) else r)

/-- The primes below 312, which are 64. -/
def smallPrimes : List Nat :=
  (List.range 312).filter (fun n => decide (2 ≤ n) && (List.range 18).all (fun d => decide (d < 2 ∨ n ≤ d ∨ n % d ≠ 0)))

/-- The first 32 bits of the fractional part of the k-th root of a prime: FIPS 180-4 names its constants so. -/
def rootFraction (k p : Nat) : Nat := rootBits k (p * 2 ^ (32 * k)) 35 0 % 2 ^ 32

/-- Rotation of a word of 32 bits to the right. -/
def turn32 (x n : Nat) : Nat := x % 2 ^ n * 2 ^ (32 - n) + x / 2 ^ n
/-- The word turned by each of two amounts, with a third word. -/
def stir (x m n third : Nat) : Nat := turn32 x m ^^^ turn32 x n ^^^ third

/-- Big-endian number of bytes. -/
def ofBe (bs : List Byte) : Nat := bs.foldl (fun n b => n * 256 + b.toNat) 0
/-- The n low bytes of a number, most significant first. -/
def beBytes (n v : Nat) : List Byte := (leBytes n v).reverse

/-- The compression as two sequences of words, each latest first: a round adds one word to each, and the eight working
    variables are the latest four of both (a to d, and e to h). `ws` holds the message words still to come, the next 16 of
    them first. -/
structure Digest where
  upper : List Nat
  lower : List Nat
  ws : List Nat
  deriving DecidableEq, Repr

/-- One round with its constant: it takes the first message word and puts the word 16 places on behind the others. -/
def Digest.round (x : Digest) (k : Nat) : Digest :=
  let up (i : Nat) := x.upper.getD i 0
  let low (i : Nat) := x.lower.getD i 0
  let w (i : Nat) := x.ws.getD i 0
  let choice := low 2 ^^^ (low 0 &&& (low 1 ^^^ low 2))
  let most := (up 0 &&& up 1) ||| (up 2 &&& (up 0 ||| up 1))
  let t := low 3 + stir (low 0) 6 11 (turn32 (low 0) 25) + choice + k + w 0
  let next := w 0 + stir (w 1) 7 18 (w 1 / 8) + w 9 + stir (w 14) 17 19 (w 14 / 1024)
  { upper := (t + stir (up 0) 2 13 (turn32 (up 0) 22) + most) % 2 ^ 32 :: x.upper.take 3
    lower := (up 3 + t) % 2 ^ 32 :: x.lower.take 3
    ws := x.ws.drop 1 ++ [next % 2 ^ 32] }

/-- The words of a block of 64 bytes. -/
def blockWords (b : List Byte) : List Nat := (List.range 16).map (fun i => ofBe ((b.drop (4 * i)).take 4))

/-- The chaining value (eight words) after each of n blocks in turn, the round constants given. -/
def shaChain (ks : List Nat) : Nat → List Nat → List Byte → List Nat
  | 0, h, _ => h
  | n + 1, h, bs =>
    let x := ks.foldl Digest.round { upper := h.take 4, lower := h.drop 4, ws := blockWords bs }
    shaChain ks n (List.zipWith (fun p q => (p + q) % 2 ^ 32) h (x.upper ++ x.lower)) (bs.drop 64)

/-- A message with the bit 1, zeros and its length in bits, to a whole number of blocks. -/
def shaPadded (m : List Byte) : List Byte :=
  m ++ 0x80#8 :: List.replicate ((119 - m.length % 64) % 64) 0#8 ++ beBytes 8 (8 * m.length)

/-- The digest of a message, as its 32 bytes. -/
def sha256 (m : List Byte) : List Byte :=
  let p := shaPadded m
  (shaChain (smallPrimes.map (rootFraction 3)) (p.length / 64) ((smallPrimes.take 8).map (rootFraction 2)) p).flatMap (beBytes 4)

/-! ### AES-256 -/

/-- Multiplication by x in GF(2^8). -/
def gfX (a : Nat) : Nat := if a < 128 then 2 * a else (2 * a) ^^^ 0x11B
def gfMul : Nat → Nat → Nat → Nat
  | 0, _, _ => 0
  | n + 1, a, b => (if b % 2 = 1 then a else 0) ^^^ gfMul n (gfX a) (b / 2)
/-- Product in GF(2^8). -/
def gf (a b : Nat) : Nat := gfMul 8 a b
/-- The power a^254: the inverse, and 0 for 0. -/
def gfInv (a : Nat) : Nat :=
  let a2 := gf a a
  let a3 := gf a2 a
  let a6 := gf a3 a3
  let a12 := gf a6 a6
  let a15 := gf a12 a3
  let a30 := gf a15 a15
  let a60 := gf a30 a30
  let a120 := gf a60 a60
  let a126 := gf a120 a6
  let a127 := gf a126 a
  gf a127 a127
def rotl8 (x n : Nat) : Nat := (x * 2 ^ n + x / 2 ^ (8 - n)) % 256
/-- The S-box and its inverse. -/
def sbox (a : Nat) : Nat :=
  let b := gfInv a
  b ^^^ rotl8 b 1 ^^^ rotl8 b 2 ^^^ rotl8 b 3 ^^^ rotl8 b 4 ^^^ 0x63
def sboxInv (a : Nat) : Nat := gfInv (rotl8 a 1 ^^^ rotl8 a 3 ^^^ rotl8 a 6 ^^^ 5)

/-- Key schedule: words as lists of four bytes, latest first. `i` is the number of the next word. -/
def aesExpand : Nat → Nat → Nat → List (List Nat) → List (List Nat)
  | 0, _, _, ws => ws
  | n + 1, i, rcon, ws =>
    let t := ws.headD []
    let old := ws.getD 7 []
    let t := if i % 8 = 0 then ((t.drop 1 ++ t.take 1).map sbox).zipIdx.map (fun e => if e.2 = 0 then e.1 ^^^ rcon else e.1)
      else if i % 8 = 4 then t.map sbox else t
    aesExpand n (i + 1) (if i % 8 = 0 then gfX rcon else rcon) (List.zipWith (· ^^^ ·) old t :: ws)

/-- The fifteen round keys of 16 bytes. -/
def aesKeys (key : List Nat) : List (List Nat) :=
  let ws := (aesExpand 52 8 1 ((List.range 8).map (fun i => (key.drop (4 * i)).take 4)).reverse).reverse
  (List.range 15).map (fun r => ((ws.drop (4 * r)).take 4).flatten)

def xorL (a b : List Nat) : List Nat := List.zipWith (· ^^^ ·) a b
/-- Byte i of the state after ShiftRows is byte (i + 4·(i mod 4)) mod 16. -/
def shiftRows (s : List Nat) : List Nat := (List.range 16).map (fun i => s.getD ((i + 4 * (i % 4)) % 16) 0)
def shiftRowsInv (s : List Nat) : List Nat := (List.range 16).map (fun i => s.getD ((i + 16 - 4 * (i % 4)) % 16) 0)
def mixWith (m : List Nat) (s : List Nat) : List Nat :=
  (List.range 16).map (fun i => (List.range 4).foldl (fun v k => v ^^^ gf (m.getD ((k + 4 - i % 4) % 4) 0) (s.getD (i / 4 * 4 + k) 0)) 0)
def mixColumns (s : List Nat) : List Nat := mixWith [2, 3, 1, 1] s
def mixColumnsInv (s : List Nat) : List Nat := mixWith [14, 11, 13, 9] s

/-- Encrypt one block of 16 bytes. -/
def aesEnc (key blk : List Nat) : List Nat :=
  let ks := aesKeys key
  let s := ((ks.drop 1).take 13).foldl (fun s k => xorL (mixColumns (shiftRows (s.map sbox))) k) (xorL blk (ks.headD []))
  xorL (shiftRows (s.map sbox)) (ks.getLastD [])

/-- Decrypt one block of 16 bytes. -/
def aesDec (key blk : List Nat) : List Nat :=
  let ks := (aesKeys key).reverse
  let s := ((ks.drop 1).take 13).foldl (fun s k => mixColumnsInv (xorL ((shiftRowsInv s).map sboxInv) k)) (xorL blk (ks.headD []))
  xorL ((shiftRowsInv s).map sboxInv) (ks.getLastD [])

/-! ### CMAC and key unwrapping -/

def natBytes (bs : List Byte) : List Nat := bs.map (·.toNat)
/-- A 256-bit key as its 32 bytes, the first the least significant of the stored number. -/
def keyBytes (k : BitVec 256) : List Nat := natBytes (leBytes 32 k.toNat)
def ofBeN (bs : List Nat) : Nat := bs.foldl (fun n b => n * 256 + b) 0
def beN (n v : Nat) : List Nat := natBytes (beBytes n v)

/-- Doubling in GF(2^128). -/
def cmacDouble (v : Nat) : Nat := if v < 2 ^ 127 then 2 * v else (2 * v) % 2 ^ 128 ^^^ 0x87

def cmacBlocks (key : List Nat) : Nat → List Nat → List Nat → List Nat
  | 0, x, _ => x
  | n + 1, x, m => cmacBlocks key n (aesEnc key (xorL x (m.take 16))) (m.drop 16)

/-- AES-256-CMAC of a message of whole blocks (at least one). -/
def cmac (key m : List Nat) : List Nat :=
  let k1 := cmacDouble (ofBeN (aesEnc key (List.replicate 16 0)))
  let n := m.length / 16
  let x := cmacBlocks key (n - 1) (List.replicate 16 0) m
  aesEnc key (xorL x (xorL (m.drop (16 * (n - 1))) (beN 16 k1)))

/-- The steps of key unwrapping, from step t down: the check value and the four halves. -/
def kwSteps (key : List Nat) : Nat → List Nat → List (List Nat) → List Nat × List (List Nat)
  | 0, a, r => (a, r)
  | t + 1, a, r =>
    let i := t % 4
    let b := aesDec key (xorL a (beN 8 (t + 1)) ++ r.getD i [])
    kwSteps key t (b.take 8) (r.zipIdx.map (fun e => if e.2 = i then b.drop 8 else e.1))

/-- Unwrap a 256-bit key from 40 bytes; none if the check value is wrong. -/
def kwUnwrap (key w : List Nat) : Option (List Nat) :=
  let r := (List.range 4).map (fun i => (w.drop (8 + 8 * i)).take 8)
  let x := kwSteps key 24 (w.take 8) r
  if x.1 = List.replicate 8 0xA6 then some x.2.flatten else none

end Sys2Proof.Machine
end

