-- ==== Sys2Proof/Machine/Regs.lean ====
section
/-!
DEFINITION. What every set-up register access shares (01 R41 to R44, 13 R505, R506, 16 R628): who reaches which block, the
answer to a write, and the capability table (R45, R47) with its CRC.
-/
namespace Sys2Proof.Machine

/-! ### Blocks (R41, R719) -/

def tileBlock (t : Nat) : Nat := 0x10000000 + t * 0x10000
def grnBlock (k : Nat) : Nat := 0x20000000 + k * 0x100000
def ioBlock (d : Nat) : Nat := 0x30000000 + d * 0x1000000
def lgcBlock (d : Nat) : Nat := 0x40000000 + d * 0x1000000

/-- The tile has finished its own phase of bring-up: it has reported or has width 0 (R625, R628). -/
def State.tileDone (s : State) (t : Nat) : Bool := s.fusedOff t || s.tileW t == 0 || (s.ctl t).reported || s.bup.park.getLsbD (tileCluster t)

/-- Wake wave of a tile (R625). -/
def tileWave (t : Nat) : Nat := tileCluster t % 8

/-- The block at a set-up offset has a unit that is present and has finished its own phase (R5, R43, R628, R719; DEDUCED, log entry 12). -/
def State.blockUp (s : State) (off : Nat) : Bool :=
  if off < 0x10000 then s.bup.wasReady || s.bup.phase == 5
  else if off < 0x20000 then s.bup.checked
  else if off < 0x50000 then s.bup.grangerUp
  else if 0x100000 ≤ off ∧ off < 0x101000 then true
  else if 0x10000000 ≤ off ∧ off < tileBlock Config.tiles then
    let t := (off - 0x10000000) / 0x10000
    (!s.fusedOff t || decide (0x8000 ≤ off % 0x10000)) && (s.bup.wasReady || (decide (tileWave t < s.bup.wavesStarted) && s.tileDone t))
  else if 0x20000000 ≤ off ∧ off < grnBlock s.part.nStacks then
    let k := (off - 0x20000000) / 0x100000
    (s.stack k).st != .untrained && (s.stack k).st != .training
  else if 0x30000000 ≤ off ∧ off < ioBlock s.part.nIoDies then s.bup.checked
  else if 0x40000000 ≤ off ∧ off < lgcBlock 4 then s.bup.checked
  else false

/-- The agent can make an access at all: a host over a link that is up, Granger while it runs, firmware in firmware mode. -/
def State.agentUp (s : State) : Agent → Bool
  | .owner d => decide (d < s.part.nIoDies) && (s.hostDie d).linkUp
  | .page d _ => decide (d < s.part.nIoDies) && (s.hostDie d).linkUp
  | .granger => s.bup.grangerUp
  | .tileFw t => (s.tile t).firmware

/-- The agent may reach the set-up offset (R42, R241). -/
def Agent.reaches : Agent → Nat → Bool
  | .owner _, _ => true
  | .granger, _ => true
  | .page _ _, _ => false
  | .tileFw t, off => decide (tileBlock t ≤ off) && decide (off < tileBlock (t + 1))



/-- A refused write: a bus error with no effect; a host's posted write is dropped and recorded (R42, R43, R506). -/
def State.refuse (s : State) (a : Agent) : State :=
  let s := { s with answer := .busError }
  match a with
  | .owner d => s.hstErr d 1 0 0
  | .page d f => s.hstErr d 1 f 0
  | _ => s

/-- A pseudo-channel of the stack is recovering. -/
def Stack.recovering (x : Stack) : Bool := x.pchs.any (fun e => e.2.st == .recentring)

/-- A write is not answered yet: firmware of the tile whose block holds the offset runs a maintenance action (R657; DEDUCED, log entry
53), or it is a write of GRN_PASR while a pseudo-channel's requests wait for its recovery (R404, R409; DEDUCED, log entry 26). -/
def State.regHeld (s : State) (a : Agent) (off : Nat) : Bool :=
  (List.range 8).any (fun k => off == grnBlock k + 0x20 && (s.stack k).recovering)
  || decide (tileBlock 0 ≤ off) && decide (off < tileBlock Config.tiles)
    && (let t := (off - tileBlock 0) / 0x10000; (s.tile t).firmware && (match a with | .tileFw _ => false | _ => true))

/-- A write of a set-up register: refused where the agent or the block is not there, or where `f` answers none. DESIGN CHOICE: log entry 108. -/
def State.regWrite (s : State) (a : Agent) (off : Nat) (f : State → Option State) : State :=
  if !s.agentUp a || s.regHeld a off then s
  else if !a.reaches off || !s.blockUp off then s.refuse a
  else
    match f s with
    | none => s.refuse a
    | some s' => { s' with answer := .ok }

/-! ### CRC-32C (R45) -/

/-- One bit of the reflected CRC-32C. -/
def crcBit (c : Nat) : Nat := if c % 2 = 1 then (c / 2) ^^^ 0x82F63B78 else c / 2
def crcByte (c : Nat) (b : Byte) : Nat :=
  let c := c ^^^ b.toNat
  crcBit (crcBit (crcBit (crcBit (crcBit (crcBit (crcBit (crcBit c)))))))
def crc32c (bs : List Byte) : Nat := (bs.foldl crcByte 0xFFFFFFFF) ^^^ 0xFFFFFFFF

/-! ### The capability table (R45, R47, R627) -/

/-- Width that the table shows: a parked cluster's tiles show 0 until their tile test has been reported again (R642). DEDUCED: log entry 70. -/
def State.capWidth (s : State) (t : Nat) : Nat := if s.bup.park.getLsbD (tileCluster t) || (s.ctl t).sigDue then 0 else s.tileW t

/-- Usable pseudo-channels of a stack. -/
def State.pchMask (s : State) (k : Nat) : DWord :=
  let x := s.stack k
  if k < s.part.nStacks ∧ x.st ≠ .failed then
    BitVec.ofNat 64 (((List.range 64).filter (fun c =>
      (smGetD s.part.pchGood k (BitVec.allOnes 64)).getLsbD c && (smGetD x.pchs c {}).st != .lost)).foldl (fun n c => n + 2 ^ c) 0)
  else 0

/-- A fabric port is fitted. -/
def State.portFitted (s : State) (q : Nat) : Bool := decide (q / 8 < s.part.nIoDies)
/-- A fabric port has reached Running and is not Down, Failed or Disabled. -/
def State.portRunning (s : State) (q : Nat) : Bool :=
  s.portFitted q && ((s.fport q).st == .up || (s.fport q).st == .held
    || ((s.fport q).st == .training && (s.link q).phase == .running))
/-- Lanes that the table shows for a port (R45, R493): those in service while blocks flow; what it showed, less the lanes lost since,
once the port has run; before that, those that final test found good. -/
def State.capLanes (s : State) (q : Nat) : BitVec 9 :=
  let x := s.link q
  let mask := fun (p : Nat → Bool) => BitVec.ofNat 9 (((List.range 9).filter p).foldl (fun n l => n + 2 ^ l) 0)
  if !s.portFitted q then 0
  else if x.phase = .running then mask (fun l => (smGetD x.lanes l {}).rxGood && x.peerGood.getLsbD l)
  else
    (if x.ran && s.cap.built then smGetD s.cap.lanes q 0 else smGetD s.part.lanesGood q (BitVec.allOnes 9)) &&&
      (if x.ran then mask (fun l => !(smGetD x.lanes l {}).lost) else BitVec.allOnes 9)
def State.capRegions (s : State) : Word := s.part.regionsGood &&& ~~~s.bup.badRegions
/-- Usable logic ports: good ones of usable regions. -/
def State.capPorts (s : State) : BitVec 384 :=
  s.part.portsGood &&& ~~~(BitVec.ofNat 384
    (((List.range 384).filter (fun n => !s.capRegions.getLsbD (lportRegion n))).foldl (fun v n => v + 2 ^ n) 0))

/-- A mask of the indexes below n for which p holds. -/
def maskOf (n : Nat) (p : Nat → Bool) : Nat := ((List.range n).filter p).foldl (fun v i => v + 2 ^ i) 0

/-- A list of SMap entries from index i on, leaving out zeros. -/
def keepNZ {α : Type} [DecidableEq α] (z : α) (l : List α) : SMap α :=
  (l.zipIdx.filter (fun e => e.1 != z)).map (fun e => (e.2, e.1))

/-- The 2,816 bytes of the table. -/
def State.capBytes (s : State) (c : CapTable) : List Byte :=
  if !c.built then List.replicate 2816 0
  else
    leBytes 4 0x54504143 ++ leBytes 2 1 ++ leBytes 1 (if s.part.b0 then 16 else 0) ++ leBytes 1 (2 ^ s.part.nStacks - 1)
      ++ leBytes 1 (2 ^ s.part.nIoDies - 1) ++ leBytes 1 0 ++ leBytes 2 c.enabledTiles.toNat ++ leBytes 4 c.enabledColumns.toNat
      ++ leBytes 4 c.generation.toNat ++ leBytes 4 c.crc.toNat ++ leBytes 8 0
      ++ leBytes 4 c.regions.toNat ++ leBytes 28 0 ++ leBytes 48 c.ports.toNat ++ leBytes 16 0
      ++ (List.range 32).flatMap (fun q => leBytes 2 (smGetD c.lanes q 0).toNat)
      ++ leBytes 4 c.portsFitted.toNat ++ leBytes 4 c.portsRunning.toNat ++ leBytes 56 0
      ++ (List.range 8).flatMap (fun k => leBytes 8 (smGetD c.pch k 0).toNat) ++ leBytes 192 0
      ++ (List.range 2304).flatMap (fun t => leBytes 1 (smGetD c.tileWidth t 0).toNat)

/-- Granger rewrites the table from the module's state: the generation goes odd, then even, one greater (R47). -/
def State.capRewrite (s : State) : State :=
  let ws := (List.range Config.tiles).map s.capWidth
  let c : CapTable := {
    built := true
    generation := s.cap.generation + 2
    tileWidth := keepNZ 0 (ws.map (BitVec.ofNat 8 ·))
    enabledTiles := BitVec.ofNat 16 (ws.filter (fun w => w != 0)).length
    enabledColumns := BitVec.ofNat 32 (ws.foldl (· + ·) 0)
    regions := s.capRegions
    ports := s.capPorts
    lanes := keepNZ 0 ((List.range 32).map s.capLanes)
    portsFitted := BitVec.ofNat 32 (maskOf 32 s.portFitted)
    portsRunning := BitVec.ofNat 32 (maskOf 32 s.portRunning)
    pch := keepNZ 0 ((List.range 8).map s.pchMask) }
  let crc := crc32c (s.capBytes { c with generation := 0, crc := 0 })
  { s with cap := { c with crc := BitVec.ofNat 32 crc } }

/-- Granger rewrites the table after a change in service; before bring-up has built it there is none to rewrite. -/
def State.capUpdate (s : State) : State := if s.cap.built && s.bup.grangerUp then s.capRewrite else s

end Sys2Proof.Machine
end

