-- ==== Sys2Proof/Machine/Granary.lean ====
section
/-!
DEFINITION. The Granary (10 R389 to R426, R721): where a byte lies, the queues and their order, refresh and row-disturb
protection, training and its recovery, loss and remap of a pseudo-channel, self-refresh and reservations.
-/
namespace Sys2Proof.Machine

/-! ### Where a byte lies (R391, R406) -/

/-- Pseudo-channel and block of an offset before any remap. -/
def rawPch (off : Nat) : Nat :=
  let n := off / 256
  (n ^^^ (n / 64) ^^^ (n / 4096) ^^^ (n / 262144)) % 64
def rawBlock (off : Nat) : Nat := off / 16384

/-- The pseudo-channel that serves an offset, with bank and row. -/
structure PchPlace where
  pch  : Nat
  bank : Nat
  row  : Nat
deriving DecidableEq, Repr

def placeAt (pch j : Nat) : PchPlace := ⟨pch, j / 4 % 64, j / 256⟩

def Stack.place (x : Stack) (off : Nat) : PchPlace :=
  let l := rawPch off
  let j := rawBlock off
  if x.remap = .active ∧ l = x.remapPch.toNat then placeAt ((l + 1 + j % 63) % 64) (3906250 + j / 63) else placeAt l j

def Stack.pch (x : Stack) (c : Nat) : Pch := smGetD x.pchs c {}
def State.pch (s : State) (k c : Nat) : Pch := (s.stack k).pch c
def State.updPch (s : State) (k c : Nat) (f : Pch → Pch) : State :=
  s.updStack k (fun x => { x with pchs := smSet x.pchs c (f (x.pch c)) })

/-- The stack serves requests: trained, tested and not failed (R404, R721). -/
def Stack.serves (x : Stack) : Bool :=
  x.tested && !x.testing && (x.st == .running || x.st == .selfRefresh || x.st == .scrubbing)

/-- Pseudo-channels not lost. -/
def Stack.inService (x : Stack) : Nat := 64 - (x.pchs.filter (fun e => e.2.st == .lost)).length
/-- C in units of 1/64 GB/s (R412, R419), and S in GB/s. -/
def Stack.cap64 (x : Stack) : Nat := 1500 * x.inService
def Stack.resvSum (x : Stack) : Nat := x.resv.foldl (fun n e => n + e.2.rate.toNat) 0
/-- R414. -/
def Stack.overcommit (x : Stack) : Bool := decide (x.cap64 < 64 * x.resvSum)
/-- The hot refresh interval is in use (R396). -/
def Stack.isHot (x : Stack) : Bool := x.hot || x.hotForce

/-- GRN_ERR keeps the first error (R423). -/
def State.grnErr (s : State) (k kind pch off : Nat) : State :=
  s.updStack k (fun x => { x with err := firstErr x.err (BitVec.ofNat 64 (kind * 2 ^ 56 + pch * 2 ^ 48 + off)) })

/-- Zero a range of memory. -/
def memZero (m : List Host.Cell) (a n : Nat) : List Host.Cell := m.filter (fun c => !(decide (a ≤ c.1) && decide (c.1 < a + n)))
def State.zeroMem (s : State) (a n : Nat) : State :=
  { s with mem := memZero s.mem a n, bad := s.bad.filter (fun p => !(p.inMem a n)) }

/-! ### Requests (R392, R393, R410, R411, R593) -/

/-- Partition whose reservation a request draws on: its issuer's, for a real-time request (R411). -/
def State.rtPart (s : State) (p : Packet) : Option Nat :=
  if p.rt then match p.issuer with | .tile _ => s.issuerPart p.issuer | .lport _ => s.issuerPart p.issuer | _ => none else none

/-- Draw a real-time request's tokens. The time since the last draw, which fills the bucket, is a free value (DESIGN CHOICE, log entry 1). -/
def State.drawTokens (s : State) (k p bytes : Nat) : Bool × State :=
  let x := s.stack k
  let r := smGetD x.resv p {}
  let (ns, s) := s.free 32
  let rate := if x.overcommit then r.rate.toNat * x.cap64 * 1024 / x.resvSum else r.rate.toNat * 65536
  let have_ := min (r.burst.toNat * 1024 * 65536) (r.tokens + rate * ns.toNat)
  let cost := bytes * 65536
  let ok := decide (cost ≤ have_)
  let s := s.updStack k (fun x => { x with resv := if (smGet x.resv p).isSome then smSet x.resv p { r with tokens := if ok then have_ - cost else have_ } else x.resv })
  (ok, if ok then s else s.grnCtr k 0x240 1)

/-- Bytes that a request moves. -/
def Packet.bytes (p : Packet) : Nat := if p.op = .atomic then 32 else p.size

/-- The data effect of a request: a write or atomic becomes visible, a read takes its data, when it enters the queue
(R392). An atomic keeps its old value for its answer. DESIGN CHOICE: log entry 24. -/
def State.grnEffect (s : State) (p : Packet) (a : Nat) : Packet × State :=
  match p.op with
  | .read => ({ p with data := s.rd a p.size }, s)
  | .write => (p, s.wr a (p.data.take p.size))
  | _ =>
    let old := s.rd a p.size
    ({ p with data := old }, s.wr a (leBytes p.size (atomicNew p.aop p.size (ofLe old) p.operand.toNat p.compare.toNat)))

/-- A request of stack k enters its pseudo-channel's queue. A write is acknowledged when it does. -/
def State.grnEnter (s : State) (k off : Nat) (q : PchReq) : State :=
  let pl := (s.stack k).place off
  let e := s.grnEffect q.pkt (stackBase k + off)
  let s := e.2.updPch k pl.pch (fun c => { c with
    queue := c.queue ++ [{ q with pkt := e.1, scrubWait := false, bank := pl.bank, row := pl.row, order := c.nextOrder }],
    nextOrder := c.nextOrder + 1 })
  if q.pkt.op = .write then s.respond q.pkt .writeAck .ok [] else s

/-- The row of an offset still waits for the scrub. -/
def Stack.rowUnscrubbed (x : Stack) (off : Nat) : Bool := x.unscrubbed.contains (off / 0x400000)

/-- Delays of four byte lanes after a re-centring: each moves by at most 8 taps, by a free value. -/
def nudged (d : BitVec 28) (v : Nat) : BitVec 28 :=
  BitVec.ofNat 28 ((List.range 4).foldl (fun n b =>
    n + min 127 (d.toNat / 2 ^ (7 * b) % 128 + v / 2 ^ (8 * b) % 17 - 8) * 2 ^ (7 * b)) 0)

/-- Re-centring found the lanes' edges where delays can follow: the pseudo-channel is centred now (R403). -/
def Pch.recentred (p : Pch) (rd wd : BitVec 28) (temp : Byte) (tick : DWord) : Pch :=
  { p with rdelay := rd, wdelay := wd, centred := temp, centredTick := tick, overdue := false }

/-- The stack leaves self-refresh (R396, R409, R410): every pseudo-channel in service is re-centred, and rows with bytes of segments
not kept are to be scrubbed. The new delays are free values (DESIGN CHOICE, log entry 1). -/
def State.pasrWake (s : State) (k : Nat) : State :=
  let x := s.stack k
  if x.st = .selfRefresh then
    let n := s.freeCount
    let f := fun (e : Nat × Pch) =>
      if e.2.st = .inService then
        (e.1, e.2.recentred (nudged e.2.rdelay (Config.freeValue (n + 2 * e.1)).toNat) (nudged e.2.wdelay (Config.freeValue (n + 2 * e.1 + 1)).toNat)
          x.temp s.tick.count)
      else e
    let first := x.kept.toNat * 8000000000 / 0x400000
    let rows := if x.kept.toNat < 8 then (List.range 15259).drop first else []
    let s := { s with freeCount := n + 128 }
    (s.updStack k (fun x => { x with pchs := x.pchs.map f, unscrubbed := rows, st := if rows.isEmpty then .running else .scrubbing })).grnCtr k 0x260
      x.inService
  else s

/-- Answer a request at once with an error. -/
def State.nack (s : State) (id : Nat) (p : Packet) (st : Status) : State := (s.dropPkt id).respond p p.op.answer st []

/-- A write or atomic with a bad byte has no effect (R593). -/
def State.refuseBad (s : State) (id : Nat) (p : Packet) (source unit : Nat) : State :=
  (s.report 2 source unit (gLocal p.addr) (p.bad.headD 0) (some p.tenant) none 0).nack id p .busError

/-- A write or atomic of an issuer waits for its row's scrub: a later one of the same issuer may not pass it (R370). -/
def Stack.scrubWaits (x : Stack) (i : Issuer) : Bool :=
  x.pchs.any (fun e => e.2.queue.any (fun q => q.scrubWait && q.pkt.op != .read && q.pkt.issuer == i))

/-- A stack controller takes the next request of a memory port (R392, R393, R405, R409, R410, R593, R721). A full queue
leaves it, and what is behind it, at the port, as R370 does a write whose issuer's earlier write waits for a scrub. DEDUCED:
log entry 124. -/
def State.grnTake (s : State) (id : Nat) (p : Packet) (k off : Nat) : State :=
  if !(s.stack k).serves then s.nack id p .busError
  else
    let s := s.pasrWake k
    let pl := (s.stack k).place off
    let c := s.pch k pl.pch
    if c.st = .lost then s.nack id p .busError
    else if p.op ≠ .read ∧ p.isBad then (s.grnErr k 4 pl.pch (off / 256 * 256)).refuseBad id p 3 k
    else if p.op = .atomic ∧ !atomicOk p.aop p.size off then s.nack id p .busError
    else if decide (64 ≤ c.queue.length) || (p.op != .read && (s.stack k).scrubWaits p.issuer) then s
    else
      let (rt, s) := match s.rtPart p with | some q => s.drawTokens k q p.bytes | none => (false, s)
      let q : PchReq := { pkt := p, rt }
      let s := s.dropPkt id
      if (s.stack k).rowUnscrubbed off then
        ((s.updPch k pl.pch (fun c => { c with
            queue := c.queue ++ [{ q with scrubWait := true, bank := pl.bank, row := pl.row, order := c.nextOrder }],
            nextOrder := c.nextOrder + 1 })).updStack k (fun x =>
          { x with unscrubbed := (off / 0x400000) :: x.unscrubbed.filter (fun r => r != off / 0x400000) })).grnCtr k 0x268 1
      else s.grnEnter k off q

/-- Stack offset of a queued request. -/
def State.reqOff (s : State) (q : PchReq) : Nat := match s.target (gLocal q.pkt.addr) with | .stack _ off => off | _ => 0

/-- Requests that waited for a row that has been scrubbed take effect, in the order of their arrival. -/
def State.releaseScrubbed (s : State) (k row : Nat) : State :=
  let x := s.stack k
  let ws := x.pchs.flatMap (fun e => (e.2.queue.filter (fun q => q.scrubWait && s.reqOff q / 0x400000 == row)).map (fun q => (e.1, q)))
  ws.foldl (fun s w =>
    let s := s.updPch k w.1 (fun c => { c with queue := c.queue.filter (fun q => q.order != w.2.order) })
    s.grnEnter k (s.reqOff w.2) w.2) s

/-- Scrub one row: its bytes of segments not kept become zero, and the requests that waited for it take effect. -/
def State.scrub (s : State) (k r : Nat) : State :=
  let x := s.stack k
  let lo := max (r * 0x400000) (x.kept.toNat * 8000000000)
  let hi := min ((r + 1) * 0x400000) Config.stackBytes
  let s := s.zeroMem (stackBase k + lo) (hi - lo)
  let rest := x.unscrubbed.filter (fun q => q != r)
  let s := s.updStack k (fun x => { x with unscrubbed := rest, st := if rest.isEmpty then .running else .scrubbing })
  s.releaseScrubbed k r

/-- SCRUB_ROW: the row at the head of the scrub order is scrubbed (R410). -/
def execScrubRow (k : Nat) (s : State) : Out :=
  .next (
    match (s.stack k).st, (s.stack k).unscrubbed with
    | .scrubbing, r :: _ => s.scrub k r
    | _, _ => s)

/-! ### The next access of a pseudo-channel (R394, R399 to R401, R415) -/

/-- A write-like entry. -/
def PchReq.isWrite (q : PchReq) : Bool := q.pkt.op != .read
/-- The entry hits its bank's open row. -/
def Pch.hits (c : Pch) (q : PchReq) : Bool := match smGet c.openRow q.bank with | some (r, _) => r == q.row | none => false

/-- An open row may go on serving best-effort hits: fewer than 16 in a row while an older request waits (R394 step 4). -/
def Pch.mayHit (c : Pch) (q : PchReq) (older : Bool) : Bool :=
  match smGet c.openRow q.bank with
  | some (r, n) => r == q.row && (!older || decide (n < 16))
  | none => false

/-- An older request than this one waits. -/
def Pch.olderThan (c : Pch) (q : PchReq) : Bool := c.queue.any (fun o => !o.scrubWait && decide (o.order < q.order))

/-- The next entry by the order of R394; `aged` bounds the orders that have waited more than 8 µs. -/
def Pch.choose (c : Pch) (aged : Nat) : Option (PchReq × Bool) :=
  let ready := c.queue.filter (fun q => !q.scrubWait)
  let ws := ready.filter (·.isWrite)
  let rs := ready.filter (fun q => !q.isWrite)
  let drain := !ws.isEmpty && (decide (1 < c.draining) || decide (48 ≤ ws.length) || rs.isEmpty)
  let pool := if drain then ws else rs
  let can := pool.filter (fun q => q.rt || decide (0 < c.budget) || c.hits q)
  let rt := can.filter (·.rt)
  let be := can.filter (fun q => !q.rt)
  match rt.find? c.hits with
  | some q => some (q, false)
  | none =>
    match rt.head? with
    | some q => some (q, false)
    | none =>
      match be.find? (fun q => decide (q.order < aged)) with
      | some q => some (q, true)
      | none =>
        match be.find? (fun q => c.mayHit q (c.olderThan q)) with
        | some q => some (q, false)
        | none => be.head?.map (fun q => (q, false))

/-- The least count of the entries of other rows. -/
def minOthers (t : List (Nat × Nat)) (row : Nat) : Nat :=
  match t.filter (fun e => e.1 != row) with
  | [] => 0
  | e :: es => es.foldl (fun m x => min m x.2) e.2

/-- One activate in the activate-count table of a bank (R399): the table, and whether a neighbour refresh is due. -/
def actTable (t : List (Nat × Nat)) (row thresh : Nat) : List (Nat × Nat) × Bool :=
  let t :=
    if t.any (fun e => e.1 == row) then t.map (fun e => if e.1 = row then (row, e.2 + 1) else e)
    else if t.length < 16 then t ++ [(row, 1)]
    else
      let m := match t with | [] => 0 | e :: es => es.foldl (fun m x => min m x.2) e.2
      modifyFirst (fun e => e.2 == m) (fun e => (row, e.2 + 1)) t
  match t.find? (fun e => e.1 == row) with
  | some e => if thresh ≤ e.2 then (t.map (fun x => if x.1 = row then (row, minOthers t row) else x), true) else (t, false)
  | none => (t, false)

/-- Open a row of a bank (R399 to R401), for a request at a stack offset. -/
def State.activate (s : State) (k c bank row off : Nat) (rt : Bool) : State :=
  let x := s.stack k
  let p := x.pch c
  let a := actTable (smGetD p.acts bank []) row (x.rdThresh.toNat * 64)
  let s := (s.grnCtr k 0x210 1).updPch k c (fun p => { p with
    acts := smSet p.acts bank a.1, openRow := smSet p.openRow bank (row, 0) })
  if a.2 then
    let overrun := decide (p.budget = 0) && rt
    let s := (s.grnCtr k 0x230 1).updPch k c (fun p => { p with budget := p.budget - 1 })
    if overrun then
      let s := (s.grnCtr k 0x238 1).grnErr k 5 c (off / 256 * 256)
      if s.tick.overPosted || !s.bup.grangerUp then s
      else (s.ownerEvent 0x12 0xFF k c).updTick (fun t => { t with overPosted := true })
    else s
  else s

/-- An access uses a row: a hit of the open row, which counts while an older request waits (R394 step 4), or an activate. -/
def State.useRow (s : State) (k c bank row off : Nat) (rt older : Bool) : State :=
  match smGet (s.pch k c).openRow bank with
  | some (r, n) =>
    if r = row then s.updPch k c (fun p => { p with openRow := smSet p.openRow bank (row, if older then n + 1 else 0) })
    else s.activate k c bank row off rt
  | none => s.activate k c bank row off rt

/-- One more corrected read of a stack in the current 1 s window (R600, R616). -/
def Integrity.corrected (x : Integrity) (k : Nat) : Integrity :=
  let n := smGetD x.ceWin k 0 + 1
  { x with ceWin := smSet x.ceWin k n, ceOver := x.ceOver || (x.ceThresh != 0 && decide (x.ceThresh.toNat < n)) }

/-- Answer a queued request whose access has been made; `ecc`: 0 clean, 1 corrected, 2 uncorrectable (R415, R600). -/
def State.grnAnswer (s : State) (k c : Nat) (q : PchReq) (ecc : Nat) : State :=
  let off := s.reqOff q
  match q.pkt.op with
  | .write => s.grnCtr k 0x208 q.pkt.size
  | _ =>
    let s := if q.pkt.op = .atomic then (s.grnCtr k 0x200 32).grnCtr k 0x208 32 else s.grnCtr k 0x200 q.pkt.size
    if ecc = 2 then
      let s := ((s.grnCtr k 0x258 1).grnErr k 1 c (off / 256 * 256)).report 9 3 k (gLocal q.pkt.addr) 0 (some q.pkt.tenant) none 0
      -- an atomic whose read part fails leaves bytes that the spec does not state
      let s := if q.pkt.op = .atomic then
          let (v, s) := s.free 64
          s.wr (stackBase k + off) (leBytes q.pkt.size v.toNat)
        else s
      s.respond q.pkt q.pkt.op.answer .busError []
    else
      let s := if ecc = 1 then (s.grnCtr k 0x250 1).updInt (fun i => i.corrected k) else s
      s.respond q.pkt q.pkt.op.answer .ok (if q.pkt.op = .read || q.pkt.ret then q.pkt.data else [])

/-- A pseudo-channel performs an access that it has chosen. The severity is the worse of `ecc` and what the stack holds. -/
def State.pchServe (s : State) (k c : Nat) (q : PchReq) (ecc : Nat) : State :=
  let p := s.pch k c
  let off := s.reqOff q
  let s := s.useRow k c q.bank q.row off q.rt (p.olderThan q)
  let s := s.updPch k c (fun p => { p with
    queue := p.queue.filter (fun r => r.order != q.order),
    draining := if q.isWrite then (if p.draining = 0 then 16 else max 1 (p.draining - 1)) else 0 })
  s.grnAnswer k c q (max ecc (s.eccAt (stackBase k + off) q.pkt.size))

/-- PCH_ACCESS: a pseudo-channel chooses and performs its next access. -/
def execPchAccess (k c agedBelow ecc : Nat) (s : State) : Out :=
  .next (
    let x := s.stack k
    let p := x.pch c
    if !x.serves || x.st == .selfRefresh || p.st != .inService then s
    else
      match p.choose agedBelow with
      | none => s
      | some (q, aged) => (if aged then s.grnCtr k 0x248 1 else s).pchServe k c q ecc)

/-- ROW_CLOSE: a row closes after 64 Granary cycles without an access (R394). -/
def execRowClose (k c bank : Nat) (s : State) : Out :=
  .next (s.updPch k c (fun p => { p with openRow := smErase p.openRow bank }))

/-! ### Refresh (R397, R398, R401) -/

/-- One refresh is issued; every 8,192 of them the activate-count tables are cleared. -/
def Pch.refresh (p : Pch) : Pch :=
  if p.refreshes + 1 = 8192 then { p with refreshes := 0, acts := [] } else { p with refreshes := p.refreshes + 1 }

def Pch.rtQueued (p : Pch) : Bool := p.queue.any (·.rt)

/-- The stack's refresh machinery runs: not untrained, not in self-refresh, not failed. -/
def Stack.clocked (x : Stack) : Bool := x.st == .running || x.st == .scrubbing

/-- REFRESH_DUE: issued at once unless real-time work can postpone it. A recovering pseudo-channel issues nothing: what falls due is
owed (DEDUCED, log entry 125). -/
def execRefreshDue (k c : Nat) (s : State) : Out :=
  .next (
    let x := s.stack k
    let p := x.pch c
    if !x.clocked || p.st == .lost then s
    else if p.st = .recentring then s.updPch k c (fun p => { p with credit := min 4 (p.credit + 1) })
    else if !p.rtQueued then (s.updPch k c Pch.refresh).grnCtr k 0x218 1
    else if p.credit < 4 then (s.updPch k c (fun p => { p with credit := p.credit + 1 })).grnCtr k 0x220 1
    else ((s.updPch k c Pch.refresh).grnCtr k 0x218 1).grnCtr k 0x228 1)

/-- REFRESH_REPAY: an owed refresh is issued while no real-time request is queued. -/
def execRefreshRepay (k c : Nat) (s : State) : Out :=
  .next (
    let x := s.stack k
    let p := x.pch c
    if x.clocked && p.st == .inService && decide (0 < p.credit) && !p.rtQueued then
      (s.updPch k c (fun p => { p.refresh with credit := p.credit - 1 })).grnCtr k 0x218 1
    else s)

/-- NREF_BUDGET_GAIN: one unit every 512 ns, up to 16; it stands still in self-refresh (R401, R409). -/
def execNrefBudgetGain (k c : Nat) (s : State) : Out :=
  .next (if (s.stack k).clocked then s.updPch k c (fun p => { p with budget := min 16 (p.budget + 1) }) else s)

/-- STACK_TEMP_READ: hot above 85 °C, cool again at 80 °C or less (R396). -/
def execStackTempRead (k : Nat) (temp : Byte) (s : State) : Out :=
  .next (
    if (s.stack k).clocked then
      s.updStack k (fun x => { x with
        temp, maxTemp := if x.maxTemp.toNat < temp.toNat then temp else x.maxTemp,
        hot := if 85 < temp.toNat then true else if temp.toNat ≤ 80 then false else x.hot })
    else s)

/-! ### Loss and remap (R405 to R407, R414) -/

/-- A pseudo-channel is lost: what is queued on it is answered BUS_ERROR, and Granger is told. -/
def State.losePch (s : State) (k c : Nat) : State :=
  let was := (s.stack k).overcommit
  let q := (s.pch k c).queue
  let s := s.updPch k c (fun p => { p with st := .lost, queue := [] })
  let s := (q.filter (fun r => r.pkt.op != .write || r.scrubWait)).foldl (fun s r => s.respond r.pkt r.pkt.op.answer .busError []) s
  let s := ((s.grnErr k 3 c 0).capUpdate).grangerEvent 0x10 0xFF k c
  if !was && (s.stack k).overcommit then s.grangerEvent 0x11 0xFF k c else s

/-- A write of GRN_REMAP.go names a lost pseudo-channel; its spare blocks are zeroed (R406, R407). -/
def State.remapWrite (s : State) (k pch : Nat) : Option State :=
  let x := s.stack k
  if pch < 64 ∧ (x.pch pch).st = .lost ∧ x.remap = .none then
    some { s.updStack k (fun x => { x with remap := .pending, remapArmed := false, remapPch := BitVec.ofNat 6 pch, remapSel := BitVec.ofNat 6 pch }) with
      mem := s.mem.filter (fun m => !(decide (stackBase k ≤ m.1) && decide (m.1 < stackBase k + Config.stackBytes)
        && rawPch (m.1 - stackBase k) == pch)) }
  else none

/-- REMAP_REQUEST. -/
def execRemapRequest (a : Agent) (k pch : Nat) (s : State) : Out :=
  .next (s.regWrite a (grnBlock k + 0x28) (fun s => s.remapWrite k pch))

/-- A guard window begins: pending remaps may activate in it, and no pseudo-channel has been re-centred in it (R403, R406). -/
def Stack.guardStart (x : Stack) : Stack := { x with remapArmed := x.remap == .pending, recentred := 0 }
def State.stacksGuard (s : State) : State := { s with hbm := s.hbm.map (fun e => (e.1, e.2.guardStart)) }

/-- REMAP_ACTIVATE: the remap activates at the start of the next guard window (R406). -/
def execRemapActivate (k : Nat) (s : State) : Out :=
  .next (if s.tick.inGuard ∧ (s.stack k).remap = .pending ∧ (s.stack k).remapArmed then s.updStack k (fun x => { x with remap := .active }) else s)

/-! ### Training (R402 to R404) -/

/-- The longest run of passing taps from tap i on: start and length; the lower start of two equal runs. -/
def longestRun (m : BitVec 128) : Nat × Nat :=
  let step := fun (a : Nat × Nat × Nat) (i : Nat) =>
    -- best start, best length, current length
    if m.getLsbD i then
      let n := a.2.2 + 1
      if a.2.1 < n then (i + 1 - n, n, n) else (a.1, a.2.1, n)
    else (a.1, a.2.1, 0)
  let r := (List.range 128).foldl step (0, 0, 0)
  (r.1, r.2.1)

/-- An eye: a run of at least 16 taps; its centre. -/
def eyeOf (m : BitVec 128) : Option Nat :=
  let r := longestRun m
  if 16 ≤ r.2 then some (r.1 + (r.2 - 1) / 2) else none

/-- A sweep of a pseudo-channel: the passing taps of the read delay of byte lanes 0 to 3, then of the write delay. -/
abbrev Sweep := List (BitVec 128)
def Sweep.at (w : Sweep) (i : Nat) : BitVec 128 := w.getD i (BitVec.allOnes 128)
/-- A byte lane has an eye in both directions. -/
def laneEye (w : Sweep) (b : Nat) : Bool := (eyeOf (w.at b)).isSome && (eyeOf (w.at (4 + b))).isSome
/-- Delays of four byte lanes, 7 bits each. -/
def delays (w : Sweep) (from_ : Nat) : BitVec 28 :=
  BitVec.ofNat 28 ((List.range 4).foldl (fun n b => n + ((eyeOf (w.at (from_ + b))).getD 0) * 2 ^ (7 * b)) 0)

/-- A sweep has found the lanes' eyes. -/
def Pch.centre (p : Pch) (w : Sweep) (temp : Byte) (tick : DWord) : Pch :=
  { p.recentred (delays w 0) (delays w 4) temp tick with st := .inService }

/-- Recovery (R404): a full sweep; else redundant lanes and a second sweep; else the pseudo-channel is lost. -/
def State.recoverPch (s : State) (k c : Nat) (first second : Sweep) : State :=
  let x := s.stack k
  let bad := (List.range 4).filter (fun b => !laneEye first b)
  let t := x.temp
  if bad.isEmpty then (s.updPch k c (fun p => p.centre first t s.tick.count)).grnErr k 2 c 0
  else
    let used := smGetD x.spares (c / 2) 0
    let can := decide (used + bad.length ≤ 2) && bad.all (fun b => !(x.pch c).repaired.getLsbD b)
    if can && (List.range 4).all (laneEye second) then
      ((s.updPch k c (fun p => { p.centre second t s.tick.count with repaired := bad.foldl (fun r b => setBit r b true) p.repaired })).updStack k
        (fun x => { x with spares := smSet x.spares (c / 2) (used + bad.length) })).grnErr k 2 c 0
    else s.losePch k c

/-- GRANARY_TRAINING: the bring-up sweep of a stack (R402, R404): `ca` false, the command interface does not train. A
pseudo-channel that is not listed has every tap passing. -/
def execGranaryTraining (k : Nat) (ca : Bool) (sweeps : SMap (List (BitVec 128))) (s : State) : Out :=
  .next (
    let x := s.stack k
    if s.bup.phase ≠ 3 ∨ s.part.nStacks ≤ k ∨ (x.st ≠ .untrained ∧ x.st ≠ .training) then s
    else if !ca then s.updStack k (fun x => { x with st := .failed })
    else
      let s := s.updStack k (fun x => { x with st := .running })
      (List.range 64).foldl (fun s c =>
        if !(smGetD s.part.pchGood k (BitVec.allOnes 64)).getLsbD c then s.updPch k c (fun p => { p with st := .lost })
        else
          let w := smGetD sweeps c []
          if (List.range 4).all (laneEye w) then s.updPch k c (fun p => p.centre w (s.stack k).temp s.tick.count)
          else s.updPch k c (fun p => { p with st := .recentring })) s)

/-- Time in ns since a tick, as far as ticks measure it. DESIGN CHOICE: log entry 123. -/
def State.nsSince (s : State) (tick : DWord) : Nat := (s.tick.count.toNat - tick.toNat) * s.tick.param.period.toNat

/-- Granger asks for a re-centring of a pseudo-channel (R50, R403): the temperature has moved by 4 °C, or 100 ms have passed; a
millisecond has passed; fewer than 16 were asked for in this window; and 1.5 µs fit into it. -/
def State.mayRecentre (s : State) (k c : Nat) : Bool :=
  let x := s.stack k
  let p := x.pch c
  s.tick.inGuard && s.bup.grangerUp && x.clocked && p.st == .inService && decide (2 ≤ s.guardUs) && decide (x.recentred < 16)
    && decide (1000000 ≤ s.nsSince p.centredTick)
    && (decide (4 ≤ ((x.temp.toNat : Int) - p.centred.toNat).natAbs) || decide (100000000 ≤ s.nsSince p.centredTick))

/-- Every lane's delay lies within 8 taps of another (R403). -/
def within8 (a b : BitVec 28) : Bool :=
  (List.range 4).all (fun l =>
    let x := a.toNat / 2 ^ (7 * l) % 128
    let y := b.toNat / 2 ^ (7 * l) % 128
    decide (x ≤ y + 8) && decide (y ≤ x + 8))

/-- RECENTRE: in a guard window Granger has a pseudo-channel re-centred; `found` false, an edge lies outside its window and
recovery follows (R403, R404). -/
def execRecentre (k c : Nat) (found : Bool) (rd wd : BitVec 28) (s : State) : Out :=
  .next (
    let x := s.stack k
    let p := x.pch c
    if !s.mayRecentre k c || (found && !(within8 p.rdelay rd && within8 p.wdelay wd)) then s
    else
      let s := (s.updStack k (fun x => { x with recentred := x.recentred + 1 })).grnCtr k 0x260 1
      if found then s.updPch k c (fun p => p.recentred rd wd x.temp s.tick.count)
      else s.updPch k c (fun p => { p with st := .recentring }))

/-- TRAINING_RECOVERY. -/
def execTrainingRecovery (k c : Nat) (first second : List (BitVec 128)) (s : State) : Out :=
  .next (if (s.pch k c).st = .recentring then s.recoverPch k c first second else s)

/-- RECENTRE_OVERDUE: after 1 s of deferral Granger posts the event, once until the next re-centring (R403). -/
def execRecentreOverdue (k c : Nat) (s : State) : Out :=
  .next (
    if (s.stack k).clocked && (s.pch k c).st == .inService && !(s.pch k c).overdue && s.bup.grangerUp then
      (s.updPch k c (fun p => { p with overdue := true })).ownerEvent 0x13 0xFF k c
    else s)

/-! ### Self-refresh and reservations (R408 to R414) -/

/-- Serve everything queued on a pseudo-channel, in the order of R394. -/
def State.drainPch (s : State) (k c : Nat) : Nat → State
  | 0 => s
  | n + 1 =>
    match ({ s.pch k c with budget := 16 }).choose 0 with
    | some (q, _) => (s.pchServe k c q 0).drainPch k c n
    | none => s

/-- Finish the scrub and serve everything queued on a stack, so that it can enter self-refresh. -/
def State.drainStack (s : State) (k : Nat) : State :=
  let s := (s.stack k).unscrubbed.foldl (fun s r => s.scrub k r) s
  (s.stack k).pchs.foldl (fun s e => if e.2.st = .inService then s.drainPch k e.1 e.2.queue.length else s) s

/-- Place a stack in self-refresh. -/
def State.pasrSleep (s : State) (k : Nat) : State :=
  (s.drainStack k).updStack k (fun x => { x with
    kept := x.keep, st := .selfRefresh, pchs := x.pchs.map (fun e => (e.1, { e.2 with openRow := [] })) })

/-- A write of GRN_PASR.enter: only while no partition runs work. DEDUCED: log entry 26. -/
def State.pasrEnter (s : State) (k : Nat) : Option State :=
  if s.anyBusy then none
  else if (s.stack k).clocked then some (s.pasrSleep k) else some s

/-- PASR_ENTER. -/
def execPasrEnter (a : Agent) (k : Nat) (s : State) : Out :=
  .next (s.regWrite a (grnBlock k + 0x20) (fun s => s.pasrEnter k))

/-- PASR_EXIT: a write of GRN_PASR.exit, or (no agent) what a request does. -/
def execPasrExit (a : Option Agent) (k : Nat) (s : State) : Out :=
  .next (
    match a with
    | some a => s.regWrite a (grnBlock k + 0x20) (fun s => some (s.pasrWake k))
    | none => s)

/-- A write of GRN_RESV_p: admission against capacity (R413). -/
def State.resvWrite (s : State) (k p : Nat) (v : Word) : Option State :=
    let x := s.stack k
    let r := smGetD x.resv p {}
    let rate := v.toNat % 2048
    let burst := bits v.toNat 25 16
    if 64 ≤ p then none
    else if x.cap64 < 64 * (x.resvSum - r.rate.toNat + rate) ∧ r.rate.toNat < rate then none
    else if 0 < rate ∧ burst < 4 then none
    else if (r.rate.toNat < rate ∨ r.burst.toNat ≠ burst) ∧ s.partBusy p then none
    else some (s.updStack k (fun x => { x with resv := smSet x.resv p ⟨BitVec.ofNat 11 rate, BitVec.ofNat 10 burst, min r.tokens (burst * 1024 * 65536)⟩ }))

/-- RESERVATION_WRITE. -/
def execReservationWrite (a : Agent) (k p : Nat) (v : Word) (s : State) : Out :=
  .next (s.regWrite a (grnBlock k + 0x400 + 8 * p) (fun s => s.resvWrite k p v))

/-- GRN_CLEAR: the counters and max_temp (R422). -/
def execGrnClear (a : Agent) (k : Nat) (s : State) : Out :=
  .next (s.regWrite a (grnBlock k + 0x38) (fun s => some (s.updStack k (fun x => { x with ctr := [], maxTemp := 0 }))))

end Sys2Proof.Machine
end

