-- ==== Sys2Proof/Machine/Xlate.lean ====
section
/-!
DEFINITION. Tenant translation (07 R302 to R307): the four-level walk, the translation service of an I/O die with its
cache, and reads of whole ranges that a unit makes for itself (program, context, descriptors, copies; DESIGN CHOICE, log entry 13).
-/
namespace Sys2Proof.Machine

/-! ### Reads of module memory -/

/-- A stack answers a request for the bytes at an offset. DEDUCED: log entry 111. -/
def State.stackOk (s : State) (k off : Nat) : Bool :=
  (s.stack k).serves && (s.pch k ((s.stack k).place off).pch).st != .lost

/-- A unit of the module reads bytes of a stack in one act, as a request's read would be served (R394, R396, R399, R405, R409, R410, R415,
R424): the stack wakes, the row is scrubbed first, the access uses it, and on-die ECC may have lost the bytes. None: an error.
DESIGN CHOICE: log entry 13. -/
def State.stackFetch (s : State) (k off n : Nat) : Option (List Byte) × State :=
  if !s.stackOk k off then (none, s)
  else
    let s := s.pasrWake k
    let s := if (s.stack k).rowUnscrubbed off then (s.grnCtr k 0x268 1).scrub k (off / 0x400000) else s
    let pl := (s.stack k).place off
    let a := stackBase k + off
    let s := (s.useRow k pl.pch pl.bank pl.row off false (!(s.pch k pl.pch).queue.isEmpty)).grnCtr k 0x200 n
    match s.eccAt a n with
    | 0 => (some (s.rd a n), s)
    | 1 => (some (s.rd a n), (s.grnCtr k 0x250 1).updInt (fun i => i.corrected k))
    | _ => (none, ((s.grnCtr k 0x258 1).grnErr k 1 pl.pch (off / 256 * 256)).report 9 3 k a 0 none none 0)

/-- What reading bytes at a physical address brings. -/
inductive PhysRead where
  | ok (bs : List Byte)
  | error
  /-- the bytes lie in another module -/
  | away
deriving DecidableEq, Repr

/-- The tile answers outside requests: not fused off, disabled, parked, not yet awake or in a reset (R375, R607, R638, R644). -/
def State.tileOpen (s : State) (t : Nat) : Bool :=
  s.tileUsable t && !(s.ctl t).inReset && (s.ctl t).power == .awake

/-- Read bytes of a tile's slot, as a request of a unit would. -/
def State.readTile (s : State) (n : Nat) : Target → PhysRead
  | .loft t off => if s.tileOpen t && !s.loftBad t off n then .ok (s.loft t off n) else .error
  | .near t off =>
    if s.tileOpen t && !s.taskActive t && !s.badMem (tileBase t + nearOff + off) n then .ok (s.rd (tileBase t + nearOff + off) n) else .error
  | .inst t off =>
    if s.tileOpen t && !s.taskActive t && !s.badMem (tileBase t + instOff + off) n then .ok (s.rd (tileBase t + instOff + off) n) else .error
  | _ => .error

/-- Read at most one 256-byte block at a global address, as a request of a unit would. -/
def State.readPhys (s : State) (g : DWord) (n : Nat) : PhysRead × State :=
  match s.dest g with
  | .refused => (.error, s)
  | .module _ => (.away, s)
  | .here =>
    match s.reach (gLocal g) n with
    | .stack k off =>
      match s.stackFetch k off n with
      | (some bs, s) => (.ok bs, s)
      | (none, s) => (.error, s)
    | x => (s.readTile n x, s)

/-! ### The walk (R302 to R305) -/

/-- A level of the tree: lowest VA bit and number of bits that it indexes. -/
structure Level where
  shift : Nat
  width : Nat

def levels : List Level := [⟨39, 9⟩, ⟨30, 9⟩, ⟨21, 9⟩, ⟨16, 5⟩]

/-- Alignment and size of the table whose entries a level indexes. -/
def Level.table (l : Level) : Nat := 8 * 2 ^ l.width

/-- A table lies at its alignment in the module's populated Granary. -/
def State.tableOk (s : State) (a bytes : Nat) : Bool :=
  a % bytes == 0 && (match s.target a, s.target (a + bytes - 1) with | .stack .., .stack .. => true | _, _ => false)

/-- An entry of a table, or none when its read fails. -/
def State.tableEntry (s : State) (a : Nat) : Option Nat × State :=
  match s.target a with
  | .stack k off => let r := s.stackFetch k off 8; (r.1.map ofLe, r.2)
  | _ => (none, s)

/-- What an entry of a level says: no translation, a leaf, or the table of the next level; `top` at level 0, which has no leaf. -/
inductive Entry where
  | none
  | leaf (l : Leaf)
  | table (a : Nat)

def entryOf (tenant va : Nat) (top : Bool) (l : Level) (e : Nat) : Entry :=
  if e % 2 = 0 ∨ bits e 7 5 ≠ 0 then .none
  else if bitN e 1 then
    -- a leaf: not at level 0, aligned to its page size
    if top ∨ bits e 15 8 ≠ 0 ∨ e / 65536 * 65536 % 2 ^ l.shift ≠ 0 then .none
    else .leaf ⟨tenant, va / 2 ^ l.shift, l.shift, BitVec.ofNat 64 e⟩
  else if bits e 63 48 ≠ 0 then .none
  else .table (e / 256 * 256)

/-- Walk from a table at local address `a` through the remaining levels. -/
def State.walkFrom (s : State) (tenant va : Nat) : Bool → List Level → Nat → Option Leaf × State
  | _, [], _ => (none, s)
  | top, l :: ls, a =>
    if !s.tableOk a l.table then (none, s)
    else
      match s.tableEntry (a + 8 * (va / 2 ^ l.shift % 2 ^ l.width)) with
      | (none, s) => (none, s)
      | (some e, s) =>
        match entryOf tenant va top l e with
        | .none => (none, s)
        | .leaf x => (some x, s)
        | .table b => s.walkFrom tenant va false ls b

/-- The leaf that maps a tenant virtual address. -/
def State.walk (s : State) (tenant : Nat) (va : DWord) : Option Leaf × State :=
  if 2 ^ 48 ≤ va.toNat then (none, s) else s.walkFrom tenant va.toNat true levels (s.tenant tenant).root.toNat

/-- The translation service of I/O die d: its cache of 4,096 valid leaves, or a walk (R306). -/
def State.service (s : State) (d tenant : Nat) (va : DWord) : Option Leaf × State :=
  let c := smGetD s.xsvc d []
  match tlbFind c tenant va.toNat with
  | some l => if 2 ^ 48 ≤ va.toNat then (none, s) else (some l, { s with xsvc := smSet s.xsvc d (tlbTouch c l) })
  | none =>
    match s.walk tenant va with
    | (some l, s) => (some l, { s with xsvc := smSet s.xsvc d (tlbAdd c l 4096) })
    | (none, s) => (none, s)

/-- Physical address of a virtual one for an access that needs a permission, through die d's service. -/
def State.translate (s : State) (d tenant : Nat) (va : DWord) (need : Nat) : Option DWord × State :=
  let r := s.service d tenant va
  match r.1 with
  | some l => if l.grants need then (some (l.phys va), r.2) else (none, r.2)
  | none => (none, r.2)

/-! ### Ranges -/

/-- Why a range could not be read. -/
inductive Fetch where
  | ok (bs : List Byte)
  | untranslated (off : Nat)
  | failed (off : Nat)
deriving DecidableEq, Repr

/-- Bytes up to the next 256-byte boundary. -/
def blockLen (a n : Nat) : Nat := min n (256 - a % 256)

/-- Read n bytes from offset `off` of a tenant range at `va`, block by block; `away` supplies what lies in another
module, at its offset in the range. `fuel` bounds the blocks. -/
def State.fetchFrom (s : State) (d tenant : Nat) (va : DWord) (away : Option (List Byte)) : Nat → Nat → Nat → List Byte → Fetch × State
  | 0, off, _, _ => (.failed off, s)
  | fuel + 1, off, n, acc =>
    if n = 0 then (.ok acc, s)
    else
      let a := va + BitVec.ofNat 64 off
      let k := blockLen a.toNat n
      match s.translate d tenant a needRead with
      | (none, s) => (.untranslated off, s)
      | (some g, s) =>
        match s.readPhys g k with
        | (.ok bs, s) => s.fetchFrom d tenant va away fuel (off + k) (n - k) (acc ++ bs)
        | (.error, s) => (.failed off, s)
        | (.away, s) =>
          match away with
          | some bs => s.fetchFrom d tenant va away fuel (off + k) (n - k) (acc ++ slice bs off k)
          | none => (.failed off, s)

/-- Read n bytes of a tenant's range. -/
def State.fetchVa (s : State) (d tenant : Nat) (va : DWord) (n : Nat) (away : Option (List Byte)) : Fetch × State :=
  s.fetchFrom d tenant va away (n / 256 + 3) 0 n []

end Sys2Proof.Machine
end

