-- ==== Sys2Proof/Machine/FabOps.lean ====
section
/-!
DEFINITION. The Kermin fabric as its commands use it (11 R427 to R459): frames on ports, routes, send and receive contexts,
requests that leave the module, answers to issuers, copies, fabric multicasts and reductions.
-/
namespace Sys2Proof.Machine

/-! ### Errors, opcodes and the module's own frames (R431 to R433, R470) -/

/-- KFB_ERR of a die keeps the first error. -/
def State.kfbErr (s : State) (d kind port module detail : Nat) : State :=
  s.updKfb d (fun k => { k with err := firstErr k.err (BitVec.ofNat 64 (kind * 2 ^ 56 + port * 2 ^ 48 + module * 2 ^ 32 + detail % 2 ^ 24)) })

def FrameOp.isRequest : FrameOp → Bool
  | .read | .write | .atomic => true
  | _ => false

/-- A frame on an ordered path (R432). -/
def FrameOp.ordered : FrameOp → Bool
  | .write | .atomic | .redPart | .redResult | .redCredit | .flowClose | .flowCloseAck => true
  | _ => false

/-- A frame of an ordered flow. -/
def FrameOp.inFlow : FrameOp → Bool
  | .write | .atomic => true
  | _ => false

/-- The module's ID as frames carry it. -/
def State.ownId (s : State) : Nat := s.fab.moduleId.toNat

/-- A global address of this module's own memory. -/
def State.ownAddr (s : State) (a : Nat) : DWord := BitVec.ofNat 64 (s.ownId * 2 ^ 48 + a % 2 ^ 48)

/-- Class of a frame (R432, R433): request, response, reduction, control. -/
def FrameOp.cls : FrameOp → Nat
  | .read | .write | .atomic | .mcastWrite => 0
  | .readRsp | .writeAck | .atomicRsp | .mcastAck | .seqNack => 1
  | .redPart | .redResult | .redCredit => 2
  | .tickMarker | .barrierReport | .barrierClose | .flowClose | .flowCloseAck | .linkHello | .reserved => 3

/-- Data units of a frame (R431, R462). DEDUCED: log entry 41. -/
def Frame.dataUnits (f : Frame) : Nat :=
  match f.op with
  | .write | .mcastWrite | .readRsp | .atomicRsp | .redPart | .redResult => (f.size + 31) / 32
  | .atomic | .barrierReport | .barrierClose => 1
  | .tickMarker => 2
  | _ => 0

/-- Frame units of a frame, and the bytes they take. -/
def Frame.length (f : Frame) : Nat := 1 + f.dataUnits
def Frame.bytes (f : Frame) : Nat := 32 * f.length

/-- Queue a frame at an I/O die: arrived on a port, or made here. -/
def State.addParcel (s : State) (inPort : Option Nat) (die : Nat) (f : Frame) : State :=
  s.updFab (fun x => { x with parcels := smSet x.parcels x.nextParcel ⟨inPort, die, f⟩, nextParcel := x.nextParcel + 1 })

/-- Units that arrived on a port are consumed: their credit is owed to the peer (R429). The credit field names no adaptive lane: log
entry 40. -/
def State.oweUnits (s : State) (q : Nat) (f : Frame) : State :=
  if f.lane < 4 then s.updFport q (fun p => { p with owed := smUpd p.owed (4 * f.op.cls + f.lane) 0 (fun n => n + f.length) }) else s

/-- A frame is consumed, or leaves by another port. -/
def State.dropParcel (s : State) (id : Nat) : State :=
  let s' := s.updFab (fun x => { x with parcels := smErase x.parcels id })
  match smGet s.fab.parcels id with
  | some ⟨some q, _, f⟩ => s'.oweUnits q f
  | _ => s'

/-- A parcel that stands at its destination, of one opcode. -/
def State.parcelFor (s : State) (id : Nat) (op : FrameOp) (go : Parcel → Frame → State → State) : State :=
  match smGet s.fab.parcels id with
  | none => s
  | some p => if p.frame.op = op ∧ p.inPort.isSome ∧ p.frame.dst = s.ownId then go p p.frame s else s

/-- An unordered frame of this module, from an I/O die; an ordered one starts in escape lane 0. -/
def State.sendFrame (s : State) (die : Nat) (f : Frame) : State :=
  s.addParcel none die { f with src := s.ownId, lane := if f.op.ordered then 0 else 4 }

/-! ### Ports (R428 to R430, R433, R452, R460, R486, R598) -/

/-- Send a block with these units: it takes the next number, the acknowledgement, the stamps, and the credit of the pair whose turn it
is (R429). Outside BLOCK_RECEIVE its own times are free values (DESIGN CHOICE, log entry 1). -/
def State.pushBlock (s : State) (q : Nat) (us : List FrameUnit) (times : Option (BitVec 11 × BitVec 6)) : State :=
  let (tx, turn, s) :=
    match times with
    | some (a, b) => (a, b, s)
    | none => let r := s.free 11; let u := r.2.free 6; (r.1, u.1, u.2)
  let p := s.fport q
  let pair := (List.range 16).find? (fun i => smGetD p.owed ((p.rrCred + i) % 16) 0 != 0)
  let sel := match pair with | some i => (p.rrCred + i) % 16 | none => 0
  let cnt := min 15 (smGetD p.owed sel 0)
  let s := s.updFport q (fun p => { p with
    owed := smUpd p.owed sel 0 (fun n => n - cnt), rrCred := if pair.isSome then (sel + 1) % 16 else p.rrCred })
  s.updLink q (fun l => { l with
    retry := l.retry ++ [{ seq := l.nextSeq, ack := l.accepted, units := us, credSel := BitVec.ofNat 4 sel, credCnt := BitVec.ofNat 4 cnt,
                           echoTx := tx, echoRx := p.peerTx, echoTurn := turn }],
    nextSeq := l.nextSeq + 1 })

/-- The port's link takes a new block. -/
def State.linkTakes (s : State) (q : Nat) : Bool :=
  (s.kfb (q / 8)).enable && (s.fport q).st == .up && (s.link q).phase == .running && decide ((s.link q).retry.length < 256)

/-- Key of a lane's credits. -/
def Frame.laneKey (f : Frame) : Nat := 8 * f.op.cls + f.lane

/-- A port has credit for a frame. DESIGN CHOICE: log entry 39. -/
def State.hasCredit (s : State) (q : Nat) (f : Frame) : Bool :=
  decide (smGetD (s.fport q).used f.laneKey 0 + f.length ≤ s.part.laneUnits)

/-- The frame of a class that a port sends next: the first queued one whose lane has credit, behind no other of its lane. -/
def State.nextOf (s : State) (q cls : Nat) : Option Frame :=
  let fs := (s.fport q).queue.filter (fun f => f.op.cls == cls)
  fs.find? (fun f => s.hasCredit q f && (fs.find? (fun g => g.lane == f.lane)) == some f)

/-- The frame that a port sends next: control first, the other classes in turn (R433). -/
def State.nextFrame (s : State) (q : Nat) : Option Frame :=
  match s.nextOf q 3 with
  | some f => some f
  | none => (List.range 3).findSome? (fun i => s.nextOf q (((s.fport q).rrClass + i) % 3))

/-- A port begins a frame: it leaves the queue, uses its lane's credit, and the next class's turn comes. -/
def State.beginFrame (s : State) (q : Nat) (f : Frame) : State :=
  (s.updFport q (fun p => { p with
    queue := p.queue.erase f, used := smUpd p.used f.laneKey 0 (fun n => n + f.length),
    rrClass := if f.op.cls = 3 then p.rrClass else (f.op.cls + 1) % 3 })).kfbCtr (q / 8) 0x200 1

/-- The units of the next block: control frames first, then the rest of a frame that the last block cut, then further frames;
`room` units are left. -/
def State.fillUnits (s : State) (q : Nat) : Nat → Nat → List FrameUnit × State
  | 0, _ => ([], s)
  | fuel + 1, room =>
    match s.nextOf q 3 with
    | some f =>
      if f.length ≤ room then
        let r := (s.beginFrame q f).fillUnits q fuel (room - f.length)
        (.head f :: List.replicate f.dataUnits .data ++ r.1, r.2)
      else ([], s)
    | none =>
      let left := (s.fport q).txLeft
      if room = 0 then ([], s)
      else if 0 < left then
        let n := min left room
        let r := (s.updFport q (fun p => { p with txLeft := left - n })).fillUnits q fuel (room - n)
        (List.replicate n .data ++ r.1, r.2)
      else
        match s.nextFrame q with
        | none => ([], s)
        | some f =>
          let n := min f.dataUnits (room - 1)
          let r := ((s.beginFrame q f).updFport q (fun p => { p with txLeft := f.dataUnits - n })).fillUnits q fuel (room - 1 - n)
          (.head f :: List.replicate n .data ++ r.1, r.2)

/-- Send what a port has queued, in blocks of eight units, while its link takes blocks. -/
def State.drainPort (s : State) (q : Nat) : Nat → State
  | 0 => s
  | n + 1 =>
    if !s.linkTakes q then s
    else
      let r := s.fillUnits q 9 8
      if r.1.isEmpty then s else (r.2.pushBlock q r.1 none).drainPort q n

/-- Send all that can be sent: at most 9 units a frame, of which at least 8 fill a block or it is the last. -/
def State.drain (s : State) (q : Nat) : State := s.drainPort q (2 * (s.fport q).queue.length + 2)

/-- The queue of a port has room for a frame: it holds 256 KiB (R452). -/
def State.portRoom (s : State) (q : Nat) (f : Frame) : Bool :=
  match (s.fport q).st with
  | .down | .failed | .disabled => true
  | _ => decide (((s.fport q).queue.map Frame.bytes).foldl (· + ·) 0 + f.bytes ≤ 262144)

/-- Give a frame to a port (R452): sent, queued behind what waits, or lost when the port is Down, Failed or Disabled. A bad
header byte drops it (R598). -/
def State.portSend (s : State) (q : Nat) (f : Frame) : State :=
  if f.hdrBad then s.report 6 4 q 0 0 none none 0
  else
    match (s.fport q).st with
    | .down | .failed | .disabled => s
    | _ => (s.updFport q (fun p => { p with queue := p.queue ++ [f] })).drain q

/-- A link starts afresh or is gone: nothing is queued, half sent, half received or owed. -/
def FPort.unlinked (p : FPort) : FPort := { p with queue := [], txLeft := 0, used := [], owed := [], rx := [], rrClass := 0, rrCred := 0 }

/-- The port comes Up, after training or after it was Down: the measured delay begins anew (R474), and what is queued is sent. -/
def State.portUp (s : State) (q : Nat) : State :=
  ((s.updFport q (fun p => { p with st := .up, holdLeft := 0, echoes := [], delayValid := false })).updLink q (fun l => { l with fresh := false })).capUpdate.drain q

/-- A link that starts afresh sends LINK_HELLO first, once the die is enabled (R467, R482). -/
def State.sendHello (s : State) (q : Nat) : State :=
  if (s.kfb (q / 8)).enable && (s.link q).phase == .running && !(s.link q).helloSent then
    let f : Frame := { op := .linkHello, src := s.ownId, lane := 0, port := q }
    ((s.updLink q (fun l => { l with helloSent := true })).beginFrame q f).pushBlock q [.head f] none
  else s

/-! ### Routes (R434, R435) -/

/-- A routing-table entry. -/
structure Route where
  valid : Bool
  prim  : Nat
  alt   : Nat
  altOk : Bool
  primUp : Bool
  altUp : Bool
  adapt : Nat

def Route.ofWord (w : Nat) : Route :=
  ⟨bitN w 63, bits w 61 57, bits w 56 52, bitN w 51, bitN w 50, bitN w 49, w % 2 ^ 32⟩

/-- Look up a table entry: an entry that fails parity counts as not valid for the lookup, and is reported (R592). -/
def State.badEntry (s : State) (d k i : Nat) : Bool × State :=
  if s.isBad (.table k i) then (true, s.report 8 4 d 0 i none none 0) else (false, s)

def State.route (s : State) (d m : Nat) : Route × State :=
  let b := s.badEntry d 0 m
  (Route.ofWord (if b.1 then 0 else (smGetD s.fab.routing m 0).toNat), b.2)

/-- The port of a destination's ordered path, and whether the frame moves up a lane; none when there is no path. A path that has
failed over stays on alt until an update names it again (R452). -/
def State.orderedPort (s : State) (dst : Nat) (r : Route) : Option (Nat × Bool) :=
  if r.altOk && s.fab.onAlt.contains dst then some (r.alt, r.altUp)
  else
    match (s.fport r.prim).st with
    | .up | .held | .training => some (r.prim, r.primUp)
    | .disabled => none
    | _ => if r.altOk then some (r.alt, r.altUp) else none

/-- Destinations whose ordered path moves to alt when port q goes Down. -/
def State.movedBy (s : State) (q : Nat) : List Nat :=
  (s.fab.routing.map (·.1)).filter (fun d =>
    let r := Route.ofWord (smGetD s.fab.routing d 0).toNat
    r.valid && r.altOk && r.prim == q && !s.fab.onAlt.contains d)

/-- A port that was Down or Failed comes back: the ordered paths that had failed over from it stay on alt (R452).
DEDUCED: log entry 113. -/
def State.stayOnAlt (s : State) (q : Nat) : State :=
  let ds := s.movedBy q
  s.updFab (fun x => { x with onAlt := x.onAlt ++ ds })

/-- Ports of the adaptive lane of a route that are Up. -/
def State.adaptPorts (s : State) (r : Route) : List Nat :=
  (List.range 32).filter (fun q => r.adapt.testBit q && (s.fport q).st == .up)

/-- The port that an unordered frame takes: the one with the most adaptive credit, the lowest number first (R435), if it has credit for
the frame and room. -/
def State.adaptPort (s : State) (r : Route) (f : Frame) : Option Nat :=
  let used := fun (q : Nat) => smGetD (s.fport q).used f.laneKey 0
  match s.adaptPorts r with
  | [] => none
  | q :: qs =>
    let b := qs.foldl (fun b k => if used k < used b then k else b) q
    if s.hasCredit b f && s.portRoom b f then some b else none

/-- Send a frame on the ordered path in its escape lane. -/
def State.sendOrdered (s : State) (d : Nat) (r : Route) (f : Frame) : State :=
  match s.orderedPort f.dst r with
  | none => s
  | some (q, up) =>
    if up && f.lane == 3 then (s.kfbErr d 1 q f.dst f.seq.toNat).kfbCtr d 0x240 1
    else s.portSend q (if up then { f with lane := f.lane + 1 } else f)

/-! ### Send contexts (R437, R438, R442, R443) -/

def ctxKey (die dst : Nat) : Nat := die * 65536 + dst

/-- Bytes of an I/O die's replay pool in use. -/
def State.poolUsed (s : State) (d : Nat) : Nat :=
  s.fab.send.foldl (fun n e => if e.2.die = d then e.2.unacked.foldl (fun n f => n + f.bytes) n else n) 0

/-- Send contexts of a die in use. -/
def State.sendFlows (s : State) (d : Nat) : Nat := (s.fab.send.filter (fun e => e.2.die == d)).length

/-- I/O die that is the flow home of a flow at this module (R439). -/
def State.flowHome (s : State) (srcDie : Nat) : Nat := srcDie % s.part.nIoDies
/-- Receive contexts of a die in use. -/
def State.recvFlows (s : State) (d : Nat) : Nat := (s.fab.recv.filter (fun e => s.flowHome e.2.die == d)).length

def State.updSend (s : State) (k : Nat) (f : SendCtx → SendCtx) : State :=
  match smGet s.fab.send k with
  | none => s
  | some c => s.updFab (fun x => { x with send := smSet x.send k (f c) })

/-- The oldest frame that the source still lacks an answer for, or the next number. -/
def SendCtx.floor (c : SendCtx) : BitVec 24 := match c.unacked with | f :: _ => f.seq | [] => c.next

/-- The ordered path's port has room for a frame (R452). -/
def State.orderedRoom (s : State) (r : Route) (f : Frame) : Bool :=
  match s.orderedPort f.dst r with
  | none => true
  | some (q, _) => s.portRoom q f

/-- Remove this module's own waiting frames of a flow. -/
def State.dropFlow (s : State) (c : SendCtx) : State :=
  s.updFab (fun x => { x with parcels := x.parcels.filter (fun p =>
    !(p.2.inPort.isNone && p.2.die == c.die && p.2.frame.dst == c.dst && p.2.frame.op.inFlow)) })

/-- Send every unacknowledged frame of a flow again, in sequence order, ahead of any new one (R442). -/
def State.resend (s : State) (k : Nat) : State :=
  match smGet s.fab.send k with
  | none => s
  | some c =>
    let s := c.unacked.foldl (fun s f => s.addParcel none c.die { f with lane := 0, floor := c.floor }) (s.dropFlow c)
    s.kfbCtr c.die 0x210 c.unacked.length

/-- Issuer of a frame that die d sent (R431). -/
def Frame.issuer (f : Frame) (d : Nat) : Issuer :=
  match f.issKind with | 0 => .tile f.issIdx | 1 => .lport f.issIdx | _ => .engine d

/-- Answer the issuer of a frame over the torus, as R362 does. -/
def State.answerIssuer (s : State) (d : Nat) (f : Frame) (st : Status) (data : List Byte) (damaged : Bool) : State :=
  match s.access (f.issuer d) f.tag with
  | none => s
  | some a =>
    if a.req.op.ordered then
      s.inject { op := a.req.op.answer, src := a.req.dst, dst := a.req.src, pos := a.req.dst.router, issuer := a.issuer, tag := a.tag, uid := a.uid,
                 status := st, data, size := data.length, tenant := a.req.tenant, addr := a.req.addr,
                 bad := if damaged then List.range data.length else [] }
    else s

/-- Close a flow: the context is freed and its incarnation remembered. -/
def State.closeFlow (s : State) (k : Nat) : State :=
  match smGet s.fab.send k with
  | none => s
  | some c => s.updFab (fun x => { x with send := smErase x.send k, lastInc := smSet x.lastInc k c.inc })

/-! ### Requests that leave (R365, R435, R437, R438, R444) -/

/-- Issuer kind of a frame (R431): a copy engine's accesses are told from a ring engine's by what they are for. -/
def State.frameKind (s : State) (p : Packet) : Nat :=
  match p.issuer with
  | .tile _ => 0
  | .lport _ => 1
  | i =>
    match s.access i p.tag with
    | none => 2
    | some a =>
      match a.purpose with
      | .copyRd .. | .copyWr .. => 3
      | _ => 2
def Issuer.frameIdx (i : Issuer) (e : Endpoint) : Nat :=
  match i with
  | .tile t => t
  | .lport n => n
  | _ => match ifaceAt e with | .io _ k => k | _ => 0

/-- The frame of a request. -/
def State.frameOf (s : State) (p : Packet) (op : FrameOp) (d : Nat) : Frame :=
  { op, dst := gModule p.addr, src := s.ownId, lane := if op.ordered then 0 else 4, srcDie := d, size := p.size, data := p.data,
    aop := p.aop, ret := p.ret, issKind := s.frameKind p, issIdx := p.issuer.frameIdx p.src, tag := p.tag, tenant := p.tenant,
    damaged := p.isBad, rt := p.rt, epoch := p.epoch, addr := BitVec.ofNat 48 (gLocal p.addr), operand := p.operand, compare := p.compare }

/-- The next 16-bit request tag that no READ of a die holds: tags are taken in turn, so that a second response to a READ meets no later
READ (R444). -/
def State.readTag (s : State) (d : Nat) : Nat :=
  let used := (s.fab.reads.filter (fun r => r.die == d)).map (·.tag)
  let n := smGetD s.fab.readTags d 0
  ((List.range (used.length + 1)).map (fun i => (n + i) % 65536)).find? (fun k => !used.contains k) |>.getD n

/-- A request reaches its home I/O die on its way to another module. It waits while its flow has no context, no room in
the window or no room in the replay pool. -/
def State.leave (s : State) (id : Nat) (p : Packet) (d : Nat) : State :=
  let m := gModule p.addr
  let (r, s) := s.route d m
  if !r.valid then
    (s.kfbErr d 3 0 m (if p.op = .read then 0 else ((smGet s.fab.send (ctxKey d m)).map (·.next.toNat)).getD 0)).nack id p .busError
  else
    match p.op with
    | .read =>
      let tag := s.readTag d
      let f := { s.frameOf p .read d with tag }
      ((s.dropPkt id).updFab (fun x => { x with readTags := smSet x.readTags d ((tag + 1) % 65536), reads := x.reads ++ [{ die := d, tag, frame := f, pkt := p }] })).addParcel none d f
    | op =>
      let k := ctxKey d m
      let f := s.frameOf p (if op = .atomic then .atomic else .write) d
      let room := decide (s.poolUsed d + f.bytes ≤ 16777216)
      match smGet s.fab.send k with
      | some c =>
        if c.closing || decide (4096 ≤ c.unacked.length) || !room then s
        else
          let f := { f with seq := c.next, inc := c.inc, floor := c.floor }
          ((s.dropPkt id).updSend k (fun c => { c with next := c.next + 1, unacked := c.unacked ++ [f] })).addParcel none d f
      | none =>
        if 4096 ≤ s.sendFlows d then
          if s.fab.sendWaits.contains k then s
          else (s.updFab (fun x => { x with sendWaits := x.sendWaits ++ [k] })).kfbCtr d 0x250 1
        else if !room then s
        else
          let inc := match smGet s.fab.lastInc k with | some i => i + 1 | none => 0
          let f := { f with inc }
          ((s.dropPkt id).updFab (fun x => { x with
            sendWaits := x.sendWaits.filter (fun w => w != k), send := smSet x.send k { die := d, dst := m, inc, next := 1, unacked := [f] } })).addParcel none d f

/-! ### Checking remote access (R445) -/

def needReadBit : Nat := 4
def needWriteBit : Nat := 2
def needAtomicBits : Nat := 7

/-- A request from another module passes if a valid window of its tenant covers it with the permission it needs. -/
def State.ingress (s : State) (d tenant addr n need : Nat) : Bool × State :=
  s.fab.windows.foldl (fun a e =>
    let b := a.2.badEntry d 3 e.1
    let v := e.2.toNat
    let base := v % 2 ^ 64
    let ctl := v / 2 ^ 64
    let ok := !b.1 && bitN ctl 63 && bits ctl 62 60 &&& need == need && bits ctl 58 48 == tenant
      && decide (base ≤ addr) && decide (addr + n ≤ base + ctl % 2 ^ 32 * 65536)
    (a.1 || ok, b.2)) (false, s)

/-- Some valid window is the tenant's. -/
def State.windowOf (s : State) (d tenant : Nat) : Bool × State :=
  s.fab.windows.foldl (fun a e =>
    let b := a.2.badEntry d 3 e.1
    let ctl := e.2.toNat / 2 ^ 64
    (a.1 || (!b.1 && bitN ctl 63 && bits ctl 58 48 == tenant), b.2)) (false, s)

/-- A refused request is counted and recorded. -/
def State.denied (s : State) (d port module tenant : Nat) : State := (s.kfbCtr d 0x248 1).kfbErr d 2 port module tenant

/-! ### Copies (R447, R519) -/

def State.copy (s : State) (k : Nat) : Option Copy := s.fab.copies.find? (fun c => c.id == k)
def State.updCopy (s : State) (k : Nat) (f : Copy → Copy) : State :=
  s.updFab (fun x => { x with copies := modifyFirst (fun c => c.id == k) f x.copies })

/-- Note a failure; the lowest failing offset is reported (R519). -/
def Copy.fail (c : Copy) (off status : Nat) : Copy :=
  match c.failed with
  | some o => if off < o then { c with failed := some off, status } else c
  | none => { c with failed := some off, status }

/-- An access of the copy is outstanding. -/
def Purpose.ofCopy (k : Nat) : Purpose → Bool
  | .copyWr id _ => id == k
  | .copyRd id _ => id == k
  | _ => false

/-- Tag of an access whose design has been isolated: its answer is absorbed (R563). -/
def orphanTag : Nat := 256

/-- A logic port is given an answer. -/
def State.orsp (s : State) (n tag : Nat) (st : Status) (data : List Byte) : State :=
  if tag = orphanTag then s else s.updLport n (fun p => { p with orsp := p.orsp ++ [(tag, st, data)] })

/-- A logic port is given a multicast report. -/
def State.giveMrep (s : State) (n : Nat) (r : Nat × Nat × Nat × Nat) : State :=
  if r.1 = orphanTag then s else s.updLport n (fun p => { p with mrep := p.mrep ++ [r] })

/-- The copy has nothing left to do: it reports, and is gone. -/
def State.copyEnd (s : State) (k : Nat) : State :=
  match s.copy k with
  | none => s
  | some c =>
    let fin := c.failed.isSome || (decide (c.size ≤ c.next) && c.ready.isEmpty)
    if !fin || s.accesses.any (fun a => a.purpose.ofCopy k) then s
    else
      let s := s.updFab (fun x => { x with copies := x.copies.filter (fun y => y.id != k) })
      match c.lport with
      | some (n, tag) => s.orsp n tag (if c.failed.isNone then .ok else if c.status = UNREACHABLE then .unreachable else .busError) []
      | none =>
        let ok := c.failed.isNone
        s.finish c.ring c.seq {
          status := BitVec.ofNat 8 (if ok then 0 else c.status), result := BitVec.ofNat 64 (c.failed.getD 0),
          flags := c.red.getD 0, info := if c.red.isSome && ok then 16 else 0 }

/-- Physical address of a byte of a copy's end, in space 0 (tenant) or 2 (module local). -/
def State.copyAddr (s : State) (c : Copy) (space : Nat) (a : DWord) (need : Nat) : Option DWord × State :=
  if space = 2 then (some (s.ownAddr a.toNat), s) else s.translate c.die c.tenant a need

/-- Bytes of the block at an offset: it crosses no 256-byte boundary of an end in module memory; 512 bytes at most with a
host end. -/
def Copy.blockLen (c : Copy) (off : Nat) : Nat :=
  let n := min (c.size - off) 512
  let n := if c.srcSpace = 1 ∨ c.srcSpace = 3 then n else min n (256 - (c.src.toNat + off) % 256)
  if c.dstSpace = 1 then n else min n (256 - (c.dst.toNat + off) % 256)

/-- The copy's issuer: its ring engine, or the logic port that asked for it. -/
def Copy.issuer (c : Copy) : Issuer := match c.lport with | some (n, _) => .lport n | none => .engine c.die

/-- Pair order (R447): the first write waits for every earlier write of the copy's issuer to the destination module: its
posted writes, its earlier copies and its multicasts. -/
def State.copyMayWrite (s : State) (c : Copy) : Bool :=
  !(s.fab.copies.takeWhile (fun x => x.id != c.id)).any (fun x => x.issuer == c.issuer && x.dmod == c.dmod)
    && !(s.accessesOf c.issuer).any (fun a => a.req.op.ordered && a.remote.getD s.ownId == c.dmod && !a.purpose.ofCopy c.id
      && (match a.purpose with | .copyWr .. => false | _ => true))
    && !s.fab.mcasts.any (fun m => m.inPort.isNone && (match c.lport with
      | some (n, _) => m.lport.any (fun l => l.1 == n)
      | none => m.ring.isSome && m.die == c.die))

/-- Write a block of a copy. -/
def State.copyWrite (s : State) (c : Copy) (off : Nat) (data : List Byte) : State :=
  if c.dstSpace = 1 then s.hostWr c.die (c.dst.toNat + off) data
  else
    let a := c.dst + BitVec.ofNat 64 off
    match s.copyAddr c c.dstSpace a needWrite with
    | (none, s) => s.updCopy c.id (fun c => c.fail off (if c.dstSpace = 2 then BUS_ERROR else TRANSLATION_FAULT))
    | (some g, s) =>
      match s.mkReq (.engine c.die) .write g data.length data, s.freeTag (.engine c.die) with
      | some (p, r), some tag => s.issue (s.mkAccess (.engine c.die) tag (.copyWr c.id off) { p with tenant := c.tenant } r)
      | some _, none => s.updCopy c.id (fun c => { c with ready := (off, data) :: c.ready })
      | none, _ => s.updCopy c.id (fun c => c.fail off BUS_ERROR)

/-- Read the next block of a copy. -/
def State.copyRead (s : State) (c : Copy) : State :=
  let n := c.blockLen c.next
  let a := c.src + BitVec.ofNat 64 c.next
  match s.copyAddr c c.srcSpace a needRead with
  | (none, s) => s.updCopy c.id (fun c => c.fail c.next (if c.srcSpace = 2 then BUS_ERROR else TRANSLATION_FAULT))
  | (some g, s) =>
    match s.mkReq (.engine c.die) .read g n [], s.freeTag (.engine c.die) with
    | some (p, r), some tag =>
      (s.issue (s.mkAccess (.engine c.die) tag (.copyRd c.id c.next) { p with tenant := c.tenant } r)).updCopy c.id
        (fun c => { c with next := c.next + n })
    | some _, none => s
    | none, _ => s.updCopy c.id (fun c => c.fail c.next BUS_ERROR)

/-- Start a copy. The module of its destination is that of its first byte. -/
def State.startCopy (s : State) (c : Copy) : State :=
  let (g, s) := if c.dstSpace = 1 then (none, s) else s.copyAddr c c.dstSpace c.dst needWrite
  let m := match g with | some g => (if s.fab.idAssigned then gModule g else s.ownId) | none => s.ownId
  let k := s.fab.nextTag
  s.updFab (fun x => { x with copies := x.copies ++ [{ c with id := k, dmod := m }], nextTag := k + 1 })

/-- Copies between module memories that a copy engine runs (R447: at most 16). DEDUCED: log entry 49. -/
def State.engineCopies (s : State) (d : Nat) : Nat :=
  (s.fab.copies.filter (fun c => c.die == d && c.srcSpace != 1 && c.dstSpace != 1 && c.red.isNone)).length

/-! ### Fabric multicasts (R448 to R450) -/

/-- A group-table entry. -/
structure Group where
  valid : Bool
  member : Bool
  tenant : Nat
  members : Nat
  tree  : Nat

def State.group (s : State) (d g : Nat) : Group × State :=
  let b := s.badEntry d 1 g
  let w := if b.1 then 0 else (smGetD s.fab.mgroups g 0).toNat
  (⟨bitN w 63, bitN w 62, bits w 61 51, bits w 47 32 + 1, w % 2 ^ 32⟩, b.2)

def State.mcast (s : State) (k : Nat) : Option Mcast := s.fab.mcasts.find? (fun c => c.id == k)
def State.updMcast (s : State) (k : Nat) (f : Mcast → Mcast) : State :=
  s.updFab (fun x => { x with mcasts := modifyFirst (fun c => c.id == k) f x.mcasts })

/-- A branch is pruned. -/
def Mcast.prune (m : Mcast) (q : Nat) : Mcast :=
  { m with waiting := setBit m.waiting q false, mask := setBit m.mask q true, pruned := true }
def State.pruneBranch (s : State) (k q : Nat) : State :=
  ((s.updMcast k (fun m => m.prune q)).kfbCtr (q / 8) 0x260 1).kfbErr (q / 8) 4 q (s.fport q).peerModule.toNat
    ((s.mcast k).map (·.group) |>.getD 0)

/-- The report of a multicast at its sender (R450, R520, R561). -/
def State.mcastReport (s : State) (m : Mcast) : State :=
  let (g, s) := s.group m.here m.group
  let s := s.updFab (fun x => { x with mcasts := x.mcasts.filter (fun y => y.id != m.id) })
  let mask := m.mask ||| m.waiting.setWidth 33 ||| (if m.localDue then 1#33 <<< 32 else 0)
  match m.ring, m.lport with
  | some (r, seq), _ =>
    s.finish r seq { status := if m.count = g.members then 0 else BitVec.ofNat 8 MCAST_PARTIAL,
                     result := mask.setWidth 64, result2 := BitVec.ofNat 32 m.count }
  | none, some (n, tag) => s.giveMrep n (tag, m.count, g.members, mask.toNat)
  | none, none => s

/-- When every branch has answered: the sender's report, or this module's acknowledgement toward the sender: back out the
arrival port, or routed when that port is Down or Failed (R449 step 4). -/
def State.mcastAdvance (s : State) (k : Nat) : State :=
  match s.mcast k with
  | none => s
  | some m =>
    if m.waiting ≠ 0 ∨ m.localDue then s
    else
      match m.inPort with
      | none => s.mcastReport m
      | some q =>
        let s := s.updFab (fun x => { x with mcasts := x.mcasts.filter (fun y => y.id != k) })
        let f : Frame := { op := .mcastAck, dst := m.src, src := s.ownId, lane := 0, srcDie := m.die, tag := m.tag, group := m.group,
                           count := m.count, pruned := m.pruned }
        match (s.fport q).st with
        | .down | .failed => s.addParcel none (q / 8) { f with lane := 4 }
        | _ => s.portSend q f

/-- Ports of a group's tree other than the one that a frame came by. -/
def Group.ports (g : Group) (inPort : Option Nat) : List Nat := (List.range 32).filter (fun q => g.tree.testBit q && inPort != some q)

/-- A multicast can be acted on: every branch's port can take the whole frame (R449 step 3), and the local write has a tag. -/
def State.mcastReady (s : State) (g : Group) (inPort : Option Nat) (f : Frame) (i : Issuer) : Bool :=
  (g.ports inPort).all (fun q => s.portRoom q f) && (!g.member || (s.freeTag i).isSome)

/-- Send a multicast's copies and begin its local write: `i` issues the local write. -/
def State.mcastSpread (s : State) (m : Mcast) (g : Group) (f : Frame) (i : Issuer) (check : Bool) : State :=
  let ports := g.ports m.inPort
  let m := { m with waiting := BitVec.ofNat 32 (ports.foldl (fun n q => n + 2 ^ q) 0) }
  let s := s.updFab (fun x => { x with mcasts := x.mcasts ++ [m] })
  let s := ports.foldl (fun s q =>
    match (s.fport q).st with
    | .down | .failed | .disabled => s.pruneBranch m.id q
    | _ => s.portSend q f) s
  let lost := fun (s : State) => s.updMcast m.id (fun m => { m with pruned := true, mask := setBit m.mask 32 true })
  let s :=
    if !g.member then s
    else if f.damaged then lost (s.report 2 4 m.here f.addr.toNat 0 (some f.tenant) none 0)
    else
      let (ok, s) := if check then s.ingress m.here f.tenant f.addr.toNat f.data.length needWriteBit else (true, s)
      if !ok then lost (s.denied m.here (m.inPort.getD 0) m.src f.tenant)
      else
        match s.mkReq i .write (s.ownAddr f.addr.toNat) f.data.length f.data, s.freeTag i with
        | some (p, r), some tag =>
          (s.updMcast m.id (fun m => { m with localDue := true })).issue (s.mkAccess i tag (.mcastLocal m.id) { p with tenant := f.tenant } r)
        | _, _ => lost s
  s.mcastAdvance m.id

/-- The frame of a multicast that this module sends. -/
def State.mcastFrame (s : State) (d group tenant addr : Nat) (data : List Byte) (kind idx : Nat) : Frame :=
  { op := .mcastWrite, src := s.ownId, lane := 0, srcDie := d, size := data.length, data, issKind := kind, issIdx := idx,
    tag := s.fab.nextTag % 65536, tenant, addr := BitVec.ofNat 48 addr, group }

/-- What sending a multicast does: a refusal by the group entry (a bus error at issue), a wait, or the multicast sent. -/
inductive McastSent where
  | refused (s : State)
  | waits
  | sent (s : State)

/-- Send a multicast from this module (R449 at the sender). -/
def State.mcastSend (s : State) (d group tenant addr : Nat) (data : List Byte) (kind idx : Nat) (ring lport : Option (Nat × Nat)) : McastSent :=
  let (g, t) := s.group d group
  if !g.valid ∨ g.tenant ≠ tenant then .refused t
  else
    let k := s.fab.nextTag
    let f := s.mcastFrame d group tenant addr data kind idx
    let i : Issuer := match lport with | some (n, _) => .lport n | none => .engine d
    if !t.mcastReady g none f i then .waits
    else
      .sent ((t.updFab (fun x => { x with nextTag := k + 1 })).mcastSpread
        { id := k, group, src := s.ownId, tag := k % 65536, die := d, here := d, tick := s.tick.count.toNat, ring, lport } g f i false)

/-! ### Flow home: responses (R441) -/

def State.updRecv (s : State) (k : Nat) (f : RecvCtx → RecvCtx) : State :=
  match smGet s.fab.recv k with
  | none => s
  | some c => s.updFab (fun x => { x with recv := smSet x.recv k (f c) })

/-- Key of a receive context: source module and source I/O die. -/
def recvKey (src die : Nat) : Nat := src * 4 + die

/-- The flow home sends the response of a frame and keeps it. -/
def State.flowAnswer (s : State) (k seq inc tag : Nat) (op : FrameOp) (st : Status) (data : List Byte) (damaged : Bool) : State :=
  let src := k / 4
  let die := k % 4
  let f : Frame := { op, dst := src, srcDie := die, seq := BitVec.ofNat 24 seq, inc := BitVec.ofNat 8 inc, tag, status := st, data,
                     size := data.length, damaged }
  (s.updRecv k (fun c => if c.inc.toNat = inc then { c with kept := c.kept ++ [f] } else c)).sendFrame (s.flowHome die) f

end Sys2Proof.Machine
end

