-- ==== Sys2Proof/Machine/Scalar.lean ====
section
/-!
DEFINITION. The scalar, branch, predicate, memory, synchronisation and firmware instructions of a tile (06 R232 to R242).
Each meaning names its opcode, its encoding check and its action; `State.issueAt` reads the word at the thread's pc.
-/
namespace Sys2Proof.Machine

/-! ### Integer arithmetic (R233) -/

/-- An S-format instruction that writes g[gd] from g[ga] and b. -/
def State.alu (s : State) (t thr o : Nat) (u : Uses) (f : Nat → DWord → DWord → DWord) : State :=
  s.issueAt t thr o (fun _ => true) (guarded t thr u.ok (fun w s =>
    .done (s.setG t thr (sGd w) (f w (s.g t thr (sGa w)) (s.opB t thr w)))))

def usesAB : Uses := { gd := true, ga := true, b := true }

/-- ADD: gd = ga + b. -/
def execAdd (t thr : Nat) (s : State) : Out := .next (s.alu t thr 0x00 usesAB (fun _ a b => a + b))
/-- SUB: gd = ga − b. -/
def execSub (t thr : Nat) (s : State) : Out := .next (s.alu t thr 0x01 usesAB (fun _ a b => a - b))
/-- MUL: the low 64 bits of ga · b. -/
def execMul (t thr : Nat) (s : State) : Out := .next (s.alu t thr 0x02 usesAB (fun _ a b => a * b))
/-- The high 64 bits of a product, unsigned or signed. -/
def mulHigh (signed : Bool) (a b : DWord) : DWord :=
  if signed then BitVec.ofInt 64 (a.toInt * b.toInt / 2 ^ 64) else BitVec.ofNat 64 (a.toNat * b.toNat / 2 ^ 64)
/-- MULH: the high 64 bits of ga · b; fn 1 signed. -/
def execMulh (t thr : Nat) (s : State) : Out :=
  .next (s.alu t thr 0x03 { usesAB with fns := [0, 1] } (fun w a b => mulHigh (sFn w == 1) a b))
/-- AND. -/
def execAnd (t thr : Nat) (s : State) : Out := .next (s.alu t thr 0x04 usesAB (fun _ a b => a &&& b))
/-- OR. -/
def execOr (t thr : Nat) (s : State) : Out := .next (s.alu t thr 0x05 usesAB (fun _ a b => a ||| b))
/-- XOR. -/
def execXor (t thr : Nat) (s : State) : Out := .next (s.alu t thr 0x06 usesAB (fun _ a b => a ^^^ b))
/-- SHL: shift left by b[5:0]. -/
def execShl (t thr : Nat) (s : State) : Out := .next (s.alu t thr 0x07 usesAB (fun _ a b => a <<< (b.toNat % 64)))
/-- SHR: logical shift right by b[5:0]. -/
def execShr (t thr : Nat) (s : State) : Out := .next (s.alu t thr 0x08 usesAB (fun _ a b => a >>> (b.toNat % 64)))
/-- SAR: arithmetic shift right by b[5:0]. -/
def execSar (t thr : Nat) (s : State) : Out := .next (s.alu t thr 0x09 usesAB (fun _ a b => a.sshiftRight (b.toNat % 64)))
/-- MIN: fn 0 signed, 1 unsigned. -/
def execMin (t thr : Nat) (s : State) : Out :=
  .next (s.alu t thr 0x0A { usesAB with fns := [0, 1] } (fun w a b =>
    if sFn w = 0 then (if a.slt b then a else b) else (if a.ult b then a else b)))
/-- MAX: fn 0 signed, 1 unsigned. -/
def execMax (t thr : Nat) (s : State) : Out :=
  .next (s.alu t thr 0x0B { usesAB with fns := [0, 1] } (fun w a b =>
    if sFn w = 0 then (if a.slt b then b else a) else (if a.ult b then b else a)))
/-- MOVHI: gd[63:32] = imm, gd[31:0] unchanged. -/
def execMovhi (t thr : Nat) (s : State) : Out :=
  .next (s.issueAt t thr 0x0C (fun _ => true) (guarded t thr (Uses.ok { gd := true, imm := true }) (fun w s =>
    .done (s.setG t thr (sGd w) (BitVec.ofNat 64 (bits w 39 8 * 2 ^ 32 + (s.g t thr (sGd w)).toNat % 2 ^ 32))))))

/-- The conditions of CMP (R233). -/
def cmpCond (fn : Nat) (a b : DWord) : Bool :=
  match fn with
  | 0 => a == b
  | 1 => a != b
  | 2 => a.slt b
  | 3 => !a.slt b
  | 4 => a.ult b
  | _ => !a.ult b
/-- CMP: pd = (ga cond b). -/
def execCmp (t thr : Nat) (s : State) : Out :=
  .next (s.issueAt t thr 0x0D (fun _ => true)
    (guarded t thr (Uses.ok { pd := true, ga := true, b := true, fns := [0, 1, 2, 3, 4, 5] }) (fun w s =>
      .done (s.setP t thr (sGd w) (cmpCond (sFn w) (s.g t thr (sGa w)) (s.opB t thr w))))))
/-- SEL: gd = p[fn] ? ga : b. -/
def execSel (t thr : Nat) (s : State) : Out :=
  .next (s.issueAt t thr 0x0E (fun _ => true)
    (guarded t thr (Uses.ok { usesAB with fns := [0, 1, 2, 3, 4, 5, 6, 7] }) (fun w s =>
      .done (s.setG t thr (sGd w)
        (if (s.thread t thr).pred (sFn w) then s.g t thr (sGa w) else s.opB t thr w)))))

/-! ### Branches and predicates (R233, R242) -/

/-- A taken branch: a target that is no multiple of 8, or outside the tile's region, is an illegal instruction. -/
def State.branch (s : State) (t : Nat) (pc : DWord) (s' : State) : Verdict :=
  if pc.toNat % 8 ≠ 0 then illegal
  else if (s.tile t).firmware || s.pcOk t pc then .jump pc s'
  else illegal

/-- BR: pc = pc + imm · 8. -/
def execBr (t thr : Nat) (s : State) : Out :=
  .next (s.issueAt t thr 0x20 (fun _ => true) (guarded t thr (Uses.ok { imm := true }) (fun w s =>
    s.branch t ((s.thread t thr).pc + sImm w * 8) s)))
/-- JR: pc = ga. -/
def execJr (t thr : Nat) (s : State) : Out :=
  .next (s.issueAt t thr 0x21 (fun _ => true) (guarded t thr (Uses.ok { ga := true }) (fun w s =>
    s.branch t (s.g t thr (sGa w)) s)))
/-- LOOP: gd = gd − 1; when it is not 0, pc = pc + imm · 8. -/
def execLoop (t thr : Nat) (s : State) : Out :=
  .next (s.issueAt t thr 0x22 (fun _ => true) (guarded t thr (Uses.ok { gd := true, imm := true }) (fun w s =>
    let v := s.g t thr (sGd w) - 1
    let s' := s.setG t thr (sGd w) v
    if v = 0 then .done s' else s.branch t ((s.thread t thr).pc + sImm w * 8) s')))
/-- CALL: gd = pc + 8; pc = pc + imm · 8. -/
def execCall (t thr : Nat) (s : State) : Out :=
  .next (s.issueAt t thr 0x23 (fun _ => true) (guarded t thr (Uses.ok { gd := true, imm := true }) (fun w s =>
    let pc := (s.thread t thr).pc
    s.branch t (pc + sImm w * 8) (s.setG t thr (sGd w) (pc + 8)))))

/-- The operations of PLOG. -/
def plogOp (fn : Nat) (x y : Bool) : Bool :=
  match fn with
  | 0 => x && y
  | 1 => x || y
  | 2 => xor x y
  | _ => x && !y
/-- PLOG: pd = p[x] op p[y]; x and y are bits [48:46] and [43:41] of the word. -/
def execPlog (t thr : Nat) (s : State) : Out :=
  .next (s.issueAt t thr 0x28 (fun _ => true)
    (guarded t thr (fun w => Uses.ok { pd := true, ga := true, gb := true, fns := [0, 1, 2, 3] } w
        && decide (sGa w < 8) && decide (sGb w < 8)) (fun w s =>
      let h := s.thread t thr
      .done (s.setP t thr (sGd w) (plogOp (sFn w) (h.pred (sGa w)) (h.pred (sGb w)))))))

/-! ### Memory and atomics (R234 to R237) -/

/-- Extend a loaded value of n bytes. -/
def extend (sx : Bool) (n v : Nat) : DWord :=
  if sx then BitVec.ofInt 64 (bitsInt true (8 * n) v) else BitVec.ofNat 64 v

/-- A fault verdict that also leaves an error report (R592, R610). -/
def State.parityAt (s : State) (t thr off n : Nat) : Verdict :=
  let a := off + s.badOff (loftAddr t off) n
  let s := s.tileReport 1 t (loftAddr t a) 0
  .own (s.faultEnd t 5 thr 0 (s.thread t thr).pc (BitVec.ofNat 64 a))

/-- A thread's miss: it waits for the answer of a space-1 load or value-returning atomic (R236). A load takes no tag; its
access is named by the thread's miss register. -/
def State.startMiss (s : State) (t thr : Nat) (tag : Nat) (m : Miss) (p : Packet) (remote : Option Nat) : State :=
  ((s.updThread t thr (fun h => { h with st := .miss, miss := some m, pc := h.pc + 8 })).issue
    (s.mkAccess (.tile t) tag (.miss thr) p remote)).seqCtrAdd t 0x120 1

/-- A miss to an address that goes nowhere (R33, R364): it issues, and a bus error returns (R237, R268). -/
def State.missNowhere (s : State) (t thr : Nat) (m : Miss) : State :=
  (s.updThread t thr (fun h => { h with st := .miss, miss := some { m with ans := some (.busError, [], false) }, pc := h.pc + 8 })).seqCtrAdd t 0x120 1

/-- A store or posted atomic to such an address issues and is refused (R237). -/
def State.storeNowhere (s : State) (t thr : Nat) (a : DWord) : State :=
  let pc := (s.thread t thr).pc
  (s.updThread t thr (fun h => { h with pc := h.pc + 8 })).endTask t 6 thr 6 pc a

/-- LD. -/
def execLd (t thr : Nat) (s : State) : Out :=
  .next (s.issueAt t thr 0x30 (fun _ => true)
    (guarded t thr (Uses.ok { gd := true, ga := true, imm := true, fns := List.range 16 }) (fun w s =>
      let n := 2 ^ (sFn w % 4)
      let sx := bitN (sFn w) 2
      let a := s.g t thr (sGa w) + sImm w
      if bitN (sFn w) 3 then
        s.space1 t thr a n needRead false (fun pa s =>
          match s.tileReq t .read pa n [] with
          | none => .own (s.missNowhere t thr { gd := sGd w, size := n, sext := sx, addr := a, pc := (s.thread t thr).pc })
          | some (p, r) =>
            .own ((s.chargeClass t .read n r.isSome).startMiss t thr (s.loadTag t thr)
              { gd := sGd w, size := n, sext := sx, addr := a, pc := (s.thread t thr).pc } p r))
      else if !loftRange a n then .fault 4 0 a
      else if s.loftBad t a.toNat n then s.parityAt t thr a.toNat n
      else .done (s.setG t thr (sGd w) (extend sx n (ofLe (s.loft t a.toNat n)))))))

/-- A space-0 store in firmware mode also reaches near memory and the instruction store, at their slot offsets (R38, R39,
R261; DEDUCED, log entry 9). -/
def firmwareStore (a : DWord) (n : Nat) : Bool :=
  a.toNat % n == 0 && decide (nearOff ≤ a.toNat) && decide (a.toNat + n ≤ instOff + 0x10000)

/-- ST. -/
def execSt (t thr : Nat) (s : State) : Out :=
  .next (s.issueAt t thr 0x31 (fun _ => false)
    (guarded t thr (Uses.ok { ga := true, gb := true, imm := true, fns := [0, 1, 2, 3, 8, 9, 10, 11] }) (fun w s =>
      let n := 2 ^ (sFn w % 4)
      let a := s.g t thr (sGa w) + sImm w
      let data := leBytes n (s.g t thr (sGb w)).toNat
      if bitN (sFn w) 3 then
        s.space1 t thr a n needWrite true (fun pa s =>
          match s.tileReq t .write pa n data with
          | none => .own (s.storeNowhere t thr a)
          | some (p, r) =>
            .done ((s.chargeClass t .write n r.isSome).issue
              (s.mkAccess (.tile t) ((s.freeTag (.tile t)).getD 0) (.store thr (s.thread t thr).pc a) p r)))
      else if (s.tile t).firmware && firmwareStore a n then .done (s.loftWr t a.toNat data)
      else if !loftRange a n then .fault 4 0 a
      else .done (s.loftWr t a.toNat data))))

/-- ATOM: fields of its immediate (R235). -/
def atomAop (w : Nat) : Nat := bits w 39 36
def atomSize (w : Nat) : Nat := bits w 35 34
def atomSpace (w : Nat) : Bool := bitN w 33
def atomRet (w : Nat) : Bool := bitN w 32

/-- The encoding checks of ATOM: bits [31:8] are 0, the aop is listed and permits the size; gd is used by ret and CAS. -/
def atomEnc (w : Nat) : Bool :=
  sFn w == 0 && !sI w && bits w 31 8 == 0 && aopSize (atomAop w) (atomSize w)
    && (atomRet w || atomAop w == 6 || sGd w == 0)

/-- ATOM. -/
def execAtom (t thr : Nat) (s : State) : Out :=
  .next (s.issueAt t thr 0x32 (fun _ => false) (guarded t thr atomEnc (fun w s =>
    let n := 2 ^ atomSize w
    let a := s.g t thr (sGa w)
    let x := s.g t thr (sGb w)
    let c := s.g t thr (sGd w)
    if atomSpace w then
      s.space1 t thr a n needAtomic true (fun pa s =>
        match s.tileReq t .atomic pa n [] with
        | none =>
          .own (if atomRet w then s.missNowhere t thr { gd := sGd w, size := n, sext := false, addr := a, pc := (s.thread t thr).pc }
            else s.storeNowhere t thr a)
        | some (p, r) =>
          let p := { p with aop := atomAop w, ret := atomRet w, operand := x, compare := c }
          let tag := (s.freeTag (.tile t)).getD 0
          let s := s.chargeClass t .atomic n r.isSome
          if atomRet w then
            .own (s.startMiss t thr tag { gd := sGd w, size := n, sext := false, addr := a, pc := (s.thread t thr).pc } p r)
          else .done (s.issue (s.mkAccess (.tile t) tag (.store thr (s.thread t thr).pc a) p r)))
    else if !loftRange a n then .fault 4 0 a
    else if s.loftBad t a.toNat n then s.parityAt t thr a.toNat n
    else
      let old := ofLe (s.loft t a.toNat n)
      let s := s.loftWr t a.toNat (leBytes n (atomicNew (atomAop w) n old x.toNat c.toNat))
      .done (if atomRet w then s.setG t thr (sGd w) (BitVec.ofNat 64 old) else s))))

/-! ### Synchronisation, tick and thread control (R238 to R240) -/

/-- FENCE: fn 1 release, 2 acquire, 3 both. It waits in Sync until what it orders is acknowledged or has returned. -/
def execFence (t thr : Nat) (s : State) : Out :=
  .next (s.issueAt t thr 0x38 (fun _ => true) (guarded t thr (Uses.ok { fns := [1, 2, 3] }) (fun w s =>
    let f := Wait.fence (sFn w != 2) (sFn w != 1)
    if s.waitOver t thr f then .done s else .park .sync f s)))

/-- SPOST: add imm[15:0] to semaphore fn; a count above 65,535 is a SYNC_FAULT; then the waiters are served. -/
def execSpost (t thr : Nat) (s : State) : Out :=
  .next (s.issueAt t thr 0x39 (fun _ => false) (guarded t thr (Uses.ok { imm16 := true, fns := List.range 16 }) (fun w s =>
    let c := smGetD (s.tile t).sems (sFn w) 0 + bits w 23 8
    if 65535 < c then .fault 9 0 0
    else .done (s.updTile t (fun x =>
      { x with sems := smSet x.sems (sFn w) c }.serveSem (sFn w) x.semOrder)))))

/-- SWAIT: wait until semaphore fn holds imm[15:0], behind every earlier waiter, then subtract it. -/
def execSwait (t thr : Nat) (s : State) : Out :=
  .next (s.issueAt t thr 0x3A (fun _ => false)
    (guarded t thr (fun w => Uses.ok { imm16 := true, fns := List.range 16 } w && bits w 23 8 != 0) (fun w s =>
      let n := sFn w
      let amount := bits w 23 8
      let x := s.tile t
      let earlier := x.semOrder.any (fun k => match (x.th k).wait with | .sem m _ => m == n | _ => false)
      if !earlier && decide (amount ≤ smGetD x.sems n 0) then
        .done (s.updTile t (fun x => { x with sems := smUpd x.sems n 0 (fun c => c - amount) }))
      else
        .park .sync (.sem n amount) (s.updTile t (fun x => { x with semOrder := x.semOrder ++ [thr] })))))

/-- TREAD: fn 1, the cycles since the task started, is a free value (no cycle is counted); so are the ticks of fn 4 and 5 in firmware
mode, where there is no task (log entry 1). -/
def execTread (t thr : Nat) (s : State) : Out :=
  .next (s.issueAt t thr 0x3B (fun _ => true) (guarded t thr (Uses.ok { gd := true, fns := [0, 1, 2, 3, 4, 5] }) (fun w s =>
    let l := match (s.tile t).task with | some k => k.launch | none => {}
    match sFn w with
    | 0 => .done (s.setG t thr (sGd w) s.tick.count)
    | 1 => let (v, s) := s.free 64; .done (s.setG t thr (sGd w) v)
    | 2 => .done (s.setG t thr (sGd w) (BitVec.ofNat 64 t))
    | 3 => .done (s.setG t thr (sGd w) (BitVec.ofNat 64 thr))
    | n =>
      if (s.tile t).task.isNone then let (v, s) := s.free 64; .done (s.setG t thr (sGd w) v)
      else .done (s.setG t thr (sGd w) (if n = 4 then l.start else l.deadline)))))

/-- TWAIT: fn 0 the next tick edge, 1 the next guard-start edge, 2 until TCK_COUNT ≥ g[ga]. -/
def execTwait (t thr : Nat) (s : State) : Out :=
  .next (s.issueAt t thr 0x3C (fun _ => false)
    (guarded t thr (fun w => Uses.ok { ga := sFn w == 2, fns := [0, 1, 2] } w) (fun w s =>
      match sFn w with
      | 0 => .park .sync .tickEdge s
      | 1 => .park .sync .guardEdge s
      | _ =>
        let n := s.g t thr (sGa w)
        if n.toNat ≤ s.tick.count.toNat then .done s else .park .sync (.tickCount n) s)))

/-- TEXIT: the thread goes Off; the task ends OK when it was the last of the mask (R254). -/
def execTexit (t thr : Nat) (s : State) : Out :=
  .next (s.issueAt t thr 0x3D (fun _ => false) (guarded t thr (Uses.ok {}) (fun _ s =>
    let s := s.updThread t thr (fun h => { h with st := .off, wait := .none })
    let live := (List.range 8).any (fun k => (s.thread t k).st != .off)
    .own (if (s.tile t).firmware then s.endFirmware t else if live then s else s.endTask t 0 thr 0 0 0))))

/-- TEND: the task ends OK. In firmware mode, where no task runs, it ends firmware as FEND does (DEDUCED, log entry 71). -/
def execTend (t thr : Nat) (s : State) : Out :=
  .next (s.issueAt t thr 0x3E (fun _ => false) (guarded t thr (Uses.ok {}) (fun _ s =>
    .own (if (s.tile t).firmware then s.endFirmware t else s.endTask t 0 thr 0 0 0))))

end Sys2Proof.Machine
end

