-- ==== Sys2Proof/Machine/Streams.lean ====
section
/-!
DEFINITION. The stream engine (07 R269 to R312): slots and halves, the stream instructions, injection and delivery, linked
streams and their tokens, and a tile's translation traffic.
-/
namespace Sys2Proof.Machine

/-! ### Halves and groups (R274, R277, R278) -/

def Slot.isInput (x : Slot) : Bool := x.d.dir == 0 || x.d.dir == 3
def Slot.isOutput (x : Slot) : Bool := x.d.dir == 1 || x.d.dir == 2
def Slot.linked (x : Slot) : Bool := x.d.dir == 2 || x.d.dir == 3

/-- Groups of a use. -/
def Desc.groups (d : Desc) : Nat := (d.total + d.perHalf - 1) / d.perHalf

/-- An input half that starts to fill with group g, or with nothing when the use has no such group. -/
def Desc.filling (d : Desc) (g : Nat) : Half :=
  if g < d.groups then { group := g, bytes := d.groupLen g * d.elem } else {}

/-- Give the Filling halves their groups again from group g, the next one to be taken first (R277, R289). -/
def Slot.refill (x : Slot) (g : Nat) : Slot :=
  let i := x.takeHalf
  let a := (x.half i).st == .engine
  let b := (x.half (i + 1)).st == .engine
  let x := if a then x.setHalf i (x.d.filling g) else x
  let x := if b then x.setHalf (i + 1) (x.d.filling (g + b2n a)) else x
  { x with nextGroup := g + b2n a + b2n b }

/-- A use from element 0: both halves Filling, or both Free (R278, R288). -/
def Slot.startUse (x : Slot) (d : Desc) (use : Word) : Slot :=
  let y : Slot := { st := .active, d, use, arming := x.arming, waiters := x.waiters, early := x.early, credits := x.credits, xlate := x.xlate }
  if d.dir = 0 ∨ d.dir = 3 then y.refill 0 else { y with h0 := { st := .free }, h1 := { st := .free } }

/-- Half of an output that the engine drains: the oldest pushed one. -/
def Slot.drainHalf (x : Slot) : Nat :=
  if (x.half x.relHalf).st = .engine then x.relHalf else (x.relHalf + 1) % 2

/-- Half of an input that will be delivered next: the one with the group of the next element to deliver. -/
def Slot.dueHalf (x : Slot) : Option Nat :=
  [0, 1].find? (fun i => (x.half i).st == .engine && (x.half i).bytes != 0 && (x.half i).group == x.nextDel / x.d.perHalf)

/-- Groups of an output that have been issued or sent in full. -/
def Slot.issuedGroups (x : Slot) : Nat := if x.d.total ≤ x.nextReq then x.d.groups else x.nextReq / x.d.perHalf

def Slot.takenCount (x : Slot) : Nat := b2n (x.h0.st == .taken) + b2n (x.h1.st == .taken)

/-- Group of the half that SPUSH pushes next. -/
def Slot.pushGroup (x : Slot) : Nat := x.issuedGroups + x.drainCount

/-! ### SWAITB (R285, R287, R293) -/

/-- The half word of R285. -/
def halfWord (fin failed : Bool) (bytes off : Nat) : DWord :=
  BitVec.ofNat 64 (b2n fin * 2 ^ 63 + b2n failed * 2 ^ 62 + bytes * 2 ^ 21 + off)

/-- What an SWAITB gets now: its word and the slot it leaves; none when it must wait. DEDUCED: log entry 29. -/
def Slot.take (x : Slot) : Option (DWord × Slot) :=
  let i := x.takeHalf
  let h := x.half i
  if x.st = .idle then some (halfWord true false 0 0, x)
  else if x.isInput then
    if h.st = .ready then
      let last := decide (x.d.total ≤ x.nextDel) && (x.half (i + 1)).st != .ready
      some (halfWord last false h.bytes (x.d.halfOff i), { x.updHalf i (fun h => { h with st := .taken }) with takeHalf := (i + 1) % 2 })
    else if x.st = .closed then some (halfWord true x.failed 0 0, x)
    else if x.d.total ≤ x.nextDel then some (halfWord true false 0 0, x)
    else none
  else if x.st = .closed then some (halfWord true x.failed 0 0, x)
  else
    let g := x.pushGroup + x.takenCount
    if x.d.groups ≤ g then some (halfWord true false 0 0, x)
    else if h.st = .free then
      some (halfWord (g + 1 == x.d.groups) false x.d.halfBytes (x.d.halfOff i),
        { x.updHalf i (fun h => { h with st := .taken }) with takeHalf := (i + 1) % 2 })
    else none

/-- The word takes a half of an input (R298 counts those). -/
def tookInput (x : Slot) (w : DWord) : Bool := x.isInput && w.toNat / 2 ^ 21 % 2 ^ 21 != 0

/-- Serve the threads that wait in SWAITB, in the order in which they issued it; `late` is the cycles a half was waited
for (R287, R298). DESIGN CHOICE: log entry 37. -/
def State.serveWaiters (s : State) (t k late : Nat) : Nat → State
  | 0 => s
  | n + 1 =>
    let x := s.slot t k
    match x.waiters with
    | [] => s
    | (thr, gd) :: ws =>
      match x.take with
      | none => s
      | some (w, y) =>
        let s := (s.updSlot t k (fun _ => { y with waiters := ws })).setG t thr gd w
        let s := s.updThread t thr (fun h => h.ready (s.tile t).readySt)
        let s := if tookInput x w then (s.strCtr t 0x108 1).strCtr t 0x110 late else s
        s.serveWaiters t k late n

/-- Serve waiters where the step does not say how long they waited: the cycles are a free value (DESIGN CHOICE, log entry 1). -/
def State.serve (s : State) (t k : Nat) : State :=
  if (s.slot t k).waiters.isEmpty || (s.slot t k).take.isNone then s.wake t
  else
    let (v, s) := s.free 32
    (s.serveWaiters t k v.toNat 8).wake t

/-! ### The end of a use (R271, R290, R293) -/

/-- The tile's streams go on: its task runs, or has ended OK (R256, R310). -/
def State.streaming (s : State) (t : Nat) : Bool :=
  match (s.tile t).task with | some k => k.phase == .running || (k.phase == .ending && k.code == 0) | none => false

/-- Unacknowledged writes and linked halves of a slot. -/
def State.slotWrites (s : State) (t k : Nat) : Bool :=
  (s.accessesOf (.tile t)).any (fun a => match a.purpose with | .streamWr j .. => j == k | .linkHalf j .. => j == k | _ => false)

/-- Threads tainted by a half that is gone go to their restart pc, after their REP (R338). -/
def State.squashTaint (s : State) (t slot half : Nat) : State :=
  (List.range 8).foldl (fun s k =>
    if (s.thread t k).taint.contains (slot, half) then
      if (s.tile t).rep.any (fun r => r.thr == k) then s.updThread t k (fun h => { h with redirect := true }) else s.redirect t k
    else s) s

/-- Held halves of a linked input go, with what threads made of them (R338, R342). DEDUCED: log entry 31. -/
def State.discardHeld (s : State) (t k : Nat) : State :=
  let x := s.slot t k
  let s := s.dropHeld t k
  let s := if x.h0.held then s.squashTaint t k 0 else s
  if x.h1.held then s.squashTaint t k 1 else s

/-- A linked slot leaves Active for Closed (R293, R294), and no other does: a producer drops what it has not sent; a consumer gives up its
held halves and sends CLOSE. DEDUCED: log entry 30. -/
def State.closeSlot (s : State) (t k : Nat) : State :=
  let x := s.slot t k
  if x.st ≠ .active ∨ !x.linked then s
  else
    let s := if x.d.dir = 3 then ((s.strCtr t 0x118 x.heldHalves).discardHeld t k).sendToken t k .close else s
    (s.updSlot t k (fun x => { x.dropUnsent with st := .closed, failed := true })).serve t k

/-- Number of a use among all uses of the slot in this task: the arming, and the use count within it (R288). -/
def Slot.useId (x : Slot) : Nat := x.arming * 2 ^ 32 + x.use.toNat

/-- A use that is complete leaves Active: Done or Idle, with END or CLOSE on a link (R271, R293). -/
def State.finishUse (s : State) (t k : Nat) : State :=
  let x := s.slot t k
  if x.st ≠ .active ∨ !s.streaming t then s
  else if x.isInput then
    if x.d.total ≤ x.nextDel ∧ x.h0.st = .engine ∧ x.h1.st = .engine then
      let s := if x.d.dir = 3 then s.sendToken t k .close else s
      (s.updSlot t k (fun x => if x.d.persistent then { x with st := .done } else { x.idled with waiters := x.waiters })).serve t k
    else s
  else if x.d.total ≤ x.nextReq ∧ x.drainCount = 0 ∧ x.tentGroup = none ∧ (x.d.persistent ∨ !s.slotWrites t k) then
    let s := if x.d.dir = 2 then s.sendToken t k .fin else s
    (s.updSlot t k (fun x => if x.d.persistent then { x with st := .done } else { x.idled with waiters := x.waiters })).serve t k
  else s

/-! ### Delivery (R279, R309) -/

/-- The lowest held fault of a group. -/
def Slot.groupFault (x : Slot) (g : Nat) : Option SlotFault :=
  (x.faults.filter (fun f => f.elem / x.d.perHalf == g)).foldl
    (fun b f => match b with | none => some f | some o => some (if f.elem < o.elem then f else o)) none

/-- Halves whose elements have all arrived become Ready in order; one that holds a fault ends the task. -/
def State.deliver (s : State) (t k late : Nat) : Nat → State
  | 0 => s
  | n + 1 =>
    let x := s.slot t k
    if x.st ≠ .active ∨ !(s.tile t).task.any (fun k => k.phase == .running) then s
    else
      match x.dueHalf with
      | none => s
      | some i =>
        let h := x.half i
        if h.count < h.bytes ∨ h.held then s
        else
          match x.groupFault h.group with
          | some f => s.streamFault t k f.code f.cause f.elem f.addr
          | none =>
            let s := s.updSlot t k (fun x => { x.updHalf i (fun h => { h with st := .ready }) with
              nextDel := min x.d.total ((h.group + 1) * x.d.perHalf), delivered := x.delivered + 1 })
            ((s.serveWaiters t k late 8).finishUse t k).deliver t k late n

/-- STREAM_READ_RESPONSE: what has arrived for an input slot is delivered; `late` cycles were waited for it. -/
def execStreamReadResponse (t k late : Nat) (s : State) : Out :=
  .next (if (s.slot t k).d.dir = 0 then (s.deliver t k late 2).wake t else s)

/-- Bytes of elements first to last as they lie in the half, from their bytes as they lie in the request: the other way round where
the addresses fall (R276, R277). It is its own inverse. -/
def Desc.turned (d : Desc) (first last : Nat) (bytes : List Byte) : List Byte :=
  if first < last ∧ (d.addr last).ult (d.addr first) then
    (List.range (last - first + 1)).flatMap (fun i => slice bytes ((last - first - i) * d.elem) d.elem)
  else bytes

/-- Element that holds byte b of a request (R276). -/
def Desc.elemAt (d : Desc) (first last b : Nat) : Nat :=
  if first < last then (if (d.addr last).ult (d.addr first) then last - b / d.elem else first + b / d.elem) else first

/-- Bytes of a request for input elements arrive, or its failure does: clean bytes go into the loft half; a failure is held
for its element, the first of the request's that it concerns (R279, R309). `bad` are the damaged bytes. What returns after an end
other than OK is discarded (R310). -/
def State.streamData (s : State) (t : Nat) (a : Access) (st : Status) (bad : List Nat) (data : List Byte) : State :=
  match a.purpose with
  | .streamRd k use group off first last =>
    let x := s.slot t k
    if a.dropped ∨ x.st ≠ .active ∨ x.useId ≠ use ∨ !s.streaming t then s
    else
      match [0, 1].find? (fun i => (x.half i).st == .engine && (x.half i).bytes != 0 && (x.half i).group == group) with
      | none => s
      | some i =>
        let n := a.req.size
        let s := s.updSlot t k (fun x => x.updHalf i (fun h => { h with count := h.count + n }))
        if st = .ok ∧ bad.isEmpty then s.loftWr t (x.d.halfOff i + off) (x.d.turned first last (slice data 0 n))
        else
          let e := if st = .ok then bad.foldl (fun m b => min m (x.d.elemAt first last b)) last else first
          s.updSlot t k (fun x => { x with faults := x.faults ++
            [⟨e, if st = .ok then 4 else 2, if st = .ok then 5 else 6, x.d.addr e⟩] })
  | _ => s

/-- The acknowledgement of an output request or of a linked half (R271, R308, R311). A linked half has no virtual address: the
one recorded is a free value (DESIGN CHOICE, log entry 19). -/
def State.streamAck (s : State) (t : Nat) (a : Access) (st : Status) : State :=
  let back := fun (s : State) (k elem : Nat) (addr : DWord) (mine : Bool) =>
    if st = .ok then (s.finishUse t k).wake t
    else
      let s := if mine then s.updSlot t k (fun x => { x with refused := true }) else s
      (s.streamFault t k 6 3 elem addr).wake t
  match a.purpose with
  | .streamWr k use _ _ elem va =>
    let x := s.slot t k
    if a.dropped then s else back s k elem va (x.useId == use)
  | .linkHalf k group _ _ =>
    let x := s.slot t k
    if a.dropped then s
    else if st = .epochStale ∨ st = .absorbed then (s.closeSlot t k).wake t
    else if st = .ok then back s k 0 0 false
    else
      let (va, s) := s.free 64
      back s k (group * x.d.perHalf) va false
  | _ => s

/-! ### Injection (R274 to R276, R295, R296, R311) -/

/-- The next element shares a request with element i: it is of the same group, and lies next to it, above or below, in the same
256-byte block (R276). -/
def Desc.joins (d : Desc) (up : Bool) (i : Nat) : Bool :=
  let a := d.addr i
  let b := d.addr (i + 1)
  decide (i + 1 < d.total) && (i + 1) / d.perHalf == i / d.perHalf && a.toNat / 256 == b.toNat / 256
    && (if up then b == a + BitVec.ofNat 64 d.elem else a == b + BitVec.ofNat 64 d.elem)

/-- Last element of a request that begins with element i and goes on up, or down (R276). -/
def Desc.span (d : Desc) (up : Bool) : Nat → Nat → Nat
  | 0, i => i
  | fuel + 1, i => if d.joins up i then d.span up fuel (i + 1) else i

/-- The request that a slot issues next: its lowest address, length, last element, and where it leaves the slot (element and byte
offset). -/
def Slot.nextSpan (x : Slot) : DWord × Nat × Nat × Nat × Nat :=
  let i := x.nextReq
  let a := x.d.addr i + BitVec.ofNat 64 x.reqOff
  let n := min (x.d.elem - x.reqOff) (blockLen a.toNat 256)
  if x.reqOff + n < x.d.elem then (a, n, i, i, x.reqOff + n)
  else if n < x.d.elem then (a, n, i, i + 1, 0)
  else
    let l := if x.d.joins true i then x.d.span true 64 i else x.d.span false 64 i
    let lo := x.d.addr l
    (if lo.ult a then lo else a, (l - i + 1) * n, l, l + 1, 0)

/-- What translates a slot's next request: the leaf of an element that is partly requested, or the tile's cache (R275, R307). -/
def State.slotXlate (s : State) (t k : Nat) (a : DWord) (need : Nat) : Xlate :=
  let x := s.slot t k
  match x.leaf with
  | some l => if x.reqOff = 0 then xlateIn (s.tile t).str.tlb ((s.taskTenant t).getD 0) a need else .ok (l.phys a) l
  | none => xlateIn (s.tile t).str.tlb ((s.taskTenant t).getD 0) a need

/-- Record a failed element of an input (R309): its bytes count as arrived, and the fault waits for its half. -/
def State.holdFault (s : State) (t k elem bytes cause code : Nat) (addr : DWord) : State :=
  s.updSlot t k (fun x =>
    let g := elem / x.d.perHalf
    let x := { x with faults := x.faults ++ [⟨elem, cause, code, addr⟩] }
    match [0, 1].find? (fun i => (x.half i).st == .engine && (x.half i).bytes != 0 && (x.half i).group == g) with
    | none => x
    | some i => x.updHalf i (fun h => { h with count := h.count + bytes }))

/-- An input slot issues its next request. -/
def State.injectRead (s : State) (t k : Nat) : State :=
  let x := s.slot t k
  let i := x.nextReq
  match [0, 1].find? (fun j => (x.half j).st == .engine && (x.half j).bytes != 0 && (x.half j).group == i / x.d.perHalf) with
  | none => s
  | some j =>
    if x.d.total ≤ i ∨ !s.slotTagFree t k then s
    else
      let (a, n, l, i', o') := x.nextSpan
      match s.slotXlate t k a needRead with
      | .miss => if x.xlate then s else (s.askXlate t (k + 8) a needRead).updSlot t k (fun x => { x with xlate := true })
      | .fail =>
        (s.holdFault t k i x.d.elem 1 7 (x.d.addr i)).updSlot t k (fun x => { x with nextReq := i + 1, reqOff := 0 })
      | .ok pa leaf =>
        let s := if x.reqOff = 0 then s.tlbUse t leaf else s
        let step := fun (s : State) => s.updSlot t k (fun x => { x with nextReq := i', reqOff := o', leaf := if o' = 0 then none else some leaf })
        match s.tileReq t .read pa n [] with
        | none => step (s.holdFault t k i n 2 6 (x.d.addr i))
        | some (p, r) =>
          let off := i % x.d.perHalf * x.d.elem + x.reqOff
          let s := (s.chargeClass t .read n r.isSome).updSlot t k (fun x => x.updHalf j (fun h => { h with begun := true }))
          step (s.issue (s.mkAccess (.tile t) ((s.freeTag (.tile t)).getD 0)
            (.streamRd k x.useId (i / x.d.perHalf) off i l) { p with rt := x.d.rt } r))

/-- A parity error in a half that the engine drains (R308). -/
def State.drainParity (s : State) (t k elem off n : Nat) (addr : DWord) : State :=
  (s.tileReport 1 t (loftAddr t (off + s.badOff (loftAddr t off) n)) 0).streamFault t k 5 4 elem addr

/-- An output half has been issued or sent in full. -/
def State.drained (s : State) (t k i : Nat) : State :=
  (((s.updSlot t k (fun x => x.updHalf i (fun h => { h with st := .free, tent := false }))).finishUse t k).serve t k).abortTokens t

/-- An output slot issues its next request; after a fault, only what completes an element that it has begun (R310). -/
def State.injectWrite (s : State) (t k : Nat) : State :=
  let x := s.slot t k
  let i := x.nextReq
  if x.drainCount = 0 ∨ x.d.total ≤ i ∨ !s.slotTagFree t k then s
  else
    let j := x.drainHalf
    let (a, n, l, i', o') := x.nextSpan
    match s.slotXlate t k a needWrite with
    | .miss => if x.xlate then s else (s.askXlate t (k + 8) a needWrite).updSlot t k (fun x => { x with xlate := true })
    | .fail => s.streamFault t k 7 1 i (x.d.addr i)
    | .ok pa leaf =>
      let off := x.d.halfOff j + i % x.d.perHalf * x.d.elem + x.reqOff
      -- every byte of an element is checked before its first request leaves (R308, R311)
      let whole := (l - i + 1) * x.d.elem
      if s.loftBad t off whole ∧ x.reqOff = 0 then
        let e := i + s.badOff (loftAddr t off) whole / x.d.elem
        s.drainParity t k e off whole (x.d.addr e)
      else
        let s := if x.reqOff = 0 then s.tlbUse t leaf else s
        let (lo, hi) := if (x.d.addr l).ult (x.d.addr i) then (x.d.addr l, x.d.addr i) else (x.d.addr i, x.d.addr l)
        let hi := hi + BitVec.ofNat 64 x.d.elem
        let fresh := i == 0 && x.reqOff == 0
        let s := s.updSlot t k (fun x => { x with
          nextReq := i', reqOff := o', leaf := if o' = 0 then none else some leaf
          vaLo := if fresh || lo.ult x.vaLo then lo else x.vaLo
          vaHi := if fresh || x.vaHi.ult hi then hi else x.vaHi })
        let data := x.d.turned i l (s.loft t off n)
        let s := match s.tileReq t .write pa n data with
          | none => (s.updSlot t k (fun x => { x with refused := true })).streamFault t k 6 3 i (x.d.addr i)
          | some (p, r) =>
            (s.chargeClass t .write n r.isSome).issue (s.mkAccess (.tile t) ((s.freeTag (.tile t)).getD 0)
              (.streamWr k x.useId (i / x.d.perHalf) (x.half j).thr i (x.d.addr i)) { p with rt := x.d.rt } r)
        if i' = x.d.total ∨ (o' = 0 ∧ i' % x.d.perHalf = 0) then s.drained t k j else s.abortTokens t

/-- A linked output sends its oldest pushed half whole, against a credit (R292). -/
def State.injectHalf (s : State) (t k : Nat) : State :=
  let x := s.slot t k
  if x.drainCount = 0 ∨ x.credits = 0 ∨ !s.slotTagFree t k then s
  else
    let j := x.drainHalf
    let h := x.half j
    let g := x.issuedGroups
    let off := x.d.halfOff j
    if s.loftBad t off h.bytes then
      let (va, s) := s.free 64
      s.drainParity t k (g * x.d.perHalf) off h.bytes va
    else
      let tag := (s.freeTag (.tile t)).getD 0
      let p : Packet := { op := .linkHalf, src := tileEnd t, dst := tileEnd x.d.peerTile, pos := t, issuer := .tile t,
                          slot := x.d.peerSlot, srcSlot := k, group := x.d.halfBytes, size := h.bytes,
                          data := s.loft t off h.bytes, tentative := h.tent, tenant := (s.taskTenant t).getD 0,
                          part := (s.taskPart t).getD 0, epoch := s.issuerEpoch (.tile t) }
      let s := (s.chargeClass t .linkHalf h.bytes false).issue (s.mkAccess (.tile t) tag (.linkHalf k g h.thr h.tent) p none)
      let s := s.updSlot t k (fun x => { x with
        credits := x.credits - 1, nextReq := min x.d.total ((g + 1) * x.d.perHalf),
        tentSent := x.tentSent + b2n h.tent })
      s.drained t k j

/-- A slot has something to send, data or room for it, and a tag: for an ended task, only what completes a begun element (R310). -/
def State.slotReady (s : State) (t k : Nat) : Bool :=
  let x := s.slot t k
  x.st == .active && s.slotTagFree t k && (s.streaming t || (x.d.dir == 1 && x.reqOff != 0)) &&
    (match x.d.dir with
    | 0 => decide (x.nextReq < x.d.total) && [0, 1].any (fun j =>
        (x.half j).st == .engine && (x.half j).bytes != 0 && (x.half j).group == x.nextReq / x.d.perHalf)
    | 1 => x.drainCount != 0 && decide (x.nextReq < x.d.total)
    | 2 => x.drainCount != 0 && x.credits != 0
    | _ => false)

/-- Class of the request that a ready slot would inject, or none while it has no translation or nowhere to go. -/
def State.slotClass (s : State) (t k : Nat) : Option Nat :=
  let x := s.slot t k
  if !s.slotReady t k then none
  else if x.d.dir = 2 then some 1
  else
    let op : PktOp := if x.d.dir = 0 then .read else .write
    match s.slotXlate t k x.nextSpan.1 (if x.d.dir = 0 then needRead else needWrite) with
    | .ok pa _ => s.reqClass t op pa
    | _ => none

/-- Slot j goes before slot k (R295, R297): its class may inject, and is the one with more credit, or read before write before
remote; or within one class it is the real-time one, or the next in turn. DEDUCED: log entry 132. -/
def State.goesBefore (s : State) (t j c k : Nat) : Bool :=
  let y := (s.tile t).str
  let place := fun (i : Nat) => (i + 32 - y.rr) % 32
  match s.slotClass t j with
  | none => false
  | some b =>
    y.eligible b &&
      (if b = c then
        (if (s.slot t j).d.rt = (s.slot t k).d.rt then decide (place j < place k) else (s.slot t j).d.rt)
      else decide (smGetD y.cr c 0 < smGetD y.cr b 0) || (smGetD y.cr c 0 == smGetD y.cr b 0 && decide (b < c)))

/-- It is the slot's turn, and its class has a share. -/
def State.slotTurn (s : State) (t k c : Nat) : Bool :=
  (s.tile t).str.classOpen c && !(List.range 32).any (fun j => j != k && s.goesBefore t j c k)

/-- STREAM_INJECT: the engine injects the next request of a slot, when it is the slot's turn; or asks for the translation that the
request needs. -/
def execStreamInject (t k : Nat) (s : State) : Out :=
  .next (
    let x := s.slot t k
    if x.st ≠ .active ∨ (s.tile t).task = none ∨ s.tileHeld t ∨ !s.slotReady t k then s
    else
      let s := s.portIdle t
      let c := s.slotClass t k
      if c.any (fun c => !s.slotTurn t k c) then s
      else
        let s := if c.isSome then s.updTile t (fun x => { x with str := { x.str with rr := (k + 1) % 32 } }) else s
        match x.d.dir with
        | 0 => s.injectRead t k
        | 1 => s.injectWrite t k
        | 2 => s.injectHalf t k
        | _ => s)

/-! ### Links: halves, credits and tokens (R292 to R294, R332 to R335, R603, R607) -/

/-- A link's packet that its tile can use; otherwise it is absorbed in a reset, or stale (R603, R607). DEDUCED: log entry 32. -/
def State.bulk (s : State) (id : Nat) (op : PktOp) (go : Packet → State → State) : State :=
  match s.arrived id op with
  | none => s
  | some p =>
    let t := p.dst.router
    let answer := fun (s : State) (st : Status) => if op = .linkHalf then s.nack id p st else s.dropPkt id
    if (s.ctl t).inReset then answer (s.updInt (fun x => { x with sumAbsorbed := x.sumAbsorbed + 1 })) .absorbed
    else if !s.tileOpen t then answer s .absent
    else if (match s.partOfTile t with | some q => s.partEpoch q != p.epoch | none => true) then
      answer (s.updInt (fun x => { x with sumStale := x.sumStale + 1 })) .epochStale
    else go p (s.dropPkt id)

/-- The packet comes from the slot that this end's descriptor names, with its tenant and half size (R291, R294). -/
def State.peerOk (s : State) (t : Nat) (x : Slot) (tile slot half tenant : Nat) : Bool :=
  x.d.peerTile == tile && x.d.peerSlot == slot && x.d.halfBytes == half && s.taskTenant t == some tenant

/-- A mismatch closes this end and tells the end that sent (R294). -/
def State.mismatch (s : State) (t k tile slot : Nat) : State :=
  let x := s.slot t k
  let s := s.strErr t 5 k (if x.isInput then x.nextDel else x.nextReq) (BitVec.ofNat 64 tile)
  let s := s.inject { op := .linkToken, src := tileEnd t, dst := tileEnd tile, pos := t, issuer := .tile t, slot, srcSlot := k,
                      msg := .token .mismatch, tenant := (s.taskTenant t).getD 0, epoch := s.issuerEpoch (.tile t) }
  s.closeSlot t k

/-- Bytes of the next linked half that a consumer expects, and the loft half that takes it. -/
def Slot.expectHalf (x : Slot) : Option Nat :=
  let open_ := fun (i : Nat) => (x.half i).st == .engine && (x.half i).bytes != 0 && !(x.half i).held
  if open_ x.takeHalf then (if open_ (x.takeHalf + 1) && decide ((x.half (x.takeHalf + 1)).group < (x.half x.takeHalf).group)
      then some ((x.takeHalf + 1) % 2) else some x.takeHalf)
  else if open_ (x.takeHalf + 1) then some ((x.takeHalf + 1) % 2)
  else none

/-- LINK_HALF: a linked half reaches its consumer. A bad byte refuses it (R593); a slot that is not armed, or Closed,
discards it; a half that does not match closes both ends; a tentative half is held. DEDUCED: log entry 33. -/
def execLinkHalf (id : Nat) (s : State) : Out :=
  .next (
    match s.arrived id .linkHalf with
    | none => s
    | some p0 =>
      if p0.isBad ∧ s.tileOpen p0.dst.router ∧ !(s.ctl p0.dst.router).inReset then s.refuseBad id p0 0 p0.dst.router
      else
        s.bulk id .linkHalf (fun p s =>
          let t := p.dst.router
          let k := p.slot
          let x := s.slot t k
          let ack := fun (s : State) => s.respond p .writeAck .ok []
          if x.st ≠ .active ∨ !s.streaming t then ack s
          else if x.d.dir ≠ 3 ∨ !s.peerOk t x p.src.router p.srcSlot p.group p.tenant then
            (ack s).mismatch t k p.src.router p.srcSlot
          else
            match x.expectHalf with
            | none => (ack s).mismatch t k p.src.router p.srcSlot
            | some i =>
              if (x.half i).bytes ≠ p.size then (ack s).mismatch t k p.src.router p.srcSlot
              else
                let s := (s.loftWr t (x.d.halfOff i) p.data).updSlot t k (fun x =>
                  x.updHalf i (fun h => { h with count := h.bytes, begun := true, held := p.tentative, tag := p.tag, uid := p.uid }))
                if p.tentative then s.wake t
                else
                  let s := ack s
                  if (s.slot t k).waiters.isEmpty then (s.deliver t k 0 2).wake t
                  else
                    let (v, s) := s.free 32
                    (s.deliver t k v.toNat 2).wake t))

/-- Credits reach a slot: an armed producer counts them, a mismatch closes the link, an armed consumer's two credits wait
for a producer that is not armed yet (R292, R294; DESIGN CHOICE, log entry 14). -/
def State.credit (s : State) (t k : Nat) (c : Credit) : State :=
  let x := s.slot t k
  if x.st = .idle then
    if c.n = 2 then
      s.updSlot t k (fun x => { x with early := x.early.filter (fun e => !(e.tile == c.tile && e.slot == c.slot)) ++ [c] })
    else s
  else if x.st ≠ .active then s
  else if x.d.dir ≠ 2 ∨ !s.peerOk t x c.tile c.slot c.half c.tenant then s.mismatch t k c.tile c.slot
  else s.updSlot t k (fun x => { x with credits := x.credits + c.n })

/-- LINK_CREDIT. -/
def execLinkCredit (id : Nat) (s : State) : Out :=
  .next (s.bulk id .linkCredit (fun p s =>
    s.credit p.dst.router p.slot ⟨p.src.router, p.srcSlot, p.size, p.group, p.tenant, p.epoch⟩))

/-- A token of one of the kinds that a command handles, from the peer that the slot's descriptor names. -/
def State.token (s : State) (id : Nat) (kind : Token → Bool) (go : Nat → Nat → Token → Packet → State → State) : State :=
  match s.arrived id .linkToken with
  | none => s
  | some p =>
    match p.msg with
    | .token k => if kind k then s.bulk id .linkToken (fun p s => go p.dst.router p.slot k p s) else s
    | _ => s

/-- The token's sender is the peer of an armed slot. -/
def Slot.peerIs (x : Slot) (p : Packet) : Bool := x.d.peerTile == p.src.router && x.d.peerSlot == p.srcSlot

/-- END at a consumer: ignored once the whole use has been received; otherwise the slot is Closed (R293). -/
def State.endAtConsumer (s : State) (t k : Nat) : State :=
  let x := s.slot t k
  if x.st ≠ .active ∨ x.d.dir ≠ 3 ∨ x.d.total ≤ x.nextDel then s else s.closeSlot t k

/-- A peer's report of a mismatch closes this end too (R294). -/
def State.mismatchToken (s : State) (t k : Nat) (p : Packet) : State :=
  let x := s.slot t k
  if x.st ≠ .active ∨ !x.linked then s
  else (s.strErr t 5 k (if x.isInput then x.nextDel else x.nextReq) (BitVec.ofNat 64 p.src.router)).closeSlot t k

/-- LINK_END: an END token at a consumer, or the notice of a mismatch. -/
def execLinkEnd (id : Nat) (s : State) : Out :=
  .next (s.token id (fun k => k == .fin || k == .mismatch) (fun t k tok p s =>
    if tok = .mismatch then s.mismatchToken t k p
    else if (s.slot t k).peerIs p then s.endAtConsumer t k else s))

/-- LINK_ABORT: ABORT at a consumer ends its task with STREAM_ABORT once a half has been delivered; otherwise it acts as
END (R293, R308). -/
def execLinkAbort (id : Nat) (s : State) : Out :=
  .next (s.token id (fun k => match k with | .abort .. => true | _ => false) (fun t k tok p s =>
    match tok with
    | .abort origin code =>
      let x := s.slot t k
      if !x.peerIs p ∨ x.st ≠ .active ∨ x.d.dir ≠ 3 then s
      else if 0 < x.delivered ∧ s.streaming t then
        let fresh := (s.tile t).task.any (fun k => k.phase != .ending)
        let s := if fresh then s.updTile t (fun x => { x with task := x.task.map (fun (k : Task) => { k with origin, originCode := code }) }) else s
        let (va, s) := s.free 64
        s.streamFault t k 8 6 x.nextDel va
      else s.endAtConsumer t k
    | _ => s))

/-- LINK_CLOSE: CLOSE at a producer; at a slot that is not armed it takes back early credits of its sender. -/
def execLinkClose (id : Nat) (s : State) : Out :=
  .next (s.token id (fun k => k == .close) (fun t k _ p s =>
    let x := s.slot t k
    if x.st = .idle then
      s.updSlot t k (fun x => { x with early := x.early.filter (fun e => !(e.tile == p.src.router && e.slot == p.srcSlot)) })
    else if x.st = .active ∧ x.d.dir = 2 ∧ x.peerIs p then (s.closeSlot t k).abortTokens t
    else s))

/-! ### Translation traffic of a tile (R305, R306) -/

/-- TRANSLATION_REQUEST: the service of the I/O die answers from its cache or walks the tree. -/
def execTranslationRequest (id : Nat) (s : State) : Out :=
  .next (
    match s.arrived id .read with
    | none => s
    | some p =>
      match p.msg, ifaceAt p.dst with
      | .xlate who tenant va _, .io d _ =>
        let (l, s) := s.service d tenant va
        (s.dropPkt id).inject { op := .readRsp, src := p.dst, dst := p.src, pos := p.dst.router, issuer := p.issuer,
                                tenant, addr := va, msg := .xlateRsp who va l }
      | _, _ => s)

/-- TRANSLATION_RESPONSE: a leaf reaches a tile's cache and resumes what waited for it; a failed walk is a translation
fault of the access or, when its half falls due, of the element. -/
def execTranslationResponse (id : Nat) (s : State) : Out :=
  .next (
    match s.arrived id .readRsp with
    | none => s
    | some p =>
      match p.msg with
      | .xlateRsp who va leaf =>
        let t := p.dst.router
        let s := s.dropPkt id
        if (s.tile t).task = none ∨ s.taskTenant t ≠ some p.tenant then s
        else
          let s := if 8 ≤ who then s.updSlot t (who - 8) (fun x => { x with xlate := false }) else s
          match leaf with
          | some l => (s.updTile t (fun x => { x with str := { x.str with tlb := tlbAdd x.str.tlb l 64 } })).wake t
          | none =>
            if who < 8 then
              let h := s.thread t who
              if h.wait = .retry (.xlate va) then s.endTask t 7 who 0 h.pc va else s
            else
              let k := who - 8
              let x := s.slot t k
              if x.st ≠ .active ∨ !s.streaming t ∨ x.d.total ≤ x.nextReq ∨ x.nextSpan.1 ≠ va then s
              else if x.d.dir = 0 then
                (s.holdFault t k x.nextReq x.d.elem 1 7 (x.d.addr x.nextReq)).updSlot t k
                  (fun x => { x with nextReq := x.nextReq + 1, reqOff := 0 })
              else s.streamFault t k 7 1 x.nextReq (x.d.addr x.nextReq)
      | _ => s)

/-! ### The descriptor (R272, R273) -/

/-- A descriptor from its 64 bytes. -/
def Desc.ofBytes (b : List Byte) : Desc :=
  let ctl := field b 8 8
  { base := BitVec.ofNat 64 (field b 0 8), dir := bits ctl 1 0, persistent := bitN ctl 2, rt := bitN ctl 3, esz := bits ctl 7 4,
    ndimsM1 := bits ctl 10 8, peerSlot := bits ctl 15 11, peerTile := bits ctl 27 16, buf := bits ctl 46 32, half := bits ctl 61 47,
    counts := (List.range 5).map (fun d => field b (0x10 + 3 * d) 3 + 1),
    strides := (List.range 5).map (fun d => BitVec.ofNat 48 (field b (0x20 + 6 * d) 6)),
    sid := BitVec.ofNat 16 (field b 0x3E 2) }

/-- Reserved bits of a descriptor are zero. -/
def descReserved (b : List Byte) : Bool :=
  let ctl := field b 8 8
  bits ctl 63 62 == 0 && bits ctl 31 28 == 0 && field b 0x1F 1 == 0

/-- The checks of R273 that concern values of the descriptor. -/
def State.descOk (s : State) (t : Nat) (d : Desc) : Bool :=
  decide (2 ≤ d.esz) && decide (d.esz ≤ 12) && decide (d.ndimsM1 ≤ 4) && d.half != 0
    && d.halfBytes % d.elem == 0 && decide (64 * d.buf + 2 * d.halfBytes ≤ 0x140000) && decide (d.total ≤ 2 ^ 40)
    && (if d.dir < 2 then d.base.toNat % d.elem == 0 && (d.strides.take (d.ndimsM1 + 1)).all (fun v => v.toNat % d.elem == 0)
        else !d.persistent && d.peerTile != t && decide (d.peerTile ≤ 2303) && s.tileUsable d.peerTile
          && s.partOfTile d.peerTile == s.partOfTile t && (s.partOfTile t).isSome)

/-! ### Stream instructions (R283 to R290, R298, R319) -/

def strSlot (w : Nat) : Nat := bits w 40 36
def strFn (w : Nat) : Bool := bitN w 32

/-- The encoding check of R283: fields that an instruction does not use are zero. -/
def strEnc (gd ga gb fn : Bool) (w : Nat) : Bool :=
  (gd || bits w 55 51 == 0) && (ga || bits w 50 46 == 0) && (gb || bits w 45 41 == 0) && bits w 35 33 == 0
    && (fn || !strFn w) && bits w 31 0 == 0

/-- A stream instruction: unguarded, and none that a tainted thread may issue (R283, R337). -/
def State.strInsn (s : State) (t thr o : Nat) (enc : Nat → Bool) (run : Nat → State → Verdict) : State :=
  s.issueAt t thr o (fun _ => false) (fun w s => if enc w then run w s else illegal)

/-- Arm a slot: an input starts to fill, a linked input sends its two credits, a linked output takes credits that came
early. -/
def State.arm (s : State) (t k : Nat) (d : Desc) : State :=
  let x := s.slot t k
  let s := s.updSlot t k (fun x =>
    { ({ x with early := [], credits := 0, waiters := [], arming := x.arming + 1 } : Slot).startUse d 0 with xlate := false })
  if d.dir = 3 then s.sendCredit t k 2
  else if d.dir = 2 then
    -- early credits of another epoch are stale (R603)
    (x.early.filter (fun e => e.epoch == s.issuerEpoch (.tile t))).foldl (fun s e => s.credit t k e) s
  else s

/-- SARM. -/
def execSarm (t thr : Nat) (s : State) : Out :=
  .next (s.strInsn t thr 0x50 (strEnc false true false false) (fun w s =>
    let k := strSlot w
    let a := (s.g t thr (sGa w)).toNat
    if (s.slot t k).st ≠ .idle ∨ a % 64 ≠ 0 ∨ loftBytes < a + 64 then illegal
    else if s.loftBad t a 64 then s.parityAt t thr a 64
    else
      let b := s.loft t a 64
      let d := Desc.ofBytes b
      if !(descReserved b && s.descOk t d) then illegal
      else if s.tileHeld t then .wait .held .barrier s
      else .done (s.arm t k d)))

/-- SREARM. -/
def execSrearm (t thr : Nat) (s : State) : Out :=
  .next (s.strInsn t thr 0x51 (fun w => strEnc false true (strFn w) true w) (fun w s =>
    let k := strSlot w
    let x := s.slot t k
    let base := s.g t thr (sGa w)
    let c := (s.g t thr (sGb w)).toNat
    let d := { x.d with base, counts := if strFn w then x.d.counts.set x.d.ndimsM1 (c % 2 ^ 24 + 1) else x.d.counts }
    if (x.st ≠ .active ∧ x.st ≠ .done) ∨ !x.d.persistent ∨ x.linked ∨ (x.isInput ∧ x.takenCount ≠ 0) then illegal
    else if (strFn w ∧ 2 ^ 24 ≤ c) ∨ !s.descOk t d then illegal
    else if s.tileHeld t then .wait .held .barrier s
    else if x.draining then .wait .unit (.retry (.issued k)) s
    else
      let s := if x.isInput then (s.strCtr t 0x118 x.begunHalves).dropSlotReads t k (fun _ => true) else s
      .done ((s.updSlot t k (fun x => x.startUse d (satAdd 32 x.use 1))).serve t k)))

/-- SWAITB. -/
def execSwaitb (t thr : Nat) (s : State) : Out :=
  .next (s.strInsn t thr 0x52 (strEnc true false false false) (fun w s =>
    let k := strSlot w
    let x := s.slot t k
    match (if x.waiters.isEmpty then x.take else none) with
    | some (v, y) =>
      let s := (s.updSlot t k (fun _ => y)).setG t thr (sGd w) v
      .done (if tookInput x v then s.strCtr t 0x100 1 else s)
    | none =>
      .park .unit (.half k (sGd w)) (s.updSlot t k (fun x => { x with waiters := x.waiters ++ [(thr, sGd w)] }))))

/-- SREL: the oldest Taken input half fills again; a linked input returns a credit. -/
def execSrel (t thr : Nat) (s : State) : Out :=
  .next (s.strInsn t thr 0x53 (strEnc false false false false) (fun w s =>
    let k := strSlot w
    let x := s.slot t k
    let i := x.relHalf
    if x.st = .idle ∨ !x.isInput ∨ (x.half i).st ≠ .taken then illegal
    else
      let live := x.st == .active
      let s := s.updSlot t k (fun x =>
        { x.setHalf i (if live then x.d.filling x.nextGroup else {}) with relHalf := (i + 1) % 2, nextGroup := x.nextGroup + 1 })
      let s := if live && x.d.dir == 3 then s.sendCredit t k 1 else s
      .done ((s.finishUse t k).serve t k)))

/-- SPUSH: the oldest Taken output half starts to drain. -/
def execSpush (t thr : Nat) (s : State) : Out :=
  .next (s.strInsn t thr 0x54 (strEnc false false true false) (fun w s =>
    let k := strSlot w
    let x := s.slot t k
    let i := x.relHalf
    let n := (s.g t thr (sGb w)).toNat
    if x.st = .idle ∨ !x.isOutput ∨ (x.half i).st ≠ .taken ∨ n % x.d.elem ≠ 0 ∨ x.d.halfBytes < n then illegal
    else if x.st = .closed then
      .done ((s.updSlot t k (fun x => { x.updHalf i (fun h => { h with st := .free }) with relHalf := (i + 1) % 2 })).serve t k)
    else if n ≠ x.d.groupLen x.pushGroup * x.d.elem then illegal
    else
      .done (s.updSlot t k (fun x =>
        { x.updHalf i (fun h => { h with st := .engine, bytes := n, group := x.pushGroup, thr, tent := x.ticket.isSome }) with
          relHalf := (i + 1) % 2,
          tentGroup := if x.ticket.isSome && x.tentGroup.isNone then some x.pushGroup else x.tentGroup }))))

/-- SSKIP: an input goes on at element t. DEDUCED: log entry 34. -/
def execSskip (t thr : Nat) (s : State) : Out :=
  .next (s.strInsn t thr 0x55 (strEnc false true false false) (fun w s =>
    let k := strSlot w
    let x := s.slot t k
    let e := (s.g t thr (sGa w)).toNat
    if x.st = .idle ∨ !x.isInput ∨ e % x.d.perHalf ≠ 0 ∨ x.d.total < e ∨ e < x.nextDel then illegal
    else if x.st ≠ .active then .done s
    else
      let s := s.discardHeld t k
      let early := b2n (x.h0.st == .engine && x.h0.begun) + b2n (x.h1.st == .engine && x.h1.begun)
      let s := (s.strCtr t 0x120 early).dropSlotReads t k (fun a =>
        match a.purpose with | .streamRd _ u _ _ _ l => u == x.useId && decide (x.nextDel ≤ l) | _ => false)
      let s := s.updSlot t k (fun x =>
        { x.refill (e / x.d.perHalf) with
          nextReq := e, reqOff := 0, leaf := none, nextDel := e, faults := [] })
      .done ((s.finishUse t k).serve t k)))

/-- SFLUSH: wait until every write that the slot has issued is acknowledged. -/
def execSflush (t thr : Nat) (s : State) : Out :=
  .next (s.strInsn t thr 0x56 (strEnc false false false false) (fun w s =>
    let k := strSlot w
    let x := s.slot t k
    if x.st = .idle then .done s
    else if !x.isOutput then illegal
    else if s.slotWrites t k then .wait .unit (.retry (.flushed k)) s
    else .done s))

/-- SSTOP: the slot's use ends and the slot is Idle; an output first issues what was pushed, and a tentative one waits for
its ticket. DEDUCED: log entry 27. -/
def execSstop (t thr : Nat) (s : State) : Out :=
  .next (s.strInsn t thr 0x57 (strEnc false false false false) (fun w s =>
    let k := strSlot w
    let x := s.slot t k
    if x.st = .idle then illegal
    else if x.draining then .wait .unit (.retry (.issued k)) s
    else if x.tentGroup.isSome then .wait .unit (.retry (.tent k)) s
    else
      let s := if x.isInput then (s.strCtr t 0x118 x.begunHalves).dropSlotReads t k (fun _ => true) else s
      let s :=
        if x.st ≠ .active then s
        else if x.d.dir = 3 then (s.discardHeld t k).sendToken t k .close
        else if x.d.dir = 2 then s.sendToken t k .fin
        else s
      -- an output use that ended early keeps what its dirty-extent entry says (R312)
      .done ((s.updSlot t k (fun x =>
        if x.d.dir = 1 then { x with st := .idle, h0 := { st := .free }, h1 := { st := .free } }
        else { x.idled with waiters := x.waiters })).serve t k)))

def SlotState.code : SlotState → Nat
  | .idle => 0 | .active => 1 | .done => 2 | .closed => 3
def HalfState.code : HalfState → Nat
  | .engine => 0 | .ready => 1 | .taken => 2 | .free => 3

/-- STR_SLOT_k (R319). -/
def State.slotWord (s : State) (t k : Nat) : DWord :=
  let x := s.slot t k
  if x.st = .idle then BitVec.ofNat 64 (s.slotTags t k * 2 ^ 40)
  else BitVec.ofNat 64 (x.st.code * 2 ^ 61 + x.d.dir * 2 ^ 59 + b2n x.d.persistent * 2 ^ 58 + b2n x.d.rt * 2 ^ 57
    + x.h0.st.code * 2 ^ 55 + x.h1.st.code * 2 ^ 53 + s.slotTags t k * 2 ^ 40
    + (if x.isInput then x.nextDel else x.nextReq) % 2 ^ 40)

/-- SSTAT. -/
def execSstat (t thr : Nat) (s : State) : Out :=
  .next (s.strInsn t thr 0x58 (strEnc true false false false) (fun w s =>
    .done (s.setG t thr (sGd w) (s.slotWord t (strSlot w)))))

/-- STR_CLEAR: writing 1 zeroes the counters of R318. -/
def execStrClear (a : Agent) (t : Nat) (s : State) : Out :=
  .next (s.regWrite a (tileBlock t + 0x4020) (fun s => some (s.updTile t (fun x => { x with str := { x.str with ctr := [] } }))))

end Sys2Proof.Machine
end

