-- ==== Sys2Proof/Machine/VecOps.lean ====
section
/-!
DEFINITION. The vector unit's arithmetic (05 R167 to R208): comparisons, integer operations, special functions rounded
once from 200-bit fixed point, butterflies, Philox, address generators, and how a vector instruction or a REP iteration
issues.
-/
namespace Sys2Proof.Machine

/-! ### Types (R168, R169) -/

def isFlt (ty : Nat) : Bool := decide (ty < 2)
def isInt (ty : Nat) : Bool := decide (2 ≤ ty) && decide (ty ≤ 5)
/-- Width of an integer type. -/
def intW (ty : Nat) : Nat := 4 * 2 ^ (ty - 2)
/-- Significant bits of W16 and W32. -/
def fltP (ty : Nat) : Nat := if ty = 0 then 8 else 24
/-- Low bits of a lane that a type uses. -/
def laneBits (ty v : Nat) : Nat :=
  match ty with
  | 0 => v % 2 ^ 16
  | 1 => v
  | 7 => v % 2 ^ 16
  | 6 => v
  | _ => v % 2 ^ intW ty

/-! ### Comparison (R177, R203) -/

/-- Bits of a W value as an integer that sorts like the value, with −0 below +0. -/
def wOrd (p v : Nat) : Int := if v / 2 ^ (p + 7) % 2 = 1 then -((v % 2 ^ (p + 7) : Nat) : Int) - 1 else (v : Int)

/-- R177: minimum or maximum. -/
def wMinMax (p a b : Nat) (isMax : Bool) : Nat × Flags :=
  let x := wDecode p a
  let y := wDecode p b
  let f := wFlags x ||| wFlags y
  if isNan x || isNan y then (qnan p, f)
  else ((if decide (wOrd p a < wOrd p b) == isMax then b else a), f)

/-- R177: eq, ne, lt, le of two W values; the two zeros are equal. -/
def wCompare (p fn a b : Nat) : Bool × Flags :=
  let x := wDecode p a
  let y := wDecode p b
  let f := wFlags x ||| wFlags y
  if isNan x || isNan y then (fn == 1, f)
  else
    let z := isZeroW p a && isZeroW p b
    let lt := !z && decide (wOrd p a < wOrd p b)
    let eq := z || a == b
    (match fn with | 0 => eq | 1 => !eq | 2 => lt | _ => lt || eq, f)

/-- ord of R203 on W32 bits. -/
def ord32 (u : Nat) : Nat := if u / 2 ^ 31 % 2 = 1 then 2 ^ 32 - 1 - u else u + 2 ^ 31

/-- The key of R204. -/
def topKey (z idx : Nat) : Nat := ord32 z * 2 ^ 32 + (2 ^ 32 - 1 - idx % 2 ^ 32)

/-! ### Integer operations (R93, R169) -/

/-- An exact integer result at the destination width: wrapped, or saturated with SAT. -/
def intOut (n : Nat) (signed sat : Bool) (v : Int) : Nat × Flags :=
  if sat then intSat signed n v else (intBits v n, 0)

/-! ### Fixed point with 200 fraction bits -/

def fixF : Nat := 200
/-- ln 2 · 2^200, to the nearest integer below. -/
def fixLn2 : Nat := 1113844574712631719546256151097547306333272293549090750737802

/-- Σ r^k / k! from term k, `n` further terms: `term` is r^k/k!. -/
def expSeries (r : Nat) : Nat → Nat → Nat → Nat
  | 0, _, _ => 0
  | n + 1, k, term => term + expSeries r n (k + 1) (term * r / (k * 2 ^ fixF))

/-- e^x for x = X·2^-200: a significand with 200 fraction bits in [1, 2) and a power of two. -/
def expFix (x : Int) : Nat × Int :=
  let k := Int.fdiv x (fixLn2 : Int)
  let r := (x - k * (fixLn2 : Int)).toNat
  (expSeries r 60 1 (2 ^ fixF), k)

/-- Σ z^(2i+1)/(2i+1): `zz` is z². -/
def atanhSeries (zz : Nat) : Nat → Nat → Nat → Nat
  | 0, _, _ => 0
  | n + 1, k, pow => pow / k + atanhSeries zz n (k + 2) (pow * zz / 2 ^ fixF)

/-- ln of m·2^x, in units of 2^-200. -/
def lnFix (m : Nat) (x : Int) : Int :=
  let l := Nat.log2 m
  let f := if l ≤ fixF then m * 2 ^ (fixF - l) else m / 2 ^ (l - fixF)
  let z := (f - 2 ^ fixF) * 2 ^ fixF / (f + 2 ^ fixF)
  (x + (l : Int)) * (fixLn2 : Int) + ((2 * atanhSeries (z * z / 2 ^ fixF) 70 1 z : Nat) : Int)

/-- Integer square root by bits, `n` of them. -/
def isqrtBits (v : Nat) : Nat → Nat → Nat
  | 0, r => r
  | n + 1, r => let c := r + 2 ^ n; isqrtBits v n (if c * c ≤ v then c else r)

/-- Round a value that lies strictly between two multiples of 2^x: a sticky bit stands for the rest. -/
def roundInexact (neg : Bool) (m : Nat) (x : Int) (p mode : Nat) : Nat × Flags := roundW neg (2 * m + 1) (x - 1) p mode 0

/-- Round a signed fixed-point value that is not exact. -/
def roundFix (v : Int) (p mode : Nat) : Nat × Flags := roundInexact (decide (v < 0)) v.natAbs (-(fixF : Int)) p mode

/-- A finite non-zero value in units of 2^-200. -/
def toFix (neg : Bool) (m : Nat) (x : Int) : Int :=
  let e := x + (fixF : Int)
  let v := if 0 ≤ e then m * 2 ^ e.toNat else m / 2 ^ (-e).toNat
  sgn neg v

/-- VSF's functions on a decoded operand (R181, R182): fn 0 exp, 1 rcp, 2 rsqrt, 3 ln, 4 sigmoid, into p bits. -/
def sfV (fn p : Nat) (x : WVal) : Nat × Flags :=
  let one := 127 * 2 ^ (p - 1)
  match x with
  | .nan _ => (qnan p, 0)
  | .inf neg =>
    match fn with
    | 0 => (if neg then 0 else wInf p false, 0)
    | 1 => (wZero p neg, 0)
    | 2 => if neg then (qnan p, fINVALID) else (0, 0)
    | 3 => if neg then (qnan p, fINVALID) else (wInf p false, 0)
    | _ => (if neg then 0 else one, 0)
  | .zero neg =>
    match fn with
    | 0 => (one, 0)
    | 1 => (wInf p neg, fOVERFLOW)
    | 2 => (wInf p neg, fOVERFLOW)
    | 3 => (wInf p true, fOVERFLOW)
    | _ => (126 * 2 ^ (p - 1), 0)
  | .fin neg m x _ =>
    match fn with
    | 0 =>
      let e := expFix (toFix neg m x)
      roundInexact false e.1 (e.2 - (fixF : Int)) p RNE
    | 1 =>
      let q := 2 ^ 80 / m
      if q * m = 2 ^ 80 then roundW neg q (-x - 80) p RNE 0 else roundInexact neg q (-x - 80) p RNE
    | 2 =>
      if neg then (qnan p, fINVALID)
      else
        -- make the exponent even: value = n · 2^(2h)
        let odd := x % 2 != 0
        let n := if odd then 2 * m else m
        let h := (if odd then x - 1 else x) / 2
        let v := 2 ^ 160 / n
        let r := isqrtBits v 81 0
        if r * r * n = 2 ^ 160 then roundW false r (-h - 80) p RNE 0 else roundInexact false r (-h - 80) p RNE
    | 3 =>
      if neg then (qnan p, fINVALID)
      else
        let l := Nat.log2 m
        if m = 2 ^ l ∧ x + (l : Int) = 0 then (0, 0) else roundFix (lnFix m x) p RNE
    | _ =>
      let e := expFix (toFix true m x)
      -- E = e^−|x| ≤ 1 in units of 2^-200, at least one unit
      let big := max 1 (e.1 / 2 ^ min 500 (-e.2).toNat)
      if neg then roundInexact false (e.1 * 2 ^ fixF / (2 ^ fixF + big)) (e.2 - (fixF : Int)) p RNE
      else roundInexact false (2 ^ (2 * fixF) / (2 ^ fixF + big)) (-(fixF : Int)) p RNE

/-- VSF of the bits of an operand with pa significant bits. -/
def sfW (fn pa a p : Nat) : Nat × Flags :=
  let x := wDecode pa a
  let r := sfV fn p x
  (r.1, r.2 ||| wFlags x)

/-- The Gumbel noise of a 32-bit draw (R202). -/
def gumbel (w : Nat) : Nat :=
  let j := w / 256
  let l := (-(lnFix (2 * j + 1) (-25))).toNat
  (roundFix (-(lnFix l (-(fixF : Int)))) 24 RNE).1

/-- ln of a positive W32 value with directed rounding (R345). -/
def lnDir (a mode : Nat) : Nat :=
  match wDecode 24 a with
  | .fin false m x _ =>
    let l := Nat.log2 m
    if m = 2 ^ l ∧ x + (l : Int) = 0 then 0 else (roundFix (lnFix m x) 24 mode).1
  | .inf false => wInf 24 false
  | .zero _ => wInf 24 true
  | _ => qnan 24

/-! ### Exact sums (R107, R108, R196) -/

/-- The exact sum of several values, rounded once; infinities of both signs among them raise INVALID, whatever else is in the sum. -/
def sumV (vs : List WVal) (p mode rnd : Nat) : Nat × Flags :=
  let pinf := vs.any (fun v => match v with | .inf false => true | _ => false)
  let ninf := vs.any (fun v => match v with | .inf true => true | _ => false)
  if pinf && ninf then (qnan p, fINVALID)
  else if vs.any isNan then (qnan p, 0)
  else
    if pinf then (wInf p false, 0)
    else if ninf then (wInf p true, 0)
    else
      let sum := vs.foldl (fun (a : Int × Int) v =>
        match v with | .fin s m x _ => dyAdd a.1 a.2 (sgn s m) x | _ => a) (0, 0)
      let allZero := vs.all (fun v => match v with | .zero _ => true | _ => false)
      let allNeg := vs.all (fun v => match v with | .zero s => s | _ => false)
      let anyNeg := vs.any (fun v => match v with | .zero s => s | _ => false)
      roundDy sum (if allZero then allNeg || (anyNeg && mode == 3) else mode == 3) p mode rnd

/-- A complex component: a product term, its operands' bits, negated or not. -/
def prodTerm (a b : Nat) (neg : Bool) : WVal × Flags :=
  let r := wMulV (wDecode 8 a) (wDecode 8 b)
  (if neg then wNegV r.1 else r.1, r.2)

def cRe (v : Nat) : Nat := v % 2 ^ 16
def cIm (v : Nat) : Nat := v / 2 ^ 16 % 2 ^ 16

/-- Real and imaginary terms of w·x, conjugating w when `conj` (R194, R195). -/
def cMulTerms (w x : Nat) (conj : Bool) : List (WVal × Flags) × List (WVal × Flags) :=
  ([prodTerm (cRe w) (cRe x) false, prodTerm (cIm w) (cIm x) (!conj)],
   [prodTerm (cRe w) (cIm x) false, prodTerm (cIm w) (cRe x) conj])

def negTerms (ts : List (WVal × Flags)) : List (WVal × Flags) := ts.map (fun e => (wNegV e.1, e.2))

/-- Round a component: its terms' flags and the sum's. -/
def component (ts : List (WVal × Flags)) (mode rnd : Nat) : Nat × Flags :=
  let r := sumV (ts.map (·.1)) 8 mode rnd
  (r.1, ts.foldl (fun f e => f ||| e.2) r.2)

/-- Flags of consuming the two halves of complex operands (R109). -/
def cFlags (vs : List Nat) : Flags :=
  vs.foldl (fun f v => f ||| wFlags (wDecode 8 (cRe v)) ||| wFlags (wDecode 8 (cIm v))) 0

/-- The components of VBF2 for one lane, in draw order (R199). -/
def bf2Terms (a b w : Nat) (conj : Bool) : List (List (WVal × Flags)) :=
  let t := cMulTerms w b conj
  let ar := [(wDecode 8 (cRe a), (0 : Flags))]
  let ai := [(wDecode 8 (cIm a), (0 : Flags))]
  [ar ++ t.1, ai ++ t.2, ar ++ negTerms t.1, ai ++ negTerms t.2]

/-- The components of VBF4 for one lane, in draw order. -/
def bf4Terms (x0 x1 x2 x3 w1 w2 w3 : Nat) (inv : Bool) : List (List (WVal × Flags)) :=
  let r0 := [(wDecode 8 (cRe x0), (0 : Flags))]
  let i0 := [(wDecode 8 (cIm x0), (0 : Flags))]
  let t1 := cMulTerms w1 x1 inv
  let t2 := cMulTerms w2 x2 inv
  let t3 := cMulTerms w3 x3 inv
  -- t0 − i·t1 − t2 + i·t3 and its inverse form
  let fr := r0 ++ t1.2 ++ negTerms t2.1 ++ negTerms t3.2
  let fi := i0 ++ negTerms t1.1 ++ negTerms t2.2 ++ t3.1
  let gr := r0 ++ negTerms t1.2 ++ negTerms t2.1 ++ t3.2
  let gi := i0 ++ t1.1 ++ negTerms t2.2 ++ negTerms t3.1
  let one := if inv then (gr, gi) else (fr, fi)
  let three := if inv then (fr, fi) else (gr, gi)
  [r0 ++ t1.1 ++ t2.1 ++ t3.1, i0 ++ t1.2 ++ t2.2 ++ t3.2, one.1, one.2,
   r0 ++ negTerms t1.1 ++ t2.1 ++ negTerms t3.1, i0 ++ negTerms t1.2 ++ t2.2 ++ negTerms t3.2, three.1, three.2]

/-! ### Philox-4x32-10 (R198, R199) -/

def philoxRound (k0 k1 c0 c1 c2 c3 : Nat) : Nat → List Nat
  | 0 => [c0, c1, c2, c3]
  | n + 1 =>
    let p0 := 0xD2511F53 * c0
    let p1 := 0xCD9E8D57 * c2
    philoxRound ((k0 + 0x9E3779B9) % 2 ^ 32) ((k1 + 0xBB67AE85) % 2 ^ 32)
      ((p1 / 2 ^ 32) ^^^ c1 ^^^ k0) (p1 % 2 ^ 32) ((p0 / 2 ^ 32) ^^^ c3 ^^^ k1) (p0 % 2 ^ 32) n

/-- The block of a counter value under a key. -/
def philox (key ctr : Nat) : List Nat :=
  philoxRound (key % 2 ^ 32) (key / 2 ^ 32) (ctr % 2 ^ 32) (ctr / 2 ^ 32 % 2 ^ 32) (ctr / 2 ^ 64 % 2 ^ 32) (ctr / 2 ^ 96 % 2 ^ 32) 10

/-- Words of n blocks from a generator, and the generator after them. -/
def Gen.draw (g : Gen) (n : Nat) : List Nat × Gen :=
  ((List.range n).flatMap (fun i => philox g.key.toNat ((g.ctr.toNat + i) % 2 ^ 128)), { g with ctr := g.ctr + BitVec.ofNat 128 n })

/-- The 16 bits of lane l in the k-th SR rounding of an instruction. -/
def srBits (ws : List Nat) (k l : Nat) : Nat :=
  let w := ws.getD (32 * k + l / 2) 0
  if l % 2 = 0 then w % 2 ^ 16 else w / 2 ^ 16

/-! ### Address generators (R192) -/

def bitrev (n v : Nat) : Nat := (List.range n).foldl (fun a i => 2 * a + b2n (v.testBit i)) 0

def AddrGen.addr (a : AddrGen) : Nat :=
  (a.base.toNat + (a.idx.toNat / 2 ^ a.shift.toNat % 2 ^ a.fw.toNat) * a.stride.toNat) % 2 ^ 32

def AddrGen.next (a : AddrGen) : AddrGen :=
  if !a.mode then { a with idx := a.idx + a.inc }
  else
    let n := a.n.toNat
    let r := (bitrev n (a.idx.toNat % 2 ^ n) + a.inc.toNat) % 2 ^ n
    { a with idx := BitVec.ofNat 24 (a.idx.toNat / 2 ^ n * 2 ^ n + bitrev n r) }

def Thread.agen (h : Thread) (k : Nat) : AddrGen := smGetD h.ag k {}
def State.stepAg (s : State) (t thr : Nat) (ks : List Nat) : State :=
  s.updThread t thr (fun h => { h with ag := ks.dedup.foldl (fun m k => smUpd m k {} AddrGen.next) h.ag })

/-! ### Vector registers -/

/-- The 64 lanes of a vector register. -/
def Thread.lanes (h : Thread) (r : Nat) : List Nat :=
  let v := smGetD h.v r []
  (List.range 64).map (fun l => (v.getD l 0).toNat)
def State.v (s : State) (t thr r : Nat) : List Nat := (s.thread t thr).lanes r

/-- The lane of a vector register that fails parity. -/
def State.vregBad (s : State) (t thr r : Nat) : Option Nat := (List.range 64).find? (fun l => s.bad.contains (.vreg t thr r l))

/-- Write a vector register; its lanes have good parity again. -/
def State.setV (s : State) (t thr r : Nat) (v : List Nat) : State :=
  let s := s.updThread t thr (fun h => { h with v := smSet h.v r (v.map (BitVec.ofNat 32 ·)) })
  { s with bad := s.bad.filter (fun p => match p with | .vreg a b c _ => !(a == t && b == thr && c == r) | _ => true) }

/-- VEC_ERR, the report of a stored byte's bad parity, and the verdict of R221. -/
def State.vecParity (s : State) (t thr source loc : Nat) : Verdict :=
  let s := s.updTile t (fun x => { x with vecErr := firstErr x.vecErr (BitVec.ofNat 64 (source * 2 ^ 56 + thr * 2 ^ 48 + loc)) })
  let at_ := if source = 2 then nearAddr t 0 + 4 * loc else if source = 3 then loftAddr t loc else 0
  let s := s.tileReport 1 t at_ 0
  .own (((s.updTile t (fun x => { x with rep := none })).faultEnd t 5 thr 2 (s.thread t thr).pc (BitVec.ofNat 64 loc)))

/-- Check the vector registers that an instruction reads. -/
def State.withV (s : State) (t thr : Nat) (rs : List Nat) (go : Verdict) : Verdict :=
  match rs.find? (fun r => (s.vregBad t thr r).isSome) with
  | some r => s.vecParity t thr 1 (64 * r + (s.vregBad t thr r).getD 0)
  | none => go

/-- A vector address fault (R186). DEDUCED: log entry 21. -/
def vecAddr (a : Nat) : Verdict := .fault 4 2 (BitVec.ofNat 64 a)

/-- Read a near-memory row for an instruction (R170, R186, R221). -/
def State.withRow (s : State) (t thr row : Nat) (go : List Nat → Verdict) : Verdict :=
  if 512 ≤ row then vecAddr row
  else if s.badMem (nearAddr t row) 256 then s.vecParity t thr 2 (64 * row + s.badOff (nearAddr t row) 256 / 4)
  else go ((s.near t row).map (·.toNat))

/-! ### The V format (R173) -/

def vVd (w : Nat) : Nat := bits w 55 51
def vVa (w : Nat) : Nat := bits w 50 46
def vVb (w : Nat) : Nat := bits w 45 41
def vVc (w : Nat) : Nat := bits w 40 36
def vRnd (w : Nat) : Nat := bits w 35 33
def vTd (w : Nat) : Nat := bits w 32 30
def vTs (w : Nat) : Nat := bits w 29 27
def vSa (w : Nat) : Bool := bitN w 26
def vSb (w : Nat) : Bool := bitN w 25
def vSat (w : Nat) : Bool := bitN w 24
def vGen (w : Nat) : Nat := bits w 23 22
def vNr (w : Nat) : Bool := bitN w 21
def vAgr (w : Nat) : Nat := bits w 20 18
def vNw (w : Nat) : Bool := bitN w 17
def vAgw (w : Nat) : Nat := bits w 16 14
def vFn (w : Nat) : Nat := bits w 13 8

/-- Fields that an opcode gives a meaning (R175). -/
structure VUse where
  vd : Bool := false
  va : Bool := false
  vb : Bool := false
  vc : Bool := false
  rnd : Bool := false
  td : Bool := false
  ts : Bool := false
  sa : Bool := false
  sb : Bool := false
  sat : Bool := false
  gen : Bool := false
  nrw : Bool := false
  /-- listed fn values: 0 to fns − 1 -/
  fns : Nat := 1

/-- A field without a meaning is 0; rnd and fn are listed; nr replaces vb (R173, R175). -/
def VUse.ok (u : VUse) (w : Nat) : Bool :=
  bits w 7 0 == 0 && (u.vd || vVd w == 0) && (u.va || vVa w == 0) && ((u.vb && !vNr w) || vVb w == 0)
    && (u.vc || vVc w == 0) && (if u.rnd then decide (vRnd w ≤ 4) else vRnd w == 0)
    && (u.td || vTd w == 0) && (u.ts || vTs w == 0) && (u.sa || !vSa w) && (u.sb || !vSb w) && (u.sat || !vSat w)
    && (u.gen || vGen w == 0) && (u.nrw || (!vNr w && !vNw w)) && (vNr w || vAgr w == 0) && (vNw w || vAgw w == 0)
    && decide (vFn w < u.fns)

/-! ### Generators (R197) -/

def State.gen (s : State) (t g : Nat) : Gen := smGetD (s.tile t).gens g {}
def State.setGen (s : State) (t g : Nat) (x : Gen) : State := s.updTile t (fun y => { y with gens := smSet y.gens g x })

/-- A draw of n blocks is the owner's alone: an illegal instruction of any other thread, checked at issue (R197, R242). -/
def State.mayDraw (s : State) (t thr g n : Nat) : Bool := n == 0 || (s.gen t g).owner == some thr

/-- Draw n blocks (R197, R221). -/
def State.withDraw (s : State) (t thr g n : Nat) (go : List Nat → State → Verdict) : Verdict :=
  if n = 0 then go [] s
  else if s.isBad (.gen t g) then s.vecParity t thr 5 g
  else
    let r := (s.gen t g).draw n
    go r.1 (s.setGen t g r.2)

/-! ### How vector instructions issue (R187 to R191, R337) -/

/-- A vector instruction that a tainted thread may issue: it writes vector registers only and draws no random bits, or
is VLD, VLDL, VAG, VAGRD, VPUT or VGET (R337). -/
def taintVec (w : Nat) : Bool :=
  let o := opc w
  if o ≤ 0x94 then !vNw w && (vRnd w != SR || o == 0x84 || o == 0x85)
  else if o = 0xB0 then bitN w 8
  else o == 0x98 || o == 0x9A || o == 0xA0 || o == 0xA1

/-- The end of a REP's last iteration: the thread goes on after the repeated instruction, at its restart pc after a
squash, or Off when the task ends meanwhile (R189, R256, R338). -/
def State.endRep (s : State) (t thr : Nat) : State :=
  let s := (s.updTile t (fun x => { x with rep := none })).updThread t thr (fun h => { h with pc := h.pc + 8 })
  match (s.tile t).task with
  | some k =>
    if k.phase = .ending then
      s.updThread t thr (fun h => { h with st := .off, wait := .none, miss := none, spec := none, taint := [], specFlags := 0, redirect := false })
    else if (s.thread t thr).redirect then s.redirect t thr else s
  | none => s

/-- One iteration of a running REP (R189, R191). -/
def State.repStep (s : State) (t thr o : Nat) (left : Nat) (run : Nat → State → Verdict) : State :=
  let pc := (s.thread t thr).pc
  let w := s.instWord t pc
  if s.badMem (instAddr t pc.toNat) 8 then
    let s := (s.updTile t (fun x => { x with rep := none })).tileReport 1 t (instAddr t pc.toNat) 0
    if (s.tile t).firmware then (s.firmwareFault t).updCtl t (fun c => { c with halted := true })
    else (s.updTile t (fun x => { x with progTag := 0 })).endTask t 5 thr 0 pc (BitVec.ofNat 64 pc.toNat)
  else if opc w ≠ o then s
  else
    match run w s with
    | .done s' =>
      let s' := (s'.vecCtrAdd t 0x100 1).vecCtrAdd t 0x108 1
      if left ≤ 1 then s'.endRep t thr else s'.updTile t (fun x => { x with rep := some ⟨thr, left - 1⟩ })
    | .fault code unit addr => (s.updTile t (fun x => { x with rep := none })).faultEnd t code thr unit pc addr
    | .own s' => s'
    | _ => s

/-- A vector instruction: an iteration when its thread runs a REP, an issue of its own otherwise. -/
def State.vecAt (s : State) (t thr o : Nat) (run : Nat → State → Verdict) : State :=
  match (s.tile t).rep with
  | some r => if r.thr = thr then s.repStep t thr o r.left run else s
  | none =>
    s.issueAt t thr o taintVec (fun w s =>
      match run w s with
      | .done s' => .done (s'.vecCtrAdd t 0x100 1)
      | v => v)

end Sys2Proof.Machine
end

