-- ==== Sys2Proof/Machine/Vector.lean ====
section
/-!
DEFINITION. The vector instructions of a tile (05 R173 to R208), one meaning each over the operations of VecOps.
-/
namespace Sys2Proof.Machine

/-! ### Element-wise arithmetic, comparison and selection (R176, R177) -/

/-- A lane function: bits of a, b and c and the SR bits of the lane to the lane's result and flags. -/
abbrev LaneFn := Nat → Nat → Nat → Nat → Nat × Flags

/-- Apply a lane function to 64 lanes; `ws` holds the words drawn for SR. -/
def mapLanes (f : LaneFn) (a b c ws : List Nat) : List Nat × Flags :=
  let rs := (List.range 64).map (fun l => f (a.getD l 0) (b.getD l 0) (c.getD l 0) (srBits ws 0 l))
  (rs.map (·.1), rs.foldl (fun g r => g ||| r.2) 0)

/-- Blocks that one SR rounding draws (R199). -/
def srBlocks (w : Nat) : Nat := if vRnd w = SR then 8 else 0

/-- An instruction with the nr and nw options: read va, b and the registers named by `cs`, draw, apply, write vd and
the nw row, step the generators that were used. DEDUCED: log entries 21 and 138. -/
def State.elementwise (s : State) (t thr w : Nat) (useB useC : Bool) (blocks : Nat) (f : LaneFn) : Verdict :=
  let h := s.thread t thr
  let rowR := (h.agen (vAgr w)).addr
  let rowW := (h.agen (vAgw w)).addr
  if !s.mayDraw t thr (vGen w) blocks then illegal
  else if vNr w && decide (512 ≤ rowR) then vecAddr rowR
  else if vNw w && decide (512 ≤ rowW) then vecAddr rowW
  else
    -- what an instruction that faults must not do, the draw, comes after every check (R256)
    let fin := fun (b : List Nat) =>
      s.withDraw t thr (vGen w) blocks (fun ws s =>
        let r := mapLanes f (h.lanes (vVa w)) b (if useC then h.lanes (vVc w) else []) ws
        let s := (s.setV t thr (vVd w) r.1).raise t thr r.2
        let s := if vNw w then s.nearWr t rowW (r.1.map (BitVec.ofNat 32 ·)) else s
        .done (s.stepAg t thr ((if vNr w then [vAgr w] else []) ++ (if vNw w then [vAgw w] else []))))
    s.withV t thr ([vVa w] ++ (if useB && !vNr w then [vVb w] else []) ++ (if useC then [vVc w] else []))
      (if vNr w then s.withRow t thr rowR fin else fin (if useB then h.lanes (vVb w) else []))

/-- Fields of the six arithmetic opcodes (R175, R176). DEDUCED for rnd of VMIN and VMAX: log entry 138. -/
def arithUse (w : Nat) (minMax fma : Bool) : VUse :=
  { vd := true, va := true, vb := true, vc := fma, rnd := isFlt (vTs w), td := true, ts := true,
    sa := isInt (vTs w), sb := isInt (vTs w), sat := isInt (vTs w),
    gen := isFlt (vTs w) && vRnd w == SR && !minMax, nrw := true }

/-- Types of VADD and VSUB, and of VMUL, VFMA, VMIN and VMAX (R176). -/
def addTypes (w : Nat) : Bool := (isFlt (vTs w) && isFlt (vTd w)) || (isInt (vTs w) && isInt (vTd w))
def mulTypes (w : Nat) : Bool := (vTs w == 0 && isFlt (vTd w)) || (isInt (vTs w) && isInt (vTd w))

/-- An arithmetic lane: floating point by `ff` on operand and result precisions, or exact integers by `fi` (R169). -/
def arithLane (w : Nat) (ff : Nat → Nat → Nat → Nat → Nat → Nat → Nat × Flags) (fi : Int → Int → Int → Int) : LaneFn :=
  fun a b c rnd =>
    let ts := vTs w
    let td := vTd w
    if isFlt ts then ff (fltP ts) (laneBits ts a) (laneBits ts b) (laneBits td c) (fltP td) rnd
    else
      let n := intW ts
      let sg := vSa w || vSb w
      intOut (intW td) sg (vSat w)
        (fi (bitsInt (vSa w) n (a % 2 ^ n)) (bitsInt (vSb w) n (b % 2 ^ n)) (bitsInt sg (intW td) (c % 2 ^ intW td)))

/-- VADD. -/
def execVadd (t thr : Nat) (s : State) : Out :=
  .next (s.vecAt t thr 0x80 (fun w s =>
    if !((arithUse w false false).ok w && addTypes w) then illegal
    else s.elementwise t thr w true false (if isFlt (vTs w) then srBlocks w else 0)
      (arithLane w (fun p a b _ q r => wAdd p a p b q (vRnd w) r) (fun a b _ => a + b))))
/-- VSUB. -/
def execVsub (t thr : Nat) (s : State) : Out :=
  .next (s.vecAt t thr 0x81 (fun w s =>
    if !((arithUse w false false).ok w && addTypes w) then illegal
    else s.elementwise t thr w true false (if isFlt (vTs w) then srBlocks w else 0)
      (arithLane w (fun p a b _ q r => wSub p a p b q (vRnd w) r) (fun a b _ => a - b))))
/-- VMUL. -/
def execVmul (t thr : Nat) (s : State) : Out :=
  .next (s.vecAt t thr 0x82 (fun w s =>
    if !((arithUse w false false).ok w && mulTypes w) then illegal
    else s.elementwise t thr w true false (if isFlt (vTs w) then srBlocks w else 0)
      (arithLane w (fun p a b _ q r => wMul p a p b q (vRnd w) r) (fun a b _ => a * b))))
/-- VFMA: vd = va · vb + vc; the addend has type td. -/
def execVfma (t thr : Nat) (s : State) : Out :=
  .next (s.vecAt t thr 0x83 (fun w s =>
    if !((arithUse w false true).ok w && mulTypes w) then illegal
    else s.elementwise t thr w true true (if isFlt (vTs w) then srBlocks w else 0)
      (arithLane w (fun p a b c q r => wFma p a p b q c q (vRnd w) r) (fun a b c => a * b + c))))
/-- VMIN: exact, so it rounds nothing and draws nothing. -/
def execVmin (t thr : Nat) (s : State) : Out :=
  .next (s.vecAt t thr 0x84 (fun w s =>
    if !((arithUse w true false).ok w && mulTypes w) then illegal
    else s.elementwise t thr w true false 0
      (arithLane w (fun p a b _ q _ =>
        let r := wMinMax p a b false
        ((wConv p r.1 q RNE 0).1, r.2)) (fun a b _ => min a b))))
/-- VMAX. -/
def execVmax (t thr : Nat) (s : State) : Out :=
  .next (s.vecAt t thr 0x85 (fun w s =>
    if !((arithUse w true false).ok w && mulTypes w) then illegal
    else s.elementwise t thr w true false 0
      (arithLane w (fun p a b _ q _ =>
        let r := wMinMax p a b true
        ((wConv p r.1 q RNE 0).1, r.2)) (fun a b _ => max a b))))

/-- One lane of VCMP. -/
def cmpLane (w : Nat) : LaneFn := fun a b _ _ =>
  let ts := vTs w
  if isFlt ts then
    let r := wCompare (fltP ts) (vFn w) (laneBits ts a) (laneBits ts b)
    (if r.1 then 2 ^ 32 - 1 else 0, r.2)
  else
    let n := intW ts
    let x := bitsInt (vSa w) n (a % 2 ^ n)
    let y := bitsInt (vSb w) n (b % 2 ^ n)
    let c := match vFn w with | 0 => decide (x = y) | 1 => decide (x ≠ y) | 2 => decide (x < y) | _ => decide (x ≤ y)
    (if c then 2 ^ 32 - 1 else 0, 0)
/-- VCMP. -/
def execVcmp (t thr : Nat) (s : State) : Out :=
  .next (s.vecAt t thr 0x86 (fun w s =>
    let u : VUse := { vd := true, va := true, vb := true, ts := true, sa := isInt (vTs w), sb := isInt (vTs w), nrw := true, fns := 4 }
    if !(u.ok w && (isFlt (vTs w) || isInt (vTs w))) then illegal
    else s.elementwise t thr w true false 0 (cmpLane w)))
/-- VSEL: bit for bit. -/
def execVsel (t thr : Nat) (s : State) : Out :=
  .next (s.vecAt t thr 0x87 (fun w s =>
    let u : VUse := { vd := true, va := true, vb := true, vc := true, nrw := true }
    if !u.ok w then illegal
    else s.elementwise t thr w true true 0 (fun a b c _ => (if c ≠ 0 then a else b, 0))))

/-! ### Conversion (R178, R100) -/

/-- The pairs of VCVT (R100, R178). -/
def cvtTypes (ts td : Nat) : Bool :=
  (isFlt ts && isFlt td && ts != td) || (ts == 0 && td == 7) || (ts == 7 && isFlt td) || (isFlt ts && isInt td)
    || (isInt ts && isFlt td) || (isInt ts && isInt td && ts != td)
/-- A conversion that rounds under the mode: not W16 to W32, W16 to L16, or a change of integer width. -/
def cvtRounds (ts td : Nat) : Bool := !(ts == 0 && td == 1) && !(ts == 0 && td == 7) && !(isInt ts && isInt td)

/-- One lane of VCVT. -/
def cvtLane (w : Nat) : LaneFn := fun a _ _ rnd =>
  let ts := vTs w
  let td := vTd w
  let x := laneBits ts a
  if isFlt ts && isFlt td then wConv (fltP ts) x (fltP td) (vRnd w) rnd
  else if td = 7 then w16ToL16 x
  else if ts = 7 then l16ToW x (fltP td) (vRnd w) rnd
  else if isFlt ts then wToInt (fltP ts) x (vSa w) (intW td) (vRnd w) rnd
  else if isFlt td then intToW (bitsInt (vSa w) (intW ts) x) (fltP td) (vRnd w) rnd
  else intOut (intW td) (vSa w) (vSat w) (bitsInt (vSa w) (intW ts) x)
/-- VCVT. -/
def execVcvt (t thr : Nat) (s : State) : Out :=
  .next (s.vecAt t thr 0x88 (fun w s =>
    let r := cvtRounds (vTs w) (vTd w)
    let u : VUse := { vd := true, va := true, ts := true, td := true, rnd := r, gen := r && vRnd w == SR,
                      sa := isInt (vTs w) || isInt (vTd w), sat := isInt (vTd w), nrw := true }
    if !(u.ok w && cvtTypes (vTs w) (vTd w)) then illegal
    else s.elementwise t thr w false false (if r then srBlocks w else 0) (cvtLane w)))

/-- Clamp a supplied block exponent (R178). -/
def clampB (b : Nat) : Nat × Flags := if b = 0 then (1, fSAT) else if b = 255 then (254, fSAT) else (b, 0)
/-- VQL8: two blocks of 32 lanes. -/
def execVql8 (t thr : Nat) (s : State) : Out :=
  .next (s.vecAt t thr 0x89 (fun w s =>
    let u : VUse := { vd := true, va := true, vb := vFn w == 1, fns := 2 }
    if !u.ok w then illegal
    else
      s.withV t thr ([vVa w] ++ (if vFn w = 1 then [vVb w] else []))
        (let a := (s.v t thr (vVa w)).map (· % 2 ^ 16)
         let given := clampB ((s.v t thr (vVb w)).getD 0 0 % 256)
         let half := fun (blk : List Nat) =>
           let b := if vFn w = 1 then given.1 else autoB blk
           blk.map (fun x => let r := w16ToL8 x b; (r.1 + 256 * b, r.2))
         let rs := half (a.take 32) ++ half (a.drop 32)
         let f := rs.foldl (fun g r => g ||| r.2) (if vFn w = 1 then given.2 else 0)
         .done ((s.setV t thr (vVd w) (rs.map (·.1))).raise t thr f))))
/-- VDL8: code in bits [7:0], block exponent in bits [15:8]. -/
def execVdl8 (t thr : Nat) (s : State) : Out :=
  .next (s.vecAt t thr 0x8A (fun w s =>
    let u : VUse := { vd := true, va := true }
    if !u.ok w then illegal
    else s.elementwise t thr w false false 0 (fun a _ _ _ => l8ToW16 (a % 256) (a / 256 % 256) RNE 0)))
/-- VSF: exp, rcp, rsqrt, ln, sigmoid of W16 or W32 into W16 or W32. -/
def execVsf (t thr : Nat) (s : State) : Out :=
  .next (s.vecAt t thr 0x8B (fun w s =>
    let u : VUse := { vd := true, va := true, ts := true, td := true, fns := 5 }
    if !(u.ok w && isFlt (vTs w) && isFlt (vTd w)) then illegal
    else s.elementwise t thr w false false 0 (fun a _ _ _ => sfW (vFn w) (fltP (vTs w)) (laneBits (vTs w) a) (fltP (vTd w)))))

/-! ### Bits, shifts and lane movement (R174, R179, R180) -/

/-- VBIT. -/
def execVbit (t thr : Nat) (s : State) : Out :=
  .next (s.vecAt t thr 0x8C (fun w s =>
    let u : VUse := { vd := true, va := true, vb := true, fns := 4 }
    if !u.ok w then illegal
    else s.elementwise t thr w true false 0 (fun a b _ _ =>
      (match vFn w with | 0 => a &&& b | 1 => a ||| b | 2 => a ^^^ b | _ => a &&& (2 ^ 32 - 1 - b), 0))))
/-- VSHF: by vb lane bits [4:0]. -/
def execVshf (t thr : Nat) (s : State) : Out :=
  .next (s.vecAt t thr 0x8D (fun w s =>
    let u : VUse := { vd := true, va := true, vb := true, fns := 3 }
    if !u.ok w then illegal
    else s.elementwise t thr w true false 0 (fun a b _ _ =>
      (match vFn w with
        | 0 => a * 2 ^ (b % 32) % 2 ^ 32
        | 1 => a / 2 ^ (b % 32)
        | _ => intBits (Int.fdiv (bitsInt true 32 a) (2 ^ (b % 32))) 32, 0))))

/-- One step of VRED at distance d: lanes 0 to d − 1. `k` numbers the step's SR rounding. -/
def redStep (f : Nat → Nat → Nat → Nat × Flags) (d k : Nat) (ws : List Nat) (x : List Nat × Flags) : List Nat × Flags :=
  let rs := (List.range d).map (fun l => f (x.1.getD l 0) (x.1.getD (l + d) 0) (srBits ws k l))
  (rs.map (·.1), rs.foldl (fun g r => g ||| r.2) x.2)
/-- The six steps; the first reads type ts, the others td. -/
def redAll (f g : Nat → Nat → Nat → Nat × Flags) (ws : List Nat) (x : List Nat) : List Nat × Flags :=
  let y := redStep f 32 0 ws (x, 0)
  redStep g 1 5 ws (redStep g 2 4 ws (redStep g 4 3 ws (redStep g 8 2 ws (redStep g 16 1 ws y))))
/-- The operation of VRED on lanes of type ty. -/
def redOp (w ty : Nat) : Nat → Nat → Nat → Nat × Flags := fun a b rnd =>
  let x := laneBits ty a
  let y := laneBits ty b
  if isFlt ty then
    (if vFn w = 0 then wAdd (fltP ty) x (fltP ty) y 24 (vRnd w) rnd else wMinMax (fltP ty) x y (vFn w == 1))
  else
    let n := intW ty
    let p := bitsInt (vSa w) n x
    let q := bitsInt (vSa w) n y
    match vFn w with
    | 0 => intOut n (vSa w) (vSat w) (p + q)
    | 1 => (intBits (max p q) n, 0)
    | _ => (intBits (min p q) n, 0)
/-- VRED: the result in lane 0, the other lanes zero. Under SR each of the six steps draws one rounding. -/
def execVred (t thr : Nat) (s : State) : Out :=
  .next (s.vecAt t thr 0x8E (fun w s =>
    let sum := vFn w == 0
    let flt := isFlt (vTs w)
    let u : VUse := { vd := true, va := true, ts := true, td := true, rnd := sum && flt, gen := sum && flt && vRnd w == SR,
                      sa := isInt (vTs w), sat := isInt (vTs w) && sum, fns := 3 }
    let types := if flt then vTd w == (if sum then 1 else vTs w) else isInt (vTs w) && vTd w == vTs w
    if !(u.ok w && types && s.mayDraw t thr (vGen w) (if sum && flt && vRnd w == SR then 48 else 0)) then illegal
    else
      s.withV t thr [vVa w] (s.withDraw t thr (vGen w) (if sum && flt && vRnd w == SR then 48 else 0) (fun ws s =>
        let r := redAll (redOp w (vTs w)) (redOp w (vTd w)) ws (s.v t thr (vVa w))
        .done ((s.setV t thr (vVd w) (r.1.getD 0 0 :: List.replicate 63 0)).raise t thr r.2)))))
/-- VPERM: lane l takes va lane (vb lane l bits [5:0]). -/
def execVperm (t thr : Nat) (s : State) : Out :=
  .next (s.vecAt t thr 0x8F (fun w s =>
    let u : VUse := { vd := true, va := true, vb := true }
    if !u.ok w then illegal
    else
      s.withV t thr [vVa w, vVb w]
        (let a := s.v t thr (vVa w)
         .done (s.setV t thr (vVd w) ((s.v t thr (vVb w)).map (fun i => a.getD (i % 64) 0))))))
/-- VXLN: exchange at distance 2^fn into vd and vd + 1. -/
def execVxln (t thr : Nat) (s : State) : Out :=
  .next (s.vecAt t thr 0x90 (fun w s =>
    let u : VUse := { vd := true, va := true, vb := true, fns := 6 }
    if !(u.ok w && vVd w % 2 == 0) then illegal
    else
      s.withV t thr [vVa w, vVb w]
        (let a := s.v t thr (vVa w)
         let b := s.v t thr (vVb w)
         let d := 2 ^ vFn w
         let lo := (List.range 64).map (fun l => if l.testBit (vFn w) then b.getD (l - d) 0 else a.getD l 0)
         let hi := (List.range 64).map (fun l => if l.testBit (vFn w) then b.getD l 0 else a.getD (l + d) 0)
         .done ((s.setV t thr (vVd w) lo).setV t thr (vVd w + 1) hi))))

/-! ### Butterflies (R194 to R196) -/

/-- Round the components of 64 lanes: `terms l` lists a lane's components in draw order, two to an output register. -/
def State.butterfly (s : State) (t thr w outs : Nat) (srcs : List Nat) (terms : Nat → List (List (WVal × Flags)) × Flags) : Verdict :=
  if !s.mayDraw t thr (vGen w) (if vRnd w = SR then 16 * outs else 0) then illegal
  else
  s.withV t thr srcs (s.withDraw t thr (vGen w) (if vRnd w = SR then 16 * outs else 0) (fun ws s =>
    let lanes := (List.range 64).map (fun l =>
      let c := terms l
      (c.1.zipIdx.map (fun e => component e.1 (vRnd w) (srBits ws e.2 l)), c.2))
    let f := lanes.foldl (fun g l => l.1.foldl (fun g r => g ||| r.2) (g ||| l.2)) 0
    let out := fun (k : Nat) => lanes.map (fun l => (l.1.getD (2 * k) (0, 0)).1 + 2 ^ 16 * (l.1.getD (2 * k + 1) (0, 0)).1)
    .done (((List.range outs).foldl (fun s k => s.setV t thr (vVd w + k) (out k)) s).raise t thr f)))

def bfUse (w : Nat) (two : Bool) : VUse := { vd := true, va := true, vb := two, vc := true, rnd := true, gen := vRnd w == SR, fns := 2 }

/-- VBF2: vd = a + w·b, vd + 1 = a − w·b. -/
def execVbf2 (t thr : Nat) (s : State) : Out :=
  .next (s.vecAt t thr 0x91 (fun w s =>
    if !((bfUse w true).ok w && vVd w % 2 == 0) then illegal
    else
      let a := s.v t thr (vVa w)
      let b := s.v t thr (vVb w)
      let c := s.v t thr (vVc w)
      s.butterfly t thr w 2 [vVa w, vVb w, vVc w] (fun l =>
        (bf2Terms (a.getD l 0) (b.getD l 0) (c.getD l 0) (vFn w == 1), cFlags [a.getD l 0, b.getD l 0, c.getD l 0]))))
/-- VBF4: x0 to x3 in va to va + 3, twiddles in vc to vc + 2. -/
def execVbf4 (t thr : Nat) (s : State) : Out :=
  .next (s.vecAt t thr 0x92 (fun w s =>
    if !((bfUse w false).ok w && vVd w % 4 == 0 && vVa w % 4 == 0 && decide (vVc w ≤ 29)) then illegal
    else
      let x := fun (k l : Nat) => (s.v t thr (vVa w + k)).getD l 0
      let c := fun (k l : Nat) => (s.v t thr (vVc w + k)).getD l 0
      s.butterfly t thr w 4 ((List.range 4).map (vVa w + ·) ++ (List.range 3).map (vVc w + ·)) (fun l =>
        (bf4Terms (x 0 l) (x 1 l) (x 2 l) (x 3 l) (c 0 l) (c 1 l) (c 2 l) (vFn w == 1),
          cFlags [x 0 l, x 1 l, x 2 l, x 3 l, c 0 l, c 1 l, c 2 l]))))

/-! ### General registers (R174) -/

/-- VPUT: every lane of vd = bits [31:0] of g[va]. -/
def execVput (t thr : Nat) (s : State) : Out :=
  .next (s.vecAt t thr 0x93 (fun w s =>
    let u : VUse := { vd := true, va := true }
    if !u.ok w then illegal
    else .done (s.setV t thr (vVd w) (List.replicate 64 ((s.g t thr (vVa w)).toNat % 2 ^ 32)))))
/-- VGET: g[vd] = lane fn of va. -/
def execVget (t thr : Nat) (s : State) : Out :=
  .next (s.vecAt t thr 0x94 (fun w s =>
    let u : VUse := { vd := true, va := true, fns := 64 }
    if !u.ok w then illegal
    else s.withV t thr [vVa w] (.done (s.setG t thr (vVd w) (BitVec.ofNat 64 ((s.v t thr (vVa w)).getD (vFn w) 0))))))

/-! ### Loads and stores (R184 to R186) -/

def mReg (w : Nat) : Nat := bits w 55 51
def mAg (w : Nat) : Nat := bits w 50 48
def mMt (w : Nat) : Nat := bits w 47 45
/-- Bytes moved, which are also the alignment, by mt. -/
def mtBytes (mt : Nat) : Nat := match mt with | 0 => 128 | 1 => 256 | 2 => 64 | 3 => 32 | _ => 2
/-- Lanes from packed bytes. -/
def unpackLanes (mt : Nat) (bs : List Byte) : List Nat :=
  (List.range 64).map (fun l =>
    match mt with
    | 0 => field bs (2 * l) 2
    | 1 => field bs (4 * l) 4
    | 2 => field bs l 1
    | 3 => field bs (l / 2) 1 / 16 ^ (l % 2) % 16
    | _ => 256 * field bs (l / 32) 1)
/-- Packed bytes from lanes. -/
def packLanes (mt : Nat) (v : List Nat) : List Byte :=
  match mt with
  | 0 => v.flatMap (leBytes 2 ·)
  | 1 => v.flatMap (leBytes 4 ·)
  | 2 => v.flatMap (leBytes 1 ·)
  | 3 => (List.range 32).flatMap (fun k => leBytes 1 (v.getD (2 * k) 0 % 16 + 16 * (v.getD (2 * k + 1) 0 % 16)))
  | _ => leBytes 1 (v.getD 0 0 / 256) ++ leBytes 1 (v.getD 32 0 / 256)
/-- The loft range of VLDL and VSTL is aligned and inside the loft (R186). -/
def mtRange (mt a : Nat) : Bool := a % mtBytes mt == 0 && decide (a + mtBytes mt ≤ loftBytes)
def memEnc (w : Nat) (loft : Bool) : Bool := bits w 44 0 == 0 && (if loft then decide (mMt w ≤ 4) else mMt w == 0)

/-- VLD. -/
def execVld (t thr : Nat) (s : State) : Out :=
  .next (s.vecAt t thr 0x98 (fun w s =>
    if !memEnc w false then illegal
    else s.withRow t thr ((s.thread t thr).agen (mAg w)).addr (fun v => .done ((s.setV t thr (mReg w) v).stepAg t thr [mAg w]))))
/-- VST. -/
def execVst (t thr : Nat) (s : State) : Out :=
  .next (s.vecAt t thr 0x99 (fun w s =>
    let row := ((s.thread t thr).agen (mAg w)).addr
    if !memEnc w false then illegal
    else if 512 ≤ row then vecAddr row
    else s.withV t thr [mReg w]
      (.done ((s.nearWr t row ((s.v t thr (mReg w)).map (BitVec.ofNat 32 ·))).stepAg t thr [mAg w]))))
/-- VLDL. -/
def execVldl (t thr : Nat) (s : State) : Out :=
  .next (s.vecAt t thr 0x9A (fun w s =>
    let a := ((s.thread t thr).agen (mAg w)).addr
    let n := mtBytes (mMt w)
    if !memEnc w true then illegal
    else if !mtRange (mMt w) a then vecAddr a
    else if s.loftBad t a n then s.vecParity t thr 3 (a + s.badOff (loftAddr t a) n)
    else .done ((s.setV t thr (mReg w) (unpackLanes (mMt w) (s.loft t a n))).stepAg t thr [mAg w])))
/-- VSTL. -/
def execVstl (t thr : Nat) (s : State) : Out :=
  .next (s.vecAt t thr 0x9B (fun w s =>
    let a := ((s.thread t thr).agen (mAg w)).addr
    if !memEnc w true then illegal
    else if !mtRange (mMt w) a then vecAddr a
    else s.withV t thr [mReg w]
      (.done ((s.loftWr t a (packLanes (mMt w) (s.v t thr (mReg w)))).stepAg t thr [mAg w]))))

/-! ### Address generators (R193) -/

/-- VAG. -/
def execVag (t thr : Nat) (s : State) : Out :=
  .next (s.vecAt t thr 0xA0 (fun w s =>
    let b := (s.g t thr (bits w 52 48)).toNat
    let i := (s.g t thr (bits w 47 43)).toNat
    let c := (s.g t thr (bits w 42 38)).toNat
    let n := bits c 12 8
    let sh := bits c 20 16
    let fw := bits c 28 24
    if bits w 37 0 ≠ 0 then illegal
    else if bits b 63 53 ≠ 0 ∨ bits b 31 21 ≠ 0 ∨ bits i 63 56 ≠ 0 ∨ bits i 31 24 ≠ 0
        ∨ bits c 63 29 ≠ 0 ∨ bits c 23 21 ≠ 0 ∨ bits c 15 13 ≠ 0 ∨ bits c 7 1 ≠ 0
        ∨ n = 0 ∨ 24 < n ∨ 23 < sh ∨ fw = 0 ∨ 24 < fw then illegal
    else 
      let a : AddrGen :=
        { base := BitVec.ofNat 21 b, stride := BitVec.ofNat 21 (b / 2 ^ 32), idx := BitVec.ofNat 24 i,
          inc := BitVec.ofNat 24 (i / 2 ^ 32), mode := bitN c 0, n := BitVec.ofNat 5 n, shift := BitVec.ofNat 5 sh,
          fw := BitVec.ofNat 5 fw }
      .done (s.updThread t thr (fun h => { h with ag := smSet h.ag (bits w 55 53) a }))))
/-- VAGRD. -/
def execVagrd (t thr : Nat) (s : State) : Out :=
  .next (s.vecAt t thr 0xA1 (fun w s =>
    if bits w 47 0 ≠ 0 then illegal
    else .done (s.setG t thr (bits w 52 48) (((s.thread t thr).agen (bits w 55 53)).idx.setWidth 64))))

/-! ### Random numbers (R201) -/

/-- VRSET: key and counter from three registers; the generator is bound to the thread. -/
def execVrset (t thr : Nat) (s : State) : Out :=
  .next (s.vecAt t thr 0xA8 (fun w s =>
    let r := bits w 52 48
    if bits w 53 53 ≠ 0 ∨ bits w 47 0 ≠ 0 ∨ 29 < r then illegal
    else .done ((s.setGen t (bits w 55 54)
      { key := s.g t thr r, owner := some thr,
        ctr := BitVec.ofNat 128 ((s.g t thr (r + 1)).toNat + 2 ^ 64 * (s.g t thr (r + 2)).toNat) }).clean (.gen t (bits w 55 54)))))
/-- VRGET: key and counter to three registers. -/
def execVrget (t thr : Nat) (s : State) : Out :=
  .next (s.vecAt t thr 0xA9 (fun w s =>
    let r := bits w 52 48
    let g := s.gen t (bits w 55 54)
    if bits w 53 53 ≠ 0 ∨ bits w 47 0 ≠ 0 ∨ 29 < r then illegal
    else if s.isBad (.gen t (bits w 55 54)) then s.vecParity t thr 5 (bits w 55 54)
    else .done (((s.setG t thr r g.key).setG t thr (r + 1) (g.ctr.setWidth 64)).setG t thr (r + 2)
      (BitVec.ofNat 64 (g.ctr.toNat / 2 ^ 64)))))
/-- VRAND: 32 random bits into each lane. -/
def execVrand (t thr : Nat) (s : State) : Out :=
  .next (s.vecAt t thr 0xAA (fun w s =>
    let u : VUse := { vd := true, gen := true }
    if !(u.ok w && s.mayDraw t thr (vGen w) 16) then illegal
    else s.withDraw t thr (vGen w) 16 (fun ws s => .done (s.setV t thr (vVd w) ws))))

/-! ### Sampling (R202 to R208) -/

/-- A logit of type W16 or W32 as W32. -/
def logit32 (ty v : Nat) : Nat := if ty = 0 then (wConv 8 (v % 2 ^ 16) 24 RNE 0).1 else v
def isNan32 (v : Nat) : Bool := isNan (wDecode 24 v)
/-- z of R203: logit · inv_tau + G(draw), rounded once. -/
def noisy (logit invTau draw : Nat) : Nat := (wFma 24 logit 24 invTau 24 (gumbel draw) 24 RNE 0).1

/-- VSAMPLE: the best noisy value in vd, its index in vd + 1. -/
def execVsample (t thr : Nat) (s : State) : Out :=
  .next (s.vecAt t thr 0xB0 (fun w s =>
    let u : VUse := { vd := true, va := true, vb := true, vc := true, ts := true, gen := true, fns := 2 }
    let greedy := vFn w == 1
    if !(u.ok w && isFlt (vTs w) && vVd w % 2 == 0 && s.mayDraw t thr (vGen w) (if greedy then 0 else 16)) then illegal
    else
      s.withV t thr [vVd w, vVd w + 1, vVa w, vVb w, vVc w]
        (s.withDraw t thr (vGen w) (if greedy then 0 else 16) (fun ws s =>
          let rs := (List.range 64).map (fun l =>
            let x := logit32 (vTs w) ((s.v t thr (vVa w)).getD l 0)
            let idx := (s.v t thr (vVb w)).getD l 0
            let tau := (s.v t thr (vVc w)).getD l 0
            let bz := (s.v t thr (vVd w)).getD l 0
            let bi := (s.v t thr (vVd w + 1)).getD l 0
            let z := if greedy then x else noisy x tau (ws.getD l 0)
            let win := !isNan32 x && (decide (ord32 bz < ord32 z) || (ord32 z == ord32 bz && decide (idx < bi)))
            (if win then (z, idx) else (bz, bi), isNan32 x || isNan32 tau))
          .done (((s.setV t thr (vVd w) (rs.map (·.1.1))).setV t thr (vVd w + 1) (rs.map (·.1.2))).raise t thr
            (fif (rs.any (·.2)) fINVALID))))))
/-- VSRED: the largest key of 64 lane pairs into a general register. -/
def execVsred (t thr : Nat) (s : State) : Out :=
  .next (s.vecAt t thr 0xB1 (fun w s =>
    let va := bits w 50 46
    if bits w 45 0 ≠ 0 ∨ va = 31 then illegal
    else
      s.withV t thr [va, va + 1]
        (let keys := (List.range 64).map (fun l => topKey ((s.v t thr va).getD l 0) ((s.v t thr (va + 1)).getD l 0))
         .done (s.setG t thr (bits w 55 51) (BitVec.ofNat 64 (keys.foldl max 0))))))

/-- Insert an entry in descending key order (R205). -/
def topInsert (e : Nat × Nat) : List (Nat × Nat) → List (Nat × Nat)
  | [] => [e]
  | x :: xs => if topKey x.1 x.2 < topKey e.1 e.2 then e :: x :: xs else x :: topInsert e xs
def TopK.list (k : TopK) : List (Nat × Nat) := k.es.map (fun e => (e.1.toNat, e.2.toNat))

/-- The first entry of the top-k unit that fails parity (R221, R225); what lies beyond its list holds no entry. -/
def State.topkBad (s : State) (t : Nat) : Option Nat :=
  (List.range (s.tile t).topk.es.length).find? (fun i => s.isBad (.topk t i))
def State.cleanTopk (s : State) (t : Nat) : State :=
  { s with bad := s.bad.filter (fun p => match p with | .topk a _ => a != t | _ => true) }

/-- VTOPK: fn[0] = 1 empties the unit, sets k and binds it; then the 64 lanes go in and the k largest stay. -/
def execVtopk (t thr : Nat) (s : State) : Out :=
  .next (s.vecAt t thr 0xB2 (fun w s =>
    let start := vFn w == 1
    let u : VUse := { vd := start, va := true, vb := true, ts := true, fns := 2 }
    let x := (s.tile t).topk
    let k := bits (s.g t thr (vVd w)).toNat 8 0
    if !(u.ok w && isFlt (vTs w)) then illegal
    else if start && (k = 0 || decide (256 < k)) then illegal
    else if x.owner.any (· != thr) || (!start && x.owner.isNone) then illegal
    else if !start && (s.topkBad t).isSome then s.vecParity t thr 4 ((s.topkBad t).getD 0)
    else
      s.withV t thr [vVa w, vVb w]
        (let kk := if start then k else x.k
         let ls := (s.v t thr (vVa w)).map (logit32 (vTs w) ·)
         let entries := (ls.zip (s.v t thr (vVb w))).filter (fun e => !isNan32 e.1)
         let es := entries.foldl (fun es e => (topInsert e es).take kk) (if start then [] else x.list)
         let s := s.cleanTopk t
         let tk : TopK := { k := kk, owner := some thr, cut := none, es := es.map (fun e => (BitVec.ofNat 32 e.1, BitVec.ofNat 32 e.2)) }
         .done ((s.updTile t (fun y => { y with topk := tk })).raise t thr (fif (ls.any isNan32) fINVALID)))))

/-- The running sums of a list of W32 values, each rounded (R206). -/
def runSums (acc : Nat) : List Nat → List Nat
  | [] => []
  | q :: qs => let c := (wAdd 24 acc 24 q 24 RNE 0).1; c :: runSums c qs
/-- exp((logit − first) · inv_tau): one rounding of the exact product, then exp by R181. -/
def topQ (first invTau logit : Nat) : Nat :=
  let d : WVal := match wDecode 24 logit, wDecode 24 first with
    | .fin a m x _, .fin b n y _ =>
      let v := dyAdd (sgn a m) x (sgn (!b) n) y
      if v.1 = 0 then .zero false else .fin (decide (v.1 < 0)) v.1.natAbs v.2 false
    | .zero _, .zero _ => .zero false
    | .zero _, .fin b n y _ => .fin (!b) n y false
    | .fin a m x _, .zero _ => .fin a m x false
    | .inf a, .inf b => if a = b then .nan false else .inf a
    | .inf a, _ => .inf a
    | _, .inf b => .inf (!b)
    | _, _ => .nan false
  (sfW 0 24 (roundV (wMulV d (wDecode 24 invTau)).1 24 RNE 0).1 24).1

/-- VTOPP: the cut of R206. -/
def execVtopp (t thr : Nat) (s : State) : Out :=
  .next (s.vecAt t thr 0xB3 (fun w s =>
    let x := (s.tile t).topk
    if bits w 50 0 ≠ 0 then illegal
    else if x.owner ≠ some thr then illegal
    else if (s.topkBad t).isSome then s.vecParity t thr 4 ((s.topkBad t).getD 0)
    else
      let g := (s.g t thr (bits w 55 51)).toNat
      let p := g % 2 ^ 32
      let tau := g / 2 ^ 32
      let es := x.list
      let l := es.length
      if l = 0 then .done (s.updTile t (fun y => { y with topk := { y.topk with cut := some 0 } }))
      else
        let qs := es.map (fun e => topQ (es.headD (0, 0)).1 tau e.1)
        let cs := runSums 0 qs
        let th := (wMul 24 p 24 (cs.getLastD 0) 24 RNE 0).1
        let big := (wCompare 24 3 0x3F800000 p).1
        let none_ := (wCompare 24 3 p 0).1
        let n := if big then l else if none_ then 1 else match cs.findIdx? (fun c => (wCompare 24 3 th c).1) with | some i => i + 1 | none => l
        .done ((s.updTile t (fun y => { y with topk := { y.topk with cut := some n } })).raise t thr
          (fif (isNan32 p || isNan32 tau) fINVALID))))

/-- VTOPS: sample among the entries before the cut. -/
def execVtops (t thr : Nat) (s : State) : Out :=
  .next (s.vecAt t thr 0xB4 (fun w s =>
    let x := (s.tile t).topk
    let greedy := vFn w == 1
    if bits w 45 24 ≠ 0 ∨ bits w 21 14 ≠ 0 ∨ bits w 7 0 ≠ 0 ∨ 1 < vFn w then illegal
    else if x.owner ≠ some thr then illegal
    else if !s.mayDraw t thr (bits w 23 22) (if greedy then 0 else (x.k + 3) / 4) then illegal
    else if (s.topkBad t).isSome then s.vecParity t thr 4 ((s.topkBad t).getD 0)
    else
      let tau := (s.g t thr (bits w 55 51)).toNat / 2 ^ 32
      let n := min (x.cut.getD x.es.length) x.es.length
      let es := x.list.take n
      s.withDraw t thr (vGen w) (if greedy then 0 else (x.k + 3) / 4) (fun ws s =>
        let key := if greedy then (match es with | e :: _ => topKey e.1 e.2 | [] => 0)
          else (es.zipIdx.map (fun e => topKey (noisy e.1.1 tau (ws.getD e.2 0)) e.1.2)).foldl max 0
        .done ((s.setG t thr (bits w 50 46) (BitVec.ofNat 64 key)).raise t thr
          (fif (isNan32 tau) fINVALID)))))

/-! ### REP (R187 to R191) -/

/-- Opcodes that REP may repeat (R188). -/
def repeatable (o : Nat) : Bool :=
  decide (0x80 ≤ o) && decide (o ≤ 0xBE) && definedOp o &&
    !(o == 0xA0 || o == 0xA1 || o == 0xA8 || o == 0xA9 || o == 0x93 || o == 0x94 || o == 0xB1 || o == 0xB3 || o == 0xB4)

/-- REP: the next instruction of the thread runs the stated number of times. -/
def execRep (t thr : Nat) (s : State) : Out :=
  .next (s.issueAt t thr 0xBF
    (fun _ => taintVec (s.instWord t ((s.thread t thr).pc + 8))) (fun w s =>
      let pc := (s.thread t thr).pc + 8
      let cg := bitN w 55
      let r := (s.g t thr (bits w 54 50)).toNat
      let n := if cg then r else bits w 15 0 + 1
      if (if cg then bits w 49 0 ≠ 0 else bits w 54 16 ≠ 0) then illegal
      else if n = 0 ∨ 65536 < n then illegal
      else if !s.pcOk t pc then illegal
      else if !repeatable (opc (s.instWord t pc)) then illegal
      else .jump pc (s.updTile t (fun x => { x with rep := some ⟨thr, n⟩ }))))

end Sys2Proof.Machine
end

