-- ==== Sys2Proof/Machine/Winnow.lean ====
section
/-!
DEFINITION. Winnow (08 R320 to R352): tickets, the predictor and the checker, tentative forwarding, speculation and the
bound unit.
-/
namespace Sys2Proof.Machine

def State.ticket (s : State) (t k : Nat) : Ticket := smGetD (s.tile t).win.tickets k {}
def State.updTicket (s : State) (t k : Nat) (f : Ticket → Ticket) : State :=
  s.updTile t (fun x => { x with win := { x.win with tickets := smUpd x.win.tickets k {} f } })

/-! ### Resolution (R326, R332, R333) -/

/-- A tentative slot at the resolution of its ticket: a Pass keeps what waits for credits; a Fail rewinds to the first
tentative half that was sent, drops tentative halves and takes back the credits of those that were sent. A half pushed before the
mode that still waits for a credit stays first. -/
def Slot.resolve (x : Slot) (fail : Bool) : Slot :=
  let y := { x with ticket := none, tentGroup := none, tentSent := 0 }
  if x.st ≠ .active then y
  else if fail then
    let f := fun (h : Half) => if h.st = .engine ∧ h.tent then { h with st := .free, tent := false } else h
    { y with
      h0 := f x.h0, h1 := f x.h1, credits := x.credits + x.tentSent
      nextReq := match x.tentGroup with | some g => min x.nextReq (g * x.d.perHalf) | none => x.nextReq }
  else { y with h0 := { x.h0 with tent := false }, h1 := { x.h1 with tent := false } }

/-- A ticket resolves: COMMIT or SQUASH goes out on every slot that is tentative under it. -/
def State.resolve (s : State) (t k : Nat) (fail ended : Bool) : State :=
  let s := s.updTicket t k (fun x => { x with st := .resolved, fail, ended })
  let s := s.winCtr t (if fail then 0x140 else 0x138) 1
  ((List.range 32).foldl (fun s i =>
    let x := s.slot t i
    if x.ticket ≠ some k then s
    else
      let s := if x.st = .active then s.sendToken t i (if fail then .squash else .commit) else s
      ((s.updSlot t i (fun x => x.resolve fail)).serve t i).finishUse t i) s).wake t

/-- Tickets that no job can resolve any more once the task has ended OK (R326, R341). -/
def State.openTickets (s : State) (t : Nat) : Bool :=
  let w := (s.tile t).win
  w.predQ.isEmpty && w.chkQ.isEmpty && w.predRun.isNone && w.chkRun.isNone && w.tickets.any (fun e => e.2.st == .open)

/-- An error of a job after its task has ended OK: its ticket resolves as Fail with ended set, and the ticket's other job goes (R341,
R343). Where the task ended otherwise, every ticket is resolved already (R340). -/
def State.endTicket (s : State) (t k : Nat) : State :=
  if (s.ticket t k).st ≠ .open then s
  else
    let s := (s.cutCycles t 0x128 ((s.tile t).win.predRun.any (fun j => j.ticket == k))).cutCycles t 0x130
      ((s.tile t).win.chkRun.any (fun j => j.ticket == k))
    (s.updTile t (fun x => { x with win := { x.win with
      predQ := x.win.predQ.filter (fun j => j.ticket != k), chkQ := x.win.chkQ.filter (fun j => j.ticket != k)
      predRun := x.win.predRun.filter (fun j => j.ticket != k), chkRun := x.win.chkRun.filter (fun j => j.ticket != k) } })).resolve t k true true

/-- They resolve as Fail, ended set. DEDUCED: log entry 36. -/
def State.endTickets (s : State) (t : Nat) : State :=
  (List.range 4).foldl (fun s k => if (s.ticket t k).st = .open then s.resolve t k true true else s) s

/-! ### Job descriptors (R322, R323, R330) -/

/-- A job descriptor from its 64 bytes. -/
structure Job where
  xrow : Nat
  xscale : Nat
  wc : Nat
  ws : Nat
  a : Nat
  as_ : Nat
  b : Nat
  bs : Nat
  mask : Nat
  stride : Nat
  m : Nat
  kb : Nat
  nb : Nat
  rank : Nat
  thetaP : Nat
  thetaC : Nat
deriving DecidableEq, Repr

def Job.ofBytes (b : List Byte) : Job :=
  { xrow := field b 0 4, xscale := field b 4 4, wc := field b 8 4, ws := field b 12 4, a := field b 16 4, as_ := field b 20 4,
    b := field b 24 4, bs := field b 28 4, mask := field b 32 4, stride := field b 0x24 2, m := field b 0x26 2 + 1,
    kb := field b 0x28 1 + 1, nb := field b 0x29 1 + 1, rank := field b 0x2A 1, thetaP := field b 0x2C 4, thetaC := field b 0x30 4 }

def Job.k (j : Job) : Nat := 64 * j.kb
/-- Bytes of a row of factor B. -/
def Job.bRow (j : Job) (W : Nat) : Nat := 64 * ((j.nb * W + 63) / 64)

/-- The descriptor keeps R322 and R323 and stays inside the loft. DEDUCED: log entry 38. -/
def Job.ok (j : Job) (bytes : List Byte) (W : Nat) (checker : Bool) : Bool :=
  (List.range 9).all (fun i => decide (field bytes (4 * i) 4 < 2 ^ 21))
    && field bytes 0x2B 1 == 0 && field bytes 0x34 12 == 0
    && decide (j.m ≤ 4096) && j.stride % 64 == 0 && decide (j.k ≤ j.stride)
    && okRange j.xrow ((j.m - 1) * j.stride + j.k) 64 && okRange j.xscale (j.m * (j.k / 32)) 1 && okRange j.mask 96 32
    && (if checker then okRange j.wc (j.nb * j.kb * 2048) 64 && okRange j.ws ((j.nb * j.kb - 1) * 64 + 2 * W) 1
        else decide (1 ≤ j.rank) && decide (j.rank ≤ 16)
          && okRange j.a (16 * (j.k - 1) + j.rank) 64 && okRange j.as_ (16 * (j.k / 32 - 1) + j.rank) 1
          && okRange j.b ((j.rank - 1) * j.bRow W + j.nb * W) 64 && okRange j.bs (j.nb * W) 1)

/-- WIN_ERR keeps the first error (R350). -/
def State.winErr (s : State) (t source ticket loc : Nat) : State :=
  s.updTile t (fun x => { x with win := { x.win with
    err := firstErr x.win.err (BitVec.ofNat 64 (source * 2 ^ 56 + ticket * 2 ^ 54 + loc)) } })

/-- A descriptor fault of a job that starts (R330). -/
def State.winIllegal (s : State) (t : Nat) (j : WinJob) : State :=
  ((s.winErr t 5 j.ticket j.off).endTask t 2 j.thr 5 j.pc 0).endTicket t j.ticket

/-- A parity error that an engine finds (R343). -/
def State.winParity (s : State) (t : Nat) (j : WinJob) (source loc : Nat) : State :=
  (((s.winErr t source j.ticket loc).tileReport 1 t (loftAddr t loc) 0).endTask t 5 j.thr 5 j.pc (BitVec.ofNat 64 loc)).endTicket t j.ticket

/-! ### Prediction and check (R324, R325) -/

/-- The A40 sum exceeds a W32 threshold, or is NaR. -/
def exceeds (acc theta : Nat) : Bool :=
  match a40Decode acc, wDecode 24 theta with
  | .nar, _ => true
  | _, .nan _ => false
  | .inf false, .inf false => false
  | .inf neg, _ => !neg
  | _, .inf neg => neg
  | .zero, .zero _ => false
  | .zero, .fin neg _ _ _ => neg
  | .fin neg _ _, .zero _ => !neg
  | .fin s m x, .fin r n y _ => decide (0 < (dyAdd (sgn s m) x (sgn (!r) n) y).1)

/-- Element k of input row i. -/
def State.jobInput (s : State) (t : Nat) (j : Job) (i k : Nat) : LVal :=
  l8Decode (ofLe (s.loft t (j.xrow + i * j.stride + k) 1)) (ofLe (s.loft t (j.xscale + i * (j.k / 32) + k / 32) 1))

/-- The hidden row of the predictor: its L8 codes and their scale. -/
def State.predHidden (s : State) (t : Nat) (j : Job) (i : Nat) : List LVal :=
  let x := (List.range j.k).map (s.jobInput t j i)
  let hw := (List.range 32).map (fun c =>
    if c < j.rank then
      (drainW (macList (0, 0) (List.zip x ((List.range j.k).map (fun k =>
        l8Decode (ofLe (s.loft t (j.a + 16 * k + c) 1)) (ofLe (s.loft t (j.as_ + 16 * (k / 32) + c) 1)))))).1 8 false).1
    else 0)
  let hb := autoB hw
  (hw.take j.rank).map (fun v => l8Decode (w16ToL8 v hb).1 hb)

/-- Output n of row i is predicted live. -/
def State.predLive (s : State) (t W : Nat) (j : Job) (h : List LVal) (n : Nat) : Bool :=
  let sc := ofLe (s.loft t (j.bs + n) 1)
  exceeds (macList (0, 0) (List.zip h ((List.range j.rank).map (fun c =>
    l8Decode (ofLe (s.loft t (j.b + c * j.bRow W + n) 1)) sc)))).1 j.thetaP

/-- The predicted mask. -/
def State.predMask (s : State) (t W : Nat) (j : Job) : BitVec 256 :=
  let hs := (List.range j.m).map (s.predHidden t j)
  BitVec.ofNat 256 ((List.range j.nb).foldl (fun v c =>
    if hs.any (fun h => (List.range W).any (fun n => s.predLive t W j h (c * W + n))) then v + 2 ^ c else v) 0)

/-- Check weight k of column c of block b (R137). -/
def State.chkWeight (s : State) (t : Nat) (j : Job) (b c k : Nat) : LVal :=
  let q := b * j.kb + k / 64
  let e := k % 64
  l8Decode (ofLe (s.loft t (j.wc + q * 2048 + 64 * (e / 2) + 2 * c + e % 2) 1)) (ofLe (s.loft t (j.ws + q * 64 + 2 * c + e / 32) 1))

/-- The check mask. -/
def State.chkMask (s : State) (t W : Nat) (j : Job) : BitVec 256 :=
  let xs := (List.range j.m).map (fun i => (List.range j.k).map (s.jobInput t j i))
  BitVec.ofNat 256 ((List.range j.nb).foldl (fun v b =>
    if (List.range W).any (fun c =>
        let w := (List.range j.k).map (s.chkWeight t j b c)
        xs.any (fun x => exceeds (macList (0, 0) (List.zip x w)).1 j.thetaC))
    then v + 2 ^ b else v) 0)

/-- The first bad byte that a job reads, with its WIN_ERR source (R343, R350). -/
def State.jobErr (s : State) (t W : Nat) (j : Job) (checker : Bool) : Option UnitErr :=
  firstOf ((List.range j.m).map (fun i => s.loftErr t (j.xrow + i * j.stride) j.k 2 0)
    ++ [s.loftErr t j.xscale (j.m * (j.k / 32)) 2 0]
    ++ (if checker then
          (List.range (j.nb * j.kb)).flatMap (fun q =>
            (List.range 32).map (fun r => s.loftErr t (j.wc + q * 2048 + 64 * r) (2 * W) 3 0) ++ [s.loftErr t (j.ws + q * 64) (2 * W) 3 0])
        else
          (List.range j.k).map (fun k => s.loftErr t (j.a + 16 * k) j.rank 1 0)
            ++ (List.range (j.k / 32)).map (fun q => s.loftErr t (j.as_ + 16 * q) j.rank 1 0)
            ++ (List.range j.rank).map (fun c => s.loftErr t (j.b + c * j.bRow W) (j.nb * W) 1 0)
            ++ [s.loftErr t j.bs (j.nb * W) 1 0]))

/-- A parity error in a ticket's state; it has no loft offset, so the location is 0 (DESIGN CHOICE, log entry 139). -/
def State.ticketErr (s : State) (t k : Nat) : Option UnitErr := if s.isBad (.ticket t k) then some ⟨4, 0, 0⟩ else none

/-! ### The engines (R329 to R331) -/

/-- WINNOW_JOB_START: an engine takes its next job and reads its descriptor. -/
def execWinnowJobStart (t : Nat) (checker : Bool) (s : State) : Out :=
  .next (
    let w := (s.tile t).win
    let busy := if checker then w.chkRun.isSome else w.predRun.isSome
    match (if checker then w.chkQ else w.predQ) with
    | [] => s
    | q :: rest =>
      if busy then s
      else
        let s := s.updTile t (fun x => { x with win := if checker then { x.win with chkQ := rest } else { x.win with predQ := rest } })
        let bytes := s.loft t q.off 64
        let j := Job.ofBytes bytes
        if q.off % 64 ≠ 0 ∨ loftBytes < q.off + 64 then s.winIllegal t q
        else if s.loftBad t q.off 64 then s.winParity t q 5 (q.off + s.badOff (loftAddr t q.off) 64)
        else if !j.ok bytes (s.tileW t) checker then s.winIllegal t q
        else
          let q := { q with nb := j.nb, desc := bytes }
          let other := if checker then (s.ticket t q.ticket).nb else
            match w.chkRun with | some c => if c.ticket = q.ticket then c.nb else 0 | none => 0
          if other ≠ 0 ∧ other ≠ j.nb then s.winIllegal t q
          else
            let s := s.updTile t (fun x => { x with win :=
              if checker then { x.win with chkRun := some q } else { x.win with predRun := some q } })
            (if checker then s else s.updTicket t q.ticket (fun x => { x with nb := j.nb })).wake t)

/-- A job took the cycles of R331, and a free number more: waits for the loft port, and for a prediction that a check needs
(DESIGN CHOICE, log entry 1). -/
def State.winCycles (s : State) (t off n : Nat) : State :=
  let (v, s) := s.free 32
  s.winCtr t off (n + v.toNat)

/-- WINNOW_PREDICTION_DONE: the predicted mask is written. -/
def execWinnowPredictionDone (t : Nat) (s : State) : Out :=
  .next (
    match (s.tile t).win.predRun with
    | none => s
    | some q =>
      let W := s.tileW t
      let j := Job.ofBytes q.desc
      let s := s.updTile t (fun x => { x with win := { x.win with predRun := none } })
      match s.jobErr t W j false with
      | some e => (s.cutCycles t 0x128 true).winParity t q e.source e.loc
      | none =>
        let m := s.predMask t W j
        let s := (s.loftWr t j.mask (leBytes 32 m.toNat)).updTicket t q.ticket (fun x => { x with predDone := true, pred := m })
        (((s.winCtr t 0x100 q.nb).winCtr t 0x108 (popcount m)).winCycles t 0x128 (j.m * (j.k + j.nb * W) / 16 + 40)).wake t)

/-- WINNOW_CHECK_DONE: once the prediction is written, the checker reads the ticket and the predicted mask (R343), the check and repair masks are, and the ticket resolves. -/
def execWinnowCheckDone (t : Nat) (s : State) : Out :=
  .next (
    match (s.tile t).win.chkRun with
    | none => s
    | some q =>
      if !(s.ticket t q.ticket).predDone then s
      else
        let W := s.tileW t
        let j := Job.ofBytes q.desc
        let s := s.updTile t (fun x => { x with win := { x.win with chkRun := none } })
        match firstOf [s.jobErr t W j true, s.ticketErr t q.ticket, s.loftErr t j.mask 32 4 0] with
        | some e => (s.cutCycles t 0x130 true).winParity t q e.source e.loc
        | none =>
          let c := s.chkMask t W j
          let p := (s.ticket t q.ticket).pred
          let r := c &&& ~~~p
          let s := s.loftWr t (j.mask + 32) (leBytes 32 c.toNat ++ leBytes 32 r.toNat)
          let s := s.updTicket t q.ticket (fun x => { x with chk := c, repair := r })
          let s := ((s.winCtr t 0x110 (popcount c)).winCtr t 0x118 (popcount r)).winCtr t 0x120 (popcount (p &&& ~~~c))
          let s := s.winCycles t 0x130 (j.m * j.kb * j.nb * ((W + 15) / 16) + 40)
          s.resolve t q.ticket (r != 0) false)

/-! ### Tokens at a consumer (R333 to R335, R338, R339) -/

/-- A committed half leaves every taint list, but that of a thread that a squash sends to its restart pc once its REP completes; where a list becomes empty, the thread's flags count and its speculation
closes (R338, R339). -/
def State.untaint (s : State) (t slot half : Nat) : State :=
  (List.range 8).foldl (fun s k =>
    let h := s.thread t k
    if h.taint.contains (slot, half) && !h.redirect then
      let rest := h.taint.filter (fun e => e != (slot, half))
      if rest.isEmpty then (s.flagsOr t h.specFlags).updThread t k (fun h => { h with taint := [] }.closeSpec)
      else s.updThread t k (fun h => { h with taint := rest })
    else s) s

/-- COMMIT: held halves are acknowledged and become Ready in order. -/
def execCommit (id : Nat) (s : State) : Out :=
  .next (s.token id (fun k => k == .commit) (fun t k _ p s =>
    let x := s.slot t k
    if x.st ≠ .active ∨ x.d.dir ≠ 3 ∨ !x.peerIs p then s
    else
      let s := if x.h0.held then s.ackHalf t x.d.peerTile x.h0 .ok else s
      let s := if x.h1.held then s.ackHalf t x.d.peerTile x.h1 .ok else s
      let s := s.updSlot t k (fun x => { x with h0 := { x.h0 with held := false }, h1 := { x.h1 with held := false } })
      let (v, s) := if x.waiters.isEmpty then (0, s) else s.free 32
      let s := s.deliver t k v.toNat 2
      let s := if x.h0.held then s.untaint t k 0 else s
      (if x.h1.held then s.untaint t k 1 else s).wake t))

/-- Bytes whose value nothing defines: free values (DESIGN CHOICE, log entry 1). -/
def State.freeFill (s : State) (a n : Nat) : State :=
  { s.wr a ((List.range n).map (fun i => (Config.freeValue (s.freeCount + i)).setWidth 8)) with freeCount := s.freeCount + n }

/-- SQUASH: held halves return to Filling with their bytes undefined; what threads made of them is undone. -/
def execSquash (id : Nat) (s : State) : Out :=
  .next (s.token id (fun k => k == .squash) (fun t k _ p s =>
    let x := s.slot t k
    if x.st ≠ .active ∨ x.d.dir ≠ 3 ∨ !x.peerIs p then s
    else
      let s := s.discardHeld t k
      let s := if x.h0.held then s.freeFill (loftAddr t (x.d.halfOff 0)) x.h0.bytes else s
      (if x.h1.held then s.freeFill (loftAddr t (x.d.halfOff 1)) x.h1.bytes else s).wake t))

/-! ### Instructions (R327 to R329, R332, R336) -/

def winTicket (w : Nat) : Nat := bits w 55 54
def winReg (w : Nat) : Nat := bits w 53 49

/-- An instruction reads a ticket whose state fails parity (R343). -/
def State.ticketParity (s : State) (t thr k : Nat) : Verdict :=
  .own (s.winParity t { ticket := k, off := 0, thr, pc := (s.thread t thr).pc } 4 0)

/-- Queue a job: the width rule first, then the ticket's (R139, R329). -/
def State.winQueue (s : State) (t thr w : Nat) (checker : Bool) : Verdict :=
  let k := winTicket w
  let x := s.ticket t k
  let q := if checker then (s.tile t).win.chkQ else (s.tile t).win.predQ
  if widthFault (s.tileW t) w then .fault 3 0 0
  else if bits w 48 3 ≠ 0 ∨ 4 < aWsel w then illegal
  else if checker && s.isBad (.ticket t k) then s.ticketParity t thr k
  else if (if checker then x.st != .open || x.chkQueued else x.st != .free) then illegal
  else if 4 ≤ q.length then .wait .unit (.retry (if checker then .chkQ else .predQ)) s
  else
    let j : WinJob := { ticket := k, off := (s.g t thr (winReg w)).toNat % 2 ^ 21, thr, pc := (s.thread t thr).pc }
    .done (if checker then
        (s.updTicket t k (fun x => { x with chkQueued := true })).updTile t (fun x => { x with win := { x.win with chkQ := x.win.chkQ ++ [j] } })
      else
        ((s.updTicket t k (fun _ => { st := .open })).clean (.ticket t k)).updTile t
          (fun x => { x with win := { x.win with predQ := x.win.predQ ++ [j] } }))

/-- WPRED. -/
def execWpred (t thr : Nat) (s : State) : Out :=
  .next (s.issueAt t thr 0x60 (fun _ => false) (fun w s => s.winQueue t thr w false))
/-- WCHK. -/
def execWchk (t thr : Nat) (s : State) : Out :=
  .next (s.issueAt t thr 0x61 (fun _ => false) (fun w s => s.winQueue t thr w true))

/-- WTENT: a linked output of halves of at most 16 KiB goes into tentative mode. -/
def execWtent (t thr : Nat) (s : State) : Out :=
  .next (s.issueAt t thr 0x62 (fun _ => false) (fun w s =>
    let k := strSlot w
    let x := s.slot t k
    if bits w 53 41 ≠ 0 ∨ bits w 35 0 ≠ 0 ∨ x.st = .idle ∨ x.d.dir ≠ 2 ∨ 16384 < x.d.halfBytes then illegal
    else if x.ticket.any (fun j => j != winTicket w) then .wait .unit (.retry (.tent k)) s
    else .done (s.updSlot t k (fun x => { x with ticket := some (winTicket w) }))))

/-- The result word of R328. -/
def Ticket.word (x : Ticket) : DWord :=
  BitVec.ofNat 64 (2 ^ 63 + b2n x.fail * 2 ^ 62 + b2n x.ended * 2 ^ 61 + popcount (x.pred &&& ~~~x.chk) * 2 ^ 48
    + popcount x.chk * 2 ^ 32 + popcount x.pred * 2 ^ 16 + popcount x.repair)

/-- WWAIT. DEDUCED: log entry 35. -/
def execWwait (t thr : Nat) (s : State) : Out :=
  .next (s.issueAt t thr 0x63 (fun _ => false) (fun w s =>
    let k := winTicket w
    let x := s.ticket t k
    if bits w 48 33 ≠ 0 ∨ bits w 31 0 ≠ 0 ∨ x.st = .free then illegal
    else if s.isBad (.ticket t k) then s.ticketParity t thr k
    else if strFn w then
      if x.st ≠ .resolved then .wait .unit (.retry (.ticket k true)) s
      else .done ((s.setG t thr (winReg w) x.word).updTicket t k (fun _ => {}))
    else if x.predDone ∨ x.st = .resolved then .done s
    else .wait .unit (.retry (.ticket k false)) s))

/-- WPEEK: 64 elements of the half that SWAITB would take next, held or Ready; a held half taints the thread. -/
def execWpeek (t thr : Nat) (s : State) : Out :=
  .next (s.issueAt t thr 0x64 (fun _ => true) (fun w s =>
    let k := strSlot w
    let x := s.slot t k
    let h := s.thread t thr
    let i := x.takeHalf
    let mt := bits w 35 33
    let o := (s.g t thr (sGa w)).toNat % 2 ^ 21
    let a := x.d.halfOff i + o
    if bits w 45 41 ≠ 0 ∨ bits w 32 0 ≠ 0 ∨ 3 < mt ∨ h.spec = none then illegal
    else if x.d.halfBytes < o + mtBytes mt ∨ a % mtBytes mt ≠ 0 then illegal
    else if !x.peekable then .wait .unit (.retry (.peek k)) s
    else if (x.half i).held ∧ !h.taint.contains (k, i) ∧ 4 ≤ h.taint.length then .wait .unit (.retry .taintFull) s
    else if s.loftBad t a (mtBytes mt) then s.vecParity t thr 3 (a + s.badOff (loftAddr t a) (mtBytes mt))
    else
      let s := s.setV t thr (mReg w) (unpackLanes mt (s.loft t a (mtBytes mt)))
      .done (if (x.half i).held ∧ !h.taint.contains (k, i) then s.updThread t thr (fun h => { h with taint := h.taint ++ [(k, i)] }) else s)))

/-- WSPEC. -/
def execWspec (t thr : Nat) (s : State) : Out :=
  .next (s.issueAt t thr 0x65 (fun _ => false) (fun w s =>
    let h := s.thread t thr
    if bits w 55 40 ≠ 0 ∨ bits w 7 0 ≠ 0 ∨ h.spec ≠ none then illegal
    else .done (s.updThread t thr (fun h => { h with spec := some (h.pc + sImm w * 8) }))))

/-! ### The bound unit (R344 to R346) -/

/-- 24·ln 2, rounded up in W32. -/
def c24 : Nat := 0x41851592

def finite32 (a : Nat) : Bool := match wDecode 24 a with | .zero _ => true | .fin .. => true | _ => false
def finOrNegInf (a : Nat) : Bool := match wDecode 24 a with | .inf neg => neg | .nan _ => false | _ => true
def positive32 (a : Nat) : Bool := match wDecode 24 a with | .fin neg .. => !neg | _ => false

/-- The partial bound of the 64 lanes, in the order of R179. -/
def boundSum (q kmax kmin : List Nat) : Nat :=
  let prod := fun (l : Nat) (k : List Nat) => (wMul 8 (q.getD l 0 % 65536) 8 (k.getD l 0 % 65536) 24 RUP 0).1
  let t := (List.range 64).map (fun l => (wMinMax 24 (prod l kmax) (prod l kmin) true).1)
  let half := fun (t : List Nat) (n : Nat) => (List.range n).map (fun l => (wAdd 24 (t.getD l 0) 24 (t.getD (l + n) 0) 24 RUP 0).1)
  (([32, 16, 8, 4, 2, 1].foldl half t)).getD 0 0

/-- The skip test. -/
def boundSkip (U m S n : Nat) : Bool :=
  finOrNegInf U && finOrNegInf m && finite32 S && positive32 S &&
    (let L := (wSub 24 U 24 m 24 RUP 0).1
     let lnN := lnDir (intToW n 24 RNE 0).1 RUP
     let R := (wSub 24 (wSub 24 (lnDir S RDN) 24 lnN 24 RDN 0).1 24 c24 24 RDN 0).1
     (wCompare 24 2 L R).1)

/-- WBOUND. -/
def execWbound (t thr : Nat) (s : State) : Out :=
  .next (s.issueAt t thr 0x66 (fun _ => true) (fun w s =>
    let gd := bits w 55 51
    let gs := (s.g t thr (bits w 35 31)).toNat
    let test := bitN w 5
    if bits w 4 0 ≠ 0 then illegal
    else
      s.withV t thr [vVa w, vVb w, vVc w] (
        let p := boundSum (s.v t thr (vVa w)) (s.v t thr (vVb w)) (s.v t thr (vVc w))
        let U := if bitN w 6 then (wAdd 24 ((s.g t thr gd).toNat % 2 ^ 32) 24 p 24 RUP 0).1 else p
        let skip := test && boundSkip U (gs % 2 ^ 32) (gs / 2 ^ 32) (bits w 30 7 + 1)
        let s := s.setG t thr gd (BitVec.ofNat 64 (b2n skip * 2 ^ 63 + U))
        .done ((s.winCtr t 0x158 (b2n test)).winCtr t 0x160 (b2n skip)))))

/-- WIN_CLEAR: writing 1 zeroes the counters of R352. -/
def execWinClear (a : Agent) (t : Nat) (s : State) : Out :=
  .next (s.regWrite a (tileBlock t + 0x6010) (fun s => some (s.updTile t (fun x => { x with win := { x.win with ctr := [] } }))))

end Sys2Proof.Machine
end

