-- ==== Sys2Proof/Machine/Tasks.lean ====
section
/-!
DEFINITION. Tasks on a tile (06 R243 to R260): launches, preparation, the task context, thread switches, misses that
return, deadlines, and the report that ends a task.
-/
namespace Sys2Proof.Machine

/-! ### Control messages (R248, R599) -/

/-- A control message at its receiver with bad payload parity: it is sent again from the sender's own copy. A launch that
is damaged twice is given up: its ring gets a report of PARITY_FAULT, unit 6 (R599). -/
def State.controlRetry (s : State) (id : Nat) (p : Packet) : State :=
  let s := if p.resent = 1 then s.report 7 0 p.dst.router 0 0 none none 0 else s
  match p.msg, p.resent with
  | .launch l, n + 1 =>
    let home := tileIo l.ioDie p.dst.router
    let s := s.dropPkt id
    if n = 0 then
      s.sendMsg home home (.report { ioDie := l.ioDie, ring := l.ring, seq := l.seq, code := 5, fUnit := 6 }) l.part 0 l.tenant
    else s
  | _, _ => ((s.dropPkt id).intCtr 0x128 1).inject { p with bad := [], route := 0, copy := 0, resent := p.resent + 1 }

/-- A control message that has reached its endpoint intact. -/
def State.control (s : State) (id : Nat) (go : Packet → State → State) : State :=
  match s.arrived id .control with
  | none => s
  | some p => if p.isBad then s.controlRetry id p else go p s

/-! ### Launches (R247 to R249, R603, R607, R633) -/

/-- Send a completion report of a tile to its ring engine (R257). -/
def State.sendReport (s : State) (t : Nat) (l : Launch) (r : TaskReport) : State :=
  s.sendMsg (tileEnd t) (tileIo l.ioDie t) (.report { r with ioDie := l.ioDie, ring := l.ring, seq := l.seq }) l.part l.epoch l.tenant

/-- A launch that ends before it starts: its report carries the code and start tick 0. DEDUCED: log entry 22. -/
def State.rejectLaunch (s : State) (t : Nat) (l : Launch) (code : Nat) : State :=
  s.sendReport t l { ring := l.ring, seq := l.seq, code }

/-- The tile itself reports a launch that never starts: its end is recorded and counted (R254, R266, R268). Its report's fault
fields are free values (DESIGN CHOICE, log entry 19). -/
def State.endLaunch (s : State) (t : Nat) (l : Launch) (code : Nat) : State :=
  let ((thr, unit, pc, addr), s) := s.endFields code 0 0 0 0
  let s := s.updTile t (fun x => x.recordEnd code thr unit pc addr)
  (s.sendReport t l { ring := l.ring, seq := l.seq, code, fThread := thr, fUnit := unit, fPc := pc.setWidth 16, fAddr := addr }).seqCtrAdd t 0x118 1

/-- The launch names its tile's partition at its current epoch. -/
def State.launchFresh (s : State) (t : Nat) (l : Launch) : Bool :=
  s.partOfTile t == some l.part && s.partEpoch l.part == l.epoch

/-- LAUNCH: a launch message reaches its tile. DEDUCED: log entry 23. -/
def execLaunch (id : Nat) (s : State) : Out :=
  .next (s.control id (fun p s =>
    match p.msg with
    | .launch l =>
      let t := p.dst.router
      if (s.ctl t).inReset then ((s.dropPkt id).rejectLaunch t l 0x0D).intCtr 0x130 1
      else if !s.tileOpen t then (s.dropPkt id).rejectLaunch t l 6
      else if !s.launchFresh t l then ((s.dropPkt id).endLaunch t l 0x0C).intCtr 0x138 1
      else if 4 ≤ (s.tile t).queue.length then s
      else (s.dropPkt id).updTile t (fun x => { x with queue := x.queue ++ [l] })
    | _ => s))

/-! ### Starting (R59, R249, R250 step 1, R253, R259, R677) -/

/-- The guard-start edge of a tick has passed. -/
def State.pastGuard (s : State) (n : DWord) : Bool :=
  decide (n.toNat < s.tick.count.toNat) || (s.tick.count == n && s.tick.inGuard)

/-- The tick state permits the launch of Hard work (R59). -/
def State.hardMayStart (s : State) : Bool :=
  match s.tick.state with
  | .off | .acquiring | .freeRun => false
  | _ => true

/-- Under Abort: Hard discipline with miss action 0. -/
def State.aborts (s : State) (p : Nat) : Bool := (s.tickCfg p).hard && !(s.tickCfg p).finish

/-- Parity places of a tile's own state that a task start rewrites. -/
def Place.ofTask (t : Nat) : Place → Bool
  | .vreg a .. => a == t
  | .sum a _ => a == t
  | .book a _ => a == t
  | .gen a _ => a == t
  | .topk a _ => a == t
  | .mvSum a _ => a == t
  | .ticket a _ => a == t
  | .greg a _ => a == t
  | _ => false

/-- Event counters at a task start: settings take effect, and per-task counters are zeroed (R677). -/
def EvCtr.startTask (c : EvCtr) : EvCtr :=
  { c with mode := c.newMode, source := c.newSource, value := if c.newMode = 2 then 0 else c.value }

/-- Event counters at a report: per-task values are copied (R677). -/
def EvTile.endTask (e : EvTile) (seq : Nat) : EvTile :=
  { e with cs := e.cs.map (fun c => (c.1, if c.2.mode = 2 then { c.2 with last := c.2.value } else c.2)),
           lastSeq := BitVec.ofNat 32 seq }

def State.updEv (s : State) (t : Nat) (f : EvTile → EvTile) : State :=
  s.updHealth (fun h => { h with ev := smUpd h.ev t {} f })

/-- SEQ_TASK (R265). -/
def Launch.word (l : Launch) : DWord :=
  BitVec.ofNat 64 (l.ioDie * 2 ^ 62 + l.ring * 2 ^ 49 + l.part * 2 ^ 43 + l.tenant * 2 ^ 32 + l.seq % 2 ^ 32)

/-- A tile with the task state of a task that has just started (R129, R205, R253, R269). -/
def Tile.begin (x : Tile) (k : Task) : Tile :=
  { x with
    threads := [], sems := [], semOrder := [], queue := x.queue.drop 1, task := some k, seqTask := k.launch.word,
    lastActive := 8, flags := 0, hist := [], sums := [], book := [], arrQ := [], arrRun := [], gens := [], topk := {},
    rep := none, mvpQ := [], mvpRun := [], str := x.str.idled, win := { x.win with
      tickets := [], predQ := [], chkQ := [], predRun := none, chkRun := none } }

/-- A different tenant's task finds loft, near memory and program region zeroed, SEQ_PROG_TAG 0 and no cached leaf
(R250 step 1, R306). -/
def State.changeTenant (s : State) (t tenant : Nat) : State :=
  let s :=
    if (s.tile t).prevTenant.any (fun p => p != tenant) then
      (((s.zeroMem (loftAddr t 0) loftBytes).zeroMem (nearAddr t 0) 0x20000).zeroMem (instAddr t 0x2000) 0xE000).updTile t
        (fun x => { x with progTag := 0, str := { x.str with tlb := [] } })
    else s
  s.updTile t (fun x => { x with prevTenant := some tenant })

/-- TASK_START: the head launch starts once nothing runs on the tile, its start tick has come, and for a Hard partition the
tick state and the barrier allow. -/
def execTaskStart (t : Nat) (s : State) : Out :=
  .next (
    let x := s.tile t
    match x.queue with
    | [] => s
    | l :: _ =>
      let hard := (s.tickCfg l.part).hard
      if x.active || x.firmware || (s.ctl t).power != .awake then s
      else if decide (s.tick.count.toNat < l.start.toNat) then s
      else if hard && (!s.hardMayStart || s.tileHeld t) then s
      else if !s.launchFresh t l then
        ((s.updTile t (fun x => { x with queue := x.queue.drop 1 })).endLaunch t l 0x0C).intCtr 0x138 1
      else
        let late := s.pastGuard l.deadline
        let edges := if late then min 255 (s.tick.edgesSince l.deadline.toNat) else 0
        let home := tileIo l.ioDie t
        let s := if late then s.sendMsg (tileEnd t) home (.miss l.ring l.seq l.part) l.part l.epoch l.tenant else s
        if late && s.aborts l.part then
          (s.updTile t (fun x => { x with queue := x.queue.drop 1 })).endLaunch t l 1
        else
          let s := s.sendMsg (tileEnd t) home (.startReport l.ring l.seq) l.part l.epoch l.tenant
          let s := s.updTile t (fun x => x.begin { launch := l, missed := late, epoch := l.epoch, lateEdges := edges })
          let s := { s with bad := s.bad.filter (fun p => !p.ofTask t) }
          let s := s.updEv t (fun e => { e with cs := e.cs.map (fun c => (c.1, c.2.startTask)) })
          s.changeTenant t l.tenant)

/-! ### The task context (R251 to R253, R258) -/

def ctxMagic : Nat := 0x31585443
def ctxBytes : Nat := 6400

def AddrGen.word0 (a : AddrGen) : Nat :=
  a.base.toNat + a.stride.toNat * 2 ^ 21 + b2n a.mode * 2 ^ 42 + a.n.toNat * 2 ^ 43 + a.shift.toNat * 2 ^ 48 + a.fw.toNat * 2 ^ 53
def AddrGen.word1 (a : AddrGen) : Nat := a.idx.toNat + a.inc.toNat * 2 ^ 24
def AddrGen.ofWords (w0 w1 : Nat) : AddrGen :=
  { base := BitVec.ofNat 21 w0, stride := BitVec.ofNat 21 (bits w0 41 21), mode := bitN w0 42, n := BitVec.ofNat 5 (bits w0 47 43),
    shift := BitVec.ofNat 5 (bits w0 52 48), fw := BitVec.ofNat 5 (bits w0 57 53), idx := BitVec.ofNat 24 w1, inc := BitVec.ofNat 24 (bits w1 47 24) }

/-- A generator's 32 bytes. -/
def Gen.bytes (g : Gen) : List Byte :=
  leBytes 8 g.key.toNat ++ leBytes 16 g.ctr.toNat ++ leBytes 1 (g.owner.getD 255) ++ leBytes 7 0
def Gen.ofBytes (b : List Byte) : Gen :=
  { key := BitVec.ofNat 64 (field b 0 8), ctr := BitVec.ofNat 128 (field b 8 16),
    owner := if field b 24 1 < 8 then some (field b 24 1) else none }

/-- A thread's 512 bytes. -/
def Thread.block (h : Thread) : List Byte :=
  leBytes 8 h.pc.toNat ++ leBytes 1 (h.p.toNat / 2 * 2) ++ leBytes 119 0
    ++ (List.range 8).flatMap (fun a => leBytes 8 (smGetD h.ag a {}).word0 ++ leBytes 8 (smGetD h.ag a {}).word1)
    ++ (List.range 32).flatMap (fun r => leBytes 8 (h.reg r).toNat)
/-- A Ready thread from its block. -/
def Thread.ofBlock (b : List Byte) : Thread :=
  { st := .ready, pc := BitVec.ofNat 64 (field b 0 8), p := BitVec.ofNat 8 (field b 8 1 / 2 * 2),
    ag := (List.range 8).map (fun a => (a, AddrGen.ofWords (field b (0x80 + 16 * a) 8) (field b (0x88 + 16 * a) 8))),
    g := (List.range 32).map (fun r => (r, BitVec.ofNat 64 (field b (0x100 + 8 * r) 8))) }

/-- A part that reads back bad is written as zero (R258). -/
def goodPart (bad : Bool) (bs : List Byte) : List Byte := if bad then List.replicate bs.length 0 else bs

/-- Some part of the state that the context holds fails parity. -/
def State.ctxParity (s : State) (t : Nat) : Bool :=
  s.bad.any (fun p => match p with
    | .gen a _ => a == t
    | .book a _ => a == t
    | .greg a _ => a == t
    | _ => false)

/-- The 6,400 bytes of the context that tile t saves. -/
def State.ctxSave (s : State) (t : Nat) (k : Task) : List Byte :=
  let x := s.tile t
  let book := fun (slot e : Nat) => leBytes 2 (x.book.foldl (fun v p => if p.1 = slot * 256 + e then p.2.toNat else v) 0)
  let slotBad := fun (slot : Nat) => s.bad.any (fun p => match p with | .book a e => a == t && e / 256 == slot | _ => false)
  leBytes 4 ctxMagic ++ leBytes 1 (b2n (!s.ctxParity t)) ++ leBytes 1 k.code ++ leBytes 1 k.launch.mask.toNat ++ leBytes 1 0
    ++ leBytes 1 x.flags.toNat ++ leBytes 55 0
    ++ (List.range 4).flatMap (fun g => goodPart (s.isBad (.gen t g)) (smGetD x.gens g {}).bytes)
    ++ (List.range 16).flatMap (fun n => leBytes 2 (smGetD x.sems n 0)) ++ leBytes 32 0
    ++ (List.range 68).flatMap (fun b => leBytes 4 (smGetD x.hist b 0).toNat) ++ leBytes 496 0
    ++ (List.range 8).flatMap (fun h => goodPart (s.isBad (.greg t h)) (x.th h).block)
    ++ (List.range 8).flatMap (fun c => goodPart (slotBad c) ((List.range 16).flatMap (book c)))
    ++ (List.range 2).flatMap (fun c => goodPart (slotBad (8 + c)) ((List.range 256).flatMap (book (8 + c))))

/-- A list of SMap entries by index. -/
def indexed {α : Type} (l : List α) : SMap α := l.zipIdx.map (fun e => (e.2, e.1))

/-- Free bytes, eight to a free value (log entry 1). -/
def State.freeBytes (s : State) (n : Nat) : List Byte × State :=
  ((List.range n).flatMap (fun i => leBytes 8 (Config.freeValue (s.freeCount + i)).toNat), { s with freeCount := s.freeCount + n })

/-- The tile with the state that a loaded context gives it (R253). Threads outside the mask are Off, and what their pc, generators and
general registers hold is not said: `open_` supplies their blocks (DESIGN CHOICE, log entry 141). -/
def Tile.ctxLoad (x : Tile) (l : Launch) (b open_ : List Byte) : Tile :=
  { x with
    gens := indexed ((List.range 4).map (fun g => Gen.ofBytes (slice b (0x40 + 32 * g) 32)))
    sems := indexed ((List.range 16).map (fun n => field b (0xC0 + 2 * n) 2))
    flags := if l.keep then BitVec.ofNat 7 (field b 8 1) else 0
    hist := if l.keep then indexed ((List.range 68).map (fun n => BitVec.ofNat 32 (field b (0x100 + 4 * n) 4))) else []
    threads := (List.range 8).map (fun k => (k,
      if l.mask.getLsbD k then Thread.ofBlock (slice b (0x400 + 0x200 * k) 512)
      else { Thread.ofBlock (slice open_ (0x200 * k) 512) with st := .off, p := 0 }))
    book := (List.range 8).flatMap (fun c => (List.range 16).map (fun e => (c * 256 + e, BitVec.ofNat 16 (field b (0x1400 + 32 * c + 2 * e) 2))))
      ++ (List.range 2).flatMap (fun c => (List.range 256).map (fun e => ((8 + c) * 256 + e, BitVec.ofNat 16 (field b (0x1500 + 512 * c + 2 * e) 2)))) }

/-- Threads of a task that loads no context: every one has its registers, and those of the mask are Ready (R253). -/
def Launch.threads (l : Launch) : SMap Thread :=
  (List.range 8).map (fun k =>
    (k, { st := if l.mask.getLsbD k then .ready else .off, pc := l.entry.setWidth 64, g := indexed (BitVec.ofNat 64 k :: l.args.take 4) }))

/-- The context that a launch loads: from the tile's loft, or from tenant memory; none if its read fails (R250 step 3). -/
def State.ctxRead (s : State) (t : Nat) (l : Launch) (away : Option (List Byte)) : Option (List Byte) × State :=
  if l.ctxVa then
    match s.fetchVa l.ioDie l.tenant l.ctxAddr ctxBytes away with
    | (.ok b, s) => (some b, s)
    | (_, s) => (none, s)
  else if loftBytes < l.ctxAddr.toNat + ctxBytes then (none, s)
  else if s.loftBad t l.ctxAddr.toNat ctxBytes then
    (none, s.tileReport 1 t (loftAddr t (l.ctxAddr.toNat + s.badOff (loftAddr t l.ctxAddr.toNat) ctxBytes)) 0)
  else (some (s.loft t l.ctxAddr.toNat ctxBytes), s)

/-- Change the running task. -/
def State.updTask (s : State) (t : Nat) (f : Task → Task) : State := s.updTile t (fun x => { x with task := x.task.map f })

/-- Steps 3 and 4 of R250. -/
def State.prepared (s : State) (t : Nat) (l : Launch) (ctx : Option (List Byte)) : State :=
  if l.load then
    match s.ctxRead t l ctx with
    | (none, s) => s.endTask t 0x0A 0 7 0 l.ctxAddr
    | (some b, s) =>
      if field b 0 4 ≠ ctxMagic ∨ field b 4 1 = 0 then s.endTask t 0x0A 0 7 0 l.ctxAddr
      else
        let (o, s) := s.freeBytes 512
        (s.updTile t (fun x => x.ctxLoad l b o)).updTask t (fun k => { k with phase := .running, loaded := true })
  else (s.updTile t (fun x => { x with threads := l.threads })).updTask t (fun k => { k with phase := .running, loaded := true })

/-- TASK_PREPARED: the program is there, the context is loaded and the threads are Ready. `prog` and `ctx` supply what of
them lies in another module's memory, none if that could not be read. -/
def execTaskPrepared (t : Nat) (prog ctx : Option (List Byte)) (s : State) : Out :=
  .next (
    match (s.tile t).task with
    | none => s
    | some k =>
      let l := k.launch
      if k.phase ≠ .preparing then s
      else if l.progTag = 0 ∨ l.progTag ≠ (s.tile t).progTag then
        match s.fetchVa l.ioDie l.tenant l.progAddr l.progLen prog with
        | (.ok b, s) =>
          ((s.wr (instAddr t 0x2000) (b.take 0xE000)).updTile t (fun x => { x with progTag := l.progTag })).prepared t l ctx
        | (.failed off, s) => s.endTask t 0x0B 0 7 0 (l.progAddr + BitVec.ofNat 64 off)
        | (.untranslated off, s) => s.endTask t 0x0B 0 7 0 (l.progAddr + BitVec.ofNat 64 off)
      else s.prepared t l ctx)

/-! ### Running (R236, R237, R244, R259, R596) -/

/-- THREAD_SWITCH: the sequencer makes the next Ready thread Active, in ascending order from the current one. `idle` adds to
SEQ_NO_READY: the cycles in which no thread was Ready or Active. DESIGN CHOICE: log entry 25. -/
def execThreadSwitch (t idle : Nat) (s : State) : Out :=
  .next (
    let x := s.tile t
    match x.task with
    | none => s
    | some k =>
      if k.phase ≠ .running ∨ x.rep.isSome then s
      else
        let s := s.seqCtrAdd t 0x110 idle
        let first := if x.lastActive < 8 then x.lastActive + 1 else 0
        match ((List.range 8).map (fun i => (first + i) % 8)).find? (fun i => (x.th i).st == .ready) with
        | none => s
        | some i =>
          let s := s.updTile t (fun x => { x with
            threads := x.threads.map (fun e =>
              if e.1 = i then (e.1, { e.2 with st := .active })
              else if e.2.st = .active then (e.1, { e.2 with st := .ready }) else e),
            lastActive := i })
          if x.lastActive < 8 then s.seqCtrAdd t 0x108 1 else s)

/-- MISS_RETURN: the answer of a load or value-returning atomic goes to its thread, or ends the task. -/
def execMissReturn (t thr : Nat) (s : State) : Out :=
  .next (
    let h := s.thread t thr
    match h.miss with
    | none => s
    | some m =>
      match m.ans with
      | none => s
      | some (st, data, damaged) =>
        if h.st ≠ .miss then s
        else if st ≠ .ok then
          s.faultEnd t 6 thr 6 m.pc m.addr
        else if damaged then s.faultEnd t 5 thr 6 m.pc m.addr
        else
          (s.updThread t thr (fun h => { h with
            st := (s.tile t).readySt, wait := .none, miss := none,
            g := smSet h.g m.gd (BitVec.ofInt 64 (bitsInt m.sext (8 * m.size) (ofLe (data.take m.size)))) })).wake t)

/-- DEADLINE_EDGE: a task that still runs at the guard-start edge of its deadline tick misses: a miss notice, and under
Abort its end (R259, R260). DEDUCED: log entry 61. -/
def execDeadlineEdge (t : Nat) (s : State) : Out :=
  .next (
    match (s.tile t).task with
    | none => s
    | some k =>
      let l := k.launch
      if k.phase = .ending ∨ k.missed ∨ !s.pastGuard l.deadline then s
      else
        let s := s.updTask t (fun k => { k with missed := true, lateEdges := min 255 (s.tick.edgesSince l.deadline.toNat) })
        let s := s.sendMsg (tileEnd t) (tileIo l.ioDie t) (.miss l.ring l.seq l.part) l.part l.epoch l.tenant
        if s.aborts l.part then s.endTask t 1 0 0 0 0 else s)

/-- FIRMWARE_ENTRY: Granger requests a maintenance action in a guard window; firmware runs from 0x0040 on thread 0 (R262). -/
def execFirmwareEntry (t : Nat) (s : State) : Out :=
  .next (
    let x := s.tile t
    if !s.tick.inGuard || !s.bup.grangerUp || x.active || x.firmware || (s.ctl t).power != .awake then s
    else s.updTile t (fun x => { x.updTh 0 (fun h => { h with st := .firmware, pc := 0x40, wait := .none, miss := none }) with firmware := true }))

/-! ### The report (R256 to R258, R310 to R312, R341) -/

/-- The dirty-extent entry of an output slot (R312). -/
def Slot.extent (x : Slot) (k : Nat) (fault : Bool) : List (BitVec 256) :=
  if x.d.dir = 1 ∧ 0 < x.nextReq ∧ (x.nextReq < x.d.total ∨ x.refused) then
    [BitVec.ofNat 256 (k + (b2n x.d.persistent + 2 * b2n x.refused + 4 * b2n fault) * 2 ^ 8 + x.d.sid.toNat * 2 ^ 16
      + x.use.toNat * 2 ^ 32 + x.nextReq * 2 ^ 64 + x.vaLo.toNat * 2 ^ 128 + x.vaHi.toNat * 2 ^ 192)]
  else []

/-- Every unit has finished with a task that ended OK (R256, R341). -/
def Tile.settled (x : Tile) : Bool :=
  x.arrQ.isEmpty && x.arrRun.isEmpty && x.mvpQ.isEmpty && x.mvpRun.isEmpty
    && !x.str.slots.any (fun e => e.2.draining)
    && x.win.predQ.isEmpty && x.win.chkQ.isEmpty && x.win.predRun.isNone && x.win.chkRun.isNone

/-- Accesses whose acknowledgement a task's end waits for (R257): its writes, atomics and linked halves. -/
def Access.ofTaskWrites (a : Access) : Bool := a.req.op != .read

/-- The tile may save the context and report. -/
def State.mayReport (s : State) (t : Nat) (k : Task) : Bool :=
  let x := s.tile t
  x.rep.isNone && !(s.accessesOf (.tile t)).any Access.ofTaskWrites
    && (if k.code = 0 then x.settled else k.tokensSent)

/-- The context is saved for this end (R258). -/
def Task.saves (k : Task) : Bool := k.launch.save && k.loaded && k.code != 0x0C && k.code != 0x0D

/-- Write the context to tenant memory in 256-byte blocks, each an access of the tile (R257). -/
def State.ctxWrites (s : State) (t : Nat) (l : Launch) : Nat → Nat → List Byte → State
  | 0, _, _ => s
  | fuel + 1, off, bs =>
    if bs.isEmpty then s
    else
      let va := l.ctxAddr + BitVec.ofNat 64 off
      let n := blockLen va.toNat bs.length
      match s.translate l.ioDie l.tenant va needWrite with
      | (none, s) => s.updTask t (fun k => { k with ctxFail := true })
      | (some g, s) =>
        match s.tileReq t .write g n (bs.take n) with
        | none => s.updTask t (fun k => { k with ctxFail := true })
        | some (p, r) =>
          let s := ((s.portIdle t).chargeClass t .write n r.isSome).issue (s.mkAccess (.tile t) ((s.freeTag (.tile t)).getD 0) .ctx p r)
          s.ctxWrites t l fuel (off + n) (bs.drop n)

/-- Begin the context save. -/
def State.saveCtx (s : State) (t : Nat) (k : Task) : State :=
  let bs := s.ctxSave t k
  let l := k.launch
  let s := if s.ctxParity t then s.tileReport 1 t 0 0 else s
  if l.ctxVa then (s.updTask t (fun k => { k with ctxPhase := 1 })).ctxWrites t l 30 0 bs
  else if loftBytes < l.ctxAddr.toNat + ctxBytes then s.updTask t (fun k => { k with ctxPhase := 1, ctxFail := true })
  else (s.loftWr t l.ctxAddr.toNat bs).updTask t (fun k => { k with ctxPhase := 1 })

/-- Tokens of links at the end of a task that ended OK: END from producers, CLOSE from consumers (R293). DEDUCED: log entry 28. -/
def State.closeLinks (s : State) (t : Nat) : State :=
  (List.range 32).foldl (fun s k =>
    let x := s.slot t k
    if x.st ≠ .active then s
    else if x.d.dir = 2 then s.sendToken t k .fin
    else if x.d.dir = 3 then (s.dropHeld t k).sendToken t k .close else s) s

/-- Send the completion report; the tile accepts its next task. -/
def State.reportTask (s : State) (t : Nat) (k : Task) : State :=
  let x := s.tile t
  let s := if k.code = 0 then s.closeLinks t else s
  let s := s.strCtr t 0x118 (x.str.slots.foldl (fun n e => n + e.2.begunHalves) 0)
  let l := k.launch
  let s := s.sendReport t l {
    ring := l.ring, seq := l.seq, code := k.code, second := k.second || k.ctxFail, flags := x.flags,
    late := k.missed && k.code != 1, lateCount := k.lateEdges, fThread := k.fThread, fUnit := k.fUnit, fPc := k.fPc,
    fAddr := k.fAddr, origin := k.origin, originCode := k.originCode, startTick := l.start,
    ctxSaved := k.ctxPhase != 0 && !k.ctxFail,
    extents := (List.range 32).flatMap (fun i => (x.slot i).extent i (k.faultSlot == some i)) }
  let s := s.updEv t (fun e => e.endTask l.seq)
  let s := { s with accesses := s.accesses.map (fun (a : Access) => if a.issuer = Issuer.tile t then { a with dropped := true } else a) }
  let s := s.seqCtrAdd t 0x118 1
  s.updTile t (fun x => { x with
    task := none, threads := x.threads.map (fun e => (e.1, { e.2 with st := .off, wait := .none, miss := none, spec := none, taint := [], specFlags := 0, redirect := false })),
    str := x.str.idled })

/-- Every drained write of a task that a reset killed is acknowledged or refused (R633). -/
def State.drained633 (s : State) (k : Killed) : Bool :=
  !(s.accessesOf (.tile k.tile)).any (fun a => a.ofTaskWrites && a.epoch == k.epoch)

/-- The oldest killed task of a tile for which p holds. -/
def State.killedOf (s : State) (t : Nat) (p : Killed → Bool) : Option Killed := s.bup.killed.find? (fun k => k.tile == t && p k)

/-- The report of a task that a reset killed: flags 0, no context, no extents (R633). -/
def State.reportKilled (s : State) (k : Killed) : State :=
  let l := k.launch
  let s := s.updBup (fun b => { b with killed := b.killed.erase k })
  let ((thr, unit, pc, addr), s) := s.endFields 0x0D 0 0 0 0
  ((s.sendReport k.tile l {
    ring := l.ring, seq := l.seq, code := 0x0D, startTick := l.start, fThread := thr, fUnit := unit, fPc := pc.setWidth 16, fAddr := addr }).seqCtrAdd
    k.tile 0x118 1).updEv k.tile (fun e => e.endTask l.seq)

/-- The report of the task that a tile runs. -/
def State.taskReport (s : State) (t : Nat) : State :=
    match (s.tile t).task with
    | none => s
    | some k =>
      if k.phase = .ending ∧ k.code = 0 ∧ s.openTickets t then s.endTickets t
      else if k.phase ≠ .ending ∨ !s.mayReport t k then s
      else if k.saves && k.ctxPhase == 0 then
        let s := s.saveCtx t k
        match (s.tile t).task with
        | some k => if (s.accessesOf (.tile t)).any Access.ofTaskWrites then s else s.reportTask t k
        | none => s
      else s.reportTask t k

/-- TASK_REPORT: once every write of an ended task is acknowledged, the tile saves the context and sends the report. A task that
a reset killed is reported first. -/
def execTaskReport (t : Nat) (s : State) : Out :=
  .next (match s.killedOf t s.drained633 with | some k => s.reportKilled k | none => s.taskReport t)

end Sys2Proof.Machine
end

