-- ==== Sys2Proof/Machine/Net.lean ====
section
/-!
DEFINITION. The meanings of the torus's commands (09 R353 to R388, 15 R590 to R607): requests at their endpoints, answers
at their issuers, packets forwarded, and the Gleaner probes.
-/
namespace Sys2Proof.Machine

/-! ### Requests at a tile interface (R34, R38, R39, R375, R592, R593, R603, R607, R657) -/

/-- What a tile interface answers before it looks at the bytes: absorbed in a reset, absent, or stale. -/
def State.tileRefuses (s : State) (t : Nat) (p : Packet) : Option Status :=
  if (s.ctl t).inReset then some .absorbed
  else if !s.tileOpen t then some .absent
  else if s.checkedKind p.issuer p.op p.dst && (match s.partOfTile t with | some q => s.partEpoch q != p.epoch | none => true) then
    some .epochStale
  else none

/-- Answer with a refusal; interfaces count what they absorb and what is stale (R610). -/
def State.tileNack (s : State) (id : Nat) (p : Packet) (st : Status) : State :=
  let s := match st with
    | .absorbed => s.updInt (fun x => { x with sumAbsorbed := x.sumAbsorbed + 1 })
    | .epochStale => s.updInt (fun x => { x with sumStale := x.sumStale + 1 })
    | _ => s
  s.nack id p st

/-- Canonical address of a range that a tile serves now: its loft at any time, near memory and the instruction store while
it runs no task. -/
def State.tileRange (s : State) (t a n : Nat) : Option Nat :=
  match s.reach a n with
  | .loft t' off => if t' = t then some (loftAddr t off) else none
  | .near t' off => if t' = t ∧ !s.taskActive t then some (tileBase t + nearOff + off) else none
  | .inst t' off => if t' = t ∧ !s.taskActive t then some (instAddr t off) else none
  | _ => none

/-- A tile interface serves a read, write or atomic. A request that reaches it while firmware runs a slice waits. -/
def State.tileServe (s : State) (id : Nat) (p : Packet) (t : Nat) : State :=
  match s.tileRefuses t p with
  | some st => s.tileNack id p st
  | none =>
    if (s.tile t).firmware then s
    else if p.op ≠ .read ∧ p.isBad then s.refuseBad id p 0 t
    else
      match s.tileRange t (gLocal p.addr) p.size with
      | none => s.nack id p .busError
      | some a =>
        let lost := fun (s : State) => (s.tileReport 1 t (gLocal p.addr) (s.badOff a p.size)).nack id p .busError
        match p.op with
        | .read => if s.badMem a p.size then lost s else (s.dropPkt id).respond p .readRsp .ok (s.rd a p.size)
        | .write => ((s.dropPkt id).wr a (p.data.take p.size)).respond p .writeAck .ok []
        | _ =>
          if !atomicOk p.aop p.size a then s.nack id p .busError
          else if s.badMem a p.size then lost s
          else
            let old := s.rd a p.size
            ((s.dropPkt id).wr a (leBytes p.size (atomicNew p.aop p.size (ofLe old) p.operand.toNat p.compare.toNat))).respond
              p .atomicRsp .ok (if p.ret then old else [])

/-! ### Requests at the other endpoints (R40, R364, R377, R392, R560) -/

/-- The design of a region answers at its windows: a running region that is not held. -/
def State.regionOpen (s : State) (r : Nat) : Bool := (s.region r).st == .running && !(s.region r).stopped

/-- A logic port presents an inbound request to its design; at most 64 are outstanding, and a number is not used again while a late answer
under it may still come. -/
def State.lportServe (s : State) (id : Nat) (p : Packet) (n : Nat) : State :=
  if !s.regionOpen (lportRegion n) then (s.lgcCtr (n / 96) 0x110 1).nack id p .busError
  else if p.op ≠ .read ∧ p.isBad then s.refuseBad id p 2 n
  else
    let x := s.lport n
    let used := x.inbound.map (·.itag) ++ x.late
    match (List.range 64).find? (fun k => !used.contains k) with
    | none => s
    | some itag => (s.dropPkt id).updLport n (fun x => { x with inbound := x.inbound ++ [⟨itag, p⟩] })

/-- No request has reached the same port before it and is still there (R392). -/
def State.firstAtPort (s : State) (p : Packet) : Bool :=
  !s.net.pkts.any (fun e => e.2.out && decide (e.2.ord < p.ord) && e.2.dst == p.dst && e.2.op.cls == 0)

/-- A request at its endpoint. -/
def State.serveRequest (s : State) (id : Nat) (op : PktOp) : State :=
  match s.arrived id op with
  | none => s
  | some p =>
    match p.msg with
    | .none =>
      match ifaceAt p.dst with
      | .tile t => s.tileServe id p t
      | .lport n => s.lportServe id p n
      | .mem k _ =>
        if !s.firstAtPort p then s
        else
        match s.target (gLocal p.addr) with
        | .stack j off => if j = k then s.grnTake id p k off else s.nack id p .busError
        | _ => s.nack id p .busError
      | .io d _ => s.leave id p d
      | _ => s.nack id p .busError
    | _ => s

/-- READ: a read request reaches its endpoint. -/
def execRead (id : Nat) (s : State) : Out := .next (s.serveRequest id .read)

/-- WRITE. -/
def execWrite (id : Nat) (s : State) : Out := .next (s.serveRequest id .write)

/-- ATOMIC. -/
def execAtomic (id : Nat) (s : State) : Out := .next (s.serveRequest id .atomic)

/-- MCAST_WRITE: a torus multicast reaches one tile of its rectangle (R373). -/
def execMcastWrite (id : Nat) (s : State) : Out :=
  .next (
    match s.arrived id .mcastWrite with
    | none => s
    | some p =>
      let t := p.dst.router
      let off := gLocal p.addr
      if (s.ctl t).inReset then s.tileNack id p .absorbed
      else if !s.tileOpen t then s.tileNack id p .absent
      else if (s.tile t).firmware then s
      else if s.partOfTile t ≠ some p.part ∨ (s.partRec p.part).tenant ≠ some p.tenant then s.nack id p .busError
      else if s.partEpoch p.part ≠ p.epoch then s.tileNack id p .epochStale
      else if p.isBad then s.refuseBad id p 0 t
      else if loftBytes < off + p.size then s.nack id p .busError
      else ((s.dropPkt id).loftWr t off (p.data.take p.size)).respond p .mcastAck .ok [])

/-! ### Answers at their issuer (R236, R237, R367, R369, R377, R441, R443, R594 to R596, R605) -/

/-- A fence of a logic port is met (R239, R558). -/
def State.fenceMet (s : State) (n : Nat) (f : Nat × Bool × Bool) : Bool :=
  let mine := s.accessesOf (.lport n)
  !(f.2.1 && (mine.any (fun a => a.req.op.ordered)
    || s.fab.copies.any (fun c => c.lport.any (fun l => l.1 == n)) || s.fab.mcasts.any (fun m => m.lport.any (fun l => l.1 == n))))
  && !(f.2.2 && mine.any (fun a => a.req.op == .read || (a.req.op == .atomic && a.req.ret)))

/-- Fences of a logic port that are met are answered, in order. -/
def State.lportFences (s : State) (n : Nat) : Nat → State
  | 0 => s
  | k + 1 =>
    match (s.lport n).fences with
    | [] => s
    | f :: rest =>
      if s.fenceMet n f then ((s.updLport n (fun p => { p with fences := rest })).orsp n f.1 .ok []).lportFences n k else s

/-- An error report of an issuer. -/
def State.issuerReport (s : State) (i : Issuer) (kind addr detail : Nat) (p : Packet) : State :=
  match i with
  | .tile t => s.tileReport kind t addr detail
  | .lport n => s.report kind 2 n addr detail (some p.tenant) (s.issuerPart i) ((s.issuerPart i).map s.partEpoch |>.getD 0)
  | .engine d => s.report kind 4 d addr detail (some p.tenant) none 0
  | .home d _ => s.report kind 4 d addr detail (some p.tenant) none 0
  | .gleaner c => s.report kind 1 (clusterFirst c) addr detail none none 0

/-- What reaches a tile or logic port: UNREACHABLE is a bus error (R443). DEDUCED: log entry 50. -/
def Status.atUser : Status → Status
  | .unreachable => .busError
  | s => s

/-- An access ends: its tag is free, held packets may leave, and the answer goes where the access's purpose sends it. -/
def State.complete (s : State) (a : Access) (st : Status) (bad : List Nat) (data : List Byte) : State :=
  let damaged := !bad.isEmpty
  let s := s.retire a.issuer a.tag
  match a.issuer with
  | .tile t =>
    let s : State :=
      match a.purpose with
      | .miss thr =>
        if a.dropped then s
        else s.updThread t thr (fun (h : Thread) => { h with miss := h.miss.map (fun (m : Miss) => { m with ans := some (st, data, damaged) }) })
      | .store thr pc va =>
        if a.dropped ∨ st = Status.ok then s
        else s.faultEnd t 6 thr 6 pc va
      | .streamRd .. => s.streamData t a st bad data
      | .streamWr .. => s.streamAck t a st
      | .linkHalf .. => s.streamAck t a st
      | .ctx => if st = Status.ok ∨ a.dropped then s else s.updTask t (fun (k : Task) => { k with ctxFail := true })
      | _ => s
    s.wake t
  | .lport n =>
    let s : State :=
      match a.purpose with
      | .oreq dtag => s.orsp n dtag (if damaged then Status.busError else st.atUser) (if st = Status.ok ∧ !damaged then data else [])
      | .mcastLocal k =>
        (s.updMcast k (fun (m : Mcast) => if st = Status.ok then { m with localDue := false, count := m.count + 1 }
          else { m with localDue := false, mask := setBit m.mask 32 true })).mcastAdvance k
      | _ => s
    s.lportFences n 256
  | .engine _ =>
    match a.purpose with
    | .copyWr k off => (if st = Status.ok then s else s.updCopy k (fun (c : Copy) => c.fail off st.endCode)).copyEnd k
    | .copyRd k off =>
      (s.updCopy k (fun (c : Copy) => if st = Status.ok ∧ !damaged then { c with ready := c.ready ++ [(off, slice data 0 a.req.size)] }
        else c.fail off (if st = Status.ok then BUS_ERROR else st.endCode))).copyEnd k
    | .mcastLocal k =>
      (s.updMcast k (fun (m : Mcast) => if st = Status.ok then { m with localDue := false, count := m.count + 1 }
        else { m with localDue := false, mask := setBit m.mask 32 true })).mcastAdvance k
    | _ => s
  | .home d _ =>
    match a.purpose with
    | .flow k seq inc tag => s.flowAnswer k seq inc tag (if a.req.op = .atomic then .atomicRsp else .writeAck) st data damaged
    | .remoteRead src die tag =>
      s.sendFrame d { op := .readRsp, dst := src, srcDie := die, tag, status := st, data, size := data.length, damaged }
    | .mcastLocal k =>
      (s.updMcast k (fun (m : Mcast) => if st = Status.ok then { m with localDue := false, count := m.count + 1 }
        else { m with localDue := false, pruned := true })).mcastAdvance k
    | _ => s
  | .gleaner _ => s

/-- The issuer's unit is in a reset, or its epoch has changed since the tag was taken (R605). -/
def State.lateAnswer (s : State) (a : Access) : Bool :=
  a.epoch != s.tagEpoch a.issuer || (match a.issuer with | .tile t => (s.ctl t).inReset | _ => false)

/-- An answer at its issuer: absorbed and counted when it is late, else handed to its access. An answer whose access has
ended is discarded (R363). -/
def State.answered (s : State) (id : Nat) (op : PktOp) (go : Access → Packet → State → State) : State :=
  match s.arrived id op with
  | none => s
  | some p =>
    match p.msg with
    | .none =>
      let s := s.dropPkt id
      match s.access p.issuer p.tag with
      | none => s
      | some a =>
        if a.uid ≠ p.uid then s
        else if s.lateAnswer a then (s.retire a.issuer a.tag).updInt (fun x => { x with sumLate := x.sumLate + 1 })
        else go a p s
    | _ => s

/-- These issuers read again what was damaged in transit (R594): all but a flow home, whose requester does. -/
def Issuer.rereads : Issuer → Bool
  | .home .. => false
  | _ => true

/-- Nothing waits for a read any more: it was dropped, or it is a stream's and the task has ended (R295, R310). It is not read
again. -/
def State.forgotten (s : State) (a : Access) : Bool :=
  a.dropped || (match a.issuer with | .tile t => a.purpose.ofSlot.isSome && !s.streaming t | _ => false)

/-- READ_RSP: read data reaches its issuer; data damaged in transit is read once more, with the same tag. -/
def execReadRsp (id : Nat) (s : State) : Out :=
  .next (s.answered id .readRsp (fun a p s =>
    let damaged := decide (p.status = .ok) && p.isBad
    let at_ := gLocal a.req.addr
    if damaged && a.issuer.rereads && !a.req.reread && !s.forgotten a then
      let s := (s.issuerReport a.issuer 3 at_ (p.bad.headD 0) a.req).intCtr 0x110 1
      let s := match a.issuer with | .tile t => (s.portIdle t).chargeClass t .read a.req.size a.remote.isSome | _ => s
      let q := { a.req with reread := true }
      (s.updAccess a.issuer a.tag (fun b => { b with req := q })).inject q
    else
      let s := if a.req.reread ∧ (damaged ∨ p.status ≠ .ok) then s.issuerReport a.issuer 4 at_ (p.bad.headD 0) a.req else s
      s.complete a p.status (if damaged then p.bad else []) p.data))

/-- WRITE_ACK. -/
def execWriteAck (id : Nat) (s : State) : Out :=
  .next (s.answered id .writeAck (fun a p s => s.complete a p.status [] []))

/-- ATOMIC_RSP: a returned value that fails parity is lost; the effect stands (R596). -/
def execAtomicRsp (id : Nat) (s : State) : Out :=
  .next (s.answered id .atomicRsp (fun a p s =>
    let damaged := decide (p.status = .ok) && p.isBad && a.req.ret
    let s := if damaged && a.issuer.rereads then s.issuerReport a.issuer 5 (gLocal a.req.addr) (p.bad.headD 0) a.req else s
    s.complete a p.status (if damaged then p.bad else []) p.data))

/-- Value of a status (R362, R431). -/
def Status.code : Status → Nat
  | .ok => 0 | .busError => 1 | .epochStale => 2 | .absorbed => 3 | .absent => 4 | .unreachable => 5

/-- The report of a torus multicast whose acknowledgements are all counted (R373, R520, R561). -/
def State.torusMcastReport (s : State) (a : Access) : State :=
  let s := s.retire a.issuer a.tag
  match a.issuer, a.purpose with
  | .engine _, .mcast r seq =>
    s.finish r seq { status := if a.mcRefused.isNone then 0 else BitVec.ofNat 8 MCAST_PARTIAL,
                     result := BitVec.ofNat 64 (a.mcRefused.map (·.1) |>.getD 0), result2 := BitVec.ofNat 32 a.mcOk }
  | .lport n, .oreq dtag =>
    (s.giveMrep n (dtag, a.mcOk, a.mcRefused.map (·.1) |>.getD 0, a.mcRefused.map (·.2.code) |>.getD 0)).lportFences n 256
  | _, _ => s

/-- One acknowledgement of a multicast, from tile t. -/
def Access.mcAck (a : Access) (t : Nat) (st : Status) : Access :=
  let a := { a with mcDue := a.mcDue - 1 }
  if st = .ok then { a with mcOk := a.mcOk + 1 }
  else { a with mcRefused := match a.mcRefused with | some (u, c) => if t < u then some (t, st) else some (u, c) | none => some (t, st) }

/-- MCAST_ACK. -/
def execMcastAck (id : Nat) (s : State) : Out :=
  .next (s.answered id .mcastAck (fun a p s =>
    let b := a.mcAck p.src.router p.status
    if b.mcDue = 0 then s.torusMcastReport b else s.updAccess a.issuer a.tag (fun _ => b)))

/-- ACCESS_TIMEOUT: an access that has left and has no answer after 2 ms ends with a bus error (R363, R597, R605): `i` is its
place among the accesses. Of a multicast, every acknowledgement still due is missing. -/
def execAccessTimeout (i : Nat) (s : State) : Out :=
  .next (
    match s.accesses[i]? with
    | none => s
    | some a =>
      if a.held then s
      else if s.lateAnswer a then s.retire a.issuer a.tag
      else if a.req.op = .mcastWrite then
        s.torusMcastReport { a with mcRefused := match a.mcRefused with
          | some r => some r
          | none => some ((a.req.dests.foldl min (a.req.dests.headD 0)), .busError) }
      else s.complete a .busError [] [])

/-! ### The Gleaner probes (R378 to R381) -/

/-- Opcode of a packet; the control kinds are numbered from 0x30 in the order in which R361 lists them. DEDUCED: log entry 54. -/
def Packet.opcode (p : Packet) : Nat :=
  match p.op with
  | .read => 1 | .write => 2 | .atomic => 3 | .mcastWrite => 4
  | .readRsp => 0x10 | .writeAck => 0x11 | .atomicRsp => 0x12 | .mcastAck => 0x13
  | .linkHalf => 0x20 | .linkCredit => 0x21 | .linkToken => 0x22
  | .control => match p.msg with | .launch _ => 0x30 | .startReport .. => 0x31 | .report _ => 0x32 | .miss .. => 0x33 | _ => 0x38

/-- Endpoint as the header has it (R360). -/
def Endpoint.word (e : Endpoint) (mc : Bool) : Nat := tileX e.router + tileY e.router * 64 + e.port * 4096 + b2n mc * 32768

/-- The probe's key (R379). -/
def Packet.key (p : Packet) : DWord :=
  BitVec.ofNat 64 (p.opcode * 2 ^ 56 + p.op.cls * 2 ^ 54 + p.tenant % 2048 * 2 ^ 43 + tileY p.src.router * 2 ^ 34 + tileX p.src.router * 2 ^ 28
    + tileY p.dst.router * 2 ^ 22 + tileX p.dst.router * 2 ^ 16)

/-- A trace record (R380). -/
def State.glRecord (s : State) (c port : Nat) (out vc : Bool) (cycle : Nat) (p : Packet) : List Byte :=
  leBytes 4 s.tick.count.toNat ++ leBytes 4 cycle ++ leBytes 2 (p.dst.word (p.op == .mcastWrite)) ++ leBytes 2 (p.src.word false)
    ++ leBytes 1 p.opcode ++ leBytes 1 (p.op.cls + b2n vc * 4 + port * 8 + b2n out * 64) ++ leBytes 2 (p.data.length - 1)
    ++ leBytes 2 p.tenant ++ leBytes 1 p.epoch.toNat ++ leBytes 1 (b2n p.tickPar + 2 * b2n p.rt + 4 * b2n p.tentative)
    ++ leBytes 2 p.tag ++ leBytes 2 c ++ leBytes 8 p.addr.toNat

/-- Router that cluster c's probe watches (R387). -/
def glRouter (c r : Nat) : Nat := (4 * (c / 12) + r / 4) * 48 + (4 * (c % 12) + r % 4)

/-- Write a record: two make a 64-byte packet; one that finds no tag or no room is dropped and counted (R381). -/
def State.glTrace (s : State) (c : Nat) (rec_ : List Byte) : State :=
  let t := clusterFirst c
  let x := s.router t
  if x.glFull then s.torCtr t 0x250 1
  else
    let next := fun (x : Router) =>
      let p := x.glPtr.toNat + 32
      if p < x.glSize.toNat then { x with glPtr := BitVec.ofNat 40 p }
      else if x.glCtrl.getLsbD 2 then { x with glPtr := 0 } else { x with glPtr := BitVec.ofNat 40 p, glFull := true }
    if x.glHalf.isEmpty then s.updRouter t (fun x => { next x with glHalf := rec_ })
    else
      let a := x.glBase.toNat + x.glPtr.toNat - 32
      match s.freeTag (.gleaner c), s.mkReq (.gleaner c) .write (s.ownAddr a) 64 (x.glHalf ++ rec_) with
      | some tag, some (p, r) =>
        (s.updRouter t (fun x => { next x with glHalf := [] })).issue (s.mkAccess (.gleaner c) tag .trace p r)
      | _, _ => s.torCtr t 0x250 1

/-- A header passes one side of a router's port: the cluster's probe may see it. -/
def State.glSee (s : State) (router port : Nat) (out vc : Bool) (cycle : Nat) (p : Packet) : State :=
  let c := tileCluster router
  let t := clusterFirst c
  let x := s.router t
  let w := x.glCtrl
  if w.getLsbD 0 && glRouter c (bits w.toNat 11 8) == router && bits w.toNat 7 5 == port && w.getLsbD 4 == out
    && ((p.key ^^^ x.glMatch) &&& x.glMask) == 0
    && (!w.getLsbD 3 || (decide (x.glLo.toNat ≤ gLocal p.addr) && decide (gLocal p.addr < x.glHi.toNat))) then
    let s := (s.torCtr t 0x240 1).torCtr t 0x248 p.flits
    if w.getLsbD 1 then s.glTrace c (s.glRecord c port out vc cycle p) else s
  else s

/-! ### A hop (R353 to R355, R359, R361, R363, R368, R371, R372) -/

/-- Both routing copies of a header fail parity, or one does (R363). DESIGN CHOICE: log entry 106. -/
def Packet.lost (p : Packet) : Bool := p.route != 0 && p.copy != 0
def Packet.oneCopy (p : Packet) : Bool := (p.route != 0) != (p.copy != 0)

/-- Bytes 0x00 to 0x03 of a header as they are received (R360, R384). -/
def Packet.routing (p : Packet) : Nat :=
  (BitVec.ofNat 32 (p.dst.word (p.op == .mcastWrite) + p.src.word false * 2 ^ 16) ^^^ p.route).toNat

/-- TOR_ERR keeps the first error (R384). -/
def State.torErr (s : State) (t kind port : Nat) (p : Packet) : State :=
  s.updRouter t (fun r => { r with err := firstErr r.err (BitVec.ofNat 64 (kind * 2 ^ 56 + port * 2 ^ 53 + p.op.cls * 2 ^ 51 + b2n p.vc * 2 ^ 50
    + p.routing)) })

/-- Flits of a packet with a payload parity error. -/
def Packet.badFlits (p : Packet) : Nat := ((List.range p.flits).filter (fun f => p.bad.any (fun b => b / 128 == f))).length

/-- A packet with the damage that a link does to it. -/
def Packet.damaged (p : Packet) (d : Damage) : Packet :=
  { p with
    route := p.route ^^^ d.route, copy := p.copy ^^^ d.copy, opBad := p.opBad || d.opcode,
    bad := p.bad ++ d.data.filter (fun b => decide (b < max p.data.length (if p.op = .atomic then 16 else 0)) && !p.bad.contains b) }

/-- Output ports of a router by which a packet that stands there leaves: toward the routers of its destinations, and to the interface
behind this one. -/
def Packet.ports (p : Packet) : List Nat :=
  (List.range 4).filter (fun k => p.dests.any (fun d => hopPort p.pos d == some k))
    ++ (if p.dests.contains p.pos then [if p.op = .mcastWrite then 4 else p.dst.port] else [])

/-- A hop over a die seam (R353). -/
def seamHop (pos port : Nat) : Bool :=
  match port with
  | 0 => tileX pos % 24 == 23
  | 1 => tileX pos % 24 == 0
  | 2 => tileY pos % 24 == 23
  | _ => tileY pos % 24 == 0

/-- Flits that a virtual-channel buffer of a link holds (R368). -/
def vcDepth (pos port : Nat) : Nat := if seamHop pos port then 10 else 4

/-- A packet stands in an input buffer of a router: port, class and virtual channel. -/
def Packet.inBuffer (p : Packet) (router port cls : Nat) (vc : Bool) : Bool :=
  !p.out && p.pos == router && p.inPort == port && p.op.cls == cls && p.vc == vc

/-- Flits in an input buffer. -/
def State.bufFlits (s : State) (router port cls : Nat) (vc : Bool) : Nat :=
  s.net.pkts.foldl (fun n e => if e.2.inBuffer router port cls vc then n + e.2.flits else n) 0

/-- The next buffer on an output port has room: a credit for the header of a unicast (R368), the whole of a multicast (R372).
An interface has room (R367). DESIGN CHOICE: log entry 120. -/
def State.hasRoom (s : State) (p : Packet) (port : Nat) : Bool :=
  if 4 ≤ port then true
  else
    let used := s.bufFlits (neighbour p.pos port) (oppositePort port) p.op.cls (hopVc p.pos port p.inPort p.vc)
    if p.op = .mcastWrite then decide (used + p.flits ≤ vcDepth p.pos port) else decide (used < vcDepth p.pos port)

/-- A packet at the head of its buffer. -/
def State.atHead (s : State) (p : Packet) : Bool :=
  !p.out && !s.net.pkts.any (fun e => e.2.inBuffer p.pos p.inPort p.op.cls p.vc && decide (e.2.ord < p.ord))

/-- A packet that could leave its router now. -/
def State.mayHop (s : State) (p : Packet) : Bool := s.atHead p && p.ports.all (s.hasRoom p)

/-- Input channel of a packet. -/
def Packet.channel (p : Packet) : Nat := 2 * p.inPort + b2n p.vc

/-- An output port serves the packet now (R368): the control class first, the other classes in turn, and within a class the input
channels in turn. -/
def State.served (s : State) (p : Packet) (port : Nat) : Bool :=
  let x := s.router p.pos
  let rivals := (s.net.pkts.map (·.2)).filter (fun q => q.pos == p.pos && q.ports.contains port && s.mayHop q)
  let turn := fun (c : Nat) => if c = 3 then 0 else 1 + (c + 3 - smGetD x.rrClass port 0) % 3
  let place := fun (c : Nat) => (c + 14 - smGetD x.rrIn (4 * port + p.op.cls) 0) % 14
  !rivals.any (fun q => decide (turn q.op.cls < turn p.op.cls) || (q.op.cls == p.op.cls && decide (place q.channel < place p.channel)))

/-- An output port has served a packet: its pointers move on. -/
def State.servedBy (s : State) (p : Packet) (port : Nat) : State :=
  s.updRouter p.pos (fun x => { x with
    rrClass := if p.op.cls = 3 then x.rrClass else smSet x.rrClass port ((p.op.cls + 1) % 3)
    rrIn := smSet x.rrIn (4 * port + p.op.cls) ((p.channel + 1) % 14) })

/-- A packet arrives at router n by a port: sunk when both routing copies are bad, else it stands in the port's buffer. -/
def State.hopIn (s : State) (id n port : Nat) (p : Packet) (cycle : Nat) : State :=
  let p := { p with pos := n, inPort := port, ord := s.net.stamp }
  let s := s.glSee n port false p.vc cycle p
  if p.lost then ((s.torCtr n 0x150 1).torErr n 3 port p).report 6 1 n 0 0 none none 0
  else
    let s := if p.oneCopy then s.torErr n 2 port p else s
    { s with net := { s.net with pkts := smSet s.net.pkts id p, stamp := s.net.stamp + 1 } }

/-- A packet reaches the interface of its destination. One whose opcode is reserved is answered BUS_ERROR if its source field is clean
and it asks for an answer, else discarded (R361). -/
def State.toInterface (s : State) (id : Nat) (p : Packet) : State :=
  if p.opBad then
    if p.route >>> 16 == 0 && p.msg == .none && p.op.answer != p.op then s.respond p p.op.answer .busError [] else s
  else { s with net := { s.net with pkts := smSet s.net.pkts id { p with out := true, ord := s.net.stamp }, stamp := s.net.stamp + 1 } }

/-- One branch of a packet leaves its router by a port, toward some of its destinations. -/
def State.hopOut (s : State) (id port : Nat) (p : Packet) (damage : Damage) (cycle : Nat) : State :=
  let s := s.torCtr p.pos (0x100 + 8 * port) p.flits
  if 4 ≤ port then
    let p := { p with dests := [p.pos], dst := if p.op = .mcastWrite then tileEnd p.pos else p.dst }
    (s.glSee p.pos port true p.vc cycle p).toInterface id (p.damaged damage)
  else
    let ds := p.dests.filter (fun d => hopPort p.pos d == some port)
    let vc := hopVc p.pos port p.inPort p.vc
    let s := s.glSee p.pos port true vc cycle p
    s.hopIn id (neighbour p.pos port) (oppositePort port) ({ p with dests := ds, vc }.damaged damage) cycle

/-- A router checks the payload of what it forwards (R363, R386). -/
def State.seeParity (s : State) (p : Packet) : State :=
  if p.isBad then (s.torCtr p.pos 0x148 p.badFlits).torErr p.pos 1 p.inPort p else s

/-- PACKET_FORWARD: a packet leaves the router at which it stands, when it is its turn and there is room; a multicast is copied
where its routes part. `damage` is what the link does to its bytes, `cycle` the cycles since the tick's edge. DEDUCED: log
entry 56. -/
def execPacketForward (id : Nat) (damage : Damage) (cycle : Nat) (s : State) : Out :=
  .next (
    match smGet s.net.pkts id with
    | none => s
    | some p =>
      let ports := p.ports
      if !s.mayHop p || !s.served p (ports.headD 0) then s
      else
        let s := if 4 ≤ p.inPort then s.glSee p.pos p.inPort false p.vc cycle p else s
        let s := ports.foldl (fun s port => s.servedBy p port) ((s.seeParity p).dropPkt id)
        (ports.foldl (fun (a : Bool × State) port =>
          let k := if a.1 then id else a.2.net.nextId
          let s := if a.1 then a.2 else { a.2 with net := { a.2.net with nextId := k + 1 } }
          (false, s.hopOut k port p damage cycle)) (true, s)).2)

/-! ### Registers (R385, R387) -/

/-- TOR_CLEAR.clear: the router counters. -/
def State.torClear (s : State) (t : Nat) : State := s.updRouter t (fun r => { r with ctr := r.ctr.filter (fun e => decide (0x160 < e.1)) })
def execTorClear (a : Agent) (t : Nat) (s : State) : Out := .next (s.regWrite a (tileBlock t + 0x8010) (fun s => some (s.torClear t)))

/-- TOR_CLEAR.gl_clear: the Gleaner counters; outside the cluster's first tile the bit is reserved. -/
def State.glClear (s : State) (t : Nat) : State :=
  if clusterFirst (tileCluster t) = t then s.updRouter t (fun r => { r with ctr := r.ctr.filter (fun e => decide (e.1 ≤ 0x160)) }) else s
def execGlClear (a : Agent) (t : Nat) (s : State) : Out := .next (s.regWrite a (tileBlock t + 0x8010) (fun s => some (s.glClear t)))

/-- A range lies wholly in the populated Granary. -/
def State.inGranary (s : State) (a n : Nat) : Bool :=
  match s.target a, s.target (a + (n - 1)) with
  | .stack .., .stack .. => mapRow a == mapRow (a + (n - 1)) && (mapRow a == 1 || a / 0x1000000000 == (a + (n - 1)) / 0x1000000000)
  | _, _ => false

/-- A write of TOR_GL_CTRL (R387). -/
def State.glCtrlWrite (s : State) (t : Nat) (v : Word) : Option State :=
    if clusterFirst (tileCluster t) ≠ t then some s
    else
      let x := s.router t
      let new := v &&& 0xFFF
      let n := x.glSize.toNat
      let region := x.glBase.toNat % 64 == 0 && decide (4096 ≤ n) && n % 4096 == 0 && s.inGranary x.glBase.toNat n
      if x.glCtrl.getLsbD 0 ∧ (new ^^^ x.glCtrl) &&& 0xFFE ≠ 0 then none
      else if new.getLsbD 0 && new.getLsbD 1 && !x.glCtrl.getLsbD 0 then
        if !region then none else some (s.updRouter t (fun r => { r with glCtrl := new, glPtr := 0, glFull := false, glHalf := [] }))
      else some (s.updRouter t (fun r => { r with glCtrl := new }))

/-- GLEANER_ENABLE. -/
def execGleanerEnable (a : Agent) (t : Nat) (v : Word) (s : State) : Out :=
  .next (s.regWrite a (tileBlock t + 0x8200) (fun s => s.glCtrlWrite t v))

end Sys2Proof.Machine
end

