-- ==== Sys2Proof/Machine/LogicOps.lean ====
section
/-!
DEFINITION. Logic regions as other chapters' commands use them (14 R562 to R577): isolation, emptying and reset of a region,
the end of a load, and the decoding of a bale.
-/
namespace Sys2Proof.Machine

/-! ### Isolation, emptying, reset (R563 to R565) -/

/-- The twelve logic ports of a region (R24). -/
def regionPorts (r : Nat) : List Nat := (List.range 12).map (fun k => 96 * (r / 8) + 12 * (r % 8) + k)

/-- An access of a design that has been isolated: its answer is absorbed. -/
def Access.orphan (n : Nat) (a : Access) : Access :=
  match a.issuer, a.purpose with
  | .lport m, .oreq _ => if m = n then { a with purpose := .oreq orphanTag } else a
  | _, _ => a

def orphanPort (n : Nat) (l : Option (Nat × Nat)) : Option (Nat × Nat) := l.map (fun e => if e.1 = n then (n, orphanTag) else e)

/-- A logic port's boundary is isolated: outstanding inbound requests are answered BUS_ERROR, answers to its own absorbed. -/
def State.isolatePort (s : State) (n : Nat) : State :=
  let s := (s.lport n).inbound.foldl (fun s q => s.respond q.pkt q.pkt.op.answer .busError []) s
  let s := s.updLport n (fun p => { p with inbound := [], fences := [], orsp := [], mrep := [], late := [] })
  let s : State := { s with accesses := s.accesses.map (Access.orphan n) }
  s.updFab (fun x => { x with
    copies := x.copies.map (fun c => { c with lport := orphanPort n c.lport }),
    mcasts := x.mcasts.map (fun m => { m with lport := orphanPort n m.lport }) })

def State.isolate (s : State) (r : Nat) : State := (regionPorts r).foldl (fun s n => s.isolatePort n) s

/-- Block-RAM frames of a configuration, by piece of 128 bytes; and its logic and boundary frames (R568). -/
def ramFrames (m : SMap (BitVec 1024)) : SMap (BitVec 1024) :=
  (m.filter (fun e => e.1 / 2 ^ 28 == 1)).map (fun e => (e.1 % 2 ^ 28, e.2))
def logicFrames (m : SMap (BitVec 1024)) : SMap (BitVec 1024) := m.filter (fun e => e.1 / 2 ^ 28 != 1)

/-- The region is emptied (R565). -/
def State.emptyRegion (s : State) (r : Nat) : State :=
  (s.isolate r).updRegion r (fun x => { x with
    st := .empty, imageValid := false, upset := false, userId := 0, active := [], shadow := [], shadowId := 0, bram := [], stopped := false })

/-- Epoch of a region's partition. -/
def State.regionEpoch (s : State) (r : Nat) : Byte := match s.partOfRegion r with | some p => s.partEpoch p | none => 0

/-- A region reset (R564): block RAMs take the shadow's image, or zero. -/
def State.resetRegion (s : State) (r : Nat) : State :=
  let s := s.isolate r
  let e := s.regionEpoch r
  s.updRegion r (fun x => { x with bram := if x.imageValid then ramFrames x.shadow else [], epoch := e })

/-! ### Loads (R571 to R577) -/

/-- CFG_ERR of a die keeps the first event (R588). -/
def State.cfgErr (s : State) (r kind detail frame : Nat) : State :=
  s.updLgc (r / 8) (fun k => { k with cfgErr := firstErr k.cfgErr (BitVec.ofNat 64 (kind * 2 ^ 56 + r % 8 * 2 ^ 48 + detail * 2 ^ 32 + frame)) })

/-- Regions of a mask, lowest first. -/
def regionsOf (m : Word) : List Nat := (List.range 32).filter (fun r => m.getLsbD r)

/-- Detail codes of R575. -/
def ldBadHeader : Nat := 1
def ldLength : Nat := 2
def ldStepping : Nat := 3
def ldSections : Nat := 4
def ldStream : Nat := 5
def ldFrameAddr : Nat := 6
def ldFrameTwice : Nat := 7
def ldDictIndex : Nat := 8
def ldClock : Nat := 9
def ldCrc : Nat := 10
def ldDigest : Nat := 11
def ldRead : Nat := 12
def ldRegionBusy : Nat := 13
def ldCommitWait : Nat := 14
def ldReset : Nat := 15

/-- Reason of R533 that a detail goes with. -/
def ldReason (detail : Nat) : Nat := if detail ≤ 9 then 2 else if detail ≤ 12 then 4 else if detail = 13 then 3 else 1

/-- The record of a load that failed (R575). -/
def loadRecord (detail sect off : Nat) : Record :=
  { status := if detail = ldReset then 0x0D else BitVec.ofNat 8 CMD_REFUSED, result := BitVec.ofNat 64 (detail + sect * 2 ^ 16 + off % 2 ^ 32 * 2 ^ 32),
    result2 := if detail = ldReset then 0 else BitVec.ofNat 32 (ldReason detail) }

/-- A load ends without its commit: its staged sections are discarded. `staged` if staging had begun. -/
def State.endLoad (s : State) (l : Load) (detail sect off : Nat) (staged : Bool) : State :=
  let s : State := { s with loads := s.loads.filter (fun x => !(x.ring == l.ring && x.seq == l.seq)) }
  let s := (regionsOf l.mask).foldl (fun s r => s.updRegion r (fun x =>
    if staged ∧ !l.clear then { x with stage := .none, imageValid := false, shadow := [], shadowId := 0 } else { x with stage := .none })) s
  (s.cfgErr (((regionsOf l.mask)[sect]?).getD ((regionsOf l.mask).headD 0)) 1 detail 0).finish l.ring l.seq (loadRecord detail sect off)

/-- A reset or an emptying of a region ends the load that names it (R576). -/
def State.killLoads (s : State) (r : Nat) : State :=
  s.loads.foldl (fun s l => if l.mask.getLsbD r then s.endLoad l ldReset 0 0 true else s) s

/-! ### Bales (R566 to R570) -/

/-- All bytes of a range are zero. -/
def zeroes (bs : List Byte) (off n : Nat) : Bool := (slice bs off n).all (· == 0)

/-- Ranges (offset, length) that do not meet. -/
def apart (a b : Nat × Nat) : Bool := decide (a.1 + a.2 ≤ b.1) || decide (b.1 + b.2 ≤ a.1) || a.2 == 0 || b.2 == 0
def allApart : List (Nat × Nat) → Bool
  | [] => true
  | a :: l => l.all (apart a) && allApart l

/-- The checks before any staging: a failure with its detail, section and bale offset. -/
def baleHeader (bs : List Byte) (len : Nat) (mask : Word) (b0 : Bool) : Option (Nat × Nat × Nat) :=
  let n := field bs 7 1
  let total := field bs 8 4
  let dictOff := field bs 0x0C 4
  let dictN := field bs 0x10 2
  let ent := fun (i : Nat) => 0x80 + 32 * i
  let ranges := (dictOff, 128 * dictN) :: (List.range n).map (fun i => (field bs (ent i) 4, field bs (ent i + 4) 4))
  if field bs 0 4 ≠ 0x454C4142 then some (ldBadHeader, 0, 0)
  else if field bs 4 2 ≠ 1 then some (ldBadHeader, 0, 4)
  else if 4 ≤ field bs 6 1 then some (ldBadHeader, 0, 6)
  else if !zeroes bs 0x12 6 then some (ldBadHeader, 0, 0x12)
  else if !zeroes bs 0x20 96 then some (ldBadHeader, 0, 0x20)
  else if total ≠ len ∨ total % 4 ≠ 0 then some (ldLength, 0, 8)
  else if !bitN (field bs 6 1) (b2n b0) then some (ldStepping, 0, 6)
  else if n ≠ popcount mask ∨ total < ent n + 4 then some (ldSections, 0, 7)
  else
    match (List.range n).find? (fun i => !zeroes bs (ent i + 0x0C) 4 || !zeroes bs (ent i + 0x18) 8) with
    | some i => some (ldBadHeader, i, ent i)
    | none =>
      if dictOff % 64 ≠ 0 ∨ 4096 < dictN ∨ dictOff < ent n ∨ total - 4 < dictOff + 128 * dictN then some (ldDictIndex, 0, 0x0C)
      else
        match (List.range n).find? (fun i => decide (field bs (ent i) 4 < ent n) || decide (total - 4 < field bs (ent i) 4 + field bs (ent i + 4) 4)
            || field bs (ent i + 8) 4 == 0 || decide (50178 < field bs (ent i + 8) 4)) with
        | some i => some (ldSections, i, ent i)
        | none => if !allApart ranges then some (ldSections, 0, 0x80) else none

/-- Frames of each type. -/
def typeFrames (t : Nat) : Nat := match t with | 0 => 41472 | 1 => 8704 | 2 => 2 | _ => 0

/-- A stream as far as it has been decoded. -/
structure Staging where
  addr   : Nat := 0
  count  : Nat := 0
  frames : SMap (BitVec 1024) := []
  /-- detail of a failure -/
  err    : Option Nat := none

/-- Write one frame at the current address. -/
def Staging.put (x : Staging) (v : BitVec 1024) : Staging :=
  if x.err.isSome then x
  else if typeFrames (x.addr / 2 ^ 28) ≤ x.addr % 2 ^ 28 then { x with err := some ldFrameAddr }
  else if (smGet x.frames x.addr).isSome then { x with err := some ldFrameTwice }
  else { x with addr := x.addr + 1, count := x.count + 1, frames := smSet x.frames x.addr v }

def frameAt (bs : List Byte) (off : Nat) : BitVec 1024 := BitVec.ofNat 1024 (field bs off 128)

/-- Decode a stream from offset `pos` to `stop`: the staging, and the offset at which it ended or failed. -/
def decodeStream (bs : List Byte) (dictOff dictN stop : Nat) : Nat → Nat → Staging → Staging × Nat
  | 0, pos, x => ({ x with err := some ldStream }, pos)
  | fuel + 1, pos, x =>
    let fail := fun (d : Nat) => ({ x with err := some d }, pos)
    let dict := fun (i n : Nat) => (List.range n).foldl (fun (x : Staging) _ => x.put (frameAt bs (dictOff + 128 * i))) x
    let next := fun (y : Staging) (p : Nat) => if y.err.isSome then (y, pos) else decodeStream bs dictOff dictN stop fuel p y
    if stop ≤ pos then fail ldStream
    else
      match field bs pos 1 with
      | 0 => if pos + 1 = stop then (x, pos) else fail ldStream
      | 1 =>
        let a := field bs (pos + 1) 4
        if stop < pos + 5 then fail ldStream
        else if typeFrames (a / 2 ^ 28) ≤ a % 2 ^ 28 then fail ldFrameAddr
        else next { x with addr := a } (pos + 5)
      | 2 =>
        let n := field bs (pos + 1) 2
        if n = 0 ∨ stop < pos + 3 + 128 * n then fail ldStream
        else next ((List.range n).foldl (fun (x : Staging) i => x.put (frameAt bs (pos + 3 + 128 * i))) x) (pos + 3 + 128 * n)
      | 3 =>
        let i := field bs (pos + 1) 2
        if stop < pos + 3 then fail ldStream
        else if dictN ≤ i then fail ldDictIndex
        else next (dict i 1) (pos + 3)
      | 4 =>
        let i := field bs (pos + 1) 2
        let n := field bs (pos + 3) 2
        if stop < pos + 5 ∨ n = 0 then fail ldStream
        else if dictN ≤ i then fail ldDictIndex
        else next (dict i n) (pos + 5)
      | _ => fail ldStream

/-- Sources and dividers of boundary frame 0, and the reserved bits of both boundary frames (R568). -/
def boundaryOk (m : SMap (BitVec 1024)) : Bool :=
  let f0 := smGetD m (2 * 2 ^ 28) 0
  let f1 := smGetD m (2 * 2 ^ 28 + 1) 0
  (List.range 8).all (fun c => decide (dfield f0 (2 * c) 1 ≤ 5) && decide (dfield f0 (2 * c + 1) 1 < 16)) && dfield f0 16 112 == 0
    && decide (dfield f1 0 2 < 4096) && (List.range 12).all (fun k => decide (dfield f1 (2 + k) 1 < 8)) && dfield f1 14 114 == 0

/-- Stage every section in turn: a failure, and what has been staged: (region, frames, user_id, frames written). -/
def stageSections (bs : List Byte) : List (Nat × Nat) → List (Nat × SMap (BitVec 1024) × Nat × Nat) →
    Option (Nat × Nat × Nat) × List (Nat × SMap (BitVec 1024) × Nat × Nat)
  | [], acc => (none, acc)
  | (i, r) :: rest, acc =>
    let e := 0x80 + 32 * i
    let pos := field bs e 4
    let len := field bs (e + 4) 4
    let x := decodeStream bs (field bs 0x0C 4) (field bs 0x10 2) (pos + len) (len + 1) pos {}
    let acc := acc ++ [(r, x.1.frames, field bs (e + 0x10) 8, x.1.count)]
    match x.1.err with
    | some d => (some (d, i, x.2), acc)
    | none =>
      if x.1.count ≠ field bs (e + 8) 4 then (some (ldStream, i, x.2), acc)
      else if !boundaryOk x.1.frames then (some (ldClock, i, pos), acc)
      else stageSections bs rest acc

end Sys2Proof.Machine
end

