-- ==== Sys2Proof/Machine/Fabric.lean ====
section
/-!
DEFINITION. The meanings of the fabric's commands (11 R427 to R475).
-/
namespace Sys2Proof.Machine

/-! ### Forwarding (R435, R439, R444, R445) -/

/-- An ordered frame waits for earlier ones of the same origin and destination, and while its destination's path settles
(R453). -/
def State.mustWait (s : State) (id : Nat) (p : Parcel) : Bool :=
  p.frame.op.ordered && (s.fab.settling.any (fun e => e.1 == p.frame.dst)
    || s.fab.parcels.any (fun e => decide (e.1 < id) && e.2.inPort == p.inPort && e.2.die == p.die && e.2.frame.op.ordered
      && e.2.frame.dst == p.frame.dst))

/-- The response opcode of a request frame. -/
def FrameOp.answer : FrameOp → FrameOp
  | .read => .readRsp
  | .write => .writeAck
  | _ => .atomicRsp

/-- A response frame for a request frame. DEDUCED: log entry 41. -/
def Frame.reply (f : Frame) (st : Status) (data : List Byte) : Frame :=
  { op := f.op.answer, dst := f.src, srcDie := f.srcDie, seq := f.seq, inc := f.inc, tag := f.tag, issKind := f.issKind,
    issIdx := f.issIdx, tenant := f.tenant, status := st, data, size := data.length }

/-- The issuer that a flow home injects for (R440). -/
def Frame.home (f : Frame) (d : Nat) : Issuer := .home d (f.src * 2 ^ 15 + f.issKind % 8 * 2 ^ 12 + f.issIdx % 4096)

/-- A READ of this module's memory: checked, then a torus read (R444, R445). -/
def State.remoteReadIn (s : State) (id : Nat) (p : Parcel) : State :=
  let f := p.frame
  let d := s.flowHome f.srcDie
  let n := f.size
  let (ok, s) := s.ingress d f.tenant f.addr.toNat n needReadBit
  if !ok then ((s.dropParcel id).denied d (p.inPort.getD 0) f.src f.tenant).sendFrame d (f.reply .busError [])
  else
    let i := f.home d
    match s.mkReq i .read (s.ownAddr f.addr.toNat) n [] with
    | none => (s.dropParcel id).sendFrame d (f.reply .busError [])
    | some (q, r) =>
      match s.freeTag i with
      | none => s
      | some tag => (s.dropParcel id).issue (s.mkAccess i tag (.remoteRead f.src f.srcDie f.tag) { q with tenant := f.tenant, rt := f.rt } r)

/-- Route a frame that this module forwards or has originated. It waits while the port that it takes has no credit or no room (R435,
R452). An answer to a request without a route comes as from the destination. DEDUCED: log entries 41 and 43. -/
def State.forward (s : State) (id : Nat) (p : Parcel) : State :=
  let f := if p.inPort.isSome then { p.frame with hops := p.frame.hops + 1 } else p.frame
  let d := p.die
  if 64 < f.hops then (s.dropParcel id).kfbErr d 6 (p.inPort.getD 0) f.dst f.seq.toNat
  else
    let (r, s) := s.route d f.dst
    if !r.valid then
      if f.op.isRequest then
        ((s.dropParcel id).kfbErr d 3 (p.inPort.getD 0) f.dst f.seq.toNat).addParcel none d { f.reply .busError [] with src := f.dst }
      else s.dropParcel id
    else if f.op.ordered ∨ f.lane ≠ 4 then
      if s.mustWait id p || !s.orderedRoom r f then s else (s.dropParcel id).sendOrdered d r f
    else
      match s.adaptPort r f with
      | none => s
      | some q => (s.dropParcel id).portSend q f

/-- The frame is routed by the table: not a control frame of one hop or of a tree. -/
def Frame.routed (f : Frame) : Bool :=
  match f.op with
  | .mcastWrite | .tickMarker | .barrierReport | .barrierClose | .linkHello | .reserved => false
  | .mcastAck => f.lane == 4
  | _ => true

/-- FRAME_FORWARD: a frame that is not for this module leaves by its route; a READ that is for it is served. -/
def execFrameForward (id : Nat) (s : State) : Out :=
  .next (
    match smGet s.fab.parcels id with
    | none => s
    | some p =>
      if !p.frame.routed then s
      else if p.frame.dst = s.ownId then
        if p.frame.op = .read ∧ p.inPort.isSome then s.remoteReadIn id p else s
      else s.forward id p)

/-- ADAPTIVE_ESCAPE: an unordered frame leaves by the ordered path in escape lane 0: no adaptive port is Up, or none has credit for it. -/
def execAdaptiveEscape (id : Nat) (s : State) : Out :=
  .next (
    match smGet s.fab.parcels id with
    | none => s
    | some p =>
      let (r, s) := s.route p.die p.frame.dst
      if !p.frame.routed || p.frame.op.ordered || p.frame.lane != 4 || p.frame.dst == s.ownId || !r.valid
        || (s.adaptPorts r).any (fun q => s.hasCredit q p.frame) then s
      else
        let hops := if p.inPort.isSome then p.frame.hops + 1 else p.frame.hops
        let f := { p.frame with lane := 0, hops }
        if 64 < hops then (s.dropParcel id).kfbErr p.die 6 (p.inPort.getD 0) f.dst f.seq.toNat
        else if !s.orderedRoom r f then s
        else ((s.dropParcel id).kfbCtr p.die 0x238 1).sendOrdered p.die r f)

/-! ### Ordered flows at their home (R439 to R441, R593) -/

/-- Distance from b up to a, modulo 2^w, is in the lower half: a is at or above b. -/
def atOrAbove {w : Nat} (a b : BitVec w) : Bool := decide ((a - b).toNat < 2 ^ (w - 1))

/-- An accepted frame: refused where it is damaged or not permitted, else put into the torus for its issuer. `none`: no
operation tag is free, and the frame waits. -/
def State.accept (s : State) (h k : Nat) (p : Parcel) : Option State :=
  let f := p.frame
  let op := f.op.answer
  let no := fun (s : State) => s.flowAnswer k f.seq.toNat f.inc.toNat f.tag op .busError [] false
  if f.damaged then some (no (s.report 2 4 h f.addr.toNat 0 (some f.tenant) none 0))
  else
    let n := if f.op = .atomic then f.size else f.data.length
    let (ok, s) := s.ingress h f.tenant f.addr.toNat n (if f.op = .atomic then needAtomicBits else needWriteBit)
    if !ok then some (no (s.denied h (p.inPort.getD 0) f.src f.tenant))
    else
      let i := f.home h
      match s.mkReq i (if f.op = .atomic then .atomic else .write) (s.ownAddr f.addr.toNat) n f.data with
      | none => some (no s)
      | some (q, r) =>
        match s.freeTag i with
        | none => none
        | some tag =>
          some (s.issue (s.mkAccess i tag (.flow k f.seq.toNat f.inc.toNat f.tag)
            { q with tenant := f.tenant, rt := f.rt, aop := f.aop, ret := f.ret, operand := f.operand, compare := f.compare } r))

/-- The context that a frame is judged against: its own, or a new one; a newer incarnation resets it. -/
def RecvCtx.judge (c : Option RecvCtx) (f : Frame) : RecvCtx :=
  match c with
  | none => { src := f.src, die := f.srcDie, inc := f.inc }
  | some c => if f.inc ≠ c.inc ∧ atOrAbove f.inc c.inc then { c with inc := f.inc, expected := 0, kept := [] } else c

/-- FLOW_FRAME: the flow home judges an ordered frame by incarnation and sequence number. -/
def execFlowFrame (id : Nat) (s : State) : Out :=
  .next (
    match smGet s.fab.parcels id with
    | none => s
    | some p =>
      let f := p.frame
      if !f.op.inFlow ∨ f.dst ≠ s.ownId ∨ p.inPort.isNone ∨ s.mustWait id p then s
      else
        let h := s.flowHome f.srcDie
        let k := recvKey f.src f.srcDie
        let c0 := smGet s.fab.recv k
        if c0.isNone ∧ 4096 ≤ s.recvFlows h then
          if s.fab.recvWaits.contains k then s
          else (s.updFab (fun x => { x with recvWaits := x.recvWaits ++ [k] })).kfbCtr h 0x250 1
        else
          let c := RecvCtx.judge c0 f
          let s' := s.updFab (fun x => { x with recvWaits := x.recvWaits.filter (fun w => w != k), recv := smSet x.recv k c })
          if f.inc ≠ c.inc then s.dropParcel id
          else if f.seq = c.expected then
            let s' := s'.updRecv k (fun c => { c with expected := c.expected + 1, kept := c.kept.filter (fun r => atOrAbove r.seq f.floor) })
            match s'.accept h k p with
            | some t => t.dropParcel id
            | none => s
          else if !atOrAbove f.seq c.expected then
            let s' := (s'.dropParcel id).kfbCtr h 0x220 1
            match c.kept.find? (fun r => r.seq == f.seq) with
            | some r => s'.sendFrame h r
            | none => s'
          else
            -- at most one SEQ_NACK per microsecond and flow: the time since the last one is a free value
            let (v, s') := (s'.dropParcel id).free 1
            if v = 1 then s'
            else (s'.kfbCtr h 0x218 1).sendFrame h { op := .seqNack, dst := f.src, srcDie := f.srcDie, seq := c.expected, inc := c.inc })

/-! ### Flows at their source (R437, R441 to R444) -/

/-- FLOW_RESPONSE: a response of a flow or of a READ reaches its source I/O die, which answers the issuer. -/
def execFlowResponse (id : Nat) (s : State) : Out :=
  .next (
    match smGet s.fab.parcels id with
    | none => s
    | some p =>
      let f := p.frame
      if f.dst ≠ s.ownId then s
      else
        match f.op with
        | .readRsp =>
          match s.fab.reads.find? (fun r => r.die == f.srcDie && r.tag == f.tag) with
          | none => s.dropParcel id
          | some r =>
            ((s.dropParcel id).updFab (fun x => { x with reads := x.reads.filter (fun q => !(q.die == r.die && q.tag == r.tag)) })).inject
              { op := .readRsp, src := r.pkt.dst, dst := r.pkt.src, pos := r.pkt.dst.router, issuer := r.pkt.issuer, tag := r.pkt.tag, uid := r.pkt.uid,
                status := f.status, data := f.data, size := f.data.length, tenant := r.pkt.tenant, addr := r.pkt.addr,
                bad := if f.damaged then List.range f.data.length else [] }
        | .writeAck | .atomicRsp =>
          let k := ctxKey f.srcDie f.src
          match smGet s.fab.send k with
          | none => s.dropParcel id
          | some c =>
            match c.unacked.find? (fun g => g.seq == f.seq && g.inc == f.inc) with
            | none => s.dropParcel id
            | some g =>
              ((s.dropParcel id).updSend k (fun c => { c with unacked := c.unacked.filter (fun x => x.seq != f.seq) })).answerIssuer
                c.die g f.status f.data f.damaged
        | _ => s)

/-- SEQ_NACK: the source sends its unacknowledged frames again. -/
def execSeqNack (id : Nat) (s : State) : Out :=
  .next (s.parcelFor id .seqNack (fun _ f s =>
    let s := s.dropParcel id
    let k := ctxKey f.srcDie f.src
    match smGet s.fab.send k with
    | some c => if c.inc = f.inc then s.resend k else s
    | none => s))

/-- E2E_TIMEOUT: a frame has been unacknowledged for e2e_us. -/
def execE2eTimeout (ctx : Nat) (s : State) : Out :=
  .next (
    match smGet s.fab.send ctx with
    | some c => if c.unacked.isEmpty then s else s.resend ctx
    | none => s)

/-- FLOW_DEAD: every outstanding frame of the flow is answered UNREACHABLE, and the context is closed. DEDUCED: log entry 46. -/
def execFlowDead (ctx : Nat) (s : State) : Out :=
  .next (
    match smGet s.fab.send ctx with
    | none => s
    | some c =>
      if c.unacked.isEmpty then s
      else
        let s := c.unacked.foldl (fun s f => s.answerIssuer c.die f .unreachable [] false) (s.dropFlow c)
        let q := (Route.ofWord (smGetD s.fab.routing c.dst 0).toNat).prim
        let s := ((s.kfbCtr c.die 0x258 c.unacked.length).kfbErr c.die 3 q c.dst c.floor.toNat).closeFlow ctx
        s.grangerEvent 0x22 0xFF q (c.dst * 65536))

/-- FLOW_IDLE_CLOSE: a context with nothing unacknowledged for 1 ms sends FLOW_CLOSE (again, while it has no answer). -/
def execFlowIdleClose (ctx : Nat) (s : State) : Out :=
  .next (
    match smGet s.fab.send ctx with
    | none => s
    | some c =>
      if !c.unacked.isEmpty then s
      else (s.updSend ctx (fun c => { c with closing := true })).sendFrame c.die
        { op := .flowClose, dst := c.dst, srcDie := c.die, seq := c.next, inc := c.inc })

/-- FLOW_CLOSE: the receiver frees its context and answers. -/
def execFlowClose (id : Nat) (s : State) : Out :=
  .next (s.parcelFor id .flowClose (fun _ f s =>
    let k := recvKey f.src f.srcDie
    let s := s.dropParcel id
    let s := match smGet s.fab.recv k with
      | some c => if c.inc = f.inc then s.updFab (fun x => { x with recv := smErase x.recv k }) else s
      | none => s
    s.sendFrame (s.flowHome f.srcDie) { op := .flowCloseAck, dst := f.src, srcDie := f.srcDie, seq := f.seq, inc := f.inc }))

/-- FLOW_CLOSE_ACK: the sender frees its context. -/
def execFlowCloseAck (id : Nat) (s : State) : Out :=
  .next (s.parcelFor id .flowCloseAck (fun _ f s =>
    let k := ctxKey f.srcDie f.src
    let s := s.dropParcel id
    match smGet s.fab.send k with
    | some c => if c.closing ∧ c.inc = f.inc then s.closeFlow k else s
    | none => s))

/-- READ_RETRY: a READ without a response is sent once more with the same tag; after flow_dead_us it is answered
UNREACHABLE. -/
def execReadRetry (d tag : Nat) (s : State) : Out :=
  .next (
    match s.fab.reads.find? (fun r => r.die == d && r.tag == tag) with
    | none => s
    | some r =>
      if r.retried then
        (((s.updFab (fun x => { x with reads := x.reads.filter (fun q => !(q.die == d && q.tag == tag)) })).kfbCtr d 0x258 1).kfbErr d 3 0
          r.frame.dst 0).respond r.pkt .readRsp .unreachable []
      else
        (s.updFab (fun x => { x with reads := x.reads.map (fun q => if q.die = d ∧ q.tag = tag then { q with retried := true } else q) })).addParcel
          none d r.frame)

/-! ### Copies -/

/-- COPY_BLOCK: one act of a copy: a block whose data is there is written; a host source's next block is read (`host`: what the read
brings) and written; else the next block's read leaves. -/
def execCopyBlock (k : Nat) (host : HostData (List Byte)) (s : State) : Out :=
  .next (
    match s.copy k with
    | none => s
    | some c =>
      let s :=
        if c.lport.isNone && (s.func c.die ((smGet s.rings c.ring).map (·.fn) |>.getD 0)).st != .running then
          -- a stopping function: no further host access and no further block (R537)
          s.updCopy k (fun c => c.fail c.next HOST_FAULT)
        else if c.failed.isSome then s.updCopy k (fun c => { c with ready := [] })
        else
          match c.ready with
          | (off, data) :: rest =>
            if c.dstSpace ≠ 1 ∧ !s.copyMayWrite c then s
            else (s.updCopy k (fun c => { c with ready := rest })).copyWrite c off data
          | [] =>
            if c.size ≤ c.next then s
            else if c.srcSpace = 1 then
              if !s.copyMayWrite c then s
              else
                match host with
                | .ok b =>
                  let n := c.blockLen c.next
                  (s.updCopy k (fun x => { x with next := x.next + n })).copyWrite c c.next (slice b 0 n)
                | bad =>
                  (s.hostReadErr c.die ((smGet s.rings c.ring).map (·.fn) |>.getD 0) c.ring bad).updCopy k (fun c => c.fail c.next HOST_FAULT)
            else s.copyRead c
      s.copyEnd k)

/-! ### Multicasts -/

/-- FABRIC_MCAST_WRITE: a module of the tree checks the group, writes its own copy and passes the frame on; it waits while a branch's
port has no room. DEDUCED: log entry 42. -/
def execFabricMcastWrite (id : Nat) (s : State) : Out :=
  .next (
    match smGet s.fab.parcels id with
    | none => s
    | some p =>
      match p.inPort with
      | none => s
      | some q =>
        let f := p.frame
        let f := { f with hops := f.hops + 1 }
        if f.op ≠ .mcastWrite then s
        else if 64 < f.hops then (s.dropParcel id).kfbErr (q / 8) 6 q f.src f.seq.toNat
        else
          let (g, t) := s.group (q / 8) f.group
          if !g.valid ∨ g.tenant ≠ f.tenant then
            (t.dropParcel id).portSend q
              { op := .mcastAck, dst := f.src, src := s.ownId, lane := 0, srcDie := f.srcDie, tag := f.tag, group := f.group, pruned := true }
          else if !t.mcastReady g (some q) f (f.home (q / 8)) then s
          else
            let k := s.fab.nextTag
            ((t.dropParcel id).updFab (fun x => { x with nextTag := k + 1 })).mcastSpread
              { id := k, group := f.group, src := f.src, tag := f.tag, die := f.srcDie, here := q / 8, inPort := some q } g f (f.home (q / 8)) true)

/-- FABRIC_MCAST_ACK: a branch's acknowledgement, or one that came by another path and is only counted. -/
def execFabricMcastAck (id : Nat) (s : State) : Out :=
  .next (
    match smGet s.fab.parcels id with
    | none => s
    | some p =>
      let f := p.frame
      if f.op ≠ .mcastAck ∨ p.inPort.isNone ∨ (f.lane = 4 ∧ f.dst ≠ s.ownId) then s
      else
        let s := s.dropParcel id
        let q := p.inPort.getD 0
        match s.fab.mcasts.find? (fun m => m.src == f.dst && m.die == f.srcDie && m.tag == f.tag && (f.lane == 4 || m.waiting.getLsbD q)) with
        | none => s
        | some m =>
          let s := s.updMcast m.id (fun m =>
            let m := { m with count := m.count + f.count, pruned := m.pruned || f.pruned }
            if f.lane = 4 then m
            else { m with waiting := setBit m.waiting q false, mask := if f.pruned then setBit m.mask q true else m.mask })
          s.mcastAdvance m.id)

/-- MCAST_REPORT_TIMEOUT: after flow_dead_us the sender reports what has answered. -/
def execMcastReportTimeout (k : Nat) (s : State) : Out :=
  .next (
    match s.mcast k with
    | some m => if m.inPort.isNone then s.mcastReport m else s
    | none => s)

/-! ### Ports going down and coming back (R452, R453, R465) -/

/-- PORT_HELD: an Up port has lost its link. -/
def execPortHeld (q : Nat) (s : State) : Out :=
  .next (
    if (s.fport q).st = .up ∧ (s.link q).phase ≠ .running then
      s.updFport q (fun p => { p with st := .held, holdLeft := (s.kfb (q / 8)).hold })
    else s)

/-- The destinations that move to the alternate port are counted; flows to them, or that lost queued frames, send again at once.
DEDUCED: log entry 44. -/
def State.failover (s : State) (q : Nat) (lost : List Frame) : State :=
  let ds := s.movedBy q
  s.fab.send.foldl (fun s e =>
    let c := e.2
    if ds.contains c.dst || lost.any (fun f => f.op.inFlow && f.src == s.ownId && f.srcDie == c.die && f.dst == c.dst) then s.resend e.1 else s)
    (s.kfbCtr (q / 8) 0x228 ds.length)

/-- A downstream tick port is lost: every barrier group's share from it counts as closed from then on (R465). -/
def State.detach (s : State) (q : Nat) : State :=
  if (s.kfb (q / 8)).tickDown.getLsbD (q % 8) then
    (s.updTick (fun t => { t with barriers := (List.range 16).foldl (fun m g =>
      smUpd m g {} (fun b => { b with down := smSet b.down q (2 ^ 64) })) t.barriers })).grangerEvent 0x06 0xFF q
        (match s.tick.state with | .off => 0 | .standalone => 1 | .master => 2 | .acquiring => 3 | .locked => 4 | .holdover => 5 | .freeRun => 6)
  else s

/-- Frames whose headers a block carries. -/
def Block.frames (b : Block) : List Frame := b.units.filterMap (fun u => match u with | .head f => some f | _ => none)

/-- A port becomes Down, with every effect that hold expiry has (R452). -/
def State.portDown (s : State) (q : Nat) : State :=
  let lost := (s.link q).retry.flatMap Block.frames ++ (s.fport q).queue
  let s := s.updFport q (fun p => { p.unlinked with st := .down, holdLeft := 0 })
  let s := s.updLink q (fun l => { l with retry := [], fresh := true })
  let s := s.grangerEvent 0x20 0xFF q ((s.fport q).peerModule.toNat * 65536)
  let s := s.failover q lost
  let s := s.fab.mcasts.foldl (fun s m => if m.waiting.getLsbD q then (s.pruneBranch m.id q).mcastAdvance m.id else s) s
  (s.detach q).capUpdate

/-- HOLD_EXPIRY: the hold time of a Held port expires. -/
def execHoldExpiry (q : Nat) (s : State) : Out :=
  .next (if (s.fport q).st = .held then s.portDown q else s)

/-- PORT_RETURN_UP: a Held port has its link again, or a Down one its link and its peer's hello (R452, R482). -/
def execPortReturnUp (q : Nat) (s : State) : Out :=
  .next (
    if (s.link q).phase ≠ .running ∨ !(s.kfb (q / 8)).enable then s
    else
      match (s.fport q).st with
      | .held =>
        -- the measured delay stands: only a change of lanes alters it (R492)
        (((s.updFport q (fun p => { p with st := .up, holdLeft := 0 })).updLink q (fun l => { l with fresh := false })).kfbCtr (q / 8) 0x230 1).drain q
      | .down =>
        if !(s.link q).hello then s
        else
          ((s.stayOnAlt q).portUp q).grangerEvent 0x21 0xFF q ((s.fport q).peerModule.toNat * 65536)
      | _ => s)

/-- PATH_SETTLE: the old port's queue for a destination has emptied and settle_us has passed: the new path opens. -/
def execPathSettle (dst : Nat) (s : State) : Out :=
  .next (
    match s.fab.settling.find? (fun e => e.1 == dst) with
    | none => s
    | some e =>
      if (s.fport e.2).queue.any (fun f => f.op.ordered && f.dst == dst) then s
      else s.updFab (fun x => { x with settling := x.settling.filter (fun y => y.1 != dst) }))

/-! ### Reductions (R454 to R459) -/

/-- Bytes of an element. -/
def elemBytes (etype : Nat) : Nat := match etype with | 0 | 2 | 5 => 4 | 4 => 2 | _ => 8

/-- Flags that a reduction reports (R458): INVALID, OVERFLOW, UNDERFLOW, INEXACT and DENORM_IN. -/
def redFlagMask : BitVec 7 := 47

/-- Combine two elements (R456). -/
def redElem (op etype : Nat) (a b : DWord) : DWord × BitVec 7 :=
  let n := 8 * elemBytes etype
  let x := a.toNat % 2 ^ n
  let y := b.toNat % 2 ^ n
  let lt := if etype < 2 then decide (bitsInt true n x < bitsInt true n y) else decide (x < y)
  let r : Nat × BitVec 7 :=
    match op, etype with
    | 0, 4 => wAdd 8 x 8 y 8 RNE 0
    | 0, 5 => wAdd 24 x 24 y 24 RNE 0
    | 0, 6 => let p := a40OfContainer x; let q := a40OfContainer y; let c := a40Add p.1 q.1; (c.1, p.2 ||| q.2 ||| c.2)
    | 0, _ => ((x + y) % 2 ^ n, 0)
    | _, 4 => wMinMax 8 x y (op == 2)
    | _, 5 => wMinMax 24 x y (op == 2)
    | 1, _ => (if lt then x else y, 0)
    | _, _ => (if lt then y else x, 0)
  (BitVec.ofNat 64 r.1, r.2 &&& redFlagMask)

/-- Combine two vectors, element by element, left with right. -/
def redVec (op etype : Nat) (a b : List DWord) : List DWord × BitVec 7 :=
  (List.zip a b).foldr (fun e r => let c := redElem op etype e.1 e.2; (c.1 :: r.1, c.2 ||| r.2)) ([], 0)

/-- One level of the tree over this member's own leaves. -/
def redPairs (op etype : Nat) : List (List DWord) → List (List DWord) × BitVec 7
  | a :: b :: rest =>
    let c := redVec op etype a b
    let r := redPairs op etype rest
    (c.1 :: r.1, c.2 ||| r.2)
  | l => (l, 0)

/-- The first log2 L levels (R457). -/
def redLeaves (op etype : Nat) : Nat → List (List DWord) → List DWord × BitVec 7
  | 0, vs => (vs.headD [], 0)
  | n + 1, vs =>
    match vs with
    | [] => ([], 0)
    | [v] => (v, 0)
    | _ =>
      let r := redPairs op etype vs
      let t := redLeaves op etype n r.1
      (t.1, r.2 ||| t.2)

/-- A group entry (R454). -/
structure RedGroup where
  list : Nat
  n    : Nat
  rank : Nat
  valid : Bool
  tenant : Nat

/-- I/O die whose reduction unit serves a group. -/
def State.redUnit (s : State) (g : Nat) : Nat := g % s.part.nIoDies

def State.redGroup (s : State) (g : Nat) : RedGroup × State :=
  let b := s.badEntry (s.redUnit g) 2 g
  let v := if b.1 then 0 else (smGetD s.fab.rgroups g 0).toNat
  (⟨v % 2 ^ 64, bits v 79 64 + 1, bits v 95 80, bitN v 111, bits v 106 96⟩, b.2)

/-- Module of a rank, from the member list in the Granary. -/
def State.rankModule (s : State) (g r : Nat) : Option Nat × State :=
  match s.readPhys (s.ownAddr ((smGetD s.fab.rgroups g 0).toNat % 2 ^ 48 + 2 * r)) 2 with
  | (.ok bs, s) => (some (ofLe bs), s)
  | (_, s) => (none, s)

def State.red (s : State) (k : Nat) : Option Reduction := s.fab.reductions.find? (fun r => r.num == k)
def State.updRed (s : State) (k : Nat) (f : Reduction → Reduction) : State :=
  s.updFab (fun x => { x with reductions := modifyFirst (fun r => r.num == k) f x.reductions })
def State.dropRed (s : State) (k : Nat) : State :=
  s.updFab (fun x => { x with reductions := x.reductions.filter (fun r => r.num != k) })

/-- Pieces of a vector, of at most `per` elements, with the first element of each. `fuel` bounds their number. -/
def redPieces (per off : Nat) : Nat → List DWord → List (Nat × List DWord)
  | 0, _ => []
  | fuel + 1, v => if v.isEmpty then [] else (off, v.take per) :: redPieces per (off + per) fuel (v.drop per)

/-- Send a reduction's frames to a rank: a credit, or a vector in frames of at most 256 bytes (R431). -/
def State.redSend (s : State) (r : Reduction) (op : FrameOp) (rank : Nat) (vec : List DWord) (flags : BitVec 7) : State :=
  match s.rankModule r.id.group rank with
  | (none, s) => s
  | (some m, s) =>
    let b := elemBytes r.id.etype
    (if op = .redCredit then [(0, [])] else redPieces (256 / b) 0 vec.length vec).foldl (fun s p =>
      s.sendFrame (s.redUnit r.id.group)
        { op, dst := m, group := r.id.group, red := r.id, level := r.level, off := p.1, vec := p.2, flags, tenant := r.tenant, issKind := 4,
          size := b * p.2.length }) s

/-- A piece of a partial or result arrives in order: the elements so far, or the whole vector. -/
def Reduction.gather (r : Reduction) (f : Frame) : Reduction := { r with got := r.got ++ f.vec, gotFlags := r.gotFlags ||| f.flags }
def Reduction.whole (r : Reduction) : Bool := decide (r.id.count ≤ r.got.length)

/-- Ranks to which this member passes the result down: those that sent it their partials. -/
def Reduction.children (r : Reduction) : List Nat :=
  ((List.range r.level).map (fun j => r.rank + 2 ^ j)).filter (fun c => decide (c < r.n))

/-- Blocks of a result for an address. `fuel` bounds their number. -/
def resultBlocks (a : Nat) : Nat → Nat → List Byte → List (Nat × List Byte)
  | 0, _, _ => []
  | fuel + 1, off, bs =>
    if bs.isEmpty then []
    else
      let n := blockLen (a + off) bs.length
      (off, bs.take n) :: resultBlocks a fuel (off + n) (bs.drop n)

/-- The result is written, and the reduction's record follows when it is (R457, R458). -/
def State.redWrite (s : State) (r : Reduction) (vec : List DWord) (flags : BitVec 7) : State :=
  let bs := vec.flatMap (fun v => leBytes (elemBytes r.id.etype) v.toNat)
  ((s.dropRed r.num).kfbCtr (s.redUnit r.id.group) 0x268 1).startCopy
    { die := s.redUnit r.id.group, ring := r.ring, seq := r.seq, src := 0, dst := r.result, size := bs.length, srcSpace := 3,
      dstSpace := 0, tenant := r.tenant, next := bs.length, ready := resultBlocks r.result.toNat (bs.length / 256 + 2) 0 bs,
      red := some flags }

/-- Carry a reduction as far as it goes: combine upward, ask for partials, send the partial, or finish at the root. -/
def State.redAdvance (s : State) (k : Nat) : Nat → State
  | 0 => s
  | fuel + 1 =>
    match s.red k with
    | none => s
    | some r =>
      let w := 2 ^ r.level
      let i := r.rank / w
      let m := (r.n + w - 1) / w
      if r.sent then s
      else if m = 1 then
        let s := if r.id.reduce then s else r.children.foldl (fun s c => s.redSend r .redResult c r.vec r.flags) s
        s.redWrite r r.vec r.flags
      else if i % 2 = 1 then
        if !r.credit then s
        else
          let s := s.redSend r .redPart (r.rank - w) r.vec r.flags
          if r.id.reduce then
            ((s.dropRed k).kfbCtr (s.redUnit r.id.group) 0x268 1).finish r.ring r.seq { flags := r.flags }
          else s.updRed k (fun r => { r with sent := true })
      else if i + 1 < m then
        if r.creditSent then s
        else (s.redSend r .redCredit (r.rank + w) [] 0).updRed k (fun r => { r with creditSent := true })
      else (s.updRed k (fun r => { r with level := r.level + 1 })).redAdvance k fuel

/-- Levels of the tallest tree. -/
def redLevels : Nat := 18

/-- A reduction ends without its result; `module` is the member concerned. -/
def State.redFail (s : State) (r : Reduction) (status rank module : Nat) : State :=
  let d := s.redUnit r.id.group
  (((s.dropRed r.num).kfbCtr d 0x270 1).kfbErr d 5 0 module r.id.group).finish r.ring r.seq
    { status := BitVec.ofNat 8 status, flags := r.flags, result := BitVec.ofNat 64 rank }

/-- The rank that a reduction waits for. -/
def Reduction.lacks (r : Reduction) : Nat :=
  if r.rank / 2 ^ r.level % 2 = 1 then r.rank - 2 ^ r.level else r.rank + 2 ^ r.level

/-- The reduction unit checks a frame from another module (R445): the group's tenant, and a valid window of that tenant: the frame
names no byte of memory that the window must cover. DEDUCED: log entry 47. -/
def State.redDenied (s : State) (id : Nat) (p : Parcel) (f : Frame) : Bool × State :=
  let d := s.redUnit f.group
  let (g, s) := s.redGroup f.group
  let (ok, s) := s.windowOf d f.tenant
  if !g.valid ∨ g.tenant ≠ f.tenant ∨ !ok then (true, (s.dropParcel id).denied d (p.inPort.getD 0) f.src f.tenant) else (false, s)

/-- The reduction that a frame is for: the one it names, else another of its group that waits for such a frame (R455). -/
def State.redFor (s : State) (f : Frame) (p : Reduction → Bool) : Option Reduction :=
  match s.fab.reductions.find? (fun r => r.id == f.red && p r) with
  | some r => some r
  | none => s.fab.reductions.find? (fun r => r.id.group == f.group && p r)

/-- RED_PART: a partial arrives and is combined at its level; different fields end the reduction with REDUCE_MISMATCH. -/
def execRedPart (id : Nat) (s : State) : Out :=
  .next (s.parcelFor id .redPart (fun p f s =>
    let (no, s) := s.redDenied id p f
    if no then s
    else
      let s := s.dropParcel id
      match s.redFor f (·.creditSent) with
      | none => s
      | some r =>
        if r.id ≠ f.red then s.redFail r REDUCE_MISMATCH 0 f.src
        else if f.damaged ∨ f.level ≠ r.level ∨ f.off ≠ r.got.length then s
        else
          let a := r.gather f
          if !a.whole then s.updRed r.num (fun r => r.gather f)
          else
            let c := redVec r.id.op r.id.etype r.vec a.got
            (s.updRed r.num (fun r => { r with vec := c.1, flags := r.flags ||| c.2 ||| (if r.id.reduce then 0 else a.gotFlags),
                                               level := r.level + 1, creditSent := false, got := [], gotFlags := 0 })).redAdvance r.num redLevels))

/-- RED_CREDIT: the right member may send its partial, all of it (DESIGN CHOICE, log entry 126). A credit waits for the member's own
descriptor; one that names other fields lets it send too, and the left member finds the mismatch (R455). -/
def execRedCredit (id : Nat) (s : State) : Out :=
  .next (s.parcelFor id .redCredit (fun p f s =>
    let (no, s) := s.redDenied id p f
    if no then s
    else
      match s.redFor f (fun r => !r.credit) with
      | none => s
      | some r => ((s.dropParcel id).updRed r.num (fun r => { r with credit := true })).redAdvance r.num redLevels))

/-- RED_RESULT: the result arrives, is passed down and written. -/
def execRedResult (id : Nat) (s : State) : Out :=
  .next (s.parcelFor id .redResult (fun p f s =>
    let (no, s) := s.redDenied id p f
    if no then s
    else
      let s := s.dropParcel id
      match s.fab.reductions.find? (fun r => r.id == f.red && r.sent) with
      | none => s
      | some r =>
        if f.damaged ∨ f.off ≠ r.got.length then s
        else
          let a := r.gather f
          if !a.whole then s.updRed r.num (fun r => r.gather f)
          else
            let s := r.children.foldl (fun s c => s.redSend r .redResult c a.got a.gotFlags) s
            s.redWrite r a.got a.gotFlags))

/-- REDUCE_TIMEOUT: the partial or the result has not come in time. -/
def execReduceTimeout (k : Nat) (s : State) : Out :=
  .next (
    match s.red k with
    | some r =>
      let (m, s) := s.rankModule r.id.group r.lacks
      s.redFail r REDUCE_FAILED r.lacks (m.getD 0)
    | none => s)

/-! ### Registers and hellos (R451, R468, R471, R474, R482) -/

/-- LINK_HELLO: the peer names itself; the port's first hello makes it Up. -/
def execLinkHello (id : Nat) (s : State) : Out :=
  .next (
    match smGet s.fab.parcels id with
    | none => s
    | some p =>
      match p.inPort with
      | none => s
      | some q =>
        if p.frame.op ≠ .linkHello then s
        else
          let s := (s.dropParcel id).updFport q (fun x => { x with
            peerModule := BitVec.ofNat 16 p.frame.src, peerPort := BitVec.ofNat 5 p.frame.port })
          let s := s.updLink q (fun l => { l with hello := true })
          if (s.fport q).st = .training ∧ (s.kfb (q / 8)).enable ∧ (s.link q).phase = .running then s.portUp q else s)

/-- KFB_ block of an I/O die. -/
def kfbBlock (d : Nat) : Nat := ioBlock d + 0x400000

/-- A write of KFB_MODULE_ID: one value for the whole module, written while every die's enable is 0 (R468). -/
def State.idWrite (s : State) (v : Word) : Option State :=
  if (List.range s.part.nIoDies).any (fun k => (s.kfb k).enable) then none
  else some (s.updFab (fun x => { x with idAssigned := true, moduleId := v.setWidth 16 }))

/-- KFB_MODULE_ID. -/
def execKfbModuleId (a : Agent) (d : Nat) (v : Word) (s : State) : Out :=
  .next (s.regWrite a (kfbBlock d + 8) (fun s => s.idWrite v))

/-- KFB_CLEAR. -/
def execKfbClear (a : Agent) (d : Nat) (s : State) : Out :=
  .next (s.regWrite a (kfbBlock d + 0x20) (fun s => some (s.updKfb d (fun k => { k with ctr := [] }))))

end Sys2Proof.Machine
end

