-- ==== Sys2Proof/Machine/Tick.lean ====
section
/-!
DEFINITION. The tick unit's commands (02 R48 to R83, 11 R463 to R465): enabling, edges, markers, holdover and the Hard
barrier. A marker is acted on after the local edge of its tick (DEDUCED, log entry 15).
-/
namespace Sys2Proof.Machine

/-! ### Ports of the spanning tree (R463, R464) -/

/-- Downstream tick ports. -/
def State.downPorts (s : State) : List Nat :=
  (List.range 32).filter (fun q => decide (q / 8 < s.part.nIoDies) && (s.kfb (q / 8)).tickDown.getLsbD (q % 8))

/-- A control frame of the tick: it never waits behind other classes (R433, R463). -/
def FrameOp.ofTick : FrameOp → Bool
  | .tickMarker | .barrierReport | .barrierClose => true
  | _ => false

/-- Give a control frame to a port, ahead of every frame of another class that waits there. -/
def State.tickSend (s : State) (q : Nat) (f : Frame) : State :=
  match (s.fport q).st with
  | .down | .failed | .disabled => s
  | _ => (s.updFport q (fun p => { p with queue := p.queue.takeWhile (·.op.ofTick) ++ f :: p.queue.dropWhile (·.op.ofTick) })).drain q

def State.tickSendDown (s : State) (f : Frame) : State := s.downPorts.foldl (fun s q => s.tickSend q f) s

/-- Value of TCK_STATUS.state (R55). -/
def TickState.code : TickState → Nat
  | .off => 0 | .standalone => 1 | .master => 2 | .acquiring => 3 | .locked => 4 | .holdover => 5 | .freeRun => 6

/-- An owner event that the tick unit posts, with Granger or without (R53, R57, R641): its detail is the tick state (R528). -/
def State.tickEvent (s : State) (code : Nat) : State := s.ownerEvent code 0xFF 0 s.tick.state.code

/-! ### The Hard barrier (R67, R464, R465) -/

def State.barrier (s : State) (g : Nat) : Barrier := smGetD s.tick.barriers g {}
def State.updBarrier (s : State) (g : Nat) (f : Barrier → Barrier) : State :=
  s.updTick (fun t => { t with barriers := smUpd t.barriers g {} f })

/-- Defined Hard partitions of a group. -/
def State.groupParts (s : State) (g : Nat) : List Nat :=
  (s.parts.filter (fun e => (e.2.clusters != 0 || e.2.regions != 0) && s.hardGroup e.1 == some g)).map (·.1)

/-- The module closes a group's barrier by itself: standalone, master, or detached in Free-run. -/
def TickState.isRoot : TickState → Bool
  | .standalone | .master | .freeRun => true
  | _ => false

/-- A write, atomic or read that the group's partitions issued in tick n or before is not yet answered. -/
def State.groupOutstanding (s : State) (g n : Nat) : Bool :=
  let mine := fun (i : Issuer) => match s.issuerPart i with | some p => s.hardGroup p == some g | none => false
  let port := fun (l : Option (Nat × Nat)) => match l with | some (p, _) => mine (.lport p) | none => false
  s.accesses.any (fun a => !a.held && decide (a.tick.toNat ≤ n)
      && ((match a.part with | some p => s.hardGroup p == some g | none => false)
        || (match a.purpose with
          | .copyWr k _ => port ((s.copy k).bind (·.lport))
          | .copyRd k _ => port ((s.copy k).bind (·.lport))
          | _ => false)))
    || s.fab.mcasts.any (fun m => decide (m.tick ≤ n) && port m.lport)

/-- The module's own share of group g may close for tick n (R67 step 2): once the tick has ended, or, on a follower without
partitions of the group, once it has begun. DESIGN CHOICE: log entry 114. -/
def State.shareMayClose (s : State) (g n : Nat) : Bool :=
  s.tick.state != .off && decide ((s.barrier g).share < n)
    && (decide (n < s.tick.count.toNat) || (decide (n = s.tick.count.toNat) && !s.tick.state.isRoot && (s.groupParts g).isEmpty))
    && !s.groupOutstanding g n
    && s.downPorts.all (fun q => decide (n ≤ smGetD (s.barrier g).down q 0))

/-- The issuer belongs to one of some partitions. -/
def State.issuerIn (s : State) (ps : List Nat) (i : Issuer) : Bool := (s.issuerPart i).any ps.contains

/-- Wake the tiles of a group's partitions, and let go what their issuers kept under R369 while the barrier held them. -/
def State.wakeGroup (s : State) (g : Nat) : State :=
  let ps := s.groupParts g
  let s := ((s.accesses.filter (fun a => a.held && s.issuerIn ps a.issuer)).map (·.issuer)).foldl
    (fun s i => s.releaseHeld i (s.accessesOf i).length) s
  s.touched.foldl (fun s t => if s.issuerIn ps (.tile t) then s.wake t else s) s

/-- The module holds tiles of group g, which wait for its close: TCK_STATUS.close_pending (R76). -/
def State.closePending (s : State) (g : Nat) : Bool :=
  s.groupHeld g && (s.groupParts g).any (fun p => (s.partRec p).clusters != 0)

/-- Note the stall of the edges after which a barrier that was closed up to tick `old`, and now up to n, closes late: an edge
counts once, and its stall runs to the last late close (R67, R81). `late` is the time in ns since the edge of tick n + 1, or none for a
close that counts as on time for that edge (DESIGN CHOICE, log entry 115). -/
def State.noteStall (s : State) (old n : Nat) (late : Option Nat) : State :=
  s.updTick (fun t =>
    let base := (smGetD t.stallEdges (n + 1) {}).age
    let due := fun (e : Nat) => decide (old + 1 < e) && decide (e ≤ if late.isSome then n + 1 else n)
    let longest := t.stallEdges.foldl (fun m e => if due e.1 then max m (late.getD 0 + (e.2.age - base)) else m) t.maxStall.toNat
    { t with
      stalls := satAdd 48 t.stalls (t.stallEdges.filter (fun e => due e.1 && !e.2.counted)).length
      stallEdges := t.stallEdges.map (fun e => if due e.1 then (e.1, { e.2 with counted := true }) else e)
      maxStall := BitVec.ofNat 32 (min longest (2 ^ 32 - 1)) })

/-- Group g holds nothing back for any tick up to n: its held tiles go on. -/
def State.releaseGroup (s : State) (g n : Nat) : State :=
  let s := s.updBarrier g (fun b => { b with closed := n })
  let least := (List.range 16).foldl (fun m k => min m (s.barrier k).closed) n
  (s.updTick (fun t => { t with stallEdges := t.stallEdges.filter (fun e => decide (least + 1 < e.1)) })).wakeGroup g

/-- Group g is closed for every tick up to n. -/
def State.groupClosed (s : State) (g n : Nat) (late : Option Nat) : State :=
  let old := (s.barrier g).closed
  if n ≤ old then s else (s.noteStall old n late).releaseGroup g n

/-- Close the module's share of every group of a list for tick n: a root closes the group, a follower reports upstream. -/
def State.closeShares (s : State) (gs : List Nat) (n : Nat) (late : Option Nat) : State :=
  if gs.isEmpty then s
  else
    let s := gs.foldl (fun s g => s.updBarrier g (fun b => { b with share := n })) s
    if s.tick.state.isRoot then gs.foldl (fun s g => s.groupClosed g n late) s
    else s.tickSend s.tick.upstream.toNat
      { op := .barrierReport, src := s.ownId, tick := BitVec.ofNat 64 n, mask := BitVec.ofNat 16 (gs.foldl (fun m g => m + 2 ^ g) 0) }

/-- BARRIER_SHARE_CLOSE: group g's share for tick n closes; `ns` is the time from the edge of tick n + 1. The master's
marker of that edge has gone when it closes late, so the close goes down the tree by itself. -/
def execBarrierShareClose (g n ns : Nat) (s : State) : Out :=
  .next (
    if 16 ≤ g ∨ !s.shareMayClose g n then s
    else
      let late := decide (n < s.tick.count.toNat)
      let s := s.closeShares [g] n (if late then some ns else none)
      if s.tick.state = .master ∧ late then
        s.tickSendDown { op := .barrierClose, src := s.ownId, tick := BitVec.ofNat 64 n, mask := BitVec.ofNat 16 (2 ^ g) }
      else s)

/-- A frame of the spanning tree that arrived on a port. -/
def State.treeFrame (s : State) (id : Nat) (op : FrameOp) (go : Nat → Frame → State → State) : State :=
  match smGet s.fab.parcels id with
  | none => s
  | some p =>
    match p.inPort with
    | some q => if p.frame.op = op then go q p.frame (s.dropParcel id) else s
    | none => s

/-- BARRIER_REPORT: a downstream module's shares up to a tick are closed. -/
def execBarrierReport (id : Nat) (s : State) : Out :=
  .next (s.treeFrame id .barrierReport (fun q f s =>
    if s.downPorts.contains q then
      ((List.range 16).filter (fun g => f.mask.getLsbD g)).foldl (fun s g =>
        s.updBarrier g (fun b => { b with down := smSet b.down q (max f.tick.toNat (smGetD b.down q 0)) })) s
    else s))

/-- A close from upstream. -/
def State.takeClose (s : State) (mask : BitVec 16) (n : Nat) (late : Option Nat) : State :=
  ((List.range 16).filter (fun g => mask.getLsbD g)).foldl (fun s g => s.groupClosed g n late) s

/-- BARRIER_CLOSE: held tiles of the groups go on; the frame is forwarded. `ns` is the time since the edge. -/
def execBarrierClose (id ns : Nat) (s : State) : Out :=
  .next (s.treeFrame id .barrierClose (fun q f s =>
    if s.tick.role = 2 ∧ s.tick.enable ∧ q = s.tick.upstream.toNat then
      (s.takeClose f.mask f.tick.toNat (some ns)).tickSendDown f
    else s))

/-! ### Edges (R48, R51, R60, R67, R610, R679) -/

/-- A held change takes effect at the edge of its tick (R60, R61). DEDUCED: log entry 59. -/
def Tick.applyPending (t : Tick) : Tick :=
  match t.pendParam with
  | some p => if t.pendTick.toNat ≤ t.count.toNat then { t with param := p, pendParam := none } else t
  | none => t

/-- Every tile copies its event counters (R679). DEDUCED: log entry 58. -/
def State.evSnapshot (s : State) : State :=
  s.updHealth (fun h => { h with
    ev := h.ev.map (fun e => (e.1, { e.2 with cs := e.2.cs.map (fun c => (c.1, { c.2 with snap := c.2.value })) })),
    evSnapTick := s.tick.count.setWidth 32 })

/-- The interfaces' counts of the tick that has ended reach the collector (R610). -/
def State.sumCounts (s : State) : State :=
  let x := s.integ
  ((((s.intCtr 0x130 x.sumAbsorbed).intCtr 0x138 x.sumStale).intCtr 0x140 x.sumLate)).updInt (fun y => { y with
    sumAbsorbed := 0, sumStale := 0, sumLate := 0, postedTick := 0 })

/-- Threads that wait for an edge go on. -/
def State.wakeEdge (s : State) (w : Wait) : State :=
  s.touched.foldl (fun s t =>
    let s := s.updTile t (fun x => { x with
      threads := x.threads.map (fun e => if e.2.wait = w then (e.1, e.2.ready x.readySt) else e) })
    s.wake t) s

/-- Groups whose barrier for a tick is closed. -/
def State.closedMask (s : State) (n : Nat) : BitVec 16 := BitVec.ofNat 16 (maskOf 16 (fun g => decide (n ≤ (s.barrier g).closed)))

/-- The master's marker, on each downstream port in the first block after the edge. acc, the time from the edge to that block, is a
free value of each port's own. -/
def State.masterMarker (s : State) : State :=
  s.downPorts.foldl (fun s q =>
    let t := s.tick
    let n := t.count.toNat - 1
    let (acc, s) := s.free 12
    s.tickSend q { op := .tickMarker, src := s.ownId, marker := {
      tick := t.count, param := t.param, pend := t.pendParam, pendTick := t.pendTick, acc := acc.toNat, hops := 0,
      close := s.closedMask n, closeTick := BitVec.ofNat 64 n } }) s

/-- The tick unit at an edge that takes number n: the tick before it lasted its period. -/
def Tick.atEdge (t : Tick) (n : DWord) : Tick :=
  ({ t with
    count := n, inGuard := false, markerSeen := false, overPosted := false, missed := if t.state = .holdover then t.missed + 1 else 0
    skips := if t.count.toNat + 1 < n.toNat then smSet t.skips n.toNat t.count.toNat else t.skips
    stallEdges := t.stallEdges.map (fun e => (e.1, { e.2 with age := e.2.age + t.param.period.toNat })) } : Tick).applyPending

/-- An edge after which some group's barrier for the tick before is open may stall (R67). -/
def State.noteEdge (s : State) : State :=
  let n := s.tick.count.toNat
  if (List.range 16).all (fun g => decide (n ≤ (s.barrier g).closed + 1)) then s
  else s.updTick (fun t => { t with stallEdges := smSet t.stallEdges n {} })

/-- One more edge falls between a late task's deadline and its finish (R64). -/
def Task.lateEdge (k : Task) : Task := if k.missed ∧ k.phase ≠ .ending then { k with lateEdges := min 255 (k.lateEdges + 1) } else k
def Tile.lateEdge (x : Tile) : Tile := { x with task := x.task.map Task.lateEdge }

/-- A tick edge that sets the count to n: shares that nothing holds open close with it, and the others hold their tiles. -/
def State.edge (s : State) (n : DWord) : State :=
  let s := s.updTick (fun t => t.atEdge n)
  let last := n.toNat - 1
  let s := (s.closeShares ((List.range 16).filter (fun g => s.shareMayClose g last)) last none).noteEdge
  let s : State := { s with tiles := s.tiles.map (fun (e : Nat × Tile) => (e.1, e.2.lateEdge)) }
  let s := (s.sumCounts.evSnapshot).wakeEdge .tickEdge
  if s.tick.state = .master then s.masterMarker else s

/-- The module makes tick edges by its own clock: not Off, and a follower only once it has adopted a marker. -/
def Tick.ticks (t : Tick) : Bool :=
  match t.state with
  | .off => false
  | .acquiring => t.adopted
  | _ => true

/-- TICK_EDGE: the tick's period has passed. `upsets` are stored bytes and words whose parity has gone bad since the last
edge (R590). -/
def execTickEdge (upsets : List Place) (s : State) : Out :=
  .next (if s.tick.ticks then ({ s with bad := s.bad ++ upsets.filter (fun p => !s.bad.contains p) }).edge (s.tick.count + 1) else s)

/-! ### Markers and follower states (R52 to R61, R79, R463) -/

/-- Saturating s16 of an offset in units of 0.125 ns (R79). -/
def satOffset (n : Int) : BitVec 16 := BitVec.ofInt 16 (max (-32768) (min 32767 n))

/-- The marker's close bits and parameters are taken. A group closed by a marker's close bits counts no stall for the edge that the
marker belongs to (DESIGN CHOICE, log entry 115). Depth is the marker's hop count and one more (DESIGN CHOICE, log entry 116). -/
def State.takeMarker (s : State) (m : Marker) (offset : Int) : State :=
  let s := s.updTick (fun t => { t with
    depth := BitVec.ofNat 8 (m.hops + 1), param := m.param, pendParam := m.pend, pendTick := if m.pend.isSome then m.pendTick else t.pendTick,
    offset := satOffset offset })
  s.takeClose m.close m.closeTick.toNat none

/-- The follower's state after an accepted marker (R54, R56 to R58). Offsets are in units of 1/16 ns. A re-aligning follower makes no
edge until a marker's number exceeds its count (DESIGN CHOICE, log entry 117). -/
def State.follow (s : State) (m : Marker) (offset : Int) : State :=
  let t := s.tick
  let near := decide (m.tick = t.count) && decide (offset.natAbs ≤ 32)
  let deep := decide (32 < m.hops + 1)
  match t.state with
  | .acquiring =>
    if t.adopted && near then
      s.updTick (fun t => if 3 ≤ t.goodRun ∧ !deep then { t with state := .locked, goodRun := 0, markerSeen := true, missed := 0 }
        else { t with goodRun := t.goodRun + 1, markerSeen := true })
    else if t.count.toNat < m.tick.toNat then
      -- the next edge is the marker's, with the marker's number (R56, R58)
      (s.updTick (fun t => { t with adopted := true, goodRun := 0 })).edge m.tick
    else s.updTick (fun t => { t with adopted := false, goodRun := 0 })
  | .locked => if near then s.updTick (fun t => { t with markerSeen := true }) else s
  | .holdover | .freeRun =>
    if m.tick = t.count ∧ offset.natAbs ≤ 256 ∧ !deep then
      s.updTick (fun t => { t with state := .locked, missed := 0, markerSeen := true })
    else s.updTick (fun t => { t with state := .acquiring, adopted := false, goodRun := 0, missed := 0 })
  | _ => s

/-- Forward a marker on every downstream port: acc grows by the upstream port's delay and by the time from the arrival to the
outgoing block, which `turn` gives for each port. -/
def State.forwardMarker (s : State) (f : Frame) (delay : Nat) (turn : SMap Nat) : State :=
  s.downPorts.foldl (fun s q =>
    s.tickSend q { f with src := s.ownId, marker := { f.marker with acc := f.marker.acc + delay + smGetD turn q 0, hops := f.marker.hops + 1 } }) s

/-- TICK_MARKER: `arrival` is when its block arrived, in 1/16 ns from the module's last edge, and `turn` the time in 1/16 ns from
then to the block that carries it on, by port. The compensated edge is the arrival less acc, less the port's delay (R463), and the
offset is the local edge less the compensated edge. -/
def execTickMarker (id : Nat) (arrival : Int) (turn : SMap Nat) (s : State) : Out :=
  .next (s.treeFrame id .tickMarker (fun q f s =>
    let t := s.tick
    let m := f.marker
    if !t.enable then s
    else if t.role = 1 then (s.updTick (fun t => { t with conflict := true })).tickEvent 3
    else if t.role ≠ 2 ∨ q ≠ t.upstream.toNat then s
    else
      let delay := (s.fport q).delay.toNat
      let offset := (m.acc : Int) + (delay : Int) - arrival
      ((s.takeMarker m (offset / 2)).follow m offset).forwardMarker f delay turn))

/-- HOLDOVER_ENTRY: no marker within 2 ns after the predicted edge. -/
def execHoldoverEntry (s : State) : Out :=
  .next (
    if s.tick.state = .locked ∧ !s.tick.markerSeen then
      (s.updTick (fun t => { t with state := .holdover, missed := 0 })).tickEvent 4
    else s)

/-- FREE_RUN_ENTRY: the holdover limit has passed; every tile that the barrier holds is released (R465). The release is no close and
counts no stall (DESIGN CHOICE, log entry 115). -/
def execFreeRunEntry (s : State) : Out :=
  .next (
    if s.tick.state = .holdover ∧ s.tick.limitM1.toNat < s.tick.missed then
      let s := (s.updTick (fun t => { t with state := .freeRun })).tickEvent 5
      let n := s.tick.count.toNat - 1
      (List.range 16).foldl (fun s g => if (s.barrier g).closed < n then s.releaseGroup g n else s) s
    else s)

/-! ### TCK_CTRL (R48, R52, R74, R75) -/

/-- State on leaving Off, or when the role changes. -/
def roleState (role : BitVec 2) : TickState := if role = 0 then .standalone else if role = 1 then .master else .acquiring

/-- Clear the statistics. -/
def Tick.clearStats (t : Tick) : Tick := { t with stalls := 0, maxStall := 0, miss := [] }

/-- A write of TCK_CTRL. A change of role while enable stays 1 goes at once to the new role's running state (DESIGN CHOICE, log entry 118). -/
def State.tckCtrlWrite (s : State) (v : Word) : Option State :=
  let t := s.tick
  let role := BitVec.ofNat 2 (bits v.toNat 3 2)
  let up := BitVec.ofNat 5 (bits v.toNat 12 8)
  let en := v.getLsbD 0
  let changed := role != t.role || up != t.upstream || en != t.enable
  if role = 3 ∨ (changed ∧ s.anyBusy) then none
  else
    let t := if v.getLsbD 4 then t.clearStats else t
    let t := { t with role, upstream := up, enable := en }
    let t :=
      if !en then { t with state := .off, inGuard := false, adopted := false, goodRun := 0, missed := 0, depth := 0 }
      else if s.tick.enable ∧ role = s.tick.role then t
      else { t with state := roleState role, adopted := false, goodRun := 0, missed := 0, markerSeen := false, depth := 0 }
    some { s with tick := t }

/-- TCK_CTRL as it reads. -/
def Tick.ctrl (t : Tick) : Word := BitVec.ofNat 32 (b2n t.enable + t.role.toNat * 4 + t.upstream.toNat * 256)

/-- TICK_ENABLE: enable is set, the other fields keep their values. The first edge is the next TICK_EDGE. -/
def execTickEnable (a : Agent) (s : State) : Out :=
  .next (s.regWrite a 0 (fun s => s.tckCtrlWrite (s.tick.ctrl ||| 1#32)))

/-- CLEAR_STATS: clear_stats is written with the other fields at their values. -/
def execClearStats (a : Agent) (s : State) : Out :=
  .next (s.regWrite a 0 (fun s => s.tckCtrlWrite (s.tick.ctrl ||| 16#32)))

end Sys2Proof.Machine
end

