-- ==== Sys2Proof/Machine/BupOps.lean ====
section
/-!
DEFINITION. Resets below power-on as other commands use them (16 R629 to R638, R642 to R644, 15 R601, R606): epochs, what a
reset does to a tile, resets in progress, module reset, and the end of deep idle.
-/
namespace Sys2Proof.Machine

/-! ### Epochs and their limit (R601, R606) -/

/-- Keys of the units that hold epochs. -/
def tileKey (t : Nat) : Nat := t
def clusterKey (c : Nat) : Nat := 4096 + c
def partKey (p : Nat) : Nat := 8192 + p

/-- A reset `d` ticks ago lies surely within 2 ms; it may lie within 2 ms. -/
def State.surelyRecent (s : State) (n : Nat) : Bool :=
  s.tick.state != .off && decide ((s.tick.count.toNat - n + 1) * s.tick.param.period.toNat ≤ 2000000)
/-- DESIGN CHOICE: log entry 60. -/
def State.maybeRecent (s : State) (n : Nat) : Bool :=
  s.tick.state == .off || decide ((s.tick.count.toNat - n - 1) * s.tick.param.period.toNat < 2000000)

/-- R606 refuses a reset that would advance an epoch more than 64 times within 2 ms. The device counts time finer than the
model does: where ticks cannot decide, the outcome is a free value. -/
def State.resetLimit (s : State) (ks : List Nat) : Bool × State :=
  let n := fun (p : Nat → Bool) (k : Nat) => (s.bup.recent.filter (fun e => e.1 == k && p e.2)).length
  if ks.any (fun k => decide (64 ≤ n s.surelyRecent k)) then (true, s)
  else if !ks.any (fun k => decide (64 ≤ n s.maybeRecent k)) then (false, s)
  else
    let (v, s) := s.free 1
    (v == 1, s)

def bumpAll (m : SMap Byte) (ks : List Nat) : SMap Byte := ks.foldl (fun m k => smUpd m k 0 (fun e => e + 1)) m

/-- Epochs advance. -/
def State.advanceEpochs (s : State) (ts cs ps : List Nat) : State :=
  let s := s.updInt (fun x => { x with
    tileEpoch := bumpAll x.tileEpoch ts, clusterEpoch := bumpAll x.clusterEpoch cs, partEpoch := bumpAll x.partEpoch ps })
  let keys := ts.map tileKey ++ cs.map clusterKey ++ ps.map partKey
  let old := s.bup.recent.filter (fun e => s.maybeRecent e.2)
  s.updBup (fun b => { b with recent := old ++ keys.map (fun k => (k, s.tick.count.toNat)) })

/-! ### A tile's reset (R630 to R634) -/

/-- ABORT on every linked output that is not Closed, CLOSE on every linked input (R634). -/
def State.resetTokens (s : State) (t : Nat) : State :=
  (List.range 32).foldl (fun s k =>
    let x := s.slot t k
    if x.st = .idle ∨ x.st = .closed then s
    else if x.d.dir = 2 then s.sendToken t k (.abort t 0x0D)
    else if x.d.dir = 3 then s.sendToken t k .close
    else s) s

/-- Held tentative halves of a tile are requests not yet applied: answered ABSORBED (R607, R631). -/
def State.absorbHeld (s : State) (t : Nat) : State :=
  (s.tile t).str.slots.foldl (fun s e =>
    let x := e.2
    let s := if x.h0.held then s.ackHalf t x.d.peerTile x.h0 .absorbed else s
    let s := if x.h1.held then s.ackHalf t x.d.peerTile x.h1 .absorbed else s
    (s.updInt (fun y => { y with sumAbsorbed := y.sumAbsorbed + x.heldHalves })).winCtr t 0x148 x.heldHalves) s

/-- What a reset leaves of a tile: its set-up registers, error records and counters. -/
def Tile.afterReset (x : Tile) : Tile := {
  seqTask := x.seqTask, fault := x.fault, faultAddr := x.faultAddr, seqCtr := x.seqCtr, arrErr := x.arrErr, arrCtr := x.arrCtr,
  vecErr := x.vecErr, vecCtr := x.vecCtr, mvpErr := x.mvpErr, mvpCtr := x.mvpCtr,
  str := { split := x.str.split, err := x.str.err, errAddr := x.str.errAddr, ctr := x.str.ctr },
  win := { err := x.win.err, ctr := x.win.ctr } }

/-- The tile's task, running or queued, ends with RESET_KILLED: a queued one is reported at once (R633). -/
def State.killTasks (s : State) (t : Nat) (old : Byte) : State :=
  let x := s.tile t
  let s := match x.task with
    | some k =>
      let ((thr, unit, pc, addr), s) := s.endFields 0x0D 0 0 0 0
      (s.updTile t (fun x => x.recordEnd 0x0D thr unit pc addr)).updBup (fun b => { b with killed := b.killed ++ [{ tile := t, launch := k.launch, epoch := old }] })
    | none => s
  x.queue.foldl (fun s l => s.endLaunch t l 0x0D) s

/-- Steps 1 and 2 of R630 on a tile whose epoch has just advanced from `old`. -/
def State.resetTile (s : State) (t : Nat) (old : Byte) (tokens : Bool) : State :=
  let s := if tokens then s.resetTokens t else s
  let s := s.strCtr t 0x118 ((s.tile t).str.slots.foldl (fun n e => n + e.2.begunHalves) 0)
  let s := (((s.absorbHeld t).killTasks t old).rowsLost t).stopWinnow t
  let s : State := { s with
    accesses := s.accesses.filter (fun a => !(a.issuer == .tile t && a.held)), bad := s.bad.filter (fun p => !p.ofTask t) }
  ((s.zeroMem (tileBase t) 0x170000).updTile t Tile.afterReset).updCtl t (fun c => { c with
    power := .resetting, inReset := true, fetched := false, sigDue := false, halted := false })

/-- A tile is parked or put into deep idle: reset to step 2, then powered off; its interface answers ABSENT (R638, R642, R643). DEDUCED: log entry 69. -/
def State.powerOff (s : State) (t : Nat) (old : Byte) : State :=
  (s.resetTile t old false).updCtl t (fun c => { c with power := .off, inReset := false })

/-! ### Resets in progress (R629, R635, R645, R649, R654) -/

/-- Scopes of BUP_RESET_LAST. -/
def scopeTile : Nat := 0
def scopeCluster : Nat := 1
def scopePartition : Nat := 2
def scopeModule : Nat := 3

/-- A reset starts: BUP_RESET_LAST and its counter. -/
def State.noteReset (s : State) (scope target issuer : Nat) : State :=
  (s.updBup (fun b => { b with
    resetLast := BitVec.ofNat 64 (scope * 2 ^ 62 + issuer * 2 ^ 60 + target * 2 ^ 32 + s.tick.count.toNat % 2 ^ 32) })).bupCtr (0x300 + 8 * scope) 1

/-- Start a reset of tiles: their epochs have advanced from `old`. -/
def State.startTiles (s : State) (old : State) (scope target issuer : Nat) (ts : List Nat) (ring : Option (Nat × Nat)) (tokens : Bool) : State :=
  let s := s.noteReset scope target issuer
  let ts := ts.filter s.resettable
  let s := ts.foldl (fun s t => s.resetTile t (old.tileEpoch t) tokens) s
  let s := s.updBup (fun b => { b with resets := b.resets ++ [{ scope, target, issuer, tiles := ts, ring }] })
  s.settleResets

/-- A tile reset. -/
def State.resetOneTile (s : State) (t issuer : Nat) (ring : Option (Nat × Nat)) : State :=
  (s.advanceEpochs [t] [] []).startTiles s scopeTile t issuer [t] ring true

/-- A cluster reset. -/
def State.resetCluster (s : State) (c issuer : Nat) (ring : Option (Nat × Nat)) : State :=
  (s.advanceEpochs (clusterTiles c) [c] []).startTiles s scopeCluster c issuer (clusterTiles c) ring true

/-- Granary buckets of a partition are full again (R411, R630). -/
def State.refillBuckets (s : State) (p : Nat) : State :=
  (List.range s.part.nStacks).foldl (fun s k =>
    match smGet (s.stack k).resv p with
    | some r => s.updStack k (fun x => { x with resv := smSet x.resv p { r with tokens := r.burst.toNat * 1024 * 65536 } })
    | none => s) s

/-- Clusters and units of a partition. -/
def State.partClusters (s : State) (p : Nat) : List Nat := (List.range Config.clusters).filter (fun c => (s.partRec p).clusters.getLsbD c)
def State.partKeys (s : State) (p : Nat) : List Nat :=
  (s.partTiles p).map tileKey ++ (s.partClusters p).map clusterKey ++ [partKey p]

/-- A partition reset: its tiles, its regions (R564, R576) and its buckets. DEDUCED: log entry 72. -/
def State.resetPartition (s : State) (p issuer : Nat) (ring : Option (Nat × Nat)) : State :=
  let s1 := s.advanceEpochs (s.partTiles p) (s.partClusters p) [p]
  let s1 := (s.partRegions p).foldl (fun s r => (s.killLoads r).resetRegion r) s1
  (s1.refillBuckets p).startTiles s scopePartition p issuer (s.partTiles p) ring false

/-! ### Functions go Idle (R537 step 5) -/

/-- Commands of rings that are gone run to their end without a record (R537). A load keeps a number of its own. -/
def State.orphanJobs (s : State) (gone : Nat → Bool) : State :=
  let free := fun (x : Option (Nat × Nat)) => if x.any (fun e => gone e.1) then none else x
  let k := 65536 * (1 + s.fab.nextTag)
  let s : State := { s with loads := s.loads.map (fun l => if gone l.ring then { l with ring := l.ring + k } else l) }
  let s := s.updFab (fun x => { x with nextTag := x.nextTag + 1 })
  let s := s.updBup (fun b => { b with
    resets := b.resets.map (fun j => { j with ring := free j.ring }), fwJob := b.fwJob.map (fun j => { j with ring := free j.ring }) })
  s.updHealth (fun h => { h with jobs := h.jobs.map (fun j => { j with ring := free j.ring }) })

/-- The function's rings are discarded; its incarnation advances and it is Idle. DEDUCED: log entry 68. -/
def State.functionIdle (s : State) (d f : Nat) : State :=
  let s := s.orphanJobs (fun r => match smGet s.rings r with | some x => x.port == d && x.fn == f | none => false)
  let s : State := { s with rings := s.rings.filter (fun e => !(e.2.port == d && e.2.fn == f)) }
  (s.updFunc d f (fun x => { x with
    st := .idle, enable := false, incarnation := x.incarnation + 1, evWritten := 0, evHead := 0, evDropped := 0 })).hstCtr d 0x140 1

/-! ### Module reset (R636, R637) -/

/-- Rings, copies, reductions and multicasts of the ring engines are gone; every reduction under way has failed (R459). -/
def State.clearHost (s : State) : State :=
  let s := s.fab.reductions.foldl (fun s r =>
    let d := s.redUnit r.id.group
    (s.kfbCtr d 0x270 1).kfbErr d 5 0 s.ownId r.id.group) s
  let s := s.funcs.foldl (fun s e => if e.2.st = .idle then s else s.functionIdle (e.1 / 2048) (e.1 % 2048)) s
  let s : State := { s with tenants := [], rings := [], xsvc := [], funcs := s.funcs.map (fun e => (e.1, { e.2 with tenant := none, quota := 0 })) }
  s.updFab (fun x => { x with copies := [], reductions := [], mcasts := x.mcasts.filter (fun m => m.ring.isNone) })

/-- Reservations and refresh bookkeeping of a stack. -/
def Stack.moduleReset (x : Stack) : Stack :=
  { x with resv := [], pchs := x.pchs.map (fun e => (e.1, { e.2 with credit := 0, acts := [], refreshes := 0 })) }

/-- A tile in a module reset: reset, and without power until its wave. -/
def State.moduleTile (s : State) (t : Nat) (old : Byte) : State :=
  (s.resetTile t old false).updCtl t (fun c => { c with power := .off, reported := false })

/-- Deep idle's keep values are the owner's again (R643, R644). -/
def State.restoreKeep (s : State) : State :=
  (s.bup.savedKeep.foldl (fun (s : State) e => s.updStack e.1 (fun x => { x with keep := e.2 })) s).updBup (fun b => { b with savedKeep := [] })

/-- The module domain is initialised anew: what R637 clears, and the steps of R636 up to the wake of the tiles. -/
def State.reinit (s : State) : State :=
  let old := s
  let ts := (List.range Config.tiles).filter (fun t => !s.fusedOff t && !(s.ctl t).disabled)
  let s := s.advanceEpochs (List.range Config.tiles) (List.range Config.clusters) (List.range Config.partitions)
  let s := ts.foldl (fun s t => if s.resettable t then s.moduleTile t (old.tileEpoch t)
    else s.updCtl t (fun c => { c with inReset := !s.bup.park.getLsbD (tileCluster t), reported := false })) s
  let s := (List.range 32).foldl (fun s r => ((s.killLoads r).emptyRegion r)) s
  let s := s.clearHost.restoreKeep
  let s : State := { s with parts := [], hbm := s.hbm.map (fun e => (e.1, e.2.moduleReset)) }
  s.updBup (fun b => { b with ready := false, wavesDone := 0, wavesStarted := 0, resets := [], deep := false, exiting := false })

/-- A module reset starts. -/
def State.moduleReset (s : State) (issuer : Nat) : State :=
  ((s.noteReset scopeModule 0 issuer).reinit).updBup (fun b => { b with phase := 8 })

/-! ### Deep idle ends (R644) -/

/-- Exit from deep idle begins: keep values are restored, stopped regions run, and the tiles wake from step 3 of R630. -/
def State.deepExit (s : State) (cause : Nat) : State :=
  if !s.bup.deep || s.bup.exiting || !s.bup.grangerUp then s
  else
    let s := s.restoreKeep
    let s : State := { s with regions := s.regions.map (fun e => (e.1, if e.2.stopped then { e.2 with stopped := false, epoch := s.regionEpoch e.1 } else e.2)) }
    let s := (List.range Config.tiles).foldl (fun (s : State) t =>
      if s.tileUsable t && (s.ctl t).power == .off && !s.bup.park.getLsbD (tileCluster t) then
        s.updCtl t (fun c => { c with power := .resetting, fetched := false })
      else s) s
    (s.updBup (fun b => { b with exiting := true, exitCause := cause })).settleResets

end Sys2Proof.Machine
end

