-- ==== Sys2Proof/Machine/Host.lean ====
section
/-!
DEFINITION. Host ports and rings (13 R503 to R528, R537 to R547): reports, doorbells, descriptors other than critical
commands, and functions that start and stop.
-/
namespace Sys2Proof.Machine

/-! ### Reports from tiles (R64, R68, R248, R524, R526) -/

/-- START_REPORT: the task before has started; the ring may send its next launch. -/
def execStartReport (id : Nat) (s : State) : Out :=
  .next (s.control id (fun p s =>
    match p.msg with
    | .startReport r seq => (s.dropPkt id).updHeld r seq (fun h => { h with launchSent := false, st := .started })
    | _ => s))

/-- A task of a partition has passed its deadline: counted, and posted for a Hard partition (R64). -/
def State.countMiss (s : State) (r seq part tile : Nat) : State :=
  let s := s.updTick (fun t => { t with miss := smUpd t.miss part 0 (fun v => satAdd 48 v 1) })
  match smGet s.rings r with
  | some x => if (s.tickCfg part).hard then s.event x.port x.fn 1 part tile (r * 2 ^ 32 + seq % 2 ^ 32) else s
  | none => s

/-- MISS_NOTICE. -/
def execMissNotice (id : Nat) (s : State) : Out :=
  .next (s.control id (fun p s =>
    match p.msg with
    | .miss r seq part => (s.dropPkt id).countMiss r seq part p.src.router
    | _ => s))

/-- The record of a task's report. -/
def TaskReport.record (r : TaskReport) (tile : Nat) : Record := {
  status := BitVec.ofNat 8 r.code, flags := r.flags,
  info := BitVec.ofNat 5 (b2n r.late + 2 * b2n r.second + 4 * b2n r.ctxSaved), lateCount := BitVec.ofNat 8 r.lateCount,
  tile := BitVec.ofNat 16 tile, fault := BitVec.ofNat 6 (r.fThread + 8 * r.fUnit), faultAddr := r.fAddr, faultPc := r.fPc,
  originTile := BitVec.ofNat 16 r.origin, originCode := BitVec.ofNat 8 r.originCode, startTick := r.startTick }

/-- The completion report of a ring that has arrived first. -/
def State.reportFor (s : State) (r : Nat) : Option Nat :=
  (s.net.pkts.find? (fun e => e.2.op == .control && e.2.out && s.firstOnPath e.2
    && (match e.2.msg with | .report x => x.ring == r | _ => false))).map (·.1)

/-- COMPLETION_REPORT: a task's report reaches its ring engine, and records that are due are written in ring order. -/
def execCompletionReport (r : Nat) (s : State) : Out :=
  .next (
    match s.reportFor r with
    | none => s
    | some id =>
      s.control id (fun p s =>
        match p.msg with
        | .report x =>
          ((s.dropPkt id).updHeld r x.seq (fun h => { h with launchSent := false, extents := x.extents })).finish r x.seq (x.record p.src.router)
        | _ => s))

/-! ### Doorbells and fetches (R511 to R513) -/

/-- Rings of a function, by rising number. -/
def State.fnRings (s : State) (d f : Nat) : SMap Ring := s.rings.filter (fun e => e.2.port == d && e.2.fn == f)

/-- The engine of a port serves a function: the port's engine is enabled, its link is up and the function runs. -/
def State.fnServed (s : State) (d f : Nat) : Bool :=
  decide (d < s.part.nIoDies) && (s.hostDie d).enable && (s.hostDie d).linkUp && (s.func d f).st == .running

/-- A ring's doorbell word as read. -/
def State.doorbell (s : State) (r : Nat) (w : DWord) : State :=
  match smGet s.rings r with
  | none => s
  | some x =>
    let tail := w.toNat % 2 ^ 32
    let head := w.toNat / 2 ^ 32
    let n := 2 ^ x.sizeLog2
    if x.stopped then s
    else if n < (tail + 2 ^ 32 - x.fetched % 2 ^ 32) % 2 ^ 32 then s.ringFault r 1 x
    else if n < (x.recorded + 2 ^ 32 - head) % 2 ^ 32 then s.ringFault r 2 x
    else
      let ready := (tail + 2 ^ 32 - x.fetched % 2 ^ 32) % 2 ^ 32
      let room := n - (x.fetched + 2 ^ 32 - head) % 2 ^ 32
      let want := min (min (min ready room) (min 8 (heldMax - x.held.length))) (n - x.fetched % n)
      s.updRing r (fun x => { x with
        subTail := BitVec.ofNat 32 tail, compHead := BitVec.ofNat 32 head,
        toFetch := if x.toFetch = 0 ∧ x.destroying.isNone then want else x.toFetch })

/-- DOORBELL_POLL: one function's turn. `words` is what the reads of the slots in use bring; that of a slot that is not listed fails. -/
def execDoorbellPoll (d f : Nat) (words : SMap (HostData DWord)) (s : State) : Out :=
  .next (
    if !s.fnServed d f then s
    else
      let rs := s.fnRings d f
      let slots := rs.map (fun e => (e.2.slot, some e.1)) ++ (if (s.func d f).hasEvents then [(1, none)] else [])
      let s := s.hstCtr d 0x100 ((slots.map (fun e => e.1 / 8)).eraseDups.length)
      slots.foldl (fun s e =>
        match smGetD words e.1 .failed, e.2 with
        | .ok w, some r => s.doorbell r w
        | .ok w, none => s.updFunc d f (fun x => { x with evHead := BitVec.ofNat 32 (w.toNat / 2 ^ 32) })
        | bad, r => s.hostReadErr d f (r.getD 0) bad) s)

/-- A descriptor that is reserved as a whole: no row of the table starts it (R516, R532). -/
def reservedDesc (b : BitVec 1024) : Bool :=
  let ty := dfield b 0 1
  let op := dfield b 2 1
  if ty = 0x10 then
    op == 0 || decide (8 < op) || (op == 2 && decide (3 < dfield b 8 1)) || (op == 4 && decide (4 < dfield b 8 1))
  else !([1, 2, 3, 4, 5, 6, 8, 9].contains ty)

/-- DESCRIPTOR_FETCHED: the read of a ring's next descriptors returns. DESIGN CHOICE: log entry 110. -/
def execDescriptorFetched (r : Nat) (data : HostData (List (BitVec 1024))) (s : State) : Out :=
  .next (
    match smGet s.rings r with
    | none => s
    | some x =>
      if x.toFetch = 0 ∨ !s.fnServed x.port x.fn then s
      else
        match data with
        | .ok ds =>
          let new := (List.range x.toFetch).map (fun i =>
            let b := (ds[i]?).getD 0
            ({ seq := x.fetched + i, bytes := b,
               st := if reservedDesc b then .done { status := BitVec.ofNat 8 BAD_DESCRIPTOR } else .fetched } : Held))
          let s := s.updRing r (fun x => { x with fetched := x.fetched + x.toFetch, toFetch := 0, held := x.held ++ new })
          ((s.hstCtr x.port 0x108 x.toFetch).deepExit 1).flushRing r (heldMax + 1)
        | bad =>
          ((s.updRing r (fun x => { x with
            fetched := x.fetched + 1, stopped := true, toFetch := 0, readFault := true,
            held := x.held ++ [{ seq := x.fetched, bytes := 0, st := .done { status := BitVec.ofNat 8 HOST_FAULT } }] })).hostReadErr x.port x.fn r
              bad).flushRing r (heldMax + 1))

/-! ### TASK (R59, R62, R65, R248, R518) -/

/-- Layout of a TASK. -/
def taskOk (b : BitVec 1024) : Bool :=
  let len := dfield b 0x20 4
  let entry := dfield b 0x16 2
  let opts := dfield b 0x15 1
  let ctx := dfield b 0x30 8
  plainLayout b [(0x08, 0x23), (0x28, 0x5F)] && decide (1 ≤ dfield b 0x10 1) && dfield b 0x14 1 != 0 && decide (opts < 16)
    && decide (8 ≤ len) && decide (len ≤ 57344) && len % 8 == 0 && entry % 8 == 0 && decide (0x2000 ≤ entry)
    && decide (entry + 8 ≤ 0x2000 + len) && ctx % 64 == 0 && (bitN opts 0 || decide (ctx ≤ 0x13E700)) && dfield b 0x58 8 % 32 == 0

/-- The launch that a TASK descriptor asks for, with its resolved start tick (R62). -/
def State.launchOf (s : State) (r : Nat) (x : Ring) (h : Held) (tenant : Nat) : Launch :=
  let b := h.bytes
  let opts := dfield b 0x15 1
  let st := dfield b 0x08 8
  { ioDie := x.port, ring := r, seq := h.seq, tenant, part := dfield b 0x11 1, epoch := s.partEpoch (dfield b 0x11 1),
    start := if st = 0 then (if s.tick.inGuard then s.tick.count + 1 else s.tick.count) else BitVec.ofNat 64 st,
    span := dfield b 0x10 1, mask := BitVec.ofNat 8 (dfield b 0x14 1), entry := BitVec.ofNat 16 (dfield b 0x16 2),
    args := (List.range 4).map (fun i => BitVec.ofNat 64 (dfield b (0x38 + 8 * i) 8)),
    progAddr := BitVec.ofNat 64 (dfield b 0x18 8), progLen := dfield b 0x20 4, progTag := BitVec.ofNat 64 (dfield b 0x28 8),
    ctxAddr := BitVec.ofNat 64 (dfield b 0x30 8), ctxVa := bitN opts 0, load := bitN opts 1, save := bitN opts 2, keep := bitN opts 3 }

/-- The tile is enabled and in the partition, which the tenant holds (R508, R518). -/
def State.mayLaunch (s : State) (tenant part tile : Nat) : Bool :=
  decide (part < Config.partitions) && (s.partRec part).tenant == some tenant && s.tileUsable tile && s.partOfTile tile == some part

/-- Launches that a tile holds or that are on their way to it (R248). -/
def State.launchesAt (s : State) (t : Nat) : Nat :=
  (s.tile t).queue.length + (s.net.pkts.filter (fun e => e.2.dst == tileEnd t && (match e.2.msg with | .launch _ => true | _ => false))).length

/-- TASK: the next descriptor of a ring is a task: checked against the state as it stands, and launched when it may be. -/
def execTask (r : Nat) (s : State) : Out :=
  .next (s.startDesc r 1 (fun x h s =>
    if !taskOk h.bytes then s.finishWith r h.seq BAD_DESCRIPTOR
    else
      let tile := dfield h.bytes 0x12 2
      let part := dfield h.bytes 0x11 1
      match s.ringTenant x with
      | none => s.finishWith r h.seq NOT_PERMITTED
      | some tenant =>
        if !s.mayLaunch tenant part tile then s.finishWith r h.seq NOT_PERMITTED
        else
          let hard := (s.tickCfg part).hard
          let l := s.launchOf r x h tenant
          if s.bup.deep || (hard && !s.hardMayStart) || decide (4 ≤ s.launchesAt tile) then s
          else if hard && s.aborts part && s.pastGuard l.deadline then
            (s.countMiss r h.seq part tile).finishWith r h.seq 1
          else (s.sendMsg (tileIo x.port tile) (tileEnd tile) (.launch l) part l.epoch l.tenant).updHeld r h.seq (fun h => { h with launchSent := true })))

/-! ### COPY and MCAST (R371, R447, R519, R520) -/

/-- Layout of a COPY. -/
def copyOk (b : BitVec 1024) : Bool :=
  let sp := dfield b 0x20 1
  let size := dfield b 0x18 8
  plainLayout b [(0x08, 0x20)] && decide (1 ≤ size) && decide (size ≤ 2 ^ 30) && decide (sp < 16) && sp % 4 != 3 && sp / 4 != 3
    && !(sp % 4 == 1 && sp / 4 == 1)

/-- Offset at which a module-local range first meets the set-up window (R517). -/
def windowOffset (space a size : Nat) : Option Nat :=
  if space ≠ 2 then none
  else if a < 0x30100000000 ∧ 0x30000000000 < a + size then some (0x30000000000 - a)
  else none

/-- A space that the ring may use: the tenant's needs a tenant, the module's own a PF (R508, R517). -/
def State.spaceOk (s : State) (x : Ring) (space : Nat) : Bool :=
  match space with
  | 0 => (s.ringTenant x).isSome
  | 1 => true
  | _ => x.fn == 0

/-- COPY: a copy starts; at most 16 of an engine run between module memories (R447). -/
def execCopy (r : Nat) (s : State) : Out :=
  .next (s.startDesc r 2 (fun x h s =>
    let b := h.bytes
    let sp := dfield b 0x20 1
    let src := dfield b 8 8
    let dst := dfield b 0x10 8
    let size := dfield b 0x18 8
    if !copyOk b then s.finishWith r h.seq BAD_DESCRIPTOR
    else if !s.spaceOk x (sp % 4) || !s.spaceOk x (sp / 4) then s.finishWith r h.seq NOT_PERMITTED
    else
      match windowOffset (sp % 4) src size, windowOffset (sp / 4) dst size with
      | some o, o' => s.finish r h.seq { status := BitVec.ofNat 8 BUS_ERROR, result := BitVec.ofNat 64 (min o (o'.getD o)) }
      | none, some o => s.finish r h.seq { status := BitVec.ofNat 8 BUS_ERROR, result := BitVec.ofNat 64 o }
      | none, none =>
        if sp % 4 ≠ 1 ∧ sp / 4 ≠ 1 ∧ 16 ≤ s.engineCopies x.port then s
        else (s.started r h.seq).startCopy {
          die := x.port, ring := r, seq := h.seq, src := BitVec.ofNat 64 src, dst := BitVec.ofNat 64 dst, size,
          srcSpace := sp % 4, dstSpace := sp / 4, tenant := (s.ringTenant x).getD 0 }))

/-- A ring engine has no write of its own outstanding: what a multicast waits for (R70, R374). DEDUCED: log entry 63. -/
def State.engineQuiet (s : State) (d : Nat) : Bool :=
  !(s.accessesOf (.engine d)).any (fun a => a.req.op.ordered) && !s.fab.copies.any (fun c => c.lport.isNone && c.die == d)
    && !s.fab.mcasts.any (fun m => m.inPort.isNone && m.ring.isSome && m.die == d)

/-- Tiles of a rectangle. -/
def rectTiles (x0 x1 y0 y1 : Nat) : List Nat :=
  (List.range (y1 + 1 - y0)).flatMap (fun y => (List.range (x1 + 1 - x0)).map (fun x => 48 * (y0 + y) + (x0 + x)))

def rectOk (x0 x1 y0 y1 : Nat) : Bool := decide (x0 ≤ x1) && decide (x1 < 48) && decide (y0 ≤ y1) && decide (y1 < 48)

/-- Issue a torus multicast: one access, an acknowledgement due from every tile of the rectangle (R371, R373). -/
def State.torusMcast (s : State) (i : Issuer) (src : Endpoint) (pu : Purpose) (tenant part addr : Nat) (ts : List Nat) (data : List Byte)
    (epoch : Byte) : Option State :=
  (s.freeTag i).map (fun tag =>
    let p : Packet := { op := .mcastWrite, src, dst := tileEnd (ts.headD 0), dests := ts, pos := src.router, issuer := i, addr := BitVec.ofNat 64 addr,
                        size := data.length, data, tenant, part, epoch }
    s.issue { s.mkAccess i tag pu p none with mcDue := ts.length })

/-- MCAST: `data` is what the read of host memory at src brings. -/
def execMcast (r : Nat) (data : HostData (List Byte)) (s : State) : Out :=
  .next (s.startDesc r 3 (fun x h s =>
    let b := h.bytes
    let mode := dfield b 0x1A 1
    let n := dfield b 0x18 1 + 1
    let addr := dfield b 8 8
    let part := dfield b 0x1B 1
    let rc := fun (i : Nat) => dfield b (0x1E + i) 1
    let gr := s.group x.port (dfield b 0x1C 2)
    let g := gr.1
    let ended := fun (st : Nat) => s.finishWith r h.seq st
    if !plainLayout b [(0x08, 0x18), (0x1A, 0x21)] ∨ 1 < mode ∨ (mode = 0 ∧ 4096 ≤ dfield b 0x1C 2) then ended BAD_DESCRIPTOR
    else
      match s.ringTenant x with
      | none => ended NOT_PERMITTED
      | some tenant =>
        if mode = 0 ∧ g.valid ∧ g.tenant ≠ tenant then gr.2.finishWith r h.seq NOT_PERMITTED
        else if mode = 0 ∧ !g.valid then gr.2.finishWith r h.seq BUS_ERROR
        else if mode = 1 ∧ (64 ≤ part ∨ (s.partRec part).tenant ≠ some tenant) then ended NOT_PERMITTED
        else if mode = 1 ∧ !rectOk (rc 0) (rc 1) (rc 2) (rc 3) then ended BUS_ERROR
        else if !s.engineQuiet x.port then s
        else
          match data with
          | .ok bs =>
            let bs := slice bs 0 n
            if mode = 0 then
              match (s.started r h.seq).mcastSend x.port (dfield b 0x1C 2) tenant addr bs 2 0 (some (r, h.seq)) none with
              | .sent s' => s'
              | _ => s
            else
              let ts := rectTiles (rc 0) (rc 1) (rc 2) (rc 3)
              let low := ts.headD 0
              (((s.started r h.seq).torusMcast (.engine x.port) (tileIo x.port low) (.mcast r h.seq) tenant part addr ts bs
                (s.partEpoch part))).getD s
          | bad => (s.hostReadErr x.port x.fn r bad).finishWith r h.seq HOST_FAULT))

/-! ### REDUCE (R455 to R457, R521) -/

/-- Layout of a REDUCE. -/
def reduceOk (b : BitVec 1024) : Bool :=
  let op := dfield b 0x0E 1
  let ty := dfield b 0x0F 1
  let n := dfield b 0x10 4
  let l := dfield b 0x14 1
  plainLayout b [(0x08, 0x15), (0x18, 0x2F)] && decide (dfield b 0x0C 2 < 1024) && decide (op ≤ 2)
    && (if op = 0 then [0, 1, 4, 5, 6].contains ty else decide (ty ≤ 5))
    && decide (1 ≤ n) && decide (n ≤ 2 ^ 22) && [1, 2, 4, 8, 16, 32, 64].contains l && decide (dfield b 0x15 1 ≤ 1)

/-- The elements of bytes. -/
def elements (size : Nat) : Nat → List Byte → List DWord
  | 0, _ => []
  | n + 1, bs => BitVec.ofNat 64 (ofLe (bs.take size)) :: elements size n (bs.drop size)

/-- Read a member's leaf vectors: their bytes, or the status and offset of the failure. DESIGN CHOICE: log entry 48. -/
def State.readLeaves (s : State) (d tenant : Nat) (a stride bytes : Nat) : Nat → Nat → Except (Nat × Nat) (List (List Byte)) × State
  | 0, _ => (.ok [], s)
  | k + 1, i =>
    match s.fetchVa d tenant (BitVec.ofNat 64 (a + i * stride)) bytes none with
    | (.ok b, s) =>
      match s.readLeaves d tenant a stride bytes k (i + 1) with
      | (.ok l, s) => (.ok (b :: l), s)
      | (.error e, s) => (.error e, s)
    | (.untranslated o, s) => (.error (TRANSLATION_FAULT, o), s)
    | (.failed o, s) => (.error (BUS_ERROR, o), s)

/-- REDUCE: this member's leaves are read and combined; one reduction of a group runs at a time on a member. DEDUCED: log entry 62. -/
def execReduce (r : Nat) (s : State) : Out :=
  .next (s.startDesc r 4 (fun x h s =>
    let b := h.bytes
    let gi := dfield b 0x0C 2
    let l := dfield b 0x14 1
    let ty := dfield b 0x0F 1
    let n := dfield b 0x10 4
    if !reduceOk b then s.finishWith r h.seq BAD_DESCRIPTOR
    else
      let gr := s.redGroup gi
      let g := gr.1
      let s := gr.2
      match s.ringTenant x with
      | none => s.finishWith r h.seq NOT_PERMITTED
      | some tenant =>
        if !g.valid ∨ g.tenant ≠ tenant then s.finishWith r h.seq NOT_PERMITTED
        else if s.fab.reductions.any (fun q => q.id.group == gi) then s
        else
          match s.readLeaves (s.redUnit gi) tenant (dfield b 0x18 8) (dfield b 0x20 8) (n * elemBytes ty) l 0 with
          | (.error e, s) => s.finish r h.seq { status := BitVec.ofNat 8 e.1, result := BitVec.ofNat 64 e.2 }
          | (.ok vs, s) =>
            let v := redLeaves (dfield b 0x0E 1) ty (Nat.log2 l) (vs.map (fun bs => elements (elemBytes ty) n bs))
            let k := s.fab.nextTag
            let red : Reduction := {
              num := k, ring := r, seq := h.seq, n := g.n, rank := g.rank, tenant, result := BitVec.ofNat 64 (dfield b 0x28 8), vec := v.1, flags := v.2,
              id := { group := gi, rseq := BitVec.ofNat 32 (dfield b 8 4), op := dfield b 0x0E 1, etype := ty, count := n, leaves := l,
                      reduce := dfield b 0x15 1 == 1 } }
            ((s.started r h.seq).updFab (fun f => { f with reductions := f.reductions ++ [red], nextTag := k + 1 })).redAdvance k redLevels))

/-! ### XINV and NOP (R516, R522, R557) -/

/-- A leaf of a tenant meets a range of virtual addresses; size 0 is all of them. -/
def Leaf.meets (l : Leaf) (tenant va size : Nat) : Bool :=
  l.tenant == tenant && (size == 0 || (decide (l.vpn * 2 ^ l.log2 < va + size) && decide (va < (l.vpn + 1) * 2 ^ l.log2)))

/-- Drop every cached leaf of a range: translation services, tiles and logic ports. -/
def State.invalidate (s : State) (tenant va size : Nat) : State :=
  let keep := fun (c : List Leaf) => c.filter (fun l => !l.meets tenant va size)
  { s with
    xsvc := s.xsvc.map (fun e => (e.1, keep e.2))
    tiles := s.tiles.map (fun (e : Nat × Tile) => (e.1, { e.2 with str := { e.2.str with tlb := keep e.2.str.tlb } }))
    lports := s.lports.map (fun (e : Nat × LPort) => (e.1, { e.2 with tlb := keep e.2.tlb })) }

/-- XINV: it waits for answers with such a leaf that are still on their way. DEDUCED: log entry 64. -/
def execXinv (r : Nat) (s : State) : Out :=
  .next (s.startDesc r 5 (fun x h s =>
    let b := h.bytes
    let va := dfield b 8 8
    let size := dfield b 0x10 8
    if !plainLayout b [(0x08, 0x17)] ∨ va % 65536 ≠ 0 ∨ size % 65536 ≠ 0 then s.finishWith r h.seq BAD_DESCRIPTOR
    else
      match s.ringTenant x with
      | none => s.finishWith r h.seq NOT_PERMITTED
      | some tenant =>
        if s.net.pkts.any (fun e => match e.2.msg with | .xlateRsp _ _ (some l) => l.meets tenant va size | _ => false) then s
        else (s.invalidate tenant va size).finishWith r h.seq 0))

/-- NOP. -/
def execNop (r : Nat) (s : State) : Out :=
  .next (s.startDesc r 6 (fun _ h s => s.finishWith r h.seq (if plainLayout h.bytes [] then 0 else BAD_DESCRIPTOR)))

/-! ### Ring pairs (R509, R523) -/

/-- The lowest ring number of a port that no pair has. -/
def State.freeRing (s : State) (d : Nat) : Option Nat :=
  let used := (s.rings.filter (fun e => e.2.port == d)).map (·.1)
  ((List.range 2048).map (fun k => 2048 * d + k)).find? (fun k => !used.contains k)

/-- Quotas that are bound on a port (R509). -/
def State.quotaSum (s : State) (d : Nat) : Nat :=
  s.funcs.foldl (fun n e => if e.1 / 2048 = d then n + e.2.quota else n) 0

/-- Pairs that a function may hold beside its admin pair. -/
def State.ringQuota (s : State) (d f : Nat) : Nat :=
  match (s.func d f).tenant with
  | some _ => (s.func d f).quota
  | none => if f = 0 then 2048 - s.quotaSum d else 0

/-- RING_CREATE, on an admin ring alone. -/
def execRingCreate (r : Nat) (s : State) : Out :=
  .next (s.startDesc r 8 (fun x h s =>
    let b := h.bytes
    let slot := dfield b 0x1A 2
    let k := dfield b 0x18 1
    let mine := s.fnRings x.port x.fn
    if x.slot ≠ 0 ∨ !plainLayout b [(0x08, 0x18), (0x1A, 0x1B)] ∨ dfield b 8 8 % 4096 ≠ 0 ∨ dfield b 0x10 8 % 4096 ≠ 0 ∨ k < 4 ∨ 16 < k
        ∨ slot < 2 ∨ 1023 < slot ∨ mine.any (fun e => e.2.slot == slot) then
      s.finishWith r h.seq BAD_DESCRIPTOR
    else
      match s.freeRing x.port with
      | none => s.finishWith r h.seq NOT_PERMITTED
      | some n =>
        if s.ringQuota x.port x.fn < mine.length then s.finishWith r h.seq NOT_PERMITTED
        else
          let s : State := { s with rings := smSet s.rings n {
            port := x.port, fn := x.fn, sq := BitVec.ofNat 64 (dfield b 8 8), cq := BitVec.ofNat 64 (dfield b 0x10 8), sizeLog2 := k, slot } }
          s.finish r h.seq { result := BitVec.ofNat 64 n }))

/-- RING_DESTROY: the pair fetches nothing more; it is discarded once its held tasks have their records. DEDUCED: log entry 65. -/
def execRingDestroy (r : Nat) (s : State) : Out :=
  .next (s.startDesc r 9 (fun x h s =>
    let n := dfield h.bytes 8 2
    if x.slot ≠ 0 ∨ !plainLayout h.bytes [(0x08, 0x09)] ∨ n = r then s.finishWith r h.seq BAD_DESCRIPTOR
    else
      match smGet s.rings n with
      | none => s.finishWith r h.seq NOT_PERMITTED
      | some y =>
        if y.port ≠ x.port ∨ y.fn ≠ x.fn ∨ y.destroying.isSome then s.finishWith r h.seq NOT_PERMITTED
        else if y.held.isEmpty then ({ s with rings := smErase s.rings n }).finishWith r h.seq 0
        else (s.started r h.seq).updRing n (fun y => { y with stopped := true, toFetch := 0, destroying := some (r, h.seq) })))

/-! ### Functions stop and start (R503, R537 to R541) -/

/-- A launch of the function's rings. -/
def State.ofFn (s : State) (d f r : Nat) : Bool := match smGet s.rings r with | some x => x.port == d && x.fn == f | none => false

/-- Steps 1 to 3 of R537. DEDUCED: log entry 66. -/
def State.stopFn (s : State) (d f : Nat) : State :=
  if (s.func d f).st ≠ .running then s
  else
    let mine := s.ofFn d f
    let s := s.updFunc d f (fun x => { x with st := .stopping, enable := false })
    let s := s.touched.foldl (fun s t => s.updTile t (fun x => { x with queue := x.queue.filter (fun l => !mine l.ring) })) s
    let s : State := { s with net := { s.net with pkts := s.net.pkts.filter (fun e => match e.2.msg with | .launch l => !mine l.ring | _ => true) } }
    let s := s.touched.foldl (fun s t =>
      match (s.tile t).task with
      | some k => if mine k.launch.ring then s.endTask t 0x0D 0 0 0 0 else s
      | none => s) s
    let s := s.updFab (fun x => { x with reductions := x.reductions.filter (fun q => !mine q.ring) })
    s.fab.copies.foldl (fun s c =>
      if c.lport.isNone && mine c.ring then (s.updCopy c.id (fun c => { c.fail c.next HOST_FAULT with ready := [] })).copyEnd c.id else s) s

/-- Something of a stopping function is still at work (R537 step 4). -/
def State.fnBusy (s : State) (d f : Nat) : Bool :=
  let mine := s.ofFn d f
  s.tiles.any (fun e => match e.2.task with | some k => mine k.launch.ring | none => false)
    || s.bup.killed.any (fun k => mine k.launch.ring)
    || s.net.pkts.any (fun e => match e.2.msg with | .report x => mine x.ring | .startReport r _ => mine r | .miss r .. => mine r | _ => false)
    || s.fab.copies.any (fun c => c.lport.isNone && mine c.ring) || s.fab.mcasts.any (fun m => m.ring.any (fun x => mine x.1))
    || s.accesses.any (fun a => match a.purpose with | .mcast r _ => mine r | _ => false)

/-- FUNCTION_LEVEL_RESET. -/
def execFunctionLevelReset (d f : Nat) (s : State) : Out := .next (s.stopFn d f)

/-- BUS_MASTER_CLEAR. DESIGN CHOICE: log entry 67. -/
def execBusMasterClear (d f : Nat) (s : State) : Out := .next (s.stopFn d f)

/-- Every function of a port for which p holds stops. -/
def State.stopFns (s : State) (d : Nat) (p : Nat → Bool) : State :=
  s.funcs.foldl (fun s e => if e.1 / 2048 = d ∧ p (e.1 % 2048) then s.stopFn d (e.1 % 2048) else s) s

/-- HOST_LINK_DOWN: link-down or hot reset. -/
def execHostLinkDown (d : Nat) (s : State) : Out :=
  .next ((s.updHost d (fun h => { h with linkUp := false, width := 3 })).stopFns d (fun _ => true))

/-- VF_ENABLE_CLEAR. -/
def execVfEnableClear (d : Nat) (s : State) : Out := .next (s.stopFns d (fun f => f != 0))

/-- HOST_LINK_UP: a fitted port that a checker has not disabled trains once its rails are good (R503, R609, R622). -/
def execHostLinkUp (d : Nat) (width : BitVec 2) (rate : BitVec 3) (s : State) : Out :=
  .next (
    if s.part.nIoDies ≤ d ∨ !s.board.rails ∨ !s.bup.checked ∨ (s.hostDie d).disabled ∨ width = 3 ∨ 5 < rate.toNat then s
    else s.updHost d (fun h => { h with linkUp := true, width, rate }))

/-- FUNCTION_STOP_DONE: step 5 of R537. -/
def execFunctionStopDone (d f : Nat) (s : State) : Out :=
  .next (if (s.func d f).st = .stopping ∧ !s.fnBusy d f then s.functionIdle d f else s)

/-- A write to a function page that is dropped. -/
def State.cfgDrop (s : State) (d f : Nat) : State := s.updFunc d f (fun x => { x with cfgErr := true })

/-- A write to HST_FN_CTRL (R539, R540). -/
def State.fnCtrl (s : State) (d f : Nat) (v : Word) : State :=
  let x := s.func d f
  let ev := bits v.toNat 11 8
  let ad := bits v.toNat 7 4
  match x.st with
  | .stopping => s.cfgDrop d f
  | .running =>
    let s := if ev ≠ x.evLog2.toNat ∨ ad ≠ x.adminLog2.toNat then s.cfgDrop d f else s
    if v.getLsbD 0 then s else s.stopFn d f
  | .idle =>
    if (ev ≠ 0 ∧ ev < 4) ∨ ad < 4 then s.cfgDrop d f
    else
      let fields := fun (y : Func) => { y with evLog2 := BitVec.ofNat 4 ev, adminLog2 := BitVec.ofNat 4 ad }
      if !v.getLsbD 0 then s.updFunc d f fields
      else
        match s.freeRing d with
        | none => s.cfgDrop d f
        | some r =>
          if f ≠ 0 ∧ x.tenant.isNone then s.cfgDrop d f
          else
            let s := s.updFunc d f (fun y => { fields y with enable := true, st := .running, evWritten := 0, evHead := 0, evDropped := 0 })
            { s with rings := smSet s.rings r { port := d, fn := f, sq := x.adminSq, cq := x.adminCq, sizeLog2 := ad, slot := 0 } }

/-- FUNCTION_ENABLE: the word that a host writes to HST_FN_CTRL, with enable set. -/
def execFunctionEnable (d f : Nat) (v : Word) (s : State) : Out :=
  .next (if s.agentUp (.page d f) ∧ f ≤ 1024 then { s.fnCtrl d f (v ||| 1) with answer := .ok } else s)

/-- FUNCTION_DISABLE: enable is written 0, with the other fields as they are. -/
def execFunctionDisable (d f : Nat) (s : State) : Out :=
  .next (
    if s.agentUp (.page d f) ∧ f ≤ 1024 then
      let x := s.func d f
      { s.fnCtrl d f (BitVec.ofNat 32 (x.evLog2.toNat * 256 + x.adminLog2.toNat * 16)) with answer := .ok }
    else s)

/-- HST_CLEAR. -/
def execHstClear (a : Agent) (d : Nat) (s : State) : Out :=
  .next (s.regWrite a (ioBlock d + 0x18) (fun s => some (s.updHost d (fun h => { h with ctr := [] }))))

end Sys2Proof.Machine
end

