-- ==== Sys2Proof/Machine/Crit.lean ====
section
/-!
DEFINITION. Critical commands (13 R529 to R536, 16 R628, R629, R639, 17 R669, R683): the checks that every one of them
passes in order, and the commands themselves.
-/
namespace Sys2Proof.Machine

/-! ### Checks (R516, R530, R531) -/

/-- A critical command that has reached its turn. -/
structure Crit where
  b : BitVec 1024
  /-- ring and sequence number; none on the management path -/
  ring : Option (Nat × Nat) := none
  port : Nat := 0
  /-- key slot that it is checked against -/
  slot : Nat
  /-- tenant of its ring -/
  tenant : Option Nat := none

def ownerSlot : Nat := 0
def grangerSlot : Nat := 2049

/-- The critical command of an opcode that a source sends next; `sel` tells the commands of one opcode apart. -/
def State.critDesc (s : State) (src : CmdSrc) (op : Nat) (sel : BitVec 1024 → Bool) : Option Crit :=
  let mine := fun (b : BitVec 1024) => dfield b 0 1 == 0x10 && dfield b 2 1 == op && sel b
  match src with
  | .ring r =>
    match s.nextDesc r with
    | none => none
    | some (x, h) =>
      if mine h.bytes then
        let ten := s.ringTenant x
        some { b := h.bytes, ring := some (r, h.seq), port := x.port, slot := if x.fn = 0 then ownerSlot else ten.getD 0 + 1, tenant := ten }
      else none
  | .mctp =>
    match s.health.mctp with
    | some b => if s.bup.grangerUp && mine b then some { b, slot := grangerSlot } else none
    | none => none
  | .granger _ => none

/-- Only bit 0 of hflags may be set; byte 3 and the bytes of the body that the command does not list are zero. -/
def critLayout (b : BitVec 1024) (used : List (Nat × Nat)) : Bool :=
  decide (dfield b 1 1 < 2) && dfield b 3 1 == 0
    && ((List.range 104).map (· + 8)).all (fun i => used.any (fun u => decide (u.1 ≤ i) && decide (i ≤ u.2)) || dfield b i 1 == 0)

/-- The 128 bytes under a command's tag. -/
def State.critMessage (s : State) (slot : Nat) (b : BitVec 1024) : List Nat :=
  natBytes (leBytes 2 s.ownId ++ leBytes 2 slot ++ leBytes 4 0 ++ leBytes 120 b.toNat)

/-- Tag of a command under a slot's key. -/
def State.critTag (s : State) (key : BitVec 256) (slot : Nat) (b : BitVec 1024) : List Nat :=
  (cmac (keyBytes key) (s.critMessage slot b)).take 8

def State.keySlot (s : State) (k : Nat) : KeySlot := smGetD s.keys k {}
def State.updKey (s : State) (k : Nat) (f : KeySlot → KeySlot) : State := { s with keys := smUpd s.keys k {} f }

/-- The tag of a command checks. -/
def State.critAuth (s : State) (c : Crit) : Bool :=
  match (s.keySlot c.slot).key with
  | some k => s.critTag k c.slot c.b == natBytes (leBytes 8 (dfield c.b 0x78 8))
  | none => false

def Crit.counter (c : Crit) : Nat := dfield c.b 0x70 8

/-- Write a command's record: on its ring, or as the answer on the management path. -/
def State.answerTo (s : State) (ring : Option (Nat × Nat)) (mctp : Bool) (r : Record) : State :=
  match ring with
  | some (n, seq) => s.finish n seq r
  | none =>
    if mctp then
      let s := s.updHealth (fun h => { h with mctpReply := some r })
      if r.status = 0 then s else s.grgCtr 0x110 1
    else s

/-- Answer a command that has run whole. -/
def State.critAnswer (s : State) (c : Crit) (r : Record) : State :=
  match c.ring with
  | some (n, seq) => s.finish n seq r
  | none =>
    let r := { r with cookie := BitVec.ofNat 32 (dfield c.b 4 4), endTick := s.tick.count }
    (s.updHealth (fun h => { h with mctp := none })).answerTo none true r

def State.critStatus (s : State) (c : Crit) (st : Nat) : State := s.critAnswer c { status := BitVec.ofNat 8 st }

/-- Reasons of R533. -/
def TARGET_BUSY : Nat := 1
def RANGE : Nat := 2
def CONFLICT : Nat := 3
def MEDIA : Nat := 4

def refusedRecord (reason : Nat) : Record := { status := BitVec.ofNat 8 CMD_REFUSED, result2 := BitVec.ofNat 32 reason }
def State.critRefuse (s : State) (c : Crit) (reason : Nat) : State := s.critAnswer c (refusedRecord reason)

/-- Function of a command's ring. -/
def State.critFn (s : State) (c : Crit) : Nat := match c.ring with | some (n, _) => (smGet s.rings n).map (·.fn) |>.getD 0 | none => 0

/-- The command has been accepted and runs on; its record comes later. -/
def State.critStarted (s : State) (c : Crit) : State :=
  match c.ring with
  | some (n, seq) => s.started n seq
  | none => s.updHealth (fun h => { h with mctp := none })

/-- Count on the I/O die whose ring engine took the command. -/
def State.critCtr (s : State) (c : Crit) (off : Nat) : State := if c.ring.isSome then s.hstCtr c.port off 1 else s

/-- The counter is used up. A counter above the high-water mark first raises the mark in flash. -/
def State.useCounter (s : State) (c : Crit) : State :=
  s.updKey c.slot (fun k => { k with last := c.counter, high := if k.high < c.counter then c.counter + 65536 else k.high })

/-- The checks of R531 in order, then the command's own conditions and effect. A command that needs a write of the
high-water mark waits while Granger restarts (R641); before the module is ready every command is refused (R628). DEDUCED: log entry 73. -/
def State.crit (s : State) (src : CmdSrc) (op : Nat) (sel : BitVec 1024 → Bool) (used : List (Nat × Nat)) (layout : BitVec 1024 → Bool)
    (permit : Crit → State → Bool) (go : Crit → State → State) : State :=
  match s.critDesc src op sel with
  | none => s
  | some c =>
    let k := s.keySlot c.slot
    if !critLayout c.b used ∨ !layout c.b then s.critStatus c BAD_DESCRIPTOR
    else if !permit c s then s.critStatus c NOT_PERMITTED
    else if !s.critAuth c then (s.critCtr c 0x128).critStatus c AUTH_FAILED
    else if c.counter ≤ k.last then
      (s.critCtr c 0x130).critAnswer c { status := BitVec.ofNat 8 COUNTER_STALE, result := BitVec.ofNat 64 (k.last + 1) }
    else if k.high < c.counter ∧ !s.bup.grangerUp then s
    else
      let s := s.useCounter c
      if !s.bup.ready then s.critRefuse c TARGET_BUSY else go c s

def anyLayout (_ : BitVec 1024) : Bool := true
def anySel (_ : BitVec 1024) : Bool := true
/-- Sub-operation or scope in byte 0x08. -/
def selAt8 (n : Nat) (b : BitVec 1024) : Bool := dfield b 8 1 == n

/-- Only the owner's slot may issue the command. -/
def ownerOnly (c : Crit) (_ : State) : Bool := c.slot == ownerSlot
/-- The owner's slot, or Granger's. -/
def ownerOrGranger (c : Crit) (_ : State) : Bool := c.slot == ownerSlot || c.slot == grangerSlot

/-- Tenant whose slot issues the command. -/
def Crit.issuingTenant (c : Crit) : Option Nat := if c.slot = ownerSlot ∨ c.slot = grangerSlot then none else c.tenant

/-- A tenant holds a partition. -/
def State.holdsPart (s : State) (t : Nat) (p : Option Nat) : Bool :=
  match p with | some p => (s.partRec p).tenant == some t | none => false

/-- The space of a bale or an image is one that the command may name (R508, R517): 2 for a PF ring or Granger, 0 for a bound
tenant, 1 for a function. -/
def Crit.spaceOk (c : Crit) (space : Nat) : Bool :=
  match space with
  | 0 => c.ring.isSome && c.tenant.isSome
  | 1 => c.ring.isSome
  | _ => c.slot == ownerSlot || c.slot == grangerSlot

/-! ### TICK_PARAM (R49, R60, R78) -/

/-- The period and guard window are in range (R49). -/
def tickParamOk (period guard : Nat) : Bool :=
  decide (4000 ≤ period) && decide (period ≤ 16777215) && decide (1 ≤ guard) && decide (guard ≤ 64) && decide (2 * 1000 * guard ≤ period)

/-- The change is accepted, or refused with a reason. -/
def State.tickParam (s : State) (period guard e : Nat) : Except Nat State :=
  if e < s.tick.count.toNat + 16 then .error RANGE
  else if !tickParamOk period guard then .error RANGE
  else if s.tick.pendParam.isSome then .error CONFLICT
  else if s.tick.role = 2 then .error CONFLICT
  else .ok (s.updTick (fun t => { t with
    pendParam := some ⟨BitVec.ofNat 6 (guard - 1), BitVec.ofNat 24 period⟩, pendTick := BitVec.ofNat 64 e }))

/-- Answer by the outcome of a command's own conditions. -/
def State.critDone (s : State) (c : Crit) (r : Except Nat State) : State :=
  match r with
  | .ok s' => s'.critStatus c 0
  | .error e => s.critRefuse c e

/-- TICK_PARAM. -/
def execTickParam (src : CmdSrc) (s : State) : Out :=
  .next (s.crit src 7 anySel [(0x08, 0x0C), (0x10, 0x17)] anyLayout ownerOnly (fun c s =>
    s.critDone c (s.tickParam (dfield c.b 8 4) (dfield c.b 0x0C 1) (dfield c.b 0x10 8))))

/-! ### KEY_CHANGE (R529, R536) -/

def keyPermit (c : Crit) (_ : State) : Bool :=
  let k := dfield c.b 8 2
  if c.slot = ownerSlot then decide (k ≤ 2048)
  else if c.slot = grangerSlot then k == ownerSlot || k == grangerSlot
  else k == c.slot

/-- KEY_CHANGE. DEDUCED: log entry 74. -/
def execKeyChange (src : CmdSrc) (s : State) : Out :=
  .next (s.crit src 6 anySel [(0x08, 0x0A), (0x10, 0x37)] anyLayout keyPermit (fun c s =>
    let k := dfield c.b 8 2
    s.critDone c (
      if dfield c.b 0x0A 1 ≠ 0 then .ok (s.updKey k (fun x => { x with key := none }))
      else
        match (s.keySlot c.slot).key with
        | none => .error RANGE
        | some kek =>
          match kwUnwrap (keyBytes kek) (natBytes (leBytes 40 (dfield c.b 0x10 40))) with
          | some v => .ok (s.updKey k (fun x => { x with key := some (BitVec.ofNat 256 (ofLe (v.map (BitVec.ofNat 8 ·)))) }))
          | none => .error RANGE)))

/-! ### LOAD_BALE (R571, R575) -/

/-- A region has no load: its stage is None. -/
def State.unstaged (s : State) (r : Nat) : Bool := (s.region r).stage == .none

/-- LOAD_BALE is accepted: its regions begin staging; one that empties its regions has nothing to stage and is Armed. -/
def State.startLoad (s : State) (c : Crit) (mask : Word) : State :=
  let clear := dfield c.b 0x10 8 == 0 && dfield c.b 0x18 4 == 0
  let rs := c.ring.getD (0, 0)
  let l : Load := { ring := rs.1, seq := rs.2, mask, clear, addr := BitVec.ofNat 64 (dfield c.b 0x10 8), len := dfield c.b 0x18 4,
                    space := dfield c.b 0x1C 1, digest := BitVec.ofNat 256 (dfield c.b 0x40 32), armed := clear, tenant := c.tenant }
  let s := (regionsOf mask).foldl (fun s r => s.updRegion r (fun x => { x with stage := if clear then .armed else .staging })) s
  ({ s with loads := s.loads ++ [l] }).critStarted c

/-- LOAD_BALE. DEDUCED: log entry 76. -/
def execLoadBale (src : CmdSrc) (s : State) : Out :=
  .next (s.crit src 1 anySel [(0x08, 0x0B), (0x10, 0x1C), (0x40, 0x5F)]
    (fun b => dfield b 0x10 8 % 64 == 0 && decide (dfield b 0x1C 1 < 3))
    (fun c s =>
      c.spaceOk (dfield c.b 0x1C 1) && c.slot != grangerSlot
        && (match c.issuingTenant with
          | some t => (regionsOf (BitVec.ofNat 32 (dfield c.b 8 4))).all (fun r => s.holdsPart t (s.partOfRegion r))
          | none => c.slot == ownerSlot))
    (fun c s =>
      let mask : Word := BitVec.ofNat 32 (dfield c.b 8 4)
      if mask = 0 then s.critAnswer c (loadRecord ldSections 0 0)
      else if mask &&& ~~~s.cap.regions ≠ 0 then s.critRefuse c RANGE
      else
        match (regionsOf mask).find? (fun r => !s.unstaged r) with
        | some r => (s.cfgErr r 1 ldRegionBusy 0).critAnswer c (loadRecord ldRegionBusy 0 0)
        | none => s.startLoad c mask))

/-! ### RESET (R606, R629, R630, R635) -/

def resetUsed : List (Nat × Nat) := [(0x08, 0x08), (0x0A, 0x0B)]
def Crit.target (c : Crit) : Nat := dfield c.b 0x0A 2
/-- Issuer as BUP_RESET_LAST shows it. -/
def Crit.resetIssuer (c : Crit) : Nat := if c.slot = ownerSlot then 0 else 1

/-- The owner may reset any unit, a tenant those that it holds. -/
def resetPermit (part : Nat → State → Option Nat) (c : Crit) (s : State) : Bool :=
  c.slot == ownerSlot || (match c.issuingTenant with | some t => s.holdsPart t (part c.target s) | none => false)

/-- Refuse a reset that would advance an epoch too often, or run it. -/
def State.limited (s : State) (c : Crit) (ks : List Nat) (go : State → State) : State :=
  match s.resetLimit ks with
  | (true, s) => s.critRefuse c CONFLICT
  | (false, s) => go (s.critStarted c)

/-- A tile that a RESET may name. -/
def State.tileNamed (s : State) (t : Nat) : Bool := decide (t < Config.tiles) && !s.fusedOff t && !s.bup.park.getLsbD (tileCluster t)
def State.clusterNamed (s : State) (c : Nat) : Bool := decide (c < Config.clusters) && !s.bup.park.getLsbD c

/-- TILE_RESET: a RESET of tile scope, or Granger's own. -/
def execTileReset (src : CmdSrc) (s : State) : Out :=
  .next (
    match src with
    | .granger t =>
      if s.bup.grangerUp && s.tileNamed t then
        match s.resetLimit [tileKey t] with
        | (true, s) => s
        | (false, s) => s.resetOneTile t 2 none
      else s
    | _ =>
      s.crit src 2 (selAt8 0) resetUsed anyLayout (resetPermit (fun t s => s.partOfTile t)) (fun c s =>
        if !s.tileNamed c.target then s.critRefuse c RANGE
        else s.limited c [tileKey c.target] (fun s => s.resetOneTile c.target c.resetIssuer c.ring)))

def clusterKeys (c : Nat) : List Nat := clusterKey c :: (clusterTiles c).map tileKey

/-- CLUSTER_RESET. -/
def execClusterReset (src : CmdSrc) (s : State) : Out :=
  .next (
    match src with
    | .granger k =>
      if s.bup.grangerUp && s.clusterNamed k then
        match s.resetLimit (clusterKeys k) with
        | (true, s) => s
        | (false, s) => s.resetCluster k 2 none
      else s
    | _ =>
      s.crit src 2 (selAt8 1) resetUsed anyLayout (resetPermit (fun k s => s.partOfCluster k)) (fun c s =>
        if !s.clusterNamed c.target then s.critRefuse c RANGE
        else s.limited c (clusterKeys c.target) (fun s => s.resetCluster c.target c.resetIssuer c.ring)))

/-- PARTITION_RESET. -/
def execPartitionReset (src : CmdSrc) (s : State) : Out :=
  .next (s.crit src 2 (selAt8 2) resetUsed anyLayout (resetPermit (fun p _ => some p)) (fun c s =>
    if Config.partitions ≤ c.target then s.critRefuse c RANGE
    else s.limited c (s.partKeys c.target) (fun s => s.resetPartition c.target c.resetIssuer c.ring)))

/-- MODULE_RESET: no record of it is ever written. -/
def execModuleReset (src : CmdSrc) (s : State) : Out :=
  .next (s.crit src 2 (selAt8 3) resetUsed anyLayout (resetPermit (fun _ _ => none)) (fun c s =>
    let ks := (List.range Config.tiles).map tileKey ++ (List.range Config.clusters).map clusterKey ++ (List.range Config.partitions).map partKey
    s.limited c ks (fun s => s.moduleReset c.resetIssuer)))

/-! ### FW_UPDATE (R639, R640) -/

/-- Most bytes of an image of a target. -/
def fwMax (target : Nat) : Nat := match target with | 0 => 0x400000 | 1 => 8192 | _ => 0x800000

def State.fwTarget (s : State) (n : Nat) : FwTarget := smGetD s.bup.fw n {}

/-- Read n bytes of module memory from offset `off` of a local address, block by block. -/
def State.readLocal (s : State) (a n : Nat) : Nat → Nat → List Byte → Option (List Byte) × State
  | 0, _, acc => (some acc, s)
  | k + 1, off, acc =>
    let m := blockLen (a + off) (n - off)
    if m = 0 then (some acc, s)
    else
      match s.readPhys (s.ownAddr (a + off)) m with
      | (.ok bs, s) => s.readLocal a n k (off + m) (acc ++ bs)
      | (_, s) => (none, s)

/-- n bytes from an address of a space (R517): `away` is what host memory or another module holds there. -/
def State.fetchSpace (s : State) (d fn ring tenant space a n : Nat) (away : HostData (List Byte)) : Option (List Byte) × State :=
  let bytes := match away with | .ok bs => some bs | _ => none
  match space with
  | 1 => (bytes.map (fun bs => slice bs 0 n), s.hostReadErr d fn ring away)
  | 2 => if 2 ^ 48 ≤ a then (none, s) else s.readLocal a n (n / 256 + 2) 0 []
  | _ =>
    match s.fetchVa d tenant (BitVec.ofNat 64 a) n bytes with
    | (.ok bs, s) => (some bs, s)
    | (_, s) => (none, s)

/-- FW_UPDATE: fetched and checked here; the slot is written, read back and selected by FW_SLOT_SELECTED. -/
def execFwUpdate (src : CmdSrc) (image : HostData (List Byte)) (s : State) : Out :=
  .next (s.crit src 3 anySel [(0x08, 0x08), (0x10, 0x1C), (0x40, 0x5F)] (fun b => decide (dfield b 0x1C 1 < 3))
    (fun c s => ownerOrGranger c s && c.spaceOk (dfield c.b 0x1C 1))
    (fun c s =>
      let n := dfield c.b 8 1
      if s.bup.fwJob.isSome then s.critRefuse c CONFLICT
      else if 2 < n ∨ fwMax n < dfield c.b 0x18 4 then s.critRefuse c RANGE
      else
        match s.fetchSpace c.port (s.critFn c) (c.ring.getD (0, 0)).1 (c.tenant.getD 0) (dfield c.b 0x1C 1) (dfield c.b 0x10 8) (dfield c.b 0x18 4) image with
        | (none, s) => s.critRefuse c MEDIA
        | (some bs, s) =>
          if ofLe (sha256 bs) ≠ dfield c.b 0x40 32 then s.critRefuse c MEDIA
          else
            match Config.fwHeader n bs with
            | none => s.critRefuse c RANGE
            | some (ver, floor) =>
              if ver.toNat < (s.fwTarget n).floor.toNat ∨ ver.toNat < floor.toNat then s.critRefuse c RANGE
              else (s.updBup (fun x => { x with fwJob := some { target := n, ver, floor, ring := c.ring, mctp := c.ring.isNone } })).critStarted c))

/-! ### ASSIGN (R26, R27, R507, R509, R534, R535, R565) -/

def Crit.tenantArg (c : Crit) : Nat := dfield c.b 0x0A 2
def Crit.partArg (c : Crit) : Nat := dfield c.b 0x0F 1

def State.assign (s : State) (src : CmdSrc) (sub : Nat) (used : List (Nat × Nat)) (go : Crit → State → Except Nat State) : State :=
  s.crit src 4 (selAt8 sub) ((0x08, 0x08) :: used) anyLayout ownerOnly (fun c s => s.critDone c (go c s))

/-- ASSIGN_BIND. -/
def execAssignBind (src : CmdSrc) (s : State) : Out :=
  .next (s.assign src 0 [(0x0A, 0x0E), (0x10, 0x19)] (fun c s =>
    let t := c.tenantArg
    let f := dfield c.b 0x0C 2
    let d := dfield c.b 0x0E 1
    let q := dfield c.b 0x18 2
    if Config.tenants ≤ t ∨ 1024 < f ∨ s.part.nIoDies ≤ d ∨ 2048 < q then .error RANGE
    else if (s.func d f).tenant.isSome ∨ (s.tenant t).bound.isSome ∨ 2048 < s.quotaSum d + q then .error CONFLICT
    else .ok ({ s with tenants := smSet s.tenants t { bound := some (d, f), root := BitVec.ofNat 64 (dfield c.b 0x10 8) } }.updFunc d f
      (fun x => { x with tenant := some t, quota := q }))))

/-- A task of a tenant is queued at a tile or runs. -/
def State.tenantBusy (s : State) (t : Nat) : Bool :=
  s.tiles.any (fun e => e.2.queue.any (fun l => l.tenant == t) || (match e.2.task with | some k => k.launch.tenant == t | none => false))

/-- ASSIGN_UNBIND. DEDUCED: log entry 75. -/
def execAssignUnbind (src : CmdSrc) (s : State) : Out :=
  .next (s.assign src 1 [(0x0A, 0x0B)] (fun c s =>
    let t := c.tenantArg
    if Config.tenants ≤ t then .error RANGE
    else
      match (s.tenant t).bound with
      | none => .error CONFLICT
      | some (d, f) =>
        if s.tenantBusy t ∨ (s.func d f).st ≠ .idle then .error TARGET_BUSY
        else .ok ({ s with tenants := smErase s.tenants t }.updFunc d f (fun x => { x with tenant := none, quota := 0 }))))

/-- A partition holds at least one cluster or region. -/
def PartRec.defined (p : PartRec) : Bool := p.clusters != 0 || p.regions != 0

def State.updPart (s : State) (p : Nat) (f : PartRec → PartRec) : State := { s with parts := smUpd s.parts p {} f }

/-- ASSIGN_PARTITION. -/
def execAssignPartition (src : CmdSrc) (s : State) : Out :=
  .next (s.assign src 2 [(0x0A, 0x0B), (0x0F, 0x0F)] (fun c s =>
    let p := c.partArg
    if Config.tenants ≤ c.tenantArg ∨ Config.partitions ≤ p then .error RANGE
    else if !(s.partRec p).defined ∨ (s.partRec p).tenant.isSome ∨ (s.partRec p).clusters &&& s.bup.park ≠ 0 then .error CONFLICT
    else .ok (s.updPart p (fun x => { x with tenant := some c.tenantArg }))))

/-- A task of a partition is queued at a tile or runs. -/
def State.partTasks (s : State) (p : Nat) : Bool :=
  (s.partTiles p).any (fun t => (s.tile t).active || !(s.tile t).queue.isEmpty)

/-- RELEASE_PARTITION: its regions are emptied. -/
def execReleasePartition (src : CmdSrc) (s : State) : Out :=
  .next (s.assign src 3 [(0x0F, 0x0F)] (fun c s =>
    let p := c.partArg
    if Config.partitions ≤ p then .error RANGE
    else if (s.partRec p).tenant.isNone then .error CONFLICT
    else if s.partTasks p ∨ (s.partRegions p).any (fun r => !s.unstaged r) then .error TARGET_BUSY
    else .ok ((s.partRegions p).foldl (fun s r => s.emptyRegion r) (s.updPart p (fun x => { x with tenant := none })))))

/-- Clusters of a mask. -/
def clustersOf (m : BitVec 144) : List Nat := (List.range Config.clusters).filter (fun c => m.getLsbD c)

/-- The partition's members are replaced: what it gains or loses is reset or emptied. DEDUCED: log entry 82. -/
def State.redefine (s : State) (p : Nat) (cs : BitVec 144) (rs : Word) : State :=
  let old := s.partRec p
  let s := s.updPart p (fun x => { x with clusters := cs, regions := rs })
  let s := (regionsOf (old.regions ^^^ rs)).foldl (fun s r => s.emptyRegion r) (s.advanceEpochs [] [] [p])
  (clustersOf (old.clusters ^^^ cs)).foldl (fun s k => s.resetCluster k 0 none) s

/-- DEFINE_PARTITION. -/
def execDefinePartition (src : CmdSrc) (s : State) : Out :=
  .next (s.assign src 4 [(0x0F, 0x0F), (0x20, 0x31), (0x34, 0x37)] (fun c s =>
    let p := c.partArg
    let cs : BitVec 144 := BitVec.ofNat 144 (dfield c.b 0x20 18)
    let rs : Word := BitVec.ofNat 32 (dfield c.b 0x34 4)
    let old := s.partRec p
    let others := fun (f : PartRec → Bool) => s.parts.any (fun e => e.1 != p && f e.2)
    if Config.partitions ≤ p then .error RANGE
    else if old.tenant.isSome ∨ others (fun q => q.clusters &&& cs != 0 || q.regions &&& rs != 0) ∨ cs &&& s.bup.park ≠ 0 then .error CONFLICT
    else if (clustersOf (old.clusters ||| cs)).any (fun k => (clusterTiles k).any (fun t => (s.tile t).active || !(s.tile t).queue.isEmpty))
        ∨ (regionsOf (old.regions ||| rs)).any (fun r => (s.region r).st == .running || !s.unstaged r) then .error TARGET_BUSY
    else if rs &&& ~~~s.cap.regions ≠ 0 then .error RANGE
    else .ok (s.redefine p cs rs)))

/-! ### TABLE_UPDATE (R434, R445, R448, R453, R454) -/

/-- Entries of a table and bytes of an entry. -/
def tableSize (k : Nat) : Nat × Nat := match k with | 0 => (65536, 8) | 1 => (4096, 8) | 2 => (1024, 16) | _ => (4096, 16)

/-- A new routing entry: a destination whose path changes waits for its old port to settle (R453), also where the old entry had no port
that could send. DEDUCED: log entry 80. -/
def State.setRoute (s : State) (dst : Nat) (w : DWord) : State :=
  let entry := Route.ofWord (smGetD s.fab.routing dst 0).toNat
  let old := match s.orderedPort dst entry with | some (q, _) => q | none => entry.prim
  let s := s.updFab (fun x => { x with onAlt := x.onAlt.filter (fun d => d != dst), routing := smSet x.routing dst w })
  let new := (s.orderedPort dst (Route.ofWord w.toNat)).map (·.1)
  if entry.valid ∧ new ≠ some old ∧ !s.fab.settling.any (fun e => e.1 == dst) then
    s.updFab (fun x => { x with settling := x.settling ++ [(dst, old)] })
  else s

/-- Write one entry of a table; its parity is good. -/
def State.setEntry (s : State) (k i : Nat) (bs : List Byte) : State :=
  let s := s.clean (.table k i)
  match k with
  | 0 => s.setRoute i (BitVec.ofNat 64 (ofLe bs))
  | 1 => s.updFab (fun x => { x with mgroups := smSet x.mgroups i (BitVec.ofNat 64 (ofLe bs)) })
  | 2 => s.updFab (fun x => { x with rgroups := smSet x.rgroups i (BitVec.ofNat 128 (ofLe bs)) })
  | _ => s.updFab (fun x => { x with windows := smSet x.windows i (BitVec.ofNat 128 (ofLe bs)) })

/-- Write entries in order. -/
def State.setEntries (s : State) (k size : Nat) : Nat → Nat → List Byte → State
  | 0, _, _ => s
  | n + 1, i, bs => (s.setEntry k i (slice bs 0 size)).setEntries k size n (i + 1) (bs.drop size)

/-- TABLE_UPDATE: `data` is what the read of host memory at the address brings. -/
def execTableUpdate (src : CmdSrc) (data : HostData (List Byte)) (s : State) : Out :=
  .next (s.crit src 5 anySel [(0x08, 0x08), (0x0C, 0x13), (0x18, 0x1F)] anyLayout ownerOnly (fun c s =>
    let k := dfield c.b 8 1
    let first := dfield c.b 0x0C 4
    let n := dfield c.b 0x10 4
    if 3 < k ∨ (tableSize k).1 < first + n then s.critRefuse c RANGE
    else
      match data with
      | .ok bs => (s.setEntries k (tableSize k).2 n first bs).critStatus c 0
      | bad => (s.hostReadErr c.port (s.critFn c) (c.ring.getD (0, 0)).1 bad).critRefuse c MEDIA))

/-! ### MARGIN_OVERRIDE (R667 to R670) -/

/-- Core-rail range in mV (R698). -/
def vminMv : Int := 650
def vmaxMv : Int := 900

def State.die (s : State) (d : Nat) : DieHealth := smGetD s.health.dies d {}
def State.updDie (s : State) (d : Nat) (f : DieHealth → DieHealth) : State :=
  s.updHealth (fun h => { h with dies := smUpd h.dies d {} f })

/-- A job concerns a die's voltage. -/
def MarginJob.onDie (j : MarginJob) (d : Nat) : Bool := j.field == 3 || (j.field == 1 && (j.die == d || j.die == 255))

/-- Frequency target and offset of a die with every pending override in force. -/
def State.wantTarget (s : State) : Nat :=
  s.health.jobs.foldl (fun v j => if j.field = 0 then j.value.toNat else if j.field = 3 then 1200 else v) s.health.fTarget.toNat
def State.wantOffset (s : State) (d : Nat) : Int :=
  s.health.jobs.foldl (fun v j => if j.onDie d then j.value else v) (s.die d).offset.toInt

/-- Core frequency and voltage of a die that the module is to reach (R667, R670). -/
def State.wantMhz (s : State) : Nat := min s.wantTarget s.health.fLimit.toNat
def State.wantMv (s : State) (d : Nat) : Int := (s.die d).vplan + s.wantOffset d

/-- The core clock, and a die's voltage, stand where they are to be. -/
def State.clockThere (s : State) : Bool := !s.health.relocking && s.health.fMhz.toNat == s.wantMhz
def State.dieThere (s : State) (d : Nat) : Bool := decide (((s.die d).vcore.toNat : Int) = s.wantMv d)

/-- Dies 0 to 3. -/
def dieList : List Nat := [0, 1, 2, 3]

/-- A job's change has been applied. -/
def State.jobReady (s : State) (j : MarginJob) : Bool :=
  (j.field == 1 || s.clockThere) && dieList.all (fun d => !j.onDie d || s.dieThere d)

/-- A job's values are now the owner's. -/
def State.jobValues (s : State) (j : MarginJob) : State :=
  let s := match j.field with
    | 0 => s.updHealth (fun h => { h with fTarget := BitVec.ofNat 16 j.value.toNat })
    | 3 => s.updHealth (fun h => { h with fTarget := 1200, frozen := false })
    | _ => s
  dieList.foldl (fun s d => if j.onDie d then s.updDie d (fun x => { x with offset := BitVec.ofInt 16 j.value }) else s) s

/-- A planned change waits for its guard window. -/
def State.marginWaits (s : State) : Bool := !s.clockThere || dieList.any (fun d => !s.dieThere d)

/-- Finish pending overrides in order as they are reached. -/
def State.settleJobs (s : State) : Nat → State
  | 0 => s
  | n + 1 =>
    match s.health.jobs with
    | [] => s
    | j :: rest =>
      if s.jobReady j then
        (((s.jobValues j).updHealth (fun h => { h with jobs := rest })).answerTo j.ring j.mctp {}).settleJobs n
      else s

/-- After every change of target, plan or value. -/
def State.settleMargin (s : State) : State :=
  let s := s.settleJobs (s.health.jobs.length + 1)
  s.updHealth (fun h => { h with marginPending := s.marginWaits })

/-- Predicted slack of a die at another frequency is at least floor_ps: s + 10^6/f_new − 10^6/f_old ≥ floor. -/
def slackHolds (slack floor : Int) (fOld fNew : Nat) : Bool :=
  decide (0 ≤ (slack - floor) * fNew * fOld + 1000000 * ((fOld : Int) - fNew))

/-- The value of an override is in range. DEDUCED: log entry 78. -/
def State.marginOk (s : State) (field die : Nat) (v : Int) : Bool :=
  (decide (die < 4) || die == 255) && (match field with
    | 0 =>
      decide (600 ≤ v) && decide (v ≤ 1400) && v % 25 == 0
        && dieList.all (fun d => decide ((s.die d).vplan ≠ vmaxMv)
          || slackHolds (s.die d).slack.toInt s.health.floorPs.toNat s.health.fMhz.toNat (min v.toNat s.health.fLimit.toNat))
    | 1 =>
      decide (-50 ≤ v) && decide (v ≤ 50) && v % 5 == 0
        && dieList.all (fun d => (die != d && die != 255) || (decide (vminMv ≤ (s.die d).vplan + v) && decide ((s.die d).vplan + v ≤ vmaxMv)))
    | 2 => v == 0
    | 3 => v == 0
    | _ => false)

/-- MARGIN_OVERRIDE: a change waits for its guard windows; freezing takes effect at once. DEDUCED: log entry 79. -/
def State.marginOverride (s : State) (src : CmdSrc) (sel : BitVec 1024 → Bool) : State :=
  s.crit src 8 sel [(0x08, 0x09), (0x0C, 0x0F)] anyLayout ownerOrGranger (fun c s =>
    let field := dfield c.b 8 1
    let die := dfield c.b 9 1
    let v := (BitVec.ofNat 32 (dfield c.b 0x0C 4)).toInt
    if !s.marginOk field die v then s.critRefuse c RANGE
    else if field = 2 then (s.updHealth (fun h => { h with frozen := true })).critStatus c 0
    else
      let j : MarginJob := { field, die, value := v, ring := c.ring, mctp := c.ring.isNone, tick := s.tick.count.toNat }
      ((s.critStarted c).updHealth (fun h => { h with jobs := h.jobs ++ [j] })).settleMargin)

/-- MARGIN_FREQUENCY. -/
def execMarginFrequency (src : CmdSrc) (s : State) : Out := .next (s.marginOverride src (selAt8 0))
/-- MARGIN_OFFSET. -/
def execMarginOffset (src : CmdSrc) (s : State) : Out := .next (s.marginOverride src (selAt8 1))
/-- MARGIN_FREEZE. -/
def execMarginFreeze (src : CmdSrc) (s : State) : Out := .next (s.marginOverride src (selAt8 2))
/-- MARGIN_RELEASE; it also takes the commands of a field that does not exist, which are refused. -/
def execMarginRelease (src : CmdSrc) (s : State) : Out := .next (s.marginOverride src (fun b => decide (3 ≤ dfield b 8 1)))

/-! ### The management path (R683) -/

/-- MCTP_CRIT: a 128-byte message arrives. It waits for its command, or is answered at once when it is no critical command. -/
def execMctpCrit (msg : BitVec 1024) (s : State) : Out :=
  .next (
    if !s.bup.grangerUp ∨ s.health.mctp.isSome then s
    else
      let s := s.grgCtr 0x108 1
      if dfield msg 0 1 ≠ 0x10 ∨ reservedDesc msg then
        s.answerTo none true { status := BitVec.ofNat 8 BAD_DESCRIPTOR, cookie := BitVec.ofNat 32 (dfield msg 4 4), endTick := s.tick.count }
      else s.updHealth (fun h => { h with mctp := some msg }))

end Sys2Proof.Machine
end

