-- ==== Sys2Proof/Machine/Logic.lean ====
section
/-!
DEFINITION. Logic ports and loads (14 R552 to R589): requests and answers of a design, a load's staging, commit and
expiry, the configuration scrub, and the guard-start edge (02 R49), at which commits are decided.
-/
namespace Sys2Proof.Machine

/-! ### Requests of a design (R371, R377, R446, R556 to R559) -/

/-- Local index of a port in its region. -/
def portIndex (n : Nat) : Nat := n % 96 % 12

/-- Boundary frame 1 of a region marks a port real-time (R559, R568). -/
def State.rtPort (s : State) (n : Nat) : Bool :=
  bitN (dfield (smGetD (s.region (lportRegion n)).active (2 * 2 ^ 28 + 1) 0) 0 2) (portIndex n)

/-- Translate for a logic port: its cache of 32 leaves, or the service of its home I/O die. -/
def State.lportXlate (s : State) (n tenant : Nat) (va : DWord) (need : Nat) : Option DWord × State :=
  match xlateIn (s.lport n).tlb tenant va need with
  | .ok pa l => (some pa, s.updLport n (fun p => { p with tlb := tlbTouch p.tlb l }))
  | .fail => (none, s)
  | .miss =>
    match (s.lgcCtr (n / 96) 0x118 1).service (s.homeIo (n / 96)) tenant va with
    | (some l, s) => (if l.grants need then some (l.phys va) else none, s.updLport n (fun p => { p with tlb := tlbAdd p.tlb l 32 }))
    | (none, s) => (none, s)

/-- Translate a range that may cross a page: it must stay in one piece. -/
def State.lportRange (s : State) (n tenant : Nat) (va : DWord) (size need : Nat) : Option DWord × State :=
  match s.lportXlate n tenant va need with
  | (none, s) => (none, s)
  | (some pa, s) =>
    if va.toNat % 65536 + size ≤ 65536 then (some pa, s)
    else
      match s.lportXlate n tenant (va + BitVec.ofNat 64 (size - 1)) need with
      | (some pb, s) => (if pb = pa + BitVec.ofNat 64 (size - 1) then some pa else none, s)
      | (none, s) => (none, s)

/-- Sizes that a request can have. DESIGN CHOICE: log entry 81. -/
def OReq.sized (q : OReq) : Bool :=
  match q.op with
  | .read | .write | .torusMcast | .fabricMcast => decide (1 ≤ q.size) && decide (q.size ≤ 256)
  | .atomic => [1, 2, 4, 8].contains q.size
  | .copy => decide (1 ≤ q.size) && decide (q.size ≤ 2 ^ 30)
  | _ => true

/-- A tag of the design's that waits for its ORSP or MREP. -/
def State.tagInUse (s : State) (n tag : Nat) : Bool :=
  (s.accessesOf (.lport n)).any (fun a => a.purpose == .oreq tag)
    || s.fab.copies.any (fun c => c.lport == some (n, tag)) || s.fab.mcasts.any (fun m => m.lport == some (n, tag))
    || (s.lport n).fences.any (fun f => f.1 == tag)

/-- The port has a copy or a fabric multicast to a module, which its later writes there wait for (R447, R450). -/
def State.portBulk (s : State) (n m : Nat) : Bool :=
  s.fab.copies.any (fun c => c.lport.any (fun l => l.1 == n) && c.dmod == m) || s.fab.mcasts.any (fun c => c.lport.any (fun l => l.1 == n))

/-- Nothing that the port wrote is outstanding: what its fabric multicast waits for (R450). -/
def State.portQuiet (s : State) (n : Nat) : Bool :=
  !(s.accessesOf (.lport n)).any (fun a => a.req.op.ordered) && !s.fab.copies.any (fun c => c.lport.any (fun l => l.1 == n))
    && !s.fab.mcasts.any (fun m => m.lport.any (fun l => l.1 == n))

/-- A read, write or atomic of a design. -/
def State.oreqAccess (s : State) (n tenant : Nat) (q : OReq) (op : PktOp) (need : Nat) : State :=
  let data := if op = .write then slice q.data 0 q.size else []
  match s.lportRange n tenant q.addr q.size need with
  | (none, s') => s'.orsp n q.tag .busError []
  | (some pa, s') =>
    match s'.mkReq (.lport n) op pa q.size data with
    | none => s'.orsp n q.tag .busError []
    | some (p, r) =>
      if op.ordered ∧ s'.portBulk n (r.getD s'.ownId) then s
      else
        match s'.freeTag (.lport n) with
        | none => s
        | some tag =>
          s'.issue (s'.mkAccess (.lport n) tag (.oreq q.tag) { p with
            tenant, aop := q.aop, ret := q.ret, operand := q.operand, compare := q.compare, rt := q.rt && s'.rtPort n } r)

/-- A request of a port whose partition is held by a tenant. -/
def State.oreqRun (s : State) (n p tenant : Nat) (q : OReq) : State :=
  match q.op with
  | .read => s.oreqAccess n tenant q .read needRead
  | .write => s.oreqAccess n tenant q .write needWrite
  | .atomic => s.oreqAccess n tenant q .atomic needAtomic
  | .torusMcast =>
    let (x0, x1, y0, y1) := q.rect
    if !rectOk x0 x1 y0 y1 then s.orsp n q.tag .busError []
    else if s.portBulk n s.ownId then s
    else (s.torusMcast (.lport n) (lportEnd n) (.oreq q.tag) tenant p q.addr.toNat (rectTiles x0 x1 y0 y1) (slice q.data 0 q.size) (s.issuerEpoch (.lport n))).getD s
  | .fabricMcast =>
    if !s.portQuiet n then s
    else
      match s.mcastSend (s.homeIo (n / 96)) q.group tenant q.addr.toNat (slice q.data 0 q.size) 1 n none (some (n, q.tag)) with
      | .sent s' => s'
      | .waits => s
      | .refused s' => s'.orsp n q.tag .busError []
  | .copy =>
    if 16 ≤ s.engineCopies (s.homeIo (n / 96)) then s
    else s.startCopy { die := s.homeIo (n / 96), ring := 0, seq := 0, src := q.addr, dst := q.operand, size := q.size, tenant, lport := some (n, q.tag) }
  | .release => (s.updLport n (fun x => { x with fences := x.fences ++ [(q.tag, true, false)] })).lportFences n 256
  | .acquire => (s.updLport n (fun x => { x with fences := x.fences ++ [(q.tag, false, true)] })).lportFences n 256

def OOp.isFence : OOp → Bool
  | .release | .acquire => true
  | _ => false

/-- OREQ: an isolated boundary accepts nothing; in the Hard interval only fences are accepted; a region in no partition gets
BUS_ERROR. A later request waits for a fence before it. DEDUCED: log entry 55. -/
def execOreq (n : Nat) (q : OReq) (s : State) : Out :=
  .next (
    let r := lportRegion n
    if 384 ≤ n ∨ 256 ≤ q.tag ∨ !q.sized ∨ !s.regionOpen r ∨ s.tagInUse n q.tag ∨ (!q.op.isFence ∧ !(s.lport n).fences.isEmpty) then s
    else
      match s.partOfRegion r with
      | none => s.orsp n q.tag .busError []
      | some p =>
        if !q.op.isFence ∧ s.partHeld p then s
        else
          match (s.partRec p).tenant with
          | none => s.orsp n q.tag .busError []
          | some tenant => s.oreqRun n p tenant q)

/-! ### Inbound requests (R560) -/

/-- Take an inbound request from its port. -/
def State.inboundFor (s : State) (n itag : Nat) (go : Inbound → State → State) : State :=
  match (s.lport n).inbound.find? (fun q => q.itag == itag) with
  | some q => go q (s.updLport n (fun p => { p with inbound := p.inbound.filter (fun x => x.itag != itag) }))
  | none => s

/-- IRSP: the design's answer, OK or BUS_ERROR, is the response that counts as acknowledgement. A late one is discarded. -/
def execIrsp (n itag : Nat) (st : Status) (data : List Byte) (s : State) : Out :=
  .next (
    if !s.regionOpen (lportRegion n) ∨ (st ≠ Status.ok ∧ st ≠ Status.busError) then s
    else if (s.lport n).late.contains itag then s.updLport n (fun p => { p with late := p.late.filter (fun k => k != itag) })
    else s.inboundFor n itag (fun q s =>
      let len := match q.pkt.op with | .read => q.pkt.size | .atomic => if q.pkt.ret then q.pkt.size else 0 | _ => 0
      s.respond q.pkt q.pkt.op.answer st (if st = Status.ok then slice data 0 len else [])))

/-- LGC_ERR keeps the first error (R584). -/
def State.lgcErr (s : State) (r kind unit word : Nat) : State :=
  s.updLgc (r / 8) (fun k => { k with err := firstErr k.err (BitVec.ofNat 64 (kind * 2 ^ 56 + r % 8 * 2 ^ 48 + unit * 2 ^ 12 + word)) })

/-- WINDOW_TIMEOUT. -/
def execWindowTimeout (n itag : Nat) (s : State) : Out :=
  .next (s.inboundFor n itag (fun q s =>
    (((s.updLport n (fun p => { p with late := p.late ++ [itag] })).respond q.pkt q.pkt.op.answer .busError []).lgcCtr (n / 96) 0x108 1).lgcErr
      (lportRegion n) 2 (portIndex n) 0))

/-! ### Loads (R569 to R577) -/

/-- Compute dies of a mask's regions. -/
def loadDies (m : Word) : List Nat := dieList.filter (fun d => (regionsOf m).any (fun r => r / 8 == d))

/-- No earlier load is still staging on a die of this one. DEDUCED: log entry 77. -/
def State.stagesNext (s : State) (k : Nat) (l : Load) : Bool :=
  (s.loads.take k).all (fun m => m.armed || (loadDies m.mask).all (fun d => !(loadDies l.mask).contains d))

/-- Host port of the ring that a load came by. -/
def Load.port (l : Load) : Nat := l.ring % 65536 / 2048

/-- Sections staged: shadows, frame counts and the engine's registers. -/
def State.putSections (s : State) (dict : Nat) (secs : List (Nat × SMap (BitVec 1024) × Nat × Nat)) : State :=
  secs.foldl (fun s e =>
    ((s.updRegion e.1 (fun x => { x with shadow := e.2.1, shadowId := BitVec.ofNat 64 e.2.2.1, staged := BitVec.ofNat 16 e.2.2.2 })).updLgc (e.1 / 8)
      (fun k => { k with stagingRegion := BitVec.ofNat 3 (e.1 % 8), dict := BitVec.ofNat 13 dict })).cfgCtr (e.1 / 8) 0x200 e.2.2.2) s

/-- Stage a fetched bale and make its checks. -/
def State.stageBale (s : State) (l : Load) (bs : List Byte) : State :=
  match baleHeader bs l.len l.mask s.part.b0 with
  | some (d, i, off) => s.endLoad l d i off false
  | none =>
    let rs := regionsOf l.mask
    let s := rs.foldl (fun s r => s.updRegion r (fun x => { x with shadow := [], shadowId := 0, imageValid := false, staged := 0 })) s
    let out := stageSections bs (rs.zipIdx.map (fun e => (e.2, e.1))) []
    let s := s.putSections (field bs 0x10 2) out.2
    match out.1 with
    | some (d, i, off) => s.endLoad l d i off true
    | none =>
      if crc32c (bs.take (l.len - 4)) ≠ field bs (l.len - 4) 4 then s.endLoad l ldCrc 0 (l.len - 4) true
      else if ofLe (sha256 bs) ≠ l.digest.toNat then s.endLoad l ldDigest 0 0 true
      else
        let s := rs.foldl (fun s r => s.updRegion r (fun x => { x with stage := .armed })) s
        { s with loads := s.loads.map (fun x => if x.ring = l.ring ∧ x.seq = l.seq then { x with armed := true } else x) }

/-- BALE_STAGED: the bale has been fetched whole (`bale`: what host memory or another module holds; none: it could not be read). -/
def execBaleStaged (k : Nat) (bale : HostData (List Byte)) (s : State) : Out :=
  .next (
    match s.loads[k]? with
    | none => s
    | some l =>
      if l.armed ∨ !s.stagesNext k l then s
      else
        match s.fetchSpace l.port ((smGet s.rings l.ring).map (·.fn) |>.getD 0) l.ring (l.tenant.getD 0) l.space l.addr.toNat l.len bale with
        | (none, s) => s.endLoad l ldRead 0 0 false
        | (some bs, s) => s.stageBale l bs)

/-- The load can commit at a guard-start edge (R573). -/
def State.canCommit (s : State) (l : Load) : Bool :=
  l.armed && decide (1 ≤ s.tick.param.guardM1.toNat)
    && (regionsOf l.mask).all (fun r => match s.partOfRegion r with
      | some p => !(s.partTiles p).any s.taskActive
      | none => true)

/-- Frequency of a clock source in kHz: reference, or an oscillator of the die. -/
def State.sourceKhz (s : State) (d src : Nat) : Nat :=
  if src = 1 then 100000 else if 2 ≤ src ∧ src ≤ 5 then (smGetD (s.lgcDie d).osc (src - 2) 100000).toNat else 0

/-- Every net of boundary frame 0 runs at 800 MHz or less (R574). -/
def State.clocksOk (s : State) (r : Nat) : Bool :=
  let f := smGetD (s.region r).shadow (2 * 2 ^ 28) 0
  (List.range 8).all (fun c => decide (s.sourceKhz (r / 8) (dfield f (2 * c) 1) ≤ 800000 * (dfield f (2 * c + 1) 1 % 16 + 1)))

/-- The seven steps of a region's commit. -/
def State.commitRegion (s : State) (r : Nat) : State :=
  let e := s.regionEpoch r
  ((s.isolate r).updRegion r (fun x => { x with
    epoch := e,
    st := .running, stage := .none, imageValid := true, upset := false, userId := x.shadowId, active := logicFrames x.shadow,
    bram := ramFrames x.shadow, stopped := false })).cfgCtr (r / 8) 0x208 1

/-- A region of a load that empties it. -/
def State.commitClear (s : State) (r : Nat) : State :=
  ((s.emptyRegion r).updRegion r (fun x => { x with stage := .none })).cfgCtr (r / 8) 0x208 1

/-- BALE_COMMIT: a load that could commit at this guard-start edge commits in every region. -/
def execBaleCommit (k : Nat) (s : State) : Out :=
  .next (
    match s.loads[k]? with
    | none => s
    | some l =>
      if !s.tick.inGuard ∨ !l.chosen then s
      else if !l.clear ∧ (regionsOf l.mask).any (fun r => !s.clocksOk r) then
        s.endLoad l ldClock ((((regionsOf l.mask).zipIdx.find? (fun e => !s.clocksOk e.1)).map (·.2)).getD 0) 0 true
      else
        let s : State := { s with loads := s.loads.filter (fun x => !(x.ring == l.ring && x.seq == l.seq)) }
        ((regionsOf l.mask).foldl (fun s r => if l.clear then s.commitClear r else s.commitRegion r) s).finishWith l.ring l.seq 0)

/-- COMMIT_WAIT_EXPIRY. -/
def execCommitWaitExpiry (k : Nat) (s : State) : Out :=
  .next (
    match s.loads[k]? with
    | none => s
    | some l => if l.armed ∧ !(l.chosen ∧ s.tick.inGuard) then s.endLoad l ldCommitWait 0 0 true else s)

/-! ### The guard-start edge (R49, R51, R287, R573, R659, R669) -/

/-- Loads are chosen for commit, or deferred and counted. -/
def State.chooseLoads (s : State) : State :=
  let s := s.loads.foldl (fun s l =>
    if l.armed ∧ !s.canCommit l then (loadDies l.mask).foldl (fun s d => s.cfgCtr d 0x210 1) s else s) s
  { s with loads := s.loads.map (fun l => { l with chosen := s.canCommit l }) }

/-- A tile whose self-test is due. -/
def TileCtl.due (c : TileCtl) : Bool := c.requested || c.overdue || c.failedOnce

/-- Overrides that have found no window within 1 s end (R669), as far as ticks measure it. -/
def State.expireJobs (s : State) : State :=
  let late := fun (j : MarginJob) => decide (1000000000 ≤ (s.tick.count.toNat - j.tick) * s.tick.param.period.toNat)
  let out := s.health.jobs.filter late
  let s := s.updHealth (fun h => { h with jobs := h.jobs.filter (fun j => !late j) })
  out.foldl (fun s j => s.answerTo j.ring j.mctp (refusedRecord TARGET_BUSY)) s

/-- GUARD_START. -/
def execGuardStart (s : State) : Out :=
  .next (
    if !s.tick.ticks ∨ s.tick.inGuard then s
    else
      let s := s.updTick (fun t => { t with inGuard := true })
      let s := ((s.updHealth (fun h => { h with slices := 0, windowTaken := 0 })).stacksGuard).chooseLoads
      let s := s.hltCtr 0x210 (b2n (s.bup.tiles.any (fun e => e.2.due && s.taskActive e.1)))
      (s.expireJobs.settleMargin).wakeEdge .guardEdge)

/-! ### Configuration scrub (R579) -/

/-- CONFIG_SCRUB: a sweep of the die's regions ends (`upset` none), or the engine finds that the active frame at an address
holds another value than its shadow copy; true: the shadow copy itself fails parity. DEDUCED: log entry 83. -/
def execConfigScrub (r : Nat) (upset : Option (Nat × BitVec 1024 × Bool)) (s : State) : Out :=
  .next (
    let x := s.region r
    if 32 ≤ r ∨ !s.board.rails ∨ (List.range 8).any (fun j => (s.region (8 * (r / 8) + j)).stage == .staging) then s
    else
      match upset with
      | none => s.cfgCtr (r / 8) 0x218 1
      | some (a, v, bad) =>
        if !x.imageValid ∨ (a / 2 ^ 28 ≠ 0 ∧ a / 2 ^ 28 ≠ 2) ∨ typeFrames (a / 2 ^ 28) ≤ a % 2 ^ 28 ∨ (!bad ∧ v = smGetD x.shadow a 0) then s
        else
          let s :=
            if bad then (s.updRegion r (fun x => { x with upset := true })).cfgErr r 3 0 a
            else ((s.updRegion r (fun x => { x with active := smSet x.active a (smGetD x.shadow a 0) })).cfgCtr (r / 8) 0x220 1).cfgErr r 2 0 a
          s.report 11 5 r a 0 none (s.partOfRegion r) ((s.partOfRegion r).map s.partEpoch |>.getD 0))

/-! ### Registers of the logic dies (R552, R555, R574, R582 to R589) -/

/-- A Running or Armed region of a die selects an oscillator (LGC_STATUS.osc_in_use). -/
def State.oscInUse (s : State) (d n : Nat) : Bool :=
  let sel := fun (m : SMap (BitVec 1024)) => (List.range 8).any (fun c => dfield (smGetD m (2 * 2 ^ 28) 0) (2 * c) 1 == n + 2)
  (List.range 8).any (fun j =>
    let x := s.region (8 * d + j)
    (x.st == .running && sel x.active) || (x.stage == .armed && sel x.shadow))

/-- A write of LGC_OSC_n. -/
def State.oscWrite (s : State) (d n : Nat) (khz : Nat) : Option State :=
  if khz < 10000 ∨ 800000 < khz ∨ s.oscInUse d n then none
  else some (s.updLgc d (fun k => { k with osc := smSet k.osc n (BitVec.ofNat 30 khz) }))

/-- OSC_WRITE. -/
def execOscWrite (a : Agent) (d n : Nat) (khz : Word) (s : State) : Out :=
  .next (if 4 ≤ n then s else s.regWrite a (lgcBlock d + 0x20 + 8 * n) (fun s => s.oscWrite d n (khz.toNat % 2 ^ 30)))

/-- A write of LGC_HB_OWNER: neither the old nor the new owning region of a block that changes may run. A block that changes is idle and
its FIFOs are empty; the flash user area keeps its contents (R555). -/
def State.hbWrite (s : State) (d v : Nat) : Option State :=
  let own := fun (w i : Nat) => w / 2 ^ (4 * i) % 16
  let old := (s.lgcDie d).hb.toNat
  let runs := fun (o : Nat) => decide (8 ≤ o) && (s.region (8 * d + (o - 8))).st == .running
  if (List.range 9).any (fun i => (decide (2 ≤ own v i) && decide (own v i < 8)) || (own v i != own old i && (runs (own v i) || runs (own old i)))) then none
  else some (s.updLgc d (fun k => { k with hb := BitVec.ofNat 36 v, blocks := k.blocks.filter (fun e => own v e.1 == own old e.1) }))

/-- HB_OWNER_WRITE. -/
def execHbOwnerWrite (a : Agent) (d : Nat) (v : DWord) (s : State) : Out :=
  .next (s.regWrite a (lgcBlock d + 0x40) (fun s => s.hbWrite d v.toNat))

/-- LGC_CLEAR. -/
def execLgcClear (a : Agent) (d : Nat) (s : State) : Out :=
  .next (s.regWrite a (lgcBlock d + 0x10) (fun s => some (s.updLgc d (fun k => { k with ctr := [] }))))

/-- CFG_CLEAR. -/
def execCfgClear (a : Agent) (d : Nat) (s : State) : Out :=
  .next (s.regWrite a (lgcBlock d + 0x800018) (fun s => some (s.updLgc d (fun k => { k with cfgCtr := [] }))))

end Sys2Proof.Machine
end

