-- ==== Sys2Proof/Machine/Integrity.lean ====
section
/-!
DEFINITION. The collector of error reports (15 R600, R610 to R619): log entries, folded reports, events and the 1 s windows.
-/
namespace Sys2Proof.Machine

/-- Event code of a kind of log entry (R613). -/
def kindEvent (kind : Nat) : Option Nat :=
  match kind with
  | 1 => some 0x60
  | 13 => some 0x61
  | 9 => some 0x62
  | 10 => some 0x63
  | 11 => some 0x64
  | 12 => some 0x65
  | 8 => some 0x66
  | 6 => some 0x67
  | _ => none

/-- Post an entry's event: at most one per code per tick, and only when its bit of event_en is set. -/
def State.postEntry (s : State) (r : Report) (n : Nat) : State :=
  match kindEvent r.kind with
  | none => s
  | some code =>
    if s.integ.eventEn.getLsbD (code - 0x60) && !s.integ.postedTick.getLsbD (code - 0x60) then
      (s.updInt (fun x => { x with postedTick := setBit x.postedTick (code - 0x60) true })).ownerEvent code (r.part.getD 0xFF) r.unit
        (n % 2 ^ 32 * 2 ^ 32 + r.kind)
    else s

/-- Records that count toward transit_per_s (R613). -/
def Report.transit (r : Report) : Bool := r.kind == 2 || r.kind == 3 || r.kind == 6

/-- Write a log entry. -/
def State.logEntry (s : State) (r : Report) : State :=
  let n := s.integ.logCount
  let s := s.updInt (fun x =>
    let w := if r.transit then x.transitWin + 1 else x.transitWin
    { x with
      log := smSet x.log (n % 256) (n, r), logCount := n + 1, sinceClear := x.sinceClear + 1,
      logWrapped := x.logWrapped || decide (256 < x.sinceClear + 1), transitWin := w,
      transitOver := x.transitOver || (x.transitThresh != 0 && decide (x.transitThresh.toNat < w)) })
  s.postEntry r n

/-- The latest entry of a report's unit and kind that the log still holds. -/
def Integrity.foldInto (x : Integrity) (r : Report) : Option (Nat × Nat × Report) :=
  ((x.log.filter (fun e => e.2.2.kind == r.kind && e.2.2.source == r.source && e.2.2.unit == r.unit)).foldl
    (fun best e => match best with | some b => if b.2.1 < e.2.1 then some e else some b | none => some e) none)

/-- ERROR_REPORT: report `i` reaches the collector; `within`: it comes within 1 µs of the last of its kind and unit. -/
def execErrorReport (i : Nat) (within : Bool) (s : State) : Out :=
  .next (
    match s.integ.reports[i]? with
    | none => s
    | some r =>
      let s := s.updInt (fun x => { x with reports := removeNth x.reports i })
      match within, s.integ.foldInto r with
      | true, some e =>
        (s.updInt (fun x => { x with log := smSet x.log e.1 (e.2.1, { e.2.2 with folded := min 65535 (e.2.2.folded + 1) }) })).intCtr 0x148 1
      | _, _ => s.logEntry r)

/-- CE_RATE_WINDOW: the 1 s window of corrected reads ends. -/
def execCeRateWindow (s : State) : Out :=
  .next (
    let over_ := s.integ.ceWin.filter (fun e => s.integ.ceThresh != 0 && decide (s.integ.ceThresh.toNat < e.2))
    let s := over_.foldl (fun s e => s.logEntry { kind := 10, source := 3, unit := e.1, tick := s.tick.count }) s
    s.updInt (fun x => { x with ceWin := [], ceOver := false }))

/-- TRANSIT_RATE_WINDOW: the 1 s window of transit records ends. -/
def execTransitRateWindow (s : State) : Out :=
  .next (
    let x := s.integ
    let s := if x.transitThresh != 0 && decide (x.transitThresh.toNat < x.transitWin) then s.logEntry { kind := 13, source := 4, unit := 0, tick := s.tick.count } else s
    s.updInt (fun x => { x with transitWin := 0, transitOver := false }))

/-- INT_CLEAR. -/
def execIntClear (a : Agent) (s : State) : Out :=
  .next (s.regWrite a 0x10028 (fun s => some (s.updInt (fun x => { x with ctr := [], logWrapped := false, sinceClear := 0 }))))

end Sys2Proof.Machine
end

