-- ==== Sys2Proof/Machine/Fec.lean ====
section
/-!
DEFINITION. The check and correction code of a link symbol block (12 R476 to R479): the two Reed-Solomon codewords, the CRC, and the
lane that carries a byte.
-/
namespace Sys2Proof.Machine

/-! ### The field GF(2^8) with x^8 + x^4 + x^3 + x^2 + 1 (R478) -/

/-- Multiply by α. -/
def fecDouble (a : Nat) : Nat := if 128 ≤ a then (2 * a) ^^^ 0x11D else 2 * a

/-- Product; `k` counts the bits of b that are left. -/
def fecMulBits (a b : Nat) : Nat → Nat
  | 0 => 0
  | k + 1 => (if b % 2 = 1 then a else 0) ^^^ fecMulBits (fecDouble a) (b / 2) k

def fecMul (a b : Nat) : Nat := fecMulBits a b 8

/-- α^n. -/
def fecExp : Nat → Nat
  | 0 => 1
  | n + 1 => fecDouble (fecExp n)

/-- Inverse of a non-zero element: a^254, the product of the squarings a^2 to a^128. -/
def fecInv (a : Nat) : Nat :=
  ((List.range 7).foldl (fun (r : Nat × Nat) _ => let q := fecMul r.2 r.2; (fecMul r.1 q, q)) (1, a)).1

/-! ### Where the bytes of a block lie (R476 to R478) -/

/-- Codeword of byte i of a block, and the degree of its coefficient: message bytes first, then the parity. -/
def codePlace (i : Nat) : Nat × Nat :=
  if i < 268 then
    let c := i / 8 % 2
    (c, (if c = 0 then 141 else 137) - (i / 16 * 8 + i % 8))
  else if i < 274 then (0, 273 - i)
  else (1, 279 - i)

/-- Symbols of a codeword. -/
def codeLength (c : Nat) : Nat := if c = 0 then 142 else 138

/-- Byte of a block at a place of a codeword. -/
def codeByte (c degree : Nat) : Option Nat := (List.range 280).find? (fun i => codePlace i == (c, degree))

/-- Logical lane of byte i at width w (R476). -/
def byteLane (w i : Nat) : Nat := i % w

/-- Symbols of a byte in the order in which its lane sends them: two bits each, the more significant first, bits 7 and 6 before the
others (R476). Their PAM4 levels are what the wire alone shows. -/
def byteSymbols (b : Byte) : List (Bool × Bool) := [7, 5, 3, 1].map (fun k => (b.getLsbD k, b.getLsbD (k - 1)))

/-- Physical lane of a logical lane: the lanes that carry blocks in ascending order (R484). -/
def logicalLane (lanes : BitVec 9) (i : Nat) : Nat := (((List.range 9).filter (fun k => lanes.getLsbD k))[i]?).getD 0

/-! ### Decoding (R478, R479) -/

/-- Bytes in error: index and wrong bits. -/
abbrev Errors := List (Nat × Nat)

/-- Syndrome of the errors of a codeword, given by degree: at the root α^i. -/
def syndrome (es : Errors) (i : Nat) : Nat := es.foldl (fun n e => n ^^^ fecMul e.2 (fecExp (i * e.1 % 255))) 0

/-- Quotient; 0 when the divisor is 0. -/
def fecDiv (a b : Nat) : Nat := if b = 0 then 0 else fecMul a (fecInv b)

/-- Coefficients of the locator for ν errors: X^ν + c₁ X^(ν-1) + … has the error positions as its roots. None: no such locator. -/
def locator (s : Nat → Nat) (nu : Nat) : Option (List Nat) :=
  match nu with
  | 1 => if s 0 = 0 then none else some [fecDiv (s 1) (s 0)]
  | 2 =>
    let d := fecMul (s 0) (s 2) ^^^ fecMul (s 1) (s 1)
    if d = 0 then none
    else some [fecDiv (fecMul (s 0) (s 3) ^^^ fecMul (s 1) (s 2)) d, fecDiv (fecMul (s 2) (s 2) ^^^ fecMul (s 1) (s 3)) d]
  | _ =>
    let det := fun (a b c d e f g h i : Nat) =>
      fecMul a (fecMul e i ^^^ fecMul f h) ^^^ fecMul b (fecMul d i ^^^ fecMul f g) ^^^ fecMul c (fecMul d h ^^^ fecMul e g)
    let d := det (s 0) (s 1) (s 2) (s 1) (s 2) (s 3) (s 2) (s 3) (s 4)
    if d = 0 then none
    else some [
      fecDiv (det (s 0) (s 1) (s 3) (s 1) (s 2) (s 4) (s 2) (s 3) (s 5)) d,
      fecDiv (det (s 0) (s 3) (s 2) (s 1) (s 4) (s 3) (s 2) (s 5) (s 4)) d,
      fecDiv (det (s 3) (s 1) (s 2) (s 4) (s 2) (s 3) (s 5) (s 3) (s 4)) d]

/-- A polynomial with leading coefficient 1 at a point. -/
def locate (cs : List Nat) (x : Nat) : Nat := cs.foldl (fun n c => fecMul n x ^^^ c) 1

/-- Degrees below n at which a locator is zero. -/
def errorDegrees (cs : List Nat) (n : Nat) : List Nat := (List.range n).filter (fun d => locate cs (fecExp d) == 0)

/-- Values of errors at given degrees, from the first syndromes. -/
def errorValues (s : Nat → Nat) : List Nat → List Nat
  | [_] => [s 0]
  | [a, b] =>
    let x := fecExp a
    let y := fecExp b
    let v := fecDiv (s 1 ^^^ fecMul y (s 0)) (x ^^^ y)
    [v, s 0 ^^^ v]
  | [a, b, c] =>
    let value := fun (x y z : Nat) => fecDiv (s 2 ^^^ fecMul (y ^^^ z) (s 1) ^^^ fecMul (fecMul y z) (s 0)) (fecMul (x ^^^ y) (x ^^^ z))
    let x := fecExp a
    let y := fecExp b
    let z := fecExp c
    [value x y z, value y z x, value z x y]
  | _ => []

/-- What the decoder corrects in a codeword of n symbols, or none where it cannot decode: the pattern of at most 3 bytes that has the
syndromes of the errors. -/
def rsCorrect (es : Errors) (n : Nat) : Option Errors :=
  let s := syndrome es
  if (List.range 6).all (fun i => s i == 0) then some []
  else
    [3, 2, 1].findSome? (fun nu =>
      (locator s nu).bind (fun cs =>
        let ds := errorDegrees cs n
        let fix := ds.zip (errorValues s ds)
        if ds.length = nu ∧ (List.range 6).all (fun i => syndrome fix i == s i) then some fix else none))

/-- Combine errors and corrections: what is left wrong. -/
def leftOver (es fix : Errors) : Errors :=
  (fix.foldl (fun (m : SMap Nat) e => smUpd m e.1 0 (fun v => v ^^^ e.2)) (es.foldl (fun (m : SMap Nat) e => smUpd m e.1 0 (fun v => v ^^^ e.2)) [])).filter
    (fun e => e.2 != 0)

/-- The CRC-32C still matches with these bytes of the block wrong (R477, R479): the code is linear, so the CRC of the wrong bits alone
must be the wrong bits of bytes 264 to 267. -/
def crcBlind (wrong : Errors) : Bool :=
  wrong.isEmpty ||
    (let at_ := fun (i : Nat) => BitVec.ofNat 8 (smGetD wrong i 0)
     ((List.range 264).foldl (fun c i => crcByte c (at_ i)) 0) == ofLe ((List.range 4).map (fun i => at_ (264 + i))))

/-- A block with bytes in error at the receiver: the bytes that the decoder corrects, and whether both codewords decode and the CRC
matches (R479). -/
def decodeBlock (es : Errors) : List Nat × Bool :=
  let part := fun (c : Nat) => (es.filter (fun e => decide (e.1 < 280) && (codePlace e.1).1 == c)).map (fun e => ((codePlace e.1).2, e.2))
  let fixes := [0, 1].map (fun c => (rsCorrect (part c) (codeLength c)).map (fun f =>
    f.filterMap (fun e => (codeByte c e.1).map (fun i => (i, e.2)))))
  let fix := fixes.flatMap (fun f => f.getD [])
  (fix.map (·.1), fixes.all Option.isSome && crcBlind (leftOver (es.filter (fun e => decide (e.1 < 280))) fix))

end Sys2Proof.Machine
end

