-- ==== Sys2Proof/Machine/Lanes.lean ====
section
/-!
DEFINITION. Serial lanes and link bring-up (12 R476 to R502): blocks received and acknowledged, the phases of bring-up,
training markers, resync and retraining, and the LNK_ commands. A port sends one block for each that it receives, an idle one if it has
nothing to send (DESIGN CHOICE, log entry 16).
-/
namespace Sys2Proof.Machine

/-! ### Lanes of a port -/

def Link.lane (l : Link) (k : Nat) : Lane := smGetD l.lanes k {}
def State.updLane (s : State) (q k : Nat) (f : Lane → Lane) : State :=
  s.updLink q (fun l => { l with lanes := smUpd l.lanes k {} f })
/-- Change every lane of a port. -/
def State.allLanes (s : State) (q : Nat) (f : Lane → Lane) : State := (List.range 9).foldl (fun s k => s.updLane q k f) s

/-- A mask of lanes. -/
def laneMask (p : Nat → Bool) : BitVec 9 := BitVec.ofNat 9 (maskOf 9 p)

/-- LNK_ERR of a die keeps the first event (R501). -/
def State.lnkErr (s : State) (q kind lane : Nat) : State :=
  s.updLnkDie (q / 8) (fun k => { k with err := firstErr k.err (BitVec.ofNat 64 (kind * 2 ^ 56 + q * 2 ^ 48 + lane * 2 ^ 40)) })

/-- An owner event of a port (R528). DEDUCED: log entry 45. -/
def State.portEvent (s : State) (q code lane : Nat) : State :=
  s.grangerEvent code 0xFF q ((s.fport q).peerModule.toNat * 65536 + lane)

/-- The receiver reports the lane good: locked, aligned, not lost (R480, R500). -/
def Lane.judged (x : Lane) : Lane := { x with rxGood := x.locked && x.aligned && !x.lost }

/-- Lanes that the transmitter may use: the peer receives them and they are not disabled (R484). -/
def Link.usable (l : Link) : BitVec 9 := laneMask (fun k => l.peerGood.getLsbD k && !(l.lane k).disable)

/-- The transmitter's choice (R484). -/
def chooseLanes (g : BitVec 9) : BitVec 9 :=
  let ks := (List.range 9).filter (fun k => g.getLsbD k)
  let n := ks.length
  let pick := fun (m : Nat) => laneMask (fun k => (ks.take m).contains k)
  if 8 ≤ n then pick 8 else if 4 ≤ n then pick 4 else 0

/-! ### Attempts (R482, R490, R494) -/

/-- An attempt starts from Adapt. -/
def State.startAdapt (s : State) (q : Nat) : State :=
  let s := s.allLanes q (fun x => { x with locked := false, aligned := false, matched := false, rxGood := false, trials := 0, seen := 15 })
  (s.updLink q (fun l => { l with phase := .adapt, waiting := false, selfSeen := false, peerReady := false, selfReady := false, lastMark := [] })).lnkCtr q 0x138 1

/-- A full retrain (R490): a new run of attempts. -/
def State.fullRetrain (s : State) (q : Nat) : State := (s.updLink q (fun l => { l with attempts := 0 })).startAdapt q

/-- A resync (R488, R489): markers on all nine lanes. -/
def State.startResync (s : State) (q : Nat) : State :=
  let all := !(List.range 9).any (fun k => ((s.link q).lane k).locked)
  let s := s.updLink q (fun l => { l with phase := if all then .fastRetrain else .resync, peerReady := false, selfReady := false, lastMark := [], ackRun := 0, rejWin := 0 })
  let s := s.allLanes q (fun x => { x with ceWin := 0 })
  if all then s.lnkCtr q 0x130 1 else s

/-- The fabric side of a port that has Failed (R451, R494). -/
def State.portFailed (s : State) (q : Nat) : State :=
  let s := (s.updLink q (fun l => { l with phase := .failed, fresh := true, retry := [], waiting := false })).lnkErr q 6 15
  let s := if (s.fport q).st = .held then s.portDown q else s
  let s := (s.updFport q (fun p => { p.unlinked with st := .failed })).portEvent q 0x25 0
  s.capUpdate

/-- SIGNAL_DETECT: a lane detects a signal; a port in NoSignal starts an attempt. -/
def execSignalDetect (q l : Nat) (s : State) : Out :=
  .next (
    let x := s.link q
    if x.phase = .off ∨ x.phase = .loopback ∨ 9 ≤ l then s
    else
      let s := s.updLane q l (fun x => { x with signal := true })
      if x.phase = .noSignal then s.startAdapt q else s)

/-- CLOCK_RECOVERY_LOCK: a lane with a signal locks; when every such lane has, Adapt ends. -/
def execClockRecoveryLock (q l : Nat) (s : State) : Out :=
  .next (
    let x := s.link q
    if !(x.phase = .adapt ∨ x.phase = .fastRetrain) ∨ x.waiting ∨ !(x.lane l).signal then s
    else
      let s := s.updLane q l (fun x => { x with locked := true })
      let y := s.link q
      if x.phase = .adapt ∧ (List.range 9).all (fun k => !(y.lane k).signal || (y.lane k).locked) then
        s.updLink q (fun l => { l with phase := .align })
      else if x.phase = .fastRetrain then s.updLane q l Lane.judged
      else s)

/-- SLIP_TRIAL: Granger writes slip and invert of every lane still searching and reads match: (lane, slip, invert, match).
When every locked lane has matched or has had its 16 trials, the aligned lanes go on to Exchange. The deskew that a lane
needs is a free value. -/
def execSlipTrial (q : Nat) (slips : List (Nat × Nat × Bool × Bool)) (s : State) : Out :=
  .next (
    if (s.link q).phase ≠ .align ∨ (s.link q).waiting ∨ !s.bup.grangerUp then s
    else
      let s := slips.foldl (fun s e =>
        let x := (s.link q).lane e.1
        if e.1 < 9 ∧ x.locked ∧ !x.matched ∧ x.trials < 16 then
          s.updLane q e.1 (fun x => { x with slip := BitVec.ofNat 3 e.2.1, invert := e.2.2.1, matched := e.2.2.2, trials := x.trials + 1 })
        else s) s
      let ks := (List.range 9).filter (fun k => ((s.link q).lane k).locked)
      let fin := ks.all (fun k => ((s.link q).lane k).matched || decide (16 ≤ ((s.link q).lane k).trials))
      if fin && ks.any (fun k => ((s.link q).lane k).matched) then
        let s := ks.foldl (fun (s : State) k =>
          if ((s.link q).lane k).matched then
            let (v, s) := s.free 6
            s.updLane q k (fun x => { x with aligned := true, skew := v }.judged)
          else s) s
        s.updLink q (fun l => { l with phase := .exchange })
      else s)

/-- PHASE_TIMEOUT: the attempt ends; after the configured number of attempts the port is Failed. A port that sees itself stays
in Exchange (R485). -/
def execPhaseTimeout (q : Nat) (s : State) : Out :=
  .next (
    let x := s.link q
    if !(x.phase = .adapt ∨ x.phase = .align ∨ x.phase = .exchange) ∨ x.waiting ∨ x.selfSeen then s
    else
      let s := (s.updLink q (fun l => { l with attempts := l.attempts + 1 })).lnkErr q 5 15
      if (s.lnkDie (q / 8)).attempts.toNat ≤ (s.link q).attempts then s.portFailed q
      else s.updLink q (fun l => { l with waiting := true }))

/-- ATTEMPT_RESTART. -/
def execAttemptRestart (q : Nat) (s : State) : Out := .next (if (s.link q).waiting then s.startAdapt q else s)

/-! ### Running (R482, R489, R491 to R493) -/

/-- A change of lanes in service is told to the owner (R493), and clears the measured delay (R492). -/
def State.lanesChanged (s : State) (q : Nat) (oldTx oldRx : BitVec 9) : State :=
  let x := s.link q
  let spared := fun (old new : BitVec 9) => old != 0 && popcount new == 8 && new.getLsbD 8 && !old.getLsbD 8
  let narrowed := fun (old new : BitVec 9) => popcount old == 8 && popcount new == 4
  let lost := fun (old new : BitVec 9) => ((List.range 9).find? (fun k => old.getLsbD k && !new.getLsbD k)).getD 0
  let s := if spared oldTx x.txLanes then s.portEvent q 0x23 (lost oldTx x.txLanes) else s
  let s := if spared oldRx x.rxLanes then s.portEvent q 0x23 (lost oldRx x.rxLanes) else s
  let s := if narrowed oldTx x.txLanes then s.portEvent q 0x24 (lost oldTx x.txLanes) else s
  let s := if narrowed oldRx x.rxLanes then s.portEvent q 0x24 (lost oldRx x.rxLanes) else s
  if oldTx ≠ x.txLanes ∨ oldRx ≠ x.rxLanes then s.updFport q (fun p => { p with delayValid := false, echoes := [] }) else s

/-- The peer holds nothing of the link, or is another: this side restarts at link_seq 0 too (R491). -/
def State.peerFresh (s : State) (q : Nat) : State :=
  let s := if (s.fport q).st = .held then s.portDown q else s
  (s.updFport q FPort.unlinked).updLink q (fun l => { l with retry := [], fresh := true })

/-- A replay: every block in the retry buffer goes out again with its units and credit, and with link_ack and the stamps afresh (R487). -/
def State.replay (s : State) (q : Nat) : State :=
  (s.link q).retry.foldl (fun s b =>
    let (tx, s) := s.free 11
    let (turn, s) := s.free 6
    s.updLink q (fun l => { l with retry := l.retry.map (fun x =>
      if x.seq = b.seq then { x with ack := l.accepted, echoTx := tx, echoRx := (s.fport q).peerTx, echoTurn := turn } else x) })) s

/-- Blocks flow again: from link_seq 0, or from the block that the peer expects. A link that starts afresh sends
LINK_HELLO first. -/
def State.resume (s : State) (q : Nat) (m : TMarker) (changed : Bool) : State :=
  let x := s.link q
  let was := x.phase
  let s := if m.fresh ∨ changed then s.peerFresh q else s
  let again := (s.link q).fresh
  let s := s.updLink q (fun l =>
    let l := { l with phase := .running, attempts := 0, waiting := false, lastMark := [], ackRun := 0, ran := true }
    if again then { l with retry := [], nextSeq := 0, accepted := 0x3ff, lastAck := 0x3ff, hello := false, helloSent := false }
    else { l with retry := l.retry.filter (fun b => !decide ((m.expect - 1 - b.seq).toNat < 512)) })
  let s := if was = .exchange then s else s.lnkCtr q 0x128 1
  ((s.replay q).sendHello q).drain q

/-- Two markers agree in a field. -/
def agree {α : Type} [DecidableEq α] (a b : TMarker) (f : TMarker → α) : Bool := f a == f b

/-- The fields of a marker that two in a row agree in are acted on (R481, R484, R485). -/
def Link.takeMarker (l : Link) (k : Nat) (p m : TMarker) : Link :=
  let l := if agree p m (·.lane) then { l with lanes := smUpd l.lanes k {} (fun x => { x with seen := BitVec.ofNat 4 m.lane }) } else l
  let l := if agree p m (·.rxGood) then { l with peerGood := m.rxGood } else l
  let l := if agree p m (·.txLanes) then
      { l with rxLanes := laneMask (fun j => (l.lane j).aligned && decide ((l.lane j).seen.toNat < 9) && m.txLanes.getLsbD (l.lane j).seen.toNat) }
    else l
  let tx := chooseLanes l.usable
  let l := { l with txLanes := tx, txW4 := popcount tx == 4, rxW4 := popcount l.rxLanes == 4 }
  { l with
    selfReady := l.txLanes != 0 && m.txLanes != 0 && popcount l.rxLanes == popcount m.txLanes && !l.selfSeen
    peerReady := if agree p m (·.ready) then m.ready else l.peerReady }

/-- TRAINING_MARKER: a marker on an aligned lane. On a lane that should carry blocks it starts a resync; in Exchange, a
resync or a fast retrain it carries the choice of lanes and readiness. -/
def execTrainingMarker (q l : Nat) (m : TMarker) (s : State) : Out :=
  .next (
    let x := s.link q
    if !(x.lane l).aligned then s
    else if x.phase = .running then
      if x.rxLanes.getLsbD l then s.startResync q
      else
        let s := s.updLink q (fun x => { x with lastMark := smSet x.lastMark l m })
        match smGet x.lastMark l with
        | some p =>
          -- the peer may have lost a lane that carries no blocks: the table shows it (R493)
          if agree p m (·.rxGood) && m.rxGood != x.peerGood then (s.updLink q (fun x => { x with peerGood := m.rxGood })).capUpdate else s
        | none => s
    else if !(x.phase = .exchange ∨ x.phase = .resync ∨ x.phase = .fastRetrain) ∨ x.waiting then s
    else
      let s := s.updLink q (fun x => { x with lastMark := smSet x.lastMark l m })
      match smGet x.lastMark l with
      | none => s
      | some p =>
        let named := m.idValid && agree p m (·.idValid) && agree p m (·.modid) && agree p m (·.port)
        let self := named && s.fab.idAssigned && m.modid == s.ownId && m.port == q
        let changed := named && (match x.peer with | some e => e != (m.modid, m.port) | none => false)
        let s := s.updLink q (fun x => (if self then { x with selfSeen := true } else if named then { x with peer := some (m.modid, m.port) } else x))
        let s := if changed && !self then (s.lnkErr q 7 15).portEvent q 0x26 0 else s
        -- a change of peer stands until the link has restarted
        let s := if changed && !self then s.peerFresh q else s
        let s := s.updLink q (fun x => x.takeMarker l p m)
        let y := s.link q
        if y.phase ≠ .exchange ∧ agree p m (·.rxGood) ∧ popcount y.usable < 4 then s.fullRetrain q
        else if y.selfReady ∧ y.peerReady ∧ agree p m (·.fresh) ∧ agree p m (·.expect) then
          ((s.resume q m changed).lanesChanged q x.txLanes x.rxLanes).capUpdate
        else s)

/-! ### Losing a lane or the link (R488, R490, R493) -/

/-- A lane is lost in service. -/
def State.loseLane (s : State) (q l : Nat) : State :=
  s.updLane q l (fun x => { x with lost := true, rxGood := false })

/-- LANE_LOCK_LOSS. -/
def execLaneLockLoss (q l : Nat) (s : State) : Out :=
  .next (
    let x := s.link q
    if !(x.lane l).locked then s
    else
      let s := s.updLane q l (fun x => { x with locked := false, rxGood := false })
      if x.phase = .running then
        let s := s.loseLane q l
        if x.rxLanes.getLsbD l then (s.lnkErr q 1 l).startResync q else s.capUpdate
      else if x.phase = .resync then (if (List.range 9).any (fun k => ((s.link q).lane k).locked) then s else s.startResync q)
      else s)

/-- ERROR_WINDOW: the 1 ms window ends. -/
def execErrorWindow (q : Nat) (s : State) : Out :=
  .next (
    let x := s.link q
    let c := s.lnkDie (q / 8)
    if x.phase ≠ .running then s
    else
      let worn := (List.range 9).filter (fun k => x.rxLanes.getLsbD k && decide (c.ceLimit.toNat < (x.lane k).ceWin))
      let s := s.allLanes q (fun x => { x with ceWin := 0 })
      let s := s.updLink q (fun l => { l with rejWin := 0 })
      match worn with
      | k :: _ => ((worn.foldl (fun s k => s.loseLane q k) s).lnkErr q 2 k).startResync q
      | [] => if c.ueLimit.toNat < x.rejWin then (s.lnkErr q 3 15).startResync q else s)

/-- RESYNC_TIMEOUT: a fast retrain follows. -/
def execResyncTimeout (q : Nat) (s : State) : Out :=
  .next (
    if (s.link q).phase ≠ .resync then s
    else
      let s := s.allLanes q (fun x => { x with locked := false, rxGood := false })
      ((s.updLink q (fun l => { l with phase := .fastRetrain, peerReady := false, selfReady := false, lastMark := [] })).lnkErr q 4 15).lnkCtr q 0x130 1)

/-- FAST_RETRAIN_TIMEOUT: a full retrain follows. -/
def execFastRetrainTimeout (q : Nat) (s : State) : Out := .next (if (s.link q).phase = .fastRetrain then s.fullRetrain q else s)

/-! ### Blocks (R429, R460, R479, R486, R487) -/

/-- A frame that no sender may send: a reserved opcode, a reserved bit, or a size beyond R431 (R432). -/
def Frame.malformed (f : Frame) : Bool :=
  f.rsv || decide (256 < f.size) ||
    match f.op with
    | .reserved => true
    | .read => f.size == 0 || !f.data.isEmpty
    | .atomic => !([1, 2, 4, 8].contains f.size)
    | .write | .mcastWrite => f.size == 0 || f.data.length != f.size
    | .readRsp | .atomicRsp => f.data.length != f.size
    | .redPart | .redResult => f.vec.isEmpty || f.size != f.vec.length * elemBytes f.red.etype
    | _ => false

/-- A request that reaches the module from the fabric ends deep idle (R644). -/
def Frame.wakes (f : Frame) (own : Nat) : Bool := f.op == .mcastWrite || (f.op.isRequest && f.dst == own)

/-- A whole frame has arrived: it is queued at the port's die. A malformed one is discarded (R432), and so is every frame but LINK_HELLO
at a die that is not enabled (R467, R482); their credit is owed at once. DEDUCED: log entry 112. -/
def State.takeFrame (s : State) (q : Nat) (f : Frame) : State :=
  let s := s.kfbCtr (q / 8) 0x208 1
  if f.malformed then (s.kfbErr (q / 8) 7 q f.src f.seq.toNat).oweUnits q f
  else if !(s.kfb (q / 8)).enable && f.op != .linkHello then s.oweUnits q f
  else (if f.wakes s.ownId then s.deepExit 2 else s).addParcel (some q) (q / 8) f

/-- A unit that makes no sense: data of no frame, or a header while another frame's units are still to come, unless a control frame
interrupts it (R433). -/
def FPort.nonsense (p : FPort) : FrameUnit → Bool
  | .idle => false
  | .data => p.rx.isEmpty
  | .head f => !p.rx.isEmpty && f.op.cls != 3

/-- The units of an accepted block. Blocks that stop making sense start a resync (R488). -/
def State.takeUnits (s : State) (q : Nat) : List FrameUnit → State
  | [] => s
  | u :: us =>
    if (s.fport q).nonsense u then (s.updFport q (fun p => { p with rx := [] })).startResync q
    else
      (match u with
      | .idle => s
      | .head f => if f.dataUnits = 0 then s.takeFrame q f else s.updFport q (fun p => { p with rx := (f, f.dataUnits) :: p.rx })
      | .data =>
        match (s.fport q).rx with
        | (f, n + 2) :: rest => s.updFport q (fun p => { p with rx := (f, n + 1) :: rest })
        | (f, _) :: rest => (s.updFport q (fun p => { p with rx := rest })).takeFrame q f
        | [] => s).takeUnits q us

/-- The echo of a block, in 1/8 ns: of the values that differ by 256 ns, the one nearest the coarse round trip. -/
def echoTrip (arrival : Nat) (b : Block) (coarse : Nat) : Nat :=
  let v := (arrival + 4096 - b.echoRx.toNat - b.echoTurn.toNat) % 2048
  v + (coarse + 1024 - v) / 2048 * 2048

/-- Keep the mean of the last 1,024 echoes: half a round trip in 1/8 ns is the trip's number in 1/16 ns (R460, R474). -/
def State.measure (s : State) (q trip : Nat) : State :=
  s.updFport q (fun p =>
    let es := (trip :: p.echoes).take 1024
    if es.length = 1024 then { p with echoes := es, delayValid := true, delay := BitVec.ofNat 32 (es.foldl (· + ·) 0 / 1024) }
    else { p with echoes := es })

/-- The blocks that a link_ack covers leave the retry buffer, and the adaptive lanes' credit of their frames comes back (DESIGN CHOICE,
log entry 40). -/
def State.freeRetry (s : State) (q : Nat) (ack : BitVec 10) : State :=
  let done := (s.link q).retry.filter (fun b => decide ((ack - b.seq).toNat < 512))
  let s := (done.flatMap Block.frames).foldl (fun s f =>
    if f.lane = 4 then s.updFport q (fun p => { p with used := smUpd p.used f.laneKey 0 (fun n => n - f.length) }) else s) s
  s.updLink q (fun l => { l with retry := l.retry.filter (fun b => !decide ((ack - b.seq).toNat < 512)) })

/-- The peer's link_ack frees the retry buffer; the fourth equal one in a row starts a replay. -/
def State.takeAck (s : State) (q : Nat) (ack : BitVec 10) : State :=
  let s := (s.freeRetry q ack).updLink q (fun l => { l with ackRun := if l.lastAck = ack then l.ackRun + 1 else 1, lastAck := ack })
  let x := s.link q
  if 4 ≤ x.ackRun ∧ !x.retry.isEmpty then
    (((s.updLink q (fun l => { l with ackRun := 0 })).replay q).lnkCtr q 0x118 1).lnkCtr q 0x120 x.retry.length
  else s

/-- Corrected bytes are counted, each against the physical lane that carried it (R476, R479). -/
def State.countCorrected (s : State) (q : Nat) (bytes : List Nat) : State :=
  bytes.foldl (fun s i =>
    let x := s.link q
    (s.lnkCtr q 0x108 1).updLane q (logicalLane x.rxLanes (byteLane (if x.rxW4 then 4 else 8) i))
      (fun l => { l with ce := satAdd 48 l.ce 1, ceWin := l.ceWin + 1 })) s

/-- An accepted block: its credit and its units count (R429, R487). -/
def State.acceptBlock (s : State) (q : Nat) (b : Block) : State :=
  let s := (s.updLink q (fun l => { l with accepted := b.seq })).lnkCtr q 0x100 1
  let key := b.credSel.toNat / 4 * 8 + b.credSel.toNat % 4
  (s.updFport q (fun p => { p with used := smUpd p.used key 0 (fun n => n - b.credCnt.toNat) })).takeUnits q b.units

/-- The block that answers one received: it carries what is queued, or nothing, and returns the stamp (R429, R460, R486). -/
def State.answerBlock (s : State) (q arrival turn : Nat) : State :=
  let us := if s.linkTakes q then s.fillUnits q 9 8 else ([], s)
  if (s.link q).phase = .running ∧ (s.link q).retry.length < 256 then
    (us.2.pushBlock q us.1 (some (BitVec.ofNat 11 (arrival + turn), BitVec.ofNat 6 turn))).drain q
  else s

/-- BLOCK_RECEIVE: a block, the bytes that arrive in error (index, wrong bits), its arrival in 1/8 ns, the coarse round trip and the time
to the next block sent. It is clean if the decoder says so (R478, R479); `clean` false: it is damaged beyond what the errors say. -/
def execBlockReceive (q : Nat) (b : Block) (clean : Bool) (errors : List (Nat × Nat)) (arrival : Nat) (times : EchoTimes) (s : State) : Out :=
  .next (
    if (s.link q).phase ≠ .running then s
    else
      let d := decodeBlock errors
      let s := s.countCorrected q d.1
      if !clean || !d.2 then ((s.lnkCtr q 0x110 1).updLink q (fun l => { l with rejWin := l.rejWin + 1 })).answerBlock q arrival times.turn
      else
        let s := ((s.measure q (echoTrip arrival b times.coarse)).takeAck q b.ack).updFport q (fun p => { p with peerTx := b.echoTx })
        (if b.seq = (s.link q).accepted + 1 then s.acceptBlock q b else s).answerBlock q arrival times.turn)

/-! ### Registers (R495, R498, R501) -/

/-- LNK_ block of an I/O die. -/
def lnkBlock (d : Nat) : Nat := ioBlock d + 0x800000

/-- The port starts or stops training (R451, R482, R498). -/
def State.portEnable (s : State) (q : Nat) (on : Bool) : State :=
  let x := s.link q
  if on = x.enable || (on && s.bup.badPorts.getLsbD q) then s
  else if on then
    let s := (s.updLink q (fun l => { l with enable := true, phase := .noSignal, attempts := 0, fresh := true })).updFport q (fun p => { p with st := .training })
    if (List.range 9).any (fun k => (x.lane k).signal) then s.startAdapt q else s
  else
    let s := s.allLanes q (fun x => { x with locked := false, aligned := false, matched := false, rxGood := false })
    let s := (s.updLink q (fun l => { l with enable := false, phase := .off, retry := [], fresh := true, waiting := false, attempts := 0, txLanes := 0, rxLanes := 0, selfSeen := false })).updFport q
      (fun p => { p.unlinked with st := .disabled, holdLeft := 0, delayValid := false, echoes := [] })
    (s.fab.mcasts.foldl (fun s m => if m.waiting.getLsbD q then (s.pruneBranch m.id q).mcastAdvance m.id else s) s).capUpdate

/-- The owner asks for a full retrain: every lane not disabled is eligible again (R490, R493, R494). -/
def State.ownerRetrain (s : State) (q : Nat) : State :=
  if (s.link q).enable then
    let s := s.allLanes q (fun x => { x with lost := false })
    let s := if (s.fport q).st = .failed then (s.stayOnAlt q).updFport q (fun p => { p with st := .training }) else s
    s.fullRetrain q
  else s

/-- A write of LNK_CTRL. -/
def State.lnkCtrlWrite (s : State) (q : Nat) (v : Word) : Option State :=
  let s := s.portEnable q (v.getLsbD 0)
  some (if v.getLsbD 1 then s.ownerRetrain q else s)

/-- Offset of a port's registers. -/
def portRegs (q : Nat) : Nat := lnkBlock (q / 8) + 0x1000 + 0x1000 * (q % 8)

/-- PORT_ENABLE. -/
def execPortEnable (a : Agent) (q : Nat) (on : Bool) (s : State) : Out :=
  .next (s.regWrite a (portRegs q) (fun s => s.lnkCtrlWrite q (if on then 1 else 0)))

/-- RETRAIN: with enable at its value. -/
def execRetrain (a : Agent) (q : Nat) (s : State) : Out :=
  .next (s.regWrite a (portRegs q) (fun s => s.lnkCtrlWrite q (if (s.link q).enable then 3 else 2)))

/-- A write of LNK_TEST: refused while the port is enabled. -/
def State.testWrite (s : State) (q mode : Nat) : Option State :=
  if (s.link q).enable ∨ 4 ≤ mode then none
  else some (s.updLink q (fun l => { l with mode := BitVec.ofNat 2 mode, phase := if mode = 0 then .off else .loopback }))

/-- LOOPBACK_SET. -/
def execLoopbackSet (a : Agent) (q mode : Nat) (s : State) : Out :=
  .next (s.regWrite a (portRegs q + 0x10) (fun s => s.testWrite q mode))

/-- LNK_CLEAR: every counter of the die's block. -/
def State.lnkClear (s : State) (d : Nat) : State :=
  (List.range 8).foldl (fun s k =>
    (s.updLink (8 * d + k) (fun l => { l with ctr := [] })).allLanes (8 * d + k) (fun x => { x with ce := 0, testErr := 0 })) s
def execLnkClear (a : Agent) (d : Nat) (s : State) : Out := .next (s.regWrite a (lnkBlock d + 0x10) (fun s => some (s.lnkClear d)))

end Sys2Proof.Machine
end

