-- ==== Sys2Proof/Machine/Bringup.lean ====
section
/-!
DEFINITION. Bring-up and what Granger does to units later (16 R608 to R654): checkers, memory test, waves of tiles, the
capability table, firmware images, parking and deep idle.
-/
namespace Sys2Proof.Machine

/-! ### Checkers and training (R608, R609, R620, R622, R717) -/

/-- Log source and unit of a checked unit (R611). -/
def Checked.where_ : Checked → Nat × Nat
  | .tile t => (0, t)
  | .transit r => (1, r)
  | .stack k => (3, k)
  | .hostPort d => (4, d)
  | .fabricPort q => (4, q)
  | .bridge => (2, 0)
  | .region r => (2, r)
  | .ioDie d => (4, d)

/-- The module fails bring-up when this unit fails. -/
def Checked.fatal : Checked → Bool
  | .transit _ => true
  | .bridge => true
  | .ioDie _ => true
  | _ => false

/-- A tile is disabled: width 0, and it runs nothing (R128, R609, R626, R658). -/
def State.disableTile (s : State) (t : Nat) : State :=
  (s.updTile t (fun x => { x.updTh 0 (fun h => if x.firmware then { h with st := .off, wait := .none, miss := none } else h) with
    firmware := false })).updCtl t (fun c => { c with disabled := true, power := .off, inReset := false, fetched := false, sigDue := false })

/-- The record of a failed checker, and what becomes of its unit. DEDUCED: log entry 88. -/
def State.checkerFailed (s : State) (u : Checked) : State :=
  let s := s.report 12 u.where_.1 u.where_.2 0 0 none none (match u with | .tile t => s.tileEpoch t | _ => 0)
  match u with
  | .tile t => s.disableTile t
  | .stack k => s.updStack k (fun x => { x with st := .failed })
  | .hostPort d => s.updHost d (fun h => { h with disabled := true, linkUp := false, width := 3 })
  | .fabricPort q => (s.portEnable q false).updBup (fun b => { b with badPorts := setBit b.badPorts q true })
  | .region r => s.updBup (fun b => { b with badRegions := setBit b.badRegions r true })
  | _ => s

/-- Bring-up stops (R620). -/
def State.bringupFails (s : State) (code : Nat) : State :=
  s.updBup (fun b => { b with phase := 7, failCode := BitVec.ofNat 8 code })

/-- A target's floor rises to the floor of the image that runs; 64 raises are all (R640). -/
def FwTarget.raise (f : FwTarget) (floor : BitVec 16) : FwTarget :=
  if f.floor.toNat < floor.toNat ∧ f.raises < 64 then { f with floor, raises := f.raises + 1 } else f

/-- The image slot that is selected, and the one that the boot takes: the selected one if it verifies, else the other (R621). -/
def FwTarget.selected (f : FwTarget) : FwSlot := if f.sel then f.slot1 else f.slot0
def FwTarget.unselected (f : FwTarget) : FwSlot := if f.sel then f.slot0 else f.slot1
def FwTarget.taken (f : FwTarget) : Option FwSlot :=
  if f.selected.valid then some f.selected else if f.unselected.valid then some f.unselected else none

def State.updFw (s : State) (n : Nat) (g : FwTarget → FwTarget) : State := s.updBup (fun b => { b with fw := smUpd b.fw n {} g })

/-- An image runs for the first time, or again. -/
def State.fwRuns (s : State) (n : Nat) : State :=
  s.updFw n (fun f => match f.taken with | some x => { f.raise x.floor with running := x.ver } | none => f)

/-- Bring-up measures the frequency limit and plans each die's voltage; the spec gives no value (R667, R687, R701). DESIGN CHOICE: log entry 87. -/
def State.measureDies (s : State) : State :=
  let (l, s) := s.free 6
  let limit := 600 + 25 * (l.toNat % 33)
  let s := s.updHealth (fun h => { h with
    fLimit := BitVec.ofNat 16 limit, fMhz := BitVec.ofNat 16 (min limit h.fTarget.toNat), fNew := BitVec.ofNat 16 (min limit h.fTarget.toNat), relocking := false })
  let s := dieList.foldl (fun s d =>
    let (v, s) := s.free 6
    let mv : Int := 650 + 5 * (v.toNat % 51 : Nat)
    s.updDie d (fun x => { x with vplan := mv, vboot := mv, vcore := BitVec.ofInt 16 (mv + x.offset.toInt), samples := [] })) s
  s.settleMargin

/-- BRINGUP_CHECKERS: phase 2. `bad` are the units that failed, `tested` how many checkers and generators were tested, `pll`
false: the reference is absent or a PLL did not lock. -/
def execBringupCheckers (bad : List Checked) (tested : Word) (pll : Bool) (s : State) : Out :=
  .next (
    if s.bup.phase ≠ 2 ∨ !s.bup.grangerUp ∨ !s.board.rails then s
    else if !pll then s.bringupFails 3
    else
      let s := s.updInt (fun x => { x with done := true, failed := !bad.isEmpty, failedCount := BitVec.ofNat 16 bad.length, tested })
      let s := bad.foldl (fun s u => s.checkerFailed u) s
      if bad.any Checked.fatal then s.bringupFails 2
      else
        let s := (s.fwRuns 2).measureDies
        let s := (List.range s.part.nStacks).foldl (fun s k => s.updStack k (fun x => if x.st = .untrained then { x with st := .training } else x)) s
        s.updBup (fun b => { b with phase := 3, checked := true }))

/-- A stack has finished its training sweep: trained or Failed, with no lane still in recovery (R404, R622). DEDUCED: log entry 89. -/
def Stack.swept (x : Stack) : Bool := x.st != .untrained && x.st != .training && !x.pchs.any (fun e => e.2.st == .recentring)

/-- The memory test runs on a pair of stacks, a Failed one apart (R623, R624). -/
def State.testPair (s : State) (p : Nat) : State :=
  [2 * p, 2 * p + 1].foldl (fun s k => s.updStack k (fun x => { x with testing := x.st != .failed })) s

/-- TRAINING_COMPLETE: phase 3 ends; the test of the first pair starts. -/
def execTrainingComplete (s : State) : Out :=
  .next (
    if s.bup.phase ≠ 3 ∨ !s.bup.grangerUp ∨ !(List.range s.part.nStacks).all (fun k => (s.stack k).swept) then s
    else (s.updBup (fun b => { b with phase := 4, trained := true, memRound := 0, memtest := [], wavesStarted := 0, wavesDone := 0 })).testPair 0)

/-! ### The memory test (R623, R624, R651) -/

/-- The test of a stack has ended with the errors listed: (stack, pseudo-channel, count). -/
def State.testDone (s : State) (k : Nat) (errs : List (Nat × Nat × Nat)) (seconds : Nat) : State :=
  let quick := s.bup.memMode == 1
  let note := fun (s : State) (r lost errors : Nat) => s.updBup (fun b => { b with
    memtest := smSet b.memtest k { result := BitVec.ofNat 2 r, quick, lost := BitVec.ofNat 7 lost, seconds := BitVec.ofNat 16 seconds,
                                   errors := BitVec.ofNat 32 (min errors (2 ^ 32 - 1)) } })
  if (s.stack k).st = .failed then note s 3 0 0
  else
    let mine := errs.filter (fun e => e.1 == k && decide (e.2.1 < 64) && decide (0 < e.2.2) && (s.pch k e.2.1).st != .lost)
    let lost := (mine.map (·.2.1)).eraseDups
    let s := lost.foldl (fun s c => s.losePch k c) s
    let s := (s.zeroMem (stackBase k) Config.stackBytes).updStack k (fun x => { x with testing := false, tested := true, unscrubbed := [] })
    let all := decide ((s.stack k).inService = 0)
    let s := if all then s.updStack k (fun x => { x with st := .failed }) else s
    note s (if all then 3 else if lost.isEmpty then 1 else 2) lost.length (mine.foldl (fun n e => n + e.2.2) 0)

/-- MEMTEST_PAIR_DONE. -/
def execMemtestPairDone (errs : List (Nat × Nat × Nat)) (seconds : Nat) (s : State) : Out :=
  .next (
    let p := s.bup.memRound
    if s.bup.phase ≠ 4 ∨ !s.bup.grangerUp ∨ s.part.nStacks ≤ 2 * p then s
    else
      let s := ((s.testDone (2 * p) errs seconds).testDone (2 * p + 1) errs seconds).updBup (fun b => { b with memRound := p + 1 })
      if 2 * (p + 1) < s.part.nStacks then s.testPair (p + 1) else s)

/-! ### Tile wake (R625, R626, R636, R642) -/

/-- Tiles of a wave. -/
def waveTiles (w : Nat) : List Nat := (List.range Config.tiles).filter (fun t => tileWave t == w)

/-- Every tile of a wave has reported or has width 0. -/
def State.waveDone (s : State) (w : Nat) : Bool := (waveTiles w).all s.tileDone

/-- BUP_STATUS.waves_done. -/
def State.countWaves (s : State) : State :=
  if s.bup.phase = 4 ∨ s.bup.phase = 8 then
    s.updBup (fun b => { b with wavesDone := ((List.range b.wavesStarted).filter s.waveDone).length })
  else s

/-- A tile starts to wake: it waits for its firmware, then for its signature. -/
def State.wakeTile (s : State) (t : Nat) : State :=
  if s.fusedOff t || (s.ctl t).disabled || s.bup.park.getLsbD (tileCluster t) then s
  else s.updCtl t (fun c => { c with power := .resetting, inReset := true, fetched := false, sigDue := true, reported := false, halted := false })

/-- TILE_WAVE_START. -/
def execTileWaveStart (s : State) : Out :=
  .next (
    let w := s.bup.wavesStarted
    if (s.bup.phase ≠ 4 ∧ s.bup.phase ≠ 8) ∨ !s.bup.grangerUp ∨ 8 ≤ w then s
    else (((waveTiles w).foldl (fun s t => s.wakeTile t) s).updBup (fun b => { b with wavesStarted := w + 1 })).countWaves)

/-- The tile of a parked cluster that wakes has run its test: that counts as a completed cycle of self-test (R662). DEDUCED: log entry 90. -/
def State.tested (s : State) (t : Nat) : State :=
  if s.bup.phase = 6 then
    (s.updCtl t (fun c => { c with lastDone := s.tick.count.setWidth 32, stepsLeft := 0, nextStep := 0, overdue := false, failedOnce := false })).capUpdate
  else s

/-- TILE_SIGNATURE: columns that failed, and whether another unit or a checker of the tile did. -/
def execTileSignature (t : Nat) (badCols : Word) (bad : Bool) (s : State) : Out :=
  .next (
    let c := s.ctl t
    if Config.tiles ≤ t ∨ !s.bup.grangerUp ∨ !c.sigDue ∨ !c.fetched then s
    else
      let s := s.updCtl t (fun c => { c with removed := c.removed ||| badCols, sigDue := false, reported := true })
      let s := if bad || decide (popcount (s.cols t) < 28) then s.disableTile t
        else if (s.tile t).firmware then s else s.updCtl t TileCtl.booted
      ((s.tested t).countWaves).settleResets)

/-- WAVE_TIMEOUT: tiles of a wave that have not reported get width 0. -/
def execWaveTimeout (w : Nat) (s : State) : Out :=
  .next (
    if (s.bup.phase ≠ 4 ∧ s.bup.phase ≠ 8) ∨ !s.bup.grangerUp ∨ s.bup.wavesStarted ≤ w then s
    else ((waveTiles w).foldl (fun s t => if s.tileDone t then s else s.disableTile t) s).countWaves)

/-! ### Firmware of a tile (R261, R262, R625, R630 step 3, R639, R640) -/

/-- Tiles that run an earlier tile image: BUP_FW_VER_1.stale_tiles (R650). -/
def State.staleTiles (s : State) : Nat :=
  (s.bup.tiles.filter (fun e => (e.2.power == .booting || e.2.power == .awake) && e.2.fwVer != (s.fwTarget 1).running)).length

/-- Tile firmware counts as running once no tile is stale. -/
def State.settleFw (s : State) : State := if s.staleTiles = 0 then s.updFw 1 (fun f => match f.taken with | some x => f.raise x.floor | none => f) else s

/-- TILE_FIRMWARE_FETCHED: the image from the home I/O die's store arrives, and firmware runs from 0x0000. -/
def execTileFirmwareFetched (t : Nat) (image : List Byte) (s : State) : Out :=
  .next (
    let c := s.ctl t
    if Config.tiles ≤ t ∨ c.power ≠ .resetting ∨ c.fetched ∨ !s.bup.grangerUp then s
    else
      let s := (s.wr (instAddr t 0) (image.take 8192)).bupCtr 0x320 1
      let s := s.updTile t (fun x => { x.updTh 0 (fun h => { h with st := .firmware, pc := 0, wait := .none, miss := none }) with firmware := true })
      (s.updCtl t (fun c => { c with power := .booting, fetched := true, fwVer := (s.fwTarget 1).running })).settleFw)

/-- FW_SLOT_SELECTED: the slot has been written, read back and selected; tile firmware goes to every store at once. -/
def execFwSlotSelected (s : State) : Out :=
  .next (
    match s.bup.fwJob with
    | none => s
    | some j =>
      if !s.bup.grangerUp then s
      else
        let slot : FwSlot := { valid := true, ver := j.ver, floor := j.floor }
        let s := s.updFw j.target (fun f =>
          let f := if f.sel then { f with slot0 := slot, sel := false } else { f with slot1 := slot, sel := true }
          if j.target = 1 then { f with running := j.ver } else f)
        let s := (s.updBup (fun b => { b with fwJob := none })).grangerEvent 0x72 0xFF 0 (j.target * 65536 + j.ver.toNat)
        (if j.target = 1 then s.settleFw else s).answerTo j.ring j.mctp {})

/-! ### The capability table (R6, R10, R45, R75, R543, R627) -/

/-- The table falls below a guarantee of R6 or R10. -/
def State.fallsShort (s : State) : Bool :=
  let c := s.cap
  decide (c.enabledTiles.toNat < 2240) || decide (c.enabledColumns.toNat < 70000)
    || (List.range s.part.nStacks).any (fun k => smGetD c.pch k 0 != BitVec.allOnes 64)
    || (List.range (8 * s.part.nIoDies)).any (fun q => decide (popcount (smGetD c.lanes q 0) < 8))
    || c.regions != BitVec.allOnes 32 || c.ports != BitVec.allOnes 384

/-- Granger sets TCK_CTRL.enable and HST_CTRL.enable. -/
def State.enableEngines (s : State) : State :=
  let s := s.updTick (fun t => if t.enable then t else { t with enable := true, state := roleState t.role, adopted := false, goodRun := 0, missed := 0 })
  (List.range s.part.nIoDies).foldl (fun s d => s.updHost d (fun h => { h with enable := true })) s

/-- CAPABILITY_BUILD: phase 5, after the memory test and every wave, or the end of a module reset. -/
def execCapabilityBuild (s : State) : Out :=
  .next (
    let b := s.bup
    if !b.grangerUp ∨ b.wavesDone ≠ 8 ∨ (b.phase ≠ 8 ∧ !(b.phase == 4 && decide (s.part.nStacks ≤ 2 * b.memRound))) then s
    else
      let s := s.capRewrite
      (s.enableEngines).updBup (fun b => { b with belowMin := s.fallsShort, ready := true, wasReady := true, phase := 6 }))

/-! ### Resets that run late (R633) -/

/-- RESET_DRAIN_LATE: 2 ms have passed since a reset killed the oldest unreported task of a tile. -/
def execResetDrainLate (t : Nat) (s : State) : Out :=
  .next (
    match s.killedOf t (fun k => !s.drained633 k) with
    | none => s
    | some k => ((s.reportKilled k).bupCtr 0x328 1).grangerEvent 0x71 0xFF t (t * 2 ^ 32 + k.launch.ring))

/-! ### Parking (R638, R642) -/

/-- Reset tiles to step 2 of R630 and power them off. -/
def State.powerOffTiles (s : State) (ts : List Nat) : State :=
  let old := s
  let on := ts.filter s.resettable
  let s := s.advanceEpochs on [] []
  (on.foldl (fun s t => s.powerOff t (old.tileEpoch t)) s).settleFw.settleResets

/-- A BUP_PARK bit is set; none: the write is refused. -/
def State.parkCluster (s : State) (c : Nat) : Option State :=
  if Config.clusters ≤ c ∨ s.bup.park.getLsbD c then some s
  else if (s.partOfCluster c).isSome then none
  else some (((s.powerOffTiles (clusterTiles c)).updBup (fun b => { b with park := setBit b.park c true })).capUpdate)

/-- A BUP_PARK bit is cleared: the tiles wake from step 3 of R630, or with their wave where that has not started. -/
def State.unparkCluster (s : State) (c : Nat) : State :=
  if Config.clusters ≤ c ∨ !s.bup.park.getLsbD c then s
  else
    let s := s.updBup (fun b => { b with park := setBit b.park c false })
    if s.bup.phase = 6 ∨ c % 8 < s.bup.wavesStarted then ((clusterTiles c).foldl (fun s t => s.wakeTile t) s).countWaves else s

def parkReg (c : Nat) : Nat := 0x20200 + 8 * (c / 64)

/-- CLUSTER_PARK. -/
def execClusterPark (a : Agent) (c : Nat) (s : State) : Out :=
  .next (s.regWrite a (parkReg c) (fun s => s.parkCluster c))

/-- CLUSTER_WAKE. -/
def execClusterWake (a : Agent) (c : Nat) (s : State) : Out :=
  .next (s.regWrite a (parkReg c) (fun s => some (s.unparkCluster c)))

/-! ### Deep idle (R643, R644, R653) -/

/-- Conditions of entry. -/
def State.mayDeepIdle (s : State) : Bool :=
  s.bup.ready && !s.anyBusy && s.fab.copies.isEmpty && s.fab.mcasts.isEmpty && s.fab.reductions.isEmpty && s.loads.isEmpty
    && !s.accesses.any (fun a => match a.purpose with | .mcast _ _ => true | _ => false)

/-- Steps 1 to 6 of R643. Keep-alive of the fabric ports changes no state (DEDUCED, log entry 17). -/
def State.deepEnter (s : State) : State :=
  let s := s.powerOffTiles (List.range Config.tiles)
  let s := s.regions.foldl (fun (s : State) e => if e.2.st = .running then (s.isolate e.1).updRegion e.1 (fun x => { x with stopped := true }) else s) s
  let s := (List.range s.part.nStacks).foldl (fun (s : State) k =>
    let s := s.updBup (fun b => { b with savedKeep := smSet b.savedKeep k (s.stack k).keep })
    let s := s.updStack k (fun x => { x with keep := 2 })
    if (s.stack k).clocked then s.pasrSleep k else s) s
  s.updBup (fun b => { b with deep := true })

/-- BUP_DEEP.enter. -/
def State.deepWrite (s : State) : Option State :=
  if s.bup.deep then some s else if s.mayDeepIdle then some s.deepEnter else none

/-- DEEP_IDLE_ENTER. -/
def execDeepIdleEnter (a : Agent) (s : State) : Out := .next (s.regWrite a 0x20038 (fun s => s.deepWrite))

/-- DEEP_IDLE_EXIT: a write of BUP_DEEP.exit. The exits that a descriptor or a fabric request causes are part of the command
that brings it; standing alone they find deep idle already over, or make Granger catch up after its restart (R641). DEDUCED: log entry 99. -/
def execDeepIdleExit (cause : WakeCause) (s : State) : Out :=
  .next (
    match cause with
    | .written a => s.regWrite a 0x20038 (fun s => some (s.deepExit 0))
    | .descriptor => if s.rings.any (fun e => !e.2.held.isEmpty) then s.deepExit 1 else s
    | .fabric => if s.fab.parcels.any (fun e => e.2.inPort.isSome && e.2.frame.wakes s.ownId) then s.deepExit 2 else s)

/-! ### BUP_ registers (R648, R649) -/

/-- BOOT_CFG_WRITE: stored in the small flash. -/
def State.bootCfgWrite (s : State) (v : Word) : Option State :=
  if 2 ≤ v.toNat % 4 then none else some (s.updBup (fun b => { b with bootCfg := BitVec.ofNat 2 (v.toNat % 4) }))
def execBootCfgWrite (a : Agent) (v : Word) (s : State) : Out := .next (s.regWrite a 0x20008 (fun s => s.bootCfgWrite v))

/-- BUP_CLEAR. -/
def execBupClear (a : Agent) (s : State) : Out :=
  .next (s.regWrite a 0x20010 (fun s => some (s.updBup (fun b => { b with ctr := [] }))))

end Sys2Proof.Machine
end

