-- ==== Sys2Proof/Machine/Health.lean ====
section
/-!
DEFINITION. Self-test, ageing, margins, clocks, event counters and Granger's view (17 R655 to R696, 16 R641).
-/
namespace Sys2Proof.Machine

/-! ### Self-test slices (R655 to R663) -/

/-- Steps that a slice holds at a core clock: at most 25 µs, ending at least 1 µs before the edge (R655, R656). -/
def State.sliceSteps (s : State) : Nat := (min 25 (s.guardUs - 1) * s.health.fMhz.toNat - 600) / 3072

/-- A step by its number in the cycle: kind (0 L, 1 N, 2 I, 3 S, 4 A, 5 U, 6 P) and index; an A step's is the physical column. DEDUCED: log entry 91. -/
def stepOf (n : Nat) : Nat × Nat :=
  if n < 64 then (0, n) else if n < 80 then (1, n - 64) else if n < 88 then (2, n - 80) else if n < 96 then (3, n - 88)
  else if n < 128 then (4, n - 96) else if n < 134 then (5, n - 128) else (6, n - 134)

/-- Steps of the whole cycle, and those that a tile runs: no A step of a column that is out of service, and no L, N, I and P
step once the spare bank is in use (R656, R658). -/
def cycleSteps : Nat := 138
def State.stepRuns (s : State) (t n : Nat) : Bool :=
  match stepOf n with
  | (4, p) => (s.cols t).getLsbD p
  | (k, _) => k == 3 || k == 5 || (s.ctl t).spare == 0

/-- Steps of the tile's cycle from number `n` on. -/
def State.stepsFrom (s : State) (t n : Nat) : List Nat := (List.range cycleSteps).filter (fun i => decide (n ≤ i) && s.stepRuns t i)

/-- A tile is disabled in service: what it holds is answered as at a reset, and the table shows it (R638, R658). -/
def State.disableInService (s : State) (t : Nat) : State :=
  let s := (s.killTasks t (s.tileEpoch t)).updTile t (fun x => { x with queue := [] })
  ((s.disableTile t).capUpdate).grangerEvent 0x41 0xFF t t

/-- Bank k of a tile's loft reads as zero. -/
def State.zeroBank (s : State) (t k : Nat) : State :=
  { s with
    mem := s.mem.filter (fun m => !(decide (tileBase t ≤ m.1) && decide (m.1 < tileBase t + loftBytes) && (m.1 - tileBase t) / 64 % 16 == k)) }

/-- A step has failed twice. -/
def State.stepFails (s : State) (t n : Nat) : State :=
  let k := stepOf n
  let s := s.grangerEvent 0x40 0xFF t (t * 65536 + k.1 * 256 + k.2)
  match k with
  | (0, i) =>
    if (s.ctl t).spare = 0 then
      ((s.zeroBank t (i / 4)).updCtl t (fun c => { c with spare := 1, spareBank := BitVec.ofNat 4 (i / 4) })).grangerEvent 0x43 0xFF t (t * 65536 + i / 4)
    else s.disableInService t
  | (4, p) =>
    if popcount (s.cols t) ≤ 28 then s.disableInService t
    else
      let s := (s.updCtl t (fun c => { c with removed := setBit c.removed p true })).capUpdate
      s.grangerEvent 0x42 0xFF t (t * 65536 + p * 256 + s.tileW t)
  | (6, _) => (s.updCtl t (fun c => { c with spare := 2 })).disableInService t
  | _ => s.disableInService t

/-- The tile a request waits for: its own, or its cluster's. -/
def requestOf (r : Bool × Nat) : List Nat := if r.1 then clusterTiles r.2 else [r.2]

/-- The cycle of a tile is complete. -/
def State.cycleDone (s : State) (t : Nat) : State :=
  let s := s.updCtl t (fun c => { c with nextStep := 0, requested := false, overdue := false, lastDone := s.tick.count.setWidth 32 })
  s.updHealth (fun h => { h with requests := h.requests.filter (fun r => (requestOf r).any (fun u => (s.ctl u).requested && s.tileUsable u)) })

/-- Move on after step n. -/
def State.stepOver (s : State) (t n : Nat) : State :=
  let s := s.updCtl t (fun c => { c with failedOnce := false, nextStep := n + 1 })
  let rest := s.stepsFrom t (n + 1)
  let s := if rest.isEmpty then s.cycleDone t else s
  s.updCtl t (fun c => { c with stepsLeft := BitVec.ofNat 8 rest.length })

/-- What a step leaves of the units that it tested: their reset state (R657). -/
def Tile.afterStep (x : Tile) (n : Nat) : Tile :=
  match (stepOf n).1 with
  | 3 => { x with sums := [] }
  | 5 => { x with gens := [], topk := {} }
  | _ => x

/-- Run the steps of a slice; `ok` says which signatures match. A mismatch ends the slice: the step runs again in the next. -/
def State.runSteps (s : State) (t : Nat) : List Bool → State
  | [] => s
  | ok :: rest =>
    match s.stepsFrom t (s.ctl t).nextStep with
    | [] => s
    | n :: _ =>
      let s := (s.updTile t (fun x => x.afterStep n)).hltCtr 0x208 1
      if ok then (s.stepOver t n).runSteps t rest
      else
        let s := s.hltCtr 0x218 1
        if (s.ctl t).failedOnce then
          let s := s.stepFails t n
          if s.tileUsable t then s.stepOver t n else s
        else s.updCtl t (fun c => { c with failedOnce := true })

/-- A slice may start on the tile: guard window, Granger at work, no margin or clock change on its die in this window, the limit
on tiles not reached (R50, R655, R659, R662). -/
def State.maySlice (s : State) (t : Nat) : Bool :=
  s.tick.inGuard && s.bup.grangerUp && s.bup.ready && s.health.stEnable && s.tileUsable t && (s.ctl t).power == .awake && !(s.ctl t).inReset
    && !(s.tile t).firmware && !s.bup.park.getLsbD (tileCluster t)
    && !s.health.windowTaken.getLsbD (tileDie t) && !s.health.windowTaken.getLsbD 4 && !s.health.relocking
    && decide (s.health.slices < 16 * s.health.maxTiles.toNat)

/-- SELFTEST_SLICE: `steps` says of each step run whether its signature matches. A tile that runs a task loses the window, which
GUARD_START counts. -/
def execSelftestSlice (t : Nat) (steps : List Bool) (s : State) : Out :=
  .next (
    if !s.maySlice t ∨ s.sliceSteps = 0 ∨ steps.isEmpty ∨ (s.tile t).active then s
    else ((s.updHealth (fun h => { h with slices := h.slices + 1 })).hltCtr 0x200 1).runSteps t (steps.take s.sliceSteps))

/-- A write of HLT_ST_REQ with go set: refused for a unit that is fused off, disabled, parked or absent, or with 16 pending. -/
def State.stRequest (s : State) (cluster : Bool) (target : Nat) : Option State :=
  let us := (requestOf (cluster, target)).filter (fun t => s.tileUsable t && !s.bup.park.getLsbD (tileCluster t))
  if us.isEmpty ∨ (cluster ∧ Config.clusters ≤ target) ∨ 16 ≤ s.health.requests.length then none
  else
    let s := us.foldl (fun s t =>
      let n := BitVec.ofNat 8 (s.stepsFrom t 0).length
      s.updCtl t (fun c => { c with requested := true, nextStep := 0, failedOnce := false, stepsLeft := n })) s
    some (s.updHealth (fun h => { h with requests := h.requests ++ [(cluster, target)], reqCluster := cluster, reqTarget := BitVec.ofNat 12 target }))

/-- SELFTEST_REQUEST. -/
def execSelftestRequest (a : Agent) (cluster : Bool) (target : Nat) (s : State) : Out :=
  .next (s.regWrite a 0x30010 (fun s => s.stRequest cluster target))

/-- At least `ns` have passed since tick n. -/
def State.passed (s : State) (n ns : Nat) : Bool := decide (ns ≤ (s.tick.count.toNat - n) * s.tick.param.period.toNat)

/-- SELFTEST_OVERDUE: posted at most once per tile in 24 hours. -/
def execSelftestOverdue (t : Nat) (s : State) : Out :=
  .next (
    if !s.bup.grangerUp || !s.tileUsable t || s.bup.park.getLsbD (tileCluster t) then s
    else
      let c := s.ctl t
      let s := s.updCtl t (fun c => { c with overdue := true })
      if (match c.overduePosted with | some n => s.passed n 86400000000000 | none => true) then
        (s.updCtl t (fun c => { c with overduePosted := some s.tick.count.toNat })).grangerEvent 0x44 0xFF t t
      else s)

/-! ### Units outside the tiles (R664, R665) -/

def State.unserviceable (s : State) (r : Nat) : State :=
  (s.updHealth (fun h => { h with unserviceable := true })).grangerEvent 0x4D 0xFF r r

/-- A stack fails in service: what is queued on it is answered BUS_ERROR (R404). -/
def State.failStack (s : State) (k : Nat) : State :=
  let qs := (s.stack k).pchs.flatMap (fun e => e.2.queue.filter (fun r => r.pkt.op != .write || r.scrubWait))
  let s := s.updStack k (fun x => { x with st := .failed, pchs := x.pchs.map (fun e => (e.1, { e.2 with queue := [] })) })
  qs.foldl (fun s r => s.respond r.pkt r.pkt.op.answer .busError []) s

/-- A checker has failed in service. DEDUCED: log entry 92. -/
def State.serviceFailed (s : State) (u : Checked) : State :=
  match u with
  | .tile t => (s.report 12 0 t 0 0 none none (s.tileEpoch t)).disableInService t
  | .stack k => (s.report 12 3 k 0 0 none none 0).failStack k
  | .transit r => (s.report 12 1 r 0 0 none none 0).unserviceable r
  | .bridge => (s.checkerFailed .bridge).unserviceable 0
  | .ioDie d => (s.checkerFailed (.ioDie d)).unserviceable 0
  | u => s.checkerFailed u

/-- SERVICE_CHECKER_TEST: one cluster's worth of checkers outside the tiles, in a guard window. -/
def execServiceCheckerTest (bad : List Checked) (s : State) : Out :=
  .next (
    if !s.tick.inGuard || !s.bup.grangerUp || !s.bup.ready || bad.isEmpty then s
    else (bad.foldl (fun s u => s.serviceFailed u) s).capUpdate)

/-- One router's parity count at a poll. DEDUCED: log entry 93. -/
def State.pollParity (s : State) (r : Nat) : State :=
  let now : BitVec 48 := smGetD (s.router r).ctr 0x148 0
  let run := if (s.ctl r).parityLast.toNat < now.toNat then (s.ctl r).parityRun + 1 else 0
  let s := s.updCtl r (fun c => { c with parityLast := now, parityRun := run })
  let s := if run = 3 then s.grangerEvent 0x4C 0xFF r r else s
  if run = 60 then s.unserviceable r else s

/-- PARITY_POLL. -/
def execParityPoll (s : State) : Out :=
  .next (if s.bup.grangerUp && s.bup.wasReady then (s.routers.map (·.1)).foldl (fun s r => s.pollParity r) s else s)

/-! ### Ageing and margins (R666 to R669) -/

def satS16 (n : Int) : BitVec 16 := BitVec.ofInt 16 (max (-32768) (min 32767 n))

/-- A die's samples with a new one: the hour's, without those that a later sample is not above. -/
def State.addSample (s : State) (d : Nat) (v : Int) : State :=
  let old := ((s.die d).samples.filter (fun e => !s.passed e.1 3600000000000)).filter (fun e => decide (e.2 < v))
  let xs := old ++ [(s.tick.count.toNat, v)]
  s.updDie d (fun x => { x with samples := xs, slack := satS16 ((xs.head?.map (·.2)).getD v) })

/-- One die's sample: an alarm when its slack falls below the floor. DEDUCED: log entry 94. -/
def State.sampleDie (s : State) (d : Nat) (v : Int) : State :=
  let floor : Int := s.health.floorPs.toNat
  let before := (s.die d).samples.isEmpty || decide (floor ≤ (s.die d).slack.toInt)
  let s := s.addSample d v
  if before && decide ((s.die d).slack.toInt < floor) then
    (s.updHealth (fun h => { h with frozen := false })).grangerEvent 0x46 0xFF d (d * 65536 + (s.die d).slack.toNat)
  else s

/-- AGEING_SAMPLE: the lowest replica slack of each die, in ps. -/
def execAgeingSample (slacks : List Int) (s : State) : Out :=
  .next (
    if s.bup.grangerUp && s.bup.checked then
      (slacks.zipIdx.take 4).foldl (fun s e => s.sampleDie e.2 e.1) s
    else s)

/-- The new plan of a die (R667). A die whose k is fused as 0 has no stated plan. -/
def State.replanDie (s : State) (d : Nat) : State :=
  let x := s.die d
  if x.samples.isEmpty then s
  else
    let sl := x.slack.toInt
    let target : Int := s.health.targetPs.toNat
    let floor : Int := s.health.floorPs.toNat
    let k : Int := x.kps.toNat
    let (f, s') := s.free 6
    let (up, s) : Int × State := if k = 0 then ((f.toNat : Int), s') else ((2 * (target - sl) + k - 1) / k, s)
    let v := if sl < target then x.vplan + 5 * up else if target + k < sl then x.vplan - 5 else x.vplan
    let v := max vminMv (min vmaxMv v)
    let s := s.updDie d (fun x => { x with vplan := v })
    if v = vmaxMv ∧ sl < floor then
      let l := max 600 (s.health.fLimit.toNat - 25)
      (s.updHealth (fun h => { h with fLimit := BitVec.ofNat 16 l })).grangerEvent 0x48 0xFF d l
    else s

/-- MARGIN_REPLAN: none while re-planning is frozen. -/
def execMarginReplan (s : State) : Out :=
  .next (if !s.bup.grangerUp || !s.bup.checked || s.health.frozen then s else (dieList.foldl (fun s d => s.replanDie d) s).settleMargin)

/-- No tile of a die runs a task. -/
def State.dieFree (s : State) (d : Nat) : Bool := s.touched.all (fun t => tileDie t != d || !s.taskActive t)

/-- A guard window is open, Granger at work and the window not taken by a clock change. -/
def State.marginWindow (s : State) : Bool :=
  s.tick.inGuard && s.bup.grangerUp && !s.health.relocking && !s.health.windowTaken.getLsbD 4

/-- Voltage step that fits: at most 20 mV, slewing at 5 mV per µs to end 1 µs before the edge (R655, R668). -/
def State.stepMv (s : State) (d : Nat) : Nat := min (min (s.wantMv d - (s.die d).vcore.toNat).natAbs 20) (5 * (s.guardUs - 1))

/-- MARGIN_APPLY: the next voltage step of a die. A lower voltage waits for a lower frequency. -/
def execMarginApply (d : Nat) (s : State) : Out :=
  .next (
    let v : Int := (s.die d).vcore.toNat
    let n := s.stepMv d
    let lower := decide (s.wantMv d < v)
    if 4 ≤ d ∨ !s.marginWindow ∨ s.health.windowTaken.getLsbD d ∨ !s.dieFree d ∨ n = 0 ∨ (lower ∧ s.wantMhz < s.health.fMhz.toNat) then s
    else
      let mv := if lower then v - n else v + n
      let s := (s.updDie d (fun x => { x with vcore := BitVec.ofInt 16 mv })).updHealth (fun h => { h with windowTaken := setBit h.windowTaken d true })
      let s := (s.hltCtr 0x228 1).grangerEvent 0x45 0xFF d (d * 2 ^ 48 + mv.toNat * 65536 + s.health.fMhz.toNat)
      s.settleMargin)

/-- MARGIN_DEFER_TIMEOUT: posted while a change of the die still waits. -/
def execMarginDeferTimeout (d : Nat) (s : State) : Out :=
  .next (if d < 4 ∧ s.bup.grangerUp ∧ (!s.dieThere d ∨ !s.clockThere) then s.grangerEvent 0x47 0xFF d d else s)

/-- CLOCK_CHANGE: the whole module free of tasks, 5.2 µs and the 1 µs of R655 inside the window. A higher frequency waits for the
higher voltages. DEDUCED: log entry 95. -/
def execClockChange (s : State) : Out :=
  .next (
    let want := s.wantMhz
    let raise := decide (s.health.fMhz.toNat < want)
    if !s.marginWindow ∨ s.health.windowTaken ≠ 0 ∨ !dieList.all s.dieFree ∨ want = s.health.fMhz.toNat ∨ s.guardUs < 7
        ∨ (raise ∧ dieList.any (fun d => decide (((s.die d).vcore.toNat : Int) < s.wantMv d))) then s
    else s.updHealth (fun h => { h with relocking := true, fNew := BitVec.ofNat 16 want, windowTaken := setBit h.windowTaken 4 true }))

/-- PLL_LOCK. -/
def execPllLock (s : State) : Out :=
  .next (
    if s.health.relocking then
      ((s.updHealth (fun h => { h with fMhz := h.fNew, relocking := false })).hltCtr 0x220 1).settleMargin
    else s)

/-! ### Event counters and HLT_ registers (R678, R688, R689) -/

/-- Change counter k of the tile that HLT_EVC_SEL selects. -/
def State.updSelEv (s : State) (k : Nat) (f : EvCtr → EvCtr) : State :=
  let t := s.health.evcSel.toNat
  if Config.tiles ≤ t then s
  else s.updHealth (fun h => { h with ev := smUpd h.ev t {} (fun e => { e with cs := smUpd e.cs k {} f }) })

/-- EVC_CLEAR: HLT_EVC_CFG_k.clr, with mode and source as they are. -/
def execEvcClear (a : Agent) (k : Nat) (s : State) : Out :=
  .next (if 8 ≤ k then s else s.regWrite a (0x30400 + 8 * k) (fun s => some (s.updSelEv k (fun c => { c with value := 0, sat := false }))))

/-- HLT_CLEAR. -/
def execHltClear (a : Agent) (s : State) : Out :=
  .next (s.regWrite a 0x30030 (fun s => some (s.updHealth (fun h => { h with ctr := [] }))))

/-! ### Granger's view (R680, R681, R695) -/

def StackState.code : StackState → Nat
  | .untrained => 0 | .training => 1 | .running => 2 | .selfRefresh => 3 | .scrubbing => 4 | .failed => 5
def PchState.code : PchState → Nat
  | .inService => 0 | .recentring => 1 | .lost => 2
def PortState.code : PortState → Nat
  | .disabled => 0 | .training => 1 | .up => 2 | .held => 3 | .down => 4 | .failed => 5
def RegState.code : RegState → Nat
  | .empty => 0 | .running => 1 | .held => 2

/-- Every unit that Granger polls: kind, unit and state as its register shows it. -/
def State.unitStates (s : State) : List (Nat × Nat × Nat) :=
  (List.range Config.tiles).map (fun t => (0, t, s.tileW t + 64 * b2n (s.fusedOff t) + 128 * b2n (s.bup.park.getLsbD (tileCluster t))))
    ++ (List.range s.part.nStacks).map (fun k => (1, k, (s.stack k).st.code))
    ++ (List.range s.part.nStacks).flatMap (fun k => (List.range 64).map (fun c => (2, 64 * k + c, (s.pch k c).st.code)))
    ++ (List.range (8 * s.part.nIoDies)).map (fun q => (3, q, (s.fport q).st.code))
    ++ (List.range (8 * s.part.nIoDies)).flatMap (fun q => (List.range 9).map (fun l => (4, 9 * q + l, b2n ((s.link q).lane l).rxGood)))
    ++ (List.range 32).map (fun r => (5, r, (s.region r).st.code))
    ++ (List.range s.part.nIoDies).map (fun d => (6, d, (s.hostDie d).width.toNat + 4 * (s.hostDie d).rate.toNat))

/-- A permitted change leads from the copy to the state: a stack does not leave Failed, a lost pseudo-channel stays lost, and a
lane comes back only through a retrain that Granger takes part in. -/
def permitted (kind copy now : Nat) (retrained : Bool) : Bool :=
  match kind with
  | 1 => copy != 5
  | 2 => copy != 2
  | 4 => now == 0 || retrained
  | _ => true

def viewKey (kind unit : Nat) : Nat := kind * 2 ^ 20 + unit

/-- Take a unit's state into the copy. DEDUCED: log entry 96. -/
def State.adopt (s : State) (kind unit now : Nat) : State :=
  s.updHealth (fun h => { h with view := smSet h.view (viewKey kind unit) (now, h.viewEpoch + 1), viewEpoch := h.viewEpoch + 1 })

/-- Log a discrepancy. -/
def State.logDisc (s : State) (kind unit now copy : Nat) (epoch : DWord) : State :=
  (s.updHealth (fun h => { h with
    discs := smSet h.discs (h.nDisc % 16) { seq := h.nDisc % 2 ^ 32, kind, unit, state := BitVec.ofNat 16 now, copy := BitVec.ofNat 16 copy, epoch, tick := s.tick.count },
    nDisc := h.nDisc + 1 })).grgCtr 0x100 1

/-- Poll one unit. -/
def State.pollUnit (s : State) (u : Nat × Nat × Nat) : State :=
  let (kind, unit, now) := u
  match smGet s.health.view (viewKey kind unit) with
  | none => s.adopt kind unit now
  | some (copy, epoch) =>
    if copy = now then s
    else if permitted kind copy now (!((s.link (unit / 9)).lane (unit % 9)).lost) then (s.adopt kind unit now).capUpdate
    else ((((s.logDisc kind unit now copy epoch).adopt kind unit now)).capUpdate).grangerEvent 0x4A 0xFF unit (kind * 2 ^ 32 + unit)

/-- Poll every unit. -/
def State.pollAll (s : State) : State :=
  let us := s.unitStates
  (us.foldl (fun s u => s.pollUnit u) s).updHealth (fun h => { h with viewValid := true, units := BitVec.ofNat 16 us.length })

/-- GRANGER_POLL. -/
def execGrangerPoll (s : State) : Out := .next (if s.bup.grangerUp && s.bup.ready then s.pollAll else s)

/-- GRG_CLEAR. -/
def execGrgClear (a : Agent) (s : State) : Out :=
  .next (s.regWrite a 0x40020 (fun s => some (s.updHealth (fun h => { h with grgCtr := [] }))))

/-! ### Granger's return (R641) -/

/-- A fetched descriptor waits on some ring: what ends deep idle (R644). -/
def State.fetchedWaits (s : State) : Bool :=
  s.rings.any (fun e => e.2.held.any (fun h => match h.st with | .fetched => true | _ => false))

/-- GRANGER_RETURN: Granger runs again after a restart: it re-reads every unit, rewrites the table and posts the event. -/
def execGrangerReturn (s : State) : Out :=
  .next (
    let b := s.bup
    if !b.bootDone ∨ b.grangerUp ∨ s.board.resetLow then s
    else if !b.wasReady then s.updBup (fun b => { b with grangerUp := true, phase := if s.board.rails then 2 else 0 })
    else
      let s := s.updBup (fun b => { b with grangerUp := true, phase := if b.ready then 6 else 8 })
      let s := (s.pollAll.capUpdate).grangerEvent 0x73 0xFF 0 (s.fwTarget 0).running.toNat
      if s.bup.deep && s.fetchedWaits then s.deepExit 1 else s)

end Sys2Proof.Machine
end

