-- ==== Sys2Proof/Machine/Board.lean ====
section
/-!
DEFINITION. The board's pins and rails, Granger's boot and board recovery (18 R697 to R708, R716, 16 R620, R621, R640, R641,
17 R682).
-/
namespace Sys2Proof.Machine

/-- What of a tile's control record outlasts power: the spare bank in use (R658). -/
def TileCtl.kept (c : TileCtl) : TileCtl := { spare := c.spare, spareBank := c.spareBank }

/-- What Granger holds of bring-up when the rails are gone. -/
def Bringup.powerLost (b : Bringup) : Bringup := { b with
  ready := false
  belowMin := false
  failCode := if b.bootDone then 0 else b.failCode
  wavesDone := 0
  memRound := 0
  phase := if b.bootDone then 0 else b.phase
  wavesStarted := 0
  badRegions := 0
  badPorts := 0
  wasReady := false
  checked := false
  trained := false
  memtest := []
  deep := false
  exiting := false
  savedKeep := []
  fwJob := b.fwJob.map (fun j => { j with ring := none })
  tiles := b.tiles.map (fun e => (e.1, e.2.kept))
  resets := []
  killed := []
  recent := [] }

/-- What Granger holds of health when the rails are gone: its own configuration, counters and log. -/
def Health.powerLost (h : Health) : Health := { h with
  unserviceable := false
  marginPending := false
  relocking := false
  requests := []
  ev := []
  evSnapTick := 0
  dies := h.dies.map (fun e => (e.1, { offset := e.2.offset, kps := e.2.kps, vplan := e.2.vboot, vboot := e.2.vboot }))
  jobs := h.jobs.map (fun j => { j with ring := none })
  slices := 0
  windowTaken := 0
  viewValid := false
  units := 0
  view := [] }

/-- Every domain but the management domain loses power: what the rails feed is as before power-on (R703). Keys and high-water
marks are in the small flash; a slot's last accepted counter becomes its high-water mark (R531). DEDUCED: log entry 85. -/
def State.powerLost (s : State) : State :=
  { State.reset with
    part := s.part
    keys := s.keys.map (fun e => (e.1, { e.2 with last := e.2.high }))
    hostMem := s.hostMem
    bup := s.bup.powerLost
    health := s.health.powerLost
    board := { s.board with rails := false }
    answer := s.answer
    freeCount := s.freeCount
    pending := s.pending }

/-- The rails go, if they were up. -/
def State.railsOff (s : State) : State := if s.board.rails then s.powerLost else s

/-- Phase 2 begins when phase 1 has finished and every rail is good (R620). -/
def State.tryPhase2 (s : State) : State :=
  if s.board.rails && s.bup.bootDone && s.bup.grangerUp && s.bup.phase == 0 then s.updBup (fun b => { b with phase := 2 }) else s

/-- PWR_GOOD_RISE: `p48` says whether P48V is in range; without it a rail fault follows (R702). DEDUCED: log entry 86. -/
def execPwrGoodRise (p48 : Bool) (s : State) : Out :=
  .next (
    if s.board.pwrGood then s
    else
      let s : State := { s with board := { s.board with pwrGood := true, p48, railFault := s.board.aux && !p48 } }
      if s.board.aux && p48 && !s.board.rails then
        let s : State := { s with board := { s.board with rails := true } }
        let s := s.updBup (fun b => { b with memMode := b.bootCfg })
        (dieList.foldl (fun s d => s.updDie d (fun x => { x with vcore := BitVec.ofInt 16 x.vboot })) s).tryPhase2
      else s)

/-- PWR_GOOD_FALL. -/
def execPwrGoodFall (s : State) : Out :=
  .next (let s := s.railsOff; { s with board := { s.board with pwrGood := false } })

/-- P48V_DROP. -/
def execP48vDrop (s : State) : Out :=
  .next (let s := s.railsOff; { s with board := { s.board with p48 := false } })

/-- RAIL_FAULT: only a fall and rise of PWR_GOOD brings the rails back. -/
def State.railFault (s : State) : State :=
  let s := s.railsOff
  { s with board := { s.board with railFault := true } }
def execRailFault (s : State) : Out := .next (if s.board.aux && s.board.pwrGood then s.railFault else s)

/-- THERMAL_TRIP: recorded in the small flash by Granger. -/
def execThermalTrip (s : State) : Out :=
  .next (
    if s.board.rails then
      let s : State := { s with board := { s.board with trips := if s.bup.grangerUp then s.board.trips + 1 else s.board.trips } }
      s.railFault
    else s)

/-! ### Granger's boot (R621, R640, R641, R704) -/

/-- Granger stops in the middle of a write of the unselected slot: its old image, the new one, or one that does not verify. -/
def State.cutSlot (s : State) : State :=
  match s.bup.fwJob with
  | none => s
  | some j =>
    let (v, s) := s.free 2
    let new : FwSlot := if v = 0 then (s.fwTarget j.target).unselected else { valid := v == 1, ver := j.ver, floor := j.floor }
    s.updFw j.target (fun f => if f.sel then { f with slot0 := new } else { f with slot1 := new })

/-- The management domain is held in reset: critical commands on the management path fail. -/
def State.grangerDown (s : State) : State :=
  let s := s.updBup (fun b => { b with grangerUp := false, bootDone := false })
  s.updHealth (fun h => { h with mctp := none, viewValid := false, jobs := h.jobs.filter (fun j => !j.mctp) })

/-- AUX_LOSS: a full power-off: only the small flash and the fuses keep what they hold. -/
def execAuxLoss (s : State) : Out :=
  .next (
    if !s.board.aux then s
    else
      let s := s.cutSlot.powerLost
      let b := s.bup
      let h := s.health
      { s with
        bup := { bootCfg := b.bootCfg, tiles := b.tiles, fw := b.fw, userFlash := b.userFlash }
        health := { eid := h.eid, smbus := h.smbus, uart := h.uart, dies := h.dies.map (fun e => (e.1, { e.2 with offset := 0 })) }
        board := { s.board with aux := false } })

/-- MOD_RESET_ASSERT: MOD_RESET# resets the management domain alone. A FW_UPDATE of the management path fails with it; one that a
ring waits for goes on when Granger returns. -/
def execModResetAssert (s : State) : Out :=
  .next (
    if s.board.resetLow then s
    else
      let s : State := { s with board := { s.board with resetLow := true } }
      if !s.board.aux then s
      else
        let s := if s.bup.fwJob.any (·.mctp) then (s.cutSlot).updBup (fun b => { b with fwJob := none }) else s
        s.grangerDown)

/-- Bring-up starts anew from phase 2 on a module whose rails are up: the module domain is initialised as in a module reset,
and what stacks and ports trained is discarded (R704). DEDUCED: log entry 101. -/
def State.restartBringup (s : State) : State :=
  let s := s.reinit
  let s : State := { s with cap := {}, hbm := s.hbm.map (fun e => (e.1, { e.2 with st := .untrained, testing := false, tested := false, pchs := e.2.pchs.map (fun p => (p.1, { repaired := p.2.repaired })) })) }
  let s := (s.links.filter (fun e => e.2.enable)).foldl (fun s e => (s.portEnable e.1 false).portEnable e.1 true) s
  s.updBup (fun b => { b with checked := false, trained := false, memRound := 0, memtest := [], belowMin := false })

/-- The boot: which images verify. -/
def State.bootCode (s : State) : Nat :=
  if (s.fwTarget 0).taken.isNone then 1 else if (s.fwTarget 1).taken.isNone then 4 else if (s.fwTarget 2).taken.isNone then 2 else 0

/-- A boot that finds its images: Granger firmware runs. Before ready, the tile image goes to the stores. DESIGN CHOICE: log entry 84. -/
def State.booted (s : State) : State :=
  let s := s.fwRuns 0
  let s := if s.bup.wasReady then s else s.updFw 1 (fun f => match f.taken with | some x => { f with running := x.ver } | none => f)
  let s := s.updBup (fun b => { b with bootDone := true, failCode := 0 })
  if s.bup.wasReady then s.updBup (fun b => { b with phase := 1 })
  else
    let s := if s.board.rails then s.restartBringup else s
    (s.updBup (fun b => { b with grangerUp := true, phase := 0 })).tryPhase2

/-- MOD_RESET_RELEASE: Granger boots; without an image of its own it does not run, and without another image bring-up stops. Before ready the boot is whole here; after it, GRANGER_RETURN ends the restart. -/
def execModResetRelease (s : State) : Out :=
  .next (
    if !s.board.resetLow then s
    else
      let s : State := { s with board := { s.board with resetLow := false, aux := true } }
      if s.bootCode = 0 then s.booted
      else (s.bringupFails s.bootCode).updBup (fun b => { b with grangerUp := s.bootCode != 1 }))

/-- BOARD_RECOVERY: the board programs a slot of the small flash; the header's floor is not among what the command carries, and is
at most the version (R640, R682). DESIGN CHOICE: log entry 98. -/
def execBoardRecovery (target : Nat) (slot : Bool) (ver : BitVec 16) (s : State) : Out :=
  .next (
    if s.bup.failCode ≠ 1 ∨ 2 < target ∨ !s.board.aux then s
    else
      let (f, s) := s.free 16
      let new : FwSlot := { valid := true, ver, floor := BitVec.ofNat 16 (f.toNat % (ver.toNat + 1)) }
      s.updFw target (fun x => if slot then { x with slot1 := new } else { x with slot0 := new }))

end Sys2Proof.Machine
end

