-- ==== Sys2Proof/Machine/Reads.lean ====
section
/-!
DEFINITION. Set-up registers and function pages as they read (01 R41 to R44, R719, 13 R506, R538 to R541, and each chapter's register
map), and where a set-up access goes on the torus (09 R364). No row of the table is a read: these are what an access by the owner or
Granger, a host's read of a function page, and FGET answer.
-/
namespace Sys2Proof.Machine

/-- What a read of a register is answered. A host sees a bus error as Completer Abort (R506). -/
inductive RegRead where
  /-- the agent cannot make the access now -/
  | none
  /-- no answer yet: firmware runs on the tile whose block is read (R657) -/
  | waits
  | busError
  | value (v : DWord)
deriving DecidableEq, Repr

/-- A 48-bit counter of a block. -/
def ctrWord (m : SMap (BitVec 48)) (o : Nat) : DWord := (smGetD m o 0).setWidth 64

/-- Fields given with their lowest bits, as one word. -/
def packWord (fs : List (Nat × Nat)) : DWord := BitVec.ofNat 64 (fs.foldl (fun n f => n + f.2 * 2 ^ f.1) 0)

/-- A value that no rule determines in this state, below n: a free value (DESIGN CHOICE, log entry 133). -/
def State.openField (s : State) (n : Nat) : Nat := (Config.freeValue s.freeCount).toNat % n

/-! ### TCK_ and INT_ (R74 to R83, R611, R614 to R619) -/

/-- TCK_STATUS (R76). -/
def State.tckStatus (s : State) : DWord :=
  let t := s.tick
  packWord [(16, maskOf 16 s.closePending), (8, t.depth.toNat), (6, b2n t.pendParam.isSome), (5, b2n t.conflict), (4, b2n t.inGuard),
    (0, t.state.code)]

/-- TCK_PARAM and TCK_PENDING_PARAM (R78). -/
def TickParam.word (p : TickParam) : DWord := packWord [(63, 1), (24, p.guardM1.toNat), (0, p.period.toNat)]

/-- TCK_PART_CFG_p (R82). -/
def PartTickCfg.word (c : PartTickCfg) : DWord := packWord [(4, c.group.toNat), (2, b2n c.finish), (0, b2n c.hard)]

def State.tckRead (s : State) (o : Nat) : DWord :=
  let t := s.tick
  match o with
  | 0x00 => packWord [(8, t.upstream.toNat), (2, t.role.toNat), (0, b2n t.enable)]
  | 0x08 => s.tckStatus
  | 0x10 => t.count
  | 0x18 => t.param.word
  | 0x20 => match t.pendParam with | some p => p.word | none => 0
  | 0x28 => t.pendTick
  | 0x30 => t.offset.setWidth 64
  | 0x38 => t.limitM1.setWidth 64
  | 0x40 => t.stalls.setWidth 64
  | 0x48 => t.maxStall.setWidth 64
  | o =>
    if 0x1000 ≤ o ∧ o < 0x1200 then (s.tickCfg ((o - 0x1000) / 8)).word
    else if 0x1200 ≤ o ∧ o < 0x1400 then (smGetD t.miss ((o - 0x1200) / 8) 0).setWidth 64
    else 0

/-- Eight epochs, the first lowest (R614). -/
def epochWord (m : SMap Byte) (i : Nat) : DWord := BitVec.ofNat 64 (ofLe ((List.range 8).map (fun k => smGetD m (8 * i + k) 0)))

/-- The 32 bytes of log entry `seq` (R611). -/
def Report.bytes (r : Report) (seq : Nat) : List Byte :=
  leBytes 4 seq ++ leBytes 1 r.kind ++ leBytes 1 r.source ++ leBytes 2 r.unit ++ leBytes 8 r.tick.toNat ++ leBytes 8 r.addr.toNat
    ++ leBytes 2 (match r.tenant with | some t => 2 ^ 15 + t % 2048 | none => 0) ++ leBytes 1 (r.part.getD 0xFF) ++ [r.epoch]
    ++ leBytes 2 r.detail ++ leBytes 2 r.folded

def State.intRead (s : State) (o : Nat) : DWord :=
  let x := s.integ
  match o with
  | 0x00 => x.eventEn.setWidth 64
  | 0x08 => packWord [(2, b2n x.ceOver), (1, b2n x.transitOver), (0, b2n x.logWrapped)]
  | 0x10 => BitVec.ofNat 64 x.logCount
  | 0x18 => packWord [(16, x.ceThresh.toNat), (0, x.transitThresh.toNat)]
  | 0x20 => packWord [(63, b2n x.done), (62, b2n x.failed), (32, x.failedCount.toNat), (0, x.tested.toNat)]
  | o =>
    if 0x100 ≤ o ∧ o < 0x150 then ctrWord x.ctr o
    else if 0x800 ≤ o ∧ o < 0x840 then epochWord x.partEpoch ((o - 0x800) / 8)
    else if 0x840 ≤ o ∧ o < 0x8D0 then epochWord x.clusterEpoch ((o - 0x840) / 8)
    else if 0x1000 ≤ o ∧ o < 0x1900 then epochWord x.tileEpoch ((o - 0x1000) / 8)
    else if 0x8000 ≤ o ∧ o < 0xA000 then
      match smGet x.log ((o - 0x8000) / 32) with
      | some (n, r) => BitVec.ofNat 64 (field (r.bytes n) (o % 32) 8)
      | none => 0
    else 0

/-! ### BUP_, HLT_ and GRG_ (R646 to R654, R685 to R696) -/

/-- BUP_PART_p (R652). -/
def State.partWord (s : State) (p i : Nat) : DWord :=
  let x := s.partRec p
  match i with
  | 0 => BitVec.ofNat 64 (x.clusters.toNat % 2 ^ 64)
  | 1 => BitVec.ofNat 64 (x.clusters.toNat / 2 ^ 64 % 2 ^ 64)
  | 2 => packWord [(32, x.regions.toNat), (0, x.clusters.toNat / 2 ^ 128)]
  | _ => packWord [(63, b2n (x.clusters != 0 || x.regions != 0)), (62, b2n x.tenant.isSome), (32, x.tenant.getD 0 % 2048), (0, (s.partEpoch p).toNat)]

/-- BUP_FW_VER_n (R650). -/
def State.fwWord (s : State) (n : Nat) : DWord :=
  let f := s.fwTarget n
  packWord [(48, (if f.sel then f.slot1 else f.slot0).ver.toNat), (32, f.running.toNat), (16, f.floor.toNat), (15, b2n f.sel),
    (0, if n = 1 then s.staleTiles else 0)]

/-- BUP_STATUS (R647). -/
def State.bupStatus (s : State) : DWord :=
  let b := s.bup
  packWord [(31, b2n b.ready), (30, b2n b.grangerUp), (29, b2n b.belowMin), (16, b.failCode.toNat), (8, b.wavesDone), (4, b.memRound), (0, b.phase)]

def MemTest.word (m : MemTest) : DWord :=
  packWord [(62, m.result.toNat), (61, b2n m.quick), (48, m.lost.toNat), (32, m.seconds.toNat), (0, m.errors.toNat)]

def State.bupRead (s : State) (o : Nat) : DWord :=
  let b := s.bup
  match o with
  | 0x00 => s.bupStatus
  | 0x08 => b.bootCfg.setWidth 64
  | 0x18 => b.resetLast
  | 0x20 => s.fwWord 0
  | 0x28 => s.fwWord 1
  | 0x30 => s.fwWord 2
  | 0x38 => packWord [(31, b2n b.deep), (30, b2n b.exiting)]
  | o =>
    if 0x100 ≤ o ∧ o < 0x140 then (smGetD b.memtest ((o - 0x100) / 8) {}).word
    else if 0x200 ≤ o ∧ o < 0x218 then BitVec.ofNat 64 (b.park.toNat / 2 ^ (8 * (o - 0x200)) % 2 ^ 64)
    else if 0x300 ≤ o ∧ o < 0x330 then ctrWord b.ctr o
    else if 0x400 ≤ o ∧ o < 0xC00 then s.partWord ((o - 0x400) / 32) ((o - 0x400) % 32 / 8)
    else 0

/-- HLT_TILE_t (R691). -/
def TileCtl.healthWord (c : TileCtl) : DWord :=
  packWord [(62, c.spare.toNat), (58, c.spareBank.toNat), (57, b2n c.overdue), (56, b2n c.requested), (55, b2n c.failedOnce),
    (40, c.stepsLeft.toNat), (0, c.lastDone.toNat)]

/-- HLT_DIE_d (R687). -/
def DieHealth.word (d : DieHealth) : DWord := packWord [(48, d.vcore.toNat), (32, d.offset.toNat), (16, d.slack.toNat), (8, d.kps.toNat)]

def State.hltRead (s : State) (o : Nat) : DWord :=
  let h := s.health
  let e := smGetD h.ev h.evcSel.toNat {}
  let c := fun (k : Nat) => smGetD e.cs k {}
  match o with
  | 0x00 => packWord [(31, b2n h.unserviceable), (30, b2n h.frozen), (29, b2n h.marginPending), (28, b2n h.relocking),
      (0, (s.bup.tiles.filter (fun t => t.2.overdue)).length)]
  | 0x08 => packWord [(31, b2n h.stEnable), (16, h.overdueH.toNat), (8, h.cycleH.toNat), (0, h.maxTiles.toNat)]
  | 0x10 => packWord [(30, b2n h.reqCluster), (0, h.reqTarget.toNat)]
  | 0x18 => packWord [(24, h.replanH.toNat), (16, h.targetPs.toNat), (8, h.floorPs.toNat), (0, h.deferMin.toNat)]
  | 0x20 => packWord [(48, h.fMhz.toNat), (32, h.fTarget.toNat), (16, h.fLimit.toNat)]
  | 0x28 => h.cdcOverrun.setWidth 64
  | 0x38 => h.evcSel.setWidth 64
  | 0x500 => packWord [(32, h.evSnapTick.toNat), (0, e.lastSeq.toNat)]
  | o =>
    if 0x100 ≤ o ∧ o < 0x120 then (smGetD h.dies ((o - 0x100) / 8) {}).word
    else if 0x200 ≤ o ∧ o < 0x238 then ctrWord h.ctr o
    else if 0x400 ≤ o ∧ o < 0x440 then
      let x := c ((o - 0x400) / 8)
      packWord [(11, x.newMode.toNat), (10, b2n x.sat), (0, x.newSource.toNat)]
    else if 0x440 ≤ o ∧ o < 0x480 then (c ((o - 0x440) / 8)).value.setWidth 64
    else if 0x480 ≤ o ∧ o < 0x4C0 then (c ((o - 0x480) / 8)).snap.setWidth 64
    else if 0x4C0 ≤ o ∧ o < 0x500 then (c ((o - 0x4C0) / 8)).last.setWidth 64
    else if 0x1000 ≤ o ∧ o < 0x1000 + 8 * Config.tiles then (s.ctl ((o - 0x1000) / 8)).healthWord
    else 0

/-- The 32 bytes of a discrepancy (R695). -/
def Disc.bytes (d : Disc) : List Byte :=
  leBytes 4 d.seq ++ leBytes 2 d.kind ++ leBytes 2 d.unit ++ leBytes 2 d.state.toNat ++ leBytes 2 d.copy.toNat ++ leBytes 4 0
    ++ leBytes 8 d.epoch.toNat ++ leBytes 8 d.tick.toNat

def State.grgRead (s : State) (o : Nat) : DWord :=
  let h := s.health
  match o with
  | 0x00 => packWord [(31, b2n h.viewValid), (0, h.units.toNat)]
  | 0x08 => h.viewEpoch
  | 0x10 => h.pollUs.setWidth 64
  | 0x18 => packWord [(16, h.eid.toNat), (8, h.smbus.toNat), (0, h.uart.toNat)]
  | o =>
    if 0x100 ≤ o ∧ o < 0x118 then ctrWord h.grgCtr o
    else if 0x800 ≤ o ∧ o < 0xA00 then
      match smGet h.discs ((o - 0x800) / 32) with
      | some d => BitVec.ofNat 64 (field d.bytes (o % 32) 8)
      | none => 0
    else 0

/-! ### A tile's block (R160 to R166, R222 to R227, R263 to R268, R313 to R319, R348 to R352, R382 to R388) -/

def ThState.code : ThState → Nat
  | .off => 0 | .ready => 1 | .active => 2 | .miss => 3 | .unit => 4 | .sync => 5 | .held => 6 | .firmware => 7

/-- SEQ_STATUS (R264). -/
def Tile.seqStatus (x : Tile) : DWord :=
  packWord ((List.range 8).map (fun k => (3 * k + 8, (x.th k).st.code)) ++ [(5, x.queue.length), (1, b2n x.firmware), (0, b2n x.active)])

/-- VEC_STATUS (R223): an instruction's effect is whole when it issues, so what is busy is a running REP. -/
def Tile.vecStatus (x : Tile) : DWord :=
  match x.rep with | some p => packWord [(8, p.left), (7, 1), (4, p.thr), (0, 1)] | none => 0

/-- STR_STATUS (R315). -/
def State.strStatus (s : State) (t : Nat) : DWord :=
  packWord [(16, (s.tagsHeld t).length), (0, ((s.tile t).str.slots.filter (fun e => e.2.st != .idle)).length)]

/-- WIN_STATUS (R349); a job that runs has left its queue (DESIGN CHOICE, log entry 139). -/
def Tile.winStatus (x : Tile) : DWord :=
  let st := fun (k : Nat) => (smGetD x.win.tickets k {}).st
  packWord [(28, maskOf 4 (fun k => st k == .open)), (24, maskOf 4 (fun k => st k == .resolved)),
    (16, x.str.slots.foldl (fun n e => n + e.2.heldHalves) 0), (8, maskOf 8 (fun k => (x.th k).spec.isSome)), (3, x.win.chkQ.length),
    (0, x.win.predQ.length)]

/-- TOR_STATUS (R383): a packet leaves its router in one step, so no port is found busy (DESIGN CHOICE, log entry 133). -/
def State.torStatus (s : State) (t : Nat) : DWord := packWord [(14, b2n (s.fusedOff t)), (7, s.portsPresent t)]

/-- The Gleaner's registers, in the block of a cluster's first tile (R387, R388). -/
def Router.glRead (r : Router) (o : Nat) : DWord :=
  match o with
  | 0x200 => packWord [(12, b2n r.glFull), (0, r.glCtrl.toNat)]
  | 0x208 => r.glMatch
  | 0x210 => r.glMask
  | 0x218 => r.glLo.setWidth 64
  | 0x220 => r.glHi.setWidth 64
  | 0x228 => r.glBase.setWidth 64
  | 0x230 => r.glSize.setWidth 64
  | 0x238 => r.glPtr.setWidth 64
  | _ => ctrWord r.ctr o

/-- The TOR_ registers of a tile's router. -/
def State.torRead (s : State) (t o : Nat) : DWord :=
  let r := s.router t
  if o = 0 then s.torStatus t
  else if o = 8 then r.err
  else if 0x100 ≤ o ∧ o ≤ 0x160 then ctrWord r.ctr o
  else if 0x200 ≤ o ∧ o ≤ 0x250 then (if clusterFirst (tileCluster t) = t then r.glRead o else 0)
  else 0

/-- A register of tile t's block as it reads; a reserved word reads 0. -/
def State.tileRegRead (s : State) (t o : Nat) : DWord :=
  let x := s.tile t
  match o with
  | 0x0000 => x.seqStatus
  | 0x0008 => x.seqTask
  | 0x0010 => x.fault
  | 0x0018 => x.faultAddr
  | 0x0020 => x.progTag
  | 0x1000 => BitVec.ofNat 64 (s.tileW t)
  | 0x1008 => (s.cols t).setWidth 64
  | 0x1010 => packWord [(8, b2n (!x.arrRun.isEmpty)), (0, x.arrQ.length)]
  | 0x1018 => x.arrErr
  | 0x2000 => x.vecStatus
  | 0x2008 => x.vecErr
  | 0x3000 => packWord [(8, b2n (!x.mvpRun.isEmpty)), (0, x.mvpQ.length)]
  | 0x3008 => x.mvpErr
  | 0x4000 => x.str.split.setWidth 64
  | 0x4008 => s.strStatus t
  | 0x4010 => x.str.err
  | 0x4018 => x.str.errAddr
  | 0x6000 => x.winStatus
  | 0x6008 => x.win.err
  | o =>
    if 0x0100 ≤ o ∧ o ≤ 0x0120 then ctrWord x.seqCtr o
    else if 0x1100 ≤ o ∧ o ≤ 0x1130 then ctrWord x.arrCtr (o - 0x1000)
    else if 0x2100 ≤ o ∧ o ≤ 0x2120 then ctrWord x.vecCtr (o - 0x2000)
    else if 0x3100 ≤ o ∧ o ≤ 0x3110 then ctrWord x.mvpCtr (o - 0x3000)
    else if 0x4100 ≤ o ∧ o ≤ 0x4150 then ctrWord x.str.ctr (o - 0x4000)
    else if 0x4400 ≤ o ∧ o < 0x4500 then s.slotWord t ((o - 0x4400) / 8)
    else if 0x6100 ≤ o ∧ o ≤ 0x6160 then ctrWord x.win.ctr (o - 0x6000)
    else if 0x8000 ≤ o then s.torRead t (o - 0x8000)
    else 0

/-! ### GRN_ (R416 to R426) -/

/-- GRN_STATUS (R417). -/
def Stack.status (x : Stack) : DWord :=
  packWord [(18, if x.remap = .none then 0 else x.remapPch.toNat), (17, b2n (x.remap != .none)), (16, b2n x.overcommit),
    (8, (x.pchs.filter (fun e => e.2.st == .lost)).length), (3, b2n x.isHot), (0, x.st.code)]

/-- GRN_PCH_c (R426). -/
def Pch.word (p : Pch) : DWord :=
  packWord [(62, p.st.code), (59, p.credit), (56, popcount (p.repaired.setWidth 32)), (28, p.wdelay.toNat), (0, p.rdelay.toNat)]

def State.grnRead (s : State) (k o : Nat) : DWord :=
  let x := s.stack k
  match o with
  | 0x00 => x.status
  | 0x08 => packWord [(8, x.rdThresh.toNat), (0, b2n x.hotForce)]
  | 0x10 => BitVec.ofNat 64 x.cap64
  | 0x18 => BitVec.ofNat 64 x.resvSum
  | 0x20 => packWord [(8, b2n (!x.unscrubbed.isEmpty)), (0, x.keep.toNat)]
  | 0x28 => x.remapSel.setWidth 64
  | 0x30 => packWord [(8, x.maxTemp.toNat), (0, x.temp.toNat)]
  | 0x40 => x.err
  | o =>
    if 0x200 ≤ o ∧ o ≤ 0x268 then ctrWord x.ctr o
    else if 0x400 ≤ o ∧ o < 0x600 then
      let r := smGetD x.resv ((o - 0x400) / 8) {}
      packWord [(16, r.burst.toNat), (0, r.rate.toNat)]
    else if 0x800 ≤ o ∧ o < 0xA00 then (x.pch ((o - 0x800) / 8)).word
    else 0

/-! ### HST_, KFB_ and LNK_ (R434, R445, R448, R454, R466 to R475, R496 to R502, R542 to R547) -/

def FnState.code : FnState → Nat
  | .idle => 0 | .running => 1 | .stopping => 2

/-- Ring pairs in use on a port. -/
def State.portRings (s : State) (d : Nat) : Nat := (s.rings.filter (fun e => e.2.port == d)).length

/-- Smallest counter that a key slot will accept (R531). -/
def State.keyFloor (s : State) (k : Nat) : DWord := BitVec.ofNat 64 ((smGetD s.keys k {}).last + 1)

/-- HST_FN_BIND_f (R546). -/
def Func.bindWord (x : Func) : DWord := packWord [(31, b2n x.tenant.isSome), (20, x.tenant.getD 0 % 2048), (8, x.quota), (0, x.st.code)]

def State.hstRead (s : State) (d o : Nat) : DWord :=
  let h := s.hostDie d
  match o with
  | 0x00 => packWord [(8, b2n h.enable), (0, h.poll.toNat)]
  | 0x08 => packWord [(32, ((List.range 1025).filter (fun f => (s.func d f).st == .stopping)).length), (8, s.portRings d), (3, h.width.toNat),
      (0, h.rate.toNat)]
  | 0x10 => h.err
  | o =>
    if 0x100 ≤ o ∧ o ≤ 0x140 then ctrWord h.ctr o
    else if 0x1000 ≤ o ∧ o < 0x1000 + 8 * 2050 then s.keyFloor ((o - 0x1000) / 8)
    else if 0x8000 ≤ o ∧ o < 0x8000 + 8 * 1025 then (s.func d ((o - 0x8000) / 8)).bindWord
    else 0

/-- A 128-bit table entry's word. -/
def wideWord (m : SMap (BitVec 128)) (o : Nat) : DWord := BitVec.ofNat 64 ((smGetD m (o / 16) 0).toNat / 2 ^ (64 * (o % 16 / 8)) % 2 ^ 64)

/-- KFB_PORT_k (R474): the time left of a Held port is a free value below its hold time (DESIGN CHOICE, log entry 133). -/
def State.kfbPortWord (s : State) (q : Nat) : DWord :=
  let p := s.fport q
  packWord [(61, p.st.code), (48, p.peerPort.toNat), (32, p.peerModule.toNat), (0, if p.st = .held then s.openField (p.holdLeft.toNat + 1) else 0)]

def State.kfbRead (s : State) (d o : Nat) : DWord :=
  let k := s.kfb d
  match o with
  | 0x00 => BitVec.ofNat 64 (b2n k.enable)
  | 0x08 => packWord [(31, b2n s.fab.idAssigned), (0, s.fab.moduleId.toNat)]
  | 0x10 => packWord [(56, maskOf 8 (fun i => (s.fport (8 * d + i)).st == .up)), (32, s.fab.recv.length), (0, s.fab.send.length)]
  | 0x18 => k.err
  | 0x28 => packWord [(48, k.settle.toNat), (32, k.flowDead.toNat), (16, k.e2e.toNat), (0, k.hold.toNat)]
  | 0x30 => k.redMs.setWidth 64
  | 0x38 => k.tickDown.setWidth 64
  | o =>
    if 0x100 ≤ o ∧ o < 0x180 then
      let q := 8 * d + (o - 0x100) / 16
      if o % 16 = 0 then s.kfbPortWord q else packWord [(63, b2n (s.fport q).delayValid), (0, (s.fport q).delay.toNat)]
    else if 0x200 ≤ o ∧ o ≤ 0x270 then ctrWord k.ctr o
    else if 0x100000 ≤ o ∧ o < 0x180000 then smGetD s.fab.routing ((o - 0x100000) / 8) 0
    else if 0x200000 ≤ o ∧ o < 0x208000 then smGetD s.fab.mgroups ((o - 0x200000) / 8) 0
    else if 0x210000 ≤ o ∧ o < 0x214000 then wideWord s.fab.rgroups (o - 0x210000)
    else if 0x220000 ≤ o ∧ o < 0x230000 then wideWord s.fab.windows (o - 0x220000)
    else 0

def Phase12.code : Phase12 → Nat
  | .off => 0 | .noSignal => 1 | .adapt => 2 | .align => 3 | .exchange => 4 | .running => 5 | .resync => 6 | .fastRetrain => 7
  | .failed => 8 | .loopback => 9

/-- LNK_STATUS_k (R499). -/
def Link.status (l : Link) : DWord :=
  packWord [(60, l.phase.code), (59, b2n l.selfSeen), (51, l.attempts), (50, b2n l.txW4), (49, b2n l.rxW4), (40, l.txLanes.toNat),
    (31, l.rxLanes.toNat), (22, l.peerGood.toNat), (0, (l.accepted + 1).toNat)]

/-- LNK_LANE_k_l (R500). -/
def Lane.word (x : Lane) : DWord :=
  packWord [(28, x.seen.toNat), (20, x.skew.toNat), (19, b2n x.disable), (18, b2n x.rxGood), (17, b2n x.aligned), (16, b2n x.locked),
    (15, b2n x.signal), (14, b2n x.matched), (4, b2n x.invert), (0, x.slip.toNat)]

/-- The registers of a port. -/
def State.lnkPortRead (s : State) (q o : Nat) : DWord :=
  let l := s.link q
  match o with
  | 0x00 => BitVec.ofNat 64 (b2n l.enable)
  | 0x08 => l.status
  | 0x10 => l.mode.setWidth 64
  | o =>
    if 0x100 ≤ o ∧ o ≤ 0x138 then ctrWord l.ctr o
    else if 0x200 ≤ o ∧ o < 0x320 then
      let x := l.lane ((o - 0x200) / 0x20)
      match o % 0x20 with
      | 0x00 => x.word
      | 0x08 => x.ce.setWidth 64
      | 0x10 => x.testErr.setWidth 64
      | _ => 0
    else 0

def State.lnkRead (s : State) (d o : Nat) : DWord :=
  let x := s.lnkDie d
  if o = 0 then packWord [(24, x.attempts.toNat), (16, x.ueLimit.toNat), (0, x.ceLimit.toNat)]
  else if o = 8 then x.err
  else if 0x1000 ≤ o ∧ o < 0x9000 then s.lnkPortRead (8 * d + (o - 0x1000) / 0x1000) (o % 0x1000)
  else 0

/-! ### LGC_ and CFG_ (R581 to R589) -/

def RegStage.code : RegStage → Nat
  | .none => 0 | .staging => 1 | .armed => 2

/-- CFG_REGION_j (R587). -/
def Region.word (x : Region) : DWord :=
  packWord [(62, x.st.code), (60, x.stage.code), (59, b2n x.imageValid), (58, b2n x.upset), (0, x.staged.toNat)]

/-- LGC_STATUS (R582): which oscillators are locked is a free value (DESIGN CHOICE, log entry 133). -/
def State.lgcStatus (s : State) (d : Nat) : DWord := packWord [(4, maskOf 4 (s.oscInUse d)), (0, s.openField 16)]

def State.lgcRead (s : State) (d o : Nat) : DWord :=
  let k := s.lgcDie d
  match o with
  | 0x00 => s.lgcStatus d
  | 0x08 => k.err
  | 0x40 => k.hb.setWidth 64
  | 0x48 => BitVec.ofNat 64 (b2n k.probe)
  | 0x800000 => k.commitWait.setWidth 64
  | 0x800008 => packWord [(31, b2n ((List.range 8).any (fun j => (s.region (8 * d + j)).stage == .staging))), (28, k.stagingRegion.toNat), (0, k.dict.toNat)]
  | 0x800010 => k.cfgErr
  | o =>
    if 0x20 ≤ o ∧ o < 0x40 then (smGetD k.osc ((o - 0x20) / 8) 100000).setWidth 64
    else if 0x80 ≤ o ∧ o < 0x100 then (smGetD k.sel ((o - 0x80) / 8) 0).setWidth 64
    else if 0x100 ≤ o ∧ o ≤ 0x118 then ctrWord k.ctr o
    else if 0x800100 ≤ o ∧ o < 0x800180 then
      let x := s.region (8 * d + (o - 0x800100) / 16)
      if o % 16 = 0 then x.word else if x.st = .empty then 0 else x.userId
    else if 0x800200 ≤ o ∧ o ≤ 0x800220 then ctrWord k.cfgCtr (o - 0x800000)
    else 0

/-! ### The set-up window (R41, R42, R719) -/

/-- The aligned 64-bit word at a set-up offset inside some block's span: two 32-bit registers, or one and a reserved word, which reads
0; and a reserved register (R42, R719). -/
def State.setupWord (s : State) (o : Nat) : DWord :=
  if o < 0x10000 then s.tckRead o
  else if o < 0x20000 then s.intRead (o - 0x10000)
  else if o < 0x30000 then s.bupRead (o - 0x20000)
  else if o < 0x40000 then s.hltRead (o - 0x30000)
  else if o < 0x50000 then s.grgRead (o - 0x40000)
  else if o < 0x10000000 then BitVec.ofNat 64 (field (s.capBytes s.cap) (o - 0x100000) 8)
  else if o < 0x20000000 then s.tileRegRead ((o - 0x10000000) / 0x10000) (o % 0x10000)
  else if o < 0x30000000 then s.grnRead ((o - 0x20000000) / 0x100000) (o % 0x100000)
  else if o < 0x40000000 then
    let d := (o - 0x30000000) / 0x1000000
    let r := o % 0x1000000
    if r < 0x400000 then s.hstRead d r else if r < 0x800000 then s.kfbRead d (r - 0x400000) else s.lnkRead d (r - 0x800000)
  else s.lgcRead ((o - 0x40000000) / 0x1000000) (o % 0x1000000)

/-- The word, or the half of it, that an access of a width at an offset reads. -/
def readPart (w : DWord) (off : Nat) (wide : Bool) : DWord :=
  if wide then w else if off % 8 = 0 then (w.setWidth 32).setWidth 64 else w >>> 32

/-- A read of the set-up window by an agent (R42, R43, R628, R641, R719): BUP_STATUS answers also while Granger is away. -/
def State.setupRead (s : State) (a : Agent) (off : Nat) (wide : Bool) : RegRead :=
  if !(s.agentUp a) then .none
  else if off % (if wide then 8 else 4) ≠ 0 ∨ !(a.reaches off) then .busError
  else if !(s.blockUp off || off / 8 * 8 == 0x20000) then .busError
  else if s.regHeld a off ∧ 0x10000000 ≤ off ∧ off < 0x20000000 then .waits
  else .value (readPart (s.setupWord (off / 8 * 8)) off wide)

/-! ### Function pages (R506, R538 to R541) -/

/-- A register of function f's page. -/
def State.pageWord (s : State) (d f o : Nat) : DWord :=
  let x := s.func d f
  match o with
  | 0x00 => packWord [(8, x.evLog2.toNat), (4, x.adminLog2.toNat), (0, b2n x.enable)]
  | 0x08 => packWord [(31, b2n x.cfgErr), (30, b2n x.tenant.isSome), (19, x.tenant.getD 0 % 2048), (8, (s.fnRings d f).length), (2, x.incarnation.toNat),
      (0, x.st.code)]
  | 0x10 => x.adminSq
  | 0x18 => x.adminCq
  | 0x20 => x.evq
  | 0x28 => x.db
  | _ => 0

/-- A host's read of a function page: zero while the function stops, except HST_FN_STATUS (R538). -/
def State.pageRead (s : State) (d f off : Nat) (wide : Bool) : RegRead :=
  if !(s.agentUp (.page d f)) ∨ 1024 < f ∨ 4096 ≤ off then .none
  else if off % (if wide then 8 else 4) ≠ 0 then .busError
  else
    let o := off / 8 * 8
    .value (if (s.func d f).st = .stopping ∧ o ≠ 8 then 0 else readPart (s.pageWord d f o) off wide)

/-! ### Set-up accesses on the torus (R364, R720; log entry 121) -/

/-- I/O port of I/O die d and endpoint of an access to a set-up register: a tile's block at its own interface, a stack's at its memory
port 0, a die's logic blocks at its set-up port; what the I/O dies serve themselves has none. -/
def setupEndpoint (d off : Nat) : Option (Endpoint × Endpoint) :=
  if 0x10000000 ≤ off ∧ off < tileBlock Config.tiles then
    let t := (off - 0x10000000) / 0x10000
    some (ioEnd d (t % 16), tileEnd t)
  else if 0x20000000 ≤ off ∧ off < grnBlock 8 then some (ioEnd d 0, memEnd ((off - 0x20000000) / 0x100000) 0)
  else if 0x40000000 ≤ off ∧ off < lgcBlock 4 then some (ioEnd d 0, setupEnd ((off - 0x40000000) / 0x1000000))
  else none

end Sys2Proof.Machine
end

