-- ==== Sys2Proof/Machine/Registers.lean ====
section
/-!
DEFINITION. Set-up register writes that have no row of their own (01 R41 to R44, R719 and each chapter's register map), and the
firmware-only instructions (06 R241, R262).
-/
namespace Sys2Proof.Machine

/-! ### Halves (R42)

A write reaches one or both 32-bit halves of an aligned 64-bit word: `lo` and `hi` hold what is written, if anything. -/

/-- The 64-bit value that a register holds after a write of its halves. -/
def mix (old : DWord) (lo hi : Option Word) : DWord :=
  ((hi.getD ((old >>> 32).setWidth 32)).setWidth 64 <<< 32) ||| (lo.getD (old.setWidth 32)).setWidth 64

/-- A register of the low half: none written, nothing happens. -/
def onLo (s : State) (lo : Option Word) (f : Word → Option State) : Option State :=
  match lo with
  | some v => f v
  | none => some s

/-- A write-only bit 0 that clears. -/
def clearBit (s : State) (lo : Option Word) (f : State → State) : Option State := some (if lo.any (fun v => v.getLsbD 0) then f s else s)

/-- Writing 1 to bit 63 of an error register clears it. -/
def w1cValid (old : DWord) (hi : Option Word) : DWord := if hi.any (fun v => v.getLsbD 31) then old &&& ~~~(1#64 <<< 63) else old

/-! ### TCK_ and INT_ (R74 to R83, R614 to R618) -/

def State.tckReg (s : State) (o : Nat) (lo : Option Word) : Option State :=
  if o = 0 then onLo s lo s.tckCtrlWrite
  else if o = 8 then onLo s lo (fun v => some (s.updTick (fun t => { t with conflict := t.conflict && !v.getLsbD 5 })))
  else if o = 0x38 then
    onLo s lo (fun v => if s.anyBusy then none else some (s.updTick (fun t => { t with limitM1 := v.setWidth 12 })))
  else if 0x1000 ≤ o ∧ o < 0x1200 then
    let p := (o - 0x1000) / 8
    onLo s lo (fun v =>
      if s.partBusy p ∨ v.getLsbD 1 then none
      else some (s.updTick (fun t => { t with cfg := smSet t.cfg p ⟨BitVec.ofNat 4 (bits v.toNat 7 4), v.getLsbD 2, v.getLsbD 0⟩ })))
  else some s

def State.intReg (s : State) (o : Nat) (lo : Option Word) : Option State :=
  if o = 0 then onLo s lo (fun v => some (s.updInt (fun x => { x with eventEn := v.setWidth 16 })))
  else if o = 0x18 then
    onLo s lo (fun v => some (s.updInt (fun x => { x with transitThresh := v.setWidth 16, ceThresh := (v >>> 16).setWidth 16 })))
  else if o = 0x28 then clearBit s lo (fun s => s.updInt (fun x => { x with ctr := [], logWrapped := false, sinceClear := 0 }))
  else some s

/-! ### BUP_, HLT_ and GRG_ (R646 to R653, R685 to R689, R693, R694) -/

/-- A write of BUP_PARK_n: bits that change park or wake their clusters; one refusal refuses the write. -/
def State.parkWrite (s : State) (n : Nat) (lo hi : Option Word) : Option State :=
  let old : DWord := BitVec.ofNat 64 (s.bup.park.toNat / 2 ^ (64 * n) % 2 ^ 64)
  let new := mix old lo hi
  ((List.range 64).filter (fun b => decide (64 * n + b < Config.clusters) && old.getLsbD b != new.getLsbD b)).foldl (fun r b =>
    match r with
    | none => none
    | some s => if new.getLsbD b then s.parkCluster (64 * n + b) else some (s.unparkCluster (64 * n + b))) (some s)

def State.bupReg (s : State) (o : Nat) (lo hi : Option Word) : Option State :=
  if o = 8 then onLo s lo s.bootCfgWrite
  else if o = 0x10 then clearBit s lo (fun s => s.updBup (fun b => { b with ctr := [] }))
  else if o = 0x38 then
    onLo s lo (fun v =>
      match (if v.getLsbD 0 then s.deepWrite else some s) with
      | some s => some (if v.getLsbD 1 then s.deepExit 0 else s)
      | none => none)
  else if o = 0x200 ∨ o = 0x208 ∨ o = 0x210 then s.parkWrite ((o - 0x200) / 8) lo hi
  else some s

/-- HLT_ST_CFG and HLT_AGE_CFG: a write outside the stated ranges is refused. -/
def State.stCfgWrite (s : State) (v : Word) : Option State :=
  let n := v.toNat
  if bits n 15 8 = 0 ∨ bits n 23 16 < bits n 15 8 ∨ bits n 7 0 = 0 ∨ 144 < bits n 7 0 then none
  else some (s.updHealth (fun h => { h with
    stEnable := v.getLsbD 31, overdueH := BitVec.ofNat 8 (bits n 23 16), cycleH := BitVec.ofNat 8 (bits n 15 8), maxTiles := BitVec.ofNat 8 (bits n 7 0) }))
/-- DEDUCED: log entry 97. -/
def State.ageCfgWrite (s : State) (v : Word) : Option State :=
  let n := v.toNat
  if bits n 31 24 = 0 ∨ 48 < bits n 31 24 ∨ bits n 23 16 ≤ bits n 15 8 ∨ bits n 7 0 = 0 then none
  else some (s.updHealth (fun h => { h with
    replanH := BitVec.ofNat 8 (bits n 31 24), targetPs := BitVec.ofNat 8 (bits n 23 16), floorPs := BitVec.ofNat 8 (bits n 15 8),
    deferMin := BitVec.ofNat 8 (bits n 7 0) }))

/-- HLT_EVC_CFG_k of the selected tile: mode and source take effect at the next task start (R677, R689). -/
def State.evcWrite (s : State) (k : Nat) (v : Word) : Option State :=
  let n := v.toNat
  if bits n 12 11 = 3 ∨ 29 ≤ bits n 5 0 then none
  else some (s.updSelEv k (fun c =>
    let c := { c with newMode := BitVec.ofNat 2 (bits n 12 11), newSource := BitVec.ofNat 6 (bits n 5 0) }
    if v.getLsbD 15 then { c with value := 0, sat := false } else c))

/-- DESIGN CHOICE: log entry 103. -/
def State.hltReg (s : State) (o : Nat) (lo : Option Word) : Option State :=
  if o = 8 then onLo s lo s.stCfgWrite
  else if o = 0x10 then
    onLo s lo (fun v =>
      if v.getLsbD 31 then s.stRequest (v.getLsbD 30) (v.toNat % 4096)
      else some (s.updHealth (fun h => { h with reqCluster := v.getLsbD 30, reqTarget := v.setWidth 12 })))
  else if o = 0x18 then onLo s lo s.ageCfgWrite
  else if o = 0x28 then onLo s lo (fun v => some (s.updHealth (fun h => { h with cdcOverrun := h.cdcOverrun &&& ~~~(v.setWidth 8) })))
  else if o = 0x30 then clearBit s lo (fun s => s.updHealth (fun h => { h with ctr := [] }))
  else if o = 0x38 then onLo s lo (fun v => some (s.updHealth (fun h => { h with evcSel := v.setWidth 12 })))
  else if 0x400 ≤ o ∧ o < 0x440 then onLo s lo (s.evcWrite ((o - 0x400) / 8))
  else some s

def State.grgReg (s : State) (o : Nat) (lo : Option Word) : Option State :=
  if o = 0x10 then
    onLo s lo (fun v =>
      let n := v.toNat % 2048
      if n < 100 ∨ 1000 < n then none else some (s.updHealth (fun h => { h with pollUs := BitVec.ofNat 11 n })))
  else if o = 0x18 then
    onLo s lo (fun v =>
      let n := v.toNat
      if n % 4 = 3 then none
      else some (s.updHealth (fun h => { h with eid := BitVec.ofNat 8 (bits n 23 16), smbus := BitVec.ofNat 7 (bits n 14 8), uart := BitVec.ofNat 2 n })))
  else if o = 0x20 then clearBit s lo (fun s => s.updHealth (fun h => { h with grgCtr := [] }))
  else some s

/-! ### A tile's block (R160 to R166, R222 to R227, R263 to R268, R313 to R319, R348 to R352, R382 to R388) -/

/-- STR_SPLIT: only while the tile runs no task; the three shares are at most 16 sixteenths (R314). -/
def State.splitWrite (s : State) (t : Nat) (v : Word) : Option State :=
  let n := v.toNat
  if s.taskActive t ∨ 16 < bits n 20 16 + bits n 12 8 + bits n 4 0 then none
  else some (s.updTile t (fun x => { x with str := { x.str with split := v &&& 0x001F1F1F } }))

/-- The Gleaner's registers, in the block of a cluster's first tile (R388). -/
def State.glReg (s : State) (t o : Nat) (lo hi : Option Word) : Option State :=
  if clusterFirst (tileCluster t) ≠ t then some s
  else if o = 0x200 then onLo s lo (s.glCtrlWrite t)
  else some (s.updRouter t (fun r =>
    let w := fun (old : DWord) => mix old lo hi
    match o with
    | 0x208 => { r with glMatch := w r.glMatch }
    | 0x210 => { r with glMask := w r.glMask }
    | 0x218 => { r with glLo := (w (r.glLo.setWidth 64)).setWidth 48 }
    | 0x220 => { r with glHi := (w (r.glHi.setWidth 64)).setWidth 48 }
    | 0x228 => { r with glBase := (w (r.glBase.setWidth 64)).setWidth 48 &&& ~~~63#48 }
    | 0x230 => { r with glSize := (w (r.glSize.setWidth 64)).setWidth 40 }
    | _ => r))

/-- A write to a tile's block. -/
def State.tileRegWrite (s : State) (t o : Nat) (lo hi : Option Word) : Option State :=
  let upd := fun (f : Tile → Tile) => some (s.updTile t f)
  match o with
  | 0x0010 => upd (fun x => { x with fault := w1cValid x.fault hi })
  | 0x0028 => clearBit s lo (fun s => s.updTile t (fun x => { x with seqCtr := [] }))
  | 0x1018 => upd (fun x => { x with arrErr := w1cValid x.arrErr hi })
  | 0x1020 => clearBit s lo (fun s => s.updTile t (fun x => { x with arrCtr := [] }))
  | 0x2008 => upd (fun x => { x with vecErr := w1cValid x.vecErr hi })
  | 0x2010 => clearBit s lo (fun s => s.updTile t (fun x => { x with vecCtr := [] }))
  | 0x3008 => upd (fun x => { x with mvpErr := w1cValid x.mvpErr hi })
  | 0x3010 => clearBit s lo (fun s => s.updTile t (fun x => { x with mvpCtr := [] }))
  | 0x4000 => onLo s lo (s.splitWrite t)
  | 0x4010 => upd (fun x => { x with str := { x.str with err := w1cValid x.str.err hi } })
  | 0x4020 => clearBit s lo (fun s => s.updTile t (fun x => { x with str := { x.str with ctr := [] } }))
  | 0x6008 => upd (fun x => { x with win := { x.win with err := w1cValid x.win.err hi } })
  | 0x6010 => clearBit s lo (fun s => s.updTile t (fun x => { x with win := { x.win with ctr := [] } }))
  | 0x8008 => some (s.updRouter t (fun r => { r with err := w1cValid r.err hi }))
  | 0x8010 => onLo s lo (fun v =>
      let s := if v.getLsbD 0 then s.torClear t else s
      some (if v.getLsbD 1 then s.glClear t else s))
  | o => if 0x8200 ≤ o ∧ o ≤ 0x8230 then s.glReg t (o - 0x8000) lo hi else some s

/-! ### GRN_ (R416 to R425) -/

/-- GRN_PASR: keep and enter are stopped fields, exit is not (R43, R420). -/
def State.pasrWrite (s : State) (k : Nat) (v : Word) : Option State :=
  let keep := v.toNat % 16
  if 8 < keep ∨ (s.anyBusy ∧ (keep ≠ (s.stack k).keep.toNat ∨ v.getLsbD 16)) then none
  else
    let s := s.updStack k (fun x => { x with keep := BitVec.ofNat 4 keep })
    let s := if v.getLsbD 16 && (s.stack k).clocked then s.pasrSleep k else s
    some (if v.getLsbD 17 then s.pasrWake k else s)

def State.grnReg (s : State) (k o : Nat) (lo hi : Option Word) : Option State :=
  if o = 8 then
    onLo s lo (fun v =>
      let t := bits v.toNat 13 8
      if s.anyBusy ∨ t < 4 then none else some (s.updStack k (fun x => { x with rdThresh := BitVec.ofNat 6 t, hotForce := v.getLsbD 0 })))
  else if o = 0x20 then onLo s lo (s.pasrWrite k)
  else if o = 0x28 then
    onLo s lo (fun v =>
      if v.getLsbD 7 then s.remapWrite k (v.toNat % 64)
      else if (s.stack k).remap = .none ∧ (s.pch k (v.toNat % 64)).st = .lost then some (s.updStack k (fun x => { x with remapSel := v.setWidth 6 }))
      else none)
  else if o = 0x38 then clearBit s lo (fun s => s.updStack k (fun x => { x with ctr := [], maxTemp := 0 }))
  else if o = 0x40 then some (s.updStack k (fun x => { x with err := w1cValid x.err hi }))
  else if 0x400 ≤ o ∧ o < 0x600 then onLo s lo (s.resvWrite k ((o - 0x400) / 8))
  else some s

/-! ### HST_, KFB_ and LNK_ (R542 to R546, R466 to R473, R496 to R501) -/

/-- HST_CTRL: a poll period of 0 is refused (R543). -/
def State.hstReg (s : State) (d o : Nat) (lo hi : Option Word) : Option State :=
  if o = 0 then
    onLo s lo (fun v =>
      if v.toNat % 256 = 0 then none else some (s.updHost d (fun h => { h with poll := v.setWidth 8, enable := v.getLsbD 8 })))
  else if o = 0x10 then some (s.updHost d (fun h => { h with err := w1cValid h.err hi }))
  else if o = 0x18 then clearBit s lo (fun s => s.updHost d (fun h => { h with ctr := [] }))
  else some s

/-- KFB_CTRL: with enable set, ports that run send their hello, and those that have their peer's come Up (R467, R482). -/
def State.kfbEnable (s : State) (d : Nat) (on : Bool) : State :=
  let s := s.updKfb d (fun k => { k with enable := on })
  if !on then s
  else
    ((List.range 8).map (8 * d + ·)).foldl (fun s q =>
      let s := s.sendHello q
      if (s.fport q).st = .training ∧ (s.link q).phase = .running ∧ (s.link q).hello then s.portUp q else s) s

/-- KFB_TIMERS (R472). -/
def State.timersWrite (s : State) (d : Nat) (v : DWord) : Option State :=
  let f := fun (hi lo : Nat) => bits v.toNat hi lo
  if s.anyBusy ∨ f 63 48 = 0 ∨ f 47 32 = 0 ∨ f 31 16 = 0 ∨ f 15 0 = 0 ∨ f 31 16 ≤ f 15 0 ∨ f 47 32 < 2 * f 31 16 then none
  else some (s.updKfb d (fun k => { k with
    settle := BitVec.ofNat 16 (f 63 48), flowDead := BitVec.ofNat 16 (f 47 32), e2e := BitVec.ofNat 16 (f 31 16), hold := BitVec.ofNat 16 (f 15 0) }))

/-- KFB_TICK_DOWN: a downstream port named anew starts without the loss that R465 noted. -/
def State.tickDownWrite (s : State) (d : Nat) (v : Byte) : State :=
  let s := s.updKfb d (fun k => { k with tickDown := v })
  s.updTick (fun t => { t with barriers := t.barriers.map (fun e => (e.1, { e.2 with down := e.2.down.filter (fun x => !(x.1 / 8 == d && x.2 == 2 ^ 64)) })) })

def State.kfbReg (s : State) (d o : Nat) (lo hi : Option Word) : Option State :=
  let k := s.kfb d
  if o = 0 then onLo s lo (fun v => if s.anyBusy then none else some (s.kfbEnable d (v.getLsbD 0)))
  else if o = 8 then onLo s lo s.idWrite
  else if o = 0x18 then some (s.updKfb d (fun k => { k with err := w1cValid k.err hi }))
  else if o = 0x20 then clearBit s lo (fun s => s.updKfb d (fun k => { k with ctr := [] }))
  else if o = 0x28 then
    s.timersWrite d (mix (BitVec.ofNat 64 (k.settle.toNat * 2 ^ 48 + k.flowDead.toNat * 2 ^ 32 + k.e2e.toNat * 2 ^ 16 + k.hold.toNat)) lo hi)
  else if o = 0x30 then
    onLo s lo (fun v => if s.anyBusy ∨ v.toNat % 65536 = 0 then none else some (s.updKfb d (fun k => { k with redMs := v.setWidth 16 })))
  else if o = 0x38 then onLo s lo (fun v => if s.anyBusy then none else some (s.tickDownWrite d (v.setWidth 8)))
  else some s

/-- LNK_CFG (R497). -/
def State.lnkCfgWrite (s : State) (d : Nat) (v : Word) : Option State :=
  let n := v.toNat
  if s.anyBusy ∨ bits n 31 24 = 0 ∨ bits n 23 16 = 0 ∨ bits n 15 0 = 0 then none
  else some (s.updLnkDie d (fun x => { x with
    attempts := BitVec.ofNat 8 (bits n 31 24), ueLimit := BitVec.ofNat 8 (bits n 23 16), ceLimit := BitVec.ofNat 16 n }))

/-- The registers of a port (R498, R500); LNK_TEST.mode is taken from the low bits (PRESUMED, log entry 18). -/
def State.lnkPortReg (s : State) (q o : Nat) (lo : Option Word) : Option State :=
  if o = 0 then onLo s lo (s.lnkCtrlWrite q)
  else if o = 0x10 then onLo s lo (fun v => s.testWrite q (v.toNat % 4))
  else if 0x200 ≤ o ∧ o < 0x320 ∧ o % 0x20 = 0 then
    onLo s lo (fun v => some (s.updLane q ((o - 0x200) / 0x20) (fun x => { x with disable := v.getLsbD 19, invert := v.getLsbD 4, slip := v.setWidth 3 })))
  else some s

def State.lnkReg (s : State) (d o : Nat) (lo hi : Option Word) : Option State :=
  if o = 0 then onLo s lo (s.lnkCfgWrite d)
  else if o = 8 then some (s.updLnkDie d (fun x => { x with err := w1cValid x.err hi }))
  else if o = 0x10 then clearBit s lo (fun s => s.lnkClear d)
  else if 0x1000 ≤ o ∧ o < 0x9000 then s.lnkPortReg (8 * d + (o - 0x1000) / 0x1000) (o % 0x1000) lo
  else some s

/-! ### LGC_ and CFG_ (R581 to R588) -/

def State.lgcReg (s : State) (d o : Nat) (lo hi : Option Word) : Option State :=
  if o = 8 then some (s.updLgc d (fun k => { k with err := w1cValid k.err hi }))
  else if o = 0x10 then clearBit s lo (fun s => s.updLgc d (fun k => { k with ctr := [] }))
  else if 0x20 ≤ o ∧ o < 0x40 then onLo s lo (fun v => s.oscWrite d ((o - 0x20) / 8) (v.toNat % 2 ^ 30))
  else if o = 0x40 then s.hbWrite d ((mix ((s.lgcDie d).hb.setWidth 64) lo hi).toNat % 2 ^ 36)
  else if o = 0x48 then onLo s lo (fun v => some (s.updLgc d (fun k => { k with probe := v.getLsbD 0 })))
  else if 0x80 ≤ o ∧ o < 0x100 then
    onLo s lo (fun v => some (s.updLgc d (fun k => { k with sel := smSet k.sel ((o - 0x80) / 8) (v.setWidth 9) })))
  else if o = 0x800000 then
    onLo s lo (fun v => if v.toNat % 65536 = 0 then none else some (s.updLgc d (fun k => { k with commitWait := v.setWidth 16 })))
  else if o = 0x800010 then some (s.updLgc d (fun k => { k with cfgErr := w1cValid k.cfgErr hi }))
  else if o = 0x800018 then clearBit s lo (fun s => s.updLgc d (fun k => { k with cfgCtr := [] }))
  else some s

/-! ### REGISTER_WRITE -/

/-- A write to an aligned 64-bit word of the set-up window: none where it is refused. A read-only or reserved register takes it
without effect (R17, R719). -/
def State.setReg (s : State) (o : Nat) (lo hi : Option Word) : Option State :=
  if o < 0x10000 then s.tckReg o lo
  else if o < 0x20000 then s.intReg (o - 0x10000) lo
  else if o < 0x30000 then s.bupReg (o - 0x20000) lo hi
  else if o < 0x40000 then s.hltReg (o - 0x30000) lo
  else if o < 0x50000 then s.grgReg (o - 0x40000) lo
  else if o < 0x10000000 then some s
  else if o < 0x20000000 then s.tileRegWrite ((o - 0x10000000) / 0x10000) (o % 0x10000) lo hi
  else if o < 0x30000000 then s.grnReg ((o - 0x20000000) / 0x100000) (o % 0x100000) lo hi
  else if o < 0x40000000 then
    let d := (o - 0x30000000) / 0x1000000
    let r := o % 0x1000000
    if r < 0x400000 then s.hstReg d r lo hi else if r < 0x800000 then s.kfbReg d (r - 0x400000) lo hi else s.lnkReg d (r - 0x800000) lo hi
  else s.lgcReg ((o - 0x40000000) / 0x1000000) (o % 0x1000000) lo hi

/-- The halves that a 32- or 64-bit write reaches. -/
def halves (off : Nat) (wide : Bool) (v : DWord) : Option Word × Option Word :=
  if wide then (some (v.setWidth 32), some ((v >>> 32).setWidth 32))
  else if off % 8 = 0 then (some (v.setWidth 32), none) else (none, some (v.setWidth 32))

/-- A host's write to its function page (R506, R538 to R541): dropped where it is unaligned or the function stops; while enable is 1
only enable may change. -/
def State.pageWrite (s : State) (d f off : Nat) (wide : Bool) (v : DWord) : State :=
  let (lo, hi) := halves off wide v
  let o := off / 8 * 8
  let x := s.func d f
  if off % (if wide then 8 else 4) ≠ 0 then s.refuse (.page d f)
  else
    let s : State := { s with answer := .ok }
    if x.st = .stopping ∧ o ≠ 0 then s.cfgDrop d f
    else if o = 0 then (match lo with | some w => s.fnCtrl d f w | none => s)
    else if o = 8 then
      (if lo.any (fun w => w.getLsbD 31) then s.updFunc d f (fun y => { y with cfgErr := false }) else s)
    else if 0x10 ≤ o ∧ o ≤ 0x28 then
      if x.enable then s.cfgDrop d f
      else
        let w := fun (old : DWord) => mix old lo hi &&& ~~~4095#64
        s.updFunc d f (fun y =>
          match o with
          | 0x10 => { y with adminSq := w y.adminSq }
          | 0x18 => { y with adminCq := w y.adminCq }
          | 0x20 => { y with evq := w y.evq }
          | _ => { y with db := w y.db })
    else s

/-- REGISTER_WRITE. An unaligned access is a bus error (R42). DEDUCED: log entry 102. -/
def execRegisterWrite (a : Agent) (off : Nat) (wide : Bool) (v : DWord) (s : State) : Out :=
  .next (
    match a with
    | .page d f => if s.agentUp a ∧ f ≤ 1024 then s.pageWrite d f off wide v else s
    | _ => s.regWrite a off (fun s =>
        if off % (if wide then 8 else 4) ≠ 0 then none
        else s.setReg (off / 8 * 8) (halves off wide v).1 (halves off wide v).2))

/-! ### Counters of a tile's units (R165, R226, R267) -/

/-- ARR_CLEAR. -/
def execArrClear (a : Agent) (t : Nat) (s : State) : Out :=
  .next (s.regWrite a (tileBlock t + 0x1020) (fun s => some (s.updTile t (fun x => { x with arrCtr := [] }))))
/-- VEC_CLEAR. -/
def execVecClear (a : Agent) (t : Nat) (s : State) : Out :=
  .next (s.regWrite a (tileBlock t + 0x2010) (fun s => some (s.updTile t (fun x => { x with vecCtr := [] }))))
/-- MVP_CLEAR. -/
def execMvpClear (a : Agent) (t : Nat) (s : State) : Out :=
  .next (s.regWrite a (tileBlock t + 0x3010) (fun s => some (s.updTile t (fun x => { x with mvpCtr := [] }))))
/-- SEQ_CLEAR. -/
def execSeqClear (a : Agent) (t : Nat) (s : State) : Out :=
  .next (s.regWrite a (tileBlock t + 0x28) (fun s => some (s.updTile t (fun x => { x with seqCtr := [] }))))

/-! ### Firmware-only instructions (R241, R242, R262) -/

/-- An instruction that is illegal outside firmware mode. It carries no guard, and every bit that it does not use is 0 (R232, R242).
DEDUCED: log entry 100. -/
def State.firmwareOnly (s : State) (t thr o : Nat) (u : Uses) (run : Nat → State → Verdict) : State :=
  s.issueAt t thr o (fun _ => false) (fun w s =>
    if !(s.tile t).firmware || !u.ok w || bits w 7 4 != 0 then illegal else run w s)

/-- FGET: a word of the tile's own block; 0 outside it. DEDUCED: log entry 100. -/
def execFget (t thr : Nat) (s : State) : Out :=
  .next (s.firmwareOnly t thr 0xF0 { gd := true, ga := true } (fun w s =>
    let o := (s.g t thr (sGa w)).toNat
    .done (s.setG t thr (sGd w) (if o < 0x10000 ∧ o % 8 = 0 then s.tileRegRead t o else 0))))

/-- FSET: a 64-bit write to the tile's own block; refused or outside it, without effect. -/
def execFset (t thr : Nat) (s : State) : Out :=
  .next (s.firmwareOnly t thr 0xF1 { ga := true, gb := true } (fun w s =>
    let o := (s.g t thr (sGa w)).toNat
    let v := s.g t thr (sGb w)
    .done (if o < 0x10000 ∧ o % 8 = 0 then (s.tileRegWrite t o (halves o true v).1 (halves o true v).2).getD s else s)))

/-- FEND: firmware ends and the tile is idle; a reset that waited for it may be over. -/
def execFend (t thr : Nat) (s : State) : Out :=
  .next (s.firmwareOnly t thr 0xF2 {} (fun _ s => .own (s.endFirmware t)))

end Sys2Proof.Machine
end

