-- ==== Sys2Proof/Machine/Dispatch.lean ====
section
/-! DEFINITION. One arm per command: a direct call of its meaning. -/
namespace Sys2Proof.Machine

def exec (i : Instr) (s : State) : Host.Outcome State Fault Refusal :=
  match i with
  | .tickEnable a => Sys2Proof.Machine.execTickEnable a s
  | .clearStats a => Sys2Proof.Machine.execClearStats a s
  | .tickEdge upsets => Sys2Proof.Machine.execTickEdge upsets s
  | .guardStart => Sys2Proof.Machine.execGuardStart s
  | .deadlineEdge t => Sys2Proof.Machine.execDeadlineEdge t s
  | .tickMarker id offset turn => Sys2Proof.Machine.execTickMarker id offset turn s
  | .holdoverEntry => Sys2Proof.Machine.execHoldoverEntry s
  | .freeRunEntry => Sys2Proof.Machine.execFreeRunEntry s
  | .barrierShareClose g n ns => Sys2Proof.Machine.execBarrierShareClose g n ns s
  | .barrierReport id => Sys2Proof.Machine.execBarrierReport id s
  | .barrierClose id ns => Sys2Proof.Machine.execBarrierClose id ns s
  | .tickParam src => Sys2Proof.Machine.execTickParam src s
  | .amm t thr => Sys2Proof.Machine.execAmm t thr s
  | .adrn t thr => Sys2Proof.Machine.execAdrn t thr s
  | .acbl t thr => Sys2Proof.Machine.execAcbl t thr s
  | .ahist t thr => Sys2Proof.Machine.execAhist t thr s
  | .abar t thr => Sys2Proof.Machine.execAbar t thr s
  | .arrayEntryStart t bubbles => Sys2Proof.Machine.execArrayEntryStart t bubbles s
  | .arrayEntryComplete t bubbles => Sys2Proof.Machine.execArrayEntryComplete t bubbles s
  | .arrClear a t => Sys2Proof.Machine.execArrClear a t s
  | .mvm t thr => Sys2Proof.Machine.execMvm t thr s
  | .mbar t thr => Sys2Proof.Machine.execMbar t thr s
  | .mvpEntryStart t => Sys2Proof.Machine.execMvpEntryStart t s
  | .mvpEntryComplete t stall => Sys2Proof.Machine.execMvpEntryComplete t stall s
  | .vecClear a t => Sys2Proof.Machine.execVecClear a t s
  | .mvpClear a t => Sys2Proof.Machine.execMvpClear a t s
  | .vadd t thr => Sys2Proof.Machine.execVadd t thr s
  | .vsub t thr => Sys2Proof.Machine.execVsub t thr s
  | .vmul t thr => Sys2Proof.Machine.execVmul t thr s
  | .vfma t thr => Sys2Proof.Machine.execVfma t thr s
  | .vmin t thr => Sys2Proof.Machine.execVmin t thr s
  | .vmax t thr => Sys2Proof.Machine.execVmax t thr s
  | .vcmp t thr => Sys2Proof.Machine.execVcmp t thr s
  | .vsel t thr => Sys2Proof.Machine.execVsel t thr s
  | .vcvt t thr => Sys2Proof.Machine.execVcvt t thr s
  | .vql8 t thr => Sys2Proof.Machine.execVql8 t thr s
  | .vdl8 t thr => Sys2Proof.Machine.execVdl8 t thr s
  | .vsf t thr => Sys2Proof.Machine.execVsf t thr s
  | .vbit t thr => Sys2Proof.Machine.execVbit t thr s
  | .vshf t thr => Sys2Proof.Machine.execVshf t thr s
  | .vred t thr => Sys2Proof.Machine.execVred t thr s
  | .vperm t thr => Sys2Proof.Machine.execVperm t thr s
  | .vxln t thr => Sys2Proof.Machine.execVxln t thr s
  | .vbf2 t thr => Sys2Proof.Machine.execVbf2 t thr s
  | .vbf4 t thr => Sys2Proof.Machine.execVbf4 t thr s
  | .vput t thr => Sys2Proof.Machine.execVput t thr s
  | .vget t thr => Sys2Proof.Machine.execVget t thr s
  | .vld t thr => Sys2Proof.Machine.execVld t thr s
  | .vst t thr => Sys2Proof.Machine.execVst t thr s
  | .vldl t thr => Sys2Proof.Machine.execVldl t thr s
  | .vstl t thr => Sys2Proof.Machine.execVstl t thr s
  | .vag t thr => Sys2Proof.Machine.execVag t thr s
  | .vagrd t thr => Sys2Proof.Machine.execVagrd t thr s
  | .vrset t thr => Sys2Proof.Machine.execVrset t thr s
  | .vrget t thr => Sys2Proof.Machine.execVrget t thr s
  | .vrand t thr => Sys2Proof.Machine.execVrand t thr s
  | .vsample t thr => Sys2Proof.Machine.execVsample t thr s
  | .vsred t thr => Sys2Proof.Machine.execVsred t thr s
  | .vtopk t thr => Sys2Proof.Machine.execVtopk t thr s
  | .vtopp t thr => Sys2Proof.Machine.execVtopp t thr s
  | .vtops t thr => Sys2Proof.Machine.execVtops t thr s
  | .rep t thr => Sys2Proof.Machine.execRep t thr s
  | .add t thr => Sys2Proof.Machine.execAdd t thr s
  | .sub t thr => Sys2Proof.Machine.execSub t thr s
  | .mul t thr => Sys2Proof.Machine.execMul t thr s
  | .mulh t thr => Sys2Proof.Machine.execMulh t thr s
  | .and t thr => Sys2Proof.Machine.execAnd t thr s
  | .or t thr => Sys2Proof.Machine.execOr t thr s
  | .xor t thr => Sys2Proof.Machine.execXor t thr s
  | .shl t thr => Sys2Proof.Machine.execShl t thr s
  | .shr t thr => Sys2Proof.Machine.execShr t thr s
  | .sar t thr => Sys2Proof.Machine.execSar t thr s
  | .min t thr => Sys2Proof.Machine.execMin t thr s
  | .max t thr => Sys2Proof.Machine.execMax t thr s
  | .movhi t thr => Sys2Proof.Machine.execMovhi t thr s
  | .cmp t thr => Sys2Proof.Machine.execCmp t thr s
  | .sel t thr => Sys2Proof.Machine.execSel t thr s
  | .br t thr => Sys2Proof.Machine.execBr t thr s
  | .jr t thr => Sys2Proof.Machine.execJr t thr s
  | .loop t thr => Sys2Proof.Machine.execLoop t thr s
  | .call t thr => Sys2Proof.Machine.execCall t thr s
  | .plog t thr => Sys2Proof.Machine.execPlog t thr s
  | .ld t thr => Sys2Proof.Machine.execLd t thr s
  | .st t thr => Sys2Proof.Machine.execSt t thr s
  | .atom t thr => Sys2Proof.Machine.execAtom t thr s
  | .fence t thr => Sys2Proof.Machine.execFence t thr s
  | .spost t thr => Sys2Proof.Machine.execSpost t thr s
  | .swait t thr => Sys2Proof.Machine.execSwait t thr s
  | .tread t thr => Sys2Proof.Machine.execTread t thr s
  | .twait t thr => Sys2Proof.Machine.execTwait t thr s
  | .texit t thr => Sys2Proof.Machine.execTexit t thr s
  | .tend t thr => Sys2Proof.Machine.execTend t thr s
  | .fget t thr => Sys2Proof.Machine.execFget t thr s
  | .fset t thr => Sys2Proof.Machine.execFset t thr s
  | .fend t thr => Sys2Proof.Machine.execFend t thr s
  | .launch id => Sys2Proof.Machine.execLaunch id s
  | .taskStart t => Sys2Proof.Machine.execTaskStart t s
  | .taskPrepared t prog ctx => Sys2Proof.Machine.execTaskPrepared t prog ctx s
  | .startReport id => Sys2Proof.Machine.execStartReport id s
  | .missNotice id => Sys2Proof.Machine.execMissNotice id s
  | .missReturn t thr => Sys2Proof.Machine.execMissReturn t thr s
  | .threadSwitch t idle => Sys2Proof.Machine.execThreadSwitch t idle s
  | .taskReport t => Sys2Proof.Machine.execTaskReport t s
  | .completionReport r => Sys2Proof.Machine.execCompletionReport r s
  | .firmwareEntry t => Sys2Proof.Machine.execFirmwareEntry t s
  | .seqClear a t => Sys2Proof.Machine.execSeqClear a t s
  | .sarm t thr => Sys2Proof.Machine.execSarm t thr s
  | .srearm t thr => Sys2Proof.Machine.execSrearm t thr s
  | .swaitb t thr => Sys2Proof.Machine.execSwaitb t thr s
  | .srel t thr => Sys2Proof.Machine.execSrel t thr s
  | .spush t thr => Sys2Proof.Machine.execSpush t thr s
  | .sskip t thr => Sys2Proof.Machine.execSskip t thr s
  | .sflush t thr => Sys2Proof.Machine.execSflush t thr s
  | .sstop t thr => Sys2Proof.Machine.execSstop t thr s
  | .sstat t thr => Sys2Proof.Machine.execSstat t thr s
  | .streamInject t slot => Sys2Proof.Machine.execStreamInject t slot s
  | .streamReadResponse t slot late => Sys2Proof.Machine.execStreamReadResponse t slot late s
  | .linkHalf id => Sys2Proof.Machine.execLinkHalf id s
  | .linkCredit id => Sys2Proof.Machine.execLinkCredit id s
  | .linkEnd id => Sys2Proof.Machine.execLinkEnd id s
  | .linkAbort id => Sys2Proof.Machine.execLinkAbort id s
  | .linkClose id => Sys2Proof.Machine.execLinkClose id s
  | .translationRequest id => Sys2Proof.Machine.execTranslationRequest id s
  | .translationResponse id => Sys2Proof.Machine.execTranslationResponse id s
  | .strClear a t => Sys2Proof.Machine.execStrClear a t s
  | .wpred t thr => Sys2Proof.Machine.execWpred t thr s
  | .wchk t thr => Sys2Proof.Machine.execWchk t thr s
  | .wtent t thr => Sys2Proof.Machine.execWtent t thr s
  | .wwait t thr => Sys2Proof.Machine.execWwait t thr s
  | .wpeek t thr => Sys2Proof.Machine.execWpeek t thr s
  | .wspec t thr => Sys2Proof.Machine.execWspec t thr s
  | .wbound t thr => Sys2Proof.Machine.execWbound t thr s
  | .winnowJobStart t checker => Sys2Proof.Machine.execWinnowJobStart t checker s
  | .winnowPredictionDone t => Sys2Proof.Machine.execWinnowPredictionDone t s
  | .winnowCheckDone t => Sys2Proof.Machine.execWinnowCheckDone t s
  | .commit id => Sys2Proof.Machine.execCommit id s
  | .squash id => Sys2Proof.Machine.execSquash id s
  | .winClear a t => Sys2Proof.Machine.execWinClear a t s
  | .read id => Sys2Proof.Machine.execRead id s
  | .write id => Sys2Proof.Machine.execWrite id s
  | .atomic id => Sys2Proof.Machine.execAtomic id s
  | .mcastWrite id => Sys2Proof.Machine.execMcastWrite id s
  | .readRsp id => Sys2Proof.Machine.execReadRsp id s
  | .writeAck id => Sys2Proof.Machine.execWriteAck id s
  | .atomicRsp id => Sys2Proof.Machine.execAtomicRsp id s
  | .mcastAck id => Sys2Proof.Machine.execMcastAck id s
  | .packetForward id damage cycle => Sys2Proof.Machine.execPacketForward id damage cycle s
  | .accessTimeout n => Sys2Proof.Machine.execAccessTimeout n s
  | .torClear a t => Sys2Proof.Machine.execTorClear a t s
  | .glClear a t => Sys2Proof.Machine.execGlClear a t s
  | .gleanerEnable a t v => Sys2Proof.Machine.execGleanerEnable a t v s
  | .granaryTraining stk ca sweeps => Sys2Proof.Machine.execGranaryTraining stk ca sweeps s
  | .pchAccess stk c agedBelow ecc => Sys2Proof.Machine.execPchAccess stk c agedBelow ecc s
  | .refreshDue stk c => Sys2Proof.Machine.execRefreshDue stk c s
  | .refreshRepay stk c => Sys2Proof.Machine.execRefreshRepay stk c s
  | .nrefBudgetGain stk c => Sys2Proof.Machine.execNrefBudgetGain stk c s
  | .rowClose stk c bank => Sys2Proof.Machine.execRowClose stk c bank s
  | .stackTempRead stk temp => Sys2Proof.Machine.execStackTempRead stk temp s
  | .recentre stk c found rd wd => Sys2Proof.Machine.execRecentre stk c found rd wd s
  | .trainingRecovery stk c first second => Sys2Proof.Machine.execTrainingRecovery stk c first second s
  | .remapRequest a stk pch => Sys2Proof.Machine.execRemapRequest a stk pch s
  | .remapActivate stk => Sys2Proof.Machine.execRemapActivate stk s
  | .pasrEnter a stk => Sys2Proof.Machine.execPasrEnter a stk s
  | .pasrExit a stk => Sys2Proof.Machine.execPasrExit a stk s
  | .scrubRow stk => Sys2Proof.Machine.execScrubRow stk s
  | .reservationWrite a stk p v => Sys2Proof.Machine.execReservationWrite a stk p v s
  | .grnClear a stk => Sys2Proof.Machine.execGrnClear a stk s
  | .blockReceive q b clean corrected arrival coarse => Sys2Proof.Machine.execBlockReceive q b clean corrected arrival coarse s
  | .frameForward id => Sys2Proof.Machine.execFrameForward id s
  | .adaptiveEscape id => Sys2Proof.Machine.execAdaptiveEscape id s
  | .flowFrame id => Sys2Proof.Machine.execFlowFrame id s
  | .flowResponse id => Sys2Proof.Machine.execFlowResponse id s
  | .seqNack id => Sys2Proof.Machine.execSeqNack id s
  | .e2eTimeout ctx => Sys2Proof.Machine.execE2eTimeout ctx s
  | .flowDead ctx => Sys2Proof.Machine.execFlowDead ctx s
  | .flowIdleClose ctx => Sys2Proof.Machine.execFlowIdleClose ctx s
  | .flowClose id => Sys2Proof.Machine.execFlowClose id s
  | .flowCloseAck id => Sys2Proof.Machine.execFlowCloseAck id s
  | .readRetry d tag => Sys2Proof.Machine.execReadRetry d tag s
  | .copyBlock k host => Sys2Proof.Machine.execCopyBlock k host s
  | .fabricMcastWrite id => Sys2Proof.Machine.execFabricMcastWrite id s
  | .fabricMcastAck id => Sys2Proof.Machine.execFabricMcastAck id s
  | .mcastReportTimeout k => Sys2Proof.Machine.execMcastReportTimeout k s
  | .portHeld q => Sys2Proof.Machine.execPortHeld q s
  | .holdExpiry q => Sys2Proof.Machine.execHoldExpiry q s
  | .portReturnUp q => Sys2Proof.Machine.execPortReturnUp q s
  | .pathSettle dst => Sys2Proof.Machine.execPathSettle dst s
  | .redPart id => Sys2Proof.Machine.execRedPart id s
  | .redCredit id => Sys2Proof.Machine.execRedCredit id s
  | .redResult id => Sys2Proof.Machine.execRedResult id s
  | .reduceTimeout k => Sys2Proof.Machine.execReduceTimeout k s
  | .linkHello id => Sys2Proof.Machine.execLinkHello id s
  | .kfbModuleId a d v => Sys2Proof.Machine.execKfbModuleId a d v s
  | .kfbClear a d => Sys2Proof.Machine.execKfbClear a d s
  | .signalDetect q l => Sys2Proof.Machine.execSignalDetect q l s
  | .phaseTimeout q => Sys2Proof.Machine.execPhaseTimeout q s
  | .attemptRestart q => Sys2Proof.Machine.execAttemptRestart q s
  | .slipTrial q slips => Sys2Proof.Machine.execSlipTrial q slips s
  | .trainingMarker q l m => Sys2Proof.Machine.execTrainingMarker q l m s
  | .laneLockLoss q l => Sys2Proof.Machine.execLaneLockLoss q l s
  | .errorWindow q => Sys2Proof.Machine.execErrorWindow q s
  | .resyncTimeout q => Sys2Proof.Machine.execResyncTimeout q s
  | .fastRetrainTimeout q => Sys2Proof.Machine.execFastRetrainTimeout q s
  | .retrain a q => Sys2Proof.Machine.execRetrain a q s
  | .portEnable a q on => Sys2Proof.Machine.execPortEnable a q on s
  | .loopbackSet a q mode => Sys2Proof.Machine.execLoopbackSet a q mode s
  | .lnkClear a d => Sys2Proof.Machine.execLnkClear a d s
  | .doorbellPoll d f words => Sys2Proof.Machine.execDoorbellPoll d f words s
  | .descriptorFetched r data => Sys2Proof.Machine.execDescriptorFetched r data s
  | .task r => Sys2Proof.Machine.execTask r s
  | .copy r => Sys2Proof.Machine.execCopy r s
  | .mcast r data => Sys2Proof.Machine.execMcast r data s
  | .reduce r => Sys2Proof.Machine.execReduce r s
  | .xinv r => Sys2Proof.Machine.execXinv r s
  | .nop r => Sys2Proof.Machine.execNop r s
  | .ringCreate r => Sys2Proof.Machine.execRingCreate r s
  | .ringDestroy r => Sys2Proof.Machine.execRingDestroy r s
  | .loadBale src => Sys2Proof.Machine.execLoadBale src s
  | .tileReset src => Sys2Proof.Machine.execTileReset src s
  | .clusterReset src => Sys2Proof.Machine.execClusterReset src s
  | .partitionReset src => Sys2Proof.Machine.execPartitionReset src s
  | .moduleReset src => Sys2Proof.Machine.execModuleReset src s
  | .fwUpdate src image => Sys2Proof.Machine.execFwUpdate src image s
  | .assignBind src => Sys2Proof.Machine.execAssignBind src s
  | .assignUnbind src => Sys2Proof.Machine.execAssignUnbind src s
  | .assignPartition src => Sys2Proof.Machine.execAssignPartition src s
  | .releasePartition src => Sys2Proof.Machine.execReleasePartition src s
  | .definePartition src => Sys2Proof.Machine.execDefinePartition src s
  | .tableUpdate src data => Sys2Proof.Machine.execTableUpdate src data s
  | .keyChange src => Sys2Proof.Machine.execKeyChange src s
  | .marginFrequency src => Sys2Proof.Machine.execMarginFrequency src s
  | .marginOffset src => Sys2Proof.Machine.execMarginOffset src s
  | .marginFreeze src => Sys2Proof.Machine.execMarginFreeze src s
  | .marginRelease src => Sys2Proof.Machine.execMarginRelease src s
  | .mctpCrit msg => Sys2Proof.Machine.execMctpCrit msg s
  | .functionLevelReset d f => Sys2Proof.Machine.execFunctionLevelReset d f s
  | .busMasterClear d f => Sys2Proof.Machine.execBusMasterClear d f s
  | .hostLinkDown d => Sys2Proof.Machine.execHostLinkDown d s
  | .vfEnableClear d => Sys2Proof.Machine.execVfEnableClear d s
  | .functionDisable d f => Sys2Proof.Machine.execFunctionDisable d f s
  | .functionEnable d f v => Sys2Proof.Machine.execFunctionEnable d f v s
  | .functionStopDone d f => Sys2Proof.Machine.execFunctionStopDone d f s
  | .hstClear a d => Sys2Proof.Machine.execHstClear a d s
  | .baleStaged k bale => Sys2Proof.Machine.execBaleStaged k bale s
  | .baleCommit k => Sys2Proof.Machine.execBaleCommit k s
  | .commitWaitExpiry k => Sys2Proof.Machine.execCommitWaitExpiry k s
  | .configScrub r upset => Sys2Proof.Machine.execConfigScrub r upset s
  | .oreq n req => Sys2Proof.Machine.execOreq n req s
  | .irsp n itag st data => Sys2Proof.Machine.execIrsp n itag st data s
  | .windowTimeout n itag => Sys2Proof.Machine.execWindowTimeout n itag s
  | .oscWrite a d n khz => Sys2Proof.Machine.execOscWrite a d n khz s
  | .hbOwnerWrite a d v => Sys2Proof.Machine.execHbOwnerWrite a d v s
  | .lgcClear a d => Sys2Proof.Machine.execLgcClear a d s
  | .cfgClear a d => Sys2Proof.Machine.execCfgClear a d s
  | .errorReport n within => Sys2Proof.Machine.execErrorReport n within s
  | .ceRateWindow => Sys2Proof.Machine.execCeRateWindow s
  | .transitRateWindow => Sys2Proof.Machine.execTransitRateWindow s
  | .intClear a => Sys2Proof.Machine.execIntClear a s
  | .pwrGoodRise p48 => Sys2Proof.Machine.execPwrGoodRise p48 s
  | .pwrGoodFall => Sys2Proof.Machine.execPwrGoodFall s
  | .p48vDrop => Sys2Proof.Machine.execP48vDrop s
  | .auxLoss => Sys2Proof.Machine.execAuxLoss s
  | .railFault => Sys2Proof.Machine.execRailFault s
  | .thermalTrip => Sys2Proof.Machine.execThermalTrip s
  | .modResetAssert => Sys2Proof.Machine.execModResetAssert s
  | .modResetRelease => Sys2Proof.Machine.execModResetRelease s
  | .bringupCheckers bad tested pll => Sys2Proof.Machine.execBringupCheckers bad tested pll s
  | .trainingComplete => Sys2Proof.Machine.execTrainingComplete s
  | .memtestPairDone errs seconds => Sys2Proof.Machine.execMemtestPairDone errs seconds s
  | .tileWaveStart => Sys2Proof.Machine.execTileWaveStart s
  | .tileSignature t badCols bad => Sys2Proof.Machine.execTileSignature t badCols bad s
  | .waveTimeout w => Sys2Proof.Machine.execWaveTimeout w s
  | .capabilityBuild => Sys2Proof.Machine.execCapabilityBuild s
  | .tileFirmwareFetched t image => Sys2Proof.Machine.execTileFirmwareFetched t image s
  | .resetDrainLate t => Sys2Proof.Machine.execResetDrainLate t s
  | .clusterPark a c => Sys2Proof.Machine.execClusterPark a c s
  | .clusterWake a c => Sys2Proof.Machine.execClusterWake a c s
  | .deepIdleEnter a => Sys2Proof.Machine.execDeepIdleEnter a s
  | .deepIdleExit cause => Sys2Proof.Machine.execDeepIdleExit cause s
  | .bootCfgWrite a v => Sys2Proof.Machine.execBootCfgWrite a v s
  | .bupClear a => Sys2Proof.Machine.execBupClear a s
  | .grangerReturn => Sys2Proof.Machine.execGrangerReturn s
  | .selftestSlice t steps => Sys2Proof.Machine.execSelftestSlice t steps s
  | .selftestRequest a cluster target => Sys2Proof.Machine.execSelftestRequest a cluster target s
  | .selftestOverdue t => Sys2Proof.Machine.execSelftestOverdue t s
  | .serviceCheckerTest bad => Sys2Proof.Machine.execServiceCheckerTest bad s
  | .parityPoll => Sys2Proof.Machine.execParityPoll s
  | .ageingSample slacks => Sys2Proof.Machine.execAgeingSample slacks s
  | .marginReplan => Sys2Proof.Machine.execMarginReplan s
  | .marginApply d => Sys2Proof.Machine.execMarginApply d s
  | .marginDeferTimeout d => Sys2Proof.Machine.execMarginDeferTimeout d s
  | .clockChange => Sys2Proof.Machine.execClockChange s
  | .pllLock => Sys2Proof.Machine.execPllLock s
  | .evcClear a k => Sys2Proof.Machine.execEvcClear a k s
  | .hltClear a => Sys2Proof.Machine.execHltClear a s
  | .grangerPoll => Sys2Proof.Machine.execGrangerPoll s
  | .grgClear a => Sys2Proof.Machine.execGrgClear a s
  | .registerWrite a off wide v => Sys2Proof.Machine.execRegisterWrite a off wide v s
  | .clockRecoveryLock q l => Sys2Proof.Machine.execClockRecoveryLock q l s
  | .hostLinkUp d width rate => Sys2Proof.Machine.execHostLinkUp d width rate s
  | .fwSlotSelected => Sys2Proof.Machine.execFwSlotSelected s
  | .recentreOverdue stk c => Sys2Proof.Machine.execRecentreOverdue stk c s
  | .boardRecovery target slot ver => Sys2Proof.Machine.execBoardRecovery target slot ver s

end Sys2Proof.Machine
end

