-- ==== Sys2Proof/Safety.lean ====
section
/-!
DEFINITION. The terms that statements about the module are made in: a command that completes, an instruction that is about to
issue, an instruction word made of its fields, and what a command leaves unchanged.
-/
namespace Sys2Proof.Machine

/-- The command completes at `s`: `exec` answers a next state, and P holds of it. -/
def Completes (c : Instr) (s : State) (P : State → Prop) : Prop :=
  ∃ s', Sys2Proof.Machine.exec c s = .next s' ∧ P s'

/-- Thread `thr` of tile `t` brings the word `w` to issue: it may issue (R189, R243, R262), its pc lies where the tile's mode
lets it (R242), the word at the pc is `w` with good parity (R592), and the thread is not tainted (R337). -/
structure Issues (s : State) (t thr w : Nat) : Prop where
  may : s.mayIssue t thr = true
  pc : s.pcOk t (s.thread t thr).pc = true
  parity : s.badMem (instAddr t (s.thread t thr).pc.toNat) 8 = false
  word : s.instWord t (s.thread t thr).pc = w
  clean : (s.thread t thr).taint = []

/-! ### The S format (R232) -/

/-- The fields of an S-format word. -/
structure SWord where
  op : Nat
  gd : Nat := 0
  ga : Nat := 0
  gb : Nat := 0
  i  : Bool := false
  imm : BitVec 32 := 0
  pg : Nat := 0
  pn : Bool := false
  fn : Nat := 0
deriving DecidableEq, Repr

/-- The word that the fields make, at the bit positions of R232. -/
def SWord.word (f : SWord) : Nat :=
  f.op * 2 ^ 56 + f.gd * 2 ^ 51 + f.ga * 2 ^ 46 + f.gb * 2 ^ 41 + b2n f.i * 2 ^ 40 + f.imm.toNat * 2 ^ 8 + f.pg * 2 ^ 5
    + b2n f.pn * 2 ^ 4 + f.fn

/-- Every field fits its bits. -/
structure SWord.Fits (f : SWord) : Prop where
  op : f.op < 256
  gd : f.gd < 32
  ga : f.ga < 32
  gb : f.gb < 32
  pg : f.pg < 8
  fn : f.fn < 16

/-- The word uses the second operand b: the field that the i bit does not select is 0 (R232). -/
def SWord.UsesB (f : SWord) : Prop := (f.i = true → f.gb = 0) ∧ (f.i = false → f.imm = 0)

/-- The second operand b: g[gb], or the sign-extended immediate when i = 1 (R232, R233). -/
def SWord.b (f : SWord) (s : State) (t thr : Nat) : DWord := if f.i then f.imm.signExtend 64 else s.g t thr f.gb

/-- p[pg] XOR pn (R232). -/
def SWord.guard (f : SWord) (s : State) (t thr : Nat) : Bool := xor ((s.thread t thr).pred f.pg) f.pn

/-! ### The V format (R173, R175) -/

/-- The fields of a V-format word. -/
structure VWord where
  op : Nat
  vd : Nat := 0
  va : Nat := 0
  vb : Nat := 0
  vc : Nat := 0
  rnd : Nat := 0
  td : Nat := 0
  ts : Nat := 0
  sa : Bool := false
  sb : Bool := false
  sat : Bool := false
  gen : Nat := 0
  nr : Bool := false
  agr : Nat := 0
  nw : Bool := false
  agw : Nat := 0
  fn : Nat := 0
deriving DecidableEq, Repr

/-- The word that the fields make, at the bit positions of R173. -/
def VWord.word (f : VWord) : Nat :=
  f.op * 2 ^ 56 + f.vd * 2 ^ 51 + f.va * 2 ^ 46 + f.vb * 2 ^ 41 + f.vc * 2 ^ 36 + f.rnd * 2 ^ 33 + f.td * 2 ^ 30 + f.ts * 2 ^ 27
    + b2n f.sa * 2 ^ 26 + b2n f.sb * 2 ^ 25 + b2n f.sat * 2 ^ 24 + f.gen * 2 ^ 22 + b2n f.nr * 2 ^ 21 + f.agr * 2 ^ 18
    + b2n f.nw * 2 ^ 17 + f.agw * 2 ^ 14 + f.fn * 2 ^ 8

/-- Every field fits its bits. -/
structure VWord.Fits (f : VWord) : Prop where
  op : f.op < 256
  vd : f.vd < 32
  va : f.va < 32
  vb : f.vb < 32
  vc : f.vc < 32
  rnd : f.rnd < 8
  td : f.td < 8
  ts : f.ts < 8
  gen : f.gen < 4
  agr : f.agr < 8
  agw : f.agw < 8
  fn : f.fn < 64

/-- Lane l of a vector register of a thread, as 32 bits. -/
def State.lane (s : State) (t thr r l : Nat) : Word := BitVec.ofNat 32 ((s.v t thr r).getD l 0)

/-- The vector registers have good parity (R221). -/
def State.vgood (s : State) (t thr : Nat) (rs : List Nat) : Prop := ∀ r ∈ rs, s.vregBad t thr r = none

/-! ### Register writes and critical commands -/

/-- A write of the set-up register at offset `off` reaches its unit: the agent can make accesses and may reach the offset, no
maintenance holds the block, and the block's unit is present and answers (R42, R43, R241, R628, R657). -/
structure Writable (s : State) (a : Agent) (off : Nat) : Prop where
  up : s.agentUp a = true
  free : s.regHeld a off = false
  reaches : a.reaches off = true
  block : s.blockUp off = true

/-- The critical command `c` of opcode `op` is what the source sends next, and passes every check of R531 but the permission
and layout that its own row gives: its tag verifies, its counter is fresh and can be recorded, and the module is ready (R628). -/
structure CritReady (s : State) (src : CmdSrc) (op : Nat) (sel : BitVec 1024 → Bool) (c : Crit) : Prop where
  desc : s.critDesc src op sel = some c
  auth : s.critAuth c = true
  fresh : (s.keySlot c.slot).last < c.counter
  mark : c.counter ≤ (s.keySlot c.slot).high ∨ s.bup.grangerUp = true
  ready : s.bup.ready = true

/-- The counter of a command that passed the checks is used up in its slot (R531). -/
def CounterUsed (s s' : State) (c : Crit) : Prop :=
  (s'.keySlot c.slot).last = c.counter ∧ (s.keySlot c.slot).high ≤ (s'.keySlot c.slot).high ∧ c.counter ≤ (s'.keySlot c.slot).high

/-! ### Frames -/

/-- Nothing of the state has changed but: in tile `t`, the thread `thr` and the sequencer's counters; and what counting the
instruction moves: the tile's event counters (R676) with the EVC_SATURATED event that a full one posts (R678). So all of
memory, every other thread and tile, every task, flag, unit and special register stand as before. -/
structure ThreadOnly (s s' : State) (t thr : Nat) : Prop where
  state : s' = { s with tiles := s'.tiles, health := s'.health, funcs := s'.funcs, host := s'.host, hostMem := s'.hostMem }
  tiles : ∀ u, u ≠ t → s'.tile u = s.tile u
  tile : s'.tile t = { s.tile t with threads := (s'.tile t).threads, seqCtr := (s'.tile t).seqCtr }
  threads : ∀ k, k ≠ thr → s'.thread t k = s.thread t k

/-- As `ThreadOnly`, for an instruction that stores: of memory the bytes [a, a + n) alone may change, and their parity. -/
structure StoreOnly (s s' : State) (t thr a n : Nat) : Prop where
  state : s' = { s with mem := s'.mem, bad := s'.bad, tiles := s'.tiles, health := s'.health, funcs := s'.funcs,
                        host := s'.host, hostMem := s'.hostMem }
  bytes : ∀ x, (x < a ∨ a + n ≤ x) → memGet s'.mem x = memGet s.mem x
  parity : ∀ p, p.inMem a n = false → (p ∈ s'.bad ↔ p ∈ s.bad)
  tiles : ∀ u, u ≠ t → s'.tile u = s.tile u
  tile : s'.tile t = { s.tile t with threads := (s'.tile t).threads, seqCtr := (s'.tile t).seqCtr }
  threads : ∀ k, k ≠ thr → s'.thread t k = s.thread t k

/-- Of tile `t` only its thread and the fields that `f` sets have changed, and of the state nothing but tile `t` and what
counting the instruction moves. -/
structure TileOnly (s s' : State) (t thr : Nat) (f : Tile → Tile) : Prop where
  state : s' = { s with tiles := s'.tiles, health := s'.health, funcs := s'.funcs, host := s'.host, hostMem := s'.hostMem }
  tiles : ∀ u, u ≠ t → s'.tile u = s.tile u
  tile : s'.tile t = { f (s.tile t) with threads := (s'.tile t).threads, seqCtr := (s'.tile t).seqCtr }
  threads : ∀ k, k ≠ thr → s'.thread t k = s.thread t k

/-- As `TileOnly`, for a vector instruction: the vector unit's counters move too, and no parity turns bad. -/
structure VecOnly (s s' : State) (t thr : Nat) (f : Tile → Tile) : Prop where
  state : s' = { s with bad := s'.bad, tiles := s'.tiles, health := s'.health, funcs := s'.funcs, host := s'.host,
                        hostMem := s'.hostMem }
  parity : ∀ p, p ∈ s'.bad → p ∈ s.bad
  tiles : ∀ u, u ≠ t → s'.tile u = s.tile u
  tile : s'.tile t = { f (s.tile t) with threads := (s'.tile t).threads, seqCtr := (s'.tile t).seqCtr, vecCtr := (s'.tile t).vecCtr }
  threads : ∀ k, k ≠ thr → s'.thread t k = s.thread t k

/-- The command completes as a vector instruction outside a REP that writes 64 lanes to vector register r, raises the flags g
for the task, goes on at the next instruction and changes nothing else. -/
def WritesLanes (c : Instr) (s : State) (t thr r : Nat) (lanes : Nat → Word) (g : Flags) : Prop :=
  Completes c s (fun s' =>
    s'.thread t thr = { s.thread t thr with v := smSet (s.thread t thr).v r ((List.range 64).map lanes), pc := (s.thread t thr).pc + 8 } ∧
    VecOnly s s' t thr (fun x => { x with flags := x.flags ||| g }))

/-- The command completes as an instruction that leaves its thread as `h` says, and nothing else changed. -/
def LeavesThread (c : Instr) (s : State) (t thr : Nat) (h : Thread) : Prop :=
  Completes c s (fun s' => ThreadOnly s s' t thr ∧ s'.thread t thr = h)

/-- The thread after an instruction that writes v to general register r and goes on at the next instruction. -/
def Thread.wrote (h : Thread) (r : Nat) (v : DWord) : Thread := { h with g := smSet h.g r v, pc := h.pc + 8 }

/-- The thread after an instruction that writes predicate k: p0 always reads 1, and a write to it has no effect (R229). -/
def Thread.wroteP (h : Thread) (k : Nat) (v : Bool) : Thread :=
  { h with p := if k = 0 then h.p else setBit h.p k v, pc := h.pc + 8 }

/-- The pc lies where the tile's mode lets it issue, at a multiple of 8 (R242): firmware 0x0000 to 0xFFF8, a task 0x2000 to
0xFFF8. -/
def State.issuable (s : State) (t : Nat) (pc : DWord) : Prop :=
  pc.toNat % 8 = 0 ∧ pc.toNat < 0x10000 ∧ ((s.tile t).firmware = false → 0x2000 ≤ pc.toNat)

/-! ### Rings -/

/-- Ring r holds one descriptor, `h`, of the given type; it has been fetched and not started, no descriptor read
has failed, and its function runs (R517). -/
structure Alone (s : State) (r type : Nat) (x : Ring) (h : Held) : Prop where
  ring : smGet s.rings r = some x
  running : (s.func x.port x.fn).st = .running
  held : x.held = [h]
  fetched : h.st = .fetched
  unsent : h.launchSent = false
  plain : h.extents = []
  stays : x.destroying = none
  sound : x.readFault = false
  type : dfield h.bytes 0 1 = type

/-- Ring r holds one descriptor, `h`, with the sequence number, and its function runs: what is done for it is recorded at once. -/
structure Waits (s : State) (r seq : Nat) (x : Ring) (h : Held) : Prop where
  ring : smGet s.rings r = some x
  running : (s.func x.port x.fn).st = .running
  held : x.held = [h]
  seq : h.seq = seq
  plain : h.extents = []
  stays : x.destroying = none
  sound : x.readFault = false

/-- `s'` is `s1` with the one descriptor that ring r held recorded: the 64 bytes of the record stand at its place in the
completion ring (R514, R524), and the ring holds nothing. -/
structure Recorded (s1 s' : State) (r : Nat) (x : Ring) (h : Held) (c : Record) : Prop where
  state : s' = { s1 with rings := s'.rings, hostMem := s'.hostMem, host := s'.host }
  ring : smGet s'.rings r = some { x with held := [], recorded := x.recorded + 1 }
  bytes : ∀ i, i < 64 → smGet s'.hostMem (2 ^ 64 * x.port + (x.cq.toNat + 64 * (h.seq % 2 ^ x.sizeLog2) + i) % 2 ^ 64)
    = some (({ c with cookie := BitVec.ofNat 32 (dfield h.bytes 4 4), extCount := 0, endTick := s1.tick.count }.bytes h.seq
        (1 - h.seq / 2 ^ x.sizeLog2 % 2)).getD i 0)

/-- The descriptor command ends its descriptor at once with the record c, from a state that differs from `s` as `s1` does. -/
def Ends (d : Instr) (s s1 : State) (r : Nat) (x : Ring) (h : Held) (c : Record) : Prop :=
  Completes d s (fun s' => Recorded s1 s' r x h c)

/-- An intact control message stands first on its path at its destination. -/
structure Delivered (s : State) (id : Nat) (p : Packet) (m : Msg) : Prop where
  here : s.arrived id .control = some p
  intact : p.isBad = false
  msg : p.msg = m

/-- A frame has been sent on a port's link: its header and its data units are those of the blocks that the retry buffer now holds
beside the earlier ones, until they are acknowledged (R428, R486). -/
def Transmitted (s s' : State) (q : Nat) (f : Frame) : Prop :=
  ∃ bs, (s'.link q).retry = (s.link q).retry ++ bs ∧ bs.flatMap (·.units) = .head f :: List.replicate f.dataUnits .data

/-- A frame waits at an I/O die: arrived on a port, or this module's own. -/
def Queued (s' : State) (inPort : Option Nat) (die : Nat) (f : Frame) : Prop := ∃ n, smGet s'.fab.parcels n = some ⟨inPort, die, f⟩

/-- A port sends a frame of at most 9 units at once: its link takes two blocks, nothing is queued or half sent before it, and the
frame's lane has credit (R433). -/
structure State.Takes (s : State) (q : Nat) (f : Frame) : Prop where
  link : s.linkTakes q = true
  blocks : (s.link q).retry.length < 255
  queue : (s.fport q).queue = []
  whole : (s.fport q).txLeft = 0
  credit : s.hasCredit q f = true
  units : f.length ≤ 9

/-- A control message to an endpoint is in the torus. -/
def Sent (s' : State) (dst : Endpoint) (m : Msg) : Prop :=
  ∃ id p, smGet s'.net.pkts id = some p ∧ p.op = .control ∧ p.dst = dst ∧ p.msg = m

end Sys2Proof.Machine
end

