-- ==== Sys2Proof/Certificates/Slice0/Obligations.lean ====
section
/-!
DEFINITION. What is claimed of the model: the statements for the provers, by chapter of the specification.
-/
open Sys2Proof Sys2Proof.Machine

/-! ### Set-up register writes (01 R41 to R44, R719) -/

/-- R165, R226, R267, R317, R351, R385, R422, R471, R501, R545, R584, R588, R618, R649, R688, R689, R696: writing 1 to a clear
bit of a block that the write reaches completes, zeroes the counters of the block and changes nothing else. -/
def Obligations.ClearBitsZeroTheirCounters : Prop :=
  ∀ (s : State) (a : Agent) (t k d n : Nat),
    (Writable s a (tileBlock t + 0x1020) →
      Sys2Proof.Machine.exec (.arrClear a t) s = .next { s.updTile t (fun x => { x with arrCtr := [] }) with answer := .ok }) ∧
    (Writable s a (tileBlock t + 0x2010) →
      Sys2Proof.Machine.exec (.vecClear a t) s = .next { s.updTile t (fun x => { x with vecCtr := [] }) with answer := .ok }) ∧
    (Writable s a (tileBlock t + 0x3010) →
      Sys2Proof.Machine.exec (.mvpClear a t) s = .next { s.updTile t (fun x => { x with mvpCtr := [] }) with answer := .ok }) ∧
    (Writable s a (tileBlock t + 0x28) →
      Sys2Proof.Machine.exec (.seqClear a t) s = .next { s.updTile t (fun x => { x with seqCtr := [] }) with answer := .ok }) ∧
    (Writable s a (tileBlock t + 0x4020) →
      Sys2Proof.Machine.exec (.strClear a t) s =
        .next { s.updTile t (fun x => { x with str := { x.str with ctr := [] } }) with answer := .ok }) ∧
    (Writable s a (tileBlock t + 0x6010) →
      Sys2Proof.Machine.exec (.winClear a t) s =
        .next { s.updTile t (fun x => { x with win := { x.win with ctr := [] } }) with answer := .ok }) ∧
    (Writable s a (tileBlock t + 0x8010) →
      Sys2Proof.Machine.exec (.torClear a t) s =
        .next { s.updRouter t (fun r => { r with ctr := r.ctr.filter (fun e => decide (0x160 < e.1)) }) with answer := .ok } ∧
      (t = clusterFirst (tileCluster t) → Sys2Proof.Machine.exec (.glClear a t) s =
        .next { s.updRouter t (fun r => { r with ctr := r.ctr.filter (fun e => decide (e.1 ≤ 0x160)) }) with answer := .ok })) ∧
    (Writable s a (grnBlock k + 0x38) →
      Sys2Proof.Machine.exec (.grnClear a k) s = .next { s.updStack k (fun x => { x with ctr := [], maxTemp := 0 }) with answer := .ok }) ∧
    (Writable s a (ioBlock d + 0x400020) →
      Sys2Proof.Machine.exec (.kfbClear a d) s = .next { s.updKfb d (fun x => { x with ctr := [] }) with answer := .ok }) ∧
    (Writable s a (ioBlock d + 0x800010) →
      ∃ s', Sys2Proof.Machine.exec (.lnkClear a d) s = .next s' ∧ s' = { s with links := s'.links, answer := .ok } ∧
        (∀ q, q / 8 ≠ d → s'.link q = s.link q) ∧
        (∀ q, q < 8 → (s'.link (8 * d + q)).ctr = [] ∧
          ∀ l, l < 9 → (smGetD (s'.link (8 * d + q)).lanes l {}).ce = 0 ∧ (smGetD (s'.link (8 * d + q)).lanes l {}).testErr = 0)) ∧
    (Writable s a (ioBlock d + 0x18) →
      Sys2Proof.Machine.exec (.hstClear a d) s = .next { s.updHost d (fun h => { h with ctr := [] }) with answer := .ok }) ∧
    (Writable s a (lgcBlock d + 0x10) →
      Sys2Proof.Machine.exec (.lgcClear a d) s = .next { s.updLgc d (fun x => { x with ctr := [] }) with answer := .ok }) ∧
    (Writable s a (lgcBlock d + 0x800018) →
      Sys2Proof.Machine.exec (.cfgClear a d) s = .next { s.updLgc d (fun x => { x with cfgCtr := [] }) with answer := .ok }) ∧
    (Writable s a 0x10028 →
      Sys2Proof.Machine.exec (.intClear a) s =
        .next { s.updInt (fun x => { x with ctr := [], logWrapped := false, sinceClear := 0 }) with answer := .ok }) ∧
    (Writable s a 0x20010 →
      Sys2Proof.Machine.exec (.bupClear a) s = .next { s.updBup (fun b => { b with ctr := [] }) with answer := .ok }) ∧
    (Writable s a 0x30030 →
      Sys2Proof.Machine.exec (.hltClear a) s = .next { s.updHealth (fun h => { h with ctr := [] }) with answer := .ok }) ∧
    (Writable s a 0x40020 →
      Sys2Proof.Machine.exec (.grgClear a) s = .next { s.updHealth (fun h => { h with grgCtr := [] }) with answer := .ok }) ∧
    (n < 8 → s.health.evcSel.toNat < 2304 → Writable s a (0x30400 + 8 * n) →
      ∃ s', Sys2Proof.Machine.exec (.evcClear a n) s = .next s' ∧ s' = { s with health := s'.health, answer := .ok } ∧
        ∃ e, smGet s'.health.ev s.health.evcSel.toNat = some e ∧ (smGetD e.cs n {}).value = 0 ∧ (smGetD e.cs n {}).sat = false)

/-- R42 to R44, R719: a register write that reaches its block and is aligned takes effect as a whole and is answered OK: the
thresholds of the integrity block, a barrier group of an idle partition, the stream split of an idle tile, a stack's read
threshold, the probe enable of a compute die and an error register's valid bit, each changing its own fields alone; a read-only or
reserved register takes the write without effect.
R42, R43, R241, R506, R628: a register write by an agent that may not reach the block, to a block whose unit is absent or has not
finished its bring-up, or of a bad alignment, has no effect: it is answered with a bus error, and a host's posted write is dropped
and noted in HST_ERR. -/
def Obligations.RegisterWritesTakeEffectOrAreRefused : Prop :=
  (∀ (s : State) (a : Agent) (v : DWord) (t k d p : Nat), (∀ port fn, a ≠ .page port fn) →
     let f := fun (hi lo : Nat) => bits v.toNat hi lo
     (Writable s a 0x10018 → Sys2Proof.Machine.exec (.registerWrite a 0x10018 false v) s = .next
       { s.updInt (fun x => { x with transitThresh := BitVec.ofNat 16 (f 15 0), ceThresh := BitVec.ofNat 16 (f 31 16) })
         with answer := .ok }) ∧
     (p < 64 → s.partBusy p = false → v.getLsbD 1 = false → Writable s a (0x1000 + 8 * p) →
       Sys2Proof.Machine.exec (.registerWrite a (0x1000 + 8 * p) false v) s = .next
         { s.updTick (fun x => { x with
             cfg := smSet x.cfg p { group := BitVec.ofNat 4 (f 7 4), finish := v.getLsbD 2, hard := v.getLsbD 0 } }) with answer := .ok }) ∧
     (t < 2304 → s.taskActive t = false → f 20 16 + f 12 8 + f 4 0 ≤ 16 → Writable s a (tileBlock t + 0x4000) →
       Sys2Proof.Machine.exec (.registerWrite a (tileBlock t + 0x4000) false v) s = .next
         { s.updTile t (fun x => { x with str := { x.str with split := v.setWidth 32 &&& 0x001F1F1F } }) with answer := .ok }) ∧
     (k < 8 → s.anyBusy = false → 4 ≤ f 13 8 → Writable s a (grnBlock k + 8) →
       Sys2Proof.Machine.exec (.registerWrite a (grnBlock k + 8) false v) s = .next
         { s.updStack k (fun x => { x with rdThresh := BitVec.ofNat 6 (f 13 8), hotForce := v.getLsbD 0 }) with answer := .ok }) ∧
     (d < 4 → Writable s a (lgcBlock d + 0x48) →
       Sys2Proof.Machine.exec (.registerWrite a (lgcBlock d + 0x48) false v) s = .next
         { s.updLgc d (fun x => { x with probe := v.getLsbD 0 }) with answer := .ok }) ∧
     (t < 2304 → v.getLsbD 31 = true → Writable s a (tileBlock t + 0x14) →
       Sys2Proof.Machine.exec (.registerWrite a (tileBlock t + 0x14) false v) s = .next
         { s.updTile t (fun x => { x with fault := x.fault &&& ~~~(1#64 <<< 63) }) with answer := .ok }) ∧
     (Writable s a 0x100000 → Sys2Proof.Machine.exec (.registerWrite a 0x100000 false v) s = .next { s with answer := .ok })) ∧
  (∀ (s : State) (a : Agent) (off : Nat) (wide : Bool) (v : DWord), (∀ port fn, a ≠ .page port fn) →
     s.agentUp a = true → s.regHeld a off = false →
     (a.reaches off = false ∨ s.blockUp off = false ∨ off % (if wide then 8 else 4) ≠ 0) →
     Completes (.registerWrite a off wide v) s (fun s' => s'.answer = .busError ∧ s' = { s with host := s'.host, answer := .busError } ∧
       (∀ d, a = .owner d → (s.hostDie d).err.getLsbD 63 = false → (s'.hostDie d).err = BitVec.ofNat 64 (2 ^ 63 + 2 ^ 56)) ∧
       ((∀ d, a ≠ .owner d) → s'.host = s.host)))

/-! ### The tick (02 R48 to R83, 11 R463, R464) -/

/-- R43, R48, R52, R74, R75: a write that reaches TCK_CTRL. Setting enable on an idle module leaves Off for the state of the
role; setting it again changes nothing. Setting clear_stats zeroes the stall counters and every miss counter; a module whose
enable is 0 stays Off. Nothing else changes. -/
def Obligations.TickControlWritesTakeEffect : Prop :=
  ∀ (s : State) (a : Agent), Writable s a 0 → s.tick.role ≠ 3 →
    (s.tick.enable = false → s.anyBusy = false →
      Sys2Proof.Machine.exec (.tickEnable a) s = .next { s with
        tick := { s.tick with
          enable := true, adopted := false, goodRun := 0, missed := 0, markerSeen := false, depth := 0
          state := if s.tick.role = 0 then .standalone else if s.tick.role = 1 then .master else .acquiring }
        answer := .ok }) ∧
    (s.tick.enable = true → Sys2Proof.Machine.exec (.tickEnable a) s = .next { s with answer := .ok }) ∧
    (s.tick.enable = true →
      Sys2Proof.Machine.exec (.clearStats a) s = .next { s with
        tick := { s.tick with stalls := 0, maxStall := 0, miss := [] }, answer := .ok }) ∧
    (s.tick.enable = false →
      Sys2Proof.Machine.exec (.clearStats a) s = .next { s with
        tick := { s.tick with
          stalls := 0, maxStall := 0, miss := [], state := .off, inGuard := false, adopted := false, goodRun := 0, missed := 0, depth := 0 }
        answer := .ok })

/-- R48, R49, R51, R60, R61: while the tick runs, an edge completes, increments the tick counter by one, ends the guard window and
applies a pending parameter change whose tick has come; the guard-start event opens the guard window of the current tick.
R64, R259: at the guard-start edge of its deadline tick a running task misses: its tile sends the miss notice to the I/O die of
its ring, and the task counts the edges that have fallen since its deadline tick, at most 255; a task of a partition that aborts
ends with DEADLINE_ABORT, another runs on. -/
def Obligations.TickEdgesAdvanceTheTickAndMarkMisses : Prop :=
  (∀ (s : State), s.tick.ticks = true →
     (∀ upsets : List Place, ∃ s', Sys2Proof.Machine.exec (.tickEdge upsets) s = .next s' ∧
       s'.tick.count = s.tick.count + 1 ∧ s'.tick.inGuard = false ∧
       (∀ p, s.tick.pendParam = some p →
         (s.tick.pendTick.toNat ≤ (s.tick.count + 1).toNat → s'.tick.param = p ∧ s'.tick.pendParam = none) ∧
         ((s.tick.count + 1).toNat < s.tick.pendTick.toNat → s'.tick.param = s.tick.param ∧ s'.tick.pendParam = some p)) ∧
       (s.tick.pendParam = none → s'.tick.param = s.tick.param)) ∧
     (s.tick.inGuard = false → ∃ s', Sys2Proof.Machine.exec .guardStart s = .next s' ∧ s'.tick = { s.tick with inGuard := true })) ∧
  (∀ (s : State) (t : Nat) (k : Task), (s.tile t).task = some k → k.phase ≠ .ending → k.missed = false →
     s.pastGuard k.launch.deadline = true →
     let noticed := fun (s' : State) => ∃ p, (s.net.nextId, p) ∈ s'.net.pkts ∧ p.op = .control ∧
       p.msg = .miss k.launch.ring k.launch.seq k.launch.part ∧ p.dst = tileIo k.launch.ioDie t
     let late := min 255 (s.tick.edgesSince k.launch.deadline.toNat)
     (s.aborts k.launch.part = false → ∃ s', Sys2Proof.Machine.exec (.deadlineEdge t) s = .next s' ∧
       (s'.tile t).task = some { k with missed := true, lateEdges := late } ∧ noticed s') ∧
     (s.aborts k.launch.part = true → ∃ s', Sys2Proof.Machine.exec (.deadlineEdge t) s = .next s' ∧
       noticed s' ∧ ∃ k', (s'.tile t).task = some k' ∧ k'.phase = .ending ∧ k'.code = 1 ∧ k'.missed = true ∧ k'.lateEdges = late))

/-- R54, R56 to R58, R79, R463: a tick marker that reaches a follower on its upstream port sets its depth, its offset and its
parameters. The offset is the follower's edge less the compensated edge, which is the marker's arrival less its acc and less the
port's delay. An Acquiring follower whose count is behind takes the marker's number at the next edge; after four good markers in a
row it is Locked; a Locked one that sees no marker enters Holdover, and after the holdover limit Free-run. A marker that reaches a
master sets conflict. -/
def Obligations.MarkersMoveTheFollower : Prop :=
  ∀ (s : State),
    (∀ (id q : Nat) (arrival : Int) (turn : SMap Nat) (p : Parcel), smGet s.fab.parcels id = some p → p.inPort = some q →
      p.frame.op = .tickMarker → s.tick.enable = true →
      let m := p.frame.marker
      let offset := (m.acc : Int) + ((s.fport q).delay.toNat : Int) - arrival
      (s.tick.role = 2 → q = s.tick.upstream.toNat → s.tick.state = .locked →
        Completes (.tickMarker id arrival turn) s (fun s' =>
          s'.tick.depth = BitVec.ofNat 8 (m.hops + 1) ∧ s'.tick.offset = satOffset (offset / 2) ∧ s'.tick.param = m.param ∧
          s'.tick.pendParam = m.pend ∧ s'.tick.state = .locked ∧ s'.tick.count = s.tick.count ∧
          (m.tick = s.tick.count → offset.natAbs ≤ 32 → s'.tick.markerSeen = true))) ∧
      (s.tick.role = 2 → q = s.tick.upstream.toNat → s.tick.state = .acquiring → s.tick.count.toNat < m.tick.toNat →
        Completes (.tickMarker id arrival turn) s (fun s' =>
          s'.tick.count = m.tick ∧ s'.tick.adopted = true ∧ s'.tick.state = .acquiring ∧ s'.tick.goodRun = 0)) ∧
      (s.tick.role = 2 → q = s.tick.upstream.toNat → s.tick.state = .acquiring → s.tick.adopted = true → s.tick.goodRun = 3 →
        m.tick = s.tick.count → offset.natAbs ≤ 32 → m.hops < 32 →
        Completes (.tickMarker id arrival turn) s (fun s' => s'.tick.state = .locked ∧ s'.tick.count = s.tick.count)) ∧
      (s.tick.role = 1 → Completes (.tickMarker id arrival turn) s (fun s' => s'.tick = { s.tick with conflict := true }))) ∧
    (s.tick.state = .locked → s.tick.markerSeen = false →
      Completes .holdoverEntry s (fun s' => s'.tick = { s.tick with state := .holdover, missed := 0 })) ∧
    (s.tick.state = .holdover → s.tick.limitM1.toNat + 1 ≤ s.tick.missed →
      Completes .freeRunEntry s (fun s' => s'.tick.state = .freeRun ∧
        ∀ g, g < 16 → s.tick.count.toNat - 1 ≤ (s'.barrier g).closed))

/-- R67, R464: a share that nothing holds open closes for its tick, and on a standalone, master or free-running module the
group's barrier closes with it; a report from a downstream port is recorded for its groups; a close from upstream closes its
groups' barriers. -/
def Obligations.BarrierFramesCloseGroups : Prop :=
  ∀ (s : State),
    (∀ g n ns : Nat, g < 16 → s.shareMayClose g n = true →
      Completes (.barrierShareClose g n ns) s (fun s' => (s'.barrier g).share = n ∧
        (s.tick.state.isRoot = true → n ≤ (s'.barrier g).closed))) ∧
    (∀ (id q ns : Nat) (p : Parcel), smGet s.fab.parcels id = some p → p.inPort = some q →
      (p.frame.op = .barrierReport → q ∈ s.downPorts →
        Completes (.barrierReport id) s (fun s' => ∀ g, g < 16 → p.frame.mask.getLsbD g = true →
          p.frame.tick.toNat ≤ smGetD (s'.barrier g).down q 0 ∧ (s'.barrier g).closed = (s.barrier g).closed)) ∧
      (p.frame.op = .barrierClose → s.tick.role = 2 → s.tick.enable = true → q = s.tick.upstream.toNat →
        Completes (.barrierClose id ns) s (fun s' => ∀ g, g < 16 → p.frame.mask.getLsbD g = true →
          p.frame.tick.toNat ≤ (s'.barrier g).closed)))

/-- R49, R60, R78, R531: an accepted TICK_PARAM with values in range schedules the new period and guard window at its tick,
16 ticks or more ahead, and changes nothing of the tick before that. -/
def Obligations.TickParamSchedulesTheChange : Prop :=
  ∀ (s : State) (src : CmdSrc) (c : Crit), CritReady s src 7 anySel c → c.slot = ownerSlot →
    critLayout c.b [(0x08, 0x0C), (0x10, 0x17)] = true →
    let period := dfield c.b 8 4
    let guard := dfield c.b 0x0C 1
    let e := dfield c.b 0x10 8
    s.tick.count.toNat + 16 ≤ e → 4000 ≤ period → period < 2 ^ 24 → 1 ≤ guard → guard ≤ 64 → 2000 * guard ≤ period →
    s.tick.pendParam = none → s.tick.role ≠ 2 →
    Completes (.tickParam src) s (fun s' => CounterUsed s s' c ∧
      s'.tick = { s.tick with pendParam := some ⟨BitVec.ofNat 6 (guard - 1), BitVec.ofNat 24 period⟩, pendTick := BitVec.ofNat 64 e })

/-! ### The log array and the matrix-vector path (04 R123 to R166, 05 R209 to R227) -/

/-- R131, R134, R138 to R140, R211, R212, R214: an array or matrix-vector instruction that its checks pass goes to the end of its
unit's queue with the registers it names, read at issue, and its thread goes on; with a full queue the thread waits at the
instruction. An ABAR or MBAR with nothing ahead of it goes on at once; else it waits in Sync for the entries ahead of it. -/
def Obligations.UnitInstructionsAreQueued : Prop :=
  ∀ (s : State) (t thr w : Nat), Issues s t thr w →
    let h := s.thread t thr
    let x := s.tile t
    let o : UnitOp := { word := BitVec.ofNat 64 w, gw := s.g t thr (bits w 40 36), gx := s.g t thr (bits w 35 31),
                        gy := s.g t thr (bits w 30 26), gp := s.g t thr (bits w 25 21), gs := s.g t thr (bits w 20 16), thr, pc := h.pc }
    let next := { h with pc := h.pc + 8 }
    let queues := fun (c : Instr) => Completes c s (fun s' => s'.thread t thr = next ∧
      TileOnly s s' t thr (fun x => { x with arrQ := x.arrQ ++ [o] }))
    let waits := fun (c : Instr) (why : Why) => Completes c s (fun s' =>
      s' = s.updThread t thr (fun h => { h with st := .unit, wait := .retry why }))
    let ahead := x.arrQ.length + x.arrRun.length
    let mvAhead := x.mvpQ.length + x.mvpRun.length
    (opc w = 0x40 → widthFault (s.tileW t) w = false → ammOk (s.tileW t) o = true →
      (x.arrQ.length < 16 → queues (.amm t thr)) ∧ (x.arrQ.length = 16 → waits (.amm t thr) .arrQ)) ∧
    (opc w = 0x41 → widthFault (s.tileW t) w = false → adrnOk (s.tileW t) o = true → x.arrQ.length < 16 → queues (.adrn t thr)) ∧
    (opc w = 0x42 → acblOk o = true → x.arrQ.length < 16 → queues (.acbl t thr)) ∧
    (opc w = 0x43 → ahistOk o = true → x.arrQ.length < 16 → queues (.ahist t thr)) ∧
    (opc w = 0x44 → w % 2 ^ 56 = 0 →
      (ahead = 0 → LeavesThread (.abar t thr) s t thr next) ∧
      (ahead ≠ 0 → LeavesThread (.abar t thr) s t thr { next with st := .sync, wait := .abar ahead })) ∧
    (opc w = 0x48 → mvmOk o = true →
      (x.mvpQ.length < 8 → Completes (.mvm t thr) s (fun s' => s'.thread t thr = next ∧
        TileOnly s s' t thr (fun x => { x with mvpQ := x.mvpQ ++ [o] }))) ∧
      (x.mvpQ.length = 8 → waits (.mvm t thr) .mvpQ)) ∧
    (opc w = 0x49 → w % 2 ^ 56 = 0 →
      (mvAhead = 0 → LeavesThread (.mbar t thr) s t thr next) ∧
      (mvAhead ≠ 0 → LeavesThread (.mbar t thr) s t thr { next with st := .sync, wait := .mbar mvAhead }))

/-- R139: on a tile of width W, an AMM, ADRN, WPRED or WCHK whose wsel is 0 to 4 and is not W − 28 ends the task with WIDTH_FAULT,
whatever other rule the word breaks; one whose wsel is 5 to 7 is an illegal instruction. -/
def Obligations.WrongWidthEndsTask : Prop :=
  ∀ (s : State) (t thr w : Nat), Issues s t thr w → (s.tile t).firmware = false →
    let ends := fun (code : Nat) (s' : State) => ∃ k, (s'.tile t).task = some k ∧ k.phase = .ending ∧ k.code = code
    let each := fun (code : Nat) => (opc w = 0x40 → Completes (.amm t thr) s (ends code)) ∧
      (opc w = 0x41 → Completes (.adrn t thr) s (ends code)) ∧ (opc w = 0x60 → Completes (.wpred t thr) s (ends code)) ∧
      (opc w = 0x61 → Completes (.wchk t thr) s (ends code))
    (bits w 2 0 ≤ 4 → bits w 2 0 + 28 ≠ s.tileW t → each 3) ∧ (5 ≤ bits w 2 0 → each 2)

/-- R132, R133, R140, R141, R147, R148, R153, R211, R216: an entry at the head of its queue whose operands have good parity starts
(an ACBL, nothing being at work, loads its codebook slot); the oldest started entry completes: its outputs land, its flags join
the task's and its bins are counted; an AHIST that completes writes the 68 counters and with clr zeroes them. -/
def Obligations.UnitEntriesStartAndComplete : Prop :=
  ∀ (s : State) (t : Nat),
    let x := s.tile t
    (∀ (o : UnitOp) (rest : List UnitOp) (bubbles : List Nat), x.arrQ = o :: rest → x.arrRun = [] →
      (o.opcode = 0x42 → o.word.getLsbD 55 = false → s.loftBad t (lo21 o.gx) 32 = false →
        Completes (.arrayEntryStart t bubbles) s (fun s' => (s'.tile t).arrQ = rest ∧ (s'.tile t).arrRun.map (·.op) = [o] ∧
          s'.mem = s.mem ∧ ∀ k, k < 16 → smGetD (s'.tile t).book (bits o.word.toNat 54 52 * 256 + k) 0
            = BitVec.ofNat 16 (ofLe (s.loft t (lo21 o.gx + 2 * k) 2)))) ∧
      (o.opcode = 0x41 → (∀ i, i < ammM o.word.toNat → s.isBad (.sum t (ssBase o.gs + i)) = false) →
        Completes (.arrayEntryStart t bubbles) s (fun s' => (s'.tile t).arrQ = rest ∧ s'.mem = s.mem ∧
          (s'.tile t).arrRun = [{ op := o, rows := (List.range (ammM o.word.toNat)).map (fun i =>
            drainRow (aOut o.word.toNat) (aSat o.word.toNat) (aHist o.word.toNat) (lo21 o.gy + i * half16 o.gs 1)
              ((List.range (s.tileW t)).map (fun j => (x.sumRow (ssBase o.gs + i)).getD j 0)) 0) }]))) ∧
    (∀ (r : UnitRun) (rest : List UnitRun) (bubbles : List Nat), x.arrRun = r :: rest →
      (r.op.opcode ≠ 0x43 → Completes (.arrayEntryComplete t bubbles) s (fun s' =>
        (s'.tile t).arrRun = rest ∧ s'.mem = (s.applyRows t r.rows).mem ∧
        (s'.tile t).sums = ((s.applyRows t r.rows).tile t).sums ∧ (s'.tile t).hist = ((s.applyRows t r.rows).tile t).hist ∧
        (s'.tile t).flags = x.flags ||| r.load ||| orFlags (r.rows.map (·.flags)))) ∧
      (r.op.opcode = 0x43 → r.rows = [] → Memory.wf s.mem = true → Completes (.arrayEntryComplete t bubbles) s (fun s' =>
        (s'.tile t).arrRun = rest ∧
        (∀ b, b < 68 → s'.loft t (lo21 r.op.gy + 4 * b) 4 = leBytes 4 (smGetD x.hist b 0).toNat) ∧
        (s'.tile t).hist = (if r.op.word.getLsbD 55 then [] else x.hist)))) ∧
    (∀ (o : UnitOp) (rest : List UnitOp), x.mvpQ = o :: rest → (∀ c, c < mvNp o.word.toNat → s.mvErr t o c = none) →
      Completes (.mvpEntryStart t) s (fun s' => (s'.tile t).mvpQ = rest ∧ (s'.tile t).mvpRun.map (·.op) = x.mvpRun.map (·.op) ++ [o] ∧
        s'.mem = s.mem)) ∧
    (∀ (r : UnitRun) (rest : List UnitRun) (stall : Nat), x.mvpRun = r :: rest →
      Completes (.mvpEntryComplete t stall) s (fun s' => (s'.tile t).mvpRun = rest ∧ s'.mem = (s.applyRows t r.rows).mem ∧
        (s'.tile t).hist = ((s.applyRows t r.rows).tile t).hist ∧
        (s'.tile t).flags = x.flags ||| orFlags (r.rows.map (·.flags))))

/-! ### Vector instructions (05 R167 to R208) -/

/-- R169, R174, R176, R177, R180: the integer and bit-wise vector instructions in their register forms, lane by lane: i32
arithmetic wraps and a multiply-add is exact before it wraps; minimum, maximum and comparison take signed or unsigned operands; VSEL
selects bit for bit by whether the selector lane is zero; VPERM takes the lane that vb names; VPUT fills every lane. They raise no
flag. -/
def Obligations.IntegerLaneResults : Prop :=
  ∀ (s : State) (t thr : Nat) (f : VWord), f.Fits → Issues s t thr f.word → f.nr = false → f.nw = false → f.agr = 0 → f.agw = 0 →
    f.rnd = 0 → f.gen = 0 → f.sat = false →
    let A := fun l => s.lane t thr f.va l
    let B := fun l => s.lane t thr f.vb l
    let C := fun l => s.lane t thr f.vc l
    let gives := fun (c : Instr) (lanes : Nat → Word) => WritesLanes c s t thr f.vd lanes 0
    let ones := fun (p : Bool) => if p then BitVec.allOnes 32 else (0 : Word)
    (f.ts = 5 → f.td = 5 → f.fn = 0 → s.vgood t thr [f.va, f.vb] →
      (f.vc = 0 →
        (f.op = 0x80 → gives (.vadd t thr) (fun l => A l + B l)) ∧
        (f.op = 0x81 → gives (.vsub t thr) (fun l => A l - B l)) ∧
        (f.op = 0x82 → gives (.vmul t thr) (fun l => A l * B l)) ∧
        (f.op = 0x84 → f.sa = true → f.sb = true → gives (.vmin t thr) (fun l => if (A l).toInt ≤ (B l).toInt then A l else B l)) ∧
        (f.op = 0x84 → f.sa = false → f.sb = false → gives (.vmin t thr) (fun l => if (A l).toNat ≤ (B l).toNat then A l else B l)) ∧
        (f.op = 0x85 → f.sa = true → f.sb = true → gives (.vmax t thr) (fun l => if (A l).toInt ≤ (B l).toInt then B l else A l)) ∧
        (f.op = 0x85 → f.sa = false → f.sb = false → gives (.vmax t thr) (fun l => if (A l).toNat ≤ (B l).toNat then B l else A l))) ∧
      (f.op = 0x83 → s.vgood t thr [f.vc] → gives (.vfma t thr) (fun l => A l * B l + C l))) ∧
    (f.op = 0x86 → f.ts = 5 → f.td = 0 → f.vc = 0 → s.vgood t thr [f.va, f.vb] →
      (f.fn = 0 → f.sa = f.sb → gives (.vcmp t thr) (fun l => ones (A l == B l))) ∧
      (f.fn = 1 → f.sa = f.sb → gives (.vcmp t thr) (fun l => ones (A l != B l))) ∧
      (f.fn = 2 → f.sa = true → f.sb = true → gives (.vcmp t thr) (fun l => ones (decide ((A l).toInt < (B l).toInt)))) ∧
      (f.fn = 3 → f.sa = false → f.sb = false → gives (.vcmp t thr) (fun l => ones (decide ((A l).toNat ≤ (B l).toNat))))) ∧
    (f.ts = 0 → f.td = 0 → f.sa = false → f.sb = false → s.vgood t thr [f.va, f.vb] →
      (f.op = 0x87 → f.fn = 0 → s.vgood t thr [f.vc] → gives (.vsel t thr) (fun l => if C l = 0 then B l else A l)) ∧
      (f.vc = 0 →
        (f.op = 0x8C → f.fn = 0 → gives (.vbit t thr) (fun l => A l &&& B l)) ∧
        (f.op = 0x8C → f.fn = 1 → gives (.vbit t thr) (fun l => A l ||| B l)) ∧
        (f.op = 0x8C → f.fn = 2 → gives (.vbit t thr) (fun l => A l ^^^ B l)) ∧
        (f.op = 0x8C → f.fn = 3 → gives (.vbit t thr) (fun l => A l &&& ~~~(B l))) ∧
        (f.op = 0x8D → f.fn = 0 → gives (.vshf t thr) (fun l => A l <<< ((B l).toNat % 32))) ∧
        (f.op = 0x8D → f.fn = 1 → gives (.vshf t thr) (fun l => A l >>> ((B l).toNat % 32))) ∧
        (f.op = 0x8D → f.fn = 2 → gives (.vshf t thr) (fun l => (A l).sshiftRight ((B l).toNat % 32))) ∧
        (f.op = 0x8F → f.fn = 0 → gives (.vperm t thr) (fun l => A ((B l).toNat % 64))))) ∧
    (f.op = 0x93 → f.ts = 0 → f.td = 0 → f.sa = false → f.sb = false → f.vb = 0 → f.vc = 0 → f.fn = 0 → gives (.vput t thr) (fun _ => (s.g t thr f.va).setWidth 32))

/-- R174, R180: VGET copies lane fn of va into g[vd], zero-extended; VXLN exchanges lanes at distance 2^fn between two registers
into an aligned pair. -/
def Obligations.LaneMovesReachTheirPlace : Prop :=
  ∀ (s : State) (t thr : Nat) (f : VWord), f.Fits → Issues s t thr f.word →
    f = { op := f.op, vd := f.vd, va := f.va, vb := f.vb, fn := f.fn } →
    let h := s.thread t thr
    (f.op = 0x94 → f.vb = 0 → s.vgood t thr [f.va] → Completes (.vget t thr) s (fun s' =>
      s'.thread t thr = h.wrote f.vd ((s.lane t thr f.va f.fn).setWidth 64) ∧ VecOnly s s' t thr id)) ∧
    (f.op = 0x90 → f.fn ≤ 5 → f.vd % 2 = 0 → s.vgood t thr [f.va, f.vb] → Completes (.vxln t thr) s (fun s' =>
      let d := 2 ^ f.fn
      let lo := fun l => if l / d % 2 = 0 then s.lane t thr f.va l else s.lane t thr f.vb (l - d)
      let hi := fun l => if l / d % 2 = 0 then s.lane t thr f.va (l + d) else s.lane t thr f.vb l
      s'.thread t thr = { h with v := smSet (smSet h.v f.vd ((List.range 64).map lo)) (f.vd + 1) ((List.range 64).map hi), pc := h.pc + 8 } ∧
      VecOnly s s' t thr id))

/-- R178, R179, R181, R194, R195: conversions, reductions, special functions and butterflies in forms that draw no random
bits. An integer conversion wraps at the destination width, and a conversion of a
type to itself ends the task with ILLEGAL_INSTR; a sum reduction of i32 lanes leaves the wrapped sum of all 64 in lane 0
and zero in the others; a special function and an L8 conversion give each lane the correctly rounded value of the numeric rules. -/
def Obligations.ConversionAndReductionResults : Prop :=
  ∀ (s : State) (t thr : Nat) (f : VWord), f.Fits → Issues s t thr f.word → f.nr = false → f.nw = false → f.agr = 0 → f.agw = 0 →
    f.gen = 0 → f.sat = false → s.vgood t thr [f.va] →
    let a := fun l => (s.v t thr f.va).getD l 0
    let lanes := fun (r : Nat → Nat × Flags) (l : Nat) => BitVec.ofNat 32 (r l).1
    let flags := fun (r : Nat → Nat × Flags) => (List.range 64).foldl (fun g l => g ||| (r l).2) 0
    let gives := fun (c : Instr) (r : Nat → Nat × Flags) => WritesLanes c s t thr f.vd (lanes r) (flags r)
    (f.vb = 0 → f.vc = 0 → f.rnd = 0 → f.sb = false →
      (f.op = 0x88 → f.fn = 0 → 2 ≤ f.ts → f.ts ≤ 5 → 2 ≤ f.td → f.td ≤ 5 → f.ts ≠ f.td → f.sa = false →
        WritesLanes (.vcvt t thr) s t thr f.vd (fun l =>
          BitVec.ofNat 32 (a l % 2 ^ (4 * 2 ^ (f.ts - 2)) % 2 ^ (4 * 2 ^ (f.td - 2)))) 0) ∧
      (f.op = 0x88 → f.fn = 0 → f.ts = f.td → (s.tile t).firmware = false → Completes (.vcvt t thr) s (fun s' =>
        s'.mem = s.mem ∧ ∃ k, (s'.tile t).task = some k ∧ k.phase = .ending ∧ k.code = 2)) ∧
      (f.op = 0x88 → f.fn = 0 → f.ts = 0 → f.td = 1 → f.sa = false → gives (.vcvt t thr) (fun l => wConv 8 (a l % 2 ^ 16) 24 0 0)) ∧
      (f.op = 0x8A → f.fn = 0 → f.ts = 0 → f.td = 0 → f.sa = false →
        gives (.vdl8 t thr) (fun l => l8ToW16 (a l % 256) (a l / 256 % 256) 0 0)) ∧
      (f.op = 0x8B → f.fn < 5 → f.ts = 1 → f.td = 1 → f.sa = false → gives (.vsf t thr) (fun l => sfW f.fn 24 (a l) 24)) ∧
      (f.op = 0x8E → f.fn = 0 → f.ts = 5 → f.td = 5 →
        WritesLanes (.vred t thr) s t thr f.vd
          (fun l => if l = 0 then BitVec.ofNat 32 (((List.range 64).map a).foldl (· + ·) 0) else 0) 0) ∧
      (f.op = 0x8E → f.fn = 1 → f.ts = 5 → f.td = 5 → f.sa = false →
        WritesLanes (.vred t thr) s t thr f.vd
          (fun l => if l = 0 then BitVec.ofNat 32 (((List.range 64).map a).foldl max 0) else 0) 0)) ∧
    (f.op = 0x89 → f.fn = 1 → f.vc = 0 → f.rnd = 0 → f.ts = 0 → f.td = 0 → f.sa = false → f.sb = false → s.vgood t thr [f.vb] →
      let e := (s.v t thr f.vb).getD 0 0 % 256
      1 ≤ e → e ≤ 254 → gives (.vql8 t thr) (fun l => ((w16ToL8 (a l % 2 ^ 16) e).1 + 256 * e, (w16ToL8 (a l % 2 ^ 16) e).2))) ∧
    (f.op = 0x91 → f.fn ≤ 1 → f.rnd ≤ 3 → f.ts = 0 → f.td = 0 → f.sa = false → f.sb = false → f.vd % 2 = 0 →
      s.vgood t thr [f.vb, f.vc] →
      Completes (.vbf2 t thr) s (fun s' => s'.mem = s.mem ∧ (s'.thread t thr).pc = (s.thread t thr).pc + 8 ∧
        ∀ l, l < 64 →
          let ts := bf2Terms (a l) ((s.v t thr f.vb).getD l 0) ((s.v t thr f.vc).getD l 0) (f.fn == 1)
          let r := fun k => (component (ts.getD k []) f.rnd 0).1
          (s'.v t thr f.vd).getD l 0 = (r 0 + 2 ^ 16 * r 1) % 2 ^ 32 ∧ (s'.v t thr (f.vd + 1)).getD l 0 = (r 2 + 2 ^ 16 * r 3) % 2 ^ 32)) ∧
    (f.op = 0x92 → f.fn ≤ 1 → f.rnd ≤ 3 → f.ts = 0 → f.td = 0 → f.sa = false → f.sb = false → f.vb = 0 → f.vd % 4 = 0 → f.va % 4 = 0 →
      f.vc ≤ 29 → s.vgood t thr [f.va + 1, f.va + 2, f.va + 3, f.vc, f.vc + 1, f.vc + 2] →
      Completes (.vbf4 t thr) s (fun s' => s'.mem = s.mem ∧ (s'.thread t thr).pc = (s.thread t thr).pc + 8 ∧
        ∀ l, l < 64 →
          let x := fun k => (s.v t thr (f.va + k)).getD l 0
          let c := fun k => (s.v t thr (f.vc + k)).getD l 0
          let ts := bf4Terms (x 0) (x 1) (x 2) (x 3) (c 0) (c 1) (c 2) (f.fn == 1)
          let r := fun k => (component (ts.getD k []) f.rnd 0).1
          ∀ k, k < 4 → (s'.v t thr (f.vd + k)).getD l 0 = (r (2 * k) + 2 ^ 16 * r (2 * k + 1)) % 2 ^ 32))

/-- R169, R173, R176, R199: floating-point lanes of VADD, VSUB, VMUL and VFMA in W32 are the exact value rounded once under the
word's mode; under stochastic rounding the instruction draws eight blocks from the named generator, which moves on by eight, and a
thread that does not own the generator gets ILLEGAL_INSTR. -/
def Obligations.FloatLanesRoundOnce : Prop :=
  ∀ (s : State) (t thr : Nat) (f : VWord), f.Fits → Issues s t thr f.word → f.nr = false → f.nw = false → f.agr = 0 → f.agw = 0 →
    f.sa = false → f.sb = false → f.sat = false → f.fn = 0 → f.ts ≤ 1 → f.td ≤ 1 → s.vgood t thr [f.va, f.vb] →
    let a := fun l => laneBits f.ts ((s.v t thr f.va).getD l 0)
    let b := fun l => laneBits f.ts ((s.v t thr f.vb).getD l 0)
    let c := fun l => laneBits f.td ((s.v t thr f.vc).getD l 0)
    let p := fltP f.ts
    let q := fltP f.td
    let gives := fun (i : Instr) (r : Nat → Nat × Flags) => WritesLanes i s t thr f.vd (fun l => BitVec.ofNat 32 (r l).1)
      ((List.range 64).foldl (fun g l => g ||| (r l).2) 0)
    (f.rnd ≤ 3 → f.gen = 0 →
      (f.op = 0x80 → f.vc = 0 → gives (.vadd t thr) (fun l => wAdd p (a l) p (b l) q f.rnd 0)) ∧
      (f.op = 0x81 → f.vc = 0 → gives (.vsub t thr) (fun l => wSub p (a l) p (b l) q f.rnd 0)) ∧
      (f.ts = 0 → f.op = 0x82 → f.vc = 0 → gives (.vmul t thr) (fun l => wMul p (a l) p (b l) q f.rnd 0)) ∧
      (f.ts = 0 → f.op = 0x83 → s.vgood t thr [f.vc] →
        gives (.vfma t thr) (fun l => wFma p (a l) p (b l) q (c l) q f.rnd 0))) ∧
    (f.rnd = 4 → f.op = 0x80 → f.vc = 0 → s.isBad (.gen t f.gen) = false →
      ((s.gen t f.gen).owner = some thr → Completes (.vadd t thr) s (fun s' =>
        (s'.gen t f.gen).ctr = (s.gen t f.gen).ctr + 8 ∧ (s'.gen t f.gen).key = (s.gen t f.gen).key ∧
        ∀ l, l < 64 → (s'.v t thr f.vd).getD l 0
          = (wAdd p (a l) p (b l) q 4 (srBits ((s.gen t f.gen).draw 8).1 0 l)).1 % 2 ^ 32)) ∧
      ((s.gen t f.gen).owner ≠ some thr → (s.tile t).firmware = false → Completes (.vadd t thr) s (fun s' =>
        ∃ k, (s'.tile t).task = some k ∧ k.phase = .ending ∧ k.code = 2)))

/-- R176: with nr the second operand is the near-memory row that the address generator agr names, and with nw the result is
also stored to the row that agw names; each generator used steps on. A row beyond near memory ends the task with OUT_OF_RANGE. -/
def Obligations.NearMemoryOperandsAndResults : Prop :=
  ∀ (s : State) (t thr : Nat) (f : VWord), f.Fits → Issues s t thr f.word →
    f = { op := 0x80, vd := f.vd, va := f.va, ts := 5, td := 5, nr := true, agr := f.agr, nw := true, agw := f.agw } →
    let h := s.thread t thr
    let rowR := (h.agen f.agr).addr
    let rowW := (h.agen f.agw).addr
    (rowR < 512 → rowW < 512 → s.vgood t thr [f.va] → s.badMem (nearAddr t rowR) 256 = false → Memory.wf s.mem = true →
      Completes (.vadd t thr) s (fun s' =>
        let sum := fun l => s.lane t thr f.va l + (s.near t rowR).getD l 0
        s'.v t thr f.vd = (List.range 64).map (fun l => (sum l).toNat) ∧ s'.near t rowW = (List.range 64).map sum ∧
        (∀ x, (x < nearAddr t rowW ∨ nearAddr t rowW + 256 ≤ x) → memGet s'.mem x = memGet s.mem x) ∧
        (f.agr ≠ f.agw → (s'.thread t thr).agen f.agr = (h.agen f.agr).next ∧ (s'.thread t thr).agen f.agw = (h.agen f.agw).next))) ∧
    (512 ≤ rowR → (s.tile t).firmware = false → Completes (.vadd t thr) s (fun s' =>
      ∃ k, (s'.tile t).task = some k ∧ k.phase = .ending ∧ k.code = 4))

/-- R184 to R186, R192, R193: vector loads and stores move 64 packed elements between a register and a near-memory row or
the loft at the address of their generator, which then steps on; VAG sets a generator from general registers and VAGRD reads its index. -/
def Obligations.VectorMemoryMovesElements : Prop :=
  ∀ (s : State) (t thr r ag mt : Nat), r < 32 → ag < 8 → mt ≤ 4 →
    let h := s.thread t thr
    let a := (h.agen ag).addr
    let stepped := { h with ag := smUpd h.ag ag {} AddrGen.next, pc := h.pc + 8 }
    let word := fun (op m : Nat) => op * 2 ^ 56 + r * 2 ^ 51 + ag * 2 ^ 48 + m * 2 ^ 45
    let stores := fun (c : Instr) (addr : Nat) (bs : List Byte) => Completes c s (fun s' =>
      s'.thread t thr = stepped ∧ s'.rd addr bs.length = bs ∧
      (∀ x, (x < addr ∨ addr + bs.length ≤ x) → memGet s'.mem x = memGet s.mem x))
    (Issues s t thr (word 0x98 0) → a < 512 → s.badMem (nearAddr t a) 256 = false →
      Completes (.vld t thr) s (fun s' => s'.mem = s.mem ∧ s'.thread t thr = { stepped with v := smSet h.v r (s.near t a) })) ∧
    (Issues s t thr (word 0x99 0) → a < 512 → s.vgood t thr [r] → Memory.wf s.mem = true →
      stores (.vst t thr) (nearAddr t a) ((s.v t thr r).flatMap (fun n => leBytes 4 n))) ∧
    (Issues s t thr (word 0x9A mt) → a % mtBytes mt = 0 → a + mtBytes mt ≤ loftBytes → s.loftBad t a (mtBytes mt) = false →
      Completes (.vldl t thr) s (fun s' => s'.mem = s.mem ∧ s'.thread t thr = { stepped with
        v := smSet h.v r ((unpackLanes mt (s.loft t a (mtBytes mt))).map (BitVec.ofNat 32 ·)) })) ∧
    (Issues s t thr (word 0x9B mt) → a % mtBytes mt = 0 → a + mtBytes mt ≤ loftBytes → s.vgood t thr [r] → Memory.wf s.mem = true →
      stores (.vstl t thr) (loftAddr t a) (packLanes mt (s.v t thr r))) ∧
    (∀ gb gi gc : Nat, gb < 32 → gi < 32 → gc < 32 → ∀ g : AddrGen,
      Issues s t thr (0xA0 * 2 ^ 56 + ag * 2 ^ 53 + gb * 2 ^ 48 + gi * 2 ^ 43 + gc * 2 ^ 38) →
      1 ≤ g.n.toNat → g.n.toNat ≤ 24 → g.shift.toNat ≤ 23 → 1 ≤ g.fw.toNat → g.fw.toNat ≤ 24 →
      s.g t thr gb = BitVec.ofNat 64 (g.base.toNat + g.stride.toNat * 2 ^ 32) →
      s.g t thr gi = BitVec.ofNat 64 (g.idx.toNat + g.inc.toNat * 2 ^ 32) →
      s.g t thr gc = BitVec.ofNat 64 (b2n g.mode + g.n.toNat * 2 ^ 8 + g.shift.toNat * 2 ^ 16 + g.fw.toNat * 2 ^ 24) →
      Completes (.vag t thr) s (fun s' => s'.thread t thr = { h with ag := smSet h.ag ag g, pc := h.pc + 8 } ∧ VecOnly s s' t thr id)) ∧
    (Issues s t thr (0xA1 * 2 ^ 56 + ag * 2 ^ 53 + r * 2 ^ 48) →
      Completes (.vagrd t thr) s (fun s' => s'.thread t thr = h.wrote r ((h.agen ag).idx.setWidth 64) ∧ VecOnly s s' t thr id))

/-- R187, R189, R197, R198, R201: VRSET binds a generator to its thread with key and counter from three registers, VRGET reads
them back, VRAND puts the words of sixteen blocks into the lanes and moves the counter on by sixteen; REP makes the tile repeat
the next instruction of its thread. -/
def Obligations.GeneratorAndRepeatInstructions : Prop :=
  ∀ (s : State) (t thr g r vd n : Nat), g < 4 → r ≤ 29 → vd < 32 → n < 65536 →
    let h := s.thread t thr
    let x := s.gen t g
    (Issues s t thr (0xA8 * 2 ^ 56 + g * 2 ^ 54 + r * 2 ^ 48) → Completes (.vrset t thr) s (fun s' =>
      s'.gen t g = { key := s.g t thr r, owner := some thr, ctr := s.g t thr (r + 2) ++ s.g t thr (r + 1) } ∧
      s'.thread t thr = { h with pc := h.pc + 8 } ∧ s'.mem = s.mem)) ∧
    (Issues s t thr (0xA9 * 2 ^ 56 + g * 2 ^ 54 + r * 2 ^ 48) → s.isBad (.gen t g) = false → Completes (.vrget t thr) s (fun s' =>
      s'.thread t thr = { h with
        g := smSet (smSet (smSet h.g r x.key) (r + 1) (x.ctr.setWidth 64)) (r + 2) ((x.ctr >>> 64).setWidth 64), pc := h.pc + 8 } ∧
      VecOnly s s' t thr id)) ∧
    (Issues s t thr (0xAA * 2 ^ 56 + vd * 2 ^ 51 + g * 2 ^ 22) → x.owner = some thr → s.isBad (.gen t g) = false →
      Completes (.vrand t thr) s (fun s' =>
        (∀ l, l < 64 → (s'.v t thr vd).getD l 0 = ((philox x.key.toNat ((x.ctr.toNat + l / 4) % 2 ^ 128)).getD (l % 4) 0) % 2 ^ 32) ∧
        (s'.gen t g).ctr = x.ctr + 16 ∧ s'.mem = s.mem)) ∧
    (Issues s t thr (0xBF * 2 ^ 56 + n) → s.pcOk t (h.pc + 8) = true → repeatable (opc (s.instWord t (h.pc + 8))) = true →
      Completes (.rep t thr) s (fun s' => (s'.tile t).rep = some ⟨thr, n + 1⟩ ∧ s'.thread t thr = { h with pc := h.pc + 8 } ∧
        s'.mem = s.mem))

/-- R203 to R207: greedy sampling keeps, lane by lane, the larger logit with its index; VSRED leaves the largest key of 64
pairs; VTOPK keeps the k largest entries in descending key order; VTOPP with p above 1 keeps them all, and a greedy VTOPS answers
the first entry's key and raises INVALID for a NaN scale. -/
def Obligations.SamplingInstructionsKeepTheBest : Prop :=
  ∀ (s : State) (t thr : Nat) (f : VWord), f.Fits → Issues s t thr f.word →
    let h := s.thread t thr
    let lane := fun (r l : Nat) => (s.v t thr r).getD l 0
    let k := s.tile t |>.topk
    (f = { op := 0xB0, vd := f.vd, va := f.va, vb := f.vb, vc := f.vc, ts := 1, fn := 1 } → f.vd % 2 = 0 →
      s.vgood t thr [f.vd, f.vd + 1, f.va, f.vb, f.vc] → (∀ l, l < 64 → isNan32 (lane f.va l) = false) →
      Completes (.vsample t thr) s (fun s' => s'.mem = s.mem ∧ ∀ l, l < 64 →
        let wins := decide (ord32 (lane f.vd l) < ord32 (lane f.va l)) ||
          (ord32 (lane f.va l) == ord32 (lane f.vd l) && decide (lane f.vb l < lane (f.vd + 1) l))
        (s'.v t thr f.vd).getD l 0 = (if wins then lane f.va l else lane f.vd l) ∧
        (s'.v t thr (f.vd + 1)).getD l 0 = (if wins then lane f.vb l else lane (f.vd + 1) l))) ∧
    (f = { op := 0xB1, vd := f.vd, va := f.va } → f.va < 31 → s.vgood t thr [f.va, f.va + 1] →
      Completes (.vsred t thr) s (fun s' => VecOnly s s' t thr id ∧ s'.thread t thr = h.wrote f.vd (BitVec.ofNat 64
        (((List.range 64).map (fun l => ord32 (lane f.va l) * 2 ^ 32 + (2 ^ 32 - 1 - lane (f.va + 1) l))).foldl max 0)))) ∧
    (f = { op := 0xB2, vd := f.vd, va := f.va, vb := f.vb, ts := 1, fn := 1 } → k.owner = none ∨ k.owner = some thr →
      let n := (s.g t thr f.vd).toNat % 512
      1 ≤ n → n ≤ 256 → s.vgood t thr [f.va, f.vb] → (∀ l, l < 64 → isNan32 (lane f.va l) = false) →
      Completes (.vtopk t thr) s (fun s' => let k' := (s'.tile t).topk
        k'.k = n ∧ k'.owner = some thr ∧ k'.cut = none ∧ k'.es.length = min n 64 ∧ s'.mem = s.mem ∧
        (k'.es.map (fun e => topKey e.1.toNat e.2.toNat)).Pairwise (· ≥ ·) ∧
        ∀ e ∈ k'.es, ∃ l, l < 64 ∧ e.1.toNat = lane f.va l ∧ e.2.toNat = lane f.vb l)) ∧
    (f = { op := 0xB3, vd := f.vd } → k.owner = some thr → s.topkBad t = none → k.es ≠ [] →
      (s.g t thr f.vd).toNat % 2 ^ 32 = 0x40000000 →
      Completes (.vtopp t thr) s (fun s' => (s'.tile t).topk = { k with cut := some k.es.length } ∧ s'.mem = s.mem)) ∧
    (f = { op := 0xB4, vd := f.vd, va := f.va, fn := 1 } → k.owner = some thr → s.topkBad t = none → k.cut = none →
      ∀ e es, k.es = e :: es → Completes (.vtops t thr) s (fun s' =>
        VecOnly s s' t thr (fun x => { x with
          flags := x.flags ||| fif (isNan32 ((s.g t thr f.vd).toNat / 2 ^ 32)) fINVALID }) ∧
        s'.thread t thr = h.wrote f.va (BitVec.ofNat 64 (topKey e.1.toNat e.2.toNat))))

/-! ### Scalar, branch and predicate instructions (06 R229 to R233) -/

/-- R233: an integer instruction whose guard holds writes its result to g[gd], goes on at the next instruction and changes
nothing else; b is g[gb], or the sign-extended immediate; every form of fn that the rule lists. -/
def Obligations.ScalarArithmeticWritesResult : Prop :=
  ∀ (s : State) (t thr : Nat) (f : SWord), f.Fits → f.UsesB → Issues s t thr f.word → f.guard s t thr = true →
    let h := s.thread t thr
    let a := s.g t thr f.ga
    let b := f.b s t thr
    let gives := fun (c : Instr) (v : DWord) => LeavesThread c s t thr (h.wrote f.gd v)
    (f.op = 0x00 → f.fn = 0 → gives (.add t thr) (a + b)) ∧
    (f.op = 0x01 → f.fn = 0 → gives (.sub t thr) (a - b)) ∧
    (f.op = 0x02 → f.fn = 0 → gives (.mul t thr) (a * b)) ∧
    (f.op = 0x03 → f.fn = 0 → gives (.mulh t thr) (BitVec.ofNat 64 (a.toNat * b.toNat / 2 ^ 64))) ∧
    (f.op = 0x03 → f.fn = 1 → gives (.mulh t thr) (BitVec.ofInt 64 (a.toInt * b.toInt / 2 ^ 64))) ∧
    (f.op = 0x04 → f.fn = 0 → gives (.and t thr) (a &&& b)) ∧
    (f.op = 0x05 → f.fn = 0 → gives (.or t thr) (a ||| b)) ∧
    (f.op = 0x06 → f.fn = 0 → gives (.xor t thr) (a ^^^ b)) ∧
    (f.op = 0x07 → f.fn = 0 → gives (.shl t thr) (a <<< (b.toNat % 64))) ∧
    (f.op = 0x08 → f.fn = 0 → gives (.shr t thr) (a >>> (b.toNat % 64))) ∧
    (f.op = 0x09 → f.fn = 0 → gives (.sar t thr) (a.sshiftRight (b.toNat % 64))) ∧
    (f.op = 0x0A → f.fn = 0 → gives (.min t thr) (if a.toInt ≤ b.toInt then a else b)) ∧
    (f.op = 0x0A → f.fn = 1 → gives (.min t thr) (if a.toNat ≤ b.toNat then a else b)) ∧
    (f.op = 0x0B → f.fn = 0 → gives (.max t thr) (if a.toInt ≤ b.toInt then b else a)) ∧
    (f.op = 0x0B → f.fn = 1 → gives (.max t thr) (if a.toNat ≤ b.toNat then b else a)) ∧
    (f.op = 0x0E → f.fn < 8 → gives (.sel t thr) (if h.pred f.fn then a else b))

/-- R233: MOVHI puts its immediate into the upper half of g[gd] and leaves the lower half; CMP and PLOG write a predicate, of
which p0 takes no write (R229). -/
def Obligations.PredicateInstructionsWriteResult : Prop :=
  ∀ (s : State) (t thr : Nat) (f : SWord), f.Fits → Issues s t thr f.word → f.guard s t thr = true →
    let h := s.thread t thr
    let a := s.g t thr f.ga
    let b := f.b s t thr
    (f.op = 0x0C → f.fn = 0 → f.ga = 0 → f.gb = 0 → f.i = false →
      LeavesThread (.movhi t thr) s t thr (h.wrote f.gd (f.imm ++ (s.g t thr f.gd).setWidth 32))) ∧
    (f.op = 0x0D → f.UsesB → f.gd < 8 →
      (f.fn = 0 → LeavesThread (.cmp t thr) s t thr (h.wroteP f.gd (decide (a = b)))) ∧
      (f.fn = 1 → LeavesThread (.cmp t thr) s t thr (h.wroteP f.gd (decide (a ≠ b)))) ∧
      (f.fn = 2 → LeavesThread (.cmp t thr) s t thr (h.wroteP f.gd (decide (a.toInt < b.toInt)))) ∧
      (f.fn = 3 → LeavesThread (.cmp t thr) s t thr (h.wroteP f.gd (decide (b.toInt ≤ a.toInt)))) ∧
      (f.fn = 4 → LeavesThread (.cmp t thr) s t thr (h.wroteP f.gd (decide (a.toNat < b.toNat)))) ∧
      (f.fn = 5 → LeavesThread (.cmp t thr) s t thr (h.wroteP f.gd (decide (b.toNat ≤ a.toNat))))) ∧
    (f.op = 0x28 → f.gd < 8 → f.ga < 8 → f.gb < 8 → f.i = false → f.imm = 0 →
      (f.fn = 0 → LeavesThread (.plog t thr) s t thr (h.wroteP f.gd (h.pred f.ga && h.pred f.gb))) ∧
      (f.fn = 1 → LeavesThread (.plog t thr) s t thr (h.wroteP f.gd (h.pred f.ga || h.pred f.gb))) ∧
      (f.fn = 2 → LeavesThread (.plog t thr) s t thr (h.wroteP f.gd (xor (h.pred f.ga) (h.pred f.gb)))) ∧
      (f.fn = 3 → LeavesThread (.plog t thr) s t thr (h.wroteP f.gd (h.pred f.ga && !h.pred f.gb))))

/-- R233: BR, JR, LOOP and CALL whose target is a place that the tile's mode lets it issue from go on there; a LOOP whose
count has run out goes on at the next instruction. -/
def Obligations.BranchesReachTheirTarget : Prop :=
  ∀ (s : State) (t thr : Nat) (f : SWord), f.Fits → Issues s t thr f.word → f.guard s t thr = true → f.fn = 0 →
    f.gb = 0 → f.i = false →
    let h := s.thread t thr
    let target := h.pc + f.imm.signExtend 64 * 8
    let count := s.g t thr f.gd - 1
    (f.op = 0x20 → f.gd = 0 → f.ga = 0 → s.issuable t target →
      LeavesThread (.br t thr) s t thr { h with pc := target }) ∧
    (f.op = 0x21 → f.gd = 0 → f.imm = 0 → s.issuable t (s.g t thr f.ga) →
      LeavesThread (.jr t thr) s t thr { h with pc := s.g t thr f.ga }) ∧
    (f.op = 0x22 → f.ga = 0 → count ≠ 0 → s.issuable t target →
      LeavesThread (.loop t thr) s t thr { h with pc := target, g := smSet h.g f.gd count }) ∧
    (f.op = 0x22 → f.ga = 0 → count = 0 → LeavesThread (.loop t thr) s t thr (h.wrote f.gd 0)) ∧
    (f.op = 0x23 → f.ga = 0 → s.issuable t target →
      LeavesThread (.call t thr) s t thr { h with pc := target, g := smSet h.g f.gd (h.pc + 8) })

/-- R232: an instruction whose guard is 0 has no effect but that its thread goes on, for every scalar, branch and predicate
instruction and the memory and synchronisation instructions, whatever an address or a register holds. -/
def Obligations.FalseGuardHasNoEffect : Prop :=
  ∀ (s : State) (t thr : Nat) (f : SWord), f.Fits → Issues s t thr f.word → f.guard s t thr = false →
    let skips := fun (c : Instr) => LeavesThread c s t thr { s.thread t thr with pc := (s.thread t thr).pc + 8 }
    (f.UsesB → f.fn = 0 →
      (f.op = 0x00 → skips (.add t thr)) ∧ (f.op = 0x01 → skips (.sub t thr)) ∧ (f.op = 0x02 → skips (.mul t thr)) ∧
      (f.op = 0x03 → skips (.mulh t thr)) ∧ (f.op = 0x04 → skips (.and t thr)) ∧ (f.op = 0x05 → skips (.or t thr)) ∧
      (f.op = 0x06 → skips (.xor t thr)) ∧ (f.op = 0x07 → skips (.shl t thr)) ∧ (f.op = 0x08 → skips (.shr t thr)) ∧
      (f.op = 0x09 → skips (.sar t thr)) ∧ (f.op = 0x0A → skips (.min t thr)) ∧ (f.op = 0x0B → skips (.max t thr)) ∧
      (f.op = 0x0E → skips (.sel t thr)) ∧ (f.op = 0x0D → f.gd < 8 → skips (.cmp t thr))) ∧
    (f.i = false → f.gb = 0 → f.imm = 0 →
      (f.op = 0x28 → f.gd < 8 → f.ga < 8 → f.fn < 4 → skips (.plog t thr)) ∧
      (f.op = 0x21 → f.gd = 0 → f.fn = 0 → skips (.jr t thr)) ∧
      (f.op = 0x3B → f.ga = 0 → f.fn < 6 → skips (.tread t thr)) ∧
      (f.op = 0x3C → f.gd = 0 → f.fn < 3 → (f.fn ≠ 2 → f.ga = 0) → skips (.twait t thr)) ∧
      (f.gd = 0 → f.ga = 0 →
        (f.op = 0x38 → 1 ≤ f.fn → f.fn ≤ 3 → skips (.fence t thr)) ∧
        (f.op = 0x3D → f.fn = 0 → skips (.texit t thr)) ∧ (f.op = 0x3E → f.fn = 0 → skips (.tend t thr)))) ∧
    (f.i = false → f.gb = 0 →
      (f.op = 0x0C → f.ga = 0 → f.fn = 0 → skips (.movhi t thr)) ∧
      (f.op = 0x20 → f.gd = 0 → f.ga = 0 → f.fn = 0 → skips (.br t thr)) ∧
      (f.op = 0x22 → f.ga = 0 → f.fn = 0 → skips (.loop t thr)) ∧
      (f.op = 0x23 → f.ga = 0 → f.fn = 0 → skips (.call t thr)) ∧
      (f.op = 0x30 → skips (.ld t thr)) ∧
      (f.gd = 0 → f.ga = 0 → f.imm.toNat < 65536 →
        (f.op = 0x39 → skips (.spost t thr)) ∧ (f.op = 0x3A → f.imm ≠ 0 → skips (.swait t thr)))) ∧
    (f.op = 0x31 → f.i = false → f.gd = 0 → f.fn % 8 < 4 → skips (.st t thr))

/-! ### Memory, atomics, synchronisation and thread control (06 R234 to R242, R254, R262) -/

/-- R234, R235: a space-0 LD whose range is aligned and inside the loft, with good parity, writes the bytes there, least
significant first, zero- or sign-extended; a space-0 ATOM writes what its aop makes of the old value, at an address that the
statement computes, and returns the old value with ret = 1. Nothing else changes.
R235: what the integer atomics make of the old value, at every size: wrapping add, signed and unsigned minimum and
maximum, swap, and compare-and-swap. -/
def Obligations.LoftLoadsAndAtomicsGiveTheirResult : Prop :=
  (∀ (s : State) (t thr : Nat) (f : SWord), f.Fits → Issues s t thr f.word → f.guard s t thr = true →
     let h := s.thread t thr
     (f.op = 0x30 → f.i = false → f.gb = 0 → f.fn < 8 →
       let n := 2 ^ (f.fn % 4)
       let a := (s.g t thr f.ga + f.imm.signExtend 64).toNat
       let v := ofLe (s.loft t a n)
       a % n = 0 → a + n ≤ loftBytes → s.loftBad t a n = false →
       LeavesThread (.ld t thr) s t thr (h.wrote f.gd
         (if f.fn < 4 then BitVec.ofNat 64 v
          else BitVec.ofInt 64 (if v < 2 ^ (8 * n - 1) then (v : Int) else (v : Int) - 2 ^ (8 * n))))) ∧
     (f.op = 0x32 → f.i = false → f.fn = 0 → ∀ aop size : Nat, ∀ ret : Bool,
       f.imm = BitVec.ofNat 32 (aop * 2 ^ 28 + size * 2 ^ 26 + b2n ret * 2 ^ 24) → aop < 10 → size < 4 → aopSize aop size = true →
       (ret = false → aop ≠ 6 → f.gd = 0) →
       let n := 2 ^ size
       let a := (s.g t thr f.ga).toNat
       let old := ofLe (s.loft t a n)
       let new := atomicNew aop n old (s.g t thr f.gb).toNat (s.g t thr f.gd).toNat
       a % n = 0 → a + n ≤ loftBytes → s.loftBad t a n = false → Memory.wf s.mem = true →
       Completes (.atom t thr) s (fun s' =>
         StoreOnly s s' t thr (loftAddr t a) n ∧ s'.loft t a n = leBytes n new ∧
         s'.thread t thr = (if ret then h.wrote f.gd (BitVec.ofNat 64 old) else { h with pc := h.pc + 8 })))) ∧
  (∀ (size old x c : Nat), size < 4 →
     let n := 2 ^ size
     let m := 2 ^ (8 * n)
     let signed := fun (v : Nat) => if v < 2 ^ (8 * n - 1) then (v : Int) else (v : Int) - m
     old < m → x < m → c < m →
     atomicNew 0 n old x c = (old + x) % m ∧
     atomicNew 1 n old x c = (if signed old ≤ signed x then old else x) ∧
     atomicNew 2 n old x c = (if signed x ≤ signed old then old else x) ∧
     atomicNew 3 n old x c = Nat.min old x ∧
     atomicNew 4 n old x c = Nat.max old x ∧
     atomicNew 5 n old x c = x ∧
     atomicNew 6 n old x c = (if old = c then x else old))

/-- R234: a space-0 ST of a task whose range is aligned and inside the loft stores the low bytes of g[gb], least significant
first, at g[ga] + imm, and changes no other byte and no register. -/
def Obligations.LoftStoreWritesItsBytes : Prop :=
  ∀ (s : State) (t thr : Nat) (f : SWord), f.Fits → Issues s t thr f.word → f.guard s t thr = true →
    f.op = 0x31 → f.i = false → f.gd = 0 → f.fn < 4 → (s.tile t).firmware = false →
    let h := s.thread t thr
    let n := 2 ^ f.fn
    let a := (s.g t thr f.ga + f.imm.signExtend 64).toNat
    a % n = 0 → a + n ≤ loftBytes → Memory.wf s.mem = true →
    Completes (.st t thr) s (fun s' =>
      StoreOnly s s' t thr (loftAddr t a) n ∧ s'.loft t a n = leBytes n (s.g t thr f.gb).toNat ∧
      s'.loftBad t a n = false ∧ s'.thread t thr = { h with pc := h.pc + 8 })

/-- R234 to R237: a space-0 access that is misaligned or reaches past the loft ends the task with OUT_OF_RANGE, as does a
misaligned space-1 access, and nothing is stored. -/
def Obligations.BadScalarAddressEndsTask : Prop :=
  ∀ (s : State) (t thr : Nat) (f : SWord), f.Fits → Issues s t thr f.word → f.guard s t thr = true →
    (s.tile t).firmware = false → f.i = false →
    let n := 2 ^ (f.fn % 4)
    let a := (s.g t thr f.ga + f.imm.signExtend 64).toNat
    (a % n ≠ 0 ∨ f.fn < 8 ∧ loftBytes < a + n) →
    let ends := fun (s' : State) => ∃ k, (s'.tile t).task = some k ∧ k.phase = .ending ∧ k.code = 4
    (f.op = 0x30 → f.gb = 0 → Completes (.ld t thr) s ends) ∧
    (f.op = 0x31 → f.gd = 0 → f.fn % 8 < 4 → Completes (.st t thr) s ends)

/-- R238 to R240: a fence with nothing to wait for, a semaphore post with no waiter, a wait that the count satisfies, and the
reads of TREAD complete at once; TREAD fn 1 (the cycles since the task started), and fn 4 and 5 where no task runs, read a free
value, log entry 1.
R238, R241, R254, R262: TWAIT waits in Sync for its edge, or goes on where the tick count has been reached; TEXIT of a
thread that is not the last turns it Off, and of the last ends the task OK, as TEND does; in firmware FGET reads and FSET
writes a register of the tile's own block (here
ARR_ERR, whose valid bit a write of 1 clears), and FEND, with no reset waiting for the tile, ends firmware mode, as TEXIT and TEND
do there, which is the model's choice (log entry 71). -/
def Obligations.SynchronisationAndThreadControlComplete : Prop :=
  (∀ (s : State) (t thr : Nat) (f : SWord), f.Fits → Issues s t thr f.word → f.guard s t thr = true →
     f.i = false → f.gb = 0 →
     let h := s.thread t thr
     let next := { h with pc := h.pc + 8 }
     let amount := f.imm.toNat
     let count := smGetD (s.tile t).sems f.fn 0
     (f.op = 0x38 → f.gd = 0 → f.ga = 0 → f.imm = 0 → 1 ≤ f.fn → f.fn ≤ 3 →
       ((f.fn ≠ 2 → (∀ a ∈ s.accessesOf (.tile t), a.releaseOf thr = false) ∧ (s.tile t).pushedBy thr = false) →
         (f.fn ≠ 1 → ∀ a ∈ s.accessesOf (.tile t), a.acquireOf thr = false) →
         LeavesThread (.fence t thr) s t thr next) ∧
       (f.fn ≠ 2 → (∃ a ∈ s.accessesOf (.tile t), a.releaseOf thr = true) →
         LeavesThread (.fence t thr) s t thr { next with st := .sync, wait := .fence true (f.fn != 1) })) ∧
     (f.op = 0x39 → f.gd = 0 → f.ga = 0 → amount < 65536 → (s.tile t).semOrder = [] → count + amount ≤ 65535 →
       Completes (.spost t thr) s (fun s' => s'.thread t thr = next ∧
         TileOnly s s' t thr (fun x => { x with sems := smSet x.sems f.fn (count + amount) }))) ∧
     (f.op = 0x3A → f.gd = 0 → f.ga = 0 → amount < 65536 → 0 < amount → (s.tile t).semOrder = [] →
       (amount ≤ count → Completes (.swait t thr) s (fun s' => s'.thread t thr = next ∧
         TileOnly s s' t thr (fun x => { x with sems := smSet x.sems f.fn (count - amount) }))) ∧
       (count < amount → Completes (.swait t thr) s (fun s' =>
         s'.thread t thr = { next with st := .sync, wait := .sem f.fn amount } ∧
         TileOnly s s' t thr (fun x => { x with semOrder := [thr] })))) ∧
     (f.op = 0x3B → f.ga = 0 → f.imm = 0 →
       (f.fn = 0 → LeavesThread (.tread t thr) s t thr (h.wrote f.gd s.tick.count)) ∧
       (f.fn = 1 → Completes (.tread t thr) s (fun s' =>
         s'.thread t thr = h.wrote f.gd (Config.freeValue s.freeCount) ∧ s'.freeCount = s.freeCount + 1)) ∧
       (f.fn = 2 → LeavesThread (.tread t thr) s t thr (h.wrote f.gd (BitVec.ofNat 64 t))) ∧
       (f.fn = 3 → LeavesThread (.tread t thr) s t thr (h.wrote f.gd (BitVec.ofNat 64 thr))) ∧
       (∀ k, (s.tile t).task = some k →
         (f.fn = 4 → LeavesThread (.tread t thr) s t thr (h.wrote f.gd k.launch.start)) ∧
         (f.fn = 5 → LeavesThread (.tread t thr) s t thr
           (h.wrote f.gd (k.launch.start + BitVec.ofNat 64 k.launch.span - 1)))) ∧
       ((s.tile t).task = none → f.fn = 4 ∨ f.fn = 5 → Completes (.tread t thr) s (fun s' =>
         s'.thread t thr = h.wrote f.gd (Config.freeValue s.freeCount) ∧ s'.freeCount = s.freeCount + 1)))) ∧
  (∀ (s : State) (t thr : Nat) (f : SWord), f.Fits → Issues s t thr f.word → f.guard s t thr = true →
     f.i = false → f.imm = 0 →
     let h := s.thread t thr
     let next := { h with pc := h.pc + 8 }
     let firmware := (s.tile t).firmware
     let endsOk := fun (s' : State) => ∃ k, (s'.tile t).task = some k ∧ k.phase = .ending ∧ k.code = 0
     (f.op = 0x3C → f.gd = 0 → f.gb = 0 →
       (f.fn = 0 → f.ga = 0 → LeavesThread (.twait t thr) s t thr { next with st := .sync, wait := .tickEdge }) ∧
       (f.fn = 1 → f.ga = 0 → LeavesThread (.twait t thr) s t thr { next with st := .sync, wait := .guardEdge }) ∧
       (f.fn = 2 → (s.g t thr f.ga).toNat ≤ s.tick.count.toNat → LeavesThread (.twait t thr) s t thr next) ∧
       (f.fn = 2 → s.tick.count.toNat < (s.g t thr f.ga).toNat →
         LeavesThread (.twait t thr) s t thr { next with st := .sync, wait := .tickCount (s.g t thr f.ga) })) ∧
     (f.op = 0x3D → f.gd = 0 → f.ga = 0 → f.gb = 0 → f.fn = 0 → firmware = false →
       ((∃ k, k < 8 ∧ k ≠ thr ∧ (s.thread t k).st ≠ .off) →
         LeavesThread (.texit t thr) s t thr { h with st := .off, wait := .none }) ∧
       ((∀ k, k < 8 → k ≠ thr → (s.thread t k).st = .off) → Completes (.texit t thr) s endsOk)) ∧
     (f.op = 0x3E → f.gd = 0 → f.ga = 0 → f.gb = 0 → f.fn = 0 → firmware = false → Completes (.tend t thr) s endsOk) ∧
     (f.gd = 0 → f.ga = 0 → f.gb = 0 → f.fn = 0 → firmware = true → s.bup.resets = [] → s.bup.exiting = false →
       let idle := fun (s' : State) => (s'.tile t).firmware = false ∧ (s'.thread t 0).st = .off ∧ s'.mem = s.mem
       (f.op = 0x3D → Completes (.texit t thr) s idle) ∧ (f.op = 0x3E → Completes (.tend t thr) s idle) ∧
       (f.op = 0xF2 → f.pg = 0 → f.pn = false → Completes (.fend t thr) s idle)) ∧
     (f.op = 0xF0 → f.gb = 0 → f.fn = 0 → f.pg = 0 → f.pn = false → firmware = true → (s.g t thr f.ga).toNat < 0x10000 → (s.g t thr f.ga).toNat % 8 = 0 →
       LeavesThread (.fget t thr) s t thr (h.wrote f.gd (s.tileRegRead t (s.g t thr f.ga).toNat))) ∧
     (f.op = 0xF1 → f.gd = 0 → f.fn = 0 → f.pg = 0 → f.pn = false → firmware = true → (s.g t thr f.ga).toNat = 0x1018 → (s.g t thr f.gb).getLsbD 63 = true →
       Completes (.fset t thr) s (fun s' => (s'.tile t).arrErr = (s.tile t).arrErr &&& ~~~(1#64 <<< 63) ∧ s'.mem = s.mem ∧ s'.thread t thr = next)))

/-! ### Tasks (06 R243 to R262) -/

/-- R247 to R249, R254, R266, R268, R601, R633: a launch that names the tile's partition at its current epoch joins the tile's queue of
four; one that reaches a tile in reset, an unusable tile, or a tile that is not in its partition is answered with a report of its
code; the last is the tile's own report, which it counts and, as its first non-OK end, records. -/
def Obligations.LaunchesAreQueuedOrReported : Prop :=
  ∀ (s : State) (id : Nat) (p : Packet) (l : Launch), Delivered s id p (.launch l) →
    let t := p.dst.router
    let rejected := fun (code : Nat) => Completes (.launch id) s (fun s' =>
      s' = { s with net := s'.net, routers := s'.routers, integ := s'.integ } ∧ smGet s'.net.pkts id = none ∧
      Sent s' (tileIo l.ioDie t) (.report { ioDie := l.ioDie, ring := l.ring, seq := l.seq, code }))
    (s.tileOpen t = true → s.launchFresh t l = true → (s.tile t).queue.length < 4 →
      Completes (.launch id) s (fun s' => s' = { s with net := s'.net, tiles := s'.tiles } ∧ smGet s'.net.pkts id = none ∧
        (∀ u, u ≠ t → s'.tile u = s.tile u) ∧ s'.tile t = { s.tile t with queue := (s.tile t).queue ++ [l] })) ∧
    (id < s.net.nextId →
      ((s.ctl t).inReset = true → rejected 0x0D) ∧
      ((s.ctl t).inReset = false → s.tileOpen t = false → rejected 6) ∧
      (s.tileOpen t = true → s.launchFresh t l = false → Completes (.launch id) s (fun s' =>
        s' = { s with net := s'.net, routers := s'.routers, integ := s'.integ, tiles := s'.tiles, freeCount := s'.freeCount } ∧
        smGet s'.net.pkts id = none ∧ (∀ u, u ≠ t → s'.tile u = s.tile u) ∧
        s'.tile t = { s.tile t with seqCtr := (s'.tile t).seqCtr, fault := (s'.tile t).fault, faultAddr := (s'.tile t).faultAddr } ∧
        smGetD (s'.tile t).seqCtr 0x118 0 = satAdd 48 (smGetD (s.tile t).seqCtr 0x118 0) 1 ∧
        ((s.tile t).fault.getLsbD 63 = true → (s'.tile t).fault = (s.tile t).fault) ∧
        ((s.tile t).fault.getLsbD 63 = false → bits (s'.tile t).fault.toNat 55 50 = 0x0C) ∧
        ∃ r, Sent s' (tileIo l.ioDie t) (.report r) ∧ r.ring = l.ring ∧ r.seq = l.seq ∧ r.code = 0x0C ∧ r.startTick = 0)))

/-- R59, R249, R250, R253, R259: the head launch of an idle tile starts once its start tick has come, and for a Hard partition
the tick state and the barrier allow: the task is preparing with a start report sent, its flags, histogram and threads cleared,
and another tenant's loft, near memory and program zeroed; nothing outside the tile's slot changes. A launch of an aborting
partition whose deadline has passed is reported DEADLINE_ABORT and never starts. -/
def Obligations.TaskStartsFromTheQueue : Prop :=
  ∀ (s : State) (t : Nat) (l : Launch) (rest : List Launch),
    let x := s.tile t
    x.queue = l :: rest → x.active = false → x.firmware = false → (s.ctl t).power = .awake →
    l.start.toNat ≤ s.tick.count.toNat → s.launchFresh t l = true →
    ((s.tickCfg l.part).hard = true → s.hardMayStart = true ∧ s.tileHeld t = false) →
    (s.pastGuard l.deadline = false → Completes (.taskStart t) s (fun s' =>
      let y := s'.tile t
      y.task = some { launch := l, epoch := l.epoch } ∧ y.queue = rest ∧ y.threads = [] ∧ y.flags = 0 ∧ y.hist = [] ∧
      y.prevTenant = some l.tenant ∧ y.seqTask = l.word ∧ Sent s' (tileIo l.ioDie t) (.startReport l.ring l.seq) ∧
      (∀ u, u ≠ t → s'.tile u = s.tile u) ∧
      ((x.prevTenant = none ∨ x.prevTenant = some l.tenant) → s'.mem = s.mem ∧ y.progTag = x.progTag) ∧
      (∀ q, x.prevTenant = some q → q ≠ l.tenant → y.progTag = 0 ∧
        (∀ o, o < loftBytes → memGet s'.mem (loftAddr t o) = 0) ∧ (∀ o, o < 0x20000 → memGet s'.mem (nearAddr t 0 + o) = 0) ∧
        (∀ o, 0x2000 ≤ o → o < 0x10000 → memGet s'.mem (instAddr t o) = 0)) ∧
      (∀ a, (a < tileBase t ∨ tileBase t + 0x200000 ≤ a) → memGet s'.mem a = memGet s.mem a) ∧
      s'.parts = s.parts ∧ s'.tick = s.tick ∧ s'.accesses = s.accesses)) ∧
    (s.pastGuard l.deadline = true → s.aborts l.part = true → Completes (.taskStart t) s (fun s' =>
      s'.tile t = { x with queue := rest, seqCtr := (s'.tile t).seqCtr, fault := (s'.tile t).fault, faultAddr := (s'.tile t).faultAddr } ∧
      s'.mem = s.mem ∧ ∃ r, Sent s' (tileIo l.ioDie t) (.report r) ∧ r.ring = l.ring ∧ r.seq = l.seq ∧ r.code = 1 ∧ r.startTick = 0))

/-- R236, R243, R244, R250, R253, R262: a prepared task gives every thread the entry as pc, the thread number and four arguments in
g0 to g4, and makes the threads of its mask Ready; the sequencer activates the next Ready thread in ascending order; a load's answer puts the datum,
extended, into its register and makes the thread Ready, and a failed one ends the task; firmware enters at 0x0040 on thread 0
of an idle tile in a guard window. -/
def Obligations.ThreadsBecomeReadyAndActive : Prop :=
  ∀ (s : State) (t : Nat) (k : Task), (s.tile t).task = some k →
    let x := s.tile t
    let alone := fun (s' : State) => ∀ u, u ≠ t → s'.tile u = s.tile u
    (k.phase = .preparing → k.launch.load = false → k.launch.progTag ≠ 0 → k.launch.progTag = x.progTag →
      ∀ prog ctx : Option (List Byte), Completes (.taskPrepared t prog ctx) s (fun s' =>
        s' = { s with tiles := s'.tiles } ∧ alone s' ∧
        s'.tile t = { x with threads := (s'.tile t).threads, task := some { k with phase := .running, loaded := true } } ∧
        ∀ j, j < 8 → s'.thread t j = {
          st := if k.launch.mask.getLsbD j then .ready else .off
          pc := k.launch.entry.setWidth 64, g := indexed (BitVec.ofNat 64 j :: k.launch.args.take 4) })) ∧
    (k.phase = .running → x.rep = none → ∀ idle n : Nat, n < 8 →
      let first := if x.lastActive < 8 then x.lastActive + 1 else 0
      let i := (first + n) % 8
      (x.th i).st = .ready → (∀ m, m < n → (x.th ((first + m) % 8)).st ≠ .ready) →
      Completes (.threadSwitch t idle) s (fun s' =>
        s' = { s with tiles := s'.tiles, health := s'.health, funcs := s'.funcs, host := s'.host, hostMem := s'.hostMem } ∧ alone s' ∧
        s'.tile t = { x with threads := (s'.tile t).threads, lastActive := i, seqCtr := (s'.tile t).seqCtr } ∧
        s'.thread t i = { x.th i with st := .active } ∧
        ∀ j, j ≠ i → s'.thread t j = if (x.th j).st = .active then { x.th j with st := .ready } else x.th j)) ∧
    (∀ (thr : Nat) (m : Miss) (data : List Byte), (s.thread t thr).st = .miss → (s.thread t thr).miss = some m →
      (m.ans = some (.ok, data, false) → Completes (.missReturn t thr) s (fun s' =>
        s' = { s with tiles := s'.tiles } ∧ alone s' ∧ (s'.tile t).task = some k ∧
        s'.thread t thr = { s.thread t thr with
          st := x.readySt, wait := .none, miss := none,
          g := smSet (s.thread t thr).g m.gd (BitVec.ofInt 64 (bitsInt m.sext (8 * m.size) (ofLe (data.take m.size)))) })) ∧
      (m.ans = some (.busError, data, false) → x.firmware = false → k.phase = .running →
        Completes (.missReturn t thr) s (fun s' => ∃ k', (s'.tile t).task = some k' ∧ k'.phase = .ending ∧ k'.code = 6 ∧
          k'.fPc = m.pc.setWidth 16 ∧ k'.fAddr = m.addr))) ∧
    (∀ u, s.tick.inGuard = true → s.bup.grangerUp = true → (s.tile u).active = false → (s.tile u).firmware = false →
      (s.ctl u).power = .awake → Completes (.firmwareEntry u) s (fun s' => s' = { s with tiles := s'.tiles } ∧
        (∀ v, v ≠ u → s'.tile v = s.tile v) ∧ s'.tile u = { s.tile u with threads := (s'.tile u).threads, firmware := true } ∧
        s'.thread u 0 = { s.thread u 0 with st := .firmware, pc := 0x40, wait := .none, miss := none } ∧
        ∀ j, j ≠ 0 → s'.thread u j = s.thread u j))

/-- R64, R248, R256 to R258, R514, R524, R526: a task that has ended sends its report once its writes are acknowledged, and leaves the
tile idle with its threads Off; the start report lets the ring send its next launch; a miss notice counts a miss of its
partition and is posted for a Hard one; the completion report becomes the 64-byte record of the descriptor in host memory. -/
def Obligations.ReportsReachTheRing : Prop :=
  ∀ (s : State),
    (∀ (t : Nat) (k : Task), (s.tile t).task = some k → k.phase = .ending → s.mayReport t k = true → k.saves = false →
      (k.code = 0 → s.openTickets t = false) → s.killedOf t s.drained633 = none → k.ctxPhase = 0 →
      Completes (.taskReport t) s (fun s' => s'.mem = s.mem ∧ (s'.tile t).task = none ∧ (∀ e ∈ (s'.tile t).threads, e.2.st = .off) ∧
        ∃ r, Sent s' (tileIo k.launch.ioDie t) (.report r) ∧ r.ring = k.launch.ring ∧ r.seq = k.launch.seq ∧ r.code = k.code ∧
          r.flags = (s.tile t).flags ∧ r.fThread = k.fThread ∧ r.fUnit = k.fUnit ∧ r.fPc = k.fPc ∧ r.fAddr = k.fAddr ∧
          r.startTick = k.launch.start ∧ r.ctxSaved = false)) ∧
    (∀ (id r seq : Nat) (p : Packet) (x : Ring), Delivered s id p (.startReport r seq) → smGet s.rings r = some x →
      Completes (.startReport id) s (fun s' => s' = { s with net := s'.net, rings := s'.rings } ∧
        smGet s'.rings r = some { x with
          held := x.held.map (fun h => if h.seq = seq then { h with launchSent := false, st := .started } else h) })) ∧
    (∀ (id r seq part : Nat) (p : Packet) (x : Ring), Delivered s id p (.miss r seq part) → smGet s.rings r = some x →
      let counted := fun (s' : State) => smGetD s'.tick.miss part 0 = satAdd 48 (smGetD s.tick.miss part 0) 1 ∧
        ∀ q, q ≠ part → smGetD s'.tick.miss q 0 = smGetD s.tick.miss q 0
      ((s.tickCfg part).hard = false → Completes (.missNotice id) s (fun s' =>
        s' = { s with net := s'.net, tick := { s.tick with miss := s'.tick.miss } } ∧ counted s')) ∧
      ((s.tickCfg part).hard = true → (s.func x.port x.fn).hasEvents = true →
        ((s.func x.port x.fn).evWritten - (s.func x.port x.fn).evHead.toNat) % 2 ^ 32 < 2 ^ (s.func x.port x.fn).evLog2.toNat →
        Completes (.missNotice id) s (fun s' => counted s' ∧ (s'.func x.port x.fn).evWritten = (s.func x.port x.fn).evWritten + 1))) ∧
    (∀ (r id : Nat) (p : Packet) (q : TaskReport) (x : Ring) (h : Held), s.reportFor r = some id → Delivered s id p (.report q) →
      q.ring = r → q.extents = [] → smGet s.rings r = some x → x.held = [h] → h.seq = q.seq → x.destroying = none →
      (s.func x.port x.fn).st = .running →
      Completes (.completionReport r) s (fun s' => ∃ s1 h1, s1 = { s with net := s1.net } ∧ h1.bytes = h.bytes ∧ h1.seq = h.seq ∧
        Recorded s1 s' r x h1 (q.record p.src.router)))

/-! ### Streams (07 R269 to R319) -/

/-- R271 to R273, R278, R283 to R290, R298, R319: what each stream instruction leaves of its slot and its thread: SARM arms an idle
slot with the descriptor in the loft; SREARM starts the next use of a persistent one; SWAITB takes the next half and writes its
half word, or waits; SREL and SPUSH hand the oldest Taken half back to the engine; SSKIP moves an input on; SFLUSH waits for the
slot's writes; SSTOP makes the slot Idle and drops its reads; SSTAT reads the slot register. None changes memory. -/
def Obligations.StreamInstructionsMoveHalves : Prop :=
  ∀ (s : State) (t thr k gd ga gb : Nat), k < 32 → gd < 32 → ga < 32 → gb < 32 →
    let h := s.thread t thr
    let x := s.slot t k
    let i := x.relHalf
    let word := fun (op gd ga gb fn : Nat) => op * 2 ^ 56 + gd * 2 ^ 51 + ga * 2 ^ 46 + gb * 2 ^ 41 + k * 2 ^ 36 + fn * 2 ^ 32
    let onward := fun (s' : State) => s'.thread t thr = { h with pc := h.pc + 8 } ∧ s'.mem = s.mem ∧ ∀ u, u ≠ t → s'.tile u = s.tile u
    let keeps := fun (s' : State) => onward s' ∧ s'.accesses = s.accesses ∧ s'.net = s.net
    let a := (s.g t thr ga).toNat
    let d := Desc.ofBytes (s.loft t a 64)
    (Issues s t thr (word 0x50 0 ga 0 0) → s.tileHeld t = false → x.st = .idle → a % 64 = 0 → a + 64 ≤ loftBytes →
      s.loftBad t a 64 = false → descReserved (s.loft t a 64) = true → s.descOk t d = true → d.dir ≠ 2 →
      Completes (.sarm t thr) s (fun s' => onward s' ∧ s'.accesses = s.accesses ∧
        let y := s'.slot t k
        y.st = .active ∧ y.d = d ∧ y.use = 0 ∧ y.nextReq = 0 ∧ y.nextDel = 0 ∧
        (d.dir = 1 → y.h0.st = .free ∧ y.h1.st = .free ∧ s'.net = s.net) ∧
        (d.dir = 0 → y.h0.st = .engine ∧ y.h0.group = 0 ∧ y.h0.bytes = d.groupLen 0 * d.elem ∧ s'.net = s.net) ∧
        (d.dir = 3 → ∃ id p, smGet s'.net.pkts id = some p ∧ p.op = .linkCredit ∧ p.size = 2 ∧ p.dst = tileEnd d.peerTile ∧
          p.slot = d.peerSlot))) ∧
    (Issues s t thr (word 0x51 0 ga 0 0) → s.tileHeld t = false → x.st = .active → x.d.persistent = true → x.d.dir = 0 →
      x.takenCount = 0 → x.waiters = [] → s.descOk t { x.d with base := s.g t thr ga } = true →
      Completes (.srearm t thr) s (fun s' => onward s' ∧ s'.net = s.net ∧ let y := s'.slot t k
        y.st = .active ∧ y.d = { x.d with base := s.g t thr ga } ∧ y.use = satAdd 32 x.use 1 ∧ y.nextReq = 0 ∧ y.nextDel = 0 ∧
        ∀ b ∈ s'.accesses, b.issuer = .tile t → ∀ u g o f l, b.purpose = .streamRd k u g o f l → b.dropped = true)) ∧
    (Issues s t thr (word 0x52 gd 0 0 0) → x.waiters = [] →
      (x.st = .active → x.isInput = true → (x.half x.takeHalf).st = .ready → Completes (.swaitb t thr) s (fun s' =>
        s'.thread t thr = h.wrote gd (halfWord (decide (x.d.total ≤ x.nextDel) && (x.half (x.takeHalf + 1)).st != .ready) false
          (x.half x.takeHalf).bytes (x.d.halfOff x.takeHalf)) ∧ s'.mem = s.mem ∧
        s'.slot t k = { x.updHalf x.takeHalf (fun b => { b with st := .taken }) with takeHalf := (x.takeHalf + 1) % 2 })) ∧
      (x.st = .idle → Completes (.swaitb t thr) s (fun s' => s'.thread t thr = h.wrote gd (halfWord true false 0 0) ∧
        s'.mem = s.mem ∧ s'.slot t k = x)) ∧
      (x.st = .active → x.isInput = true → (x.half x.takeHalf).st ≠ .ready → x.nextDel < x.d.total →
        Completes (.swaitb t thr) s (fun s' => s'.slot t k = { x with waiters := [(thr, gd)] } ∧ s'.mem = s.mem ∧
          s'.thread t thr = { h with pc := h.pc + 8, st := .unit, wait := .half k gd }))) ∧
    (Issues s t thr (word 0x53 0 0 0 0) → x.st = .active → x.d.dir = 0 → (x.half i).st = .taken → x.nextDel < x.d.total →
      x.waiters = [] → Completes (.srel t thr) s (fun s' => keeps s' ∧ s'.slot t k =
        { x.setHalf i (x.d.filling x.nextGroup) with relHalf := (i + 1) % 2, nextGroup := x.nextGroup + 1 })) ∧
    (Issues s t thr (word 0x54 0 0 gb 0) → x.st = .active → x.isOutput = true → (x.half i).st = .taken → x.ticket = none →
      (s.g t thr gb).toNat = x.d.groupLen x.pushGroup * x.d.elem → (s.g t thr gb).toNat ≤ x.d.halfBytes →
      Completes (.spush t thr) s (fun s' => keeps s' ∧ s'.slot t k =
        { x.updHalf i (fun b => { b with st := .engine, bytes := (s.g t thr gb).toNat, group := x.pushGroup, thr, tent := false }) with
          relHalf := (i + 1) % 2 })) ∧
    (Issues s t thr (word 0x55 0 ga 0 0) → x.st = .active → x.d.dir = 0 → a % x.d.perHalf = 0 →
      (x.nextDel ≤ a → a < x.d.total → x.waiters = [] → x.h0.held = false → x.h1.held = false →
        Completes (.sskip t thr) s (fun s' => onward s' ∧ s'.net = s.net ∧ (s'.slot t k).st = .active ∧
          (s'.slot t k).nextDel = a ∧ (s'.slot t k).nextReq = a ∧ (s'.slot t k).faults = []))) ∧
    (Issues s t thr (word 0x56 0 0 0 0) → x.st = .active → x.isOutput = true →
      (s.slotWrites t k = false → LeavesThread (.sflush t thr) s t thr { h with pc := h.pc + 8 }) ∧
      (s.slotWrites t k = true → LeavesThread (.sflush t thr) s t thr { h with st := .unit, wait := .retry (.flushed k) })) ∧
    (Issues s t thr (word 0x57 0 0 0 0) → x.st = .active →
      (x.d.dir = 0 → x.tentGroup = none → x.waiters = [] → Completes (.sstop t thr) s (fun s' =>
        onward s' ∧ s'.net = s.net ∧ s'.slot t k = { early := x.early, arming := x.arming } ∧
        ∀ b ∈ s'.accesses, b.issuer = .tile t → ∀ u g o f l, b.purpose = .streamRd k u g o f l → b.dropped = true)) ∧
      (x.d.dir = 1 → x.draining = false → x.tentGroup = none → x.waiters = [] → Completes (.sstop t thr) s (fun s' => keeps s' ∧
        s'.slot t k = { x with st := .idle, h0 := { st := .free }, h1 := { st := .free } })) ∧
      (x.d.dir = 1 → x.draining = true → LeavesThread (.sstop t thr) s t thr { h with st := .unit, wait := .retry (.issued k) })) ∧
    (Issues s t thr (word 0x58 gd 0 0 0) → LeavesThread (.sstat t thr) s t thr (h.wrote gd (s.slotWord t k)))

/-- R274 to R276, R279, R302 to R306, R309: the engine issues an input slot's next read, of the bytes that R276 joins, with a tag of
the tile, or asks for the leaf that it misses; a half whose bytes have all arrived becomes Ready in order, and one that holds a
fault ends the task with the fault's code; the service answers a request by the walk of the tenant's tree, and its answer fills the
tile's cache or ends the task with a translation fault. -/
def Obligations.StreamEngineReadsAndTranslates : Prop :=
  ∀ (s : State) (t k : Nat) (task : Task), (s.tile t).task = some task → task.phase = .running →
    let x := s.slot t k
    let ten := task.launch.tenant
    (s.slotReady t k = true → x.d.dir = 0 → s.tileHeld t = false →
      ∀ (n l i' o' : Nat) (va : DWord), x.nextSpan = (va, n, l, i', o') →
      (∀ pa leaf r remote, s.slotXlate t k va needRead = .ok pa leaf → s.tileReq t .read pa n [] = some (r, remote) →
        (s.tile t).str.share (classOf .read remote.isSome) ≠ 0 → (∀ j, j < 32 → j ≠ k → s.slotReady t j = false) →
        Completes (.streamInject t k) s (fun s' => s'.mem = s.mem ∧ (s'.slot t k).nextReq = i' ∧ (s'.slot t k).reqOff = o' ∧
          (∃ b, s'.accesses = s.accesses ++ [b] ∧ b.issuer = .tile t ∧ b.held = false ∧ b.purpose = .streamRd k x.useId
            (x.nextReq / x.d.perHalf) (x.nextReq % x.d.perHalf * x.d.elem + x.reqOff) x.nextReq l) ∧
          ∃ id p, smGet s'.net.pkts id = some p ∧ p.op = .read ∧ p.addr = r.addr ∧ p.size = n ∧ p.issuer = .tile t)) ∧
      (s.slotXlate t k va needRead = .miss → x.xlate = false →
        Completes (.streamInject t k) s (fun s' => s'.mem = s.mem ∧ s'.accesses = s.accesses ∧ s'.slot t k = { x with xlate := true } ∧
          ∃ id p, smGet s'.net.pkts id = some p ∧ p.op = .read ∧ p.msg = .xlate (k + 8) ten va needRead ∧
            p.dst = tileIo task.launch.ioDie t))) ∧
    (∀ i, x.st = .active → x.d.dir = 0 → x.dueHalf = some i → (x.half i).held = false → (x.half i).bytes ≤ (x.half i).count →
      x.waiters = [] → ∀ late : Nat,
      (x.faults = [] → Completes (.streamReadResponse t k late) s (fun s' =>
        s'.mem = s.mem ∧ ((s'.slot t k).half i).st = .ready ∧ x.delivered < (s'.slot t k).delivered)) ∧
      (∀ f, x.groupFault (x.half i).group = some f → Completes (.streamReadResponse t k late) s (fun s' =>
        ∃ e, (s'.tile t).task = some e ∧ e.phase = .ending ∧ e.code = f.code ∧ e.faultSlot = some k))) ∧
    (∀ (id who tenant need d j : Nat) (va : DWord) (p : Packet), s.arrived id .read = some p → p.msg = .xlate who tenant va need →
      ifaceAt p.dst = .io d j → tlbFind (smGetD s.xsvc d []) tenant va.toNat = none →
      Completes (.translationRequest id) s (fun s' =>
        s' = { (s.walk tenant va).2 with net := s'.net, xsvc := s'.xsvc } ∧ ∃ q e, smGet s'.net.pkts q = some e ∧
          e.op = .readRsp ∧ e.dst = p.src ∧ e.msg = .xlateRsp who va (s.walk tenant va).1)) ∧
    (∀ (id who : Nat) (va : DWord) (p : Packet), s.arrived id .readRsp = some p → p.dst.router = t → p.tenant = ten →
      (∀ leaf, p.msg = .xlateRsp who va (some leaf) → Completes (.translationResponse id) s (fun s' =>
        s'.mem = s.mem ∧ (s'.tile t).str.tlb = tlbAdd (s.tile t).str.tlb leaf 64 ∧ (s'.tile t).task = some task)) ∧
      (p.msg = .xlateRsp who va none → who < 8 → (s.thread t who).wait = .retry (.xlate va) →
        Completes (.translationResponse id) s (fun s' =>
          ∃ e, (s'.tile t).task = some e ∧ e.phase = .ending ∧ e.code = 7 ∧ e.fThread = who ∧ e.fAddr = va)))

/-- R291 to R294, R308, R332 to R335, R603: what reaches a link's end from its peer at the current epoch: a half that matches is
written whole into the next loft half, and acknowledged unless it is tentative, when it is held; credits add up at the
producer; END before the whole use, and CLOSE, close the slot; ABORT after a delivered half ends the consumer's task with
STREAM_ABORT and its origin. -/
def Obligations.LinkPacketsReachTheirSlot : Prop :=
  ∀ (s : State) (id : Nat) (p : Packet) (task : Task) (q : Nat),
    let t := p.dst.router
    let k := p.slot
    let x := s.slot t k
    (s.tile t).task = some task → task.phase = .running → (s.ctl t).inReset = false → s.tileOpen t = true →
    s.partOfTile t = some q → s.partEpoch q = p.epoch → x.st = .active →
    (s.arrived id .linkHalf = some p → p.isBad = false → x.d.dir = 3 →
      s.peerOk t x p.src.router p.srcSlot p.group p.tenant = true →
      x.faults = [] → ∀ i, x.expectHalf = some i → (x.half i).bytes = p.size → p.data.length = p.size → Memory.wf s.mem = true →
      let a := loftAddr t (x.d.halfOff i)
      Completes (.linkHalf id) s (fun s' => s'.rd a p.size = p.data ∧
        (∀ b, (b < a ∨ a + p.size ≤ b) → memGet s'.mem b = memGet s.mem b) ∧
        (p.tentative = false → x.waiters = [] →
          ∃ n e, smGet s'.net.pkts n = some e ∧ e.op = .writeAck ∧ e.status = .ok ∧ e.dst = p.src ∧ e.tag = p.tag) ∧
        (p.tentative = true → s'.net.pkts = smErase s.net.pkts id ∧ ((s'.slot t k).half i).held = true ∧
          ((s'.slot t k).half i).tag = p.tag))) ∧
    (s.arrived id .linkCredit = some p → x.d.dir = 2 → s.peerOk t x p.src.router p.srcSlot p.group p.tenant = true →
      Completes (.linkCredit id) s (fun s' => s' = { s with net := s'.net, tiles := s'.tiles } ∧
        s'.slot t k = { x with credits := x.credits + p.size })) ∧
    (s.arrived id .linkToken = some p → x.peerIs p = true →
      (p.msg = .token .fin → x.d.dir = 3 →
        (x.nextDel < x.d.total → Completes (.linkEnd id) s (fun s' => (s'.slot t k).st = .closed ∧ (s'.slot t k).failed = true ∧
          s'.mem = s.mem)) ∧
        (x.d.total ≤ x.nextDel → Completes (.linkEnd id) s (fun s' => s'.tiles = s.tiles ∧ s'.mem = s.mem))) ∧
      (∀ origin code : Nat, p.msg = .token (.abort origin code) → x.d.dir = 3 →
        (0 < x.delivered → Completes (.linkAbort id) s (fun s' => ∃ e, (s'.tile t).task = some e ∧ e.phase = .ending ∧ e.code = 8 ∧
          e.origin = origin ∧ e.originCode = code)) ∧
        (x.delivered = 0 → x.nextDel < x.d.total → Completes (.linkAbort id) s (fun s' => (s'.slot t k).st = .closed ∧
          s'.mem = s.mem))) ∧
      (p.msg = .token .close → x.d.dir = 2 → Completes (.linkClose id) s (fun s' => (s'.slot t k).st = .closed ∧
        (s'.slot t k).failed = true ∧ s'.mem = s.mem)))

/-! ### Winnow (08 R320 to R352) -/

/-- R326 to R329, R332, R336, R344, R345: WPRED opens a free ticket and queues its job, WCHK queues the check of an open one; WTENT puts
a linked output into tentative mode under the ticket; WWAIT reads and frees a resolved ticket, or waits; WSPEC opens a speculation at
its restart pc; WPEEK reads 64 elements of the next undelivered half, which taints the thread if it is held; WBOUND writes the
bound, and with its test the skip bit. None writes memory. -/
def Obligations.WinnowInstructionsOpenReadAndBound : Prop :=
  ∀ (s : State) (t thr tk k gr vd ws : Nat), tk < 4 → k < 32 → gr < 32 → vd < 32 → ws ≤ 4 → s.tileW t = 28 + ws →
    let h := s.thread t thr
    let w := (s.tile t).win
    let x := s.slot t k
    let ticket := s.ticket t tk
    let word := fun (op r low : Nat) => op * 2 ^ 56 + tk * 2 ^ 54 + r * 2 ^ 49 + low
    let onward := fun (s' : State) => s'.thread t thr = { h with pc := h.pc + 8 } ∧ s'.mem = s.mem ∧ ∀ u, u ≠ t → s'.tile u = s.tile u
    let job : WinJob := { ticket := tk, off := (s.g t thr gr).toNat % 2 ^ 21, thr, pc := h.pc }
    (Issues s t thr (word 0x60 gr ws) → ticket.st = .free → w.predQ.length < 4 → Completes (.wpred t thr) s (fun s' => onward s' ∧
      (s'.tile t).win = { w with tickets := smSet w.tickets tk { st := .open }, predQ := w.predQ ++ [job] })) ∧
    (Issues s t thr (word 0x61 gr ws) → s.isBad (.ticket t tk) = false → ticket.st = .open → ticket.chkQueued = false → w.chkQ.length < 4 →
      Completes (.wchk t thr) s (fun s' => onward s' ∧
        (s'.tile t).win = { w with tickets := smSet w.tickets tk { ticket with chkQueued := true }, chkQ := w.chkQ ++ [job] })) ∧
    (Issues s t thr (word 0x62 0 (k * 2 ^ 36)) → x.st = .active → x.d.dir = 2 → x.d.halfBytes ≤ 16384 → x.ticket = none →
      Completes (.wtent t thr) s (fun s' => onward s' ∧ s'.slot t k = { x with ticket := some tk })) ∧
    (Issues s t thr (word 0x63 gr (2 ^ 32)) → s.isBad (.ticket t tk) = false →
      (ticket.st = .resolved → Completes (.wwait t thr) s (fun s' => s'.mem = s.mem ∧ s'.ticket t tk = {} ∧
        s'.thread t thr = h.wrote gr (BitVec.ofNat 64 (2 ^ 63 + b2n ticket.fail * 2 ^ 62 + b2n ticket.ended * 2 ^ 61
          + popcount (ticket.pred &&& ~~~ticket.chk) * 2 ^ 48 + popcount ticket.chk * 2 ^ 32 + popcount ticket.pred * 2 ^ 16
          + popcount ticket.repair)))) ∧
      (ticket.st = .open → LeavesThread (.wwait t thr) s t thr { h with st := .unit, wait := .retry (.ticket tk true) })) ∧
    (Issues s t thr (word 0x63 0 0) → s.isBad (.ticket t tk) = false → ticket.predDone = true → ticket.st = .open →
      LeavesThread (.wwait t thr) s t thr { h with pc := h.pc + 8 }) ∧
    (∀ imm : BitVec 32, Issues s t thr (0x65 * 2 ^ 56 + imm.toNat * 2 ^ 8) → h.spec = none →
      LeavesThread (.wspec t thr) s t thr { h with spec := some (h.pc + imm.signExtend 64 * 8), pc := h.pc + 8 }) ∧
    (∀ mt : Nat, mt ≤ 3 →
      Issues s t thr (0x64 * 2 ^ 56 + vd * 2 ^ 51 + gr * 2 ^ 46 + k * 2 ^ 36 + mt * 2 ^ 33) → h.spec ≠ none → x.peekable = true →
      let i := x.takeHalf
      let o := (s.g t thr gr).toNat % 2 ^ 21
      let a := x.d.halfOff i + o
      o + mtBytes mt ≤ x.d.halfBytes → a % mtBytes mt = 0 → s.loftBad t a (mtBytes mt) = false →
      Completes (.wpeek t thr) s (fun s' => s'.mem = s.mem ∧ s'.thread t thr = { h with
        v := smSet h.v vd ((unpackLanes mt (s.loft t a (mtBytes mt))).map (BitVec.ofNat 32 ·)),
        taint := (if (x.half i).held then [(k, i)] else []), pc := h.pc + 8 })) ∧
    (∀ (gd va vb vc gs n : Nat) (acc test : Bool), gd < 32 → va < 32 → vb < 32 → vc < 32 → gs < 32 → 1 ≤ n → n ≤ 2 ^ 24 →
      Issues s t thr (0x66 * 2 ^ 56 + gd * 2 ^ 51 + va * 2 ^ 46 + vb * 2 ^ 41 + vc * 2 ^ 36 + gs * 2 ^ 31 + (n - 1) * 2 ^ 7
        + b2n acc * 2 ^ 6 + b2n test * 2 ^ 5) → s.vgood t thr [va, vb, vc] →
      let p := boundSum (s.v t thr va) (s.v t thr vb) (s.v t thr vc)
      let U := if acc then (wAdd 24 ((s.g t thr gd).toNat % 2 ^ 32) 24 p 24 RUP 0).1 else p
      let v := (s.g t thr gs).toNat
      Completes (.wbound t thr) s (fun s' => s'.mem = s.mem ∧ s'.thread t thr = h.wrote gd
        (BitVec.ofNat 64 (b2n (test && boundSkip U (v % 2 ^ 32) (v / 2 ^ 32) n) * 2 ^ 63 + U))))

/-- R322 to R326, R329 to R335, R338, R339: an engine starts its oldest job with the descriptor as it reads then, when that is good, and
ends the task when it is not; the predictor writes the predicted mask, the checker the check mask and the repair mask (check without predicted), and the
ticket resolves, Fail exactly when a repair bit is set; COMMIT acknowledges a held half and takes it off every taint list, SQUASH
empties it and sends its tainted threads to their restart pc. Only the masks, and a squashed half's bytes, change in memory. -/
def Obligations.WinnowJobsResolveTickets : Prop :=
  ∀ (s : State) (t : Nat) (task : Task), (s.tile t).task = some task → task.phase = .running → Memory.wf s.mem = true →
    let w := (s.tile t).win
    (∀ (q : WinJob) (rest : List WinJob),
      let bytes := s.loft t q.off 64
      let nb := (Job.ofBytes bytes).nb
      (w.predQ = q :: rest → w.predRun = none → w.chkRun = none →
        (q.off % 64 = 0 → q.off + 64 ≤ loftBytes → s.loftBad t q.off 64 = false → (Job.ofBytes bytes).ok bytes (s.tileW t) false = true →
          Completes (.winnowJobStart t false) s (fun s' => s' = { s with tiles := s'.tiles } ∧ (s'.tile t).win = { w with
            predQ := rest, predRun := some { q with nb, desc := bytes }, tickets := smSet w.tickets q.ticket { s.ticket t q.ticket with nb } })) ∧
        (q.off % 64 ≠ 0 → Completes (.winnowJobStart t false) s (fun s' => ∃ e, (s'.tile t).task = some e ∧ e.phase = .ending ∧
          e.code = 2 ∧ e.fUnit = 5 ∧ e.fThread = q.thr % 8 ∧ e.fPc = q.pc.setWidth 16))) ∧
      (w.chkQ = q :: rest → w.chkRun = none → q.off % 64 = 0 → q.off + 64 ≤ loftBytes → s.loftBad t q.off 64 = false →
        (Job.ofBytes bytes).ok bytes (s.tileW t) true = true → ((s.ticket t q.ticket).nb = 0 ∨ (s.ticket t q.ticket).nb = nb) →
        Completes (.winnowJobStart t true) s (fun s' => s' = { s with tiles := s'.tiles } ∧
          (s'.tile t).win = { w with chkQ := rest, chkRun := some { q with nb, desc := bytes } }))) ∧
    (∀ q : WinJob,
      let j := Job.ofBytes q.desc
      let writes := fun (s' : State) (a : Nat) (bs : List Byte) => s'.rd (loftAddr t a) bs.length = bs ∧
        ∀ x, (x < loftAddr t a ∨ loftAddr t a + bs.length ≤ x) → memGet s'.mem x = memGet s.mem x
      (w.predRun = some q → s.jobErr t (s.tileW t) j false = none → Completes (.winnowPredictionDone t) s (fun s' =>
        let m := s.predMask t (s.tileW t) j
        writes s' j.mask (leBytes 32 m.toNat) ∧ (s'.tile t).win.predRun = none ∧
        s'.ticket t q.ticket = { s.ticket t q.ticket with predDone := true, pred := m })) ∧
      (w.chkRun = some q → (s.ticket t q.ticket).predDone = true → s.isBad (.ticket t q.ticket) = false →
        s.jobErr t (s.tileW t) j true = none → s.loftErr t j.mask 32 4 0 = none → Completes (.winnowCheckDone t) s (fun s' =>
          let c := s.chkMask t (s.tileW t) j
          let r := c &&& ~~~(s.ticket t q.ticket).pred
          writes s' (j.mask + 32) (leBytes 32 c.toNat ++ leBytes 32 r.toNat) ∧ (s'.tile t).win.chkRun = none ∧
          s'.ticket t q.ticket = { s.ticket t q.ticket with chk := c, repair := r, st := .resolved, fail := r != 0, ended := false }))) ∧
    (∀ (id part k : Nat) (p : Packet), k = p.slot → p.dst.router = t → s.arrived id .linkToken = some p → (s.ctl t).inReset = false →
      s.tileOpen t = true → s.partOfTile t = some part → s.partEpoch part = p.epoch →
      let x := s.slot t k
      let acked := fun (s' : State) => ∃ n e, smGet s'.net.pkts n = some e ∧ e.op = .writeAck ∧ e.status = .ok ∧
        e.dst = tileEnd x.d.peerTile ∧ e.tag = x.h0.tag
      x.peerIs p = true → x.st = .active → x.d.dir = 3 → x.h0.held = true → x.h1.held = false →
      (p.msg = .token .commit → (∀ thr, thr < 8 → (s.thread t thr).redirect = false) → Completes (.commit id) s (fun s' => acked s' ∧ (s'.slot t k).h0.held = false ∧
        ∀ thr, thr < 8 → (k, 0) ∉ (s'.thread t thr).taint)) ∧
      (p.msg = .token .squash → Completes (.squash id) s (fun s' => acked s' ∧ (s'.slot t k).h0 = x.h0.emptied ∧
        (∀ a, (a < loftAddr t (x.d.halfOff 0) ∨ loftAddr t (x.d.halfOff 0) + x.h0.bytes ≤ a) → memGet s'.mem a = memGet s.mem a) ∧
        ∀ thr pc, thr < 8 → (k, 0) ∈ (s.thread t thr).taint → (s.tile t).rep = none → (s.thread t thr).spec = some pc →
          (s'.thread t thr).pc = pc ∧ (s'.thread t thr).taint = [] ∧ (s'.thread t thr).spec = none)))

/-! ### The torus (09 R353 to R388) -/

/-- R34, R38, R39, R371, R373, R375, R392, R393, R603, R607: a request at its endpoint. A tile that is open and runs no firmware
serves its loft: a read answers the bytes, a write and an atomic change them and are acknowledged; a tile in reset answers ABSORBED
and one that is not open ABSENT, with no effect. A stack's controller makes a write visible and acknowledges it, and takes a
read's data, when the request, the first at its port, enters the queue. A multicast write reaches the loft of a tile of the named partition. Memory
changes in the stored bytes alone. -/
def Obligations.RequestsAreServedAtTheirEndpoint : Prop :=
  ∀ (s : State) (id : Nat) (op : PktOp) (p : Packet) (t : Nat), s.arrived id op = some p → p.msg = .none → Memory.wf s.mem = true →
    let answered := fun (s' : State) (o : PktOp) (st : Status) (data : List Byte) => ∃ n e, smGet s'.net.pkts n = some e ∧ e.op = o ∧
      e.status = st ∧ e.data = data ∧ e.dst = p.src ∧ e.issuer = p.issuer ∧ e.tag = p.tag
    let stores := fun (s' : State) (a : Nat) (bs : List Byte) => s'.rd a bs.length = bs ∧
      ∀ x, (x < a ∨ a + bs.length ≤ x) → memGet s'.mem x = memGet s.mem x
    let cmd := if op = .read then Instr.read id else if op = .write then .write id else .atomic id
    (op = .read ∨ op = .write ∨ op = .atomic → ifaceAt p.dst = .tile t →
      ((s.ctl t).inReset = true → Completes cmd s (fun s' => s'.mem = s.mem ∧ answered s' p.op.answer .absorbed [])) ∧
      ((s.ctl t).inReset = false → s.tileOpen t = false → Completes cmd s (fun s' => s'.mem = s.mem ∧ answered s' p.op.answer .absent [])) ∧
      (s.tileRefuses t p = none → (s.tile t).firmware = false → p.isBad = false → ∀ off, s.reach (gLocal p.addr) p.size = .loft t off →
        let a := loftAddr t off
        let old := s.loft t off p.size
        (op = .read → s.loftBad t off p.size = false → Completes (.read id) s (fun s' => s'.mem = s.mem ∧ answered s' .readRsp .ok old)) ∧
        (op = .write → Completes (.write id) s (fun s' => stores s' a (p.data.take p.size) ∧ answered s' .writeAck .ok [])) ∧
        (op = .atomic → atomicOk p.aop p.size a = true → s.loftBad t off p.size = false → Completes (.atomic id) s (fun s' =>
          stores s' a (leBytes p.size (atomicNew p.aop p.size (ofLe old) p.operand.toNat p.compare.toNat)) ∧
          answered s' .atomicRsp .ok (if p.ret then old else []))))) ∧
    (∀ k i off, ifaceAt p.dst = .mem k i → s.firstAtPort p = true → s.target (gLocal p.addr) = .stack k off → (s.stack k).serves = true →
      (s.stack k).st ≠ .selfRefresh → p.isBad = false → s.rtPart p = none → (s.stack k).rowUnscrubbed off = false →
      let c := ((s.stack k).place off).pch
      (s.pch k c).st ≠ .lost → (s.pch k c).queue.length < 64 →
      (op = .write → (s.stack k).scrubWaits p.issuer = false →
        Completes (.write id) s (fun s' => stores s' (stackBase k + off) (p.data.take p.size) ∧ answered s' .writeAck .ok [])) ∧
      (op = .read → Completes (.read id) s (fun s' => s'.mem = s.mem ∧ ∃ q, (s'.pch k c).queue = (s.pch k c).queue ++ [q] ∧
        q.pkt = { p with data := s.rd (stackBase k + off) p.size } ∧ q.rt = false))) ∧
    (op = .mcastWrite → t = p.dst.router → (s.ctl t).inReset = false → s.tileOpen t = true → (s.tile t).firmware = false →
      s.partOfTile t = some p.part → (s.partRec p.part).tenant = some p.tenant → s.partEpoch p.part = p.epoch → p.isBad = false →
      gLocal p.addr + p.size ≤ loftBytes → Completes (.mcastWrite id) s (fun s' =>
        stores s' (loftAddr t (gLocal p.addr)) (p.data.take p.size) ∧ answered s' .mcastAck .ok []))

/-- R236, R237, R363, R367, R369, R373, R597: an answer that is not late ends its access and frees its tag. A load's or atomic's
answer waits in its thread's miss register; a store's OK changes nothing of the task, another status ends it with BUS_ERROR at the
store's pc and address; a multicast counts its acknowledgements; an access without an answer for 2 ms ends with a bus error; an
answer whose access has ended is discarded. -/
def Obligations.AnswersEndTheirAccess : Prop :=
  ∀ (s : State) (a : Access) (t : Nat) (k : Task), s.lateAnswer a = false →
    let answer := fun (id : Nat) (op : PktOp) (p : Packet) => s.arrived id op = some p ∧ p.msg = .none ∧ p.isBad = false ∧
      s.access p.issuer p.tag = some a ∧ a.uid = p.uid
    let freed := fun (s' : State) => s'.mem = s.mem ∧ ∀ b ∈ s'.accesses, ¬ (b.issuer = a.issuer ∧ b.tag = a.tag)
    (a.issuer = .tile t → a.req.reread = false → a.dropped = false → (s.tile t).task = some k → k.phase = .running →
      (s.tile t).firmware = false →
      (∀ thr m, a.purpose = .miss thr → (s.thread t thr).miss = some m →
        let holds := fun (s' : State) (st : Status) (data : List Byte) => freed s' ∧
          (s'.thread t thr).miss = some { m with ans := some (st, data, false) } ∧ (s'.tile t).task = some k
        (∀ id p, answer id .readRsp p → Completes (.readRsp id) s (fun s' => holds s' p.status p.data)) ∧
        (∀ id p, answer id .atomicRsp p → Completes (.atomicRsp id) s (fun s' => holds s' p.status p.data)) ∧
        (∀ i, s.accesses[i]? = some a → a.held = false → a.req.op = .read →
          Completes (.accessTimeout i) s (fun s' => holds s' .busError []))) ∧
      (∀ thr pc va id p, a.purpose = .store thr pc va → answer id .writeAck p →
        (p.status = .ok → Completes (.writeAck id) s (fun s' => freed s' ∧ (s'.tile t).task = some k)) ∧
        (p.status ≠ .ok → Completes (.writeAck id) s (fun s' => ∃ e, (s'.tile t).task = some e ∧ e.phase = .ending ∧ e.code = 6 ∧
          e.fThread = thr % 8 ∧ e.fUnit = 6 ∧ e.fPc = pc.setWidth 16 ∧ e.fAddr = va)))) ∧
    (∀ id p, answer id .mcastAck p → 2 ≤ a.mcDue → Completes (.mcastAck id) s (fun s' => s'.mem = s.mem ∧
      ∃ b, s'.access a.issuer a.tag = some b ∧ b.mcDue = a.mcDue - 1 ∧
        (p.status = .ok → b.mcOk = a.mcOk + 1 ∧ b.mcRefused = a.mcRefused) ∧
        (p.status ≠ .ok → b.mcOk = a.mcOk ∧ ∃ u c, b.mcRefused = some (u, c) ∧ u ≤ p.src.router ∧
          ∀ v d, a.mcRefused = some (v, d) → u ≤ v))) ∧
    (∀ (id : Nat) (op : PktOp) (p : Packet), s.arrived id op = some p → p.msg = .none →
      (∀ b, s.access p.issuer p.tag = some b → b.uid ≠ p.uid) →
      (op = .readRsp → Sys2Proof.Machine.exec (.readRsp id) s = .next (s.dropPkt id)) ∧
      (op = .writeAck → Sys2Proof.Machine.exec (.writeAck id) s = .next (s.dropPkt id)) ∧
      (op = .atomicRsp → Sys2Proof.Machine.exec (.atomicRsp id) s = .next (s.dropPkt id)) ∧
      (op = .mcastAck → Sys2Proof.Machine.exec (.mcastAck id) s = .next (s.dropPkt id)))

/-- R353 to R355, R359, R363, R368, R379, R387: a unicast packet at the head of its buffer whose output port serves it and whose next
buffer has room moves to the neighbour in x, then in y, on the shorter way, with the virtual channel of R355, or, at its last router,
to the interface; one whose two routing copies are damaged is sunk. Memory is unchanged. Writing TOR_GL_CTRL of a probe that is off
sets it. -/
def Obligations.PacketsMoveOneHop : Prop :=
  (∀ (s : State) (id : Nat) (p : Packet) (d port : Nat) (damage : Damage) (cycle : Nat),
    smGet s.net.pkts id = some p → id < s.net.nextId → p.dests = [d] → p.pos < 2304 → d < 2304 → p.op ≠ .mcastWrite →
    s.mayHop p = true → s.served p port = true →
    let route := p.route ^^^ damage.route
    let copy := p.copy ^^^ damage.copy
    (p.pos ≠ d → hopPort p.pos d = some port →
      (route = 0 ∨ copy = 0 → damage.data = [] → Completes (.packetForward id damage cycle) s (fun s' =>
        s'.mem = s.mem ∧ (∃ n, smGet s'.net.pkts id = some { p with
          pos := neighbour p.pos port, inPort := oppositePort port, vc := hopVc p.pos port p.inPort p.vc, ord := n, route, copy
          opBad := p.opBad || damage.opcode }) ∧
        (tileX p.pos ≠ tileX d → port = if (tileX d + 48 - tileX p.pos) % 48 ≤ 24 then 0 else 1) ∧
        (tileX p.pos = tileX d → port = if (tileY d + 48 - tileY p.pos) % 48 ≤ 24 then 2 else 3))) ∧
      (route ≠ 0 → copy ≠ 0 → Completes (.packetForward id damage cycle) s (fun s' =>
        s'.mem = s.mem ∧ smGet s'.net.pkts id = none))) ∧
    (p.pos = d → port = p.dst.port → 4 ≤ port → p.opBad = false → damage.opcode = false → damage.data = [] →
      Completes (.packetForward id damage cycle) s (fun s' =>
        s'.mem = s.mem ∧ ∃ n, smGet s'.net.pkts id = some { p with out := true, ord := n, route, copy }))) ∧
  (∀ (s : State) (a : Agent) (d : Nat) (v : Word), clusterFirst (tileCluster d) = d → Writable s a (tileBlock d + 0x8200) →
      (s.router d).glCtrl.getLsbD 0 = false → v.getLsbD 1 = false → Completes (.gleanerEnable a d v) s (fun s' =>
        s' = { s.updRouter d (fun r => { r with glCtrl := v &&& 0xFFF }) with answer := .ok }))

/-! ### The Granary (10 R389 to R426) -/

/-- R394, R396 to R398, R401, R415: a pseudo-channel performs the one access that its queue holds, opens its row and answers a read
with its data, or with a bus error when the data cannot be corrected (`eccAt`: what the stack holds of the bytes); a refresh is issued, or postponed with a credit of at most 4
while real-time work is queued (or, the model's choice of log entry 125, while the pseudo-channel recovers), and an owed one repaid; the neighbour-refresh budget grows to 16; a row closes; a stack above
85 °C is hot until it is at 80 °C or less. -/
def Obligations.PseudoChannelsServeAndRefresh : Prop :=
  ∀ (s : State) (k c : Nat),
    let x := s.stack k
    let p := s.pch k c
    let only := fun (s' : State) (q : Pch) => s' = { s with hbm := s'.hbm } ∧ s'.pch k c = q ∧ ∀ j, j ≠ c → s'.pch k j = s.pch k j
    (∀ (q : PchReq) (aged ecc : Nat), x.serves = true → x.st ≠ .selfRefresh → p.st = .inService → p.queue = [q] → q.scrubWait = false →
      q.rt = false → 0 < p.budget → aged ≤ q.order → q.pkt.op = .read → ecc ≤ 2 →
      let worst := max ecc (s.eccAt (stackBase k + s.reqOff q) q.pkt.size)
      Completes (.pchAccess k c aged ecc) s (fun s' =>
        s'.mem = s.mem ∧ (s'.pch k c).queue = [] ∧ (∃ n, smGet (s'.pch k c).openRow q.bank = some (q.row, n)) ∧
        ∃ n e, smGet s'.net.pkts n = some e ∧ e.op = .readRsp ∧ e.dst = q.pkt.src ∧ e.tag = q.pkt.tag ∧
          (worst < 2 → e.status = .ok ∧ e.data = q.pkt.data) ∧ (worst = 2 → e.status = .busError))) ∧
    (x.clocked = true →
      (p.st = .inService → p.rtQueued = false → Completes (.refreshDue k c) s (fun s' => only s' p.refresh)) ∧
      (p.st = .inService → p.rtQueued = true → p.credit < 4 →
        Completes (.refreshDue k c) s (fun s' => only s' { p with credit := p.credit + 1 })) ∧
      (p.st = .inService → p.rtQueued = true → 4 ≤ p.credit → Completes (.refreshDue k c) s (fun s' => only s' p.refresh)) ∧
      (p.st = .recentring → Completes (.refreshDue k c) s (fun s' => only s' { p with credit := min 4 (p.credit + 1) })) ∧
      (p.st = .inService → p.rtQueued = false → 0 < p.credit → Completes (.refreshRepay k c) s (fun s' => only s' { p.refresh with credit := p.credit - 1 })) ∧
      Completes (.nrefBudgetGain k c) s (fun s' => only s' { p with budget := min 16 (p.budget + 1) }) ∧
      (∀ temp : Byte, Completes (.stackTempRead k temp) s (fun s' => s' = { s with hbm := s'.hbm } ∧ s'.stack k = { x with
        temp, maxTemp := (if x.maxTemp.toNat < temp.toNat then temp else x.maxTemp), hot := decide (85 < temp.toNat) || (x.hot && decide (80 < temp.toNat)) }))) ∧
    (∀ bank, Completes (.rowClose k c bank) s (fun s' => only s' { p with openRow := smErase p.openRow bank }))

/-- R402 to R410, R413, R414, R426: training leaves a pseudo-channel with an eye in every lane in service, a bad one lost, and the stack
Failed if its command interface does not train; re-centring, where R50 and R403 allow it, writes the delays found, each within 8 taps
of the old; recovery centres a pseudo-channel whose lanes
all have an eye again, and loses it when the redundant lanes do not suffice; a lost one is remapped with its spare blocks zeroed,
in force from the next guard window; self-refresh keeps the kept segments, and waking re-centres every pseudo-channel in service and
scrubs the other segments row by row; a reservation is
taken when capacity admits it. -/
def Obligations.StacksTrainRemapAndSleep : Prop :=
  ∀ (s : State) (a : Agent) (k c : Nat),
    let x := s.stack k
    let p := s.pch k c
    let stack := fun (s' : State) (y : Stack) => s' = { s with hbm := s'.hbm } ∧ s'.stack k = y
    let wrote := fun (s' : State) (y : Stack) => s' = { s with hbm := s'.hbm, answer := .ok } ∧ s'.stack k = y
    (∀ sweeps, s.bup.phase = 3 → k < s.part.nStacks → x.st = .untrained →
      Completes (.granaryTraining k false sweeps) s (fun s' => stack s' { x with st := .failed }) ∧
      Completes (.granaryTraining k true sweeps) s (fun s' => s' = { s with hbm := s'.hbm } ∧ (s'.stack k).st = .running ∧ ∀ j, j < 64 →
        let good := (smGetD s.part.pchGood k (BitVec.allOnes 64)).getLsbD j
        (s'.pch k j).st = if good then (if (List.range 4).all (laneEye (smGetD sweeps j [])) then .inService else .recentring) else .lost)) ∧
    (∀ rd wd : BitVec 28, s.mayRecentre k c = true →
      (within8 p.rdelay rd = true → within8 p.wdelay wd = true → Completes (.recentre k c true rd wd) s (fun s' =>
        s' = { s with hbm := s'.hbm } ∧ (s'.stack k).recentred = x.recentred + 1 ∧ s'.pch k c = { p with
          rdelay := rd, wdelay := wd, centred := x.temp, centredTick := s.tick.count, overdue := false })) ∧
      Completes (.recentre k c false rd wd) s (fun s' =>
        s' = { s with hbm := s'.hbm } ∧ (s'.stack k).recentred = x.recentred + 1 ∧ s'.pch k c = { p with st := .recentring })) ∧
    (p.st = .recentring → ∀ first second : List (BitVec 128),
      ((List.range 4).all (laneEye first) = true → Completes (.trainingRecovery k c first second) s (fun s' =>
        s' = { s with hbm := s'.hbm } ∧ s'.pch k c = { p with
          st := .inService, rdelay := delays first 0, wdelay := delays first 4, centred := x.temp, centredTick := s.tick.count, overdue := false })) ∧
      (2 < smGetD x.spares (c / 2) 0 + ((List.range 4).filter (fun b => !laneEye first b)).length → (List.range 4).all (laneEye first) = false →
        Completes (.trainingRecovery k c first second) s (fun s' => s'.mem = s.mem ∧ (s'.pch k c).st = .lost ∧ (s'.pch k c).queue = []))) ∧
    (x.clocked = true → p.st = .inService → p.overdue = false → s.bup.grangerUp = true →
      Completes (.recentreOverdue k c) s (fun s' => s'.pch k c = { p with overdue := true } ∧
        s' = { s with hbm := s'.hbm, funcs := s'.funcs, host := s'.host, hostMem := s'.hostMem })) ∧
    (Writable s a (grnBlock k + 0x28) → c < 64 → p.st = .lost → x.remap = .none → Completes (.remapRequest a k c) s (fun s' =>
      s'.stack k = { x with remap := .pending, remapArmed := false, remapPch := BitVec.ofNat 6 c, remapSel := BitVec.ofNat 6 c } ∧
      s' = { s with hbm := s'.hbm, mem := s'.mem, answer := .ok } ∧
      ∀ o, o < Config.stackBytes → memGet s'.mem (stackBase k + o) = if rawPch o = c then 0 else memGet s.mem (stackBase k + o))) ∧
    (s.tick.inGuard = true → x.remap = .pending → x.remapArmed = true → Completes (.remapActivate k) s (fun s' => stack s' { x with remap := .active })) ∧
    (Writable s a (grnBlock k + 0x20) →
      (s.anyBusy = false → x.clocked = true → x.unscrubbed = [] → (∀ e ∈ x.pchs, e.2.queue = []) →
        Completes (.pasrEnter a k) s (fun s' => wrote s' { x with
          kept := x.keep, st := .selfRefresh, pchs := x.pchs.map (fun e => (e.1, { e.2 with openRow := [] })) })) ∧
      (x.st = .selfRefresh → Completes (.pasrExit (some a) k) s (fun s' =>
        s' = { s with hbm := s'.hbm, freeCount := s'.freeCount, answer := .ok } ∧
        s'.stack k = { x with
          pchs := (s'.stack k).pchs, ctr := (s'.stack k).ctr
          unscrubbed := if x.kept.toNat < 8 then (List.range 15259).drop (x.kept.toNat * 8000000000 / 0x400000) else []
          st := if x.kept.toNat < 8 then .scrubbing else .running } ∧
        ∀ j q, smGet x.pchs j = some q → ∃ q', smGet (s'.stack k).pchs j = some q' ∧ q' =
          if q.st = .inService then q.recentred q'.rdelay q'.wdelay x.temp s.tick.count else q))) ∧
    (∀ r rest, x.st = .scrubbing → x.unscrubbed = r :: rest → r ∉ rest → (∀ e ∈ x.pchs, ∀ q ∈ e.2.queue, q.scrubWait = false) →
      Completes (.scrubRow k) s (fun s' => s' = { s with hbm := s'.hbm, mem := s'.mem, bad := s'.bad } ∧
        s'.stack k = { x with unscrubbed := rest, st := if rest.isEmpty then .running else .scrubbing } ∧
        ∀ o, memGet s'.mem o = if stackBase k + max (r * 0x400000) (x.kept.toNat * 8000000000) ≤ o ∧
          o < stackBase k + min ((r + 1) * 0x400000) Config.stackBytes then 0 else memGet s.mem o)) ∧
    (∀ v : Word, Writable s a (grnBlock k + 0x400 + 8 * c) → c < 64 → s.partBusy c = false →
      let rate := v.toNat % 2048
      let burst := bits v.toNat 25 16
      let r := smGetD x.resv c {}
      64 * (x.resvSum - r.rate.toNat + rate) ≤ x.cap64 → (rate = 0 ∨ 4 ≤ burst) →
      Completes (.reservationWrite a k c v) s (fun s' => wrote s' { x with
        resv := smSet x.resv c ⟨BitVec.ofNat 11 rate, BitVec.ofNat 10 burst, min r.tokens (burst * 1024 * 65536)⟩ }))

/-! ### The fabric (11 R427 to R475) -/

/-- R429, R431 to R435, R451, R467, R478, R479, R486: a frame for another module leaves, one hop older, in blocks of its port: an ordered
one by the ordered path of its table entry, one lane up where the entry says so, an unordered one by the adaptive port with the most
credit, or, where no adaptive port has credit for it, by the ordered path in lane 0; a request without an entry is answered with a
bus error; a block that the decoder finds clean and that is next in sequence is accepted with the frame that its units carry, of
which a die that is not enabled takes LINK_HELLO alone; a duplicate or a bad one brings nothing; the first hello makes a training port
Up. -/
def Obligations.FramesTakeTheirRoute : Prop :=
  ∀ (s : State) (id q up : Nat) (p : Parcel),
    let f := p.frame
    let r := Route.ofWord (smGetD s.fab.routing f.dst 0).toNat
    let g := { f with hops := f.hops + 1 }
    smGet s.fab.parcels id = some p → id < s.fab.nextParcel → p.inPort = some up →
    (f.routed = true → f.dst ≠ s.ownId → s.isBad (.table 0 f.dst) = false → f.hops < 64 →
      (r.valid = true → f.hdrBad = false →
        let sent := fun (s' : State) (port lane : Nat) => s' = { s with fab := s'.fab, links := s'.links, freeCount := s'.freeCount } ∧
          s'.fab.parcels = smErase s.fab.parcels id ∧ Transmitted s s' port { g with lane }
        (∀ higher : Bool, s.orderedPort f.dst r = some (q, higher) →
          (f.op.ordered = true → f.lane < 3 → s.mustWait id p = false →
            let lane := if higher then f.lane + 1 else f.lane
            s.Takes q { g with lane } → Completes (.frameForward id) s (fun s' => sent s' q lane)) ∧
          (f.op.ordered = false → f.lane = 4 → (∀ a ∈ s.adaptPorts r, s.hasCredit a f = false) →
            let lane := if higher then 1 else 0
            s.Takes q { g with lane } → Completes (.adaptiveEscape id) s (fun s' => sent s' q lane))) ∧
        (f.op.ordered = false → f.lane = 4 → s.adaptPort r g = some q → s.Takes q g →
          Completes (.frameForward id) s (fun s' => sent s' q 4))) ∧
      (r.valid = false → f.op.isRequest = true → Completes (.frameForward id) s (fun s' => s' = { s with fab := s'.fab } ∧
        smGet s'.fab.parcels id = none ∧ Queued s' none p.die { f.reply .busError [] with src := f.dst }))) ∧
    (∀ (b : Block) (e : Frame) (errors : List (Nat × Nat)) (arrival : Nat) (times : EchoTimes), (s.link q).phase = .running →
      b.units = .head e :: List.replicate e.dataUnits .data → e.malformed = false → (s.fport q).rx = [] →
      ((decodeBlock errors).2 = true → b.seq = (s.link q).accepted + 1 →
        Completes (.blockReceive q b true errors arrival times) s (fun s' =>
          (s'.link q).accepted = b.seq ∧ s'.mem = s.mem ∧
          ((s.kfb (q / 8)).enable = true ∨ e.op = .linkHello → Queued s' (some q) (q / 8) e) ∧
          ((s.kfb (q / 8)).enable = false → e.op ≠ .linkHello → s'.fab.parcels = s.fab.parcels))) ∧
      ((decodeBlock errors).2 = true → b.seq ≠ (s.link q).accepted + 1 →
        Completes (.blockReceive q b true errors arrival times) s (fun s' =>
          (s'.link q).accepted = (s.link q).accepted ∧ s'.fab.parcels = s.fab.parcels ∧ s'.mem = s.mem)) ∧
      (∀ clean, clean = false ∨ (decodeBlock errors).2 = false → Completes (.blockReceive q b clean errors arrival times) s (fun s' =>
        (s'.link q).accepted = (s.link q).accepted ∧ (s'.link q).rejWin = (s.link q).rejWin + 1 ∧
        s'.fab.parcels = s.fab.parcels ∧ s'.mem = s.mem))) ∧
    (f.op = .linkHello → up = q → (s.fport q).st = .training → (s.kfb (q / 8)).enable = true → (s.link q).phase = .running →
      Completes (.linkHello id) s (fun s' => (s'.fport q).st = .up ∧ (s'.fport q).peerModule = BitVec.ofNat 16 f.src ∧
        (s'.fport q).peerPort = BitVec.ofNat 5 f.port ∧ (s'.link q).hello = true ∧ s'.mem = s.mem))

/-- R437 to R444: an ordered frame that is next in its flow is put into the torus once, with the windows' permission, and moves the
expected number on; one seen before is answered from what is kept, one of an older incarnation is dropped, and neither reaches
memory. An answer frees its frame at the source and goes to the issuer; a SEQ_NACK and a timeout send every unacknowledged frame
again; a dead flow answers UNREACHABLE and closes; an idle one closes by FLOW_CLOSE and its acknowledgement; a READ without a
response is sent once more, and then answered UNREACHABLE. -/
def Obligations.FlowsDeliverInOrderOnce : Prop :=
  ∀ (s : State) (id up d : Nat) (p : Parcel) (c : SendCtx),
    let f := p.frame
    let here := smGet s.fab.parcels id = some p ∧ id < s.fab.nextParcel ∧ p.inPort = some up ∧ f.dst = s.ownId
    let ctx := ctxKey f.srcDie f.src
    let again := fun (s' : State) (c : SendCtx) => s'.fab.send = s.fab.send ∧ s'.mem = s.mem ∧
      ∀ g ∈ c.unacked, Queued s' none c.die { g with lane := 0, floor := c.floor }
    (∀ e : RecvCtx, here → f.op = .write ∨ f.op = .atomic → s.mustWait id p = false →
      let k := recvKey f.src f.srcDie
      let h := s.flowHome f.srcDie
      smGet s.fab.recv k = some e →
      (f.inc = e.inc → f.seq = e.expected → f.damaged = false →
        let n := if f.op = .atomic then f.size else f.data.length
        let op := if f.op = .atomic then PktOp.atomic else PktOp.write
        (s.ingress h f.tenant f.addr.toNat n (if f.op = .atomic then needAtomicBits else needWriteBit)).1 = true →
        (s.freeTag (f.home h)).isSome = true → ∀ req remote, s.mkReq (f.home h) op (s.ownAddr f.addr.toNat) n f.data = some (req, remote) →
        Completes (.flowFrame id) s (fun s' => s'.mem = s.mem ∧ smGet s'.fab.parcels id = none ∧
          (∃ e', smGet s'.fab.recv k = some e' ∧ e'.expected = e.expected + 1 ∧ e'.inc = e.inc) ∧
          ∃ b, s'.accesses = s.accesses ++ [b] ∧ b.purpose = .flow k f.seq.toNat f.inc.toNat f.tag ∧ b.req.op = op ∧
            b.req.addr = req.addr ∧ b.req.dst = req.dst ∧ b.req.tenant = f.tenant)) ∧
      (∀ g, f.inc = e.inc → atOrAbove f.seq e.expected = false → e.kept.find? (fun x => x.seq == f.seq) = some g →
        Completes (.flowFrame id) s (fun s' => s'.mem = s.mem ∧ s'.accesses = s.accesses ∧ s'.net = s.net ∧
          smGet s'.fab.recv k = some e ∧ Queued s' none h { g with src := s.ownId, lane := if g.op.ordered then 0 else 4 })) ∧
      (atOrAbove f.inc e.inc = false → Sys2Proof.Machine.exec (.flowFrame id) s = .next (s.dropParcel id))) ∧
    (here → f.op = .writeAck ∨ f.op = .atomicRsp → smGet s.fab.send ctx = some c → ∀ (g : Frame) (a : Access),
      c.unacked.find? (fun x => x.seq == f.seq && x.inc == f.inc) = some g → s.access (g.issuer c.die) g.tag = some a →
      a.req.op.ordered = true → Completes (.flowResponse id) s (fun s' => s'.mem = s.mem ∧
        smGet s'.fab.send ctx = some { c with unacked := c.unacked.filter (fun x => x.seq != f.seq) } ∧
        ∃ n e, smGet s'.net.pkts n = some e ∧ e.op = a.req.op.answer ∧ e.dst = a.req.src ∧ e.issuer = a.issuer ∧ e.tag = a.tag ∧
          e.status = f.status ∧ e.data = f.data)) ∧
    (here → f.op = .seqNack → smGet s.fab.send ctx = some c → c.inc = f.inc →
      Completes (.seqNack id) s (fun s' => again s' c ∧ smGet s'.fab.parcels id = none)) ∧
    (smGet s.fab.send d = some c → c.unacked ≠ [] →
      Completes (.e2eTimeout d) s (fun s' => again s' c) ∧
      Completes (.flowDead d) s (fun s' => s'.mem = s.mem ∧ smGet s'.fab.send d = none ∧ smGet s'.fab.lastInc d = some c.inc ∧
        ∀ (g : Frame) (a : Access), g ∈ c.unacked → s.access (g.issuer c.die) g.tag = some a → a.req.op.ordered = true →
          ∃ n e, smGet s'.net.pkts n = some e ∧ e.op = a.req.op.answer ∧ e.dst = a.req.src ∧ e.tag = a.tag ∧ e.status = .unreachable)) ∧
    (smGet s.fab.send d = some c → c.unacked = [] → Completes (.flowIdleClose d) s (fun s' => s' = { s with fab := s'.fab } ∧
      smGet s'.fab.send d = some { c with closing := true } ∧ Queued s' none c.die
        { op := .flowClose, dst := c.dst, src := s.ownId, lane := 0, srcDie := c.die, seq := c.next, inc := c.inc })) ∧
    (∀ e : RecvCtx, here → f.op = .flowClose → smGet s.fab.recv (recvKey f.src f.srcDie) = some e → e.inc = f.inc →
      Completes (.flowClose id) s (fun s' => s' = { s with fab := s'.fab } ∧ smGet s'.fab.recv (recvKey f.src f.srcDie) = none ∧
        Queued s' none (s.flowHome f.srcDie)
          { op := .flowCloseAck, dst := f.src, src := s.ownId, lane := 0, srcDie := f.srcDie, seq := f.seq, inc := f.inc })) ∧
    (here → f.op = .flowCloseAck → smGet s.fab.send ctx = some c → c.closing = true → c.inc = f.inc →
      Completes (.flowCloseAck id) s (fun s' => s' = { s with fab := s'.fab } ∧ smGet s'.fab.send ctx = none ∧
        smGet s'.fab.lastInc ctx = some c.inc)) ∧
    (∀ (tag : Nat) (r : RemoteRead), s.fab.reads.find? (fun r => r.die == d && r.tag == tag) = some r →
      (r.retried = false → Completes (.readRetry d tag) s (fun s' => s' = { s with fab := s'.fab } ∧ Queued s' none d r.frame ∧
        s'.fab.reads.find? (fun r => r.die == d && r.tag == tag) = some { r with retried := true })) ∧
      (r.retried = true → Completes (.readRetry d tag) s (fun s' => s'.mem = s.mem ∧
        s'.fab.reads.find? (fun r => r.die == d && r.tag == tag) = none ∧
        ∃ n e, smGet s'.net.pkts n = some e ∧ e.op = .readRsp ∧ e.dst = r.pkt.src ∧ e.tag = r.pkt.tag ∧ e.status = .unreachable)))

/-- R449, R452, R453, R468: an Up port that loses its link is Held for its hold time, and Down when that expires, with nothing queued;
with its link back it is Up again, once Down with its peer's hello too, and then what had failed over stays on the alternate
port; a settled path opens; the module ID is written once for the module while no die is enabled,
and refused otherwise. -/
def Obligations.PortsFailAndReturn : Prop :=
  ∀ (s : State) (q : Nat),
    ((s.fport q).st = .up → (s.link q).phase ≠ .running → Completes (.portHeld q) s (fun s' => s' = { s with fab := s'.fab } ∧
      s'.fport q = { s.fport q with st := .held, holdLeft := (s.kfb (q / 8)).hold } ∧ ∀ r, r ≠ q → s'.fport r = s.fport r)) ∧
    ((s.fport q).st = .held → Completes (.holdExpiry q) s (fun s' => s'.mem = s.mem ∧ (s'.fport q).st = .down ∧
      (s'.fport q).queue = [] ∧ (s'.link q).retry = [])) ∧
    ((s.link q).phase = .running → (s.kfb (q / 8)).enable = true →
      ((s.fport q).st = .held → Completes (.portReturnUp q) s (fun s' =>
        s' = { s with fab := s'.fab, links := s'.links, freeCount := s'.freeCount } ∧
        (s'.fport q).st = .up ∧ (s'.fport q).holdLeft = 0)) ∧
      ((s.fport q).st = .down → (s.link q).hello = true → Completes (.portReturnUp q) s (fun s' => s'.mem = s.mem ∧ (s'.fport q).st = .up ∧
        (s'.fport q).delayValid = false ∧ ∀ dst ∈ s.fab.routing.map (·.1),
          let r := Route.ofWord (smGetD s.fab.routing dst 0).toNat
          r.valid = true → r.altOk = true → r.prim = q → s'.orderedPort dst r = some (r.alt, r.altUp)))) ∧
    (∀ dst old, s.fab.settling.find? (fun e => e.1 == dst) = some (dst, old) →
      (s.fport old).queue.any (fun f => f.op.ordered && f.dst == dst) = false → Completes (.pathSettle dst) s (fun s' =>
        s' = { s with fab := { s.fab with settling := s.fab.settling.filter (fun y => y.1 != dst) } })) ∧
    (∀ (a : Agent) (d : Nat) (v : Word), Writable s a (kfbBlock d + 8) →
      ((∀ k, k < s.part.nIoDies → (s.kfb k).enable = false) → Completes (.kfbModuleId a d v) s (fun s' =>
        s' = { s with fab := { s.fab with idAssigned := true, moduleId := v.setWidth 16 }, answer := .ok })) ∧
      ((∀ port fn, a ≠ .page port fn) → (∃ k, k < s.part.nIoDies ∧ (s.kfb k).enable = true) → Completes (.kfbModuleId a d v) s (fun s' =>
        s'.fab = s.fab ∧ s'.mem = s.mem ∧ s'.answer = .busError)))

/-- R447 to R450, R455 to R458, R519, R521: a copy's read leaves block by block and its data reach the host; a multicast goes on over
the tree's other ports and its branches' acknowledgements add up; at its time-out the sender reports what has answered. A partial
arrives in frames of at most 256 bytes and is combined, element by element, at its level of the tree when the last one is there; with
the credit of its left neighbour a member sends its partial; a whole result is written for the descriptor; fields that differ end it with REDUCE_MISMATCH, a missing partner with REDUCE_FAILED. -/
def Obligations.CopiesMulticastsAndReductionsAdvance : Prop :=
  ∀ (s : State) (id k q : Nat) (p : Parcel),
    let f := p.frame
    let here := smGet s.fab.parcels id = some p ∧ p.inPort = some q
    (∀ (c : Copy) (x : Ring), s.copy k = some c → c.lport = none → smGet s.rings c.ring = some x →
      (s.func c.die x.fn).st = .running → c.failed = none → c.next < c.size →
      ∀ host : HostData (List Byte),
      (∀ off data rest, c.ready = (off, data) :: rest → c.dstSpace = 1 → data.length ≤ 512 → Completes (.copyBlock k host) s (fun s' =>
        s'.mem = s.mem ∧ s'.copy k = some { c with ready := rest } ∧ ∀ i, i < data.length →
          smGet s'.hostMem (2 ^ 64 * c.die + (c.dst.toNat + off + i) % 2 ^ 64) = some (data.getD i 0))) ∧
      (c.ready = [] → c.srcSpace = 2 →
        let g := s.ownAddr (c.src + BitVec.ofNat 64 c.next).toNat
        let n := c.blockLen c.next
        (s.freeTag (.engine c.die)).isSome = true → ∀ req remote, s.mkReq (.engine c.die) .read g n [] = some (req, remote) →
        Completes (.copyBlock k host) s (fun s' => s'.mem = s.mem ∧ s'.copy k = some { c with next := c.next + n } ∧
          ∃ b, s'.accesses = s.accesses ++ [b] ∧ b.purpose = .copyRd k c.next ∧ b.req.op = .read ∧ b.req.addr = req.addr ∧ b.req.size = n))) ∧
    (here → f.op = .mcastWrite → f.hops < 64 → s.isBad (.table 1 f.group) = false → (∀ m ∈ s.fab.mcasts, m.id < s.fab.nextTag) →
      let g := (s.group (q / 8) f.group).1
      (g.valid = true → g.tenant = f.tenant → g.member = false → f.hdrBad = false → ∀ r,
        (List.range 32).filter (fun j => g.tree.testBit j && some q != some j) = [r] → s.Takes r { f with hops := f.hops + 1 } →
        Completes (.fabricMcastWrite id) s (fun s' => s'.mem = s.mem ∧ Transmitted s s' r { f with hops := f.hops + 1 } ∧
          ∃ m, s'.fab.mcasts = s.fab.mcasts ++ [m] ∧ m.group = f.group ∧ m.inPort = some q ∧ m.waiting = 1#32 <<< r ∧ m.count = 0)) ∧
      (g.valid = false →
        let ack : Frame := { op := .mcastAck, dst := f.src, src := s.ownId, lane := 0, srcDie := f.srcDie, tag := f.tag,
                             group := f.group, pruned := true }
        s.Takes q ack → Completes (.fabricMcastWrite id) s (fun s' =>
          s'.mem = s.mem ∧ s'.fab.mcasts = s.fab.mcasts ∧ Transmitted s s' q ack))) ∧
    (∀ m : Mcast, here → f.op = .mcastAck → f.lane ≠ 4 → 
      s.fab.mcasts.find? (fun m => m.src == f.dst && m.die == f.srcDie && m.tag == f.tag && (f.lane == 4 || m.waiting.getLsbD q)) = some m →
      s.mcast m.id = some m → setBit m.waiting q false ≠ 0 → Completes (.fabricMcastAck id) s (fun s' => s'.mem = s.mem ∧
        s'.mcast m.id = some { m with
          count := m.count + f.count, pruned := m.pruned || f.pruned, waiting := setBit m.waiting q false,
          mask := if f.pruned then setBit m.mask q true else m.mask })) ∧
    (∀ (m : Mcast) (n tag : Nat), s.mcast k = some m → m.inPort = none → m.ring = none → m.lport = some (n, tag) → tag ≠ orphanTag →
      Completes (.mcastReportTimeout k) s (fun s' => s'.mem = s.mem ∧ s'.mcast k = none ∧
        ∃ members mask, (s'.lport n).mrep = (s.lport n).mrep ++ [(tag, m.count, members, mask)])) ∧
    (∀ r : Reduction, f.dst = s.ownId → s.red r.num = some r →
      let allowed := s.isBad (.table 2 f.group) = false ∧ (s.redGroup f.group).1.valid = true ∧
        (s.redGroup f.group).1.tenant = f.tenant ∧ (s.windowOf (s.redUnit f.group) f.tenant).1 = true
      let a := r.gather f
      (here → f.op = .redPart → allowed → s.redFor f (·.creditSent) = some r →
        let w := 2 ^ (r.level + 1)
        let c := redVec r.id.op r.id.etype r.vec a.got
        (r.id = f.red → f.damaged = false → f.level = r.level → f.off = r.got.length →
          (a.whole = false → Completes (.redPart id) s (fun s' => s'.mem = s.mem ∧ s'.red r.num = some a)) ∧
          (a.whole = true → r.sent = false → r.credit = false → r.rank / w % 2 = 1 → (r.n + w - 1) / w ≠ 1 →
            Completes (.redPart id) s (fun s' => s'.mem = s.mem ∧ s'.red r.num = some { r with
              vec := c.1, flags := r.flags ||| c.2 ||| (if r.id.reduce then 0 else a.gotFlags), level := r.level + 1, creditSent := false
              got := [], gotFlags := 0 }))) ∧
        (∀ x h, r.id ≠ f.red → Waits s r.ring r.seq x h → Completes (.redPart id) s (fun s' => s'.red r.num = none ∧
          ∃ s1, s1.mem = s.mem ∧ Recorded s1 s' r.ring x h { status := BitVec.ofNat 8 REDUCE_MISMATCH, flags := r.flags }))) ∧
      (here → f.op = .redCredit → allowed → s.redFor f (fun r => !r.credit) = some r → r.sent = false → r.id.reduce = false →
        r.rank / 2 ^ r.level % 2 = 1 → (r.n + 2 ^ r.level - 1) / 2 ^ r.level ≠ 1 → ∀ m,
        (s.rankModule r.id.group (r.rank - 2 ^ r.level)).1 = some m → Completes (.redCredit id) s (fun s' =>
          s'.red r.num = some { r with credit := true, sent := true } ∧
          ∀ v ∈ redPieces (256 / elemBytes r.id.etype) 0 r.vec.length r.vec, ∃ e, Queued s' none (s.redUnit r.id.group) e ∧
            e.op = .redPart ∧ e.dst = m ∧ e.off = v.1 ∧ e.vec = v.2 ∧ e.flags = r.flags ∧ e.level = r.level ∧ e.red = r.id)) ∧
      (here → f.op = .redResult → allowed → s.fab.reductions.find? (fun r => r.id == f.red && r.sent) = some r → f.damaged = false →
        f.off = r.got.length →
        (a.whole = false → Completes (.redResult id) s (fun s' => s'.mem = s.mem ∧ s'.red r.num = some a)) ∧
        (a.whole = true → r.children = [] → Completes (.redResult id) s (fun s' => s'.red r.num = none ∧
          ∃ c, s'.fab.copies = s.fab.copies ++ [c] ∧ c.ring = r.ring ∧ c.seq = r.seq ∧ c.dst = r.result ∧ c.red = some a.gotFlags ∧
            c.size = (a.got.flatMap (fun v => leBytes (elemBytes r.id.etype) v.toNat)).length))) ∧
      (∀ x h, r.num = k → Waits s r.ring r.seq x h → Completes (.reduceTimeout k) s (fun s' => s'.red k = none ∧
        ∃ s1, Recorded s1 s' r.ring x h
          { status := BitVec.ofNat 8 REDUCE_FAILED, flags := r.flags, result := BitVec.ofNat 64 r.lacks })))

/-! ### Links (12 R476 to R502) -/

/-- R480 to R485, R494, R500: a signal starts the attempt, every locked lane ends Adapt, a slip that matches aligns a lane and ends
Align, two agreeing markers that show both sides ready make the link Running; a phase that does not end in time ends the attempt,
and after the configured number of attempts the port is Failed. Memory is unchanged. -/
def Obligations.LinksTrainToRunning : Prop :=
  ∀ (s : State) (q l : Nat), l < 9 →
    let x := s.link q
    let goes := fun (c : Instr) (P : State → Prop) => Completes c s (fun s' => s'.mem = s.mem ∧ P s')
    (x.phase = .noSignal → goes (.signalDetect q l) (fun s' => (s'.link q).phase = .adapt ∧ ((s'.link q).lane l).signal = true ∧
      ∀ k, k < 9 → ((s'.link q).lane k).locked = false)) ∧
    (x.phase = .adapt → x.waiting = false → (x.lane l).signal = true → goes (.clockRecoveryLock q l) (fun s' =>
      ((s'.link q).lane l).locked = true ∧
      ((∀ k, k < 9 → k ≠ l → (x.lane k).signal = true → (x.lane k).locked = true) → (s'.link q).phase = .align) ∧
      ((∃ k, k < 9 ∧ k ≠ l ∧ (x.lane k).signal = true ∧ (x.lane k).locked = false) → (s'.link q).phase = .adapt))) ∧
    (∀ (slip : Nat) (invert : Bool), x.phase = .align → x.waiting = false → s.bup.grangerUp = true → (x.lane l).locked = true →
      (x.lane l).matched = false → (x.lane l).trials < 16 → (∀ k, k < 9 → k ≠ l → (x.lane k).locked = false) →
      goes (.slipTrial q [(l, slip, invert, true)]) (fun s' => (s'.link q).phase = .exchange ∧ ((s'.link q).lane l).aligned = true ∧
        ((s'.link q).lane l).slip = BitVec.ofNat 3 slip ∧ ((s'.link q).lane l).invert = invert)) ∧
    (∀ m : TMarker, x.phase = .exchange → x.waiting = false → (x.lane l).aligned = true → smGet x.lastMark l = some m →
      m.idValid = false → m.ready = true → (({ x with lastMark := smSet x.lastMark l m } : Link).takeMarker l m m).selfReady = true →
      goes (.trainingMarker q l m) (fun s' => (s'.link q).phase = .running ∧ (s'.link q).attempts = 0)) ∧
    (x.phase = .adapt ∨ x.phase = .align ∨ x.phase = .exchange → x.waiting = false → x.selfSeen = false →
      (x.attempts + 1 < (s.lnkDie (q / 8)).attempts.toNat → goes (.phaseTimeout q) (fun s' =>
        s'.link q = { x with attempts := x.attempts + 1, waiting := true } ∧ s' = { s with links := s'.links, lnk := s'.lnk })) ∧
      ((s.lnkDie (q / 8)).attempts.toNat ≤ x.attempts + 1 → goes (.phaseTimeout q) (fun s' => (s'.link q).phase = .failed ∧
        (s'.fport q).st = .failed ∧ (s'.fport q).queue = []))) ∧
    (x.waiting = true → goes (.attemptRestart q) (fun s' => (s'.link q).phase = .adapt ∧ (s'.link q).waiting = false ∧
      (s'.link q).attempts = x.attempts ∧ s' = { s with links := s'.links }))

/-- R451, R482, R488 to R490, R493, R495, R498, R502: a Running link that loses a lane it receives on, or rejects too many blocks in a
window, resynchronises; a resync that takes too long becomes a fast retrain, and that a full retrain from Adapt; the owner enables
and disables a port, asks for a retrain, and sets a test mode of a disabled port, which is refused of an enabled one. -/
def Obligations.LinksRecoverAndObeyTheOwner : Prop :=
  ∀ (s : State) (a : Agent) (q l j : Nat), l < 9 → j < 9 →
    let x := s.link q
    let goes := fun (c : Instr) (P : State → Prop) => Completes c s (fun s' => s'.mem = s.mem ∧ P s')
    (x.phase = .running → (x.lane l).locked = true → x.rxLanes.getLsbD l = true → j ≠ l → (x.lane j).locked = true →
      goes (.laneLockLoss q l) (fun s' => (s'.link q).phase = .resync ∧ ((s'.link q).lane l).locked = false ∧
        ((s'.link q).lane l).lost = true)) ∧
    (x.phase = .running → (∀ k, k < 9 → x.rxLanes.getLsbD k = true → (x.lane k).ceWin ≤ (s.lnkDie (q / 8)).ceLimit.toNat) →
      (x.rejWin ≤ (s.lnkDie (q / 8)).ueLimit.toNat → goes (.errorWindow q) (fun s' => (s'.link q).phase = .running ∧
        (s'.link q).rejWin = 0 ∧ s' = { s with links := s'.links })) ∧
      ((s.lnkDie (q / 8)).ueLimit.toNat < x.rejWin → (x.lane j).locked = true → goes (.errorWindow q) (fun s' =>
        (s'.link q).phase = .resync))) ∧
    (x.phase = .resync → goes (.resyncTimeout q) (fun s' => (s'.link q).phase = .fastRetrain ∧
      ∀ k, k < 9 → ((s'.link q).lane k).locked = false)) ∧
    (x.phase = .fastRetrain → goes (.fastRetrainTimeout q) (fun s' => (s'.link q).phase = .adapt ∧ (s'.link q).attempts = 0 ∧
      s' = { s with links := s'.links })) ∧
    (Writable s a (portRegs q) →
      (x.enable = false → s.bup.badPorts.getLsbD q = false → (∀ k, k < 9 → (x.lane k).signal = false) →
        goes (.portEnable a q true) (fun s' => s' = { s with links := s'.links, fab := s'.fab, answer := .ok } ∧
          s'.link q = { x with enable := true, phase := .noSignal, attempts := 0, fresh := true } ∧
          s'.fport q = { s.fport q with st := .training })) ∧
      (x.enable = true → goes (.portEnable a q false) (fun s' => (s'.link q).phase = .off ∧ (s'.link q).enable = false ∧
        (s'.fport q).st = .disabled ∧ (s'.fport q).queue = [] ∧ s'.answer = .ok) ∧
        goes (.retrain a q) (fun s' => (s'.link q).phase = .adapt ∧ (s'.link q).attempts = 0 ∧ (s'.link q).enable = true ∧
          s'.answer = .ok ∧ ∀ k, k < 9 → ((s'.link q).lane k).lost = false))) ∧
    (Writable s a (portRegs q + 0x10) → ∀ mode, mode < 4 →
      (x.enable = false → goes (.loopbackSet a q mode) (fun s' => s' = { s with links := s'.links, answer := .ok } ∧
        s'.link q = { x with mode := BitVec.ofNat 2 mode, phase := if mode = 0 then .off else .loopback })) ∧
      (x.enable = true → goes (.loopbackSet a q mode) (fun s' => s'.links = s.links ∧ s'.answer = .busError)))

/-- R509, R511 to R517, R522, R523: a poll takes a ring's doorbell word, sets how many descriptors it fetches, and stops a ring whose
counts are out of range; fetched descriptors stand in the ring in order, a reserved one ends with BAD_DESCRIPTOR, and a failed
read stops the ring. A NOP ends with OK; XINV drops the tenant's cached leaves of its range; RING_CREATE gives the lowest free
ring number; RING_DESTROY discards an empty ring and stops one that still holds work. -/
def Obligations.RingsFetchAndAdministerDescriptors : Prop :=
  ∀ (s : State) (r : Nat) (x : Ring), smGet s.rings r = some x →
    (∀ (words : SMap (HostData DWord)) (w : DWord), s.fnServed x.port x.fn = true → s.fnRings x.port x.fn = [(r, x)] →
      (s.func x.port x.fn).hasEvents = false → x.stopped = false →
      let tail := w.toNat % 2 ^ 32
      let head := w.toNat / 2 ^ 32
      let n := 2 ^ x.sizeLog2
      let ready := (tail + 2 ^ 32 - x.fetched % 2 ^ 32) % 2 ^ 32
      (∀ bad, (bad = .failed ∨ bad = .poisoned) → smGetD words x.slot .failed = bad →
        Completes (.doorbellPoll x.port x.fn words) s (fun s' => s' = { s with host := s'.host } ∧
          (s'.hostDie x.port).err = firstErr (s.hostDie x.port).err
            (BitVec.ofNat 64 ((if bad = .poisoned then 3 else 2) * 2 ^ 56 + x.fn * 2 ^ 32 + r)))) ∧
      (smGet words x.slot = some (.ok w) → ready ≤ n → (x.recorded + 2 ^ 32 - head) % 2 ^ 32 ≤ n →
        Completes (.doorbellPoll x.port x.fn words) s (fun s' =>
        s' = { s with rings := s'.rings, host := s'.host } ∧ ∃ k, smGet s'.rings r = some { x with
          subTail := BitVec.ofNat 32 tail, compHead := BitVec.ofNat 32 head, toFetch := k } ∧
          (x.toFetch = 0 → x.destroying = none → k ≤ ready ∧ k ≤ n - (x.fetched + 2 ^ 32 - head) % 2 ^ 32 ∧ k ≤ 8 ∧ k + x.held.length ≤ max 256 x.held.length ∧
            (0 < ready → 0 < n - (x.fetched + 2 ^ 32 - head) % 2 ^ 32 → x.held.length < 256 → 0 < k)) ∧
          (x.toFetch ≠ 0 → k = x.toFetch))) ∧
      (smGet words x.slot = some (.ok w) → n < ready ∨ n < (x.recorded + 2 ^ 32 - head) % 2 ^ 32 →
        Completes (.doorbellPoll x.port x.fn words) s (fun s' =>
        s'.mem = s.mem ∧ smGet s'.rings r = some { x with stopped := true, toFetch := 0 }))) ∧
    (s.fnServed x.port x.fn = true → x.toFetch ≠ 0 → x.held = [] →
      (∀ ds : List (BitVec 1024), (∀ b ∈ ds, reservedDesc b = false) → ds.length = x.toFetch → s.bup.deep = false →
        Completes (.descriptorFetched r (.ok ds)) s (fun s' => s' = { s with rings := s'.rings, host := s'.host } ∧
          ∃ y, smGet s'.rings r = some y ∧ y = { x with fetched := x.fetched + x.toFetch, toFetch := 0, held := y.held } ∧
            y.held.length = x.toFetch ∧ ∀ i, i < x.toFetch → y.held[i]? = some { seq := x.fetched + i, bytes := ds.getD i 0 })) ∧
      (∀ b : BitVec 1024, reservedDesc b = true → x.toFetch = 1 → x.readFault = false → s.bup.deep = false →
        Completes (.descriptorFetched r (.ok [b])) s (fun s' => ∃ s1, s1.mem = s.mem ∧ Recorded s1 s' r
          { x with fetched := x.fetched + 1, toFetch := 0 } { seq := x.fetched, bytes := b } { status := 0x40 })) ∧
      (∀ bad, (bad = .failed ∨ bad = .poisoned) → Completes (.descriptorFetched r bad) s (fun s' => s'.mem = s.mem ∧ ∃ y, smGet s'.rings r = some y ∧ y.stopped = true ∧ y.toFetch = 0 ∧
        y.held = [] ∧ y.fetched = x.fetched + 1 ∧ y.recorded = x.recorded + 1))) ∧
    (∀ h : Held,
      (Alone s r 6 x h → plainLayout h.bytes [] = true → Ends (.nop r) s s r x h {}) ∧
      (Alone s r 6 x h → plainLayout h.bytes [] = false → Ends (.nop r) s s r x h { status := 0x40 }) ∧
      (∀ t, Alone s r 5 x h → s.ringTenant x = some t → plainLayout h.bytes [(0x08, 0x17)] = true →
        let va := dfield h.bytes 8 8
        let size := dfield h.bytes 0x10 8
        va % 65536 = 0 → size % 65536 = 0 →
        (∀ e ∈ s.net.pkts, ∀ a b l, e.2.msg = .xlateRsp a b (some l) → l.meets t va size = false) →
        Completes (.xinv r) s (fun s' => ∃ s1, s1 = { s with xsvc := s'.xsvc, tiles := s'.tiles, lports := s'.lports } ∧
          Recorded s1 s' r x h {} ∧ (∀ e ∈ s'.xsvc, ∀ l ∈ e.2, l.meets t va size = false) ∧
          (∀ u, ∀ l ∈ (s'.tile u).str.tlb, l.meets t va size = false) ∧ ∀ e ∈ s'.lports, ∀ l ∈ e.2.tlb, l.meets t va size = false)) ∧
      (∀ n, Alone s r 8 x h → x.slot = 0 → plainLayout h.bytes [(0x08, 0x18), (0x1A, 0x1B)] = true →
        let sq := dfield h.bytes 8 8
        let cq := dfield h.bytes 0x10 8
        let k := dfield h.bytes 0x18 1
        let slot := dfield h.bytes 0x1A 2
        sq % 4096 = 0 → cq % 4096 = 0 → 4 ≤ k → k ≤ 16 → 2 ≤ slot → slot ≤ 1023 → (∀ e ∈ s.fnRings x.port x.fn, e.2.slot ≠ slot) →
        s.freeRing x.port = some n → (s.fnRings x.port x.fn).length ≤ s.ringQuota x.port x.fn → smGet s.rings n = none →
        Completes (.ringCreate r) s (fun s' => ∃ s1, s1 = { s with rings := s1.rings } ∧
          Recorded s1 s' r x h { result := BitVec.ofNat 64 n } ∧ smGet s'.rings n = some
            { port := x.port, fn := x.fn, sq := BitVec.ofNat 64 sq, cq := BitVec.ofNat 64 cq, sizeLog2 := k, slot })) ∧
      (∀ y, Alone s r 9 x h → x.slot = 0 → plainLayout h.bytes [(0x08, 0x09)] = true →
        let n := dfield h.bytes 8 2
        n ≠ r → smGet s.rings n = some y → y.port = x.port → y.fn = x.fn → y.destroying = none →
        (y.held = [] → Completes (.ringDestroy r) s (fun s' => ∃ s1, s1 = { s with rings := s1.rings } ∧
          Recorded s1 s' r x h {} ∧ smGet s'.rings n = none)) ∧
        (y.held ≠ [] → Completes (.ringDestroy r) s (fun s' => s' = { s with rings := s'.rings } ∧
          smGet s'.rings n = some { y with stopped := true, toFetch := 0, destroying := some (r, h.seq) }))))

/-- R62, R248, R447, R517 to R521: a task descriptor whose tile its tenant may use becomes a launch on its way to the tile, with the
start tick that R62 resolves; a copy starts; a multicast leaves as one access for the tiles of its rectangle, or as a frame on
the port of its group's tree; a reduction starts from the member's combined leaves. A target that the tenant does not hold
ends the descriptor with NOT_PERMITTED, a layout that R516 forbids with BAD_DESCRIPTOR. -/
def Obligations.WorkDescriptorsStartTheirWork : Prop :=
  ∀ (s : State) (r : Nat) (x : Ring) (h : Held),
    let b := h.bytes
    let started := fun (s' : State) => smGet s'.rings r = some { x with held := [{ h with st := .started }] }
    (Alone s r 1 x h →
      let tile := dfield b 0x12 2
      let part := dfield b 0x11 1
      (taskOk b = false → Ends (.task r) s s r x h { status := 0x40 }) ∧
      (∀ t, taskOk b = true → s.ringTenant x = some t →
        (s.mayLaunch t part tile = false → Ends (.task r) s s r x h { status := 0x41 }) ∧
        (s.mayLaunch t part tile = true → s.bup.deep = false → (s.tickCfg part).hard = false → s.launchesAt tile < 4 →
          Completes (.task r) s (fun s' => s'.mem = s.mem ∧ s'.tiles = s.tiles ∧
            smGet s'.rings r = some { x with held := [{ h with launchSent := true }] } ∧
            ∃ l, Sent s' (tileEnd tile) (.launch l) ∧ l.ring = r ∧ l.seq = h.seq ∧ l.tenant = t ∧ l.part = part ∧ l.ioDie = x.port ∧
              l.epoch = s.partEpoch part ∧ l.span = dfield b 0x10 1 ∧ l.entry.toNat = dfield b 0x16 2 ∧ l.progAddr.toNat = dfield b 0x18 8 ∧
              l.progLen = dfield b 0x20 4 ∧ l.args.length = 4 ∧ (∀ i, i < 4 → (l.args.getD i 0).toNat = dfield b (0x38 + 8 * i) 8) ∧
              (dfield b 8 8 ≠ 0 → l.start.toNat = dfield b 8 8) ∧
              (dfield b 8 8 = 0 → l.start = s.tick.count + (if s.tick.inGuard then 1 else 0)))))) ∧
    (Alone s r 2 x h →
      let sp := dfield b 0x20 1
      (copyOk b = false → Ends (.copy r) s s r x h { status := 0x40 }) ∧
      (copyOk b = true → s.spaceOk x (sp % 4) = true → s.spaceOk x (sp / 4) = true → windowOffset (sp % 4) (dfield b 8 8) (dfield b 0x18 8) = none →
        windowOffset (sp / 4) (dfield b 0x10 8) (dfield b 0x18 8) = none → s.engineCopies x.port < 16 →
        Completes (.copy r) s (fun s' => (sp / 4 ≠ 0 → s'.mem = s.mem) ∧ started s' ∧ ∃ c, s'.fab.copies = s.fab.copies ++ [c] ∧ c.ring = r ∧ c.seq = h.seq ∧
          c.die = x.port ∧ c.src.toNat = dfield b 8 8 ∧ c.dst.toNat = dfield b 0x10 8 ∧ c.size = dfield b 0x18 8 ∧ c.srcSpace = sp % 4 ∧
          c.dstSpace = sp / 4 ∧ c.next = 0 ∧ c.ready = []))) ∧
    (∀ (t : Nat) (bs : List Byte), Alone s r 3 x h → plainLayout b [(0x08, 0x18), (0x1A, 0x21)] = true → s.ringTenant x = some t →
      let n := dfield b 0x18 1 + 1
      let part := dfield b 0x1B 1
      let gi := dfield b 0x1C 2
      let g := (s.group x.port gi).1
      let ts := rectTiles (dfield b 0x1E 1) (dfield b 0x1F 1) (dfield b 0x20 1) (dfield b 0x21 1)
      (dfield b 0x1A 1 = 1 → part < 64 → (s.partRec part).tenant = some t →
        rectOk (dfield b 0x1E 1) (dfield b 0x1F 1) (dfield b 0x20 1) (dfield b 0x21 1) = true → s.engineQuiet x.port = true →
        (∀ bad, (bad = .failed ∨ bad = .poisoned) → Completes (.mcast r bad) s (fun s' =>
          ∃ s1, s1 = { s with host := s1.host } ∧ Recorded s1 s' r x h { status := 0x45 })) ∧
        ((s.freeTag (.engine x.port)).isSome = true → Completes (.mcast r (.ok bs)) s (fun s' => s'.mem = s.mem ∧ started s' ∧
          ∃ a, s'.accesses = s.accesses ++ [a] ∧ a.mcDue = ts.length ∧ a.req.op = .mcastWrite ∧ a.req.dests = ts ∧
            a.req.addr.toNat = dfield b 8 8 ∧ a.req.data = slice bs 0 n ∧ a.req.tenant = t ∧ a.req.part = part))) ∧
      (dfield b 0x1A 1 = 0 → gi < 4096 → s.isBad (.table 1 gi) = false →
        (g.valid = false → Ends (.mcast r (.ok bs)) s s r x h { status := 6 }) ∧
        (g.valid = true → g.tenant ≠ t → Ends (.mcast r (.ok bs)) s s r x h { status := 0x41 }) ∧
        (∀ q, g.valid = true → g.tenant = t → g.member = false → s.engineQuiet x.port = true → (∀ m ∈ s.fab.mcasts, m.id < s.fab.nextTag) →
          (List.range 32).filter (fun j => g.tree.testBit j) = [q] →
          s.Takes q (s.mcastFrame x.port gi t (dfield b 8 8) (slice bs 0 n) 2 0) →
          Completes (.mcast r (.ok bs)) s (fun s' => s'.mem = s.mem ∧ started s' ∧ ∃ f, Transmitted s s' q f ∧ f.op = .mcastWrite ∧
            f.group = gi ∧ f.tenant = t ∧ f.addr = BitVec.ofNat 48 (dfield b 8 8) ∧ f.data = slice bs 0 n)))) ∧
    (∀ t, Alone s r 4 x h → reduceOk b = true → s.ringTenant x = some t →
      let gi := dfield b 0x0C 2
      let g := (s.redGroup gi).1
      let l := dfield b 0x14 1
      let ty := dfield b 0x0F 1
      let n := dfield b 0x10 4
      s.isBad (.table 2 gi) = false →
      (g.valid = false ∨ g.tenant ≠ t → Ends (.reduce r) s s r x h { status := 0x41 }) ∧
      (∀ vs sx, g.valid = true → g.tenant = t → (∀ q ∈ s.fab.reductions, q.id.group ≠ gi ∧ q.num < s.fab.nextTag) →
        s.readLeaves (s.redUnit gi) t (dfield b 0x18 8) (dfield b 0x20 8) (n * elemBytes ty) l 0 = (.ok vs, sx) → g.rank % 2 = 1 → g.n ≠ 1 →
        let v := redLeaves (dfield b 0x0E 1) ty (Nat.log2 l) (vs.map (fun bs => elements (elemBytes ty) n bs))
        Completes (.reduce r) s (fun s' => s'.mem = sx.mem ∧ ∃ q, s'.fab.reductions = s.fab.reductions ++ [q] ∧ q.ring = r ∧ q.seq = h.seq ∧
          q.vec = v.1 ∧ q.flags = v.2 ∧ q.rank = g.rank ∧ q.n = g.n ∧ q.level = 0 ∧ q.sent = false ∧ q.id.group = gi ∧
          q.id.rseq.toNat = dfield b 8 4 ∧ q.id.op = dfield b 0x0E 1 ∧ q.id.etype = ty ∧ q.id.count = n ∧
          q.id.reduce = (dfield b 0x15 1 == 1))))

/-- R503, R537 to R541: a running function that is disabled, reset, loses its bus mastering, its virtual functions or its link goes to
Stopping with its enable off, and its launches leave the tiles' queues; once nothing of it is at work it is Idle, its rings are
gone and its incarnation has advanced. An enable with good sizes makes an idle function Running with an admin ring of the
lowest free number; a write that R539 forbids sets cfg_err. A trained host link is up with its width and rate. -/
def Obligations.FunctionsStopAndStart : Prop :=
  ∀ (s : State) (d f : Nat), f < 2048 →
    let x := s.func d f
    let still := fun (g : Nat) => (∀ t k, (s.tile t).task = some k → s.ofFn d g k.launch.ring = false) ∧
      ∀ c ∈ s.fab.copies, c.lport = none → s.ofFn d g c.ring = false
    let others := fun (s' : State) => ∀ d' f', fnKey d' f' ≠ fnKey d f → s'.func d' f' = s.func d' f'
    let stopped := fun (s' : State) => s'.mem = s.mem ∧ s'.rings = s.rings ∧ s'.func d f = { x with st := .stopping, enable := false } ∧
      others s' ∧ ∀ t, ∀ l ∈ (s'.tile t).queue, s.ofFn d f l.ring = false
    (x.st = .running → still f → Completes (.functionLevelReset d f) s stopped ∧ Completes (.busMasterClear d f) s stopped) ∧
    (x.st ≠ .running → Completes (.functionLevelReset d f) s (fun s' => s' = s) ∧ Completes (.busMasterClear d f) s (fun s' => s' = s)) ∧
    (∀ v : Word, s.agentUp (.page d f) = true → f ≤ 1024 →
      let w := v ||| 1
      let ev := bits w.toNat 11 8
      let ad := bits w.toNat 7 4
      (x.st = .running → still f → Completes (.functionDisable d f) s (fun s' => stopped s' ∧ s'.answer = .ok)) ∧
      (x.st = .stopping → Completes (.functionDisable d f) s (fun s' => s'.func d f = { x with cfgErr := true } ∧ others s' ∧ s'.mem = s.mem)) ∧
      (x.st = .idle → 4 ≤ x.adminLog2.toNat → (x.evLog2 = 0 ∨ 4 ≤ x.evLog2.toNat) →
        Completes (.functionDisable d f) s (fun s' => s' = { s with funcs := s'.funcs, answer := .ok } ∧ s'.func d f = x ∧ others s')) ∧
      (x.st = .idle → 4 ≤ ad → (ev = 0 ∨ 4 ≤ ev) → (f = 0 ∨ x.tenant.isSome = true) → ∀ r, s.freeRing d = some r →
        Completes (.functionEnable d f v) s (fun s' => s' = { s with funcs := s'.funcs, rings := s'.rings, answer := .ok } ∧
          s'.func d f = { x with evLog2 := BitVec.ofNat 4 ev, adminLog2 := BitVec.ofNat 4 ad, enable := true, st := .running,
                                 evWritten := 0, evHead := 0, evDropped := 0 } ∧ others s' ∧
          smGet s'.rings r = some { port := d, fn := f, sq := x.adminSq, cq := x.adminCq, sizeLog2 := ad, slot := 0 })) ∧
      (x.st = .idle → ad < 4 ∨ (ev ≠ 0 ∧ ev < 4) → Completes (.functionEnable d f v) s (fun s' =>
        s' = { s with funcs := s'.funcs, answer := .ok } ∧ s'.func d f = { x with cfgErr := true } ∧ others s'))) ∧
    ((∀ g, g < 2048 → (s.func d g).st = .running → still g) → Completes (.hostLinkDown d) s (fun s' => s'.mem = s.mem ∧ s'.rings = s.rings ∧
      (s'.hostDie d).linkUp = false ∧ ∀ g, g < 2048 → s'.func d g =
        if (s.func d g).st = .running then { s.func d g with st := .stopping, enable := false } else s.func d g)) ∧
    ((∀ g, g < 2048 → g ≠ 0 → (s.func d g).st = .running → still g) → Completes (.vfEnableClear d) s (fun s' => s'.mem = s.mem ∧
      s'.rings = s.rings ∧ s'.func d 0 = s.func d 0 ∧ ∀ g, g < 2048 → g ≠ 0 → s'.func d g =
        if (s.func d g).st = .running then { s.func d g with st := .stopping, enable := false } else s.func d g)) ∧
    (x.st = .stopping → s.fnBusy d f = false → Completes (.functionStopDone d f) s (fun s' => s'.mem = s.mem ∧ s'.tiles = s.tiles ∧
      (s'.func d f).st = .idle ∧ (s'.func d f).enable = false ∧ (s'.func d f).incarnation = x.incarnation + 1 ∧ others s' ∧
      ∀ e ∈ s'.rings, e ∈ s.rings ∧ ¬(e.2.port = d ∧ e.2.fn = f))) ∧
    (∀ (width : BitVec 2) (rate : BitVec 3), d < s.part.nIoDies → s.board.rails = true → s.bup.checked = true →
      (s.hostDie d).disabled = false → width ≠ 3 → rate.toNat ≤ 5 → Completes (.hostLinkUp d width rate) s (fun s' =>
        s' = { s with host := s'.host } ∧ s'.hostDie d = { s.hostDie d with linkUp := true, width, rate }))

/-- R26, R27, R507, R509, R529 to R536, R565, R571, R639, R667 to R670, R683: a command that passes the checks of R531 uses up its
counter and has its own effect: the owner binds and frees tenants, partitions and tables; a slot changes the keys that it may;
LOAD_BALE stages its regions; FW_UPDATE keeps the checked image for the slot that the next selection takes; an override of the
core clock or of a die's voltage waits for its guard window, a freeze does not. The management path holds one message. -/
def Obligations.CriticalCommandsTakeEffect : Prop :=
  ∀ (s : State) (src : CmdSrc) (c : Crit),
    let owner := fun (op : Nat) (sel : BitVec 1024 → Bool) (used : List (Nat × Nat)) =>
      CritReady s src op sel c ∧ c.slot = ownerSlot ∧ critLayout c.b used = true
    let does := fun (cmd : Instr) (P : State → Prop) => Completes cmd s (fun s' => CounterUsed s s' c ∧ s'.mem = s.mem ∧ P s')
    let t := c.tenantArg
    let p := c.partArg
    (owner 4 (selAt8 0) [(0x08, 0x08), (0x0A, 0x0E), (0x10, 0x19)] →
      let f := dfield c.b 0x0C 2
      let d := dfield c.b 0x0E 1
      let q := dfield c.b 0x18 2
      t < Config.tenants → f ≤ 1024 → d < s.part.nIoDies → q ≤ 2048 → (s.func d f).tenant = none → (s.tenant t).bound = none →
      s.quotaSum d + q ≤ 2048 → does (.assignBind src) (fun s' => s'.func d f = { s.func d f with tenant := some t, quota := q } ∧
        s'.tenant t = { bound := some (d, f), root := BitVec.ofNat 64 (dfield c.b 0x10 8) })) ∧
    (owner 4 (selAt8 1) [(0x08, 0x08), (0x0A, 0x0B)] → ∀ d f, t < Config.tenants → (s.tenant t).bound = some (d, f) →
      s.tenantBusy t = false → (s.func d f).st = .idle → does (.assignUnbind src) (fun s' =>
        s'.func d f = { s.func d f with tenant := none, quota := 0 } ∧ (s'.tenant t).bound = none)) ∧
    (owner 4 (selAt8 2) [(0x08, 0x08), (0x0A, 0x0B), (0x0F, 0x0F)] → t < Config.tenants → p < Config.partitions →
      (s.partRec p).defined = true → (s.partRec p).tenant = none → (s.partRec p).clusters &&& s.bup.park = 0 →
      does (.assignPartition src) (fun s' => s'.partRec p = { s.partRec p with tenant := some t })) ∧
    (owner 4 (selAt8 3) [(0x08, 0x08), (0x0F, 0x0F)] → p < Config.partitions → (s.partRec p).tenant.isSome = true → s.partTasks p = false →
      (∀ r ∈ s.partRegions p, s.unstaged r = true) → does (.releasePartition src) (fun s' =>
        s'.partRec p = { s.partRec p with tenant := none } ∧ ∀ r ∈ s.partRegions p, (s'.region r).st = .empty)) ∧
    (owner 4 (selAt8 4) [(0x08, 0x08), (0x0F, 0x0F), (0x20, 0x31), (0x34, 0x37)] →
      let cs : BitVec 144 := BitVec.ofNat 144 (dfield c.b 0x20 18)
      let rs : Word := BitVec.ofNat 32 (dfield c.b 0x34 4)
      let old := s.partRec p
      p < Config.partitions → old.tenant = none → (∀ e ∈ s.parts, e.1 ≠ p → e.2.clusters &&& cs = 0 ∧ e.2.regions &&& rs = 0) →
      cs &&& s.bup.park = 0 → (∀ k ∈ clustersOf (old.clusters ||| cs), ∀ u ∈ clusterTiles k, (s.tile u).active = false ∧ (s.tile u).queue = []) →
      (∀ r ∈ regionsOf (old.regions ||| rs), (s.region r).st ≠ .running ∧ s.unstaged r = true) → rs &&& ~~~s.cap.regions = 0 →
      Completes (.definePartition src) s (fun s' => CounterUsed s s' c ∧ s'.partRec p = { clusters := cs, regions := rs, tenant := none } ∧
        s'.partEpoch p = s.partEpoch p + 1)) ∧
    (owner 5 anySel [(0x08, 0x08), (0x0C, 0x13), (0x18, 0x1F)] →
      let k := dfield c.b 8 1
      let first := dfield c.b 0x0C 4
      let n := dfield c.b 0x10 4
      k ≤ 3 → first + n ≤ (tableSize k).1 →
      (∀ bad, (bad = .failed ∨ bad = .poisoned) → does (.tableUpdate src bad) (fun s' => s'.fab = s.fab)) ∧
      ∀ bs, does (.tableUpdate src (.ok bs)) (fun s' => ∀ i, i < n →
        let v := ofLe (slice bs ((tableSize k).2 * i) (tableSize k).2)
        s'.isBad (.table k (first + i)) = false ∧
        (k = 0 → (smGetD s'.fab.routing (first + i) 0).toNat = v) ∧ (k = 1 → (smGetD s'.fab.mgroups (first + i) 0).toNat = v) ∧
        (k = 2 → (smGetD s'.fab.rgroups (first + i) 0).toNat = v) ∧ (k = 3 → (smGetD s'.fab.windows (first + i) 0).toNat = v))) ∧
    (CritReady s src 6 anySel c → critLayout c.b [(0x08, 0x0A), (0x10, 0x37)] = true → keyPermit c s = true →
      let k := dfield c.b 8 2
      (dfield c.b 0x0A 1 ≠ 0 → does (.keyChange src) (fun s' => (s'.keySlot k).key = none ∧ ∀ j, j ≠ k → (s'.keySlot j).key = (s.keySlot j).key)) ∧
      (∀ kek, dfield c.b 0x0A 1 = 0 → (s.keySlot c.slot).key = some kek → does (.keyChange src) (fun s' =>
        (∀ j, j ≠ k → (s'.keySlot j).key = (s.keySlot j).key) ∧ (s'.keySlot k).key =
          match kwUnwrap (keyBytes kek) (natBytes (leBytes 40 (dfield c.b 0x10 40))) with
          | some v => some (BitVec.ofNat 256 (ofLe (v.map (BitVec.ofNat 8 ·))))
          | none => (s.keySlot k).key))) ∧
    (owner 1 anySel [(0x08, 0x0B), (0x10, 0x1C), (0x40, 0x5F)] →
      let mask : Word := BitVec.ofNat 32 (dfield c.b 8 4)
      let clear := dfield c.b 0x10 8 == 0 && dfield c.b 0x18 4 == 0
      dfield c.b 0x10 8 % 64 = 0 → dfield c.b 0x1C 1 < 3 → c.spaceOk (dfield c.b 0x1C 1) = true → mask ≠ 0 → mask &&& ~~~s.cap.regions = 0 →
      (∀ r ∈ regionsOf mask, s.unstaged r = true) → does (.loadBale src) (fun s' => ∃ l, s'.loads = s.loads ++ [l] ∧ l.mask = mask ∧
        l.clear = clear ∧ l.armed = clear ∧ l.addr.toNat = dfield c.b 0x10 8 ∧ l.len = dfield c.b 0x18 4 ∧ l.space = dfield c.b 0x1C 1 ∧
        l.digest.toNat = dfield c.b 0x40 32 ∧ ∀ r, s'.region r =
          if r ∈ regionsOf mask then { s.region r with stage := if clear then .armed else .staging } else s.region r)) ∧
    (∀ image bs sx, owner 3 anySel [(0x08, 0x08), (0x10, 0x1C), (0x40, 0x5F)] →
      let n := dfield c.b 8 1
      dfield c.b 0x1C 1 < 3 → c.spaceOk (dfield c.b 0x1C 1) = true → s.bup.fwJob = none → n ≤ 2 → dfield c.b 0x18 4 ≤ fwMax n →
      (s.useCounter c).fetchSpace c.port ((s.useCounter c).critFn c) (c.ring.getD (0, 0)).1 (c.tenant.getD 0) (dfield c.b 0x1C 1) (dfield c.b 0x10 8) (dfield c.b 0x18 4) image = (some bs, sx) →
      ofLe (sha256 bs) = dfield c.b 0x40 32 → Completes (.fwUpdate src image) s (fun s' => CounterUsed s s' c ∧ s'.mem = sx.mem ∧ s'.bup.fw = s.bup.fw ∧
        match Config.fwHeader n bs with
        | none => s'.bup.fwJob = none
        | some (ver, floor) => s'.bup.fwJob = if (s.fwTarget n).floor.toNat ≤ ver.toNat ∧ floor.toNat ≤ ver.toNat then
            some { target := n, ver, floor, ring := c.ring, mctp := c.ring.isNone } else none)) ∧
    (∀ j, s.bup.fwJob = some j → s.bup.grangerUp = true → Completes .fwSlotSelected s (fun s' => s'.mem = s.mem ∧ s'.bup.fwJob = none ∧
      (s'.fwTarget j.target).selected = { valid := true, ver := j.ver, floor := j.floor } ∧
      (s'.fwTarget j.target).unselected = (s.fwTarget j.target).selected)) ∧
    (let field := dfield c.b 8 1
     let die := dfield c.b 9 1
     let v := (BitVec.ofNat 32 (dfield c.b 0x0C 4)).toInt
     let used := [(0x08, 0x09), (0x0C, 0x0F)]
     let waits := fun (s' : State) => s'.health.marginPending = true ∧ s'.health.fTarget = s.health.fTarget ∧ s'.health.dies = s.health.dies ∧
      ∃ j, s'.health.jobs = [j] ∧ j.field = field ∧ j.die = die ∧ j.value = v
     s.marginOk field die v = true → s.health.jobs = [] →
      (owner 8 (selAt8 0) used → min v.toNat s.health.fLimit.toNat ≠ s.health.fMhz.toNat → does (.marginFrequency src) waits) ∧
      (owner 8 (selAt8 0) used → min v.toNat s.health.fLimit.toNat = s.health.fMhz.toNat → s.health.relocking = false →
        does (.marginFrequency src) (fun s' => s'.health.jobs = [] ∧ s'.health.fTarget = BitVec.ofNat 16 v.toNat)) ∧
      (owner 8 (selAt8 1) used → (∃ d, d < 4 ∧ (die = d ∨ die = 255) ∧ (s.die d).vplan + v ≠ (s.die d).vcore.toNat) →
        does (.marginOffset src) waits) ∧
      (owner 8 (selAt8 2) used → does (.marginFreeze src) (fun s' => s'.health.frozen = true ∧ s'.health.jobs = [])) ∧
      (owner 8 (fun b => decide (3 ≤ dfield b 8 1)) used → min 1200 s.health.fLimit.toNat ≠ s.health.fMhz.toNat →
        does (.marginRelease src) waits)) ∧
    (∀ msg : BitVec 1024, s.bup.grangerUp = true → s.health.mctp = none →
      (dfield msg 0 1 = 0x10 → reservedDesc msg = false → Completes (.mctpCrit msg) s (fun s' => s' = { s with health := s'.health } ∧
        s'.health.mctp = some msg ∧ s'.health.mctpReply = s.health.mctpReply)) ∧
      (dfield msg 0 1 ≠ 0x10 ∨ reservedDesc msg = true → Completes (.mctpCrit msg) s (fun s' => s' = { s with health := s'.health } ∧
        s'.health.mctp = none ∧ ∃ a, s'.health.mctpReply = some a ∧ a.status = 0x40)))

/-- R371, R377, R556 to R577, R579, R588: a design's request leaves with a tag of its port, its multicast as one access or as a
frame of the group's tree, and one of no tenant's partition is answered BUS_ERROR; a fence with nothing before it is met at once;
an inbound request is answered by its design or, in its place, by the time-out, after which a late answer is dropped. A staged bale that passes its checks is armed, and its regions' shadows hold its frames; one that
cannot be read ends its load. At the guard-start edge that chose it a load commits: its regions run the shadow's image, or are empty. The
scrub restores an active frame from its shadow. An oscillator and a block's owner change only where nothing that runs uses them. -/
def Obligations.LogicRegionsLoadAndServe : Prop :=
  ∀ (s : State),
    (∀ (n : Nat) (q : OReq), n < 384 → q.tag < 256 → q.sized = true → s.regionOpen (lportRegion n) = true → s.tagInUse n q.tag = false →
      (s.lport n).fences = [] →
      let answered := fun (sx : State) (st : Status) => Completes (.oreq n q) s (fun s' => s'.mem = sx.mem ∧ s'.accesses = s.accesses ∧
        (s'.lport n).orsp = (s.lport n).orsp ++ [(q.tag, st, [])])
      (s.partOfRegion (lportRegion n) = none → answered s .busError) ∧
      (∀ p t, s.partOfRegion (lportRegion n) = some p → s.partHeld p = false → (s.partRec p).tenant = some t →
        (∀ a ∈ s.accesses, a.issuer ≠ .lport n) → (∀ c ∈ s.fab.copies, ∀ l, c.lport = some l → l.1 ≠ n) →
        (∀ m ∈ s.fab.mcasts, ∀ l, m.lport = some l → l.1 ≠ n) →
        (∀ op need, (q.op = .read ∧ op = PktOp.read ∧ need = needRead) ∨ (q.op = .write ∧ op = .write ∧ need = needWrite) ∨
            (q.op = .atomic ∧ op = .atomic ∧ need = needAtomic) →
          (∀ sx, s.lportRange n t q.addr q.size need = (none, sx) → answered sx .busError) ∧
          (∀ pa sx pk r, s.lportRange n t q.addr q.size need = (some pa, sx) →
            sx.mkReq (.lport n) op pa q.size (if op = .write then slice q.data 0 q.size else []) = some (pk, r) →
            Completes (.oreq n q) s (fun s' => s'.mem = sx.mem ∧ ∃ b, s'.accesses = s.accesses ++ [b] ∧ b.issuer = .lport n ∧
              b.purpose = .oreq q.tag ∧ b.req.op = op ∧ b.req.addr = pa ∧ b.req.size = q.size ∧ b.req.tenant = t ∧
              (op = .write → b.req.data = slice q.data 0 q.size) ∧
              (op = .atomic → b.req.aop = q.aop ∧ b.req.ret = q.ret ∧ b.req.operand = q.operand ∧ b.req.compare = q.compare)))) ∧
        (q.op = .torusMcast → let (x0, x1, y0, y1) := q.rect
          (rectOk x0 x1 y0 y1 = false → answered s .busError) ∧
          (rectOk x0 x1 y0 y1 = true → Completes (.oreq n q) s (fun s' => s'.mem = s.mem ∧ ∃ b, s'.accesses = s.accesses ++ [b] ∧
            b.issuer = .lport n ∧ b.purpose = .oreq q.tag ∧ b.req.op = .mcastWrite ∧ b.req.dests = rectTiles x0 x1 y0 y1 ∧
            b.mcDue = (rectTiles x0 x1 y0 y1).length ∧ b.req.addr = q.addr ∧ b.req.data = slice q.data 0 q.size ∧ b.req.tenant = t))) ∧
        (q.op = .fabricMcast → let g := (s.group (s.homeIo (n / 96)) q.group).1
          (g.valid = false ∨ g.tenant ≠ t → answered s .busError) ∧
          (∀ k, g.valid = true → g.tenant = t → g.member = false → g.ports none = [k] → (∀ m ∈ s.fab.mcasts, m.id < s.fab.nextTag) →
            s.isBad (.table 1 q.group) = false →
            s.Takes k (s.mcastFrame (s.homeIo (n / 96)) q.group t q.addr.toNat (slice q.data 0 q.size) 1 n) →
            Completes (.oreq n q) s (fun s' => s'.mem = s.mem ∧ ∃ f, Transmitted s s' k f ∧ f.op = .mcastWrite ∧ f.group = q.group ∧
              f.tenant = t ∧ f.addr = BitVec.ofNat 48 q.addr.toNat ∧ f.data = slice q.data 0 q.size ∧ f.issKind = 1 ∧ f.issIdx = n))) ∧
        (∀ g sx, q.op = .copy → s.engineCopies (s.homeIo (n / 96)) < 16 → s.translate (s.homeIo (n / 96)) t q.operand needWrite = (g, sx) →
          Completes (.oreq n q) s (fun s' => s'.mem = sx.mem ∧ ∃ c, s'.fab.copies = s.fab.copies ++ [c] ∧ c.src = q.addr ∧ c.dst = q.operand ∧ c.size = q.size ∧ c.tenant = t ∧
            c.lport = some (n, q.tag) ∧ c.next = 0)) ∧
        (q.op = .release ∨ q.op = .acquire → answered s .ok))) ∧
    (∀ (n itag : Nat) (q : Inbound), (s.lport n).inbound.find? (fun q => q.itag == itag) = some q →
      let answers := fun (c : Instr) (st : Status) (bs : List Byte) => Completes c s (fun s' => s'.mem = s.mem ∧
        (s'.lport n).inbound = (s.lport n).inbound.filter (fun x => x.itag != itag) ∧ ∃ id p, smGet s'.net.pkts id = some p ∧
          p.op = q.pkt.op.answer ∧ p.dst = q.pkt.src ∧ p.tag = q.pkt.tag ∧ p.status = st ∧ p.data = bs)
      (∀ data, s.regionOpen (lportRegion n) = true → itag ∉ (s.lport n).late →
        (q.pkt.op = .atomic → answers (.irsp n itag .ok data) .ok (slice data 0 (if q.pkt.ret then q.pkt.size else 0))) ∧
        (q.pkt.op = .read → answers (.irsp n itag .ok data) .ok (slice data 0 q.pkt.size)) ∧
        (q.pkt.op = .write → answers (.irsp n itag .ok data) .ok []) ∧
        answers (.irsp n itag .busError data) .busError []) ∧
      (∀ st data, s.regionOpen (lportRegion n) = true → itag ∈ (s.lport n).late → st = .ok ∨ st = .busError →
        Completes (.irsp n itag st data) s (fun s' => s' = { s with lports := s'.lports } ∧ (s'.lport n).inbound = (s.lport n).inbound ∧
          itag ∉ (s'.lport n).late)) ∧
      answers (.windowTimeout n itag) .busError []) ∧
    (∀ (k : Nat) (l : Load), s.loads[k]? = some l →
      let gone := s.loads.filter (fun x => !(x.ring == l.ring && x.seq == l.seq))
      let rs := regionsOf l.mask
      (∀ bale sx, l.armed = false → s.stagesNext k l = true →
        let fetched := s.fetchSpace l.port ((smGet s.rings l.ring).map (·.fn) |>.getD 0) l.ring (l.tenant.getD 0) l.space l.addr.toNat l.len bale
        (fetched = (none, sx) → Completes (.baleStaged k bale) s (fun s' => s'.mem = sx.mem ∧ s'.loads = gone ∧
          ∀ r ∈ rs, (s'.region r).stage = .none ∧ (s'.region r).shadow = (s.region r).shadow)) ∧
        (∀ bs secs, fetched = (some bs, sx) → baleHeader bs l.len l.mask s.part.b0 = none →
          stageSections bs (rs.zipIdx.map (fun e => (e.2, e.1))) [] = (none, secs) →
          crc32c (bs.take (l.len - 4)) = field bs (l.len - 4) 4 → ofLe (sha256 bs) = l.digest.toNat →
          Completes (.baleStaged k bale) s (fun s' => s'.mem = sx.mem ∧
            s'.loads = s.loads.map (fun x => if x.ring = l.ring ∧ x.seq = l.seq then { x with armed := true } else x) ∧
            (∀ r ∈ rs, (s'.region r).stage = .armed ∧ (s'.region r).imageValid = false ∧ (s'.region r).st = (s.region r).st) ∧
            ∀ r frames id m, secs = [(r, frames, id, m)] → (s'.region r).shadow = frames ∧ (s'.region r).shadowId = BitVec.ofNat 64 id))) ∧
      (s.tick.inGuard = true → l.chosen = true → (l.clear = true ∨ ∀ r ∈ rs, s.clocksOk r = true) → Completes (.baleCommit k) s (fun s' =>
        s'.mem = s.mem ∧ s'.loads = gone ∧ ∀ r ∈ rs, (s'.region r).stage = .none ∧
          (l.clear = true → (s'.region r).st = .empty ∧ (s'.region r).imageValid = false ∧ (s'.region r).active = [] ∧ (s'.region r).bram = []) ∧
          (l.clear = false → (s'.region r).st = .running ∧ (s'.region r).imageValid = true ∧ (s'.region r).userId = (s.region r).shadowId ∧
            (s'.region r).active = logicFrames (s.region r).shadow ∧ (s'.region r).bram = ramFrames (s.region r).shadow))) ∧
      (l.armed = true → (l.chosen = false ∨ s.tick.inGuard = false) → Completes (.commitWaitExpiry k) s (fun s' =>
        s'.mem = s.mem ∧ s'.loads = gone ∧ ∀ r ∈ rs, (s'.region r).stage = .none ∧ (l.clear = false → (s'.region r).imageValid = false)))) ∧
    (∀ r : Nat, r < 32 → s.board.rails = true → (∀ j, j < 8 → (s.region (8 * (r / 8) + j)).stage ≠ .staging) →
      Completes (.configScrub r none) s (fun s' => s' = { s with lgc := s'.lgc }) ∧
      (∀ a v bad, (s.region r).imageValid = true → (a / 2 ^ 28 = 0 ∨ a / 2 ^ 28 = 2) → a % 2 ^ 28 < typeFrames (a / 2 ^ 28) →
        (bad = true ∨ v ≠ smGetD (s.region r).shadow a 0) → Completes (.configScrub r (some (a, v, bad))) s (fun s' =>
          s' = { s with lgc := s'.lgc, regions := s'.regions, integ := s'.integ } ∧
          (bad = false → s'.region r = { s.region r with active := smSet (s.region r).active a (smGetD (s.region r).shadow a 0) }) ∧
          (bad = true → s'.region r = { s.region r with upset := true }) ∧
          ∃ e, s'.integ.reports = s.integ.reports ++ [e] ∧ e.kind = 11 ∧ e.unit = r))) ∧
    (∀ (a : Agent) (d n : Nat) (khz : Word), n < 4 → Writable s a (lgcBlock d + 0x20 + 8 * n) → 10000 ≤ khz.toNat → khz.toNat ≤ 800000 →
      s.oscInUse d n = false → Completes (.oscWrite a d n khz) s (fun s' => s' = { s with lgc := s'.lgc, answer := .ok } ∧
        (smGetD (s'.lgcDie d).osc n 100000).toNat = khz.toNat)) ∧
    (∀ (a : Agent) (d : Nat) (v : DWord), Writable s a (lgcBlock d + 0x40) →
      let own := fun (w i : Nat) => w / 2 ^ (4 * i) % 16
      let runs := fun (o : Nat) => 8 ≤ o ∧ (s.region (8 * d + (o - 8))).st = .running
      (∀ i, i < 9 → (own v.toNat i < 2 ∨ 8 ≤ own v.toNat i) ∧
        (own v.toNat i ≠ own (s.lgcDie d).hb.toNat i → ¬runs (own v.toNat i) ∧ ¬runs (own (s.lgcDie d).hb.toNat i))) →
      Completes (.hbOwnerWrite a d v) s (fun s' => s' = { s with lgc := s'.lgc, answer := .ok } ∧ (s'.lgcDie d).hb = BitVec.ofNat 36 v.toNat))

/-- R559: the rt bit of a design's read, write or atomic marks it real-time only on a port that boundary frame 1 of its region marks
real-time; on any other port the bit is cleared. -/
def Obligations.RealTimeBitNeedsItsPort : Prop :=
  ∀ (s sx : State) (n p t need : Nat) (q : OReq) (op : PktOp) (pa : DWord) (pk : Packet) (r : Option Nat),
    n < 384 → q.tag < 256 → q.sized = true → s.regionOpen (lportRegion n) = true → s.tagInUse n q.tag = false → (s.lport n).fences = [] →
    s.partOfRegion (lportRegion n) = some p → s.partHeld p = false → (s.partRec p).tenant = some t →
    (∀ a ∈ s.accesses, a.issuer ≠ .lport n) → (∀ c ∈ s.fab.copies, ∀ l, c.lport = some l → l.1 ≠ n) →
    (∀ m ∈ s.fab.mcasts, ∀ l, m.lport = some l → l.1 ≠ n) →
    (q.op = .read ∧ op = .read ∧ need = needRead) ∨ (q.op = .write ∧ op = .write ∧ need = needWrite) ∨
      (q.op = .atomic ∧ op = .atomic ∧ need = needAtomic) →
    s.lportRange n t q.addr q.size need = (some pa, sx) →
    sx.mkReq (.lport n) op pa q.size (if op = .write then slice q.data 0 q.size else []) = some (pk, r) →
    Completes (.oreq n q) s (fun s' => ∃ b, s'.accesses = s.accesses ++ [b] ∧
      b.req.rt = (q.rt && (smGetD (s.region (lportRegion n)).active (2 * 2 ^ 28 + 1) 0).getLsbD (n % 96 % 12)))

/-- R601, R606, R629 to R638, R642 to R644: a reset advances its units' epochs, and on each tile that it covers ends the task and the
queue, empties the threads, zeroes the tile's memory and leaves other tiles as they were; a module reset clears partitions,
tenants and rings and starts phase 8. The tile's image runs from 0x0000 once it is fetched. A killed task that has not drained
within 2 ms is reported all the same. Parking and deep idle take tiles' power away; a wake or an exit brings them back to a reset. -/
def Obligations.ResetsParkingAndDeepIdle : Prop :=
  ∀ (s : State),
    let rare := ∀ k, (s.bup.recent.filter (fun e => e.1 == k)).length < 64
    let wiped := fun (s' : State) (t : Nat) => (s'.ctl t).power = .resetting ∧ (s'.ctl t).inReset = true ∧ s'.tileEpoch t = s.tileEpoch t + 1 ∧
      (s'.tile t).task = none ∧ (s'.tile t).queue = [] ∧ (s'.tile t).threads = [] ∧ ∀ i, i < 0x170000 → memGet s'.mem (tileBase t + i) = 0
    let off := fun (s' : State) (t : Nat) => (s'.ctl t).power = .off ∧ (s'.tile t).task = none ∧ (s'.tile t).queue = [] ∧ (s'.tile t).threads = []
    let kept := fun (s' : State) (ts : List Nat) => (∀ u, u ∉ ts → s'.tile u = s.tile u) ∧
      ∀ x, (∀ t ∈ ts, x < tileBase t ∨ tileBase t + 0x170000 ≤ x) → memGet s'.mem x = memGet s.mem x
    let runs := fun (cmd : Instr) (ts : List Nat) (P : State → Prop) =>
      Completes cmd s (fun s' => (∀ t ∈ ts, s.resettable t = true → wiped s' t) ∧ kept s' ts ∧ P s')
    (rare →
      (∀ t, s.bup.grangerUp = true → s.tileNamed t = true → runs (.tileReset (.granger t)) [t] (fun _ => True)) ∧
      (∀ k, s.bup.grangerUp = true → s.clusterNamed k = true → runs (.clusterReset (.granger k)) (clusterTiles k) (fun s' =>
        s'.clusterEpoch k = s.clusterEpoch k + 1)) ∧
      (∀ (src : CmdSrc) (c : Crit), c.slot = ownerSlot → critLayout c.b resetUsed = true → (∀ t, src ≠ .granger t) →
        (CritReady s src 2 (selAt8 0) c → s.tileNamed c.target = true → runs (.tileReset src) [c.target] (fun s' => CounterUsed s s' c)) ∧
        (CritReady s src 2 (selAt8 1) c → s.clusterNamed c.target = true → runs (.clusterReset src) (clusterTiles c.target) (fun s' =>
          CounterUsed s s' c ∧ s'.clusterEpoch c.target = s.clusterEpoch c.target + 1)) ∧
        (CritReady s src 2 (selAt8 2) c → c.target < Config.partitions → runs (.partitionReset src) (s.partTiles c.target) (fun s' =>
          CounterUsed s s' c ∧ s'.partEpoch c.target = s.partEpoch c.target + 1)) ∧
        (CritReady s src 2 (selAt8 3) c → Completes (.moduleReset src) s (fun s' => CounterUsed s s' c ∧ s'.bup.phase = 8 ∧ s'.bup.ready = false ∧
          s'.rings = [] ∧ s'.parts = [] ∧ s'.tenants = [] ∧ ∀ t, t < Config.tiles → s'.tileEpoch t = s.tileEpoch t + 1)))) ∧
    (∀ (t : Nat) (image : List Byte), t < Config.tiles → (s.ctl t).power = .resetting → (s.ctl t).fetched = false → s.bup.grangerUp = true →
      Memory.wf s.mem = true → image.length ≤ 8192 → Completes (.tileFirmwareFetched t image) s (fun s' =>
        (∀ i, i < image.length → memGet s'.mem (instAddr t 0 + i) = image.getD i 0) ∧
        (∀ x, (x < instAddr t 0 ∨ instAddr t 0 + image.length ≤ x) → memGet s'.mem x = memGet s.mem x) ∧
        (s'.ctl t).power = .booting ∧ (s'.ctl t).fetched = true ∧ (s'.tile t).firmware = true ∧ (s'.thread t 0).st = .firmware ∧
        (s'.thread t 0).pc = 0 ∧ ∀ u, u ≠ t → s'.tile u = s.tile u)) ∧
    (∀ t k, s.killedOf t (fun k => !s.drained633 k) = some k → Completes (.resetDrainLate t) s (fun s' => s'.mem = s.mem ∧
      (∀ u, u ≠ t → s'.tile u = s.tile u) ∧ s'.tile t = { s.tile t with seqCtr := (s'.tile t).seqCtr } ∧
      s'.bup.killed = s.bup.killed.erase k ∧ ∃ r, Sent s' (tileIo k.launch.ioDie k.tile) (.report r) ∧ r.ring = k.launch.ring ∧
        r.seq = k.launch.seq ∧ r.code = 0x0D)) ∧
    (∀ (a : Agent) (c : Nat), Writable s a (parkReg c) → c < Config.clusters →
      (s.bup.park.getLsbD c = false → s.partOfCluster c = none → Completes (.clusterPark a c) s (fun s' => s'.answer = .ok ∧
        s'.bup.park = setBit s.bup.park c true ∧ kept s' (clusterTiles c) ∧ ∀ t ∈ clusterTiles c, s.resettable t = true → off s' t)) ∧
      (s.bup.park.getLsbD c = true → s.bup.phase = 6 → Completes (.clusterWake a c) s (fun s' => s'.answer = .ok ∧ s'.mem = s.mem ∧
        s'.tiles = s.tiles ∧ s'.bup.park = setBit s.bup.park c false ∧ ∀ t ∈ clusterTiles c, s.fusedOff t = false → (s.ctl t).disabled = false →
          (s'.ctl t).power = .resetting ∧ (s'.ctl t).inReset = true ∧ (s'.ctl t).sigDue = true ∧ (s'.ctl t).fetched = false))) ∧
    (∀ a : Agent, Writable s a 0x20038 →
      (s.bup.deep = false → s.mayDeepIdle = true → Completes (.deepIdleEnter a) s (fun s' => s'.answer = .ok ∧ s'.bup.deep = true ∧
        (∀ t, t < Config.tiles → s.resettable t = true → off s' t) ∧ ∀ k, k < s.part.nStacks → (s'.stack k).keep = 2)) ∧
      (s.bup.deep = false → s.mayDeepIdle = false → (∀ d f, a ≠ .page d f) → Completes (.deepIdleEnter a) s (fun s' =>
        s'.mem = s.mem ∧ s'.tiles = s.tiles ∧ s'.bup = s.bup ∧ s'.answer = .busError))) ∧
    (∀ cause : WakeCause, (∀ a, cause = .written a → Writable s a 0x20038) →
      (cause = .descriptor → s.rings.any (fun e => !e.2.held.isEmpty) = true) → (cause = .fabric → s.fab.parcels.any (fun e => e.2.inPort.isSome && e.2.frame.wakes s.ownId) = true) →
      s.bup.deep = true → s.bup.exiting = false → s.bup.grangerUp = true → Completes (.deepIdleExit cause) s (fun s' => s'.mem = s.mem ∧
        (∀ r, (s'.region r).stopped = false) ∧ ∀ t, s.tileUsable t = true → (s.ctl t).power = .off → s.bup.park.getLsbD (tileCluster t) = false →
          (s'.ctl t).power = .resetting ∧ (s'.ctl t).fetched = false))

/-- R618 to R627, R640, R641, R648, R682, R697 to R704: power good brings the rails up and, with Granger's boot, phase 2; its fall, a
lost supply, a rail fault and a thermal trip take every domain but the management domain's power. A release of MOD_RESET# boots
Granger, and a boot without its images stops bring-up with its code. Phase 2 disables what a checker finds bad, phase 3 ends with
every stack trained, phase 4 tests stacks pair by pair and wakes tiles wave by wave, and the table's build makes the module ready. -/
def Obligations.BringUpProceedsByPhases : Prop :=
  ∀ (s : State),
    let dark := fun (s' : State) => s'.board.rails = false ∧ s'.mem = [] ∧ s'.tiles = [] ∧ s'.rings = [] ∧ s'.bup.ready = false ∧
      s'.pending = s.pending ∧ s'.part = s.part ∧ ∀ k, s'.keySlot k = { s.keySlot k with last := (s.keySlot k).high }
    (s.board.pwrGood = false → s.board.aux = true →
      (s.board.rails = false → Completes (.pwrGoodRise true) s (fun s' => s'.mem = s.mem ∧ s'.board.pwrGood = true ∧ s'.board.p48 = true ∧
        s'.board.rails = true ∧ (∀ d, d < 4 → (s'.die d).vcore = BitVec.ofInt 16 (s.die d).vboot) ∧
        s'.bup.phase = if s.bup.bootDone = true ∧ s.bup.grangerUp = true ∧ s.bup.phase = 0 then 2 else s.bup.phase)) ∧
      Completes (.pwrGoodRise false) s (fun s' => s' = { s with board := { s.board with pwrGood := true, p48 := false, railFault := true } })) ∧
    (s.board.rails = true →
      Completes .pwrGoodFall s (fun s' => dark s' ∧ s'.board.pwrGood = false) ∧
      Completes .p48vDrop s (fun s' => dark s' ∧ s'.board.p48 = false) ∧
      (s.board.aux = true → s.board.pwrGood = true → Completes .railFault s (fun s' => dark s' ∧ s'.board.railFault = true)) ∧
      Completes .thermalTrip s (fun s' => dark s' ∧ s'.board.railFault = true ∧
        s'.board.trips = if s.bup.grangerUp then s.board.trips + 1 else s.board.trips)) ∧
    (s.board.aux = true → Completes .auxLoss s (fun s' => dark s' ∧ s'.board.aux = false ∧ s'.bup.grangerUp = false ∧
      s'.bup.bootCfg = s.bup.bootCfg)) ∧
    (s.board.resetLow = false → s.board.aux = true → Completes .modResetAssert s (fun s' => s'.mem = s.mem ∧ s'.tiles = s.tiles ∧
      s'.rings = s.rings ∧ s'.board = { s.board with resetLow := true } ∧ s'.bup.grangerUp = false ∧ s'.bup.bootDone = false ∧ s'.health.mctp = none)) ∧
    (s.board.resetLow = true →
      (s.bootCode ≠ 0 → Completes .modResetRelease s (fun s' => s' = { s with bup := s'.bup, board := { s.board with resetLow := false, aux := true } } ∧
        s'.bup.phase = 7 ∧ s'.bup.failCode.toNat = s.bootCode ∧ s'.bup.grangerUp = (s.bootCode != 1))) ∧
      (s.bootCode = 0 → s.bup.wasReady = true → Completes .modResetRelease s (fun s' => s'.mem = s.mem ∧ s'.board.resetLow = false ∧
        s'.bup.bootDone = true ∧ s'.bup.phase = 1 ∧ ∀ x, (s.fwTarget 0).taken = some x → (s'.fwTarget 0).running = x.ver)) ∧
      (s.bootCode = 0 → s.bup.wasReady = false → s.board.rails = false → Completes .modResetRelease s (fun s' => s'.mem = s.mem ∧
        s'.board.resetLow = false ∧ s'.bup.bootDone = true ∧ s'.bup.grangerUp = true ∧ s'.bup.phase = 0))) ∧
    (∀ (bad : List Checked) (tested : Word), s.bup.phase = 2 → s.bup.grangerUp = true → s.board.rails = true →
      Completes (.bringupCheckers bad tested false) s (fun s' => s'.mem = s.mem ∧ s'.bup.phase = 7 ∧ s'.bup.failCode = 3) ∧
      (bad.any Checked.fatal = true → Completes (.bringupCheckers bad tested true) s (fun s' => s'.bup.phase = 7 ∧ s'.bup.failCode = 2)) ∧
      (bad = [] → Completes (.bringupCheckers bad tested true) s (fun s' => s'.mem = s.mem ∧ s'.bup.phase = 3 ∧ s'.bup.checked = true ∧
        s'.integ.done = true ∧ s'.integ.failed = false ∧ s'.integ.tested = tested ∧
        ∀ k, k < s.part.nStacks → (s.stack k).st = .untrained → (s'.stack k).st = .training))) ∧
    (s.bup.phase = 3 → s.bup.grangerUp = true → (∀ k, k < s.part.nStacks → (s.stack k).swept = true) → Completes .trainingComplete s (fun s' =>
      s'.mem = s.mem ∧ s'.bup.phase = 4 ∧ s'.bup.trained = true ∧ s'.bup.memRound = 0 ∧
      ∀ k, k < 2 → (s'.stack k).testing = ((s.stack k).st != .failed))) ∧
    (∀ seconds, s.bup.phase = 4 → s.bup.grangerUp = true → 2 * s.bup.memRound < s.part.nStacks → Completes (.memtestPairDone [] seconds) s (fun s' =>
      s'.bup.memRound = s.bup.memRound + 1 ∧ s'.tiles = s.tiles ∧ ∀ k, (k = 2 * s.bup.memRound ∨ k = 2 * s.bup.memRound + 1) → (s.stack k).st ≠ .failed →
        (s.stack k).inService ≠ 0 → (s'.stack k).testing = false ∧ (s'.stack k).tested = true ∧
        (∀ i, i < Config.stackBytes → memGet s'.mem (stackBase k + i) = 0) ∧ ∃ m, smGet s'.bup.memtest k = some m ∧ m.result = 1)) ∧
    (s.bup.phase = 4 ∨ s.bup.phase = 8 → s.bup.grangerUp = true →
      let w := s.bup.wavesStarted
      (w < 8 → Completes .tileWaveStart s (fun s' => s'.mem = s.mem ∧ s'.tiles = s.tiles ∧ s'.bup.wavesStarted = w + 1 ∧
        ∀ t ∈ waveTiles w, s.fusedOff t = false → (s.ctl t).disabled = false → s.bup.park.getLsbD (tileCluster t) = false →
          (s'.ctl t).power = .resetting ∧ (s'.ctl t).sigDue = true ∧ (s'.ctl t).fetched = false)) ∧
      (∀ v, v < w → Completes (.waveTimeout v) s (fun s' => s'.mem = s.mem ∧ ∀ t ∈ waveTiles v,
        (s.tileDone t = false → (s'.ctl t).disabled = true ∧ (s'.ctl t).power = .off) ∧ (s.tileDone t = true → s'.ctl t = s.ctl t))) ∧
      (s.bup.wavesDone = 8 → (s.bup.phase = 4 → s.part.nStacks ≤ 2 * s.bup.memRound) → Completes .capabilityBuild s (fun s' => s'.mem = s.mem ∧
        s'.tiles = s.tiles ∧ s'.bup.phase = 6 ∧ s'.bup.ready = true ∧ s'.bup.wasReady = true ∧ s'.cap.built = true ∧ s'.tick.enable = true ∧
        ∀ d, d < s.part.nIoDies → (s'.hostDie d).enable = true))) ∧
    (∀ (t : Nat) (badCols : Word), t < Config.tiles → s.bup.grangerUp = true → (s.ctl t).sigDue = true → (s.ctl t).fetched = true →
      (28 ≤ popcount (s.fuseCols t &&& ~~~((s.ctl t).removed ||| badCols)) → Completes (.tileSignature t badCols false) s (fun s' =>
        s'.mem = s.mem ∧ (s'.ctl t).removed = (s.ctl t).removed ||| badCols ∧ (s'.ctl t).sigDue = false ∧ (s'.ctl t).reported = true ∧
        (s'.ctl t).disabled = (s.ctl t).disabled)) ∧
      Completes (.tileSignature t badCols true) s (fun s' => s'.mem = s.mem ∧ (s'.ctl t).disabled = true ∧ (s'.ctl t).power = .off ∧
        (s'.tile t).firmware = false)) ∧
    (∀ (a : Agent) (v : Word), Writable s a 0x20008 →
      (v.toNat % 4 < 2 → Completes (.bootCfgWrite a v) s (fun s' => s' = { s with bup := { s.bup with bootCfg := v.setWidth 2 }, answer := .ok })) ∧
      (2 ≤ v.toNat % 4 → Completes (.bootCfgWrite a v) s (fun s' => s'.bup = s.bup ∧ s'.mem = s.mem ∧ s'.answer = .busError))) ∧
    (s.bup.bootDone = true → s.bup.grangerUp = false → s.board.resetLow = false → s.bup.deep = false →
      Completes .grangerReturn s (fun s' => s'.mem = s.mem ∧ s'.tiles = s.tiles ∧ s'.bup.grangerUp = true ∧ s'.bup.phase =
        if s.bup.wasReady then (if s.bup.ready then 6 else 8) else (if s.board.rails then 2 else 0))) ∧
    (∀ target slot ver, s.bup.failCode = 1 → target ≤ 2 → s.board.aux = true → Completes (.boardRecovery target slot ver) s (fun s' =>
      s'.mem = s.mem ∧ ∃ x : FwSlot, x.valid = true ∧ x.ver = ver ∧ x.floor.toNat ≤ ver.toNat ∧ (s'.fwTarget target).sel = (s.fwTarget target).sel ∧
        (slot = true → (s'.fwTarget target).slot1 = x ∧ (s'.fwTarget target).slot0 = (s.fwTarget target).slot0) ∧
        (slot = false → (s'.fwTarget target).slot0 = x ∧ (s'.fwTarget target).slot1 = (s.fwTarget target).slot1)))

/-- R600, R610 to R614: a report that reaches the collector becomes the next log entry, or one more folded into its unit's last; at the
end of its second each rate window is empty. R655 to R670, R680, R681, R695: a slice runs the tile's next step and moves on, or
notes its first mismatch; a request puts its tiles' cycles at their start; a checker's failure takes its unit out; a poll copies each
router's count and each unit's state. A sample is kept with its tick; the plan follows the slack; a voltage moves by its step in a
guard window and the core clock by a relock. -/
def Obligations.ReportsAndHealthActionsTakeEffect : Prop :=
  ∀ (s : State),
    (∀ (i : Nat) (within : Bool) (r : Report), s.integ.reports[i]? = some r →
      (within = false ∨ s.integ.foldInto r = none → Completes (.errorReport i within) s (fun s' => s'.mem = s.mem ∧
        s'.integ.reports = removeNth s.integ.reports i ∧ s'.integ.logCount = s.integ.logCount + 1 ∧
        smGet s'.integ.log (s.integ.logCount % 256) = some (s.integ.logCount, r))) ∧
      (∀ e, within = true → s.integ.foldInto r = some e → Completes (.errorReport i within) s (fun s' => s' = { s with integ := s'.integ } ∧
        s'.integ.reports = removeNth s.integ.reports i ∧ s'.integ.logCount = s.integ.logCount ∧
        smGet s'.integ.log e.1 = some (e.2.1, { e.2.2 with folded := min 65535 (e.2.2.folded + 1) })))) ∧
    Completes .ceRateWindow s (fun s' => s'.mem = s.mem ∧ s'.integ.ceWin = [] ∧ s'.integ.ceOver = false ∧
      ((∀ e ∈ s.integ.ceWin, s.integ.ceThresh = 0 ∨ e.2 ≤ s.integ.ceThresh.toNat) → s'.integ.logCount = s.integ.logCount) ∧
      (∀ e, s.integ.ceWin = [e] → s.integ.ceThresh ≠ 0 → s.integ.ceThresh.toNat < e.2 → s'.integ.logCount = s.integ.logCount + 1)) ∧
    Completes .transitRateWindow s (fun s' => s'.mem = s.mem ∧ s'.integ.transitWin = 0 ∧ s'.integ.transitOver = false ∧
      s'.integ.logCount = s.integ.logCount +
        (if s.integ.transitThresh ≠ 0 ∧ s.integ.transitThresh.toNat < s.integ.transitWin then 1 else 0)) ∧
    (∀ (t n : Nat) (rest : List Nat), s.maySlice t = true → s.sliceSteps ≠ 0 → (s.tile t).active = false →
      s.stepsFrom t (s.ctl t).nextStep = n :: rest →
      Completes (.selftestSlice t [true]) s (fun s' => s'.mem = s.mem ∧ s'.health.slices = s.health.slices + 1 ∧ (s'.ctl t).failedOnce = false ∧
        (s'.ctl t).nextStep = (if rest = [] then 0 else n + 1) ∧ (s'.ctl t).stepsLeft = BitVec.ofNat 8 rest.length ∧
        ∀ u, u ≠ t → s'.tile u = s.tile u) ∧
      ((s.ctl t).failedOnce = false → Completes (.selftestSlice t [false]) s (fun s' => s'.mem = s.mem ∧ (s'.ctl t).failedOnce = true ∧
        (s'.ctl t).nextStep = (s.ctl t).nextStep ∧ (s'.ctl t).disabled = (s.ctl t).disabled))) ∧
    (∀ (a : Agent) (cluster : Bool) (target : Nat), Writable s a 0x30010 →
      let us := (requestOf (cluster, target)).filter (fun t => s.tileUsable t && !s.bup.park.getLsbD (tileCluster t))
      us ≠ [] → (cluster = true → target < Config.clusters) → s.health.requests.length < 16 →
      Completes (.selftestRequest a cluster target) s (fun s' => s'.mem = s.mem ∧ s'.tiles = s.tiles ∧ s'.answer = .ok ∧
        s'.health.requests = s.health.requests ++ [(cluster, target)] ∧ ∀ t ∈ us, (s'.ctl t).requested = true ∧ (s'.ctl t).nextStep = 0)) ∧
    (∀ t, s.bup.grangerUp = true → s.tileUsable t = true → s.bup.park.getLsbD (tileCluster t) = false →
      Completes (.selftestOverdue t) s (fun s' => s'.mem = s.mem ∧ (s'.ctl t).overdue = true ∧ (s'.ctl t).overduePosted.isSome = true)) ∧
    (s.tick.inGuard = true → s.bup.grangerUp = true → s.bup.ready = true →
      (∀ r, Completes (.serviceCheckerTest [.transit r]) s (fun s' => s'.mem = s.mem ∧ s'.tiles = s.tiles ∧ s'.health.unserviceable = true ∧
        ∃ e, s'.integ.reports = s.integ.reports ++ [e] ∧ e.kind = 12 ∧ e.unit = r)) ∧
      (∀ k, Completes (.serviceCheckerTest [.stack k]) s (fun s' => s'.mem = s.mem ∧ (s'.stack k).st = .failed)) ∧
      (∀ r, Completes (.serviceCheckerTest [.region r]) s (fun s' => s'.bup.badRegions = setBit s.bup.badRegions r true)) ∧
      (∀ t, Completes (.serviceCheckerTest [.tile t]) s (fun s' => s'.mem = s.mem ∧ (s'.ctl t).disabled = true ∧ (s'.ctl t).power = .off ∧
        (s'.tile t).queue = []))) ∧
    (s.bup.grangerUp = true → s.bup.wasReady = true → (s.routers.map (·.1)).Nodup → Completes .parityPoll s (fun s' => s'.mem = s.mem ∧
      s'.tiles = s.tiles ∧ ∀ r ∈ s.routers.map (·.1), let now : BitVec 48 := smGetD (s.router r).ctr 0x148 0
        (s'.ctl r).parityLast = now ∧
        (s'.ctl r).parityRun = (if (s.ctl r).parityLast.toNat < now.toNat then (s.ctl r).parityRun + 1 else 0))) ∧
    (∀ slacks : List Int, s.bup.grangerUp = true → s.bup.checked = true → slacks.length = 4 → Completes (.ageingSample slacks) s (fun s' =>
      s'.mem = s.mem ∧ ∀ d, d < 4 → (s'.die d).samples.getLast? = some (s.tick.count.toNat, slacks.getD d 0) ∧
        ((s.die d).samples = [] → (s'.die d).slack = satS16 (slacks.getD d 0)) ∧ (s'.die d).vplan = (s.die d).vplan)) ∧
    (s.bup.grangerUp = true → s.bup.checked = true → s.health.frozen = false → Completes .marginReplan s (fun s' => s'.mem = s.mem ∧
      ∀ d, d < 4 → let x := s.die d
        let sl := x.slack.toInt
        let target : Int := s.health.targetPs.toNat
        let k : Int := x.kps.toNat
        (s'.die d).vcore = x.vcore ∧ (x.samples = [] → (s'.die d).vplan = x.vplan) ∧
        (x.samples ≠ [] → x.kps ≠ 0 →
          (target ≤ sl → sl ≤ target + k → 650 ≤ x.vplan → x.vplan ≤ 900 → (s'.die d).vplan = x.vplan) ∧
          (sl < target → (s'.die d).vplan = max 650 (min 900 (x.vplan + 5 * ((2 * (target - sl) + k - 1) / k)))) ∧
          (target + k < sl → (s'.die d).vplan = max 650 (min 900 (x.vplan - 5)))))) ∧
    (∀ d, d < 4 → s.marginWindow = true → s.health.windowTaken.getLsbD d = false → s.dieFree d = true → s.stepMv d ≠ 0 →
      let v : Int := (s.die d).vcore.toNat
      (v < s.wantMv d → Completes (.marginApply d) s (fun s' => s'.mem = s.mem ∧ s'.tiles = s.tiles ∧
        (s'.die d).vcore = BitVec.ofInt 16 (v + s.stepMv d) ∧ s'.health.windowTaken = setBit s.health.windowTaken d true ∧
        ∀ e, e ≠ d → (s'.die e).vcore = (s.die e).vcore)) ∧
      (s.wantMv d < v → s.health.fMhz.toNat ≤ s.wantMhz → Completes (.marginApply d) s (fun s' => s'.mem = s.mem ∧ s'.tiles = s.tiles ∧
        (s'.die d).vcore = BitVec.ofInt 16 (v - s.stepMv d) ∧ s'.health.windowTaken = setBit s.health.windowTaken d true))) ∧
    (∀ d, d < 4 → s.bup.grangerUp = true → (s.dieThere d = false ∨ s.clockThere = false) → Completes (.marginDeferTimeout d) s (fun s' =>
      s' = { s with funcs := s'.funcs, host := s'.host, hostMem := s'.hostMem } ∧ s' = s.ownerEvent 0x47 0xFF d d)) ∧
    (s.marginWindow = true → s.health.windowTaken = 0 → (∀ d, d < 4 → s.dieFree d = true) → s.wantMhz ≠ s.health.fMhz.toNat → 7 ≤ s.guardUs →
      (s.health.fMhz.toNat < s.wantMhz → ∀ d, d < 4 → s.wantMv d ≤ (s.die d).vcore.toNat) → Completes .clockChange s (fun s' =>
        s' = { s with health := { s.health with relocking := true, fNew := BitVec.ofNat 16 s.wantMhz, windowTaken := setBit s.health.windowTaken 4 true } })) ∧
    (s.health.relocking = true → Completes .pllLock s (fun s' => s'.mem = s.mem ∧ s'.health.relocking = false ∧ s'.health.fMhz = s.health.fNew ∧
      s'.health.windowTaken = s.health.windowTaken)) ∧
    (s.bup.grangerUp = true → s.bup.ready = true → Completes .grangerPoll s (fun s' => s'.mem = s.mem ∧ s'.tiles = s.tiles ∧
      s'.health.viewValid = true ∧ s'.health.units = BitVec.ofNat 16 s.unitStates.length))

/-- A step runs exactly the command at the front of the queue, on the state with the rest of the queue; on an empty queue the block
idles (the model's choice: log entry 2). -/
def Obligations.StepRunsFrontCommand : Prop :=
  (∀ (s : State) (c : Instr) (rest : List Instr), s.pending = c :: rest →
    Sys2Proof.Machine.step s = Sys2Proof.Machine.exec c { s with pending := rest }) ∧
  (∀ s : State, s.pending = [] → Sys2Proof.Machine.step s = .next s)

/-- R75 to R83, R228, R243, R314, R418, R420, R466 to R475, R497, R531, R536, R542, R562, R574, R586, R601, R615 to R618, R648,
R651, R686, R687, R695: what the spec gives the registers at reset, read from the state after reset. -/
def Obligations.ResetLeavesTheSpecValues : Prop :=
  let s := State.reset
  (s.tick.enable = false ∧ s.tick.role = 0 ∧ s.tick.upstream = 0 ∧ s.tick.count = 0 ∧ s.tick.param.guardM1 = 7 ∧
    s.tick.param.period = 250000 ∧ s.tick.pendParam = none ∧ s.tick.offset = 0 ∧ s.tick.limitM1 = 63 ∧ s.tick.stalls = 0 ∧ s.tick.maxStall = 0) ∧
  (∀ p, s.tickCfg p = {} ∧ smGetD s.tick.miss p 0 = 0) ∧
  (∀ t thr, (s.tile t).task = none ∧ (s.tile t).queue = [] ∧ (s.tile t).firmware = false ∧ (s.thread t thr).st = .off ∧
    (s.tile t).str.split = 0x00040606 ∧ (s.tile t).seqTask = 0 ∧ (s.tile t).fault = 0 ∧ (s.tile t).arrErr = 0 ∧ (s.tile t).vecErr = 0) ∧
  (∀ k, (s.stack k).st = .untrained ∧ (s.stack k).rdThresh = 16 ∧ (s.stack k).hotForce = false ∧ (s.stack k).keep = 8 ∧ (s.stack k).err = 0) ∧
  (∀ d, (s.kfb d).enable = false ∧ (s.kfb d).settle = 20 ∧ (s.kfb d).flowDead = 1000 ∧ (s.kfb d).e2e = 100 ∧ (s.kfb d).hold = 20 ∧
    (s.kfb d).redMs = 100 ∧ (s.kfb d).tickDown = 0) ∧
  (s.fab.idAssigned = false ∧ s.fab.moduleId = 0) ∧
  (∀ d, (s.hostDie d).enable = false ∧ (s.hostDie d).poll = 10 ∧ (s.hostDie d).linkUp = false) ∧
  (∀ d f, (s.func d f).st = .idle ∧ (s.func d f).enable = false ∧ (s.func d f).evLog2 = 0 ∧ (s.func d f).adminLog2 = 4 ∧ (s.func d f).incarnation = 0) ∧
  (∀ k, k ≠ 2049 → (s.keySlot k).key = none ∧ (s.keySlot k).last = 0 ∧ (s.keySlot k).high = 0) ∧
  (∀ r, (s.region r).st = .empty ∧ (s.region r).stage = .none ∧ (s.region r).imageValid = false) ∧
  (∀ d, (s.lgcDie d).commitWait = 1000 ∧ (s.lgcDie d).hb = 0 ∧ ∀ n, smGetD (s.lgcDie d).osc n 100000 = 100000) ∧
  (s.integ.eventEn = 0xFFFF ∧ s.integ.ceThresh = 1024 ∧ s.integ.transitThresh = 16 ∧ s.integ.logCount = 0 ∧
    ∀ n, s.tileEpoch n = 0 ∧ s.clusterEpoch n = 0 ∧ s.partEpoch n = 0) ∧
  (s.bup.ready = false ∧ s.bup.park = 0 ∧ s.bup.resetLast = 0 ∧ s.bup.deep = false) ∧
  (s.health.stEnable = true ∧ s.health.overdueH = 48 ∧ s.health.cycleH = 24 ∧ s.health.maxTiles = 4 ∧ s.health.replanH = 6 ∧
    s.health.targetPs = 30 ∧ s.health.floorPs = 10 ∧ s.health.deferMin = 60 ∧ s.health.fTarget = 1200 ∧ s.health.pollUs = 1000) ∧
  (s.parts = [] ∧ s.tenants = [] ∧ s.rings = [] ∧ s.loads = [] ∧ s.pending = [])

/-- Every step keeps the canonical form of memory: addresses strictly rising and no byte listed that an unlisted address reads as
(the model's own form of memory, log entry 4). -/
def Obligations.StepKeepsMemoryCanonical : Prop :=
  ∀ s s' : State, Memory.wf s.mem = true → Sys2Proof.Machine.step s = .next s' → Memory.wf s'.mem = true

/-- R26, R27, R531, R535: in every key slot the counter that was last accepted lies at or below the high-water mark that the flash
holds, and no cluster and no logic region is in two partitions. Every step keeps this. -/
def Obligations.StepKeepsCountersAndPartitions : Prop :=
  let inv := fun (s : State) => (∀ k, (s.keySlot k).last ≤ (s.keySlot k).high) ∧
    ∀ p q, p ≠ q → (s.partRec p).clusters &&& (s.partRec q).clusters = 0 ∧ (s.partRec p).regions &&& (s.partRec q).regions = 0
  ∀ s s' : State, inv s → Sys2Proof.Machine.step s = .next s' → inv s'

/-- The state after reset meets both invariants that every step keeps: memory has its canonical form, every slot's counter lies at or
below its mark, and no two partitions share a cluster or a region. -/
def Obligations.ResetMeetsTheInvariants : Prop :=
  Memory.wf State.reset.mem = true ∧ (∀ k, (State.reset.keySlot k).last ≤ (State.reset.keySlot k).high) ∧
  ∀ p q, p ≠ q → (State.reset.partRec p).clusters &&& (State.reset.partRec q).clusters = 0 ∧
    (State.reset.partRec p).regions &&& (State.reset.partRec q).regions = 0
end

