-- ==== Sys2Proof/Laws/Crit.lean ====
section
/-! SUPPORT. The tag of a critical command (13 R530): its eight bytes, and a command that carries the tag of its own bytes. -/
namespace Sys2Proof.Machine

/-! ### AES works on bytes -/

def Octets (l : List Nat) : Prop := ∀ x ∈ l, x < 256

theorem xor_octet {a b : Nat} (ha : a < 256) (hb : b < 256) : a ^^^ b < 256 := Nat.xor_lt_two_pow (n := 8) ha hb

theorem gfX_octet {a : Nat} (h : a < 256) : gfX a < 256 := by
  unfold gfX
  split
  · omega
  · have h1 : 128 ≤ a := by omega
    clear * - h h1
    interval_cases a <;> decide

theorem gfMul_octet : ∀ (n : Nat) {a : Nat} (b : Nat), a < 256 → gfMul n a b < 256
  | 0, _, _, _ => by simp [gfMul]
  | n + 1, a, b, h => by
    have h1 : (if b % 2 = 1 then a else 0) < 256 := by split <;> omega
    exact xor_octet h1 (gfMul_octet n _ (gfX_octet h))

theorem gf_octet {a : Nat} (b : Nat) (h : a < 256) : gf a b < 256 := gfMul_octet 8 b h

theorem gfInv_octet {a : Nat} (h : a < 256) : gfInv a < 256 := by
  unfold gfInv
  have h2 := gf_octet a h
  have h3 := gf_octet a h2
  have h6 := gf_octet (gf (gf a a) a) h3
  have h12 := gf_octet (gf (gf (gf a a) a) (gf (gf a a) a)) h6
  repeat' apply gf_octet
  all_goals assumption

theorem rotl8_octet (x n : Nat) : rotl8 x n < 256 := Nat.mod_lt _ (by decide)

theorem sbox_octet {a : Nat} (h : a < 256) : sbox a < 256 := by
  unfold sbox
  exact xor_octet (xor_octet (xor_octet (xor_octet (xor_octet (gfInv_octet h) (rotl8_octet _ _)) (rotl8_octet _ _)) (rotl8_octet _ _))
    (rotl8_octet _ _)) (by decide)

theorem xorL_octets : ∀ {a b : List Nat}, Octets a → Octets b → Octets (xorL a b)
  | [], _, _, _ => by simp [xorL, Octets]
  | _ :: _, [], _, _ => by simp [xorL, Octets]
  | x :: a, y :: b, ha, hb => by
    intro z hz
    simp only [xorL, List.zipWith_cons_cons, List.mem_cons] at hz
    rcases hz with rfl | hz
    · exact xor_octet (ha x (by simp)) (hb y (by simp))
    · exact xorL_octets (fun w hw => ha w (by simp [hw])) (fun w hw => hb w (by simp [hw])) z hz

theorem getD_octet {l : List Nat} (h : Octets l) (i : Nat) : l.getD i 0 < 256 := by
  by_cases hi : i < l.length
  · rw [List.getD_eq_getElem _ _ hi]; exact h _ (List.getElem_mem hi)
  · rw [List.getD_eq_default _ _ (by omega)]; decide

theorem map_octets {l : List Nat} {f : Nat → Nat} (h : ∀ x ∈ l, f x < 256) : Octets (l.map f) := by
  intro y hy
  obtain ⟨x, hx, rfl⟩ := List.mem_map.mp hy
  exact h x hx

theorem shiftRows_octets {l : List Nat} (h : Octets l) : Octets (shiftRows l) := map_octets (fun _ _ => getD_octet h _)

theorem foldl_octet (f : Nat → Nat) : ∀ (l : List Nat) (v : Nat), v < 256 → (∀ k ∈ l, f k < 256) → l.foldl (fun v k => v ^^^ f k) v < 256
  | [], _, h, _ => h
  | k :: l, v, h, hf => foldl_octet f l _ (xor_octet h (hf k (by simp))) (fun j hj => hf j (by simp [hj]))

theorem mixColumns_octets (l : List Nat) : Octets (mixColumns l) :=
  map_octets (fun i _ => foldl_octet _ _ _ (by decide) (fun k _ => gf_octet _ (by
    have h : Octets [2, 3, 1, 1] := by intro x hx; simp at hx; omega
    exact getD_octet h _)))

theorem append_octets {a b : List Nat} (ha : Octets a) (hb : Octets b) : Octets (a ++ b) := by
  intro x hx
  rcases List.mem_append.mp hx with h | h
  · exact ha x h
  · exact hb x h

theorem sub_octets {a b : List Nat} (hb : Octets b) (h : ∀ x ∈ a, x ∈ b) : Octets a := fun x hx => hb x (h x hx)

/-! ### The key schedule -/

/-- A word of the schedule: four bytes. -/
def IsWord (w : List Nat) : Prop := w.length = 4 ∧ Octets w

theorem sboxes_octets {l : List Nat} (h : Octets l) : Octets (l.map sbox) := map_octets (fun x hx => sbox_octet (h x hx))

theorem aesExpand_words : ∀ (n i rcon : Nat) (ws : List (List Nat)), rcon < 256 → 8 ≤ ws.length → (∀ w ∈ ws, IsWord w) →
    (aesExpand n i rcon ws).length = ws.length + n ∧ ∀ w ∈ aesExpand n i rcon ws, IsWord w
  | 0, _, _, ws, _, _, h => ⟨rfl, h⟩
  | n + 1, i, rcon, ws, hr, hl, h => by
    have hw : ∀ k, k < ws.length → IsWord (ws.getD k []) := fun k hk => by
      rw [List.getD_eq_getElem _ _ hk]; exact h _ (List.getElem_mem hk)
    have h0 : IsWord (ws.headD []) := by
      have := hw 0 (by omega)
      cases ws with
      | nil => simp at hl
      | cons a l => exact h a (by simp)
    have h7 := hw 7 (by omega)
    unfold aesExpand
    have hstep : ∀ t, IsWord t → ∀ m r2, r2 < 256 →
        (aesExpand n m r2 (List.zipWith (· ^^^ ·) (ws.getD 7 []) t :: ws)).length = ws.length + (n + 1) ∧
        ∀ w ∈ aesExpand n m r2 (List.zipWith (· ^^^ ·) (ws.getD 7 []) t :: ws), IsWord w := by
      intro t ht m r2 hr2
      have hn : IsWord (List.zipWith (· ^^^ ·) (ws.getD 7 []) t) := by
        refine ⟨?_, xorL_octets h7.2 ht.2⟩
        rw [List.length_zipWith, h7.1, ht.1]; rfl
      have := aesExpand_words n m r2 (List.zipWith (· ^^^ ·) (ws.getD 7 []) t :: ws) hr2 (by simp; omega)
        (by intro w hw2; rcases List.mem_cons.mp hw2 with rfl | hw2; exacts [hn, h w hw2])
      refine ⟨?_, this.2⟩
      rw [this.1]; simp; omega
    refine hstep _ ?_ _ _ ?_
    · split
      · constructor
        · have := h0.1
          simp only [List.length_map, List.length_zipIdx, List.length_append, List.length_drop, List.length_take]
          omega
        · intro x hx
          obtain ⟨e, he, rfl⟩ := List.mem_map.mp hx
          have hm : e.1 < 256 := by
            have hmem : e.1 ∈ ((ws.headD []).drop 1 ++ (ws.headD []).take 1).map sbox := List.fst_mem_of_mem_zipIdx he
            refine sboxes_octets (sub_octets h0.2 ?_) _ hmem
            intro y hy
            rcases List.mem_append.mp hy with hy | hy
            exacts [List.mem_of_mem_drop hy, List.mem_of_mem_take hy]
          split
          · exact xor_octet hm hr
          · exact hm
      · split
        · exact ⟨by simpa using h0.1, sboxes_octets h0.2⟩
        · exact h0
    · split
      · exact gfX_octet hr
      · exact hr

theorem take_octets {l : List Nat} (n : Nat) (h : Octets l) : Octets (l.take n) := sub_octets h (fun _ hx => List.mem_of_mem_take hx)
theorem drop_octets {l : List Nat} (n : Nat) (h : Octets l) : Octets (l.drop n) := sub_octets h (fun _ hx => List.mem_of_mem_drop hx)

theorem flatten_words (l : List (List Nat)) (h : ∀ w ∈ l, IsWord w) : l.flatten.length = 4 * l.length ∧ Octets l.flatten := by
  induction l with
  | nil => exact ⟨rfl, by intro x hx; simp at hx⟩
  | cons a l ih =>
    have ha := h a (by simp)
    have hl := ih (fun w hw => h w (by simp [hw]))
    refine ⟨by simp only [List.flatten_cons, List.length_append, List.length_cons, ha.1, hl.1]; omega, ?_⟩
    rw [List.flatten_cons]
    exact append_octets ha.2 hl.2

/-- The round keys of a 32-byte key: fifteen lists of sixteen bytes. -/
theorem aesKeys_spec {key : List Nat} (hl : key.length = 32) (hk : Octets key) :
    (aesKeys key).length = 15 ∧ ∀ k ∈ aesKeys key, k.length = 16 ∧ Octets k := by
  have h8 : ∀ w ∈ ((List.range 8).map (fun i => (key.drop (4 * i)).take 4)).reverse, IsWord w := by
    intro w hw
    simp only [List.mem_reverse, List.mem_map, List.mem_range] at hw
    obtain ⟨i, hi, rfl⟩ := hw
    exact ⟨by simp only [List.length_take, List.length_drop, hl]; omega, take_octets _ (drop_octets _ hk)⟩
  have hx := aesExpand_words 52 8 1 _ (by decide) (by simp) h8
  simp only [List.length_reverse, List.length_map, List.length_range] at hx
  unfold aesKeys
  refine ⟨by simp, ?_⟩
  intro k hk2
  simp only [List.mem_map, List.mem_range] at hk2
  obtain ⟨r, hr, rfl⟩ := hk2
  have := flatten_words (((aesExpand 52 8 1 ((List.range 8).map (fun i => (key.drop (4 * i)).take 4)).reverse).reverse.drop (4 * r)).take 4)
    (fun w hw => hx.2 w (by simpa using List.mem_of_mem_drop (List.mem_of_mem_take hw)))
  refine ⟨?_, this.2⟩
  rw [this.1]
  simp only [List.length_take, List.length_drop, List.length_reverse, hx.1]
  omega

theorem foldl_octets {f : List Nat → List Nat → List Nat} : ∀ (l : List (List Nat)) (s : List Nat), Octets s →
    (∀ s k, k ∈ l → Octets s → Octets (f s k)) → Octets (l.foldl f s)
  | [], _, h, _ => h
  | k :: l, s, h, hf => foldl_octets l _ (hf s k (by simp) h) (fun s j hj => hf s j (by simp [hj]))

/-- A block of AES-256: sixteen bytes, whatever the block that goes in. -/
theorem aesEnc_spec {key blk : List Nat} (hl : key.length = 32) (hk : Octets key) (hb : Octets blk) :
    (aesEnc key blk).length = 16 ∧ Octets (aesEnc key blk) := by
  have hks := aesKeys_spec hl hk
  have hlast : ((aesKeys key).getLastD []).length = 16 ∧ Octets ((aesKeys key).getLastD []) := by
    cases h : aesKeys key with
    | nil => rw [h] at hks; simp at hks
    | cons a l =>
      have : (a :: l).getLastD [] ∈ a :: l := by
        rw [List.getLastD_cons]
        rcases List.eq_nil_or_concat l with rfl | ⟨m, b, rfl⟩
        · simp
        · simp
      exact hks.2 _ (by rw [h]; exact this)
  have hhead : Octets ((aesKeys key).headD []) := by
    cases h : aesKeys key with
    | nil => intro x hx; simp at hx
    | cons a l => exact (hks.2 a (by rw [h]; simp)).2
  unfold aesEnc
  refine ⟨?_, ?_⟩
  · simp only [xorL, List.length_zipWith, hlast.1, shiftRows, List.length_map, List.length_range]; rfl
  · refine xorL_octets (shiftRows_octets (sboxes_octets ?_)) hlast.2
    refine foldl_octets _ _ (xorL_octets hb hhead) ?_
    intro s k hk2 _
    exact xorL_octets (mixColumns_octets _) (hks.2 k (List.mem_of_mem_drop (List.mem_of_mem_take hk2))).2

theorem natBytes_octets (l : List Byte) : Octets (natBytes l) := by
  intro x hx
  obtain ⟨b, _, rfl⟩ := List.mem_map.mp hx
  exact b.isLt

theorem cmacBlocks_octets {key : List Nat} (hl : key.length = 32) (hk : Octets key) : ∀ (n : Nat) (x m : List Nat),
    Octets x → Octets m → Octets (cmacBlocks key n x m)
  | 0, _, _, hx, _ => hx
  | n + 1, _, _, hx, hm => cmacBlocks_octets hl hk n _ _ (aesEnc_spec hl hk (xorL_octets hx (take_octets _ hm))).2 (drop_octets _ hm)

theorem cmac_spec {key m : List Nat} (hl : key.length = 32) (hk : Octets key) (hm : Octets m) :
    (cmac key m).length = 16 ∧ Octets (cmac key m) := by
  unfold cmac
  refine aesEnc_spec hl hk (xorL_octets (cmacBlocks_octets hl hk _ _ _ ?_ hm) (xorL_octets (drop_octets _ hm) (natBytes_octets _)))
  intro x hx
  have := List.eq_of_mem_replicate hx
  omega

@[simp] theorem leBytes_length : ∀ (n v : Nat), (leBytes n v).length = n
  | 0, _ => rfl
  | n + 1, v => by simp [leBytes, leBytes_length n]

/-- A command's tag is eight bytes. -/
theorem critTag_spec (s : State) (key : BitVec 256) (slot : Nat) (b : BitVec 1024) :
    (s.critTag key slot b).length = 8 ∧ Octets (s.critTag key slot b) := by
  have h := cmac_spec (key := keyBytes key) (m := s.critMessage slot b) (by simp [keyBytes, natBytes]) (natBytes_octets _) (natBytes_octets _)
  unfold State.critTag
  exact ⟨by rw [List.length_take, h.1]; rfl, take_octets _ h.2⟩

/-! ### A command with its own tag -/

/-- The low n bytes of a number do not see what lies above them. -/
theorem leBytes_high : ∀ (n a x : Nat), leBytes n (a + 2 ^ (8 * n) * x) = leBytes n a
  | 0, _, _ => rfl
  | n + 1, a, x => by
    have e : 2 ^ (8 * (n + 1)) * x = 256 * (2 ^ (8 * n) * x) := by rw [show 8 * (n + 1) = 8 * n + 8 by omega, Nat.pow_add]; ring
    unfold leBytes
    rw [e, Nat.add_mul_div_left _ _ (by decide), leBytes_high n]
    congr 1
    apply BitVec.eq_of_toNat_eq
    simp [Nat.add_mul_mod_self_left]

theorem leBytes_ofLe : ∀ (l : List Nat), Octets l → natBytes (leBytes l.length (ofLe (l.map (BitVec.ofNat 8 ·)))) = l
  | [], _ => rfl
  | a :: l, h => by
    have ha : a < 256 := h a (by simp)
    have hl := leBytes_ofLe l (fun x hx => h x (by simp [hx]))
    have e : ofLe ((a :: l).map (BitVec.ofNat 8 ·)) = a + 256 * ofLe (l.map (BitVec.ofNat 8 ·)) := by
      simp [ofLe, Nat.mod_eq_of_lt ha]
    rw [e]
    simp only [List.length_cons, leBytes, natBytes, List.map_cons] at hl ⊢
    rw [Nat.add_mul_div_left _ _ (by decide), Nat.div_eq_of_lt ha, Nat.zero_add, hl]
    congr 1
    simp [Nat.mod_eq_of_lt ha]

/-- The command whose bytes below its tag are those of n, with the tag that module 0 asks of it under a slot's key. -/
def tagged (key : BitVec 256) (slot n : Nat) : BitVec 1024 :=
  BitVec.ofNat 1024 (n + 2 ^ 960 * ofLe ((State.reset.critTag key slot (BitVec.ofNat 1024 n)).map (BitVec.ofNat 8 ·)))

theorem ofLe_lt : ∀ l : List Byte, ofLe l < 2 ^ (8 * l.length)
  | [] => by simp [ofLe]
  | b :: l => by
    have h := ofLe_lt l
    have hb := b.isLt
    simp only [ofLe, List.length_cons]
    rw [show 8 * (l.length + 1) = 8 * l.length + 8 by omega, Nat.pow_add]
    omega

theorem tagged_toNat (key : BitVec 256) (slot n : Nat) (h : n < 2 ^ 960) :
    (tagged key slot n).toNat = n + 2 ^ 960 * ofLe ((State.reset.critTag key slot (BitVec.ofNat 1024 n)).map (BitVec.ofNat 8 ·)) := by
  have ht := ofLe_lt ((State.reset.critTag key slot (BitVec.ofNat 1024 n)).map (BitVec.ofNat 8 ·))
  rw [List.length_map, (critTag_spec _ _ _ _).1] at ht
  unfold tagged
  rw [BitVec.toNat_ofNat, Nat.mod_eq_of_lt]
  have : (2 : Nat) ^ 1024 = 2 ^ 960 * 2 ^ 64 := by rw [← Nat.pow_add]
  rw [this]
  have e : (2 : Nat) ^ (8 * 8) = 2 ^ 64 := by norm_num
  rw [e] at ht
  generalize ofLe _ = T at ht
  calc n + 2 ^ 960 * T < 2 ^ 960 + 2 ^ 960 * T := by omega
    _ = 2 ^ 960 * (T + 1) := by ring
    _ ≤ 2 ^ 960 * 2 ^ 64 := Nat.mul_le_mul_left _ ht

/-- The fields below the tag are those of n. -/
theorem dfield_tagged (key : BitVec 256) (slot n off len : Nat) (h : n < 2 ^ 960) (ho : off + len ≤ 120) :
    dfield (tagged key slot n) off len = n / 2 ^ (8 * off) % 2 ^ (8 * len) := by
  unfold dfield
  rw [tagged_toNat key slot n h]
  generalize ofLe _ = T
  have e1 : (2 : Nat) ^ 960 * T = 2 ^ (8 * off) * (2 ^ (960 - 8 * off) * T) := by
    rw [← Nat.mul_assoc, ← Nat.pow_add]; congr 2; omega
  rw [e1, Nat.add_mul_div_left _ _ (Nat.two_pow_pos _)]
  have e2 : (2 : Nat) ^ (960 - 8 * off) * T = 2 ^ (8 * len) * (2 ^ (960 - 8 * off - 8 * len) * T) := by
    rw [← Nat.mul_assoc, ← Nat.pow_add]; congr 2; omega
  rw [e2, Nat.add_mul_mod_self_left]

/-- A command that carries its own tag passes the check of its slot's key. -/
theorem critAuth_tagged (s : State) (c : Crit) (key : BitVec 256) (n : Nat) (h : n < 2 ^ 960) (hm : s.ownId = 0)
    (hk : (s.keySlot c.slot).key = some key) (hb : c.b = tagged key c.slot n) : s.critAuth c = true := by
  unfold State.critAuth
  rw [hk]
  simp only [beq_iff_eq]
  have ht := critTag_spec State.reset key c.slot (BitVec.ofNat 1024 n)
  have e1 : s.critTag key c.slot c.b = State.reset.critTag key c.slot (BitVec.ofNat 1024 n) := by
    unfold State.critTag State.critMessage
    rw [hm, hb, tagged_toNat key c.slot n h, show (960 : Nat) = 8 * 120 by norm_num, leBytes_high]
    have : (BitVec.ofNat 1024 n).toNat = n := by
      rw [BitVec.toNat_ofNat, Nat.mod_eq_of_lt (lt_of_lt_of_le h (Nat.pow_le_pow_right (by decide) (by decide)))]
    rw [this]
    rfl
  have e2 : dfield c.b 0x78 8 = ofLe ((State.reset.critTag key c.slot (BitVec.ofNat 1024 n)).map (BitVec.ofNat 8 ·)) := by
    have hl := ofLe_lt ((State.reset.critTag key c.slot (BitVec.ofNat 1024 n)).map (BitVec.ofNat 8 ·))
    rw [List.length_map, ht.1] at hl
    unfold dfield
    rw [hb, tagged_toNat key c.slot n h]
    generalize ofLe _ = T at hl ⊢
    rw [show 8 * 0x78 = 960 by norm_num, Nat.add_mul_div_left _ _ (Nat.two_pow_pos _), Nat.div_eq_of_lt h, Nat.zero_add,
      Nat.mod_eq_of_lt hl]
  rw [e1, e2]
  have := leBytes_ofLe _ ht.2
  rw [ht.1] at this
  exact this.symm

end Sys2Proof.Machine
end

