-- ==== Sys2Proof/Laws/Exec.lean ====
section
/-! SUPPORT. Each arm of `exec`: the meaning that a command calls. -/
namespace Sys2Proof.Machine

variable (s : State)

theorem exec_tickEnable (a : Agent) : exec (.tickEnable a) s = execTickEnable a s := rfl
theorem exec_clearStats (a : Agent) : exec (.clearStats a) s = execClearStats a s := rfl
theorem exec_tickEdge (upsets : List Place) : exec (.tickEdge upsets) s = execTickEdge upsets s := rfl
theorem exec_guardStart : exec (.guardStart) s = execGuardStart s := rfl
theorem exec_deadlineEdge (t : Nat) : exec (.deadlineEdge t) s = execDeadlineEdge t s := rfl
theorem exec_tickMarker (id : Nat) (offset : Int) (turn : SMap Nat) : exec (.tickMarker id offset turn) s = execTickMarker id offset turn s := rfl
theorem exec_holdoverEntry : exec (.holdoverEntry) s = execHoldoverEntry s := rfl
theorem exec_freeRunEntry : exec (.freeRunEntry) s = execFreeRunEntry s := rfl
theorem exec_barrierShareClose (g : Nat) (n : Nat) (ns : Nat) : exec (.barrierShareClose g n ns) s = execBarrierShareClose g n ns s := rfl
theorem exec_barrierReport (id : Nat) : exec (.barrierReport id) s = execBarrierReport id s := rfl
theorem exec_barrierClose (id : Nat) (ns : Nat) : exec (.barrierClose id ns) s = execBarrierClose id ns s := rfl
theorem exec_tickParam (src : CmdSrc) : exec (.tickParam src) s = execTickParam src s := rfl
theorem exec_amm (t : Nat) (thr : Nat) : exec (.amm t thr) s = execAmm t thr s := rfl
theorem exec_adrn (t : Nat) (thr : Nat) : exec (.adrn t thr) s = execAdrn t thr s := rfl
theorem exec_acbl (t : Nat) (thr : Nat) : exec (.acbl t thr) s = execAcbl t thr s := rfl
theorem exec_ahist (t : Nat) (thr : Nat) : exec (.ahist t thr) s = execAhist t thr s := rfl
theorem exec_abar (t : Nat) (thr : Nat) : exec (.abar t thr) s = execAbar t thr s := rfl
theorem exec_arrayEntryStart (t : Nat) (bubbles : List Nat) : exec (.arrayEntryStart t bubbles) s = execArrayEntryStart t bubbles s := rfl
theorem exec_arrayEntryComplete (t : Nat) (bubbles : List Nat) : exec (.arrayEntryComplete t bubbles) s = execArrayEntryComplete t bubbles s := rfl
theorem exec_arrClear (a : Agent) (t : Nat) : exec (.arrClear a t) s = execArrClear a t s := rfl
theorem exec_mvm (t : Nat) (thr : Nat) : exec (.mvm t thr) s = execMvm t thr s := rfl
theorem exec_mbar (t : Nat) (thr : Nat) : exec (.mbar t thr) s = execMbar t thr s := rfl
theorem exec_mvpEntryStart (t : Nat) : exec (.mvpEntryStart t) s = execMvpEntryStart t s := rfl
theorem exec_mvpEntryComplete (t : Nat) (stall : Nat) : exec (.mvpEntryComplete t stall) s = execMvpEntryComplete t stall s := rfl
theorem exec_vecClear (a : Agent) (t : Nat) : exec (.vecClear a t) s = execVecClear a t s := rfl
theorem exec_mvpClear (a : Agent) (t : Nat) : exec (.mvpClear a t) s = execMvpClear a t s := rfl
theorem exec_vadd (t : Nat) (thr : Nat) : exec (.vadd t thr) s = execVadd t thr s := rfl
theorem exec_vsub (t : Nat) (thr : Nat) : exec (.vsub t thr) s = execVsub t thr s := rfl
theorem exec_vmul (t : Nat) (thr : Nat) : exec (.vmul t thr) s = execVmul t thr s := rfl
theorem exec_vfma (t : Nat) (thr : Nat) : exec (.vfma t thr) s = execVfma t thr s := rfl
theorem exec_vmin (t : Nat) (thr : Nat) : exec (.vmin t thr) s = execVmin t thr s := rfl
theorem exec_vmax (t : Nat) (thr : Nat) : exec (.vmax t thr) s = execVmax t thr s := rfl
theorem exec_vcmp (t : Nat) (thr : Nat) : exec (.vcmp t thr) s = execVcmp t thr s := rfl
theorem exec_vsel (t : Nat) (thr : Nat) : exec (.vsel t thr) s = execVsel t thr s := rfl
theorem exec_vcvt (t : Nat) (thr : Nat) : exec (.vcvt t thr) s = execVcvt t thr s := rfl
theorem exec_vql8 (t : Nat) (thr : Nat) : exec (.vql8 t thr) s = execVql8 t thr s := rfl
theorem exec_vdl8 (t : Nat) (thr : Nat) : exec (.vdl8 t thr) s = execVdl8 t thr s := rfl
theorem exec_vsf (t : Nat) (thr : Nat) : exec (.vsf t thr) s = execVsf t thr s := rfl
theorem exec_vbit (t : Nat) (thr : Nat) : exec (.vbit t thr) s = execVbit t thr s := rfl
theorem exec_vshf (t : Nat) (thr : Nat) : exec (.vshf t thr) s = execVshf t thr s := rfl
theorem exec_vred (t : Nat) (thr : Nat) : exec (.vred t thr) s = execVred t thr s := rfl
theorem exec_vperm (t : Nat) (thr : Nat) : exec (.vperm t thr) s = execVperm t thr s := rfl
theorem exec_vxln (t : Nat) (thr : Nat) : exec (.vxln t thr) s = execVxln t thr s := rfl
theorem exec_vbf2 (t : Nat) (thr : Nat) : exec (.vbf2 t thr) s = execVbf2 t thr s := rfl
theorem exec_vbf4 (t : Nat) (thr : Nat) : exec (.vbf4 t thr) s = execVbf4 t thr s := rfl
theorem exec_vput (t : Nat) (thr : Nat) : exec (.vput t thr) s = execVput t thr s := rfl
theorem exec_vget (t : Nat) (thr : Nat) : exec (.vget t thr) s = execVget t thr s := rfl
theorem exec_vld (t : Nat) (thr : Nat) : exec (.vld t thr) s = execVld t thr s := rfl
theorem exec_vst (t : Nat) (thr : Nat) : exec (.vst t thr) s = execVst t thr s := rfl
theorem exec_vldl (t : Nat) (thr : Nat) : exec (.vldl t thr) s = execVldl t thr s := rfl
theorem exec_vstl (t : Nat) (thr : Nat) : exec (.vstl t thr) s = execVstl t thr s := rfl
theorem exec_vag (t : Nat) (thr : Nat) : exec (.vag t thr) s = execVag t thr s := rfl
theorem exec_vagrd (t : Nat) (thr : Nat) : exec (.vagrd t thr) s = execVagrd t thr s := rfl
theorem exec_vrset (t : Nat) (thr : Nat) : exec (.vrset t thr) s = execVrset t thr s := rfl
theorem exec_vrget (t : Nat) (thr : Nat) : exec (.vrget t thr) s = execVrget t thr s := rfl
theorem exec_vrand (t : Nat) (thr : Nat) : exec (.vrand t thr) s = execVrand t thr s := rfl
theorem exec_vsample (t : Nat) (thr : Nat) : exec (.vsample t thr) s = execVsample t thr s := rfl
theorem exec_vsred (t : Nat) (thr : Nat) : exec (.vsred t thr) s = execVsred t thr s := rfl
theorem exec_vtopk (t : Nat) (thr : Nat) : exec (.vtopk t thr) s = execVtopk t thr s := rfl
theorem exec_vtopp (t : Nat) (thr : Nat) : exec (.vtopp t thr) s = execVtopp t thr s := rfl
theorem exec_vtops (t : Nat) (thr : Nat) : exec (.vtops t thr) s = execVtops t thr s := rfl
theorem exec_rep (t : Nat) (thr : Nat) : exec (.rep t thr) s = execRep t thr s := rfl
theorem exec_add (t : Nat) (thr : Nat) : exec (.add t thr) s = execAdd t thr s := rfl
theorem exec_sub (t : Nat) (thr : Nat) : exec (.sub t thr) s = execSub t thr s := rfl
theorem exec_mul (t : Nat) (thr : Nat) : exec (.mul t thr) s = execMul t thr s := rfl
theorem exec_mulh (t : Nat) (thr : Nat) : exec (.mulh t thr) s = execMulh t thr s := rfl
theorem exec_and (t : Nat) (thr : Nat) : exec (.and t thr) s = execAnd t thr s := rfl
theorem exec_or (t : Nat) (thr : Nat) : exec (.or t thr) s = execOr t thr s := rfl
theorem exec_xor (t : Nat) (thr : Nat) : exec (.xor t thr) s = execXor t thr s := rfl
theorem exec_shl (t : Nat) (thr : Nat) : exec (.shl t thr) s = execShl t thr s := rfl
theorem exec_shr (t : Nat) (thr : Nat) : exec (.shr t thr) s = execShr t thr s := rfl
theorem exec_sar (t : Nat) (thr : Nat) : exec (.sar t thr) s = execSar t thr s := rfl
theorem exec_min (t : Nat) (thr : Nat) : exec (.min t thr) s = execMin t thr s := rfl
theorem exec_max (t : Nat) (thr : Nat) : exec (.max t thr) s = execMax t thr s := rfl
theorem exec_movhi (t : Nat) (thr : Nat) : exec (.movhi t thr) s = execMovhi t thr s := rfl
theorem exec_cmp (t : Nat) (thr : Nat) : exec (.cmp t thr) s = execCmp t thr s := rfl
theorem exec_sel (t : Nat) (thr : Nat) : exec (.sel t thr) s = execSel t thr s := rfl
theorem exec_br (t : Nat) (thr : Nat) : exec (.br t thr) s = execBr t thr s := rfl
theorem exec_jr (t : Nat) (thr : Nat) : exec (.jr t thr) s = execJr t thr s := rfl
theorem exec_loop (t : Nat) (thr : Nat) : exec (.loop t thr) s = execLoop t thr s := rfl
theorem exec_call (t : Nat) (thr : Nat) : exec (.call t thr) s = execCall t thr s := rfl
theorem exec_plog (t : Nat) (thr : Nat) : exec (.plog t thr) s = execPlog t thr s := rfl
theorem exec_ld (t : Nat) (thr : Nat) : exec (.ld t thr) s = execLd t thr s := rfl
theorem exec_st (t : Nat) (thr : Nat) : exec (.st t thr) s = execSt t thr s := rfl
theorem exec_atom (t : Nat) (thr : Nat) : exec (.atom t thr) s = execAtom t thr s := rfl
theorem exec_fence (t : Nat) (thr : Nat) : exec (.fence t thr) s = execFence t thr s := rfl
theorem exec_spost (t : Nat) (thr : Nat) : exec (.spost t thr) s = execSpost t thr s := rfl
theorem exec_swait (t : Nat) (thr : Nat) : exec (.swait t thr) s = execSwait t thr s := rfl
theorem exec_tread (t : Nat) (thr : Nat) : exec (.tread t thr) s = execTread t thr s := rfl
theorem exec_twait (t : Nat) (thr : Nat) : exec (.twait t thr) s = execTwait t thr s := rfl
theorem exec_texit (t : Nat) (thr : Nat) : exec (.texit t thr) s = execTexit t thr s := rfl
theorem exec_tend (t : Nat) (thr : Nat) : exec (.tend t thr) s = execTend t thr s := rfl
theorem exec_fget (t : Nat) (thr : Nat) : exec (.fget t thr) s = execFget t thr s := rfl
theorem exec_fset (t : Nat) (thr : Nat) : exec (.fset t thr) s = execFset t thr s := rfl
theorem exec_fend (t : Nat) (thr : Nat) : exec (.fend t thr) s = execFend t thr s := rfl
theorem exec_launch (id : Nat) : exec (.launch id) s = execLaunch id s := rfl
theorem exec_taskStart (t : Nat) : exec (.taskStart t) s = execTaskStart t s := rfl
theorem exec_taskPrepared (t : Nat) (prog : Option (List Byte)) (ctx : Option (List Byte)) : exec (.taskPrepared t prog ctx) s = execTaskPrepared t prog ctx s := rfl
theorem exec_startReport (id : Nat) : exec (.startReport id) s = execStartReport id s := rfl
theorem exec_missNotice (id : Nat) : exec (.missNotice id) s = execMissNotice id s := rfl
theorem exec_missReturn (t : Nat) (thr : Nat) : exec (.missReturn t thr) s = execMissReturn t thr s := rfl
theorem exec_threadSwitch (t : Nat) (idle : Nat) : exec (.threadSwitch t idle) s = execThreadSwitch t idle s := rfl
theorem exec_taskReport (t : Nat) : exec (.taskReport t) s = execTaskReport t s := rfl
theorem exec_completionReport (r : Nat) : exec (.completionReport r) s = execCompletionReport r s := rfl
theorem exec_firmwareEntry (t : Nat) : exec (.firmwareEntry t) s = execFirmwareEntry t s := rfl
theorem exec_seqClear (a : Agent) (t : Nat) : exec (.seqClear a t) s = execSeqClear a t s := rfl
theorem exec_sarm (t : Nat) (thr : Nat) : exec (.sarm t thr) s = execSarm t thr s := rfl
theorem exec_srearm (t : Nat) (thr : Nat) : exec (.srearm t thr) s = execSrearm t thr s := rfl
theorem exec_swaitb (t : Nat) (thr : Nat) : exec (.swaitb t thr) s = execSwaitb t thr s := rfl
theorem exec_srel (t : Nat) (thr : Nat) : exec (.srel t thr) s = execSrel t thr s := rfl
theorem exec_spush (t : Nat) (thr : Nat) : exec (.spush t thr) s = execSpush t thr s := rfl
theorem exec_sskip (t : Nat) (thr : Nat) : exec (.sskip t thr) s = execSskip t thr s := rfl
theorem exec_sflush (t : Nat) (thr : Nat) : exec (.sflush t thr) s = execSflush t thr s := rfl
theorem exec_sstop (t : Nat) (thr : Nat) : exec (.sstop t thr) s = execSstop t thr s := rfl
theorem exec_sstat (t : Nat) (thr : Nat) : exec (.sstat t thr) s = execSstat t thr s := rfl
theorem exec_streamInject (t : Nat) (slot : Nat) : exec (.streamInject t slot) s = execStreamInject t slot s := rfl
theorem exec_streamReadResponse (t : Nat) (slot : Nat) (late : Nat) : exec (.streamReadResponse t slot late) s = execStreamReadResponse t slot late s := rfl
theorem exec_linkHalf (id : Nat) : exec (.linkHalf id) s = execLinkHalf id s := rfl
theorem exec_linkCredit (id : Nat) : exec (.linkCredit id) s = execLinkCredit id s := rfl
theorem exec_linkEnd (id : Nat) : exec (.linkEnd id) s = execLinkEnd id s := rfl
theorem exec_linkAbort (id : Nat) : exec (.linkAbort id) s = execLinkAbort id s := rfl
theorem exec_linkClose (id : Nat) : exec (.linkClose id) s = execLinkClose id s := rfl
theorem exec_translationRequest (id : Nat) : exec (.translationRequest id) s = execTranslationRequest id s := rfl
theorem exec_translationResponse (id : Nat) : exec (.translationResponse id) s = execTranslationResponse id s := rfl
theorem exec_strClear (a : Agent) (t : Nat) : exec (.strClear a t) s = execStrClear a t s := rfl
theorem exec_wpred (t : Nat) (thr : Nat) : exec (.wpred t thr) s = execWpred t thr s := rfl
theorem exec_wchk (t : Nat) (thr : Nat) : exec (.wchk t thr) s = execWchk t thr s := rfl
theorem exec_wtent (t : Nat) (thr : Nat) : exec (.wtent t thr) s = execWtent t thr s := rfl
theorem exec_wwait (t : Nat) (thr : Nat) : exec (.wwait t thr) s = execWwait t thr s := rfl
theorem exec_wpeek (t : Nat) (thr : Nat) : exec (.wpeek t thr) s = execWpeek t thr s := rfl
theorem exec_wspec (t : Nat) (thr : Nat) : exec (.wspec t thr) s = execWspec t thr s := rfl
theorem exec_wbound (t : Nat) (thr : Nat) : exec (.wbound t thr) s = execWbound t thr s := rfl
theorem exec_winnowJobStart (t : Nat) (checker : Bool) : exec (.winnowJobStart t checker) s = execWinnowJobStart t checker s := rfl
theorem exec_winnowPredictionDone (t : Nat) : exec (.winnowPredictionDone t) s = execWinnowPredictionDone t s := rfl
theorem exec_winnowCheckDone (t : Nat) : exec (.winnowCheckDone t) s = execWinnowCheckDone t s := rfl
theorem exec_commit (id : Nat) : exec (.commit id) s = execCommit id s := rfl
theorem exec_squash (id : Nat) : exec (.squash id) s = execSquash id s := rfl
theorem exec_winClear (a : Agent) (t : Nat) : exec (.winClear a t) s = execWinClear a t s := rfl
theorem exec_read (id : Nat) : exec (.read id) s = execRead id s := rfl
theorem exec_write (id : Nat) : exec (.write id) s = execWrite id s := rfl
theorem exec_atomic (id : Nat) : exec (.atomic id) s = execAtomic id s := rfl
theorem exec_mcastWrite (id : Nat) : exec (.mcastWrite id) s = execMcastWrite id s := rfl
theorem exec_readRsp (id : Nat) : exec (.readRsp id) s = execReadRsp id s := rfl
theorem exec_writeAck (id : Nat) : exec (.writeAck id) s = execWriteAck id s := rfl
theorem exec_atomicRsp (id : Nat) : exec (.atomicRsp id) s = execAtomicRsp id s := rfl
theorem exec_mcastAck (id : Nat) : exec (.mcastAck id) s = execMcastAck id s := rfl
theorem exec_packetForward (id : Nat) (damage : Damage) (cycle : Nat) : exec (.packetForward id damage cycle) s = execPacketForward id damage cycle s := rfl
theorem exec_accessTimeout (i : Nat) : exec (.accessTimeout i) s = execAccessTimeout i s := rfl
theorem exec_torClear (a : Agent) (t : Nat) : exec (.torClear a t) s = execTorClear a t s := rfl
theorem exec_glClear (a : Agent) (t : Nat) : exec (.glClear a t) s = execGlClear a t s := rfl
theorem exec_gleanerEnable (a : Agent) (t : Nat) (v : Word) : exec (.gleanerEnable a t v) s = execGleanerEnable a t v s := rfl
theorem exec_granaryTraining (stk : Nat) (ca : Bool) (sweeps : SMap (List (BitVec 128))) : exec (.granaryTraining stk ca sweeps) s = execGranaryTraining stk ca sweeps s := rfl
theorem exec_pchAccess (stk : Nat) (c : Nat) (agedBelow : Nat) (ecc : Nat) : exec (.pchAccess stk c agedBelow ecc) s = execPchAccess stk c agedBelow ecc s := rfl
theorem exec_refreshDue (stk : Nat) (c : Nat) : exec (.refreshDue stk c) s = execRefreshDue stk c s := rfl
theorem exec_refreshRepay (stk : Nat) (c : Nat) : exec (.refreshRepay stk c) s = execRefreshRepay stk c s := rfl
theorem exec_nrefBudgetGain (stk : Nat) (c : Nat) : exec (.nrefBudgetGain stk c) s = execNrefBudgetGain stk c s := rfl
theorem exec_rowClose (stk : Nat) (c : Nat) (bank : Nat) : exec (.rowClose stk c bank) s = execRowClose stk c bank s := rfl
theorem exec_stackTempRead (stk : Nat) (temp : Byte) : exec (.stackTempRead stk temp) s = execStackTempRead stk temp s := rfl
theorem exec_recentre (stk : Nat) (c : Nat) (found : Bool) (rd : BitVec 28) (wd : BitVec 28) : exec (.recentre stk c found rd wd) s = execRecentre stk c found rd wd s := rfl
theorem exec_trainingRecovery (stk : Nat) (c : Nat) (first : List (BitVec 128)) (second : List (BitVec 128)) : exec (.trainingRecovery stk c first second) s = execTrainingRecovery stk c first second s := rfl
theorem exec_remapRequest (a : Agent) (stk : Nat) (pch : Nat) : exec (.remapRequest a stk pch) s = execRemapRequest a stk pch s := rfl
theorem exec_remapActivate (stk : Nat) : exec (.remapActivate stk) s = execRemapActivate stk s := rfl
theorem exec_pasrEnter (a : Agent) (stk : Nat) : exec (.pasrEnter a stk) s = execPasrEnter a stk s := rfl
theorem exec_pasrExit (a : Option Agent) (stk : Nat) : exec (.pasrExit a stk) s = execPasrExit a stk s := rfl
theorem exec_scrubRow (stk : Nat) : exec (.scrubRow stk) s = execScrubRow stk s := rfl
theorem exec_reservationWrite (a : Agent) (stk : Nat) (p : Nat) (v : Word) : exec (.reservationWrite a stk p v) s = execReservationWrite a stk p v s := rfl
theorem exec_grnClear (a : Agent) (stk : Nat) : exec (.grnClear a stk) s = execGrnClear a stk s := rfl
theorem exec_blockReceive (q : Nat) (b : Block) (clean : Bool) (corrected : List (Nat × Nat)) (arrival : Nat) (times : EchoTimes) : exec (.blockReceive q b clean corrected arrival times) s = execBlockReceive q b clean corrected arrival times s := rfl
theorem exec_frameForward (id : Nat) : exec (.frameForward id) s = execFrameForward id s := rfl
theorem exec_adaptiveEscape (id : Nat) : exec (.adaptiveEscape id) s = execAdaptiveEscape id s := rfl
theorem exec_flowFrame (id : Nat) : exec (.flowFrame id) s = execFlowFrame id s := rfl
theorem exec_flowResponse (id : Nat) : exec (.flowResponse id) s = execFlowResponse id s := rfl
theorem exec_seqNack (id : Nat) : exec (.seqNack id) s = execSeqNack id s := rfl
theorem exec_e2eTimeout (ctx : Nat) : exec (.e2eTimeout ctx) s = execE2eTimeout ctx s := rfl
theorem exec_flowDead (ctx : Nat) : exec (.flowDead ctx) s = execFlowDead ctx s := rfl
theorem exec_flowIdleClose (ctx : Nat) : exec (.flowIdleClose ctx) s = execFlowIdleClose ctx s := rfl
theorem exec_flowClose (id : Nat) : exec (.flowClose id) s = execFlowClose id s := rfl
theorem exec_flowCloseAck (id : Nat) : exec (.flowCloseAck id) s = execFlowCloseAck id s := rfl
theorem exec_readRetry (d : Nat) (tag : Nat) : exec (.readRetry d tag) s = execReadRetry d tag s := rfl
theorem exec_copyBlock (k : Nat) (host : HostData (List Byte)) : exec (.copyBlock k host) s = execCopyBlock k host s := rfl
theorem exec_fabricMcastWrite (id : Nat) : exec (.fabricMcastWrite id) s = execFabricMcastWrite id s := rfl
theorem exec_fabricMcastAck (id : Nat) : exec (.fabricMcastAck id) s = execFabricMcastAck id s := rfl
theorem exec_mcastReportTimeout (k : Nat) : exec (.mcastReportTimeout k) s = execMcastReportTimeout k s := rfl
theorem exec_portHeld (q : Nat) : exec (.portHeld q) s = execPortHeld q s := rfl
theorem exec_holdExpiry (q : Nat) : exec (.holdExpiry q) s = execHoldExpiry q s := rfl
theorem exec_portReturnUp (q : Nat) : exec (.portReturnUp q) s = execPortReturnUp q s := rfl
theorem exec_pathSettle (dst : Nat) : exec (.pathSettle dst) s = execPathSettle dst s := rfl
theorem exec_redPart (id : Nat) : exec (.redPart id) s = execRedPart id s := rfl
theorem exec_redCredit (id : Nat) : exec (.redCredit id) s = execRedCredit id s := rfl
theorem exec_redResult (id : Nat) : exec (.redResult id) s = execRedResult id s := rfl
theorem exec_reduceTimeout (k : Nat) : exec (.reduceTimeout k) s = execReduceTimeout k s := rfl
theorem exec_linkHello (id : Nat) : exec (.linkHello id) s = execLinkHello id s := rfl
theorem exec_kfbModuleId (a : Agent) (d : Nat) (v : Word) : exec (.kfbModuleId a d v) s = execKfbModuleId a d v s := rfl
theorem exec_kfbClear (a : Agent) (d : Nat) : exec (.kfbClear a d) s = execKfbClear a d s := rfl
theorem exec_signalDetect (q : Nat) (l : Nat) : exec (.signalDetect q l) s = execSignalDetect q l s := rfl
theorem exec_phaseTimeout (q : Nat) : exec (.phaseTimeout q) s = execPhaseTimeout q s := rfl
theorem exec_attemptRestart (q : Nat) : exec (.attemptRestart q) s = execAttemptRestart q s := rfl
theorem exec_slipTrial (q : Nat) (slips : List (Nat × Nat × Bool × Bool)) : exec (.slipTrial q slips) s = execSlipTrial q slips s := rfl
theorem exec_trainingMarker (q : Nat) (l : Nat) (m : TMarker) : exec (.trainingMarker q l m) s = execTrainingMarker q l m s := rfl
theorem exec_laneLockLoss (q : Nat) (l : Nat) : exec (.laneLockLoss q l) s = execLaneLockLoss q l s := rfl
theorem exec_errorWindow (q : Nat) : exec (.errorWindow q) s = execErrorWindow q s := rfl
theorem exec_resyncTimeout (q : Nat) : exec (.resyncTimeout q) s = execResyncTimeout q s := rfl
theorem exec_fastRetrainTimeout (q : Nat) : exec (.fastRetrainTimeout q) s = execFastRetrainTimeout q s := rfl
theorem exec_retrain (a : Agent) (q : Nat) : exec (.retrain a q) s = execRetrain a q s := rfl
theorem exec_portEnable (a : Agent) (q : Nat) (on : Bool) : exec (.portEnable a q on) s = execPortEnable a q on s := rfl
theorem exec_loopbackSet (a : Agent) (q : Nat) (mode : Nat) : exec (.loopbackSet a q mode) s = execLoopbackSet a q mode s := rfl
theorem exec_lnkClear (a : Agent) (d : Nat) : exec (.lnkClear a d) s = execLnkClear a d s := rfl
theorem exec_doorbellPoll (d : Nat) (f : Nat) (words : SMap (HostData DWord)) : exec (.doorbellPoll d f words) s = execDoorbellPoll d f words s := rfl
theorem exec_descriptorFetched (r : Nat) (data : HostData (List (BitVec 1024))) : exec (.descriptorFetched r data) s = execDescriptorFetched r data s := rfl
theorem exec_task (r : Nat) : exec (.task r) s = execTask r s := rfl
theorem exec_copy (r : Nat) : exec (.copy r) s = execCopy r s := rfl
theorem exec_mcast (r : Nat) (data : HostData (List Byte)) : exec (.mcast r data) s = execMcast r data s := rfl
theorem exec_reduce (r : Nat) : exec (.reduce r) s = execReduce r s := rfl
theorem exec_xinv (r : Nat) : exec (.xinv r) s = execXinv r s := rfl
theorem exec_nop (r : Nat) : exec (.nop r) s = execNop r s := rfl
theorem exec_ringCreate (r : Nat) : exec (.ringCreate r) s = execRingCreate r s := rfl
theorem exec_ringDestroy (r : Nat) : exec (.ringDestroy r) s = execRingDestroy r s := rfl
theorem exec_loadBale (src : CmdSrc) : exec (.loadBale src) s = execLoadBale src s := rfl
theorem exec_tileReset (src : CmdSrc) : exec (.tileReset src) s = execTileReset src s := rfl
theorem exec_clusterReset (src : CmdSrc) : exec (.clusterReset src) s = execClusterReset src s := rfl
theorem exec_partitionReset (src : CmdSrc) : exec (.partitionReset src) s = execPartitionReset src s := rfl
theorem exec_moduleReset (src : CmdSrc) : exec (.moduleReset src) s = execModuleReset src s := rfl
theorem exec_fwUpdate (src : CmdSrc) (image : HostData (List Byte)) : exec (.fwUpdate src image) s = execFwUpdate src image s := rfl
theorem exec_assignBind (src : CmdSrc) : exec (.assignBind src) s = execAssignBind src s := rfl
theorem exec_assignUnbind (src : CmdSrc) : exec (.assignUnbind src) s = execAssignUnbind src s := rfl
theorem exec_assignPartition (src : CmdSrc) : exec (.assignPartition src) s = execAssignPartition src s := rfl
theorem exec_releasePartition (src : CmdSrc) : exec (.releasePartition src) s = execReleasePartition src s := rfl
theorem exec_definePartition (src : CmdSrc) : exec (.definePartition src) s = execDefinePartition src s := rfl
theorem exec_tableUpdate (src : CmdSrc) (data : HostData (List Byte)) : exec (.tableUpdate src data) s = execTableUpdate src data s := rfl
theorem exec_keyChange (src : CmdSrc) : exec (.keyChange src) s = execKeyChange src s := rfl
theorem exec_marginFrequency (src : CmdSrc) : exec (.marginFrequency src) s = execMarginFrequency src s := rfl
theorem exec_marginOffset (src : CmdSrc) : exec (.marginOffset src) s = execMarginOffset src s := rfl
theorem exec_marginFreeze (src : CmdSrc) : exec (.marginFreeze src) s = execMarginFreeze src s := rfl
theorem exec_marginRelease (src : CmdSrc) : exec (.marginRelease src) s = execMarginRelease src s := rfl
theorem exec_mctpCrit (msg : BitVec 1024) : exec (.mctpCrit msg) s = execMctpCrit msg s := rfl
theorem exec_functionLevelReset (d : Nat) (f : Nat) : exec (.functionLevelReset d f) s = execFunctionLevelReset d f s := rfl
theorem exec_busMasterClear (d : Nat) (f : Nat) : exec (.busMasterClear d f) s = execBusMasterClear d f s := rfl
theorem exec_hostLinkDown (d : Nat) : exec (.hostLinkDown d) s = execHostLinkDown d s := rfl
theorem exec_vfEnableClear (d : Nat) : exec (.vfEnableClear d) s = execVfEnableClear d s := rfl
theorem exec_functionDisable (d : Nat) (f : Nat) : exec (.functionDisable d f) s = execFunctionDisable d f s := rfl
theorem exec_functionEnable (d : Nat) (f : Nat) (v : Word) : exec (.functionEnable d f v) s = execFunctionEnable d f v s := rfl
theorem exec_functionStopDone (d : Nat) (f : Nat) : exec (.functionStopDone d f) s = execFunctionStopDone d f s := rfl
theorem exec_hstClear (a : Agent) (d : Nat) : exec (.hstClear a d) s = execHstClear a d s := rfl
theorem exec_baleStaged (k : Nat) (bale : HostData (List Byte)) : exec (.baleStaged k bale) s = execBaleStaged k bale s := rfl
theorem exec_baleCommit (k : Nat) : exec (.baleCommit k) s = execBaleCommit k s := rfl
theorem exec_commitWaitExpiry (k : Nat) : exec (.commitWaitExpiry k) s = execCommitWaitExpiry k s := rfl
theorem exec_configScrub (r : Nat) (upset : Option (Nat × BitVec 1024 × Bool)) : exec (.configScrub r upset) s = execConfigScrub r upset s := rfl
theorem exec_oreq (n : Nat) (req : OReq) : exec (.oreq n req) s = execOreq n req s := rfl
theorem exec_irsp (n : Nat) (itag : Nat) (st : Status) (data : List Byte) : exec (.irsp n itag st data) s = execIrsp n itag st data s := rfl
theorem exec_windowTimeout (n : Nat) (itag : Nat) : exec (.windowTimeout n itag) s = execWindowTimeout n itag s := rfl
theorem exec_oscWrite (a : Agent) (d : Nat) (n : Nat) (khz : Word) : exec (.oscWrite a d n khz) s = execOscWrite a d n khz s := rfl
theorem exec_hbOwnerWrite (a : Agent) (d : Nat) (v : DWord) : exec (.hbOwnerWrite a d v) s = execHbOwnerWrite a d v s := rfl
theorem exec_lgcClear (a : Agent) (d : Nat) : exec (.lgcClear a d) s = execLgcClear a d s := rfl
theorem exec_cfgClear (a : Agent) (d : Nat) : exec (.cfgClear a d) s = execCfgClear a d s := rfl
theorem exec_errorReport (i : Nat) (within : Bool) : exec (.errorReport i within) s = execErrorReport i within s := rfl
theorem exec_ceRateWindow : exec (.ceRateWindow) s = execCeRateWindow s := rfl
theorem exec_transitRateWindow : exec (.transitRateWindow) s = execTransitRateWindow s := rfl
theorem exec_intClear (a : Agent) : exec (.intClear a) s = execIntClear a s := rfl
theorem exec_pwrGoodRise (p48 : Bool) : exec (.pwrGoodRise p48) s = execPwrGoodRise p48 s := rfl
theorem exec_pwrGoodFall : exec (.pwrGoodFall) s = execPwrGoodFall s := rfl
theorem exec_p48vDrop : exec (.p48vDrop) s = execP48vDrop s := rfl
theorem exec_auxLoss : exec (.auxLoss) s = execAuxLoss s := rfl
theorem exec_railFault : exec (.railFault) s = execRailFault s := rfl
theorem exec_thermalTrip : exec (.thermalTrip) s = execThermalTrip s := rfl
theorem exec_modResetAssert : exec (.modResetAssert) s = execModResetAssert s := rfl
theorem exec_modResetRelease : exec (.modResetRelease) s = execModResetRelease s := rfl
theorem exec_bringupCheckers (bad : List Checked) (tested : Word) (pll : Bool) : exec (.bringupCheckers bad tested pll) s = execBringupCheckers bad tested pll s := rfl
theorem exec_trainingComplete : exec (.trainingComplete) s = execTrainingComplete s := rfl
theorem exec_memtestPairDone (errs : List (Nat × Nat × Nat)) (seconds : Nat) : exec (.memtestPairDone errs seconds) s = execMemtestPairDone errs seconds s := rfl
theorem exec_tileWaveStart : exec (.tileWaveStart) s = execTileWaveStart s := rfl
theorem exec_tileSignature (t : Nat) (badCols : Word) (bad : Bool) : exec (.tileSignature t badCols bad) s = execTileSignature t badCols bad s := rfl
theorem exec_waveTimeout (w : Nat) : exec (.waveTimeout w) s = execWaveTimeout w s := rfl
theorem exec_capabilityBuild : exec (.capabilityBuild) s = execCapabilityBuild s := rfl
theorem exec_tileFirmwareFetched (t : Nat) (image : List Byte) : exec (.tileFirmwareFetched t image) s = execTileFirmwareFetched t image s := rfl
theorem exec_resetDrainLate (t : Nat) : exec (.resetDrainLate t) s = execResetDrainLate t s := rfl
theorem exec_clusterPark (a : Agent) (c : Nat) : exec (.clusterPark a c) s = execClusterPark a c s := rfl
theorem exec_clusterWake (a : Agent) (c : Nat) : exec (.clusterWake a c) s = execClusterWake a c s := rfl
theorem exec_deepIdleEnter (a : Agent) : exec (.deepIdleEnter a) s = execDeepIdleEnter a s := rfl
theorem exec_deepIdleExit (cause : WakeCause) : exec (.deepIdleExit cause) s = execDeepIdleExit cause s := rfl
theorem exec_bootCfgWrite (a : Agent) (v : Word) : exec (.bootCfgWrite a v) s = execBootCfgWrite a v s := rfl
theorem exec_bupClear (a : Agent) : exec (.bupClear a) s = execBupClear a s := rfl
theorem exec_grangerReturn : exec (.grangerReturn) s = execGrangerReturn s := rfl
theorem exec_selftestSlice (t : Nat) (steps : List Bool) : exec (.selftestSlice t steps) s = execSelftestSlice t steps s := rfl
theorem exec_selftestRequest (a : Agent) (cluster : Bool) (target : Nat) : exec (.selftestRequest a cluster target) s = execSelftestRequest a cluster target s := rfl
theorem exec_selftestOverdue (t : Nat) : exec (.selftestOverdue t) s = execSelftestOverdue t s := rfl
theorem exec_serviceCheckerTest (bad : List Checked) : exec (.serviceCheckerTest bad) s = execServiceCheckerTest bad s := rfl
theorem exec_parityPoll : exec (.parityPoll) s = execParityPoll s := rfl
theorem exec_ageingSample (slacks : List Int) : exec (.ageingSample slacks) s = execAgeingSample slacks s := rfl
theorem exec_marginReplan : exec (.marginReplan) s = execMarginReplan s := rfl
theorem exec_marginApply (d : Nat) : exec (.marginApply d) s = execMarginApply d s := rfl
theorem exec_marginDeferTimeout (d : Nat) : exec (.marginDeferTimeout d) s = execMarginDeferTimeout d s := rfl
theorem exec_clockChange : exec (.clockChange) s = execClockChange s := rfl
theorem exec_pllLock : exec (.pllLock) s = execPllLock s := rfl
theorem exec_evcClear (a : Agent) (k : Nat) : exec (.evcClear a k) s = execEvcClear a k s := rfl
theorem exec_hltClear (a : Agent) : exec (.hltClear a) s = execHltClear a s := rfl
theorem exec_grangerPoll : exec (.grangerPoll) s = execGrangerPoll s := rfl
theorem exec_grgClear (a : Agent) : exec (.grgClear a) s = execGrgClear a s := rfl
theorem exec_registerWrite (a : Agent) (off : Nat) (wide : Bool) (v : DWord) : exec (.registerWrite a off wide v) s = execRegisterWrite a off wide v s := rfl
theorem exec_clockRecoveryLock (q : Nat) (l : Nat) : exec (.clockRecoveryLock q l) s = execClockRecoveryLock q l s := rfl
theorem exec_hostLinkUp (d : Nat) (width : BitVec 2) (rate : BitVec 3) : exec (.hostLinkUp d width rate) s = execHostLinkUp d width rate s := rfl
theorem exec_fwSlotSelected : exec (.fwSlotSelected) s = execFwSlotSelected s := rfl
theorem exec_recentreOverdue (stk : Nat) (c : Nat) : exec (.recentreOverdue stk c) s = execRecentreOverdue stk c s := rfl
theorem exec_boardRecovery (target : Nat) (slot : Bool) (ver : BitVec 16) : exec (.boardRecovery target slot ver) s = execBoardRecovery target slot ver s := rfl

end Sys2Proof.Machine
end

