-- ==== Sys2Proof/Laws/Memory.lean ====
section
/-!
SUPPORT. The laws of memory and of finite maps: a read after a write to the same place gives what was written, a write leaves
every other place alone, and every memory operation keeps the canonical form.
-/
namespace Sys2Proof.Machine

/-! ### Finite maps -/

@[simp] theorem smGet_nil {α : Type} (k : Nat) : smGet ([] : SMap α) k = none := rfl

@[simp] theorem smGet_smSet_same {α : Type} : ∀ (m : SMap α) (k : Nat) (v : α), smGet (smSet m k v) k = some v
  | [], k, v => by simp [smSet, smGet]
  | (a, w) :: m, k, v => by
    unfold smSet
    split
    · simp [smGet]
    · split
      · simp [smGet]
      · rw [smGet, if_neg (Ne.symm ‹_›)]
        exact smGet_smSet_same m k v

theorem smGet_smSet_ne {α : Type} : ∀ (m : SMap α) (k j : Nat) (v : α), j ≠ k → smGet (smSet m k v) j = smGet m j
  | [], k, j, v, h => by simp [smSet, smGet, Ne.symm h]
  | (a, w) :: m, k, j, v, h => by
    unfold smSet
    split
    · rw [smGet, if_neg (Ne.symm h)]
    · split
      · rename_i hk
        rw [smGet, if_neg (Ne.symm h), smGet, if_neg (by omega)]
      · rw [smGet, smGet, smGet_smSet_ne m k j v h]

/-- The later of two values listed for one key stands. -/
@[simp] theorem smSet_smSet_same {α : Type} : ∀ (m : SMap α) (k : Nat) (v w : α), smSet (smSet m k v) k w = smSet m k w
  | [], k, v, w => by simp [smSet]
  | (a, x) :: m, k, v, w => by
    rw [smSet.eq_def ((a, x) :: m) k v, smSet.eq_def ((a, x) :: m) k w]
    dsimp only
    split
    · simp [smSet]
    · split
      · simp [smSet]
      · rw [smSet, if_neg ‹_›, if_neg ‹_›, smSet_smSet_same m k v w]

@[simp] theorem smGetD_smSet_same {α : Type} (m : SMap α) (k : Nat) (v d : α) : smGetD (smSet m k v) k d = v := by
  simp [smGetD]

theorem smGetD_smSet_ne {α : Type} (m : SMap α) (k j : Nat) (v d : α) (h : j ≠ k) :
    smGetD (smSet m k v) j d = smGetD m j d := by
  simp [smGetD, smGet_smSet_ne m k j v h]

@[simp] theorem smGetD_smUpd_same {α : Type} (m : SMap α) (k : Nat) (d : α) (f : α → α) :
    smGetD (smUpd m k d f) k d = f (smGetD m k d) := by
  simp [smUpd]

theorem smGetD_smUpd_ne {α : Type} (m : SMap α) (k j : Nat) (d : α) (f : α → α) (h : j ≠ k) :
    smGetD (smUpd m k d f) j d = smGetD m j d := by
  simp [smUpd, smGetD_smSet_ne m k j _ d h]

/-! ### Memory -/

/-- An address below every listed one reads 0. -/
theorem memGet_below : ∀ (m : List Host.Cell) (lo k : Nat), Memory.wfFrom lo m = true → k < lo → memGet m k = 0
  | [], _, _, _, _ => rfl
  | (a, w) :: m, lo, k, h, hk => by
    simp only [Memory.wfFrom, Bool.and_eq_true, decide_eq_true_eq] at h
    rw [memGet, if_neg (by omega)]
    exact memGet_below m (a + 1) k h.2 (by omega)

theorem memGet_memPut_same : ∀ (m : List Host.Cell) (k : Nat) (v : Byte) (lo : Nat), Memory.wfFrom lo m = true →
    memGet (memPut m k v) k = v
  | [], k, v, _, _ => by
    unfold memPut
    split <;> simp_all [memGet]
  | (a, w) :: m, k, v, lo, h => by
    simp only [Memory.wfFrom, Bool.and_eq_true, decide_eq_true_eq] at h
    unfold memPut
    split
    · split
      · rename_i hv
        rw [memGet, if_neg (by omega), memGet_below m (a + 1) k h.2 (by omega), hv]
      · simp [memGet]
    · split
      · split
        · rename_i hk hv
          rw [memGet_below m (a + 1) k h.2 (by omega), hv]
        · simp [memGet]
      · rw [memGet, if_neg (Ne.symm ‹_›)]
        exact memGet_memPut_same m k v (a + 1) h.2
theorem memGet_memPut_ne : ∀ (m : List Host.Cell) (k j : Nat) (v : Byte), j ≠ k → memGet (memPut m k v) j = memGet m j
  | [], k, j, v, h => by
    unfold memPut
    split <;> simp [memGet, Ne.symm h]
  | (a, w) :: m, k, j, v, h => by
    unfold memPut
    split
    · split
      · rfl
      · rw [memGet, if_neg (Ne.symm h)]
    · split
      · split
        · rw [memGet, if_neg (by omega)]
        · rw [memGet, if_neg (Ne.symm h), memGet, if_neg (by omega)]
      · rw [memGet, memGet, memGet_memPut_ne m k j v h]

theorem Memory.wfFrom_mono : ∀ (m : List Host.Cell) (a b : Nat), b ≤ a → Memory.wfFrom a m = true → Memory.wfFrom b m = true
  | [], _, _, _, _ => rfl
  | (k, v) :: m, a, b, hab, h => by
    simp only [Memory.wfFrom, Bool.and_eq_true, decide_eq_true_eq] at h ⊢
    exact ⟨⟨by omega, h.1.2⟩, h.2⟩

theorem memPut_wfFrom (v : Byte) : ∀ (m : List Host.Cell) (lo k : Nat), lo ≤ k → Memory.wfFrom lo m = true →
    Memory.wfFrom lo (memPut m k v) = true
  | [], lo, k, hk, _ => by
    unfold memPut
    split <;> simp_all [Memory.wfFrom]
  | (a, w) :: m, lo, k, hk, h => by
    simp only [Memory.wfFrom, Bool.and_eq_true, decide_eq_true_eq] at h
    obtain ⟨⟨h1, h2⟩, h3⟩ := h
    unfold memPut
    split
    · split
      · simp only [Memory.wfFrom, Bool.and_eq_true, decide_eq_true_eq]
        exact ⟨⟨h1, h2⟩, h3⟩
      · simp only [Memory.wfFrom, Bool.and_eq_true, decide_eq_true_eq]
        exact ⟨⟨hk, by simpa using ‹¬v = 0›⟩, ⟨by omega, h2⟩, h3⟩
    · split
      · split
        · exact Memory.wfFrom_mono _ _ _ (by omega) h3
        · simp only [Memory.wfFrom, Bool.and_eq_true, decide_eq_true_eq]
          exact ⟨⟨by omega, by simpa using ‹¬v = 0›⟩, by subst_vars; exact h3⟩
      · simp only [Memory.wfFrom, Bool.and_eq_true, decide_eq_true_eq]
        exact ⟨⟨h1, h2⟩, memPut_wfFrom v m (a + 1) k (by omega) h3⟩

/-- Writing a byte keeps memory canonical. -/
theorem memPut_wf (m : List Host.Cell) (k : Nat) (v : Byte) (h : Memory.wf m = true) : Memory.wf (memPut m k v) = true :=
  memPut_wfFrom v m 0 k (Nat.zero_le _) h

/-- Writing bytes keeps memory canonical. -/
theorem memPutList_wf : ∀ (bs : List Byte) (m : List Host.Cell) (a : Nat), Memory.wf m = true →
    Memory.wf (memPutList m a bs) = true
  | [], _, _, h => h
  | b :: bs, m, a, h => memPutList_wf bs _ _ (memPut_wf m a b h)

theorem filter_wfFrom (p : Host.Cell → Bool) : ∀ (m : List Host.Cell) (lo : Nat), Memory.wfFrom lo m = true →
    Memory.wfFrom lo (m.filter p) = true
  | [], _, _ => rfl
  | (a, w) :: m, lo, h => by
    simp only [Memory.wfFrom, Bool.and_eq_true, decide_eq_true_eq] at h
    obtain ⟨⟨h1, h2⟩, h3⟩ := h
    have ih := filter_wfFrom p m (a + 1) h3
    rw [List.filter_cons]
    split
    · simp only [Memory.wfFrom, Bool.and_eq_true, decide_eq_true_eq]
      exact ⟨⟨h1, h2⟩, ih⟩
    · exact Memory.wfFrom_mono _ _ _ (by omega) ih

/-- Losing the contents of a range (a scrub, a reset) keeps memory canonical. -/
theorem filter_wf (p : Host.Cell → Bool) (m : List Host.Cell) (h : Memory.wf m = true) : Memory.wf (m.filter p) = true :=
  filter_wfFrom p m 0 h

/-- Writing bytes leaves every address outside them alone. -/
theorem memGet_memPutList_out : ∀ (bs : List Byte) (m : List Host.Cell) (a j : Nat), (j < a ∨ a + bs.length ≤ j) →
    memGet (memPutList m a bs) j = memGet m j
  | [], _, _, _, _ => rfl
  | b :: bs, m, a, j, h => by
    rw [memPutList, memGet_memPutList_out bs _ _ _ (by simp at h; omega), memGet_memPut_ne _ _ _ _ (by simp at h; omega)]

/-- Reading back what was written. -/
theorem memGetList_memPutList : ∀ (bs : List Byte) (m : List Host.Cell) (a : Nat), Memory.wf m = true →
    memGetList (memPutList m a bs) a bs.length = bs
  | [], _, _, _ => rfl
  | b :: bs, m, a, h => by
    have hw := memPut_wf m a b h
    simp only [memPutList, List.length_cons, memGetList]
    rw [memGetList_memPutList bs _ _ hw, memGet_memPutList_out bs _ _ _ (by omega), memGet_memPut_same m a b 0 h]

/-- What a memory write can do: the bytes land, every other byte stays, the form is kept, nothing else of the state but the
parity of the written bytes changes. -/
theorem State.wr_spec (s : State) (a : Nat) (bs : List Byte) :
    (s.wr a bs) = { s with mem := memPutList s.mem a bs, bad := (s.wr a bs).bad } ∧
    (Memory.wf s.mem = true → Memory.wf (s.wr a bs).mem = true ∧ (s.wr a bs).rd a bs.length = bs) ∧
    (∀ j, (j < a ∨ a + bs.length ≤ j) → memGet (s.wr a bs).mem j = memGet s.mem j) :=
  ⟨rfl, fun h => ⟨memPutList_wf bs _ _ h, memGetList_memPutList bs _ _ h⟩, fun j h => memGet_memPutList_out bs _ _ j h⟩

end Sys2Proof.Machine
end

