-- ==== Sys2Proof/Laws/State.lean ====
section
/-!
SUPPORT. What each named update of `State` leaves in each field: one lemma per field per update, all true by unfolding, so
that no later proof unfolds a record update.
-/
namespace Sys2Proof.Machine

variable (s : State)

/-! ### `State.setTile` -/

@[simp] theorem State.setTile_part (t : Nat) (x : Tile) : (s.setTile t x).part = s.part := rfl
@[simp] theorem State.setTile_tick (t : Nat) (x : Tile) : (s.setTile t x).tick = s.tick := rfl
@[simp] theorem State.setTile_cap (t : Nat) (x : Tile) : (s.setTile t x).cap = s.cap := rfl
@[simp] theorem State.setTile_parts (t : Nat) (x : Tile) : (s.setTile t x).parts = s.parts := rfl
@[simp] theorem State.setTile_tiles (t : Nat) (x : Tile) : (s.setTile t x).tiles = smSet s.tiles t x := rfl
@[simp] theorem State.setTile_routers (t : Nat) (x : Tile) : (s.setTile t x).routers = s.routers := rfl
@[simp] theorem State.setTile_mem (t : Nat) (x : Tile) : (s.setTile t x).mem = s.mem := rfl
@[simp] theorem State.setTile_bad (t : Nat) (x : Tile) : (s.setTile t x).bad = s.bad := rfl
@[simp] theorem State.setTile_net (t : Nat) (x : Tile) : (s.setTile t x).net = s.net := rfl
@[simp] theorem State.setTile_accesses (t : Nat) (x : Tile) : (s.setTile t x).accesses = s.accesses := rfl
@[simp] theorem State.setTile_hbm (t : Nat) (x : Tile) : (s.setTile t x).hbm = s.hbm := rfl
@[simp] theorem State.setTile_fab (t : Nat) (x : Tile) : (s.setTile t x).fab = s.fab := rfl
@[simp] theorem State.setTile_links (t : Nat) (x : Tile) : (s.setTile t x).links = s.links := rfl
@[simp] theorem State.setTile_lnk (t : Nat) (x : Tile) : (s.setTile t x).lnk = s.lnk := rfl
@[simp] theorem State.setTile_host (t : Nat) (x : Tile) : (s.setTile t x).host = s.host := rfl
@[simp] theorem State.setTile_funcs (t : Nat) (x : Tile) : (s.setTile t x).funcs = s.funcs := rfl
@[simp] theorem State.setTile_rings (t : Nat) (x : Tile) : (s.setTile t x).rings = s.rings := rfl
@[simp] theorem State.setTile_tenants (t : Nat) (x : Tile) : (s.setTile t x).tenants = s.tenants := rfl
@[simp] theorem State.setTile_keys (t : Nat) (x : Tile) : (s.setTile t x).keys = s.keys := rfl
@[simp] theorem State.setTile_xsvc (t : Nat) (x : Tile) : (s.setTile t x).xsvc = s.xsvc := rfl
@[simp] theorem State.setTile_hostMem (t : Nat) (x : Tile) : (s.setTile t x).hostMem = s.hostMem := rfl
@[simp] theorem State.setTile_regions (t : Nat) (x : Tile) : (s.setTile t x).regions = s.regions := rfl
@[simp] theorem State.setTile_loads (t : Nat) (x : Tile) : (s.setTile t x).loads = s.loads := rfl
@[simp] theorem State.setTile_lports (t : Nat) (x : Tile) : (s.setTile t x).lports = s.lports := rfl
@[simp] theorem State.setTile_lgc (t : Nat) (x : Tile) : (s.setTile t x).lgc = s.lgc := rfl
@[simp] theorem State.setTile_integ (t : Nat) (x : Tile) : (s.setTile t x).integ = s.integ := rfl
@[simp] theorem State.setTile_bup (t : Nat) (x : Tile) : (s.setTile t x).bup = s.bup := rfl
@[simp] theorem State.setTile_health (t : Nat) (x : Tile) : (s.setTile t x).health = s.health := rfl
@[simp] theorem State.setTile_board (t : Nat) (x : Tile) : (s.setTile t x).board = s.board := rfl
@[simp] theorem State.setTile_answer (t : Nat) (x : Tile) : (s.setTile t x).answer = s.answer := rfl
@[simp] theorem State.setTile_freeCount (t : Nat) (x : Tile) : (s.setTile t x).freeCount = s.freeCount := rfl
@[simp] theorem State.setTile_pending (t : Nat) (x : Tile) : (s.setTile t x).pending = s.pending := rfl

/-! ### `State.updTile` -/

@[simp] theorem State.updTile_part (t : Nat) (f : Tile → Tile) : (s.updTile t f).part = s.part := rfl
@[simp] theorem State.updTile_tick (t : Nat) (f : Tile → Tile) : (s.updTile t f).tick = s.tick := rfl
@[simp] theorem State.updTile_cap (t : Nat) (f : Tile → Tile) : (s.updTile t f).cap = s.cap := rfl
@[simp] theorem State.updTile_parts (t : Nat) (f : Tile → Tile) : (s.updTile t f).parts = s.parts := rfl
@[simp] theorem State.updTile_tiles (t : Nat) (f : Tile → Tile) : (s.updTile t f).tiles = smSet s.tiles t (f (s.tile t)) := rfl
@[simp] theorem State.updTile_routers (t : Nat) (f : Tile → Tile) : (s.updTile t f).routers = s.routers := rfl
@[simp] theorem State.updTile_mem (t : Nat) (f : Tile → Tile) : (s.updTile t f).mem = s.mem := rfl
@[simp] theorem State.updTile_bad (t : Nat) (f : Tile → Tile) : (s.updTile t f).bad = s.bad := rfl
@[simp] theorem State.updTile_net (t : Nat) (f : Tile → Tile) : (s.updTile t f).net = s.net := rfl
@[simp] theorem State.updTile_accesses (t : Nat) (f : Tile → Tile) : (s.updTile t f).accesses = s.accesses := rfl
@[simp] theorem State.updTile_hbm (t : Nat) (f : Tile → Tile) : (s.updTile t f).hbm = s.hbm := rfl
@[simp] theorem State.updTile_fab (t : Nat) (f : Tile → Tile) : (s.updTile t f).fab = s.fab := rfl
@[simp] theorem State.updTile_links (t : Nat) (f : Tile → Tile) : (s.updTile t f).links = s.links := rfl
@[simp] theorem State.updTile_lnk (t : Nat) (f : Tile → Tile) : (s.updTile t f).lnk = s.lnk := rfl
@[simp] theorem State.updTile_host (t : Nat) (f : Tile → Tile) : (s.updTile t f).host = s.host := rfl
@[simp] theorem State.updTile_funcs (t : Nat) (f : Tile → Tile) : (s.updTile t f).funcs = s.funcs := rfl
@[simp] theorem State.updTile_rings (t : Nat) (f : Tile → Tile) : (s.updTile t f).rings = s.rings := rfl
@[simp] theorem State.updTile_tenants (t : Nat) (f : Tile → Tile) : (s.updTile t f).tenants = s.tenants := rfl
@[simp] theorem State.updTile_keys (t : Nat) (f : Tile → Tile) : (s.updTile t f).keys = s.keys := rfl
@[simp] theorem State.updTile_xsvc (t : Nat) (f : Tile → Tile) : (s.updTile t f).xsvc = s.xsvc := rfl
@[simp] theorem State.updTile_hostMem (t : Nat) (f : Tile → Tile) : (s.updTile t f).hostMem = s.hostMem := rfl
@[simp] theorem State.updTile_regions (t : Nat) (f : Tile → Tile) : (s.updTile t f).regions = s.regions := rfl
@[simp] theorem State.updTile_loads (t : Nat) (f : Tile → Tile) : (s.updTile t f).loads = s.loads := rfl
@[simp] theorem State.updTile_lports (t : Nat) (f : Tile → Tile) : (s.updTile t f).lports = s.lports := rfl
@[simp] theorem State.updTile_lgc (t : Nat) (f : Tile → Tile) : (s.updTile t f).lgc = s.lgc := rfl
@[simp] theorem State.updTile_integ (t : Nat) (f : Tile → Tile) : (s.updTile t f).integ = s.integ := rfl
@[simp] theorem State.updTile_bup (t : Nat) (f : Tile → Tile) : (s.updTile t f).bup = s.bup := rfl
@[simp] theorem State.updTile_health (t : Nat) (f : Tile → Tile) : (s.updTile t f).health = s.health := rfl
@[simp] theorem State.updTile_board (t : Nat) (f : Tile → Tile) : (s.updTile t f).board = s.board := rfl
@[simp] theorem State.updTile_answer (t : Nat) (f : Tile → Tile) : (s.updTile t f).answer = s.answer := rfl
@[simp] theorem State.updTile_freeCount (t : Nat) (f : Tile → Tile) : (s.updTile t f).freeCount = s.freeCount := rfl
@[simp] theorem State.updTile_pending (t : Nat) (f : Tile → Tile) : (s.updTile t f).pending = s.pending := rfl

/-! ### `State.updThread` -/

@[simp] theorem State.updThread_part (t k : Nat) (f : Thread → Thread) : (s.updThread t k f).part = s.part := rfl
@[simp] theorem State.updThread_tick (t k : Nat) (f : Thread → Thread) : (s.updThread t k f).tick = s.tick := rfl
@[simp] theorem State.updThread_cap (t k : Nat) (f : Thread → Thread) : (s.updThread t k f).cap = s.cap := rfl
@[simp] theorem State.updThread_parts (t k : Nat) (f : Thread → Thread) : (s.updThread t k f).parts = s.parts := rfl
@[simp] theorem State.updThread_tiles (t k : Nat) (f : Thread → Thread) : (s.updThread t k f).tiles = smSet s.tiles t ((s.tile t).updTh k f) := rfl
@[simp] theorem State.updThread_routers (t k : Nat) (f : Thread → Thread) : (s.updThread t k f).routers = s.routers := rfl
@[simp] theorem State.updThread_mem (t k : Nat) (f : Thread → Thread) : (s.updThread t k f).mem = s.mem := rfl
@[simp] theorem State.updThread_bad (t k : Nat) (f : Thread → Thread) : (s.updThread t k f).bad = s.bad := rfl
@[simp] theorem State.updThread_net (t k : Nat) (f : Thread → Thread) : (s.updThread t k f).net = s.net := rfl
@[simp] theorem State.updThread_accesses (t k : Nat) (f : Thread → Thread) : (s.updThread t k f).accesses = s.accesses := rfl
@[simp] theorem State.updThread_hbm (t k : Nat) (f : Thread → Thread) : (s.updThread t k f).hbm = s.hbm := rfl
@[simp] theorem State.updThread_fab (t k : Nat) (f : Thread → Thread) : (s.updThread t k f).fab = s.fab := rfl
@[simp] theorem State.updThread_links (t k : Nat) (f : Thread → Thread) : (s.updThread t k f).links = s.links := rfl
@[simp] theorem State.updThread_lnk (t k : Nat) (f : Thread → Thread) : (s.updThread t k f).lnk = s.lnk := rfl
@[simp] theorem State.updThread_host (t k : Nat) (f : Thread → Thread) : (s.updThread t k f).host = s.host := rfl
@[simp] theorem State.updThread_funcs (t k : Nat) (f : Thread → Thread) : (s.updThread t k f).funcs = s.funcs := rfl
@[simp] theorem State.updThread_rings (t k : Nat) (f : Thread → Thread) : (s.updThread t k f).rings = s.rings := rfl
@[simp] theorem State.updThread_tenants (t k : Nat) (f : Thread → Thread) : (s.updThread t k f).tenants = s.tenants := rfl
@[simp] theorem State.updThread_keys (t k : Nat) (f : Thread → Thread) : (s.updThread t k f).keys = s.keys := rfl
@[simp] theorem State.updThread_xsvc (t k : Nat) (f : Thread → Thread) : (s.updThread t k f).xsvc = s.xsvc := rfl
@[simp] theorem State.updThread_hostMem (t k : Nat) (f : Thread → Thread) : (s.updThread t k f).hostMem = s.hostMem := rfl
@[simp] theorem State.updThread_regions (t k : Nat) (f : Thread → Thread) : (s.updThread t k f).regions = s.regions := rfl
@[simp] theorem State.updThread_loads (t k : Nat) (f : Thread → Thread) : (s.updThread t k f).loads = s.loads := rfl
@[simp] theorem State.updThread_lports (t k : Nat) (f : Thread → Thread) : (s.updThread t k f).lports = s.lports := rfl
@[simp] theorem State.updThread_lgc (t k : Nat) (f : Thread → Thread) : (s.updThread t k f).lgc = s.lgc := rfl
@[simp] theorem State.updThread_integ (t k : Nat) (f : Thread → Thread) : (s.updThread t k f).integ = s.integ := rfl
@[simp] theorem State.updThread_bup (t k : Nat) (f : Thread → Thread) : (s.updThread t k f).bup = s.bup := rfl
@[simp] theorem State.updThread_health (t k : Nat) (f : Thread → Thread) : (s.updThread t k f).health = s.health := rfl
@[simp] theorem State.updThread_board (t k : Nat) (f : Thread → Thread) : (s.updThread t k f).board = s.board := rfl
@[simp] theorem State.updThread_answer (t k : Nat) (f : Thread → Thread) : (s.updThread t k f).answer = s.answer := rfl
@[simp] theorem State.updThread_freeCount (t k : Nat) (f : Thread → Thread) : (s.updThread t k f).freeCount = s.freeCount := rfl
@[simp] theorem State.updThread_pending (t k : Nat) (f : Thread → Thread) : (s.updThread t k f).pending = s.pending := rfl

/-! ### `State.updSlot` -/

@[simp] theorem State.updSlot_part (t i : Nat) (f : Slot → Slot) : (s.updSlot t i f).part = s.part := rfl
@[simp] theorem State.updSlot_tick (t i : Nat) (f : Slot → Slot) : (s.updSlot t i f).tick = s.tick := rfl
@[simp] theorem State.updSlot_cap (t i : Nat) (f : Slot → Slot) : (s.updSlot t i f).cap = s.cap := rfl
@[simp] theorem State.updSlot_parts (t i : Nat) (f : Slot → Slot) : (s.updSlot t i f).parts = s.parts := rfl
@[simp] theorem State.updSlot_tiles (t i : Nat) (f : Slot → Slot) : (s.updSlot t i f).tiles = smSet s.tiles t ((s.tile t).setSlot i (f (s.slot t i))) := rfl
@[simp] theorem State.updSlot_routers (t i : Nat) (f : Slot → Slot) : (s.updSlot t i f).routers = s.routers := rfl
@[simp] theorem State.updSlot_mem (t i : Nat) (f : Slot → Slot) : (s.updSlot t i f).mem = s.mem := rfl
@[simp] theorem State.updSlot_bad (t i : Nat) (f : Slot → Slot) : (s.updSlot t i f).bad = s.bad := rfl
@[simp] theorem State.updSlot_net (t i : Nat) (f : Slot → Slot) : (s.updSlot t i f).net = s.net := rfl
@[simp] theorem State.updSlot_accesses (t i : Nat) (f : Slot → Slot) : (s.updSlot t i f).accesses = s.accesses := rfl
@[simp] theorem State.updSlot_hbm (t i : Nat) (f : Slot → Slot) : (s.updSlot t i f).hbm = s.hbm := rfl
@[simp] theorem State.updSlot_fab (t i : Nat) (f : Slot → Slot) : (s.updSlot t i f).fab = s.fab := rfl
@[simp] theorem State.updSlot_links (t i : Nat) (f : Slot → Slot) : (s.updSlot t i f).links = s.links := rfl
@[simp] theorem State.updSlot_lnk (t i : Nat) (f : Slot → Slot) : (s.updSlot t i f).lnk = s.lnk := rfl
@[simp] theorem State.updSlot_host (t i : Nat) (f : Slot → Slot) : (s.updSlot t i f).host = s.host := rfl
@[simp] theorem State.updSlot_funcs (t i : Nat) (f : Slot → Slot) : (s.updSlot t i f).funcs = s.funcs := rfl
@[simp] theorem State.updSlot_rings (t i : Nat) (f : Slot → Slot) : (s.updSlot t i f).rings = s.rings := rfl
@[simp] theorem State.updSlot_tenants (t i : Nat) (f : Slot → Slot) : (s.updSlot t i f).tenants = s.tenants := rfl
@[simp] theorem State.updSlot_keys (t i : Nat) (f : Slot → Slot) : (s.updSlot t i f).keys = s.keys := rfl
@[simp] theorem State.updSlot_xsvc (t i : Nat) (f : Slot → Slot) : (s.updSlot t i f).xsvc = s.xsvc := rfl
@[simp] theorem State.updSlot_hostMem (t i : Nat) (f : Slot → Slot) : (s.updSlot t i f).hostMem = s.hostMem := rfl
@[simp] theorem State.updSlot_regions (t i : Nat) (f : Slot → Slot) : (s.updSlot t i f).regions = s.regions := rfl
@[simp] theorem State.updSlot_loads (t i : Nat) (f : Slot → Slot) : (s.updSlot t i f).loads = s.loads := rfl
@[simp] theorem State.updSlot_lports (t i : Nat) (f : Slot → Slot) : (s.updSlot t i f).lports = s.lports := rfl
@[simp] theorem State.updSlot_lgc (t i : Nat) (f : Slot → Slot) : (s.updSlot t i f).lgc = s.lgc := rfl
@[simp] theorem State.updSlot_integ (t i : Nat) (f : Slot → Slot) : (s.updSlot t i f).integ = s.integ := rfl
@[simp] theorem State.updSlot_bup (t i : Nat) (f : Slot → Slot) : (s.updSlot t i f).bup = s.bup := rfl
@[simp] theorem State.updSlot_health (t i : Nat) (f : Slot → Slot) : (s.updSlot t i f).health = s.health := rfl
@[simp] theorem State.updSlot_board (t i : Nat) (f : Slot → Slot) : (s.updSlot t i f).board = s.board := rfl
@[simp] theorem State.updSlot_answer (t i : Nat) (f : Slot → Slot) : (s.updSlot t i f).answer = s.answer := rfl
@[simp] theorem State.updSlot_freeCount (t i : Nat) (f : Slot → Slot) : (s.updSlot t i f).freeCount = s.freeCount := rfl
@[simp] theorem State.updSlot_pending (t i : Nat) (f : Slot → Slot) : (s.updSlot t i f).pending = s.pending := rfl

/-! ### `State.updRouter` -/

@[simp] theorem State.updRouter_part (t : Nat) (f : Router → Router) : (s.updRouter t f).part = s.part := rfl
@[simp] theorem State.updRouter_tick (t : Nat) (f : Router → Router) : (s.updRouter t f).tick = s.tick := rfl
@[simp] theorem State.updRouter_cap (t : Nat) (f : Router → Router) : (s.updRouter t f).cap = s.cap := rfl
@[simp] theorem State.updRouter_parts (t : Nat) (f : Router → Router) : (s.updRouter t f).parts = s.parts := rfl
@[simp] theorem State.updRouter_tiles (t : Nat) (f : Router → Router) : (s.updRouter t f).tiles = s.tiles := rfl
@[simp] theorem State.updRouter_routers (t : Nat) (f : Router → Router) : (s.updRouter t f).routers = smUpd s.routers t {} f := rfl
@[simp] theorem State.updRouter_mem (t : Nat) (f : Router → Router) : (s.updRouter t f).mem = s.mem := rfl
@[simp] theorem State.updRouter_bad (t : Nat) (f : Router → Router) : (s.updRouter t f).bad = s.bad := rfl
@[simp] theorem State.updRouter_net (t : Nat) (f : Router → Router) : (s.updRouter t f).net = s.net := rfl
@[simp] theorem State.updRouter_accesses (t : Nat) (f : Router → Router) : (s.updRouter t f).accesses = s.accesses := rfl
@[simp] theorem State.updRouter_hbm (t : Nat) (f : Router → Router) : (s.updRouter t f).hbm = s.hbm := rfl
@[simp] theorem State.updRouter_fab (t : Nat) (f : Router → Router) : (s.updRouter t f).fab = s.fab := rfl
@[simp] theorem State.updRouter_links (t : Nat) (f : Router → Router) : (s.updRouter t f).links = s.links := rfl
@[simp] theorem State.updRouter_lnk (t : Nat) (f : Router → Router) : (s.updRouter t f).lnk = s.lnk := rfl
@[simp] theorem State.updRouter_host (t : Nat) (f : Router → Router) : (s.updRouter t f).host = s.host := rfl
@[simp] theorem State.updRouter_funcs (t : Nat) (f : Router → Router) : (s.updRouter t f).funcs = s.funcs := rfl
@[simp] theorem State.updRouter_rings (t : Nat) (f : Router → Router) : (s.updRouter t f).rings = s.rings := rfl
@[simp] theorem State.updRouter_tenants (t : Nat) (f : Router → Router) : (s.updRouter t f).tenants = s.tenants := rfl
@[simp] theorem State.updRouter_keys (t : Nat) (f : Router → Router) : (s.updRouter t f).keys = s.keys := rfl
@[simp] theorem State.updRouter_xsvc (t : Nat) (f : Router → Router) : (s.updRouter t f).xsvc = s.xsvc := rfl
@[simp] theorem State.updRouter_hostMem (t : Nat) (f : Router → Router) : (s.updRouter t f).hostMem = s.hostMem := rfl
@[simp] theorem State.updRouter_regions (t : Nat) (f : Router → Router) : (s.updRouter t f).regions = s.regions := rfl
@[simp] theorem State.updRouter_loads (t : Nat) (f : Router → Router) : (s.updRouter t f).loads = s.loads := rfl
@[simp] theorem State.updRouter_lports (t : Nat) (f : Router → Router) : (s.updRouter t f).lports = s.lports := rfl
@[simp] theorem State.updRouter_lgc (t : Nat) (f : Router → Router) : (s.updRouter t f).lgc = s.lgc := rfl
@[simp] theorem State.updRouter_integ (t : Nat) (f : Router → Router) : (s.updRouter t f).integ = s.integ := rfl
@[simp] theorem State.updRouter_bup (t : Nat) (f : Router → Router) : (s.updRouter t f).bup = s.bup := rfl
@[simp] theorem State.updRouter_health (t : Nat) (f : Router → Router) : (s.updRouter t f).health = s.health := rfl
@[simp] theorem State.updRouter_board (t : Nat) (f : Router → Router) : (s.updRouter t f).board = s.board := rfl
@[simp] theorem State.updRouter_answer (t : Nat) (f : Router → Router) : (s.updRouter t f).answer = s.answer := rfl
@[simp] theorem State.updRouter_freeCount (t : Nat) (f : Router → Router) : (s.updRouter t f).freeCount = s.freeCount := rfl
@[simp] theorem State.updRouter_pending (t : Nat) (f : Router → Router) : (s.updRouter t f).pending = s.pending := rfl

/-! ### `State.updStack` -/

@[simp] theorem State.updStack_part (k : Nat) (f : Stack → Stack) : (s.updStack k f).part = s.part := rfl
@[simp] theorem State.updStack_tick (k : Nat) (f : Stack → Stack) : (s.updStack k f).tick = s.tick := rfl
@[simp] theorem State.updStack_cap (k : Nat) (f : Stack → Stack) : (s.updStack k f).cap = s.cap := rfl
@[simp] theorem State.updStack_parts (k : Nat) (f : Stack → Stack) : (s.updStack k f).parts = s.parts := rfl
@[simp] theorem State.updStack_tiles (k : Nat) (f : Stack → Stack) : (s.updStack k f).tiles = s.tiles := rfl
@[simp] theorem State.updStack_routers (k : Nat) (f : Stack → Stack) : (s.updStack k f).routers = s.routers := rfl
@[simp] theorem State.updStack_mem (k : Nat) (f : Stack → Stack) : (s.updStack k f).mem = s.mem := rfl
@[simp] theorem State.updStack_bad (k : Nat) (f : Stack → Stack) : (s.updStack k f).bad = s.bad := rfl
@[simp] theorem State.updStack_net (k : Nat) (f : Stack → Stack) : (s.updStack k f).net = s.net := rfl
@[simp] theorem State.updStack_accesses (k : Nat) (f : Stack → Stack) : (s.updStack k f).accesses = s.accesses := rfl
@[simp] theorem State.updStack_hbm (k : Nat) (f : Stack → Stack) : (s.updStack k f).hbm = smUpd s.hbm k {} f := rfl
@[simp] theorem State.updStack_fab (k : Nat) (f : Stack → Stack) : (s.updStack k f).fab = s.fab := rfl
@[simp] theorem State.updStack_links (k : Nat) (f : Stack → Stack) : (s.updStack k f).links = s.links := rfl
@[simp] theorem State.updStack_lnk (k : Nat) (f : Stack → Stack) : (s.updStack k f).lnk = s.lnk := rfl
@[simp] theorem State.updStack_host (k : Nat) (f : Stack → Stack) : (s.updStack k f).host = s.host := rfl
@[simp] theorem State.updStack_funcs (k : Nat) (f : Stack → Stack) : (s.updStack k f).funcs = s.funcs := rfl
@[simp] theorem State.updStack_rings (k : Nat) (f : Stack → Stack) : (s.updStack k f).rings = s.rings := rfl
@[simp] theorem State.updStack_tenants (k : Nat) (f : Stack → Stack) : (s.updStack k f).tenants = s.tenants := rfl
@[simp] theorem State.updStack_keys (k : Nat) (f : Stack → Stack) : (s.updStack k f).keys = s.keys := rfl
@[simp] theorem State.updStack_xsvc (k : Nat) (f : Stack → Stack) : (s.updStack k f).xsvc = s.xsvc := rfl
@[simp] theorem State.updStack_hostMem (k : Nat) (f : Stack → Stack) : (s.updStack k f).hostMem = s.hostMem := rfl
@[simp] theorem State.updStack_regions (k : Nat) (f : Stack → Stack) : (s.updStack k f).regions = s.regions := rfl
@[simp] theorem State.updStack_loads (k : Nat) (f : Stack → Stack) : (s.updStack k f).loads = s.loads := rfl
@[simp] theorem State.updStack_lports (k : Nat) (f : Stack → Stack) : (s.updStack k f).lports = s.lports := rfl
@[simp] theorem State.updStack_lgc (k : Nat) (f : Stack → Stack) : (s.updStack k f).lgc = s.lgc := rfl
@[simp] theorem State.updStack_integ (k : Nat) (f : Stack → Stack) : (s.updStack k f).integ = s.integ := rfl
@[simp] theorem State.updStack_bup (k : Nat) (f : Stack → Stack) : (s.updStack k f).bup = s.bup := rfl
@[simp] theorem State.updStack_health (k : Nat) (f : Stack → Stack) : (s.updStack k f).health = s.health := rfl
@[simp] theorem State.updStack_board (k : Nat) (f : Stack → Stack) : (s.updStack k f).board = s.board := rfl
@[simp] theorem State.updStack_answer (k : Nat) (f : Stack → Stack) : (s.updStack k f).answer = s.answer := rfl
@[simp] theorem State.updStack_freeCount (k : Nat) (f : Stack → Stack) : (s.updStack k f).freeCount = s.freeCount := rfl
@[simp] theorem State.updStack_pending (k : Nat) (f : Stack → Stack) : (s.updStack k f).pending = s.pending := rfl

/-! ### `State.updBup` -/

@[simp] theorem State.updBup_part (f : Bringup → Bringup) : (s.updBup f).part = s.part := rfl
@[simp] theorem State.updBup_tick (f : Bringup → Bringup) : (s.updBup f).tick = s.tick := rfl
@[simp] theorem State.updBup_cap (f : Bringup → Bringup) : (s.updBup f).cap = s.cap := rfl
@[simp] theorem State.updBup_parts (f : Bringup → Bringup) : (s.updBup f).parts = s.parts := rfl
@[simp] theorem State.updBup_tiles (f : Bringup → Bringup) : (s.updBup f).tiles = s.tiles := rfl
@[simp] theorem State.updBup_routers (f : Bringup → Bringup) : (s.updBup f).routers = s.routers := rfl
@[simp] theorem State.updBup_mem (f : Bringup → Bringup) : (s.updBup f).mem = s.mem := rfl
@[simp] theorem State.updBup_bad (f : Bringup → Bringup) : (s.updBup f).bad = s.bad := rfl
@[simp] theorem State.updBup_net (f : Bringup → Bringup) : (s.updBup f).net = s.net := rfl
@[simp] theorem State.updBup_accesses (f : Bringup → Bringup) : (s.updBup f).accesses = s.accesses := rfl
@[simp] theorem State.updBup_hbm (f : Bringup → Bringup) : (s.updBup f).hbm = s.hbm := rfl
@[simp] theorem State.updBup_fab (f : Bringup → Bringup) : (s.updBup f).fab = s.fab := rfl
@[simp] theorem State.updBup_links (f : Bringup → Bringup) : (s.updBup f).links = s.links := rfl
@[simp] theorem State.updBup_lnk (f : Bringup → Bringup) : (s.updBup f).lnk = s.lnk := rfl
@[simp] theorem State.updBup_host (f : Bringup → Bringup) : (s.updBup f).host = s.host := rfl
@[simp] theorem State.updBup_funcs (f : Bringup → Bringup) : (s.updBup f).funcs = s.funcs := rfl
@[simp] theorem State.updBup_rings (f : Bringup → Bringup) : (s.updBup f).rings = s.rings := rfl
@[simp] theorem State.updBup_tenants (f : Bringup → Bringup) : (s.updBup f).tenants = s.tenants := rfl
@[simp] theorem State.updBup_keys (f : Bringup → Bringup) : (s.updBup f).keys = s.keys := rfl
@[simp] theorem State.updBup_xsvc (f : Bringup → Bringup) : (s.updBup f).xsvc = s.xsvc := rfl
@[simp] theorem State.updBup_hostMem (f : Bringup → Bringup) : (s.updBup f).hostMem = s.hostMem := rfl
@[simp] theorem State.updBup_regions (f : Bringup → Bringup) : (s.updBup f).regions = s.regions := rfl
@[simp] theorem State.updBup_loads (f : Bringup → Bringup) : (s.updBup f).loads = s.loads := rfl
@[simp] theorem State.updBup_lports (f : Bringup → Bringup) : (s.updBup f).lports = s.lports := rfl
@[simp] theorem State.updBup_lgc (f : Bringup → Bringup) : (s.updBup f).lgc = s.lgc := rfl
@[simp] theorem State.updBup_integ (f : Bringup → Bringup) : (s.updBup f).integ = s.integ := rfl
@[simp] theorem State.updBup_bup (f : Bringup → Bringup) : (s.updBup f).bup = f s.bup := rfl
@[simp] theorem State.updBup_health (f : Bringup → Bringup) : (s.updBup f).health = s.health := rfl
@[simp] theorem State.updBup_board (f : Bringup → Bringup) : (s.updBup f).board = s.board := rfl
@[simp] theorem State.updBup_answer (f : Bringup → Bringup) : (s.updBup f).answer = s.answer := rfl
@[simp] theorem State.updBup_freeCount (f : Bringup → Bringup) : (s.updBup f).freeCount = s.freeCount := rfl
@[simp] theorem State.updBup_pending (f : Bringup → Bringup) : (s.updBup f).pending = s.pending := rfl

/-! ### `State.updCtl` -/

@[simp] theorem State.updCtl_part (t : Nat) (f : TileCtl → TileCtl) : (s.updCtl t f).part = s.part := rfl
@[simp] theorem State.updCtl_tick (t : Nat) (f : TileCtl → TileCtl) : (s.updCtl t f).tick = s.tick := rfl
@[simp] theorem State.updCtl_cap (t : Nat) (f : TileCtl → TileCtl) : (s.updCtl t f).cap = s.cap := rfl
@[simp] theorem State.updCtl_parts (t : Nat) (f : TileCtl → TileCtl) : (s.updCtl t f).parts = s.parts := rfl
@[simp] theorem State.updCtl_tiles (t : Nat) (f : TileCtl → TileCtl) : (s.updCtl t f).tiles = s.tiles := rfl
@[simp] theorem State.updCtl_routers (t : Nat) (f : TileCtl → TileCtl) : (s.updCtl t f).routers = s.routers := rfl
@[simp] theorem State.updCtl_mem (t : Nat) (f : TileCtl → TileCtl) : (s.updCtl t f).mem = s.mem := rfl
@[simp] theorem State.updCtl_bad (t : Nat) (f : TileCtl → TileCtl) : (s.updCtl t f).bad = s.bad := rfl
@[simp] theorem State.updCtl_net (t : Nat) (f : TileCtl → TileCtl) : (s.updCtl t f).net = s.net := rfl
@[simp] theorem State.updCtl_accesses (t : Nat) (f : TileCtl → TileCtl) : (s.updCtl t f).accesses = s.accesses := rfl
@[simp] theorem State.updCtl_hbm (t : Nat) (f : TileCtl → TileCtl) : (s.updCtl t f).hbm = s.hbm := rfl
@[simp] theorem State.updCtl_fab (t : Nat) (f : TileCtl → TileCtl) : (s.updCtl t f).fab = s.fab := rfl
@[simp] theorem State.updCtl_links (t : Nat) (f : TileCtl → TileCtl) : (s.updCtl t f).links = s.links := rfl
@[simp] theorem State.updCtl_lnk (t : Nat) (f : TileCtl → TileCtl) : (s.updCtl t f).lnk = s.lnk := rfl
@[simp] theorem State.updCtl_host (t : Nat) (f : TileCtl → TileCtl) : (s.updCtl t f).host = s.host := rfl
@[simp] theorem State.updCtl_funcs (t : Nat) (f : TileCtl → TileCtl) : (s.updCtl t f).funcs = s.funcs := rfl
@[simp] theorem State.updCtl_rings (t : Nat) (f : TileCtl → TileCtl) : (s.updCtl t f).rings = s.rings := rfl
@[simp] theorem State.updCtl_tenants (t : Nat) (f : TileCtl → TileCtl) : (s.updCtl t f).tenants = s.tenants := rfl
@[simp] theorem State.updCtl_keys (t : Nat) (f : TileCtl → TileCtl) : (s.updCtl t f).keys = s.keys := rfl
@[simp] theorem State.updCtl_xsvc (t : Nat) (f : TileCtl → TileCtl) : (s.updCtl t f).xsvc = s.xsvc := rfl
@[simp] theorem State.updCtl_hostMem (t : Nat) (f : TileCtl → TileCtl) : (s.updCtl t f).hostMem = s.hostMem := rfl
@[simp] theorem State.updCtl_regions (t : Nat) (f : TileCtl → TileCtl) : (s.updCtl t f).regions = s.regions := rfl
@[simp] theorem State.updCtl_loads (t : Nat) (f : TileCtl → TileCtl) : (s.updCtl t f).loads = s.loads := rfl
@[simp] theorem State.updCtl_lports (t : Nat) (f : TileCtl → TileCtl) : (s.updCtl t f).lports = s.lports := rfl
@[simp] theorem State.updCtl_lgc (t : Nat) (f : TileCtl → TileCtl) : (s.updCtl t f).lgc = s.lgc := rfl
@[simp] theorem State.updCtl_integ (t : Nat) (f : TileCtl → TileCtl) : (s.updCtl t f).integ = s.integ := rfl
@[simp] theorem State.updCtl_bup (t : Nat) (f : TileCtl → TileCtl) : (s.updCtl t f).bup = { s.bup with tiles := smUpd s.bup.tiles t {} f } := rfl
@[simp] theorem State.updCtl_health (t : Nat) (f : TileCtl → TileCtl) : (s.updCtl t f).health = s.health := rfl
@[simp] theorem State.updCtl_board (t : Nat) (f : TileCtl → TileCtl) : (s.updCtl t f).board = s.board := rfl
@[simp] theorem State.updCtl_answer (t : Nat) (f : TileCtl → TileCtl) : (s.updCtl t f).answer = s.answer := rfl
@[simp] theorem State.updCtl_freeCount (t : Nat) (f : TileCtl → TileCtl) : (s.updCtl t f).freeCount = s.freeCount := rfl
@[simp] theorem State.updCtl_pending (t : Nat) (f : TileCtl → TileCtl) : (s.updCtl t f).pending = s.pending := rfl

/-! ### `State.updTick` -/

@[simp] theorem State.updTick_part (f : Tick → Tick) : (s.updTick f).part = s.part := rfl
@[simp] theorem State.updTick_tick (f : Tick → Tick) : (s.updTick f).tick = f s.tick := rfl
@[simp] theorem State.updTick_cap (f : Tick → Tick) : (s.updTick f).cap = s.cap := rfl
@[simp] theorem State.updTick_parts (f : Tick → Tick) : (s.updTick f).parts = s.parts := rfl
@[simp] theorem State.updTick_tiles (f : Tick → Tick) : (s.updTick f).tiles = s.tiles := rfl
@[simp] theorem State.updTick_routers (f : Tick → Tick) : (s.updTick f).routers = s.routers := rfl
@[simp] theorem State.updTick_mem (f : Tick → Tick) : (s.updTick f).mem = s.mem := rfl
@[simp] theorem State.updTick_bad (f : Tick → Tick) : (s.updTick f).bad = s.bad := rfl
@[simp] theorem State.updTick_net (f : Tick → Tick) : (s.updTick f).net = s.net := rfl
@[simp] theorem State.updTick_accesses (f : Tick → Tick) : (s.updTick f).accesses = s.accesses := rfl
@[simp] theorem State.updTick_hbm (f : Tick → Tick) : (s.updTick f).hbm = s.hbm := rfl
@[simp] theorem State.updTick_fab (f : Tick → Tick) : (s.updTick f).fab = s.fab := rfl
@[simp] theorem State.updTick_links (f : Tick → Tick) : (s.updTick f).links = s.links := rfl
@[simp] theorem State.updTick_lnk (f : Tick → Tick) : (s.updTick f).lnk = s.lnk := rfl
@[simp] theorem State.updTick_host (f : Tick → Tick) : (s.updTick f).host = s.host := rfl
@[simp] theorem State.updTick_funcs (f : Tick → Tick) : (s.updTick f).funcs = s.funcs := rfl
@[simp] theorem State.updTick_rings (f : Tick → Tick) : (s.updTick f).rings = s.rings := rfl
@[simp] theorem State.updTick_tenants (f : Tick → Tick) : (s.updTick f).tenants = s.tenants := rfl
@[simp] theorem State.updTick_keys (f : Tick → Tick) : (s.updTick f).keys = s.keys := rfl
@[simp] theorem State.updTick_xsvc (f : Tick → Tick) : (s.updTick f).xsvc = s.xsvc := rfl
@[simp] theorem State.updTick_hostMem (f : Tick → Tick) : (s.updTick f).hostMem = s.hostMem := rfl
@[simp] theorem State.updTick_regions (f : Tick → Tick) : (s.updTick f).regions = s.regions := rfl
@[simp] theorem State.updTick_loads (f : Tick → Tick) : (s.updTick f).loads = s.loads := rfl
@[simp] theorem State.updTick_lports (f : Tick → Tick) : (s.updTick f).lports = s.lports := rfl
@[simp] theorem State.updTick_lgc (f : Tick → Tick) : (s.updTick f).lgc = s.lgc := rfl
@[simp] theorem State.updTick_integ (f : Tick → Tick) : (s.updTick f).integ = s.integ := rfl
@[simp] theorem State.updTick_bup (f : Tick → Tick) : (s.updTick f).bup = s.bup := rfl
@[simp] theorem State.updTick_health (f : Tick → Tick) : (s.updTick f).health = s.health := rfl
@[simp] theorem State.updTick_board (f : Tick → Tick) : (s.updTick f).board = s.board := rfl
@[simp] theorem State.updTick_answer (f : Tick → Tick) : (s.updTick f).answer = s.answer := rfl
@[simp] theorem State.updTick_freeCount (f : Tick → Tick) : (s.updTick f).freeCount = s.freeCount := rfl
@[simp] theorem State.updTick_pending (f : Tick → Tick) : (s.updTick f).pending = s.pending := rfl

/-! ### `State.updFab` -/

@[simp] theorem State.updFab_part (f : Fabric → Fabric) : (s.updFab f).part = s.part := rfl
@[simp] theorem State.updFab_tick (f : Fabric → Fabric) : (s.updFab f).tick = s.tick := rfl
@[simp] theorem State.updFab_cap (f : Fabric → Fabric) : (s.updFab f).cap = s.cap := rfl
@[simp] theorem State.updFab_parts (f : Fabric → Fabric) : (s.updFab f).parts = s.parts := rfl
@[simp] theorem State.updFab_tiles (f : Fabric → Fabric) : (s.updFab f).tiles = s.tiles := rfl
@[simp] theorem State.updFab_routers (f : Fabric → Fabric) : (s.updFab f).routers = s.routers := rfl
@[simp] theorem State.updFab_mem (f : Fabric → Fabric) : (s.updFab f).mem = s.mem := rfl
@[simp] theorem State.updFab_bad (f : Fabric → Fabric) : (s.updFab f).bad = s.bad := rfl
@[simp] theorem State.updFab_net (f : Fabric → Fabric) : (s.updFab f).net = s.net := rfl
@[simp] theorem State.updFab_accesses (f : Fabric → Fabric) : (s.updFab f).accesses = s.accesses := rfl
@[simp] theorem State.updFab_hbm (f : Fabric → Fabric) : (s.updFab f).hbm = s.hbm := rfl
@[simp] theorem State.updFab_fab (f : Fabric → Fabric) : (s.updFab f).fab = f s.fab := rfl
@[simp] theorem State.updFab_links (f : Fabric → Fabric) : (s.updFab f).links = s.links := rfl
@[simp] theorem State.updFab_lnk (f : Fabric → Fabric) : (s.updFab f).lnk = s.lnk := rfl
@[simp] theorem State.updFab_host (f : Fabric → Fabric) : (s.updFab f).host = s.host := rfl
@[simp] theorem State.updFab_funcs (f : Fabric → Fabric) : (s.updFab f).funcs = s.funcs := rfl
@[simp] theorem State.updFab_rings (f : Fabric → Fabric) : (s.updFab f).rings = s.rings := rfl
@[simp] theorem State.updFab_tenants (f : Fabric → Fabric) : (s.updFab f).tenants = s.tenants := rfl
@[simp] theorem State.updFab_keys (f : Fabric → Fabric) : (s.updFab f).keys = s.keys := rfl
@[simp] theorem State.updFab_xsvc (f : Fabric → Fabric) : (s.updFab f).xsvc = s.xsvc := rfl
@[simp] theorem State.updFab_hostMem (f : Fabric → Fabric) : (s.updFab f).hostMem = s.hostMem := rfl
@[simp] theorem State.updFab_regions (f : Fabric → Fabric) : (s.updFab f).regions = s.regions := rfl
@[simp] theorem State.updFab_loads (f : Fabric → Fabric) : (s.updFab f).loads = s.loads := rfl
@[simp] theorem State.updFab_lports (f : Fabric → Fabric) : (s.updFab f).lports = s.lports := rfl
@[simp] theorem State.updFab_lgc (f : Fabric → Fabric) : (s.updFab f).lgc = s.lgc := rfl
@[simp] theorem State.updFab_integ (f : Fabric → Fabric) : (s.updFab f).integ = s.integ := rfl
@[simp] theorem State.updFab_bup (f : Fabric → Fabric) : (s.updFab f).bup = s.bup := rfl
@[simp] theorem State.updFab_health (f : Fabric → Fabric) : (s.updFab f).health = s.health := rfl
@[simp] theorem State.updFab_board (f : Fabric → Fabric) : (s.updFab f).board = s.board := rfl
@[simp] theorem State.updFab_answer (f : Fabric → Fabric) : (s.updFab f).answer = s.answer := rfl
@[simp] theorem State.updFab_freeCount (f : Fabric → Fabric) : (s.updFab f).freeCount = s.freeCount := rfl
@[simp] theorem State.updFab_pending (f : Fabric → Fabric) : (s.updFab f).pending = s.pending := rfl

/-! ### `State.updKfb` -/

@[simp] theorem State.updKfb_part (d : Nat) (f : Kfb → Kfb) : (s.updKfb d f).part = s.part := rfl
@[simp] theorem State.updKfb_tick (d : Nat) (f : Kfb → Kfb) : (s.updKfb d f).tick = s.tick := rfl
@[simp] theorem State.updKfb_cap (d : Nat) (f : Kfb → Kfb) : (s.updKfb d f).cap = s.cap := rfl
@[simp] theorem State.updKfb_parts (d : Nat) (f : Kfb → Kfb) : (s.updKfb d f).parts = s.parts := rfl
@[simp] theorem State.updKfb_tiles (d : Nat) (f : Kfb → Kfb) : (s.updKfb d f).tiles = s.tiles := rfl
@[simp] theorem State.updKfb_routers (d : Nat) (f : Kfb → Kfb) : (s.updKfb d f).routers = s.routers := rfl
@[simp] theorem State.updKfb_mem (d : Nat) (f : Kfb → Kfb) : (s.updKfb d f).mem = s.mem := rfl
@[simp] theorem State.updKfb_bad (d : Nat) (f : Kfb → Kfb) : (s.updKfb d f).bad = s.bad := rfl
@[simp] theorem State.updKfb_net (d : Nat) (f : Kfb → Kfb) : (s.updKfb d f).net = s.net := rfl
@[simp] theorem State.updKfb_accesses (d : Nat) (f : Kfb → Kfb) : (s.updKfb d f).accesses = s.accesses := rfl
@[simp] theorem State.updKfb_hbm (d : Nat) (f : Kfb → Kfb) : (s.updKfb d f).hbm = s.hbm := rfl
@[simp] theorem State.updKfb_fab (d : Nat) (f : Kfb → Kfb) : (s.updKfb d f).fab = { s.fab with dies := smUpd s.fab.dies d {} f } := rfl
@[simp] theorem State.updKfb_links (d : Nat) (f : Kfb → Kfb) : (s.updKfb d f).links = s.links := rfl
@[simp] theorem State.updKfb_lnk (d : Nat) (f : Kfb → Kfb) : (s.updKfb d f).lnk = s.lnk := rfl
@[simp] theorem State.updKfb_host (d : Nat) (f : Kfb → Kfb) : (s.updKfb d f).host = s.host := rfl
@[simp] theorem State.updKfb_funcs (d : Nat) (f : Kfb → Kfb) : (s.updKfb d f).funcs = s.funcs := rfl
@[simp] theorem State.updKfb_rings (d : Nat) (f : Kfb → Kfb) : (s.updKfb d f).rings = s.rings := rfl
@[simp] theorem State.updKfb_tenants (d : Nat) (f : Kfb → Kfb) : (s.updKfb d f).tenants = s.tenants := rfl
@[simp] theorem State.updKfb_keys (d : Nat) (f : Kfb → Kfb) : (s.updKfb d f).keys = s.keys := rfl
@[simp] theorem State.updKfb_xsvc (d : Nat) (f : Kfb → Kfb) : (s.updKfb d f).xsvc = s.xsvc := rfl
@[simp] theorem State.updKfb_hostMem (d : Nat) (f : Kfb → Kfb) : (s.updKfb d f).hostMem = s.hostMem := rfl
@[simp] theorem State.updKfb_regions (d : Nat) (f : Kfb → Kfb) : (s.updKfb d f).regions = s.regions := rfl
@[simp] theorem State.updKfb_loads (d : Nat) (f : Kfb → Kfb) : (s.updKfb d f).loads = s.loads := rfl
@[simp] theorem State.updKfb_lports (d : Nat) (f : Kfb → Kfb) : (s.updKfb d f).lports = s.lports := rfl
@[simp] theorem State.updKfb_lgc (d : Nat) (f : Kfb → Kfb) : (s.updKfb d f).lgc = s.lgc := rfl
@[simp] theorem State.updKfb_integ (d : Nat) (f : Kfb → Kfb) : (s.updKfb d f).integ = s.integ := rfl
@[simp] theorem State.updKfb_bup (d : Nat) (f : Kfb → Kfb) : (s.updKfb d f).bup = s.bup := rfl
@[simp] theorem State.updKfb_health (d : Nat) (f : Kfb → Kfb) : (s.updKfb d f).health = s.health := rfl
@[simp] theorem State.updKfb_board (d : Nat) (f : Kfb → Kfb) : (s.updKfb d f).board = s.board := rfl
@[simp] theorem State.updKfb_answer (d : Nat) (f : Kfb → Kfb) : (s.updKfb d f).answer = s.answer := rfl
@[simp] theorem State.updKfb_freeCount (d : Nat) (f : Kfb → Kfb) : (s.updKfb d f).freeCount = s.freeCount := rfl
@[simp] theorem State.updKfb_pending (d : Nat) (f : Kfb → Kfb) : (s.updKfb d f).pending = s.pending := rfl

/-! ### `State.updFport` -/

@[simp] theorem State.updFport_part (q : Nat) (f : FPort → FPort) : (s.updFport q f).part = s.part := rfl
@[simp] theorem State.updFport_tick (q : Nat) (f : FPort → FPort) : (s.updFport q f).tick = s.tick := rfl
@[simp] theorem State.updFport_cap (q : Nat) (f : FPort → FPort) : (s.updFport q f).cap = s.cap := rfl
@[simp] theorem State.updFport_parts (q : Nat) (f : FPort → FPort) : (s.updFport q f).parts = s.parts := rfl
@[simp] theorem State.updFport_tiles (q : Nat) (f : FPort → FPort) : (s.updFport q f).tiles = s.tiles := rfl
@[simp] theorem State.updFport_routers (q : Nat) (f : FPort → FPort) : (s.updFport q f).routers = s.routers := rfl
@[simp] theorem State.updFport_mem (q : Nat) (f : FPort → FPort) : (s.updFport q f).mem = s.mem := rfl
@[simp] theorem State.updFport_bad (q : Nat) (f : FPort → FPort) : (s.updFport q f).bad = s.bad := rfl
@[simp] theorem State.updFport_net (q : Nat) (f : FPort → FPort) : (s.updFport q f).net = s.net := rfl
@[simp] theorem State.updFport_accesses (q : Nat) (f : FPort → FPort) : (s.updFport q f).accesses = s.accesses := rfl
@[simp] theorem State.updFport_hbm (q : Nat) (f : FPort → FPort) : (s.updFport q f).hbm = s.hbm := rfl
@[simp] theorem State.updFport_fab (q : Nat) (f : FPort → FPort) : (s.updFport q f).fab = { s.fab with ports := smUpd s.fab.ports q {} f } := rfl
@[simp] theorem State.updFport_links (q : Nat) (f : FPort → FPort) : (s.updFport q f).links = s.links := rfl
@[simp] theorem State.updFport_lnk (q : Nat) (f : FPort → FPort) : (s.updFport q f).lnk = s.lnk := rfl
@[simp] theorem State.updFport_host (q : Nat) (f : FPort → FPort) : (s.updFport q f).host = s.host := rfl
@[simp] theorem State.updFport_funcs (q : Nat) (f : FPort → FPort) : (s.updFport q f).funcs = s.funcs := rfl
@[simp] theorem State.updFport_rings (q : Nat) (f : FPort → FPort) : (s.updFport q f).rings = s.rings := rfl
@[simp] theorem State.updFport_tenants (q : Nat) (f : FPort → FPort) : (s.updFport q f).tenants = s.tenants := rfl
@[simp] theorem State.updFport_keys (q : Nat) (f : FPort → FPort) : (s.updFport q f).keys = s.keys := rfl
@[simp] theorem State.updFport_xsvc (q : Nat) (f : FPort → FPort) : (s.updFport q f).xsvc = s.xsvc := rfl
@[simp] theorem State.updFport_hostMem (q : Nat) (f : FPort → FPort) : (s.updFport q f).hostMem = s.hostMem := rfl
@[simp] theorem State.updFport_regions (q : Nat) (f : FPort → FPort) : (s.updFport q f).regions = s.regions := rfl
@[simp] theorem State.updFport_loads (q : Nat) (f : FPort → FPort) : (s.updFport q f).loads = s.loads := rfl
@[simp] theorem State.updFport_lports (q : Nat) (f : FPort → FPort) : (s.updFport q f).lports = s.lports := rfl
@[simp] theorem State.updFport_lgc (q : Nat) (f : FPort → FPort) : (s.updFport q f).lgc = s.lgc := rfl
@[simp] theorem State.updFport_integ (q : Nat) (f : FPort → FPort) : (s.updFport q f).integ = s.integ := rfl
@[simp] theorem State.updFport_bup (q : Nat) (f : FPort → FPort) : (s.updFport q f).bup = s.bup := rfl
@[simp] theorem State.updFport_health (q : Nat) (f : FPort → FPort) : (s.updFport q f).health = s.health := rfl
@[simp] theorem State.updFport_board (q : Nat) (f : FPort → FPort) : (s.updFport q f).board = s.board := rfl
@[simp] theorem State.updFport_answer (q : Nat) (f : FPort → FPort) : (s.updFport q f).answer = s.answer := rfl
@[simp] theorem State.updFport_freeCount (q : Nat) (f : FPort → FPort) : (s.updFport q f).freeCount = s.freeCount := rfl
@[simp] theorem State.updFport_pending (q : Nat) (f : FPort → FPort) : (s.updFport q f).pending = s.pending := rfl

/-! ### `State.updInt` -/

@[simp] theorem State.updInt_part (f : Integrity → Integrity) : (s.updInt f).part = s.part := rfl
@[simp] theorem State.updInt_tick (f : Integrity → Integrity) : (s.updInt f).tick = s.tick := rfl
@[simp] theorem State.updInt_cap (f : Integrity → Integrity) : (s.updInt f).cap = s.cap := rfl
@[simp] theorem State.updInt_parts (f : Integrity → Integrity) : (s.updInt f).parts = s.parts := rfl
@[simp] theorem State.updInt_tiles (f : Integrity → Integrity) : (s.updInt f).tiles = s.tiles := rfl
@[simp] theorem State.updInt_routers (f : Integrity → Integrity) : (s.updInt f).routers = s.routers := rfl
@[simp] theorem State.updInt_mem (f : Integrity → Integrity) : (s.updInt f).mem = s.mem := rfl
@[simp] theorem State.updInt_bad (f : Integrity → Integrity) : (s.updInt f).bad = s.bad := rfl
@[simp] theorem State.updInt_net (f : Integrity → Integrity) : (s.updInt f).net = s.net := rfl
@[simp] theorem State.updInt_accesses (f : Integrity → Integrity) : (s.updInt f).accesses = s.accesses := rfl
@[simp] theorem State.updInt_hbm (f : Integrity → Integrity) : (s.updInt f).hbm = s.hbm := rfl
@[simp] theorem State.updInt_fab (f : Integrity → Integrity) : (s.updInt f).fab = s.fab := rfl
@[simp] theorem State.updInt_links (f : Integrity → Integrity) : (s.updInt f).links = s.links := rfl
@[simp] theorem State.updInt_lnk (f : Integrity → Integrity) : (s.updInt f).lnk = s.lnk := rfl
@[simp] theorem State.updInt_host (f : Integrity → Integrity) : (s.updInt f).host = s.host := rfl
@[simp] theorem State.updInt_funcs (f : Integrity → Integrity) : (s.updInt f).funcs = s.funcs := rfl
@[simp] theorem State.updInt_rings (f : Integrity → Integrity) : (s.updInt f).rings = s.rings := rfl
@[simp] theorem State.updInt_tenants (f : Integrity → Integrity) : (s.updInt f).tenants = s.tenants := rfl
@[simp] theorem State.updInt_keys (f : Integrity → Integrity) : (s.updInt f).keys = s.keys := rfl
@[simp] theorem State.updInt_xsvc (f : Integrity → Integrity) : (s.updInt f).xsvc = s.xsvc := rfl
@[simp] theorem State.updInt_hostMem (f : Integrity → Integrity) : (s.updInt f).hostMem = s.hostMem := rfl
@[simp] theorem State.updInt_regions (f : Integrity → Integrity) : (s.updInt f).regions = s.regions := rfl
@[simp] theorem State.updInt_loads (f : Integrity → Integrity) : (s.updInt f).loads = s.loads := rfl
@[simp] theorem State.updInt_lports (f : Integrity → Integrity) : (s.updInt f).lports = s.lports := rfl
@[simp] theorem State.updInt_lgc (f : Integrity → Integrity) : (s.updInt f).lgc = s.lgc := rfl
@[simp] theorem State.updInt_integ (f : Integrity → Integrity) : (s.updInt f).integ = f s.integ := rfl
@[simp] theorem State.updInt_bup (f : Integrity → Integrity) : (s.updInt f).bup = s.bup := rfl
@[simp] theorem State.updInt_health (f : Integrity → Integrity) : (s.updInt f).health = s.health := rfl
@[simp] theorem State.updInt_board (f : Integrity → Integrity) : (s.updInt f).board = s.board := rfl
@[simp] theorem State.updInt_answer (f : Integrity → Integrity) : (s.updInt f).answer = s.answer := rfl
@[simp] theorem State.updInt_freeCount (f : Integrity → Integrity) : (s.updInt f).freeCount = s.freeCount := rfl
@[simp] theorem State.updInt_pending (f : Integrity → Integrity) : (s.updInt f).pending = s.pending := rfl

/-! ### `State.updHealth` -/

@[simp] theorem State.updHealth_part (f : Health → Health) : (s.updHealth f).part = s.part := rfl
@[simp] theorem State.updHealth_tick (f : Health → Health) : (s.updHealth f).tick = s.tick := rfl
@[simp] theorem State.updHealth_cap (f : Health → Health) : (s.updHealth f).cap = s.cap := rfl
@[simp] theorem State.updHealth_parts (f : Health → Health) : (s.updHealth f).parts = s.parts := rfl
@[simp] theorem State.updHealth_tiles (f : Health → Health) : (s.updHealth f).tiles = s.tiles := rfl
@[simp] theorem State.updHealth_routers (f : Health → Health) : (s.updHealth f).routers = s.routers := rfl
@[simp] theorem State.updHealth_mem (f : Health → Health) : (s.updHealth f).mem = s.mem := rfl
@[simp] theorem State.updHealth_bad (f : Health → Health) : (s.updHealth f).bad = s.bad := rfl
@[simp] theorem State.updHealth_net (f : Health → Health) : (s.updHealth f).net = s.net := rfl
@[simp] theorem State.updHealth_accesses (f : Health → Health) : (s.updHealth f).accesses = s.accesses := rfl
@[simp] theorem State.updHealth_hbm (f : Health → Health) : (s.updHealth f).hbm = s.hbm := rfl
@[simp] theorem State.updHealth_fab (f : Health → Health) : (s.updHealth f).fab = s.fab := rfl
@[simp] theorem State.updHealth_links (f : Health → Health) : (s.updHealth f).links = s.links := rfl
@[simp] theorem State.updHealth_lnk (f : Health → Health) : (s.updHealth f).lnk = s.lnk := rfl
@[simp] theorem State.updHealth_host (f : Health → Health) : (s.updHealth f).host = s.host := rfl
@[simp] theorem State.updHealth_funcs (f : Health → Health) : (s.updHealth f).funcs = s.funcs := rfl
@[simp] theorem State.updHealth_rings (f : Health → Health) : (s.updHealth f).rings = s.rings := rfl
@[simp] theorem State.updHealth_tenants (f : Health → Health) : (s.updHealth f).tenants = s.tenants := rfl
@[simp] theorem State.updHealth_keys (f : Health → Health) : (s.updHealth f).keys = s.keys := rfl
@[simp] theorem State.updHealth_xsvc (f : Health → Health) : (s.updHealth f).xsvc = s.xsvc := rfl
@[simp] theorem State.updHealth_hostMem (f : Health → Health) : (s.updHealth f).hostMem = s.hostMem := rfl
@[simp] theorem State.updHealth_regions (f : Health → Health) : (s.updHealth f).regions = s.regions := rfl
@[simp] theorem State.updHealth_loads (f : Health → Health) : (s.updHealth f).loads = s.loads := rfl
@[simp] theorem State.updHealth_lports (f : Health → Health) : (s.updHealth f).lports = s.lports := rfl
@[simp] theorem State.updHealth_lgc (f : Health → Health) : (s.updHealth f).lgc = s.lgc := rfl
@[simp] theorem State.updHealth_integ (f : Health → Health) : (s.updHealth f).integ = s.integ := rfl
@[simp] theorem State.updHealth_bup (f : Health → Health) : (s.updHealth f).bup = s.bup := rfl
@[simp] theorem State.updHealth_health (f : Health → Health) : (s.updHealth f).health = f s.health := rfl
@[simp] theorem State.updHealth_board (f : Health → Health) : (s.updHealth f).board = s.board := rfl
@[simp] theorem State.updHealth_answer (f : Health → Health) : (s.updHealth f).answer = s.answer := rfl
@[simp] theorem State.updHealth_freeCount (f : Health → Health) : (s.updHealth f).freeCount = s.freeCount := rfl
@[simp] theorem State.updHealth_pending (f : Health → Health) : (s.updHealth f).pending = s.pending := rfl

/-! ### `State.updLink` -/

@[simp] theorem State.updLink_part (q : Nat) (f : Link → Link) : (s.updLink q f).part = s.part := rfl
@[simp] theorem State.updLink_tick (q : Nat) (f : Link → Link) : (s.updLink q f).tick = s.tick := rfl
@[simp] theorem State.updLink_cap (q : Nat) (f : Link → Link) : (s.updLink q f).cap = s.cap := rfl
@[simp] theorem State.updLink_parts (q : Nat) (f : Link → Link) : (s.updLink q f).parts = s.parts := rfl
@[simp] theorem State.updLink_tiles (q : Nat) (f : Link → Link) : (s.updLink q f).tiles = s.tiles := rfl
@[simp] theorem State.updLink_routers (q : Nat) (f : Link → Link) : (s.updLink q f).routers = s.routers := rfl
@[simp] theorem State.updLink_mem (q : Nat) (f : Link → Link) : (s.updLink q f).mem = s.mem := rfl
@[simp] theorem State.updLink_bad (q : Nat) (f : Link → Link) : (s.updLink q f).bad = s.bad := rfl
@[simp] theorem State.updLink_net (q : Nat) (f : Link → Link) : (s.updLink q f).net = s.net := rfl
@[simp] theorem State.updLink_accesses (q : Nat) (f : Link → Link) : (s.updLink q f).accesses = s.accesses := rfl
@[simp] theorem State.updLink_hbm (q : Nat) (f : Link → Link) : (s.updLink q f).hbm = s.hbm := rfl
@[simp] theorem State.updLink_fab (q : Nat) (f : Link → Link) : (s.updLink q f).fab = s.fab := rfl
@[simp] theorem State.updLink_links (q : Nat) (f : Link → Link) : (s.updLink q f).links = smUpd s.links q {} f := rfl
@[simp] theorem State.updLink_lnk (q : Nat) (f : Link → Link) : (s.updLink q f).lnk = s.lnk := rfl
@[simp] theorem State.updLink_host (q : Nat) (f : Link → Link) : (s.updLink q f).host = s.host := rfl
@[simp] theorem State.updLink_funcs (q : Nat) (f : Link → Link) : (s.updLink q f).funcs = s.funcs := rfl
@[simp] theorem State.updLink_rings (q : Nat) (f : Link → Link) : (s.updLink q f).rings = s.rings := rfl
@[simp] theorem State.updLink_tenants (q : Nat) (f : Link → Link) : (s.updLink q f).tenants = s.tenants := rfl
@[simp] theorem State.updLink_keys (q : Nat) (f : Link → Link) : (s.updLink q f).keys = s.keys := rfl
@[simp] theorem State.updLink_xsvc (q : Nat) (f : Link → Link) : (s.updLink q f).xsvc = s.xsvc := rfl
@[simp] theorem State.updLink_hostMem (q : Nat) (f : Link → Link) : (s.updLink q f).hostMem = s.hostMem := rfl
@[simp] theorem State.updLink_regions (q : Nat) (f : Link → Link) : (s.updLink q f).regions = s.regions := rfl
@[simp] theorem State.updLink_loads (q : Nat) (f : Link → Link) : (s.updLink q f).loads = s.loads := rfl
@[simp] theorem State.updLink_lports (q : Nat) (f : Link → Link) : (s.updLink q f).lports = s.lports := rfl
@[simp] theorem State.updLink_lgc (q : Nat) (f : Link → Link) : (s.updLink q f).lgc = s.lgc := rfl
@[simp] theorem State.updLink_integ (q : Nat) (f : Link → Link) : (s.updLink q f).integ = s.integ := rfl
@[simp] theorem State.updLink_bup (q : Nat) (f : Link → Link) : (s.updLink q f).bup = s.bup := rfl
@[simp] theorem State.updLink_health (q : Nat) (f : Link → Link) : (s.updLink q f).health = s.health := rfl
@[simp] theorem State.updLink_board (q : Nat) (f : Link → Link) : (s.updLink q f).board = s.board := rfl
@[simp] theorem State.updLink_answer (q : Nat) (f : Link → Link) : (s.updLink q f).answer = s.answer := rfl
@[simp] theorem State.updLink_freeCount (q : Nat) (f : Link → Link) : (s.updLink q f).freeCount = s.freeCount := rfl
@[simp] theorem State.updLink_pending (q : Nat) (f : Link → Link) : (s.updLink q f).pending = s.pending := rfl

/-! ### `State.updLnkDie` -/

@[simp] theorem State.updLnkDie_part (d : Nat) (f : LnkDie → LnkDie) : (s.updLnkDie d f).part = s.part := rfl
@[simp] theorem State.updLnkDie_tick (d : Nat) (f : LnkDie → LnkDie) : (s.updLnkDie d f).tick = s.tick := rfl
@[simp] theorem State.updLnkDie_cap (d : Nat) (f : LnkDie → LnkDie) : (s.updLnkDie d f).cap = s.cap := rfl
@[simp] theorem State.updLnkDie_parts (d : Nat) (f : LnkDie → LnkDie) : (s.updLnkDie d f).parts = s.parts := rfl
@[simp] theorem State.updLnkDie_tiles (d : Nat) (f : LnkDie → LnkDie) : (s.updLnkDie d f).tiles = s.tiles := rfl
@[simp] theorem State.updLnkDie_routers (d : Nat) (f : LnkDie → LnkDie) : (s.updLnkDie d f).routers = s.routers := rfl
@[simp] theorem State.updLnkDie_mem (d : Nat) (f : LnkDie → LnkDie) : (s.updLnkDie d f).mem = s.mem := rfl
@[simp] theorem State.updLnkDie_bad (d : Nat) (f : LnkDie → LnkDie) : (s.updLnkDie d f).bad = s.bad := rfl
@[simp] theorem State.updLnkDie_net (d : Nat) (f : LnkDie → LnkDie) : (s.updLnkDie d f).net = s.net := rfl
@[simp] theorem State.updLnkDie_accesses (d : Nat) (f : LnkDie → LnkDie) : (s.updLnkDie d f).accesses = s.accesses := rfl
@[simp] theorem State.updLnkDie_hbm (d : Nat) (f : LnkDie → LnkDie) : (s.updLnkDie d f).hbm = s.hbm := rfl
@[simp] theorem State.updLnkDie_fab (d : Nat) (f : LnkDie → LnkDie) : (s.updLnkDie d f).fab = s.fab := rfl
@[simp] theorem State.updLnkDie_links (d : Nat) (f : LnkDie → LnkDie) : (s.updLnkDie d f).links = s.links := rfl
@[simp] theorem State.updLnkDie_lnk (d : Nat) (f : LnkDie → LnkDie) : (s.updLnkDie d f).lnk = smUpd s.lnk d {} f := rfl
@[simp] theorem State.updLnkDie_host (d : Nat) (f : LnkDie → LnkDie) : (s.updLnkDie d f).host = s.host := rfl
@[simp] theorem State.updLnkDie_funcs (d : Nat) (f : LnkDie → LnkDie) : (s.updLnkDie d f).funcs = s.funcs := rfl
@[simp] theorem State.updLnkDie_rings (d : Nat) (f : LnkDie → LnkDie) : (s.updLnkDie d f).rings = s.rings := rfl
@[simp] theorem State.updLnkDie_tenants (d : Nat) (f : LnkDie → LnkDie) : (s.updLnkDie d f).tenants = s.tenants := rfl
@[simp] theorem State.updLnkDie_keys (d : Nat) (f : LnkDie → LnkDie) : (s.updLnkDie d f).keys = s.keys := rfl
@[simp] theorem State.updLnkDie_xsvc (d : Nat) (f : LnkDie → LnkDie) : (s.updLnkDie d f).xsvc = s.xsvc := rfl
@[simp] theorem State.updLnkDie_hostMem (d : Nat) (f : LnkDie → LnkDie) : (s.updLnkDie d f).hostMem = s.hostMem := rfl
@[simp] theorem State.updLnkDie_regions (d : Nat) (f : LnkDie → LnkDie) : (s.updLnkDie d f).regions = s.regions := rfl
@[simp] theorem State.updLnkDie_loads (d : Nat) (f : LnkDie → LnkDie) : (s.updLnkDie d f).loads = s.loads := rfl
@[simp] theorem State.updLnkDie_lports (d : Nat) (f : LnkDie → LnkDie) : (s.updLnkDie d f).lports = s.lports := rfl
@[simp] theorem State.updLnkDie_lgc (d : Nat) (f : LnkDie → LnkDie) : (s.updLnkDie d f).lgc = s.lgc := rfl
@[simp] theorem State.updLnkDie_integ (d : Nat) (f : LnkDie → LnkDie) : (s.updLnkDie d f).integ = s.integ := rfl
@[simp] theorem State.updLnkDie_bup (d : Nat) (f : LnkDie → LnkDie) : (s.updLnkDie d f).bup = s.bup := rfl
@[simp] theorem State.updLnkDie_health (d : Nat) (f : LnkDie → LnkDie) : (s.updLnkDie d f).health = s.health := rfl
@[simp] theorem State.updLnkDie_board (d : Nat) (f : LnkDie → LnkDie) : (s.updLnkDie d f).board = s.board := rfl
@[simp] theorem State.updLnkDie_answer (d : Nat) (f : LnkDie → LnkDie) : (s.updLnkDie d f).answer = s.answer := rfl
@[simp] theorem State.updLnkDie_freeCount (d : Nat) (f : LnkDie → LnkDie) : (s.updLnkDie d f).freeCount = s.freeCount := rfl
@[simp] theorem State.updLnkDie_pending (d : Nat) (f : LnkDie → LnkDie) : (s.updLnkDie d f).pending = s.pending := rfl

/-! ### `State.updHost` -/

@[simp] theorem State.updHost_part (d : Nat) (f : HostDie → HostDie) : (s.updHost d f).part = s.part := rfl
@[simp] theorem State.updHost_tick (d : Nat) (f : HostDie → HostDie) : (s.updHost d f).tick = s.tick := rfl
@[simp] theorem State.updHost_cap (d : Nat) (f : HostDie → HostDie) : (s.updHost d f).cap = s.cap := rfl
@[simp] theorem State.updHost_parts (d : Nat) (f : HostDie → HostDie) : (s.updHost d f).parts = s.parts := rfl
@[simp] theorem State.updHost_tiles (d : Nat) (f : HostDie → HostDie) : (s.updHost d f).tiles = s.tiles := rfl
@[simp] theorem State.updHost_routers (d : Nat) (f : HostDie → HostDie) : (s.updHost d f).routers = s.routers := rfl
@[simp] theorem State.updHost_mem (d : Nat) (f : HostDie → HostDie) : (s.updHost d f).mem = s.mem := rfl
@[simp] theorem State.updHost_bad (d : Nat) (f : HostDie → HostDie) : (s.updHost d f).bad = s.bad := rfl
@[simp] theorem State.updHost_net (d : Nat) (f : HostDie → HostDie) : (s.updHost d f).net = s.net := rfl
@[simp] theorem State.updHost_accesses (d : Nat) (f : HostDie → HostDie) : (s.updHost d f).accesses = s.accesses := rfl
@[simp] theorem State.updHost_hbm (d : Nat) (f : HostDie → HostDie) : (s.updHost d f).hbm = s.hbm := rfl
@[simp] theorem State.updHost_fab (d : Nat) (f : HostDie → HostDie) : (s.updHost d f).fab = s.fab := rfl
@[simp] theorem State.updHost_links (d : Nat) (f : HostDie → HostDie) : (s.updHost d f).links = s.links := rfl
@[simp] theorem State.updHost_lnk (d : Nat) (f : HostDie → HostDie) : (s.updHost d f).lnk = s.lnk := rfl
@[simp] theorem State.updHost_host (d : Nat) (f : HostDie → HostDie) : (s.updHost d f).host = smUpd s.host d {} f := rfl
@[simp] theorem State.updHost_funcs (d : Nat) (f : HostDie → HostDie) : (s.updHost d f).funcs = s.funcs := rfl
@[simp] theorem State.updHost_rings (d : Nat) (f : HostDie → HostDie) : (s.updHost d f).rings = s.rings := rfl
@[simp] theorem State.updHost_tenants (d : Nat) (f : HostDie → HostDie) : (s.updHost d f).tenants = s.tenants := rfl
@[simp] theorem State.updHost_keys (d : Nat) (f : HostDie → HostDie) : (s.updHost d f).keys = s.keys := rfl
@[simp] theorem State.updHost_xsvc (d : Nat) (f : HostDie → HostDie) : (s.updHost d f).xsvc = s.xsvc := rfl
@[simp] theorem State.updHost_hostMem (d : Nat) (f : HostDie → HostDie) : (s.updHost d f).hostMem = s.hostMem := rfl
@[simp] theorem State.updHost_regions (d : Nat) (f : HostDie → HostDie) : (s.updHost d f).regions = s.regions := rfl
@[simp] theorem State.updHost_loads (d : Nat) (f : HostDie → HostDie) : (s.updHost d f).loads = s.loads := rfl
@[simp] theorem State.updHost_lports (d : Nat) (f : HostDie → HostDie) : (s.updHost d f).lports = s.lports := rfl
@[simp] theorem State.updHost_lgc (d : Nat) (f : HostDie → HostDie) : (s.updHost d f).lgc = s.lgc := rfl
@[simp] theorem State.updHost_integ (d : Nat) (f : HostDie → HostDie) : (s.updHost d f).integ = s.integ := rfl
@[simp] theorem State.updHost_bup (d : Nat) (f : HostDie → HostDie) : (s.updHost d f).bup = s.bup := rfl
@[simp] theorem State.updHost_health (d : Nat) (f : HostDie → HostDie) : (s.updHost d f).health = s.health := rfl
@[simp] theorem State.updHost_board (d : Nat) (f : HostDie → HostDie) : (s.updHost d f).board = s.board := rfl
@[simp] theorem State.updHost_answer (d : Nat) (f : HostDie → HostDie) : (s.updHost d f).answer = s.answer := rfl
@[simp] theorem State.updHost_freeCount (d : Nat) (f : HostDie → HostDie) : (s.updHost d f).freeCount = s.freeCount := rfl
@[simp] theorem State.updHost_pending (d : Nat) (f : HostDie → HostDie) : (s.updHost d f).pending = s.pending := rfl

/-! ### `State.updFunc` -/

@[simp] theorem State.updFunc_part (d n : Nat) (f : Func → Func) : (s.updFunc d n f).part = s.part := rfl
@[simp] theorem State.updFunc_tick (d n : Nat) (f : Func → Func) : (s.updFunc d n f).tick = s.tick := rfl
@[simp] theorem State.updFunc_cap (d n : Nat) (f : Func → Func) : (s.updFunc d n f).cap = s.cap := rfl
@[simp] theorem State.updFunc_parts (d n : Nat) (f : Func → Func) : (s.updFunc d n f).parts = s.parts := rfl
@[simp] theorem State.updFunc_tiles (d n : Nat) (f : Func → Func) : (s.updFunc d n f).tiles = s.tiles := rfl
@[simp] theorem State.updFunc_routers (d n : Nat) (f : Func → Func) : (s.updFunc d n f).routers = s.routers := rfl
@[simp] theorem State.updFunc_mem (d n : Nat) (f : Func → Func) : (s.updFunc d n f).mem = s.mem := rfl
@[simp] theorem State.updFunc_bad (d n : Nat) (f : Func → Func) : (s.updFunc d n f).bad = s.bad := rfl
@[simp] theorem State.updFunc_net (d n : Nat) (f : Func → Func) : (s.updFunc d n f).net = s.net := rfl
@[simp] theorem State.updFunc_accesses (d n : Nat) (f : Func → Func) : (s.updFunc d n f).accesses = s.accesses := rfl
@[simp] theorem State.updFunc_hbm (d n : Nat) (f : Func → Func) : (s.updFunc d n f).hbm = s.hbm := rfl
@[simp] theorem State.updFunc_fab (d n : Nat) (f : Func → Func) : (s.updFunc d n f).fab = s.fab := rfl
@[simp] theorem State.updFunc_links (d n : Nat) (f : Func → Func) : (s.updFunc d n f).links = s.links := rfl
@[simp] theorem State.updFunc_lnk (d n : Nat) (f : Func → Func) : (s.updFunc d n f).lnk = s.lnk := rfl
@[simp] theorem State.updFunc_host (d n : Nat) (f : Func → Func) : (s.updFunc d n f).host = s.host := rfl
@[simp] theorem State.updFunc_funcs (d n : Nat) (f : Func → Func) : (s.updFunc d n f).funcs = smUpd s.funcs (fnKey d n) {} f := rfl
@[simp] theorem State.updFunc_rings (d n : Nat) (f : Func → Func) : (s.updFunc d n f).rings = s.rings := rfl
@[simp] theorem State.updFunc_tenants (d n : Nat) (f : Func → Func) : (s.updFunc d n f).tenants = s.tenants := rfl
@[simp] theorem State.updFunc_keys (d n : Nat) (f : Func → Func) : (s.updFunc d n f).keys = s.keys := rfl
@[simp] theorem State.updFunc_xsvc (d n : Nat) (f : Func → Func) : (s.updFunc d n f).xsvc = s.xsvc := rfl
@[simp] theorem State.updFunc_hostMem (d n : Nat) (f : Func → Func) : (s.updFunc d n f).hostMem = s.hostMem := rfl
@[simp] theorem State.updFunc_regions (d n : Nat) (f : Func → Func) : (s.updFunc d n f).regions = s.regions := rfl
@[simp] theorem State.updFunc_loads (d n : Nat) (f : Func → Func) : (s.updFunc d n f).loads = s.loads := rfl
@[simp] theorem State.updFunc_lports (d n : Nat) (f : Func → Func) : (s.updFunc d n f).lports = s.lports := rfl
@[simp] theorem State.updFunc_lgc (d n : Nat) (f : Func → Func) : (s.updFunc d n f).lgc = s.lgc := rfl
@[simp] theorem State.updFunc_integ (d n : Nat) (f : Func → Func) : (s.updFunc d n f).integ = s.integ := rfl
@[simp] theorem State.updFunc_bup (d n : Nat) (f : Func → Func) : (s.updFunc d n f).bup = s.bup := rfl
@[simp] theorem State.updFunc_health (d n : Nat) (f : Func → Func) : (s.updFunc d n f).health = s.health := rfl
@[simp] theorem State.updFunc_board (d n : Nat) (f : Func → Func) : (s.updFunc d n f).board = s.board := rfl
@[simp] theorem State.updFunc_answer (d n : Nat) (f : Func → Func) : (s.updFunc d n f).answer = s.answer := rfl
@[simp] theorem State.updFunc_freeCount (d n : Nat) (f : Func → Func) : (s.updFunc d n f).freeCount = s.freeCount := rfl
@[simp] theorem State.updFunc_pending (d n : Nat) (f : Func → Func) : (s.updFunc d n f).pending = s.pending := rfl

/-! ### `State.updRegion` -/

@[simp] theorem State.updRegion_part (r : Nat) (f : Region → Region) : (s.updRegion r f).part = s.part := rfl
@[simp] theorem State.updRegion_tick (r : Nat) (f : Region → Region) : (s.updRegion r f).tick = s.tick := rfl
@[simp] theorem State.updRegion_cap (r : Nat) (f : Region → Region) : (s.updRegion r f).cap = s.cap := rfl
@[simp] theorem State.updRegion_parts (r : Nat) (f : Region → Region) : (s.updRegion r f).parts = s.parts := rfl
@[simp] theorem State.updRegion_tiles (r : Nat) (f : Region → Region) : (s.updRegion r f).tiles = s.tiles := rfl
@[simp] theorem State.updRegion_routers (r : Nat) (f : Region → Region) : (s.updRegion r f).routers = s.routers := rfl
@[simp] theorem State.updRegion_mem (r : Nat) (f : Region → Region) : (s.updRegion r f).mem = s.mem := rfl
@[simp] theorem State.updRegion_bad (r : Nat) (f : Region → Region) : (s.updRegion r f).bad = s.bad := rfl
@[simp] theorem State.updRegion_net (r : Nat) (f : Region → Region) : (s.updRegion r f).net = s.net := rfl
@[simp] theorem State.updRegion_accesses (r : Nat) (f : Region → Region) : (s.updRegion r f).accesses = s.accesses := rfl
@[simp] theorem State.updRegion_hbm (r : Nat) (f : Region → Region) : (s.updRegion r f).hbm = s.hbm := rfl
@[simp] theorem State.updRegion_fab (r : Nat) (f : Region → Region) : (s.updRegion r f).fab = s.fab := rfl
@[simp] theorem State.updRegion_links (r : Nat) (f : Region → Region) : (s.updRegion r f).links = s.links := rfl
@[simp] theorem State.updRegion_lnk (r : Nat) (f : Region → Region) : (s.updRegion r f).lnk = s.lnk := rfl
@[simp] theorem State.updRegion_host (r : Nat) (f : Region → Region) : (s.updRegion r f).host = s.host := rfl
@[simp] theorem State.updRegion_funcs (r : Nat) (f : Region → Region) : (s.updRegion r f).funcs = s.funcs := rfl
@[simp] theorem State.updRegion_rings (r : Nat) (f : Region → Region) : (s.updRegion r f).rings = s.rings := rfl
@[simp] theorem State.updRegion_tenants (r : Nat) (f : Region → Region) : (s.updRegion r f).tenants = s.tenants := rfl
@[simp] theorem State.updRegion_keys (r : Nat) (f : Region → Region) : (s.updRegion r f).keys = s.keys := rfl
@[simp] theorem State.updRegion_xsvc (r : Nat) (f : Region → Region) : (s.updRegion r f).xsvc = s.xsvc := rfl
@[simp] theorem State.updRegion_hostMem (r : Nat) (f : Region → Region) : (s.updRegion r f).hostMem = s.hostMem := rfl
@[simp] theorem State.updRegion_regions (r : Nat) (f : Region → Region) : (s.updRegion r f).regions = smUpd s.regions r {} f := rfl
@[simp] theorem State.updRegion_loads (r : Nat) (f : Region → Region) : (s.updRegion r f).loads = s.loads := rfl
@[simp] theorem State.updRegion_lports (r : Nat) (f : Region → Region) : (s.updRegion r f).lports = s.lports := rfl
@[simp] theorem State.updRegion_lgc (r : Nat) (f : Region → Region) : (s.updRegion r f).lgc = s.lgc := rfl
@[simp] theorem State.updRegion_integ (r : Nat) (f : Region → Region) : (s.updRegion r f).integ = s.integ := rfl
@[simp] theorem State.updRegion_bup (r : Nat) (f : Region → Region) : (s.updRegion r f).bup = s.bup := rfl
@[simp] theorem State.updRegion_health (r : Nat) (f : Region → Region) : (s.updRegion r f).health = s.health := rfl
@[simp] theorem State.updRegion_board (r : Nat) (f : Region → Region) : (s.updRegion r f).board = s.board := rfl
@[simp] theorem State.updRegion_answer (r : Nat) (f : Region → Region) : (s.updRegion r f).answer = s.answer := rfl
@[simp] theorem State.updRegion_freeCount (r : Nat) (f : Region → Region) : (s.updRegion r f).freeCount = s.freeCount := rfl
@[simp] theorem State.updRegion_pending (r : Nat) (f : Region → Region) : (s.updRegion r f).pending = s.pending := rfl

/-! ### `State.updLport` -/

@[simp] theorem State.updLport_part (n : Nat) (f : LPort → LPort) : (s.updLport n f).part = s.part := rfl
@[simp] theorem State.updLport_tick (n : Nat) (f : LPort → LPort) : (s.updLport n f).tick = s.tick := rfl
@[simp] theorem State.updLport_cap (n : Nat) (f : LPort → LPort) : (s.updLport n f).cap = s.cap := rfl
@[simp] theorem State.updLport_parts (n : Nat) (f : LPort → LPort) : (s.updLport n f).parts = s.parts := rfl
@[simp] theorem State.updLport_tiles (n : Nat) (f : LPort → LPort) : (s.updLport n f).tiles = s.tiles := rfl
@[simp] theorem State.updLport_routers (n : Nat) (f : LPort → LPort) : (s.updLport n f).routers = s.routers := rfl
@[simp] theorem State.updLport_mem (n : Nat) (f : LPort → LPort) : (s.updLport n f).mem = s.mem := rfl
@[simp] theorem State.updLport_bad (n : Nat) (f : LPort → LPort) : (s.updLport n f).bad = s.bad := rfl
@[simp] theorem State.updLport_net (n : Nat) (f : LPort → LPort) : (s.updLport n f).net = s.net := rfl
@[simp] theorem State.updLport_accesses (n : Nat) (f : LPort → LPort) : (s.updLport n f).accesses = s.accesses := rfl
@[simp] theorem State.updLport_hbm (n : Nat) (f : LPort → LPort) : (s.updLport n f).hbm = s.hbm := rfl
@[simp] theorem State.updLport_fab (n : Nat) (f : LPort → LPort) : (s.updLport n f).fab = s.fab := rfl
@[simp] theorem State.updLport_links (n : Nat) (f : LPort → LPort) : (s.updLport n f).links = s.links := rfl
@[simp] theorem State.updLport_lnk (n : Nat) (f : LPort → LPort) : (s.updLport n f).lnk = s.lnk := rfl
@[simp] theorem State.updLport_host (n : Nat) (f : LPort → LPort) : (s.updLport n f).host = s.host := rfl
@[simp] theorem State.updLport_funcs (n : Nat) (f : LPort → LPort) : (s.updLport n f).funcs = s.funcs := rfl
@[simp] theorem State.updLport_rings (n : Nat) (f : LPort → LPort) : (s.updLport n f).rings = s.rings := rfl
@[simp] theorem State.updLport_tenants (n : Nat) (f : LPort → LPort) : (s.updLport n f).tenants = s.tenants := rfl
@[simp] theorem State.updLport_keys (n : Nat) (f : LPort → LPort) : (s.updLport n f).keys = s.keys := rfl
@[simp] theorem State.updLport_xsvc (n : Nat) (f : LPort → LPort) : (s.updLport n f).xsvc = s.xsvc := rfl
@[simp] theorem State.updLport_hostMem (n : Nat) (f : LPort → LPort) : (s.updLport n f).hostMem = s.hostMem := rfl
@[simp] theorem State.updLport_regions (n : Nat) (f : LPort → LPort) : (s.updLport n f).regions = s.regions := rfl
@[simp] theorem State.updLport_loads (n : Nat) (f : LPort → LPort) : (s.updLport n f).loads = s.loads := rfl
@[simp] theorem State.updLport_lports (n : Nat) (f : LPort → LPort) : (s.updLport n f).lports = smUpd s.lports n {} f := rfl
@[simp] theorem State.updLport_lgc (n : Nat) (f : LPort → LPort) : (s.updLport n f).lgc = s.lgc := rfl
@[simp] theorem State.updLport_integ (n : Nat) (f : LPort → LPort) : (s.updLport n f).integ = s.integ := rfl
@[simp] theorem State.updLport_bup (n : Nat) (f : LPort → LPort) : (s.updLport n f).bup = s.bup := rfl
@[simp] theorem State.updLport_health (n : Nat) (f : LPort → LPort) : (s.updLport n f).health = s.health := rfl
@[simp] theorem State.updLport_board (n : Nat) (f : LPort → LPort) : (s.updLport n f).board = s.board := rfl
@[simp] theorem State.updLport_answer (n : Nat) (f : LPort → LPort) : (s.updLport n f).answer = s.answer := rfl
@[simp] theorem State.updLport_freeCount (n : Nat) (f : LPort → LPort) : (s.updLport n f).freeCount = s.freeCount := rfl
@[simp] theorem State.updLport_pending (n : Nat) (f : LPort → LPort) : (s.updLport n f).pending = s.pending := rfl

/-! ### `State.updLgc` -/

@[simp] theorem State.updLgc_part (d : Nat) (f : LgcDie → LgcDie) : (s.updLgc d f).part = s.part := rfl
@[simp] theorem State.updLgc_tick (d : Nat) (f : LgcDie → LgcDie) : (s.updLgc d f).tick = s.tick := rfl
@[simp] theorem State.updLgc_cap (d : Nat) (f : LgcDie → LgcDie) : (s.updLgc d f).cap = s.cap := rfl
@[simp] theorem State.updLgc_parts (d : Nat) (f : LgcDie → LgcDie) : (s.updLgc d f).parts = s.parts := rfl
@[simp] theorem State.updLgc_tiles (d : Nat) (f : LgcDie → LgcDie) : (s.updLgc d f).tiles = s.tiles := rfl
@[simp] theorem State.updLgc_routers (d : Nat) (f : LgcDie → LgcDie) : (s.updLgc d f).routers = s.routers := rfl
@[simp] theorem State.updLgc_mem (d : Nat) (f : LgcDie → LgcDie) : (s.updLgc d f).mem = s.mem := rfl
@[simp] theorem State.updLgc_bad (d : Nat) (f : LgcDie → LgcDie) : (s.updLgc d f).bad = s.bad := rfl
@[simp] theorem State.updLgc_net (d : Nat) (f : LgcDie → LgcDie) : (s.updLgc d f).net = s.net := rfl
@[simp] theorem State.updLgc_accesses (d : Nat) (f : LgcDie → LgcDie) : (s.updLgc d f).accesses = s.accesses := rfl
@[simp] theorem State.updLgc_hbm (d : Nat) (f : LgcDie → LgcDie) : (s.updLgc d f).hbm = s.hbm := rfl
@[simp] theorem State.updLgc_fab (d : Nat) (f : LgcDie → LgcDie) : (s.updLgc d f).fab = s.fab := rfl
@[simp] theorem State.updLgc_links (d : Nat) (f : LgcDie → LgcDie) : (s.updLgc d f).links = s.links := rfl
@[simp] theorem State.updLgc_lnk (d : Nat) (f : LgcDie → LgcDie) : (s.updLgc d f).lnk = s.lnk := rfl
@[simp] theorem State.updLgc_host (d : Nat) (f : LgcDie → LgcDie) : (s.updLgc d f).host = s.host := rfl
@[simp] theorem State.updLgc_funcs (d : Nat) (f : LgcDie → LgcDie) : (s.updLgc d f).funcs = s.funcs := rfl
@[simp] theorem State.updLgc_rings (d : Nat) (f : LgcDie → LgcDie) : (s.updLgc d f).rings = s.rings := rfl
@[simp] theorem State.updLgc_tenants (d : Nat) (f : LgcDie → LgcDie) : (s.updLgc d f).tenants = s.tenants := rfl
@[simp] theorem State.updLgc_keys (d : Nat) (f : LgcDie → LgcDie) : (s.updLgc d f).keys = s.keys := rfl
@[simp] theorem State.updLgc_xsvc (d : Nat) (f : LgcDie → LgcDie) : (s.updLgc d f).xsvc = s.xsvc := rfl
@[simp] theorem State.updLgc_hostMem (d : Nat) (f : LgcDie → LgcDie) : (s.updLgc d f).hostMem = s.hostMem := rfl
@[simp] theorem State.updLgc_regions (d : Nat) (f : LgcDie → LgcDie) : (s.updLgc d f).regions = s.regions := rfl
@[simp] theorem State.updLgc_loads (d : Nat) (f : LgcDie → LgcDie) : (s.updLgc d f).loads = s.loads := rfl
@[simp] theorem State.updLgc_lports (d : Nat) (f : LgcDie → LgcDie) : (s.updLgc d f).lports = s.lports := rfl
@[simp] theorem State.updLgc_lgc (d : Nat) (f : LgcDie → LgcDie) : (s.updLgc d f).lgc = smUpd s.lgc d {} f := rfl
@[simp] theorem State.updLgc_integ (d : Nat) (f : LgcDie → LgcDie) : (s.updLgc d f).integ = s.integ := rfl
@[simp] theorem State.updLgc_bup (d : Nat) (f : LgcDie → LgcDie) : (s.updLgc d f).bup = s.bup := rfl
@[simp] theorem State.updLgc_health (d : Nat) (f : LgcDie → LgcDie) : (s.updLgc d f).health = s.health := rfl
@[simp] theorem State.updLgc_board (d : Nat) (f : LgcDie → LgcDie) : (s.updLgc d f).board = s.board := rfl
@[simp] theorem State.updLgc_answer (d : Nat) (f : LgcDie → LgcDie) : (s.updLgc d f).answer = s.answer := rfl
@[simp] theorem State.updLgc_freeCount (d : Nat) (f : LgcDie → LgcDie) : (s.updLgc d f).freeCount = s.freeCount := rfl
@[simp] theorem State.updLgc_pending (d : Nat) (f : LgcDie → LgcDie) : (s.updLgc d f).pending = s.pending := rfl

/-! ### `State.wr` -/

@[simp] theorem State.wr_part (a : Nat) (bs : List Byte) : (s.wr a bs).part = s.part := rfl
@[simp] theorem State.wr_tick (a : Nat) (bs : List Byte) : (s.wr a bs).tick = s.tick := rfl
@[simp] theorem State.wr_cap (a : Nat) (bs : List Byte) : (s.wr a bs).cap = s.cap := rfl
@[simp] theorem State.wr_parts (a : Nat) (bs : List Byte) : (s.wr a bs).parts = s.parts := rfl
@[simp] theorem State.wr_tiles (a : Nat) (bs : List Byte) : (s.wr a bs).tiles = s.tiles := rfl
@[simp] theorem State.wr_routers (a : Nat) (bs : List Byte) : (s.wr a bs).routers = s.routers := rfl
@[simp] theorem State.wr_mem (a : Nat) (bs : List Byte) : (s.wr a bs).mem = memPutList s.mem a bs := rfl
@[simp] theorem State.wr_bad (a : Nat) (bs : List Byte) : (s.wr a bs).bad = s.bad.filter (fun p => !(p.inMem a bs.length)) := rfl
@[simp] theorem State.wr_net (a : Nat) (bs : List Byte) : (s.wr a bs).net = s.net := rfl
@[simp] theorem State.wr_accesses (a : Nat) (bs : List Byte) : (s.wr a bs).accesses = s.accesses := rfl
@[simp] theorem State.wr_hbm (a : Nat) (bs : List Byte) : (s.wr a bs).hbm = s.hbm := rfl
@[simp] theorem State.wr_fab (a : Nat) (bs : List Byte) : (s.wr a bs).fab = s.fab := rfl
@[simp] theorem State.wr_links (a : Nat) (bs : List Byte) : (s.wr a bs).links = s.links := rfl
@[simp] theorem State.wr_lnk (a : Nat) (bs : List Byte) : (s.wr a bs).lnk = s.lnk := rfl
@[simp] theorem State.wr_host (a : Nat) (bs : List Byte) : (s.wr a bs).host = s.host := rfl
@[simp] theorem State.wr_funcs (a : Nat) (bs : List Byte) : (s.wr a bs).funcs = s.funcs := rfl
@[simp] theorem State.wr_rings (a : Nat) (bs : List Byte) : (s.wr a bs).rings = s.rings := rfl
@[simp] theorem State.wr_tenants (a : Nat) (bs : List Byte) : (s.wr a bs).tenants = s.tenants := rfl
@[simp] theorem State.wr_keys (a : Nat) (bs : List Byte) : (s.wr a bs).keys = s.keys := rfl
@[simp] theorem State.wr_xsvc (a : Nat) (bs : List Byte) : (s.wr a bs).xsvc = s.xsvc := rfl
@[simp] theorem State.wr_hostMem (a : Nat) (bs : List Byte) : (s.wr a bs).hostMem = s.hostMem := rfl
@[simp] theorem State.wr_regions (a : Nat) (bs : List Byte) : (s.wr a bs).regions = s.regions := rfl
@[simp] theorem State.wr_loads (a : Nat) (bs : List Byte) : (s.wr a bs).loads = s.loads := rfl
@[simp] theorem State.wr_lports (a : Nat) (bs : List Byte) : (s.wr a bs).lports = s.lports := rfl
@[simp] theorem State.wr_lgc (a : Nat) (bs : List Byte) : (s.wr a bs).lgc = s.lgc := rfl
@[simp] theorem State.wr_integ (a : Nat) (bs : List Byte) : (s.wr a bs).integ = s.integ := rfl
@[simp] theorem State.wr_bup (a : Nat) (bs : List Byte) : (s.wr a bs).bup = s.bup := rfl
@[simp] theorem State.wr_health (a : Nat) (bs : List Byte) : (s.wr a bs).health = s.health := rfl
@[simp] theorem State.wr_board (a : Nat) (bs : List Byte) : (s.wr a bs).board = s.board := rfl
@[simp] theorem State.wr_answer (a : Nat) (bs : List Byte) : (s.wr a bs).answer = s.answer := rfl
@[simp] theorem State.wr_freeCount (a : Nat) (bs : List Byte) : (s.wr a bs).freeCount = s.freeCount := rfl
@[simp] theorem State.wr_pending (a : Nat) (bs : List Byte) : (s.wr a bs).pending = s.pending := rfl

/-! ### `State.clean` -/

@[simp] theorem State.clean_part (p : Place) : (s.clean p).part = s.part := rfl
@[simp] theorem State.clean_tick (p : Place) : (s.clean p).tick = s.tick := rfl
@[simp] theorem State.clean_cap (p : Place) : (s.clean p).cap = s.cap := rfl
@[simp] theorem State.clean_parts (p : Place) : (s.clean p).parts = s.parts := rfl
@[simp] theorem State.clean_tiles (p : Place) : (s.clean p).tiles = s.tiles := rfl
@[simp] theorem State.clean_routers (p : Place) : (s.clean p).routers = s.routers := rfl
@[simp] theorem State.clean_mem (p : Place) : (s.clean p).mem = s.mem := rfl
@[simp] theorem State.clean_bad (p : Place) : (s.clean p).bad = s.bad.filter (fun q => q != p) := rfl
@[simp] theorem State.clean_net (p : Place) : (s.clean p).net = s.net := rfl
@[simp] theorem State.clean_accesses (p : Place) : (s.clean p).accesses = s.accesses := rfl
@[simp] theorem State.clean_hbm (p : Place) : (s.clean p).hbm = s.hbm := rfl
@[simp] theorem State.clean_fab (p : Place) : (s.clean p).fab = s.fab := rfl
@[simp] theorem State.clean_links (p : Place) : (s.clean p).links = s.links := rfl
@[simp] theorem State.clean_lnk (p : Place) : (s.clean p).lnk = s.lnk := rfl
@[simp] theorem State.clean_host (p : Place) : (s.clean p).host = s.host := rfl
@[simp] theorem State.clean_funcs (p : Place) : (s.clean p).funcs = s.funcs := rfl
@[simp] theorem State.clean_rings (p : Place) : (s.clean p).rings = s.rings := rfl
@[simp] theorem State.clean_tenants (p : Place) : (s.clean p).tenants = s.tenants := rfl
@[simp] theorem State.clean_keys (p : Place) : (s.clean p).keys = s.keys := rfl
@[simp] theorem State.clean_xsvc (p : Place) : (s.clean p).xsvc = s.xsvc := rfl
@[simp] theorem State.clean_hostMem (p : Place) : (s.clean p).hostMem = s.hostMem := rfl
@[simp] theorem State.clean_regions (p : Place) : (s.clean p).regions = s.regions := rfl
@[simp] theorem State.clean_loads (p : Place) : (s.clean p).loads = s.loads := rfl
@[simp] theorem State.clean_lports (p : Place) : (s.clean p).lports = s.lports := rfl
@[simp] theorem State.clean_lgc (p : Place) : (s.clean p).lgc = s.lgc := rfl
@[simp] theorem State.clean_integ (p : Place) : (s.clean p).integ = s.integ := rfl
@[simp] theorem State.clean_bup (p : Place) : (s.clean p).bup = s.bup := rfl
@[simp] theorem State.clean_health (p : Place) : (s.clean p).health = s.health := rfl
@[simp] theorem State.clean_board (p : Place) : (s.clean p).board = s.board := rfl
@[simp] theorem State.clean_answer (p : Place) : (s.clean p).answer = s.answer := rfl
@[simp] theorem State.clean_freeCount (p : Place) : (s.clean p).freeCount = s.freeCount := rfl
@[simp] theorem State.clean_pending (p : Place) : (s.clean p).pending = s.pending := rfl

/-! ### `State.dropPkt` -/

@[simp] theorem State.dropPkt_part (id : Nat) : (s.dropPkt id).part = s.part := rfl
@[simp] theorem State.dropPkt_tick (id : Nat) : (s.dropPkt id).tick = s.tick := rfl
@[simp] theorem State.dropPkt_cap (id : Nat) : (s.dropPkt id).cap = s.cap := rfl
@[simp] theorem State.dropPkt_parts (id : Nat) : (s.dropPkt id).parts = s.parts := rfl
@[simp] theorem State.dropPkt_tiles (id : Nat) : (s.dropPkt id).tiles = s.tiles := rfl
@[simp] theorem State.dropPkt_routers (id : Nat) : (s.dropPkt id).routers = s.routers := rfl
@[simp] theorem State.dropPkt_mem (id : Nat) : (s.dropPkt id).mem = s.mem := rfl
@[simp] theorem State.dropPkt_bad (id : Nat) : (s.dropPkt id).bad = s.bad := rfl
@[simp] theorem State.dropPkt_net (id : Nat) : (s.dropPkt id).net = { s.net with pkts := smErase s.net.pkts id } := rfl
@[simp] theorem State.dropPkt_accesses (id : Nat) : (s.dropPkt id).accesses = s.accesses := rfl
@[simp] theorem State.dropPkt_hbm (id : Nat) : (s.dropPkt id).hbm = s.hbm := rfl
@[simp] theorem State.dropPkt_fab (id : Nat) : (s.dropPkt id).fab = s.fab := rfl
@[simp] theorem State.dropPkt_links (id : Nat) : (s.dropPkt id).links = s.links := rfl
@[simp] theorem State.dropPkt_lnk (id : Nat) : (s.dropPkt id).lnk = s.lnk := rfl
@[simp] theorem State.dropPkt_host (id : Nat) : (s.dropPkt id).host = s.host := rfl
@[simp] theorem State.dropPkt_funcs (id : Nat) : (s.dropPkt id).funcs = s.funcs := rfl
@[simp] theorem State.dropPkt_rings (id : Nat) : (s.dropPkt id).rings = s.rings := rfl
@[simp] theorem State.dropPkt_tenants (id : Nat) : (s.dropPkt id).tenants = s.tenants := rfl
@[simp] theorem State.dropPkt_keys (id : Nat) : (s.dropPkt id).keys = s.keys := rfl
@[simp] theorem State.dropPkt_xsvc (id : Nat) : (s.dropPkt id).xsvc = s.xsvc := rfl
@[simp] theorem State.dropPkt_hostMem (id : Nat) : (s.dropPkt id).hostMem = s.hostMem := rfl
@[simp] theorem State.dropPkt_regions (id : Nat) : (s.dropPkt id).regions = s.regions := rfl
@[simp] theorem State.dropPkt_loads (id : Nat) : (s.dropPkt id).loads = s.loads := rfl
@[simp] theorem State.dropPkt_lports (id : Nat) : (s.dropPkt id).lports = s.lports := rfl
@[simp] theorem State.dropPkt_lgc (id : Nat) : (s.dropPkt id).lgc = s.lgc := rfl
@[simp] theorem State.dropPkt_integ (id : Nat) : (s.dropPkt id).integ = s.integ := rfl
@[simp] theorem State.dropPkt_bup (id : Nat) : (s.dropPkt id).bup = s.bup := rfl
@[simp] theorem State.dropPkt_health (id : Nat) : (s.dropPkt id).health = s.health := rfl
@[simp] theorem State.dropPkt_board (id : Nat) : (s.dropPkt id).board = s.board := rfl
@[simp] theorem State.dropPkt_answer (id : Nat) : (s.dropPkt id).answer = s.answer := rfl
@[simp] theorem State.dropPkt_freeCount (id : Nat) : (s.dropPkt id).freeCount = s.freeCount := rfl
@[simp] theorem State.dropPkt_pending (id : Nat) : (s.dropPkt id).pending = s.pending := rfl

end Sys2Proof.Machine
end

