-- ==== Sys2Proof/Laws/Ops.lean ====
section
/-!
SUPPORT. What each shared operation can do, once: `X_frame` says which fields of the state an operation may change, and the
lemmas after it say so field by field.
-/
namespace Sys2Proof.Machine

variable (s : State)

/-! ### `State.hostWr` -/

theorem State.hostWr_frame (d a : Nat) (bs : List Byte) : ∃ x0, s.hostWr d a bs = { s with hostMem := x0 } :=
  ⟨_, rfl⟩
@[simp] theorem State.hostWr_part (d a : Nat) (bs : List Byte) : (s.hostWr d a bs).part = s.part := by
  obtain ⟨_, h⟩ := s.hostWr_frame d a bs; rw [h]
@[simp] theorem State.hostWr_tick (d a : Nat) (bs : List Byte) : (s.hostWr d a bs).tick = s.tick := by
  obtain ⟨_, h⟩ := s.hostWr_frame d a bs; rw [h]
@[simp] theorem State.hostWr_cap (d a : Nat) (bs : List Byte) : (s.hostWr d a bs).cap = s.cap := by
  obtain ⟨_, h⟩ := s.hostWr_frame d a bs; rw [h]
@[simp] theorem State.hostWr_parts (d a : Nat) (bs : List Byte) : (s.hostWr d a bs).parts = s.parts := by
  obtain ⟨_, h⟩ := s.hostWr_frame d a bs; rw [h]
@[simp] theorem State.hostWr_tiles (d a : Nat) (bs : List Byte) : (s.hostWr d a bs).tiles = s.tiles := by
  obtain ⟨_, h⟩ := s.hostWr_frame d a bs; rw [h]
@[simp] theorem State.hostWr_routers (d a : Nat) (bs : List Byte) : (s.hostWr d a bs).routers = s.routers := by
  obtain ⟨_, h⟩ := s.hostWr_frame d a bs; rw [h]
@[simp] theorem State.hostWr_mem (d a : Nat) (bs : List Byte) : (s.hostWr d a bs).mem = s.mem := by
  obtain ⟨_, h⟩ := s.hostWr_frame d a bs; rw [h]
@[simp] theorem State.hostWr_bad (d a : Nat) (bs : List Byte) : (s.hostWr d a bs).bad = s.bad := by
  obtain ⟨_, h⟩ := s.hostWr_frame d a bs; rw [h]
@[simp] theorem State.hostWr_net (d a : Nat) (bs : List Byte) : (s.hostWr d a bs).net = s.net := by
  obtain ⟨_, h⟩ := s.hostWr_frame d a bs; rw [h]
@[simp] theorem State.hostWr_accesses (d a : Nat) (bs : List Byte) : (s.hostWr d a bs).accesses = s.accesses := by
  obtain ⟨_, h⟩ := s.hostWr_frame d a bs; rw [h]
@[simp] theorem State.hostWr_hbm (d a : Nat) (bs : List Byte) : (s.hostWr d a bs).hbm = s.hbm := by
  obtain ⟨_, h⟩ := s.hostWr_frame d a bs; rw [h]
@[simp] theorem State.hostWr_fab (d a : Nat) (bs : List Byte) : (s.hostWr d a bs).fab = s.fab := by
  obtain ⟨_, h⟩ := s.hostWr_frame d a bs; rw [h]
@[simp] theorem State.hostWr_links (d a : Nat) (bs : List Byte) : (s.hostWr d a bs).links = s.links := by
  obtain ⟨_, h⟩ := s.hostWr_frame d a bs; rw [h]
@[simp] theorem State.hostWr_lnk (d a : Nat) (bs : List Byte) : (s.hostWr d a bs).lnk = s.lnk := by
  obtain ⟨_, h⟩ := s.hostWr_frame d a bs; rw [h]
@[simp] theorem State.hostWr_host (d a : Nat) (bs : List Byte) : (s.hostWr d a bs).host = s.host := by
  obtain ⟨_, h⟩ := s.hostWr_frame d a bs; rw [h]
@[simp] theorem State.hostWr_funcs (d a : Nat) (bs : List Byte) : (s.hostWr d a bs).funcs = s.funcs := by
  obtain ⟨_, h⟩ := s.hostWr_frame d a bs; rw [h]
@[simp] theorem State.hostWr_rings (d a : Nat) (bs : List Byte) : (s.hostWr d a bs).rings = s.rings := by
  obtain ⟨_, h⟩ := s.hostWr_frame d a bs; rw [h]
@[simp] theorem State.hostWr_tenants (d a : Nat) (bs : List Byte) : (s.hostWr d a bs).tenants = s.tenants := by
  obtain ⟨_, h⟩ := s.hostWr_frame d a bs; rw [h]
@[simp] theorem State.hostWr_keys (d a : Nat) (bs : List Byte) : (s.hostWr d a bs).keys = s.keys := by
  obtain ⟨_, h⟩ := s.hostWr_frame d a bs; rw [h]
@[simp] theorem State.hostWr_xsvc (d a : Nat) (bs : List Byte) : (s.hostWr d a bs).xsvc = s.xsvc := by
  obtain ⟨_, h⟩ := s.hostWr_frame d a bs; rw [h]
@[simp] theorem State.hostWr_regions (d a : Nat) (bs : List Byte) : (s.hostWr d a bs).regions = s.regions := by
  obtain ⟨_, h⟩ := s.hostWr_frame d a bs; rw [h]
@[simp] theorem State.hostWr_loads (d a : Nat) (bs : List Byte) : (s.hostWr d a bs).loads = s.loads := by
  obtain ⟨_, h⟩ := s.hostWr_frame d a bs; rw [h]
@[simp] theorem State.hostWr_lports (d a : Nat) (bs : List Byte) : (s.hostWr d a bs).lports = s.lports := by
  obtain ⟨_, h⟩ := s.hostWr_frame d a bs; rw [h]
@[simp] theorem State.hostWr_lgc (d a : Nat) (bs : List Byte) : (s.hostWr d a bs).lgc = s.lgc := by
  obtain ⟨_, h⟩ := s.hostWr_frame d a bs; rw [h]
@[simp] theorem State.hostWr_integ (d a : Nat) (bs : List Byte) : (s.hostWr d a bs).integ = s.integ := by
  obtain ⟨_, h⟩ := s.hostWr_frame d a bs; rw [h]
@[simp] theorem State.hostWr_bup (d a : Nat) (bs : List Byte) : (s.hostWr d a bs).bup = s.bup := by
  obtain ⟨_, h⟩ := s.hostWr_frame d a bs; rw [h]
@[simp] theorem State.hostWr_health (d a : Nat) (bs : List Byte) : (s.hostWr d a bs).health = s.health := by
  obtain ⟨_, h⟩ := s.hostWr_frame d a bs; rw [h]
@[simp] theorem State.hostWr_board (d a : Nat) (bs : List Byte) : (s.hostWr d a bs).board = s.board := by
  obtain ⟨_, h⟩ := s.hostWr_frame d a bs; rw [h]
@[simp] theorem State.hostWr_answer (d a : Nat) (bs : List Byte) : (s.hostWr d a bs).answer = s.answer := by
  obtain ⟨_, h⟩ := s.hostWr_frame d a bs; rw [h]
@[simp] theorem State.hostWr_freeCount (d a : Nat) (bs : List Byte) : (s.hostWr d a bs).freeCount = s.freeCount := by
  obtain ⟨_, h⟩ := s.hostWr_frame d a bs; rw [h]
@[simp] theorem State.hostWr_pending (d a : Nat) (bs : List Byte) : (s.hostWr d a bs).pending = s.pending := by
  obtain ⟨_, h⟩ := s.hostWr_frame d a bs; rw [h]

/-! ### `State.event` -/

theorem State.event_frame (d f code part unit detail : Nat) : ∃ x0 x1 x2, s.event d f code part unit detail = { s with funcs := x0, host := x1, hostMem := x2 } :=
  by
  unfold State.event
  dsimp only
  unfold State.hstCtr State.updHost State.updFunc State.hostWr
  split
  · exact ⟨_, _, _, rfl⟩
  · exact ⟨_, _, _, rfl⟩
@[simp] theorem State.event_part (d f code part unit detail : Nat) : (s.event d f code part unit detail).part = s.part := by
  obtain ⟨_, _, _, h⟩ := s.event_frame d f code part unit detail; rw [h]
@[simp] theorem State.event_tick (d f code part unit detail : Nat) : (s.event d f code part unit detail).tick = s.tick := by
  obtain ⟨_, _, _, h⟩ := s.event_frame d f code part unit detail; rw [h]
@[simp] theorem State.event_cap (d f code part unit detail : Nat) : (s.event d f code part unit detail).cap = s.cap := by
  obtain ⟨_, _, _, h⟩ := s.event_frame d f code part unit detail; rw [h]
@[simp] theorem State.event_parts (d f code part unit detail : Nat) : (s.event d f code part unit detail).parts = s.parts := by
  obtain ⟨_, _, _, h⟩ := s.event_frame d f code part unit detail; rw [h]
@[simp] theorem State.event_tiles (d f code part unit detail : Nat) : (s.event d f code part unit detail).tiles = s.tiles := by
  obtain ⟨_, _, _, h⟩ := s.event_frame d f code part unit detail; rw [h]
@[simp] theorem State.event_routers (d f code part unit detail : Nat) : (s.event d f code part unit detail).routers = s.routers := by
  obtain ⟨_, _, _, h⟩ := s.event_frame d f code part unit detail; rw [h]
@[simp] theorem State.event_mem (d f code part unit detail : Nat) : (s.event d f code part unit detail).mem = s.mem := by
  obtain ⟨_, _, _, h⟩ := s.event_frame d f code part unit detail; rw [h]
@[simp] theorem State.event_bad (d f code part unit detail : Nat) : (s.event d f code part unit detail).bad = s.bad := by
  obtain ⟨_, _, _, h⟩ := s.event_frame d f code part unit detail; rw [h]
@[simp] theorem State.event_net (d f code part unit detail : Nat) : (s.event d f code part unit detail).net = s.net := by
  obtain ⟨_, _, _, h⟩ := s.event_frame d f code part unit detail; rw [h]
@[simp] theorem State.event_accesses (d f code part unit detail : Nat) : (s.event d f code part unit detail).accesses = s.accesses := by
  obtain ⟨_, _, _, h⟩ := s.event_frame d f code part unit detail; rw [h]
@[simp] theorem State.event_hbm (d f code part unit detail : Nat) : (s.event d f code part unit detail).hbm = s.hbm := by
  obtain ⟨_, _, _, h⟩ := s.event_frame d f code part unit detail; rw [h]
@[simp] theorem State.event_fab (d f code part unit detail : Nat) : (s.event d f code part unit detail).fab = s.fab := by
  obtain ⟨_, _, _, h⟩ := s.event_frame d f code part unit detail; rw [h]
@[simp] theorem State.event_links (d f code part unit detail : Nat) : (s.event d f code part unit detail).links = s.links := by
  obtain ⟨_, _, _, h⟩ := s.event_frame d f code part unit detail; rw [h]
@[simp] theorem State.event_lnk (d f code part unit detail : Nat) : (s.event d f code part unit detail).lnk = s.lnk := by
  obtain ⟨_, _, _, h⟩ := s.event_frame d f code part unit detail; rw [h]
@[simp] theorem State.event_rings (d f code part unit detail : Nat) : (s.event d f code part unit detail).rings = s.rings := by
  obtain ⟨_, _, _, h⟩ := s.event_frame d f code part unit detail; rw [h]
@[simp] theorem State.event_tenants (d f code part unit detail : Nat) : (s.event d f code part unit detail).tenants = s.tenants := by
  obtain ⟨_, _, _, h⟩ := s.event_frame d f code part unit detail; rw [h]
@[simp] theorem State.event_keys (d f code part unit detail : Nat) : (s.event d f code part unit detail).keys = s.keys := by
  obtain ⟨_, _, _, h⟩ := s.event_frame d f code part unit detail; rw [h]
@[simp] theorem State.event_xsvc (d f code part unit detail : Nat) : (s.event d f code part unit detail).xsvc = s.xsvc := by
  obtain ⟨_, _, _, h⟩ := s.event_frame d f code part unit detail; rw [h]
@[simp] theorem State.event_regions (d f code part unit detail : Nat) : (s.event d f code part unit detail).regions = s.regions := by
  obtain ⟨_, _, _, h⟩ := s.event_frame d f code part unit detail; rw [h]
@[simp] theorem State.event_loads (d f code part unit detail : Nat) : (s.event d f code part unit detail).loads = s.loads := by
  obtain ⟨_, _, _, h⟩ := s.event_frame d f code part unit detail; rw [h]
@[simp] theorem State.event_lports (d f code part unit detail : Nat) : (s.event d f code part unit detail).lports = s.lports := by
  obtain ⟨_, _, _, h⟩ := s.event_frame d f code part unit detail; rw [h]
@[simp] theorem State.event_lgc (d f code part unit detail : Nat) : (s.event d f code part unit detail).lgc = s.lgc := by
  obtain ⟨_, _, _, h⟩ := s.event_frame d f code part unit detail; rw [h]
@[simp] theorem State.event_integ (d f code part unit detail : Nat) : (s.event d f code part unit detail).integ = s.integ := by
  obtain ⟨_, _, _, h⟩ := s.event_frame d f code part unit detail; rw [h]
@[simp] theorem State.event_bup (d f code part unit detail : Nat) : (s.event d f code part unit detail).bup = s.bup := by
  obtain ⟨_, _, _, h⟩ := s.event_frame d f code part unit detail; rw [h]
@[simp] theorem State.event_health (d f code part unit detail : Nat) : (s.event d f code part unit detail).health = s.health := by
  obtain ⟨_, _, _, h⟩ := s.event_frame d f code part unit detail; rw [h]
@[simp] theorem State.event_board (d f code part unit detail : Nat) : (s.event d f code part unit detail).board = s.board := by
  obtain ⟨_, _, _, h⟩ := s.event_frame d f code part unit detail; rw [h]
@[simp] theorem State.event_answer (d f code part unit detail : Nat) : (s.event d f code part unit detail).answer = s.answer := by
  obtain ⟨_, _, _, h⟩ := s.event_frame d f code part unit detail; rw [h]
@[simp] theorem State.event_freeCount (d f code part unit detail : Nat) : (s.event d f code part unit detail).freeCount = s.freeCount := by
  obtain ⟨_, _, _, h⟩ := s.event_frame d f code part unit detail; rw [h]
@[simp] theorem State.event_pending (d f code part unit detail : Nat) : (s.event d f code part unit detail).pending = s.pending := by
  obtain ⟨_, _, _, h⟩ := s.event_frame d f code part unit detail; rw [h]

/-! ### `State.ownerEvent` -/

theorem State.ownerEvent_frame (code part unit detail : Nat) : ∃ x0 x1 x2, s.ownerEvent code part unit detail = { s with funcs := x0, host := x1, hostMem := x2 } :=
  by
  unfold State.ownerEvent
  split
  · exact s.event_frame ..
  · exact ⟨_, _, _, rfl⟩
@[simp] theorem State.ownerEvent_part (code part unit detail : Nat) : (s.ownerEvent code part unit detail).part = s.part := by
  obtain ⟨_, _, _, h⟩ := s.ownerEvent_frame code part unit detail; rw [h]
@[simp] theorem State.ownerEvent_tick (code part unit detail : Nat) : (s.ownerEvent code part unit detail).tick = s.tick := by
  obtain ⟨_, _, _, h⟩ := s.ownerEvent_frame code part unit detail; rw [h]
@[simp] theorem State.ownerEvent_cap (code part unit detail : Nat) : (s.ownerEvent code part unit detail).cap = s.cap := by
  obtain ⟨_, _, _, h⟩ := s.ownerEvent_frame code part unit detail; rw [h]
@[simp] theorem State.ownerEvent_parts (code part unit detail : Nat) : (s.ownerEvent code part unit detail).parts = s.parts := by
  obtain ⟨_, _, _, h⟩ := s.ownerEvent_frame code part unit detail; rw [h]
@[simp] theorem State.ownerEvent_tiles (code part unit detail : Nat) : (s.ownerEvent code part unit detail).tiles = s.tiles := by
  obtain ⟨_, _, _, h⟩ := s.ownerEvent_frame code part unit detail; rw [h]
@[simp] theorem State.ownerEvent_routers (code part unit detail : Nat) : (s.ownerEvent code part unit detail).routers = s.routers := by
  obtain ⟨_, _, _, h⟩ := s.ownerEvent_frame code part unit detail; rw [h]
@[simp] theorem State.ownerEvent_mem (code part unit detail : Nat) : (s.ownerEvent code part unit detail).mem = s.mem := by
  obtain ⟨_, _, _, h⟩ := s.ownerEvent_frame code part unit detail; rw [h]
@[simp] theorem State.ownerEvent_bad (code part unit detail : Nat) : (s.ownerEvent code part unit detail).bad = s.bad := by
  obtain ⟨_, _, _, h⟩ := s.ownerEvent_frame code part unit detail; rw [h]
@[simp] theorem State.ownerEvent_net (code part unit detail : Nat) : (s.ownerEvent code part unit detail).net = s.net := by
  obtain ⟨_, _, _, h⟩ := s.ownerEvent_frame code part unit detail; rw [h]
@[simp] theorem State.ownerEvent_accesses (code part unit detail : Nat) : (s.ownerEvent code part unit detail).accesses = s.accesses := by
  obtain ⟨_, _, _, h⟩ := s.ownerEvent_frame code part unit detail; rw [h]
@[simp] theorem State.ownerEvent_hbm (code part unit detail : Nat) : (s.ownerEvent code part unit detail).hbm = s.hbm := by
  obtain ⟨_, _, _, h⟩ := s.ownerEvent_frame code part unit detail; rw [h]
@[simp] theorem State.ownerEvent_fab (code part unit detail : Nat) : (s.ownerEvent code part unit detail).fab = s.fab := by
  obtain ⟨_, _, _, h⟩ := s.ownerEvent_frame code part unit detail; rw [h]
@[simp] theorem State.ownerEvent_links (code part unit detail : Nat) : (s.ownerEvent code part unit detail).links = s.links := by
  obtain ⟨_, _, _, h⟩ := s.ownerEvent_frame code part unit detail; rw [h]
@[simp] theorem State.ownerEvent_lnk (code part unit detail : Nat) : (s.ownerEvent code part unit detail).lnk = s.lnk := by
  obtain ⟨_, _, _, h⟩ := s.ownerEvent_frame code part unit detail; rw [h]
@[simp] theorem State.ownerEvent_rings (code part unit detail : Nat) : (s.ownerEvent code part unit detail).rings = s.rings := by
  obtain ⟨_, _, _, h⟩ := s.ownerEvent_frame code part unit detail; rw [h]
@[simp] theorem State.ownerEvent_tenants (code part unit detail : Nat) : (s.ownerEvent code part unit detail).tenants = s.tenants := by
  obtain ⟨_, _, _, h⟩ := s.ownerEvent_frame code part unit detail; rw [h]
@[simp] theorem State.ownerEvent_keys (code part unit detail : Nat) : (s.ownerEvent code part unit detail).keys = s.keys := by
  obtain ⟨_, _, _, h⟩ := s.ownerEvent_frame code part unit detail; rw [h]
@[simp] theorem State.ownerEvent_xsvc (code part unit detail : Nat) : (s.ownerEvent code part unit detail).xsvc = s.xsvc := by
  obtain ⟨_, _, _, h⟩ := s.ownerEvent_frame code part unit detail; rw [h]
@[simp] theorem State.ownerEvent_regions (code part unit detail : Nat) : (s.ownerEvent code part unit detail).regions = s.regions := by
  obtain ⟨_, _, _, h⟩ := s.ownerEvent_frame code part unit detail; rw [h]
@[simp] theorem State.ownerEvent_loads (code part unit detail : Nat) : (s.ownerEvent code part unit detail).loads = s.loads := by
  obtain ⟨_, _, _, h⟩ := s.ownerEvent_frame code part unit detail; rw [h]
@[simp] theorem State.ownerEvent_lports (code part unit detail : Nat) : (s.ownerEvent code part unit detail).lports = s.lports := by
  obtain ⟨_, _, _, h⟩ := s.ownerEvent_frame code part unit detail; rw [h]
@[simp] theorem State.ownerEvent_lgc (code part unit detail : Nat) : (s.ownerEvent code part unit detail).lgc = s.lgc := by
  obtain ⟨_, _, _, h⟩ := s.ownerEvent_frame code part unit detail; rw [h]
@[simp] theorem State.ownerEvent_integ (code part unit detail : Nat) : (s.ownerEvent code part unit detail).integ = s.integ := by
  obtain ⟨_, _, _, h⟩ := s.ownerEvent_frame code part unit detail; rw [h]
@[simp] theorem State.ownerEvent_bup (code part unit detail : Nat) : (s.ownerEvent code part unit detail).bup = s.bup := by
  obtain ⟨_, _, _, h⟩ := s.ownerEvent_frame code part unit detail; rw [h]
@[simp] theorem State.ownerEvent_health (code part unit detail : Nat) : (s.ownerEvent code part unit detail).health = s.health := by
  obtain ⟨_, _, _, h⟩ := s.ownerEvent_frame code part unit detail; rw [h]
@[simp] theorem State.ownerEvent_board (code part unit detail : Nat) : (s.ownerEvent code part unit detail).board = s.board := by
  obtain ⟨_, _, _, h⟩ := s.ownerEvent_frame code part unit detail; rw [h]
@[simp] theorem State.ownerEvent_answer (code part unit detail : Nat) : (s.ownerEvent code part unit detail).answer = s.answer := by
  obtain ⟨_, _, _, h⟩ := s.ownerEvent_frame code part unit detail; rw [h]
@[simp] theorem State.ownerEvent_freeCount (code part unit detail : Nat) : (s.ownerEvent code part unit detail).freeCount = s.freeCount := by
  obtain ⟨_, _, _, h⟩ := s.ownerEvent_frame code part unit detail; rw [h]
@[simp] theorem State.ownerEvent_pending (code part unit detail : Nat) : (s.ownerEvent code part unit detail).pending = s.pending := by
  obtain ⟨_, _, _, h⟩ := s.ownerEvent_frame code part unit detail; rw [h]

/-! ### `State.tenantEvent` -/

theorem State.tenantEvent_frame (ten code part unit detail : Nat) : ∃ x0 x1 x2, s.tenantEvent ten code part unit detail = { s with funcs := x0, host := x1, hostMem := x2 } :=
  by
  unfold State.tenantEvent
  split
  · exact s.event_frame ..
  · exact ⟨_, _, _, rfl⟩
@[simp] theorem State.tenantEvent_part (ten code part unit detail : Nat) : (s.tenantEvent ten code part unit detail).part = s.part := by
  obtain ⟨_, _, _, h⟩ := s.tenantEvent_frame ten code part unit detail; rw [h]
@[simp] theorem State.tenantEvent_tick (ten code part unit detail : Nat) : (s.tenantEvent ten code part unit detail).tick = s.tick := by
  obtain ⟨_, _, _, h⟩ := s.tenantEvent_frame ten code part unit detail; rw [h]
@[simp] theorem State.tenantEvent_cap (ten code part unit detail : Nat) : (s.tenantEvent ten code part unit detail).cap = s.cap := by
  obtain ⟨_, _, _, h⟩ := s.tenantEvent_frame ten code part unit detail; rw [h]
@[simp] theorem State.tenantEvent_parts (ten code part unit detail : Nat) : (s.tenantEvent ten code part unit detail).parts = s.parts := by
  obtain ⟨_, _, _, h⟩ := s.tenantEvent_frame ten code part unit detail; rw [h]
@[simp] theorem State.tenantEvent_tiles (ten code part unit detail : Nat) : (s.tenantEvent ten code part unit detail).tiles = s.tiles := by
  obtain ⟨_, _, _, h⟩ := s.tenantEvent_frame ten code part unit detail; rw [h]
@[simp] theorem State.tenantEvent_routers (ten code part unit detail : Nat) : (s.tenantEvent ten code part unit detail).routers = s.routers := by
  obtain ⟨_, _, _, h⟩ := s.tenantEvent_frame ten code part unit detail; rw [h]
@[simp] theorem State.tenantEvent_mem (ten code part unit detail : Nat) : (s.tenantEvent ten code part unit detail).mem = s.mem := by
  obtain ⟨_, _, _, h⟩ := s.tenantEvent_frame ten code part unit detail; rw [h]
@[simp] theorem State.tenantEvent_bad (ten code part unit detail : Nat) : (s.tenantEvent ten code part unit detail).bad = s.bad := by
  obtain ⟨_, _, _, h⟩ := s.tenantEvent_frame ten code part unit detail; rw [h]
@[simp] theorem State.tenantEvent_net (ten code part unit detail : Nat) : (s.tenantEvent ten code part unit detail).net = s.net := by
  obtain ⟨_, _, _, h⟩ := s.tenantEvent_frame ten code part unit detail; rw [h]
@[simp] theorem State.tenantEvent_accesses (ten code part unit detail : Nat) : (s.tenantEvent ten code part unit detail).accesses = s.accesses := by
  obtain ⟨_, _, _, h⟩ := s.tenantEvent_frame ten code part unit detail; rw [h]
@[simp] theorem State.tenantEvent_hbm (ten code part unit detail : Nat) : (s.tenantEvent ten code part unit detail).hbm = s.hbm := by
  obtain ⟨_, _, _, h⟩ := s.tenantEvent_frame ten code part unit detail; rw [h]
@[simp] theorem State.tenantEvent_fab (ten code part unit detail : Nat) : (s.tenantEvent ten code part unit detail).fab = s.fab := by
  obtain ⟨_, _, _, h⟩ := s.tenantEvent_frame ten code part unit detail; rw [h]
@[simp] theorem State.tenantEvent_links (ten code part unit detail : Nat) : (s.tenantEvent ten code part unit detail).links = s.links := by
  obtain ⟨_, _, _, h⟩ := s.tenantEvent_frame ten code part unit detail; rw [h]
@[simp] theorem State.tenantEvent_lnk (ten code part unit detail : Nat) : (s.tenantEvent ten code part unit detail).lnk = s.lnk := by
  obtain ⟨_, _, _, h⟩ := s.tenantEvent_frame ten code part unit detail; rw [h]
@[simp] theorem State.tenantEvent_rings (ten code part unit detail : Nat) : (s.tenantEvent ten code part unit detail).rings = s.rings := by
  obtain ⟨_, _, _, h⟩ := s.tenantEvent_frame ten code part unit detail; rw [h]
@[simp] theorem State.tenantEvent_tenants (ten code part unit detail : Nat) : (s.tenantEvent ten code part unit detail).tenants = s.tenants := by
  obtain ⟨_, _, _, h⟩ := s.tenantEvent_frame ten code part unit detail; rw [h]
@[simp] theorem State.tenantEvent_keys (ten code part unit detail : Nat) : (s.tenantEvent ten code part unit detail).keys = s.keys := by
  obtain ⟨_, _, _, h⟩ := s.tenantEvent_frame ten code part unit detail; rw [h]
@[simp] theorem State.tenantEvent_xsvc (ten code part unit detail : Nat) : (s.tenantEvent ten code part unit detail).xsvc = s.xsvc := by
  obtain ⟨_, _, _, h⟩ := s.tenantEvent_frame ten code part unit detail; rw [h]
@[simp] theorem State.tenantEvent_regions (ten code part unit detail : Nat) : (s.tenantEvent ten code part unit detail).regions = s.regions := by
  obtain ⟨_, _, _, h⟩ := s.tenantEvent_frame ten code part unit detail; rw [h]
@[simp] theorem State.tenantEvent_loads (ten code part unit detail : Nat) : (s.tenantEvent ten code part unit detail).loads = s.loads := by
  obtain ⟨_, _, _, h⟩ := s.tenantEvent_frame ten code part unit detail; rw [h]
@[simp] theorem State.tenantEvent_lports (ten code part unit detail : Nat) : (s.tenantEvent ten code part unit detail).lports = s.lports := by
  obtain ⟨_, _, _, h⟩ := s.tenantEvent_frame ten code part unit detail; rw [h]
@[simp] theorem State.tenantEvent_lgc (ten code part unit detail : Nat) : (s.tenantEvent ten code part unit detail).lgc = s.lgc := by
  obtain ⟨_, _, _, h⟩ := s.tenantEvent_frame ten code part unit detail; rw [h]
@[simp] theorem State.tenantEvent_integ (ten code part unit detail : Nat) : (s.tenantEvent ten code part unit detail).integ = s.integ := by
  obtain ⟨_, _, _, h⟩ := s.tenantEvent_frame ten code part unit detail; rw [h]
@[simp] theorem State.tenantEvent_bup (ten code part unit detail : Nat) : (s.tenantEvent ten code part unit detail).bup = s.bup := by
  obtain ⟨_, _, _, h⟩ := s.tenantEvent_frame ten code part unit detail; rw [h]
@[simp] theorem State.tenantEvent_health (ten code part unit detail : Nat) : (s.tenantEvent ten code part unit detail).health = s.health := by
  obtain ⟨_, _, _, h⟩ := s.tenantEvent_frame ten code part unit detail; rw [h]
@[simp] theorem State.tenantEvent_board (ten code part unit detail : Nat) : (s.tenantEvent ten code part unit detail).board = s.board := by
  obtain ⟨_, _, _, h⟩ := s.tenantEvent_frame ten code part unit detail; rw [h]
@[simp] theorem State.tenantEvent_answer (ten code part unit detail : Nat) : (s.tenantEvent ten code part unit detail).answer = s.answer := by
  obtain ⟨_, _, _, h⟩ := s.tenantEvent_frame ten code part unit detail; rw [h]
@[simp] theorem State.tenantEvent_freeCount (ten code part unit detail : Nat) : (s.tenantEvent ten code part unit detail).freeCount = s.freeCount := by
  obtain ⟨_, _, _, h⟩ := s.tenantEvent_frame ten code part unit detail; rw [h]
@[simp] theorem State.tenantEvent_pending (ten code part unit detail : Nat) : (s.tenantEvent ten code part unit detail).pending = s.pending := by
  obtain ⟨_, _, _, h⟩ := s.tenantEvent_frame ten code part unit detail; rw [h]

/-! ### `State.report` -/

theorem State.report_frame (kind source unit addr detail : Nat) (tenant part : Option Nat) (epoch : Byte) : ∃ x0, s.report kind source unit addr detail tenant part epoch = { s with integ := x0 } :=
  by
  unfold State.report
  dsimp only
  split <;> exact ⟨_, rfl⟩
@[simp] theorem State.report_part (kind source unit addr detail : Nat) (tenant part : Option Nat) (epoch : Byte) : (s.report kind source unit addr detail tenant part epoch).part = s.part := by
  obtain ⟨_, h⟩ := s.report_frame kind source unit addr detail tenant part epoch; rw [h]
@[simp] theorem State.report_tick (kind source unit addr detail : Nat) (tenant part : Option Nat) (epoch : Byte) : (s.report kind source unit addr detail tenant part epoch).tick = s.tick := by
  obtain ⟨_, h⟩ := s.report_frame kind source unit addr detail tenant part epoch; rw [h]
@[simp] theorem State.report_cap (kind source unit addr detail : Nat) (tenant part : Option Nat) (epoch : Byte) : (s.report kind source unit addr detail tenant part epoch).cap = s.cap := by
  obtain ⟨_, h⟩ := s.report_frame kind source unit addr detail tenant part epoch; rw [h]
@[simp] theorem State.report_parts (kind source unit addr detail : Nat) (tenant part : Option Nat) (epoch : Byte) : (s.report kind source unit addr detail tenant part epoch).parts = s.parts := by
  obtain ⟨_, h⟩ := s.report_frame kind source unit addr detail tenant part epoch; rw [h]
@[simp] theorem State.report_tiles (kind source unit addr detail : Nat) (tenant part : Option Nat) (epoch : Byte) : (s.report kind source unit addr detail tenant part epoch).tiles = s.tiles := by
  obtain ⟨_, h⟩ := s.report_frame kind source unit addr detail tenant part epoch; rw [h]
@[simp] theorem State.report_routers (kind source unit addr detail : Nat) (tenant part : Option Nat) (epoch : Byte) : (s.report kind source unit addr detail tenant part epoch).routers = s.routers := by
  obtain ⟨_, h⟩ := s.report_frame kind source unit addr detail tenant part epoch; rw [h]
@[simp] theorem State.report_mem (kind source unit addr detail : Nat) (tenant part : Option Nat) (epoch : Byte) : (s.report kind source unit addr detail tenant part epoch).mem = s.mem := by
  obtain ⟨_, h⟩ := s.report_frame kind source unit addr detail tenant part epoch; rw [h]
@[simp] theorem State.report_bad (kind source unit addr detail : Nat) (tenant part : Option Nat) (epoch : Byte) : (s.report kind source unit addr detail tenant part epoch).bad = s.bad := by
  obtain ⟨_, h⟩ := s.report_frame kind source unit addr detail tenant part epoch; rw [h]
@[simp] theorem State.report_net (kind source unit addr detail : Nat) (tenant part : Option Nat) (epoch : Byte) : (s.report kind source unit addr detail tenant part epoch).net = s.net := by
  obtain ⟨_, h⟩ := s.report_frame kind source unit addr detail tenant part epoch; rw [h]
@[simp] theorem State.report_accesses (kind source unit addr detail : Nat) (tenant part : Option Nat) (epoch : Byte) : (s.report kind source unit addr detail tenant part epoch).accesses = s.accesses := by
  obtain ⟨_, h⟩ := s.report_frame kind source unit addr detail tenant part epoch; rw [h]
@[simp] theorem State.report_hbm (kind source unit addr detail : Nat) (tenant part : Option Nat) (epoch : Byte) : (s.report kind source unit addr detail tenant part epoch).hbm = s.hbm := by
  obtain ⟨_, h⟩ := s.report_frame kind source unit addr detail tenant part epoch; rw [h]
@[simp] theorem State.report_fab (kind source unit addr detail : Nat) (tenant part : Option Nat) (epoch : Byte) : (s.report kind source unit addr detail tenant part epoch).fab = s.fab := by
  obtain ⟨_, h⟩ := s.report_frame kind source unit addr detail tenant part epoch; rw [h]
@[simp] theorem State.report_links (kind source unit addr detail : Nat) (tenant part : Option Nat) (epoch : Byte) : (s.report kind source unit addr detail tenant part epoch).links = s.links := by
  obtain ⟨_, h⟩ := s.report_frame kind source unit addr detail tenant part epoch; rw [h]
@[simp] theorem State.report_lnk (kind source unit addr detail : Nat) (tenant part : Option Nat) (epoch : Byte) : (s.report kind source unit addr detail tenant part epoch).lnk = s.lnk := by
  obtain ⟨_, h⟩ := s.report_frame kind source unit addr detail tenant part epoch; rw [h]
@[simp] theorem State.report_host (kind source unit addr detail : Nat) (tenant part : Option Nat) (epoch : Byte) : (s.report kind source unit addr detail tenant part epoch).host = s.host := by
  obtain ⟨_, h⟩ := s.report_frame kind source unit addr detail tenant part epoch; rw [h]
@[simp] theorem State.report_funcs (kind source unit addr detail : Nat) (tenant part : Option Nat) (epoch : Byte) : (s.report kind source unit addr detail tenant part epoch).funcs = s.funcs := by
  obtain ⟨_, h⟩ := s.report_frame kind source unit addr detail tenant part epoch; rw [h]
@[simp] theorem State.report_rings (kind source unit addr detail : Nat) (tenant part : Option Nat) (epoch : Byte) : (s.report kind source unit addr detail tenant part epoch).rings = s.rings := by
  obtain ⟨_, h⟩ := s.report_frame kind source unit addr detail tenant part epoch; rw [h]
@[simp] theorem State.report_tenants (kind source unit addr detail : Nat) (tenant part : Option Nat) (epoch : Byte) : (s.report kind source unit addr detail tenant part epoch).tenants = s.tenants := by
  obtain ⟨_, h⟩ := s.report_frame kind source unit addr detail tenant part epoch; rw [h]
@[simp] theorem State.report_keys (kind source unit addr detail : Nat) (tenant part : Option Nat) (epoch : Byte) : (s.report kind source unit addr detail tenant part epoch).keys = s.keys := by
  obtain ⟨_, h⟩ := s.report_frame kind source unit addr detail tenant part epoch; rw [h]
@[simp] theorem State.report_xsvc (kind source unit addr detail : Nat) (tenant part : Option Nat) (epoch : Byte) : (s.report kind source unit addr detail tenant part epoch).xsvc = s.xsvc := by
  obtain ⟨_, h⟩ := s.report_frame kind source unit addr detail tenant part epoch; rw [h]
@[simp] theorem State.report_hostMem (kind source unit addr detail : Nat) (tenant part : Option Nat) (epoch : Byte) : (s.report kind source unit addr detail tenant part epoch).hostMem = s.hostMem := by
  obtain ⟨_, h⟩ := s.report_frame kind source unit addr detail tenant part epoch; rw [h]
@[simp] theorem State.report_regions (kind source unit addr detail : Nat) (tenant part : Option Nat) (epoch : Byte) : (s.report kind source unit addr detail tenant part epoch).regions = s.regions := by
  obtain ⟨_, h⟩ := s.report_frame kind source unit addr detail tenant part epoch; rw [h]
@[simp] theorem State.report_loads (kind source unit addr detail : Nat) (tenant part : Option Nat) (epoch : Byte) : (s.report kind source unit addr detail tenant part epoch).loads = s.loads := by
  obtain ⟨_, h⟩ := s.report_frame kind source unit addr detail tenant part epoch; rw [h]
@[simp] theorem State.report_lports (kind source unit addr detail : Nat) (tenant part : Option Nat) (epoch : Byte) : (s.report kind source unit addr detail tenant part epoch).lports = s.lports := by
  obtain ⟨_, h⟩ := s.report_frame kind source unit addr detail tenant part epoch; rw [h]
@[simp] theorem State.report_lgc (kind source unit addr detail : Nat) (tenant part : Option Nat) (epoch : Byte) : (s.report kind source unit addr detail tenant part epoch).lgc = s.lgc := by
  obtain ⟨_, h⟩ := s.report_frame kind source unit addr detail tenant part epoch; rw [h]
@[simp] theorem State.report_bup (kind source unit addr detail : Nat) (tenant part : Option Nat) (epoch : Byte) : (s.report kind source unit addr detail tenant part epoch).bup = s.bup := by
  obtain ⟨_, h⟩ := s.report_frame kind source unit addr detail tenant part epoch; rw [h]
@[simp] theorem State.report_health (kind source unit addr detail : Nat) (tenant part : Option Nat) (epoch : Byte) : (s.report kind source unit addr detail tenant part epoch).health = s.health := by
  obtain ⟨_, h⟩ := s.report_frame kind source unit addr detail tenant part epoch; rw [h]
@[simp] theorem State.report_board (kind source unit addr detail : Nat) (tenant part : Option Nat) (epoch : Byte) : (s.report kind source unit addr detail tenant part epoch).board = s.board := by
  obtain ⟨_, h⟩ := s.report_frame kind source unit addr detail tenant part epoch; rw [h]
@[simp] theorem State.report_answer (kind source unit addr detail : Nat) (tenant part : Option Nat) (epoch : Byte) : (s.report kind source unit addr detail tenant part epoch).answer = s.answer := by
  obtain ⟨_, h⟩ := s.report_frame kind source unit addr detail tenant part epoch; rw [h]
@[simp] theorem State.report_freeCount (kind source unit addr detail : Nat) (tenant part : Option Nat) (epoch : Byte) : (s.report kind source unit addr detail tenant part epoch).freeCount = s.freeCount := by
  obtain ⟨_, h⟩ := s.report_frame kind source unit addr detail tenant part epoch; rw [h]
@[simp] theorem State.report_pending (kind source unit addr detail : Nat) (tenant part : Option Nat) (epoch : Byte) : (s.report kind source unit addr detail tenant part epoch).pending = s.pending := by
  obtain ⟨_, h⟩ := s.report_frame kind source unit addr detail tenant part epoch; rw [h]

theorem evAdd_fold (f : State → Nat → State)
    (hf : ∀ s k, ∃ a b c d, f s k = { s with funcs := a, host := b, hostMem := c, health := d }) : ∀ (l : List Nat) (s : State),
    ∃ a b c d, l.foldl f s = { s with funcs := a, host := b, hostMem := c, health := d }
  | [], s => ⟨_, _, _, _, rfl⟩
  | k :: l, s => by
    obtain ⟨a, b, c, d, h1⟩ := hf s k
    obtain ⟨a', b', c', d', h2⟩ := evAdd_fold f hf l (f s k)
    rw [List.foldl_cons, h2, h1]
    exact ⟨a', b', c', d', rfl⟩

/-! ### `State.evAdd` -/

theorem State.evAdd_frame (t src n : Nat) : ∃ x0 x1 x2 x3, s.evAdd t src n = { s with funcs := x0, host := x1, hostMem := x2, health := x3 } :=
  by
  unfold State.evAdd
  dsimp only
  split
  · exact ⟨_, _, _, _, rfl⟩
  · generalize s.taskActive t = act
    apply evAdd_fold
    intro s k
    split
    · exact ⟨_, _, _, _, rfl⟩
    · split
      · split
        · obtain ⟨a, b, c, h⟩ := State.ownerEvent_frame (s.updHealth _) 0x49 0xFF t (t * 256 + k)
          rw [h]
          exact ⟨a, b, c, _, rfl⟩
        · exact ⟨_, _, _, _, rfl⟩
      · exact ⟨_, _, _, _, rfl⟩
@[simp] theorem State.evAdd_part (t src n : Nat) : (s.evAdd t src n).part = s.part := by
  obtain ⟨_, _, _, _, h⟩ := s.evAdd_frame t src n; rw [h]
@[simp] theorem State.evAdd_tick (t src n : Nat) : (s.evAdd t src n).tick = s.tick := by
  obtain ⟨_, _, _, _, h⟩ := s.evAdd_frame t src n; rw [h]
@[simp] theorem State.evAdd_cap (t src n : Nat) : (s.evAdd t src n).cap = s.cap := by
  obtain ⟨_, _, _, _, h⟩ := s.evAdd_frame t src n; rw [h]
@[simp] theorem State.evAdd_parts (t src n : Nat) : (s.evAdd t src n).parts = s.parts := by
  obtain ⟨_, _, _, _, h⟩ := s.evAdd_frame t src n; rw [h]
@[simp] theorem State.evAdd_tiles (t src n : Nat) : (s.evAdd t src n).tiles = s.tiles := by
  obtain ⟨_, _, _, _, h⟩ := s.evAdd_frame t src n; rw [h]
@[simp] theorem State.evAdd_routers (t src n : Nat) : (s.evAdd t src n).routers = s.routers := by
  obtain ⟨_, _, _, _, h⟩ := s.evAdd_frame t src n; rw [h]
@[simp] theorem State.evAdd_mem (t src n : Nat) : (s.evAdd t src n).mem = s.mem := by
  obtain ⟨_, _, _, _, h⟩ := s.evAdd_frame t src n; rw [h]
@[simp] theorem State.evAdd_bad (t src n : Nat) : (s.evAdd t src n).bad = s.bad := by
  obtain ⟨_, _, _, _, h⟩ := s.evAdd_frame t src n; rw [h]
@[simp] theorem State.evAdd_net (t src n : Nat) : (s.evAdd t src n).net = s.net := by
  obtain ⟨_, _, _, _, h⟩ := s.evAdd_frame t src n; rw [h]
@[simp] theorem State.evAdd_accesses (t src n : Nat) : (s.evAdd t src n).accesses = s.accesses := by
  obtain ⟨_, _, _, _, h⟩ := s.evAdd_frame t src n; rw [h]
@[simp] theorem State.evAdd_hbm (t src n : Nat) : (s.evAdd t src n).hbm = s.hbm := by
  obtain ⟨_, _, _, _, h⟩ := s.evAdd_frame t src n; rw [h]
@[simp] theorem State.evAdd_fab (t src n : Nat) : (s.evAdd t src n).fab = s.fab := by
  obtain ⟨_, _, _, _, h⟩ := s.evAdd_frame t src n; rw [h]
@[simp] theorem State.evAdd_links (t src n : Nat) : (s.evAdd t src n).links = s.links := by
  obtain ⟨_, _, _, _, h⟩ := s.evAdd_frame t src n; rw [h]
@[simp] theorem State.evAdd_lnk (t src n : Nat) : (s.evAdd t src n).lnk = s.lnk := by
  obtain ⟨_, _, _, _, h⟩ := s.evAdd_frame t src n; rw [h]
@[simp] theorem State.evAdd_rings (t src n : Nat) : (s.evAdd t src n).rings = s.rings := by
  obtain ⟨_, _, _, _, h⟩ := s.evAdd_frame t src n; rw [h]
@[simp] theorem State.evAdd_tenants (t src n : Nat) : (s.evAdd t src n).tenants = s.tenants := by
  obtain ⟨_, _, _, _, h⟩ := s.evAdd_frame t src n; rw [h]
@[simp] theorem State.evAdd_keys (t src n : Nat) : (s.evAdd t src n).keys = s.keys := by
  obtain ⟨_, _, _, _, h⟩ := s.evAdd_frame t src n; rw [h]
@[simp] theorem State.evAdd_xsvc (t src n : Nat) : (s.evAdd t src n).xsvc = s.xsvc := by
  obtain ⟨_, _, _, _, h⟩ := s.evAdd_frame t src n; rw [h]
@[simp] theorem State.evAdd_regions (t src n : Nat) : (s.evAdd t src n).regions = s.regions := by
  obtain ⟨_, _, _, _, h⟩ := s.evAdd_frame t src n; rw [h]
@[simp] theorem State.evAdd_loads (t src n : Nat) : (s.evAdd t src n).loads = s.loads := by
  obtain ⟨_, _, _, _, h⟩ := s.evAdd_frame t src n; rw [h]
@[simp] theorem State.evAdd_lports (t src n : Nat) : (s.evAdd t src n).lports = s.lports := by
  obtain ⟨_, _, _, _, h⟩ := s.evAdd_frame t src n; rw [h]
@[simp] theorem State.evAdd_lgc (t src n : Nat) : (s.evAdd t src n).lgc = s.lgc := by
  obtain ⟨_, _, _, _, h⟩ := s.evAdd_frame t src n; rw [h]
@[simp] theorem State.evAdd_integ (t src n : Nat) : (s.evAdd t src n).integ = s.integ := by
  obtain ⟨_, _, _, _, h⟩ := s.evAdd_frame t src n; rw [h]
@[simp] theorem State.evAdd_bup (t src n : Nat) : (s.evAdd t src n).bup = s.bup := by
  obtain ⟨_, _, _, _, h⟩ := s.evAdd_frame t src n; rw [h]
@[simp] theorem State.evAdd_board (t src n : Nat) : (s.evAdd t src n).board = s.board := by
  obtain ⟨_, _, _, _, h⟩ := s.evAdd_frame t src n; rw [h]
@[simp] theorem State.evAdd_answer (t src n : Nat) : (s.evAdd t src n).answer = s.answer := by
  obtain ⟨_, _, _, _, h⟩ := s.evAdd_frame t src n; rw [h]
@[simp] theorem State.evAdd_freeCount (t src n : Nat) : (s.evAdd t src n).freeCount = s.freeCount := by
  obtain ⟨_, _, _, _, h⟩ := s.evAdd_frame t src n; rw [h]
@[simp] theorem State.evAdd_pending (t src n : Nat) : (s.evAdd t src n).pending = s.pending := by
  obtain ⟨_, _, _, _, h⟩ := s.evAdd_frame t src n; rw [h]

/-! ### `State.tileReport` -/

theorem State.tileReport_frame (kind t addr detail : Nat) : ∃ x0 x1 x2 x3 x4, s.tileReport kind t addr detail = { s with funcs := x0, host := x1, hostMem := x2, health := x3, integ := x4 } :=
  by
  unfold State.tileReport
  dsimp only
  split
  · obtain ⟨a, b, c, d, h⟩ := s.evAdd_frame t 28 1
    rw [h]
    obtain ⟨e, h'⟩ := State.report_frame { s with funcs := a, host := b, hostMem := c, health := d } kind 0 t addr detail
      ({ s with funcs := a, host := b, hostMem := c, health := d }.taskTenant t)
      ({ s with funcs := a, host := b, hostMem := c, health := d }.partOfTile t)
      ({ s with funcs := a, host := b, hostMem := c, health := d }.tileEpoch t)
    rw [h']
    exact ⟨a, b, c, d, e, rfl⟩
  · obtain ⟨e, h'⟩ := s.report_frame kind 0 t addr detail (s.taskTenant t) (s.partOfTile t) (s.tileEpoch t)
    rw [h']
    exact ⟨_, _, _, _, e, rfl⟩
@[simp] theorem State.tileReport_part (kind t addr detail : Nat) : (s.tileReport kind t addr detail).part = s.part := by
  obtain ⟨_, _, _, _, _, h⟩ := s.tileReport_frame kind t addr detail; rw [h]
@[simp] theorem State.tileReport_tick (kind t addr detail : Nat) : (s.tileReport kind t addr detail).tick = s.tick := by
  obtain ⟨_, _, _, _, _, h⟩ := s.tileReport_frame kind t addr detail; rw [h]
@[simp] theorem State.tileReport_cap (kind t addr detail : Nat) : (s.tileReport kind t addr detail).cap = s.cap := by
  obtain ⟨_, _, _, _, _, h⟩ := s.tileReport_frame kind t addr detail; rw [h]
@[simp] theorem State.tileReport_parts (kind t addr detail : Nat) : (s.tileReport kind t addr detail).parts = s.parts := by
  obtain ⟨_, _, _, _, _, h⟩ := s.tileReport_frame kind t addr detail; rw [h]
@[simp] theorem State.tileReport_tiles (kind t addr detail : Nat) : (s.tileReport kind t addr detail).tiles = s.tiles := by
  obtain ⟨_, _, _, _, _, h⟩ := s.tileReport_frame kind t addr detail; rw [h]
@[simp] theorem State.tileReport_routers (kind t addr detail : Nat) : (s.tileReport kind t addr detail).routers = s.routers := by
  obtain ⟨_, _, _, _, _, h⟩ := s.tileReport_frame kind t addr detail; rw [h]
@[simp] theorem State.tileReport_mem (kind t addr detail : Nat) : (s.tileReport kind t addr detail).mem = s.mem := by
  obtain ⟨_, _, _, _, _, h⟩ := s.tileReport_frame kind t addr detail; rw [h]
@[simp] theorem State.tileReport_bad (kind t addr detail : Nat) : (s.tileReport kind t addr detail).bad = s.bad := by
  obtain ⟨_, _, _, _, _, h⟩ := s.tileReport_frame kind t addr detail; rw [h]
@[simp] theorem State.tileReport_net (kind t addr detail : Nat) : (s.tileReport kind t addr detail).net = s.net := by
  obtain ⟨_, _, _, _, _, h⟩ := s.tileReport_frame kind t addr detail; rw [h]
@[simp] theorem State.tileReport_accesses (kind t addr detail : Nat) : (s.tileReport kind t addr detail).accesses = s.accesses := by
  obtain ⟨_, _, _, _, _, h⟩ := s.tileReport_frame kind t addr detail; rw [h]
@[simp] theorem State.tileReport_hbm (kind t addr detail : Nat) : (s.tileReport kind t addr detail).hbm = s.hbm := by
  obtain ⟨_, _, _, _, _, h⟩ := s.tileReport_frame kind t addr detail; rw [h]
@[simp] theorem State.tileReport_fab (kind t addr detail : Nat) : (s.tileReport kind t addr detail).fab = s.fab := by
  obtain ⟨_, _, _, _, _, h⟩ := s.tileReport_frame kind t addr detail; rw [h]
@[simp] theorem State.tileReport_links (kind t addr detail : Nat) : (s.tileReport kind t addr detail).links = s.links := by
  obtain ⟨_, _, _, _, _, h⟩ := s.tileReport_frame kind t addr detail; rw [h]
@[simp] theorem State.tileReport_lnk (kind t addr detail : Nat) : (s.tileReport kind t addr detail).lnk = s.lnk := by
  obtain ⟨_, _, _, _, _, h⟩ := s.tileReport_frame kind t addr detail; rw [h]
@[simp] theorem State.tileReport_rings (kind t addr detail : Nat) : (s.tileReport kind t addr detail).rings = s.rings := by
  obtain ⟨_, _, _, _, _, h⟩ := s.tileReport_frame kind t addr detail; rw [h]
@[simp] theorem State.tileReport_tenants (kind t addr detail : Nat) : (s.tileReport kind t addr detail).tenants = s.tenants := by
  obtain ⟨_, _, _, _, _, h⟩ := s.tileReport_frame kind t addr detail; rw [h]
@[simp] theorem State.tileReport_keys (kind t addr detail : Nat) : (s.tileReport kind t addr detail).keys = s.keys := by
  obtain ⟨_, _, _, _, _, h⟩ := s.tileReport_frame kind t addr detail; rw [h]
@[simp] theorem State.tileReport_xsvc (kind t addr detail : Nat) : (s.tileReport kind t addr detail).xsvc = s.xsvc := by
  obtain ⟨_, _, _, _, _, h⟩ := s.tileReport_frame kind t addr detail; rw [h]
@[simp] theorem State.tileReport_regions (kind t addr detail : Nat) : (s.tileReport kind t addr detail).regions = s.regions := by
  obtain ⟨_, _, _, _, _, h⟩ := s.tileReport_frame kind t addr detail; rw [h]
@[simp] theorem State.tileReport_loads (kind t addr detail : Nat) : (s.tileReport kind t addr detail).loads = s.loads := by
  obtain ⟨_, _, _, _, _, h⟩ := s.tileReport_frame kind t addr detail; rw [h]
@[simp] theorem State.tileReport_lports (kind t addr detail : Nat) : (s.tileReport kind t addr detail).lports = s.lports := by
  obtain ⟨_, _, _, _, _, h⟩ := s.tileReport_frame kind t addr detail; rw [h]
@[simp] theorem State.tileReport_lgc (kind t addr detail : Nat) : (s.tileReport kind t addr detail).lgc = s.lgc := by
  obtain ⟨_, _, _, _, _, h⟩ := s.tileReport_frame kind t addr detail; rw [h]
@[simp] theorem State.tileReport_bup (kind t addr detail : Nat) : (s.tileReport kind t addr detail).bup = s.bup := by
  obtain ⟨_, _, _, _, _, h⟩ := s.tileReport_frame kind t addr detail; rw [h]
@[simp] theorem State.tileReport_board (kind t addr detail : Nat) : (s.tileReport kind t addr detail).board = s.board := by
  obtain ⟨_, _, _, _, _, h⟩ := s.tileReport_frame kind t addr detail; rw [h]
@[simp] theorem State.tileReport_answer (kind t addr detail : Nat) : (s.tileReport kind t addr detail).answer = s.answer := by
  obtain ⟨_, _, _, _, _, h⟩ := s.tileReport_frame kind t addr detail; rw [h]
@[simp] theorem State.tileReport_freeCount (kind t addr detail : Nat) : (s.tileReport kind t addr detail).freeCount = s.freeCount := by
  obtain ⟨_, _, _, _, _, h⟩ := s.tileReport_frame kind t addr detail; rw [h]
@[simp] theorem State.tileReport_pending (kind t addr detail : Nat) : (s.tileReport kind t addr detail).pending = s.pending := by
  obtain ⟨_, _, _, _, _, h⟩ := s.tileReport_frame kind t addr detail; rw [h]

/-! ### `State.inject` -/

theorem State.inject_frame (p : Packet) : ∃ x0 x1, s.inject p = { s with net := x0, routers := x1 } := ⟨_, s.routers, rfl⟩
@[simp] theorem State.inject_routers (p : Packet) : (s.inject p).routers = s.routers := rfl
@[simp] theorem State.inject_part (p : Packet) : (s.inject p).part = s.part := by
  obtain ⟨_, _, h⟩ := s.inject_frame p; rw [h]
@[simp] theorem State.inject_tick (p : Packet) : (s.inject p).tick = s.tick := by
  obtain ⟨_, _, h⟩ := s.inject_frame p; rw [h]
@[simp] theorem State.inject_cap (p : Packet) : (s.inject p).cap = s.cap := by
  obtain ⟨_, _, h⟩ := s.inject_frame p; rw [h]
@[simp] theorem State.inject_parts (p : Packet) : (s.inject p).parts = s.parts := by
  obtain ⟨_, _, h⟩ := s.inject_frame p; rw [h]
@[simp] theorem State.inject_tiles (p : Packet) : (s.inject p).tiles = s.tiles := by
  obtain ⟨_, _, h⟩ := s.inject_frame p; rw [h]
@[simp] theorem State.inject_mem (p : Packet) : (s.inject p).mem = s.mem := by
  obtain ⟨_, _, h⟩ := s.inject_frame p; rw [h]
@[simp] theorem State.inject_bad (p : Packet) : (s.inject p).bad = s.bad := by
  obtain ⟨_, _, h⟩ := s.inject_frame p; rw [h]
@[simp] theorem State.inject_accesses (p : Packet) : (s.inject p).accesses = s.accesses := by
  obtain ⟨_, _, h⟩ := s.inject_frame p; rw [h]
@[simp] theorem State.inject_hbm (p : Packet) : (s.inject p).hbm = s.hbm := by
  obtain ⟨_, _, h⟩ := s.inject_frame p; rw [h]
@[simp] theorem State.inject_fab (p : Packet) : (s.inject p).fab = s.fab := by
  obtain ⟨_, _, h⟩ := s.inject_frame p; rw [h]
@[simp] theorem State.inject_links (p : Packet) : (s.inject p).links = s.links := by
  obtain ⟨_, _, h⟩ := s.inject_frame p; rw [h]
@[simp] theorem State.inject_lnk (p : Packet) : (s.inject p).lnk = s.lnk := by
  obtain ⟨_, _, h⟩ := s.inject_frame p; rw [h]
@[simp] theorem State.inject_host (p : Packet) : (s.inject p).host = s.host := by
  obtain ⟨_, _, h⟩ := s.inject_frame p; rw [h]
@[simp] theorem State.inject_funcs (p : Packet) : (s.inject p).funcs = s.funcs := by
  obtain ⟨_, _, h⟩ := s.inject_frame p; rw [h]
@[simp] theorem State.inject_rings (p : Packet) : (s.inject p).rings = s.rings := by
  obtain ⟨_, _, h⟩ := s.inject_frame p; rw [h]
@[simp] theorem State.inject_tenants (p : Packet) : (s.inject p).tenants = s.tenants := by
  obtain ⟨_, _, h⟩ := s.inject_frame p; rw [h]
@[simp] theorem State.inject_keys (p : Packet) : (s.inject p).keys = s.keys := by
  obtain ⟨_, _, h⟩ := s.inject_frame p; rw [h]
@[simp] theorem State.inject_xsvc (p : Packet) : (s.inject p).xsvc = s.xsvc := by
  obtain ⟨_, _, h⟩ := s.inject_frame p; rw [h]
@[simp] theorem State.inject_hostMem (p : Packet) : (s.inject p).hostMem = s.hostMem := by
  obtain ⟨_, _, h⟩ := s.inject_frame p; rw [h]
@[simp] theorem State.inject_regions (p : Packet) : (s.inject p).regions = s.regions := by
  obtain ⟨_, _, h⟩ := s.inject_frame p; rw [h]
@[simp] theorem State.inject_loads (p : Packet) : (s.inject p).loads = s.loads := by
  obtain ⟨_, _, h⟩ := s.inject_frame p; rw [h]
@[simp] theorem State.inject_lports (p : Packet) : (s.inject p).lports = s.lports := by
  obtain ⟨_, _, h⟩ := s.inject_frame p; rw [h]
@[simp] theorem State.inject_lgc (p : Packet) : (s.inject p).lgc = s.lgc := by
  obtain ⟨_, _, h⟩ := s.inject_frame p; rw [h]
@[simp] theorem State.inject_integ (p : Packet) : (s.inject p).integ = s.integ := by
  obtain ⟨_, _, h⟩ := s.inject_frame p; rw [h]
@[simp] theorem State.inject_bup (p : Packet) : (s.inject p).bup = s.bup := by
  obtain ⟨_, _, h⟩ := s.inject_frame p; rw [h]
@[simp] theorem State.inject_health (p : Packet) : (s.inject p).health = s.health := by
  obtain ⟨_, _, h⟩ := s.inject_frame p; rw [h]
@[simp] theorem State.inject_board (p : Packet) : (s.inject p).board = s.board := by
  obtain ⟨_, _, h⟩ := s.inject_frame p; rw [h]
@[simp] theorem State.inject_answer (p : Packet) : (s.inject p).answer = s.answer := by
  obtain ⟨_, _, h⟩ := s.inject_frame p; rw [h]
@[simp] theorem State.inject_freeCount (p : Packet) : (s.inject p).freeCount = s.freeCount := by
  obtain ⟨_, _, h⟩ := s.inject_frame p; rw [h]
@[simp] theorem State.inject_pending (p : Packet) : (s.inject p).pending = s.pending := by
  obtain ⟨_, _, h⟩ := s.inject_frame p; rw [h]

/-! ### `State.respond` -/

theorem State.respond_frame (p : Packet) (op : PktOp) (st : Status) (data : List Byte) : ∃ x0 x1, s.respond p op st data = { s with net := x0, routers := x1 } :=
  by
  unfold State.respond
  exact s.inject_frame _
@[simp] theorem State.respond_part (p : Packet) (op : PktOp) (st : Status) (data : List Byte) : (s.respond p op st data).part = s.part := by
  obtain ⟨_, _, h⟩ := s.respond_frame p op st data; rw [h]
@[simp] theorem State.respond_tick (p : Packet) (op : PktOp) (st : Status) (data : List Byte) : (s.respond p op st data).tick = s.tick := by
  obtain ⟨_, _, h⟩ := s.respond_frame p op st data; rw [h]
@[simp] theorem State.respond_cap (p : Packet) (op : PktOp) (st : Status) (data : List Byte) : (s.respond p op st data).cap = s.cap := by
  obtain ⟨_, _, h⟩ := s.respond_frame p op st data; rw [h]
@[simp] theorem State.respond_parts (p : Packet) (op : PktOp) (st : Status) (data : List Byte) : (s.respond p op st data).parts = s.parts := by
  obtain ⟨_, _, h⟩ := s.respond_frame p op st data; rw [h]
@[simp] theorem State.respond_tiles (p : Packet) (op : PktOp) (st : Status) (data : List Byte) : (s.respond p op st data).tiles = s.tiles := by
  obtain ⟨_, _, h⟩ := s.respond_frame p op st data; rw [h]
@[simp] theorem State.respond_mem (p : Packet) (op : PktOp) (st : Status) (data : List Byte) : (s.respond p op st data).mem = s.mem := by
  obtain ⟨_, _, h⟩ := s.respond_frame p op st data; rw [h]
@[simp] theorem State.respond_bad (p : Packet) (op : PktOp) (st : Status) (data : List Byte) : (s.respond p op st data).bad = s.bad := by
  obtain ⟨_, _, h⟩ := s.respond_frame p op st data; rw [h]
@[simp] theorem State.respond_accesses (p : Packet) (op : PktOp) (st : Status) (data : List Byte) : (s.respond p op st data).accesses = s.accesses := by
  obtain ⟨_, _, h⟩ := s.respond_frame p op st data; rw [h]
@[simp] theorem State.respond_hbm (p : Packet) (op : PktOp) (st : Status) (data : List Byte) : (s.respond p op st data).hbm = s.hbm := by
  obtain ⟨_, _, h⟩ := s.respond_frame p op st data; rw [h]
@[simp] theorem State.respond_fab (p : Packet) (op : PktOp) (st : Status) (data : List Byte) : (s.respond p op st data).fab = s.fab := by
  obtain ⟨_, _, h⟩ := s.respond_frame p op st data; rw [h]
@[simp] theorem State.respond_links (p : Packet) (op : PktOp) (st : Status) (data : List Byte) : (s.respond p op st data).links = s.links := by
  obtain ⟨_, _, h⟩ := s.respond_frame p op st data; rw [h]
@[simp] theorem State.respond_lnk (p : Packet) (op : PktOp) (st : Status) (data : List Byte) : (s.respond p op st data).lnk = s.lnk := by
  obtain ⟨_, _, h⟩ := s.respond_frame p op st data; rw [h]
@[simp] theorem State.respond_host (p : Packet) (op : PktOp) (st : Status) (data : List Byte) : (s.respond p op st data).host = s.host := by
  obtain ⟨_, _, h⟩ := s.respond_frame p op st data; rw [h]
@[simp] theorem State.respond_funcs (p : Packet) (op : PktOp) (st : Status) (data : List Byte) : (s.respond p op st data).funcs = s.funcs := by
  obtain ⟨_, _, h⟩ := s.respond_frame p op st data; rw [h]
@[simp] theorem State.respond_rings (p : Packet) (op : PktOp) (st : Status) (data : List Byte) : (s.respond p op st data).rings = s.rings := by
  obtain ⟨_, _, h⟩ := s.respond_frame p op st data; rw [h]
@[simp] theorem State.respond_tenants (p : Packet) (op : PktOp) (st : Status) (data : List Byte) : (s.respond p op st data).tenants = s.tenants := by
  obtain ⟨_, _, h⟩ := s.respond_frame p op st data; rw [h]
@[simp] theorem State.respond_keys (p : Packet) (op : PktOp) (st : Status) (data : List Byte) : (s.respond p op st data).keys = s.keys := by
  obtain ⟨_, _, h⟩ := s.respond_frame p op st data; rw [h]
@[simp] theorem State.respond_xsvc (p : Packet) (op : PktOp) (st : Status) (data : List Byte) : (s.respond p op st data).xsvc = s.xsvc := by
  obtain ⟨_, _, h⟩ := s.respond_frame p op st data; rw [h]
@[simp] theorem State.respond_hostMem (p : Packet) (op : PktOp) (st : Status) (data : List Byte) : (s.respond p op st data).hostMem = s.hostMem := by
  obtain ⟨_, _, h⟩ := s.respond_frame p op st data; rw [h]
@[simp] theorem State.respond_regions (p : Packet) (op : PktOp) (st : Status) (data : List Byte) : (s.respond p op st data).regions = s.regions := by
  obtain ⟨_, _, h⟩ := s.respond_frame p op st data; rw [h]
@[simp] theorem State.respond_loads (p : Packet) (op : PktOp) (st : Status) (data : List Byte) : (s.respond p op st data).loads = s.loads := by
  obtain ⟨_, _, h⟩ := s.respond_frame p op st data; rw [h]
@[simp] theorem State.respond_lports (p : Packet) (op : PktOp) (st : Status) (data : List Byte) : (s.respond p op st data).lports = s.lports := by
  obtain ⟨_, _, h⟩ := s.respond_frame p op st data; rw [h]
@[simp] theorem State.respond_lgc (p : Packet) (op : PktOp) (st : Status) (data : List Byte) : (s.respond p op st data).lgc = s.lgc := by
  obtain ⟨_, _, h⟩ := s.respond_frame p op st data; rw [h]
@[simp] theorem State.respond_integ (p : Packet) (op : PktOp) (st : Status) (data : List Byte) : (s.respond p op st data).integ = s.integ := by
  obtain ⟨_, _, h⟩ := s.respond_frame p op st data; rw [h]
@[simp] theorem State.respond_bup (p : Packet) (op : PktOp) (st : Status) (data : List Byte) : (s.respond p op st data).bup = s.bup := by
  obtain ⟨_, _, h⟩ := s.respond_frame p op st data; rw [h]
@[simp] theorem State.respond_health (p : Packet) (op : PktOp) (st : Status) (data : List Byte) : (s.respond p op st data).health = s.health := by
  obtain ⟨_, _, h⟩ := s.respond_frame p op st data; rw [h]
@[simp] theorem State.respond_board (p : Packet) (op : PktOp) (st : Status) (data : List Byte) : (s.respond p op st data).board = s.board := by
  obtain ⟨_, _, h⟩ := s.respond_frame p op st data; rw [h]
@[simp] theorem State.respond_answer (p : Packet) (op : PktOp) (st : Status) (data : List Byte) : (s.respond p op st data).answer = s.answer := by
  obtain ⟨_, _, h⟩ := s.respond_frame p op st data; rw [h]
@[simp] theorem State.respond_freeCount (p : Packet) (op : PktOp) (st : Status) (data : List Byte) : (s.respond p op st data).freeCount = s.freeCount := by
  obtain ⟨_, _, h⟩ := s.respond_frame p op st data; rw [h]
@[simp] theorem State.respond_pending (p : Packet) (op : PktOp) (st : Status) (data : List Byte) : (s.respond p op st data).pending = s.pending := by
  obtain ⟨_, _, h⟩ := s.respond_frame p op st data; rw [h]

/-! ### `State.sendMsg` -/

theorem State.sendMsg_frame (src dst : Endpoint) (m : Msg) (part : Nat) (epoch : Byte) (tenant : Nat) : ∃ x0 x1, s.sendMsg src dst m part epoch tenant = { s with net := x0, routers := x1 } :=
  by
  unfold State.sendMsg
  exact s.inject_frame _
@[simp] theorem State.sendMsg_part (src dst : Endpoint) (m : Msg) (part : Nat) (epoch : Byte) (tenant : Nat) : (s.sendMsg src dst m part epoch tenant).part = s.part := by
  obtain ⟨_, _, h⟩ := s.sendMsg_frame src dst m part epoch tenant; rw [h]
@[simp] theorem State.sendMsg_tick (src dst : Endpoint) (m : Msg) (part : Nat) (epoch : Byte) (tenant : Nat) : (s.sendMsg src dst m part epoch tenant).tick = s.tick := by
  obtain ⟨_, _, h⟩ := s.sendMsg_frame src dst m part epoch tenant; rw [h]
@[simp] theorem State.sendMsg_cap (src dst : Endpoint) (m : Msg) (part : Nat) (epoch : Byte) (tenant : Nat) : (s.sendMsg src dst m part epoch tenant).cap = s.cap := by
  obtain ⟨_, _, h⟩ := s.sendMsg_frame src dst m part epoch tenant; rw [h]
@[simp] theorem State.sendMsg_parts (src dst : Endpoint) (m : Msg) (part : Nat) (epoch : Byte) (tenant : Nat) : (s.sendMsg src dst m part epoch tenant).parts = s.parts := by
  obtain ⟨_, _, h⟩ := s.sendMsg_frame src dst m part epoch tenant; rw [h]
@[simp] theorem State.sendMsg_tiles (src dst : Endpoint) (m : Msg) (part : Nat) (epoch : Byte) (tenant : Nat) : (s.sendMsg src dst m part epoch tenant).tiles = s.tiles := by
  obtain ⟨_, _, h⟩ := s.sendMsg_frame src dst m part epoch tenant; rw [h]
@[simp] theorem State.sendMsg_mem (src dst : Endpoint) (m : Msg) (part : Nat) (epoch : Byte) (tenant : Nat) : (s.sendMsg src dst m part epoch tenant).mem = s.mem := by
  obtain ⟨_, _, h⟩ := s.sendMsg_frame src dst m part epoch tenant; rw [h]
@[simp] theorem State.sendMsg_bad (src dst : Endpoint) (m : Msg) (part : Nat) (epoch : Byte) (tenant : Nat) : (s.sendMsg src dst m part epoch tenant).bad = s.bad := by
  obtain ⟨_, _, h⟩ := s.sendMsg_frame src dst m part epoch tenant; rw [h]
@[simp] theorem State.sendMsg_accesses (src dst : Endpoint) (m : Msg) (part : Nat) (epoch : Byte) (tenant : Nat) : (s.sendMsg src dst m part epoch tenant).accesses = s.accesses := by
  obtain ⟨_, _, h⟩ := s.sendMsg_frame src dst m part epoch tenant; rw [h]
@[simp] theorem State.sendMsg_hbm (src dst : Endpoint) (m : Msg) (part : Nat) (epoch : Byte) (tenant : Nat) : (s.sendMsg src dst m part epoch tenant).hbm = s.hbm := by
  obtain ⟨_, _, h⟩ := s.sendMsg_frame src dst m part epoch tenant; rw [h]
@[simp] theorem State.sendMsg_fab (src dst : Endpoint) (m : Msg) (part : Nat) (epoch : Byte) (tenant : Nat) : (s.sendMsg src dst m part epoch tenant).fab = s.fab := by
  obtain ⟨_, _, h⟩ := s.sendMsg_frame src dst m part epoch tenant; rw [h]
@[simp] theorem State.sendMsg_links (src dst : Endpoint) (m : Msg) (part : Nat) (epoch : Byte) (tenant : Nat) : (s.sendMsg src dst m part epoch tenant).links = s.links := by
  obtain ⟨_, _, h⟩ := s.sendMsg_frame src dst m part epoch tenant; rw [h]
@[simp] theorem State.sendMsg_lnk (src dst : Endpoint) (m : Msg) (part : Nat) (epoch : Byte) (tenant : Nat) : (s.sendMsg src dst m part epoch tenant).lnk = s.lnk := by
  obtain ⟨_, _, h⟩ := s.sendMsg_frame src dst m part epoch tenant; rw [h]
@[simp] theorem State.sendMsg_host (src dst : Endpoint) (m : Msg) (part : Nat) (epoch : Byte) (tenant : Nat) : (s.sendMsg src dst m part epoch tenant).host = s.host := by
  obtain ⟨_, _, h⟩ := s.sendMsg_frame src dst m part epoch tenant; rw [h]
@[simp] theorem State.sendMsg_funcs (src dst : Endpoint) (m : Msg) (part : Nat) (epoch : Byte) (tenant : Nat) : (s.sendMsg src dst m part epoch tenant).funcs = s.funcs := by
  obtain ⟨_, _, h⟩ := s.sendMsg_frame src dst m part epoch tenant; rw [h]
@[simp] theorem State.sendMsg_rings (src dst : Endpoint) (m : Msg) (part : Nat) (epoch : Byte) (tenant : Nat) : (s.sendMsg src dst m part epoch tenant).rings = s.rings := by
  obtain ⟨_, _, h⟩ := s.sendMsg_frame src dst m part epoch tenant; rw [h]
@[simp] theorem State.sendMsg_tenants (src dst : Endpoint) (m : Msg) (part : Nat) (epoch : Byte) (tenant : Nat) : (s.sendMsg src dst m part epoch tenant).tenants = s.tenants := by
  obtain ⟨_, _, h⟩ := s.sendMsg_frame src dst m part epoch tenant; rw [h]
@[simp] theorem State.sendMsg_keys (src dst : Endpoint) (m : Msg) (part : Nat) (epoch : Byte) (tenant : Nat) : (s.sendMsg src dst m part epoch tenant).keys = s.keys := by
  obtain ⟨_, _, h⟩ := s.sendMsg_frame src dst m part epoch tenant; rw [h]
@[simp] theorem State.sendMsg_xsvc (src dst : Endpoint) (m : Msg) (part : Nat) (epoch : Byte) (tenant : Nat) : (s.sendMsg src dst m part epoch tenant).xsvc = s.xsvc := by
  obtain ⟨_, _, h⟩ := s.sendMsg_frame src dst m part epoch tenant; rw [h]
@[simp] theorem State.sendMsg_hostMem (src dst : Endpoint) (m : Msg) (part : Nat) (epoch : Byte) (tenant : Nat) : (s.sendMsg src dst m part epoch tenant).hostMem = s.hostMem := by
  obtain ⟨_, _, h⟩ := s.sendMsg_frame src dst m part epoch tenant; rw [h]
@[simp] theorem State.sendMsg_regions (src dst : Endpoint) (m : Msg) (part : Nat) (epoch : Byte) (tenant : Nat) : (s.sendMsg src dst m part epoch tenant).regions = s.regions := by
  obtain ⟨_, _, h⟩ := s.sendMsg_frame src dst m part epoch tenant; rw [h]
@[simp] theorem State.sendMsg_loads (src dst : Endpoint) (m : Msg) (part : Nat) (epoch : Byte) (tenant : Nat) : (s.sendMsg src dst m part epoch tenant).loads = s.loads := by
  obtain ⟨_, _, h⟩ := s.sendMsg_frame src dst m part epoch tenant; rw [h]
@[simp] theorem State.sendMsg_lports (src dst : Endpoint) (m : Msg) (part : Nat) (epoch : Byte) (tenant : Nat) : (s.sendMsg src dst m part epoch tenant).lports = s.lports := by
  obtain ⟨_, _, h⟩ := s.sendMsg_frame src dst m part epoch tenant; rw [h]
@[simp] theorem State.sendMsg_lgc (src dst : Endpoint) (m : Msg) (part : Nat) (epoch : Byte) (tenant : Nat) : (s.sendMsg src dst m part epoch tenant).lgc = s.lgc := by
  obtain ⟨_, _, h⟩ := s.sendMsg_frame src dst m part epoch tenant; rw [h]
@[simp] theorem State.sendMsg_integ (src dst : Endpoint) (m : Msg) (part : Nat) (epoch : Byte) (tenant : Nat) : (s.sendMsg src dst m part epoch tenant).integ = s.integ := by
  obtain ⟨_, _, h⟩ := s.sendMsg_frame src dst m part epoch tenant; rw [h]
@[simp] theorem State.sendMsg_bup (src dst : Endpoint) (m : Msg) (part : Nat) (epoch : Byte) (tenant : Nat) : (s.sendMsg src dst m part epoch tenant).bup = s.bup := by
  obtain ⟨_, _, h⟩ := s.sendMsg_frame src dst m part epoch tenant; rw [h]
@[simp] theorem State.sendMsg_health (src dst : Endpoint) (m : Msg) (part : Nat) (epoch : Byte) (tenant : Nat) : (s.sendMsg src dst m part epoch tenant).health = s.health := by
  obtain ⟨_, _, h⟩ := s.sendMsg_frame src dst m part epoch tenant; rw [h]
@[simp] theorem State.sendMsg_board (src dst : Endpoint) (m : Msg) (part : Nat) (epoch : Byte) (tenant : Nat) : (s.sendMsg src dst m part epoch tenant).board = s.board := by
  obtain ⟨_, _, h⟩ := s.sendMsg_frame src dst m part epoch tenant; rw [h]
@[simp] theorem State.sendMsg_answer (src dst : Endpoint) (m : Msg) (part : Nat) (epoch : Byte) (tenant : Nat) : (s.sendMsg src dst m part epoch tenant).answer = s.answer := by
  obtain ⟨_, _, h⟩ := s.sendMsg_frame src dst m part epoch tenant; rw [h]
@[simp] theorem State.sendMsg_freeCount (src dst : Endpoint) (m : Msg) (part : Nat) (epoch : Byte) (tenant : Nat) : (s.sendMsg src dst m part epoch tenant).freeCount = s.freeCount := by
  obtain ⟨_, _, h⟩ := s.sendMsg_frame src dst m part epoch tenant; rw [h]
@[simp] theorem State.sendMsg_pending (src dst : Endpoint) (m : Msg) (part : Nat) (epoch : Byte) (tenant : Nat) : (s.sendMsg src dst m part epoch tenant).pending = s.pending := by
  obtain ⟨_, _, h⟩ := s.sendMsg_frame src dst m part epoch tenant; rw [h]

/-! ### `State.issue` -/

theorem State.countHeld_frame (i : Issuer) : ∃ x0, s.countHeld i = { s with routers := x0 } := by
  cases i <;> exact ⟨_, rfl⟩

theorem State.issue_frame (a : Access) : ∃ x0 x1 x2, s.issue a = { s with accesses := x0, net := x1, routers := x2 } := by
  unfold State.issue
  dsimp only
  split
  · obtain ⟨r, h⟩ := State.countHeld_frame { s with net := { s.net with stamp := s.net.stamp + 1 }, accesses := s.accesses ++
      [{ a.stamped s.net.stamp with held := true }] } (a.stamped s.net.stamp).issuer
    exact ⟨_, _, r, h⟩
  · exact ⟨_, _, _, rfl⟩
@[simp] theorem State.issue_part (a : Access) : (s.issue a).part = s.part := by
  obtain ⟨_, _, _, h⟩ := s.issue_frame a; rw [h]
@[simp] theorem State.issue_tick (a : Access) : (s.issue a).tick = s.tick := by
  obtain ⟨_, _, _, h⟩ := s.issue_frame a; rw [h]
@[simp] theorem State.issue_cap (a : Access) : (s.issue a).cap = s.cap := by
  obtain ⟨_, _, _, h⟩ := s.issue_frame a; rw [h]
@[simp] theorem State.issue_parts (a : Access) : (s.issue a).parts = s.parts := by
  obtain ⟨_, _, _, h⟩ := s.issue_frame a; rw [h]
@[simp] theorem State.issue_tiles (a : Access) : (s.issue a).tiles = s.tiles := by
  obtain ⟨_, _, _, h⟩ := s.issue_frame a; rw [h]
@[simp] theorem State.issue_mem (a : Access) : (s.issue a).mem = s.mem := by
  obtain ⟨_, _, _, h⟩ := s.issue_frame a; rw [h]
@[simp] theorem State.issue_bad (a : Access) : (s.issue a).bad = s.bad := by
  obtain ⟨_, _, _, h⟩ := s.issue_frame a; rw [h]
@[simp] theorem State.issue_hbm (a : Access) : (s.issue a).hbm = s.hbm := by
  obtain ⟨_, _, _, h⟩ := s.issue_frame a; rw [h]
@[simp] theorem State.issue_fab (a : Access) : (s.issue a).fab = s.fab := by
  obtain ⟨_, _, _, h⟩ := s.issue_frame a; rw [h]
@[simp] theorem State.issue_links (a : Access) : (s.issue a).links = s.links := by
  obtain ⟨_, _, _, h⟩ := s.issue_frame a; rw [h]
@[simp] theorem State.issue_lnk (a : Access) : (s.issue a).lnk = s.lnk := by
  obtain ⟨_, _, _, h⟩ := s.issue_frame a; rw [h]
@[simp] theorem State.issue_host (a : Access) : (s.issue a).host = s.host := by
  obtain ⟨_, _, _, h⟩ := s.issue_frame a; rw [h]
@[simp] theorem State.issue_funcs (a : Access) : (s.issue a).funcs = s.funcs := by
  obtain ⟨_, _, _, h⟩ := s.issue_frame a; rw [h]
@[simp] theorem State.issue_rings (a : Access) : (s.issue a).rings = s.rings := by
  obtain ⟨_, _, _, h⟩ := s.issue_frame a; rw [h]
@[simp] theorem State.issue_tenants (a : Access) : (s.issue a).tenants = s.tenants := by
  obtain ⟨_, _, _, h⟩ := s.issue_frame a; rw [h]
@[simp] theorem State.issue_keys (a : Access) : (s.issue a).keys = s.keys := by
  obtain ⟨_, _, _, h⟩ := s.issue_frame a; rw [h]
@[simp] theorem State.issue_xsvc (a : Access) : (s.issue a).xsvc = s.xsvc := by
  obtain ⟨_, _, _, h⟩ := s.issue_frame a; rw [h]
@[simp] theorem State.issue_hostMem (a : Access) : (s.issue a).hostMem = s.hostMem := by
  obtain ⟨_, _, _, h⟩ := s.issue_frame a; rw [h]
@[simp] theorem State.issue_regions (a : Access) : (s.issue a).regions = s.regions := by
  obtain ⟨_, _, _, h⟩ := s.issue_frame a; rw [h]
@[simp] theorem State.issue_loads (a : Access) : (s.issue a).loads = s.loads := by
  obtain ⟨_, _, _, h⟩ := s.issue_frame a; rw [h]
@[simp] theorem State.issue_lports (a : Access) : (s.issue a).lports = s.lports := by
  obtain ⟨_, _, _, h⟩ := s.issue_frame a; rw [h]
@[simp] theorem State.issue_lgc (a : Access) : (s.issue a).lgc = s.lgc := by
  obtain ⟨_, _, _, h⟩ := s.issue_frame a; rw [h]
@[simp] theorem State.issue_integ (a : Access) : (s.issue a).integ = s.integ := by
  obtain ⟨_, _, _, h⟩ := s.issue_frame a; rw [h]
@[simp] theorem State.issue_bup (a : Access) : (s.issue a).bup = s.bup := by
  obtain ⟨_, _, _, h⟩ := s.issue_frame a; rw [h]
@[simp] theorem State.issue_health (a : Access) : (s.issue a).health = s.health := by
  obtain ⟨_, _, _, h⟩ := s.issue_frame a; rw [h]
@[simp] theorem State.issue_board (a : Access) : (s.issue a).board = s.board := by
  obtain ⟨_, _, _, h⟩ := s.issue_frame a; rw [h]
@[simp] theorem State.issue_answer (a : Access) : (s.issue a).answer = s.answer := by
  obtain ⟨_, _, _, h⟩ := s.issue_frame a; rw [h]
@[simp] theorem State.issue_freeCount (a : Access) : (s.issue a).freeCount = s.freeCount := by
  obtain ⟨_, _, _, h⟩ := s.issue_frame a; rw [h]
@[simp] theorem State.issue_pending (a : Access) : (s.issue a).pending = s.pending := by
  obtain ⟨_, _, _, h⟩ := s.issue_frame a; rw [h]

/-! ### `State.releaseHeld` -/

theorem State.releaseHeld_frame (i : Issuer) (k : Nat) : ∃ x0 x1 x2, s.releaseHeld i k = { s with accesses := x0, net := x1, routers := x2 } :=
  by
  induction k generalizing s with
  | zero => exact ⟨_, _, _, rfl⟩
  | succ k ih =>
    unfold State.releaseHeld
    split
    · exact ⟨_, _, _, rfl⟩
    · split
      · exact ⟨_, _, _, rfl⟩
      · rename_i a _ _
        obtain ⟨x, y, z, h⟩ := ih (State.inject { s with accesses := s.accesses.map (fun (b : Access) =>
          if b.issuer = i ∧ b.tag = a.tag then { b with held := false, tick := s.tick.count } else b) } a.req)
        exact ⟨x, y, z, h⟩
@[simp] theorem State.releaseHeld_part (i : Issuer) (k : Nat) : (s.releaseHeld i k).part = s.part := by
  obtain ⟨_, _, _, h⟩ := s.releaseHeld_frame i k; rw [h]
@[simp] theorem State.releaseHeld_tick (i : Issuer) (k : Nat) : (s.releaseHeld i k).tick = s.tick := by
  obtain ⟨_, _, _, h⟩ := s.releaseHeld_frame i k; rw [h]
@[simp] theorem State.releaseHeld_cap (i : Issuer) (k : Nat) : (s.releaseHeld i k).cap = s.cap := by
  obtain ⟨_, _, _, h⟩ := s.releaseHeld_frame i k; rw [h]
@[simp] theorem State.releaseHeld_parts (i : Issuer) (k : Nat) : (s.releaseHeld i k).parts = s.parts := by
  obtain ⟨_, _, _, h⟩ := s.releaseHeld_frame i k; rw [h]
@[simp] theorem State.releaseHeld_tiles (i : Issuer) (k : Nat) : (s.releaseHeld i k).tiles = s.tiles := by
  obtain ⟨_, _, _, h⟩ := s.releaseHeld_frame i k; rw [h]
@[simp] theorem State.releaseHeld_mem (i : Issuer) (k : Nat) : (s.releaseHeld i k).mem = s.mem := by
  obtain ⟨_, _, _, h⟩ := s.releaseHeld_frame i k; rw [h]
@[simp] theorem State.releaseHeld_bad (i : Issuer) (k : Nat) : (s.releaseHeld i k).bad = s.bad := by
  obtain ⟨_, _, _, h⟩ := s.releaseHeld_frame i k; rw [h]
@[simp] theorem State.releaseHeld_hbm (i : Issuer) (k : Nat) : (s.releaseHeld i k).hbm = s.hbm := by
  obtain ⟨_, _, _, h⟩ := s.releaseHeld_frame i k; rw [h]
@[simp] theorem State.releaseHeld_fab (i : Issuer) (k : Nat) : (s.releaseHeld i k).fab = s.fab := by
  obtain ⟨_, _, _, h⟩ := s.releaseHeld_frame i k; rw [h]
@[simp] theorem State.releaseHeld_links (i : Issuer) (k : Nat) : (s.releaseHeld i k).links = s.links := by
  obtain ⟨_, _, _, h⟩ := s.releaseHeld_frame i k; rw [h]
@[simp] theorem State.releaseHeld_lnk (i : Issuer) (k : Nat) : (s.releaseHeld i k).lnk = s.lnk := by
  obtain ⟨_, _, _, h⟩ := s.releaseHeld_frame i k; rw [h]
@[simp] theorem State.releaseHeld_host (i : Issuer) (k : Nat) : (s.releaseHeld i k).host = s.host := by
  obtain ⟨_, _, _, h⟩ := s.releaseHeld_frame i k; rw [h]
@[simp] theorem State.releaseHeld_funcs (i : Issuer) (k : Nat) : (s.releaseHeld i k).funcs = s.funcs := by
  obtain ⟨_, _, _, h⟩ := s.releaseHeld_frame i k; rw [h]
@[simp] theorem State.releaseHeld_rings (i : Issuer) (k : Nat) : (s.releaseHeld i k).rings = s.rings := by
  obtain ⟨_, _, _, h⟩ := s.releaseHeld_frame i k; rw [h]
@[simp] theorem State.releaseHeld_tenants (i : Issuer) (k : Nat) : (s.releaseHeld i k).tenants = s.tenants := by
  obtain ⟨_, _, _, h⟩ := s.releaseHeld_frame i k; rw [h]
@[simp] theorem State.releaseHeld_keys (i : Issuer) (k : Nat) : (s.releaseHeld i k).keys = s.keys := by
  obtain ⟨_, _, _, h⟩ := s.releaseHeld_frame i k; rw [h]
@[simp] theorem State.releaseHeld_xsvc (i : Issuer) (k : Nat) : (s.releaseHeld i k).xsvc = s.xsvc := by
  obtain ⟨_, _, _, h⟩ := s.releaseHeld_frame i k; rw [h]
@[simp] theorem State.releaseHeld_hostMem (i : Issuer) (k : Nat) : (s.releaseHeld i k).hostMem = s.hostMem := by
  obtain ⟨_, _, _, h⟩ := s.releaseHeld_frame i k; rw [h]
@[simp] theorem State.releaseHeld_regions (i : Issuer) (k : Nat) : (s.releaseHeld i k).regions = s.regions := by
  obtain ⟨_, _, _, h⟩ := s.releaseHeld_frame i k; rw [h]
@[simp] theorem State.releaseHeld_loads (i : Issuer) (k : Nat) : (s.releaseHeld i k).loads = s.loads := by
  obtain ⟨_, _, _, h⟩ := s.releaseHeld_frame i k; rw [h]
@[simp] theorem State.releaseHeld_lports (i : Issuer) (k : Nat) : (s.releaseHeld i k).lports = s.lports := by
  obtain ⟨_, _, _, h⟩ := s.releaseHeld_frame i k; rw [h]
@[simp] theorem State.releaseHeld_lgc (i : Issuer) (k : Nat) : (s.releaseHeld i k).lgc = s.lgc := by
  obtain ⟨_, _, _, h⟩ := s.releaseHeld_frame i k; rw [h]
@[simp] theorem State.releaseHeld_integ (i : Issuer) (k : Nat) : (s.releaseHeld i k).integ = s.integ := by
  obtain ⟨_, _, _, h⟩ := s.releaseHeld_frame i k; rw [h]
@[simp] theorem State.releaseHeld_bup (i : Issuer) (k : Nat) : (s.releaseHeld i k).bup = s.bup := by
  obtain ⟨_, _, _, h⟩ := s.releaseHeld_frame i k; rw [h]
@[simp] theorem State.releaseHeld_health (i : Issuer) (k : Nat) : (s.releaseHeld i k).health = s.health := by
  obtain ⟨_, _, _, h⟩ := s.releaseHeld_frame i k; rw [h]
@[simp] theorem State.releaseHeld_board (i : Issuer) (k : Nat) : (s.releaseHeld i k).board = s.board := by
  obtain ⟨_, _, _, h⟩ := s.releaseHeld_frame i k; rw [h]
@[simp] theorem State.releaseHeld_answer (i : Issuer) (k : Nat) : (s.releaseHeld i k).answer = s.answer := by
  obtain ⟨_, _, _, h⟩ := s.releaseHeld_frame i k; rw [h]
@[simp] theorem State.releaseHeld_freeCount (i : Issuer) (k : Nat) : (s.releaseHeld i k).freeCount = s.freeCount := by
  obtain ⟨_, _, _, h⟩ := s.releaseHeld_frame i k; rw [h]
@[simp] theorem State.releaseHeld_pending (i : Issuer) (k : Nat) : (s.releaseHeld i k).pending = s.pending := by
  obtain ⟨_, _, _, h⟩ := s.releaseHeld_frame i k; rw [h]

/-! ### `State.retire` -/

theorem State.retire_frame (i : Issuer) (tag : Nat) : ∃ x0 x1 x2, s.retire i tag = { s with accesses := x0, net := x1, routers := x2 } :=
  by
  unfold State.retire
  obtain ⟨x, y, z, h⟩ := State.releaseHeld_frame { s with accesses := s.accesses.filter (fun a => !(a.issuer == i && a.tag == tag)) } i
    ({ s with accesses := s.accesses.filter (fun a => !(a.issuer == i && a.tag == tag)) }.accessesOf i).length
  rw [h]
  exact ⟨x, y, z, rfl⟩
@[simp] theorem State.retire_part (i : Issuer) (tag : Nat) : (s.retire i tag).part = s.part := by
  obtain ⟨_, _, _, h⟩ := s.retire_frame i tag; rw [h]
@[simp] theorem State.retire_tick (i : Issuer) (tag : Nat) : (s.retire i tag).tick = s.tick := by
  obtain ⟨_, _, _, h⟩ := s.retire_frame i tag; rw [h]
@[simp] theorem State.retire_cap (i : Issuer) (tag : Nat) : (s.retire i tag).cap = s.cap := by
  obtain ⟨_, _, _, h⟩ := s.retire_frame i tag; rw [h]
@[simp] theorem State.retire_parts (i : Issuer) (tag : Nat) : (s.retire i tag).parts = s.parts := by
  obtain ⟨_, _, _, h⟩ := s.retire_frame i tag; rw [h]
@[simp] theorem State.retire_tiles (i : Issuer) (tag : Nat) : (s.retire i tag).tiles = s.tiles := by
  obtain ⟨_, _, _, h⟩ := s.retire_frame i tag; rw [h]
@[simp] theorem State.retire_mem (i : Issuer) (tag : Nat) : (s.retire i tag).mem = s.mem := by
  obtain ⟨_, _, _, h⟩ := s.retire_frame i tag; rw [h]
@[simp] theorem State.retire_bad (i : Issuer) (tag : Nat) : (s.retire i tag).bad = s.bad := by
  obtain ⟨_, _, _, h⟩ := s.retire_frame i tag; rw [h]
@[simp] theorem State.retire_hbm (i : Issuer) (tag : Nat) : (s.retire i tag).hbm = s.hbm := by
  obtain ⟨_, _, _, h⟩ := s.retire_frame i tag; rw [h]
@[simp] theorem State.retire_fab (i : Issuer) (tag : Nat) : (s.retire i tag).fab = s.fab := by
  obtain ⟨_, _, _, h⟩ := s.retire_frame i tag; rw [h]
@[simp] theorem State.retire_links (i : Issuer) (tag : Nat) : (s.retire i tag).links = s.links := by
  obtain ⟨_, _, _, h⟩ := s.retire_frame i tag; rw [h]
@[simp] theorem State.retire_lnk (i : Issuer) (tag : Nat) : (s.retire i tag).lnk = s.lnk := by
  obtain ⟨_, _, _, h⟩ := s.retire_frame i tag; rw [h]
@[simp] theorem State.retire_host (i : Issuer) (tag : Nat) : (s.retire i tag).host = s.host := by
  obtain ⟨_, _, _, h⟩ := s.retire_frame i tag; rw [h]
@[simp] theorem State.retire_funcs (i : Issuer) (tag : Nat) : (s.retire i tag).funcs = s.funcs := by
  obtain ⟨_, _, _, h⟩ := s.retire_frame i tag; rw [h]
@[simp] theorem State.retire_rings (i : Issuer) (tag : Nat) : (s.retire i tag).rings = s.rings := by
  obtain ⟨_, _, _, h⟩ := s.retire_frame i tag; rw [h]
@[simp] theorem State.retire_tenants (i : Issuer) (tag : Nat) : (s.retire i tag).tenants = s.tenants := by
  obtain ⟨_, _, _, h⟩ := s.retire_frame i tag; rw [h]
@[simp] theorem State.retire_keys (i : Issuer) (tag : Nat) : (s.retire i tag).keys = s.keys := by
  obtain ⟨_, _, _, h⟩ := s.retire_frame i tag; rw [h]
@[simp] theorem State.retire_xsvc (i : Issuer) (tag : Nat) : (s.retire i tag).xsvc = s.xsvc := by
  obtain ⟨_, _, _, h⟩ := s.retire_frame i tag; rw [h]
@[simp] theorem State.retire_hostMem (i : Issuer) (tag : Nat) : (s.retire i tag).hostMem = s.hostMem := by
  obtain ⟨_, _, _, h⟩ := s.retire_frame i tag; rw [h]
@[simp] theorem State.retire_regions (i : Issuer) (tag : Nat) : (s.retire i tag).regions = s.regions := by
  obtain ⟨_, _, _, h⟩ := s.retire_frame i tag; rw [h]
@[simp] theorem State.retire_loads (i : Issuer) (tag : Nat) : (s.retire i tag).loads = s.loads := by
  obtain ⟨_, _, _, h⟩ := s.retire_frame i tag; rw [h]
@[simp] theorem State.retire_lports (i : Issuer) (tag : Nat) : (s.retire i tag).lports = s.lports := by
  obtain ⟨_, _, _, h⟩ := s.retire_frame i tag; rw [h]
@[simp] theorem State.retire_lgc (i : Issuer) (tag : Nat) : (s.retire i tag).lgc = s.lgc := by
  obtain ⟨_, _, _, h⟩ := s.retire_frame i tag; rw [h]
@[simp] theorem State.retire_integ (i : Issuer) (tag : Nat) : (s.retire i tag).integ = s.integ := by
  obtain ⟨_, _, _, h⟩ := s.retire_frame i tag; rw [h]
@[simp] theorem State.retire_bup (i : Issuer) (tag : Nat) : (s.retire i tag).bup = s.bup := by
  obtain ⟨_, _, _, h⟩ := s.retire_frame i tag; rw [h]
@[simp] theorem State.retire_health (i : Issuer) (tag : Nat) : (s.retire i tag).health = s.health := by
  obtain ⟨_, _, _, h⟩ := s.retire_frame i tag; rw [h]
@[simp] theorem State.retire_board (i : Issuer) (tag : Nat) : (s.retire i tag).board = s.board := by
  obtain ⟨_, _, _, h⟩ := s.retire_frame i tag; rw [h]
@[simp] theorem State.retire_answer (i : Issuer) (tag : Nat) : (s.retire i tag).answer = s.answer := by
  obtain ⟨_, _, _, h⟩ := s.retire_frame i tag; rw [h]
@[simp] theorem State.retire_freeCount (i : Issuer) (tag : Nat) : (s.retire i tag).freeCount = s.freeCount := by
  obtain ⟨_, _, _, h⟩ := s.retire_frame i tag; rw [h]
@[simp] theorem State.retire_pending (i : Issuer) (tag : Nat) : (s.retire i tag).pending = s.pending := by
  obtain ⟨_, _, _, h⟩ := s.retire_frame i tag; rw [h]

end Sys2Proof.Machine
end

