-- ==== Sys2Proof/Laws/Fabric.lean ====
section
/-!
SUPPORT. What sending on a fabric port can do (11 R429 to R433, R452), and what the injection of a stream's request does to its tile
(07 R295 to R297): each lemma names every field of the state that the operation may change.
-/
namespace Sys2Proof.Machine

variable (s : State)

/-- A block that leaves changes its port and its link, and takes free values for its stamps. -/
theorem State.pushBlock_frame (q : Nat) (us : List FrameUnit) (times : Option (BitVec 11 × BitVec 6)) :
    ∃ x0 x1 x2, s.pushBlock q us times = { s with fab := x0, links := x1, freeCount := x2 } := by
  cases times <;> exact ⟨_, _, _, rfl⟩

theorem State.beginFrame_frame (q : Nat) (f : Frame) : ∃ x0, s.beginFrame q f = { s with fab := x0 } := ⟨_, rfl⟩

/-- Choosing the units of a block changes the fabric alone. -/
theorem State.fillUnits_frame (q n room : Nat) : ∃ x0, (s.fillUnits q n room).2 = { s with fab := x0 } := by
  induction n generalizing s room with
  | zero => exact ⟨s.fab, rfl⟩
  | succ n ih =>
    have after : ∀ (x : Fabric) (room : Nat), ∃ x0, (({ s with fab := x } : State).fillUnits q n room).2 = { s with fab := x0 } :=
      fun x room => (ih { s with fab := x } room).imp (fun _ h => h)
    unfold State.fillUnits
    split
    · split
      · exact after _ _
      · exact ⟨s.fab, rfl⟩
    · dsimp only
      split
      · exact ⟨s.fab, rfl⟩
      · split
        · exact after _ _
        · split
          · exact ⟨s.fab, rfl⟩
          · exact after _ _

/-- Sending what a port has queued changes the fabric, the links and the use of free values. -/
theorem State.drainPort_frame (q n : Nat) :
    ∃ x0 x1 x2, s.drainPort q n = { s with fab := x0, links := x1, freeCount := x2 } := by
  induction n generalizing s with
  | zero => exact ⟨s.fab, s.links, s.freeCount, rfl⟩
  | succ n ih =>
    unfold State.drainPort
    split
    · exact ⟨s.fab, s.links, s.freeCount, rfl⟩
    · dsimp only
      split
      · exact ⟨s.fab, s.links, s.freeCount, rfl⟩
      · obtain ⟨_, h⟩ := s.fillUnits_frame q 9 8
        obtain ⟨_, _, _, g⟩ := (s.fillUnits q 9 8).2.pushBlock_frame q (s.fillUnits q 9 8).1 none
        obtain ⟨a, b, c, e⟩ := ih ((s.fillUnits q 9 8).2.pushBlock q (s.fillUnits q 9 8).1 none)
        exact ⟨a, b, c, by rw [e, g, h]⟩

theorem State.drain_frame (q : Nat) : ∃ x0 x1 x2, s.drain q = { s with fab := x0, links := x1, freeCount := x2 } := s.drainPort_frame q _

/-- A frame given to a port changes the fabric, the links, the use of free values and, where its header is bad, the error log. -/
theorem State.portSend_frame (q : Nat) (f : Frame) :
    ∃ x0 x1 x2 x3, s.portSend q f = { s with fab := x0, links := x1, freeCount := x2, integ := x3 } := by
  unfold State.portSend
  split
  · obtain ⟨x, h⟩ := s.report_frame 6 4 q 0 0 none none 0
    exact ⟨s.fab, s.links, s.freeCount, x, h⟩
  · split
    · exact ⟨s.fab, s.links, s.freeCount, s.integ, rfl⟩
    · exact ⟨s.fab, s.links, s.freeCount, s.integ, rfl⟩
    · exact ⟨s.fab, s.links, s.freeCount, s.integ, rfl⟩
    · obtain ⟨a, b, c, e⟩ := (s.updFport q (fun p => { p with queue := p.queue ++ [f] })).drain_frame q
      exact ⟨a, b, c, s.integ, e⟩

/-- A stream counter changes its tile and what event counters that count it post. -/
theorem State.strCtr_frame (t off n : Nat) : ∃ x0 x1 x2 x3 x4, s.strCtr t off n =
    { s with tiles := x0, funcs := x1, host := x2, hostMem := x3, health := x4 } := by
  have one : ∀ k, ∃ x0 x1 x2 x3 x4, (s.evAdd t k n).updTile t (fun x => { x with str := { x.str with ctr := ctrAdd x.str.ctr off n } }) =
      { s with tiles := x0, funcs := x1, host := x2, hostMem := x3, health := x4 } := by
    intro k
    obtain ⟨_, _, _, _, h⟩ := s.evAdd_frame t k n
    rw [h]; exact ⟨_, _, _, _, _, rfl⟩
  unfold State.strCtr
  dsimp only
  split
  all_goals first | exact one _ | exact ⟨_, s.funcs, s.host, s.hostMem, s.health, rfl⟩

/-- A request that a stream injects is charged to its class on its own tile. -/
theorem State.chargeClass_frame (t : Nat) (op : PktOp) (n : Nat) (remote : Bool) : ∃ x0 x1 x2 x3 x4, s.chargeClass t op n remote =
    { s with tiles := x0, funcs := x1, host := x2, hostMem := x3, health := x4 } := by
  have step : ∀ (u : State) (off k : Nat), (∃ x0 x1 x2 x3 x4, u = { s with tiles := x0, funcs := x1, host := x2, hostMem := x3, health := x4 }) →
      ∃ x0 x1 x2 x3 x4, u.strCtr t off k = { s with tiles := x0, funcs := x1, host := x2, hostMem := x3, health := x4 } := by
    rintro u off k ⟨_, _, _, _, _, rfl⟩
    obtain ⟨_, _, _, _, _, h⟩ := State.strCtr_frame { s with tiles := _, funcs := _, host := _, hostMem := _, health := _ } t off k
    exact ⟨_, _, _, _, _, h⟩
  exact step _ _ _ (step _ _ _ ⟨_, s.funcs, s.host, s.hostMem, s.health, rfl⟩)

theorem State.portIdle_frame (t : Nat) : ∃ x0 x1, s.portIdle t = { s with tiles := x0, freeCount := x1 } := ⟨_, _, rfl⟩

end Sys2Proof.Machine
end

