-- ==== Sys2Proof/Laws/Issue.lean ====
section
/-!
SUPPORT. How a tile instruction issues: what an instruction that completes does to its thread and to the tile's counters, and
the fields of an S-format word.
-/
namespace Sys2Proof.Machine

variable (s : State)

/-- What counting in the sequencer's block can do (R268, R676). -/
theorem State.seqCtrAdd_frame (t off n : Nat) : ∃ a b c d, s.seqCtrAdd t off n =
    ({ s with funcs := a, host := b, hostMem := c, health := d }).updTile t (fun x => { x with seqCtr := ctrAdd x.seqCtr off n }) := by
  unfold State.seqCtrAdd
  split <;> first
    | (obtain ⟨a, b, c, d, h⟩ := s.evAdd_frame t _ n; rw [h]; exact ⟨a, b, c, d, rfl⟩)
    | exact ⟨_, _, _, _, rfl⟩

@[simp] theorem State.tile_setTile_same (t : Nat) (x : Tile) : (s.setTile t x).tile t = x := by
  simp [State.tile]
theorem State.tile_setTile_ne (t u : Nat) (x : Tile) (h : u ≠ t) : (s.setTile t x).tile u = s.tile u := by
  simp [State.tile, smGetD_smSet_ne _ _ _ _ _ h]
@[simp] theorem State.tile_updTile_same (t : Nat) (f : Tile → Tile) : (s.updTile t f).tile t = f (s.tile t) := by
  simp [State.tile]
theorem State.tile_updTile_ne (t u : Nat) (f : Tile → Tile) (h : u ≠ t) : (s.updTile t f).tile u = s.tile u := by
  simp [State.tile, smGetD_smSet_ne _ _ _ _ _ h]
@[simp] theorem Tile.th_setTh_same (x : Tile) (k : Nat) (h : Thread) : (x.setTh k h).th k = h := by
  simp [Tile.th, Tile.setTh]
theorem Tile.th_setTh_ne (x : Tile) (k j : Nat) (h : Thread) (hj : j ≠ k) : (x.setTh k h).th j = x.th j := by
  simp [Tile.th, Tile.setTh, smGetD_smSet_ne _ _ _ _ _ hj]
@[simp] theorem State.thread_updThread_same (t k : Nat) (f : Thread → Thread) :
    (s.updThread t k f).thread t k = f (s.thread t k) := by
  simp [State.updThread, State.thread, Tile.updTh]
theorem State.thread_updThread_ne (t k j : Nat) (f : Thread → Thread) (h : j ≠ k) :
    (s.updThread t k f).thread t j = s.thread t j := by
  simp [State.updThread, State.thread, Tile.updTh, Tile.th_setTh_ne _ _ _ _ h]
@[simp] theorem State.tile_updThread_same (t k : Nat) (f : Thread → Thread) :
    (s.updThread t k f).tile t = (s.tile t).updTh k f := by
  simp [State.updThread]
theorem State.tile_updThread_ne (t k u : Nat) (f : Thread → Thread) (h : u ≠ t) : (s.updThread t k f).tile u = s.tile u := by
  simp [State.updThread, State.tile_updTile_ne _ _ _ _ h]

@[simp] theorem State.updTile_updTile (t : Nat) (f g : Tile → Tile) :
    (s.updTile t f).updTile t g = s.updTile t (fun x => g (f x)) := by
  simp [State.updTile, State.setTile, State.tile]
@[simp] theorem State.updThread_updThread (t k : Nat) (f g : Thread → Thread) :
    (s.updThread t k f).updThread t k g = s.updThread t k (fun h => g (f h)) := by
  simp [State.updThread, Tile.updTh, Tile.setTh, Tile.th]

/-- An instruction that is about to issue, of the command's opcode: `issueAt` carries out its verdict. -/
theorem State.issueAt_of_issues {t thr w o : Nat} {ok : Nat → Bool} {run : Nat → State → Verdict} (h : Issues s t thr w)
    (hd : definedOp (opc w) = true) (ho : opc w = o) :
    s.issueAt t thr o ok run = s.settle t thr (ok w) (run w s) := by
  unfold State.issueAt
  subst ho
  simp [h.may, h.pc, h.parity, h.word, hd]

/-- The thread goes on at the next instruction. -/
theorem State.settle_done {t thr : Nat} {ok : Bool} {s' : State} (h : (s.thread t thr).taint = []) :
    s.settle t thr ok (.done s') =
      (s'.updThread t thr (fun x => { x with pc := (s.thread t thr).pc + 8 })).seqCtrAdd t 0x100 1 := by
  simp [State.settle, h]

/-- The thread goes on at a target. -/
theorem State.settle_jump {t thr : Nat} {ok : Bool} {s' : State} {pc : DWord} (h : (s.thread t thr).taint = []) :
    s.settle t thr ok (.jump pc s') = (s'.updThread t thr (fun x => { x with pc })).seqCtrAdd t 0x100 1 := by
  simp [State.settle, h]

theorem State.seqCtrAdd_tile_same (t off n : Nat) :
    (s.seqCtrAdd t off n).tile t = { s.tile t with seqCtr := ctrAdd (s.tile t).seqCtr off n } := by
  obtain ⟨a, b, c, d, h⟩ := s.seqCtrAdd_frame t off n
  rw [h, State.tile_updTile_same]
  rfl
theorem State.seqCtrAdd_tile_ne (t u off n : Nat) (hu : u ≠ t) : (s.seqCtrAdd t off n).tile u = s.tile u := by
  obtain ⟨a, b, c, d, h⟩ := s.seqCtrAdd_frame t off n
  rw [h, State.tile_updTile_ne _ _ _ _ hu]
  rfl
@[simp] theorem State.seqCtrAdd_thread (t u k off n : Nat) : (s.seqCtrAdd t off n).thread u k = s.thread u k := by
  unfold State.thread
  by_cases hu : u = t
  · subst hu; rw [State.seqCtrAdd_tile_same]; rfl
  · rw [State.seqCtrAdd_tile_ne _ _ _ _ _ hu]
theorem State.seqCtrAdd_state (t off n : Nat) : s.seqCtrAdd t off n =
    { s with tiles := (s.seqCtrAdd t off n).tiles, health := (s.seqCtrAdd t off n).health,
             funcs := (s.seqCtrAdd t off n).funcs, host := (s.seqCtrAdd t off n).host,
             hostMem := (s.seqCtrAdd t off n).hostMem } := by
  obtain ⟨a, b, c, d, h⟩ := s.seqCtrAdd_frame t off n
  rw [h]
  rfl

/-- A thread that changes as `f` says, with the instruction counted: what else stands. -/
theorem threadOnly_upd (t thr : Nat) (f : Thread → Thread) (off n : Nat) :
    ThreadOnly s ((s.updThread t thr f).seqCtrAdd t off n) t thr ∧
    ((s.updThread t thr f).seqCtrAdd t off n).thread t thr = f (s.thread t thr) := by
  refine ⟨⟨?_, fun u hu => ?_, ?_, fun k hk => ?_⟩, ?_⟩
  · rw [State.seqCtrAdd_state (s.updThread t thr f)]
    rfl
  · rw [State.seqCtrAdd_tile_ne _ _ _ _ _ hu, State.tile_updThread_ne s t thr u f hu]
  · rw [State.seqCtrAdd_tile_same, State.tile_updThread_same]
    rfl
  · rw [State.seqCtrAdd_thread, State.thread_updThread_ne _ _ _ _ _ hk]
  · rw [State.seqCtrAdd_thread, State.thread_updThread_same]

/-! ### The fields of an S-format word -/

theorem b2n_le (b : Bool) : b2n b ≤ 1 := by cases b <;> simp [b2n]

theorem SWord.opc_word (f : SWord) (h : f.Fits) : opc f.word = f.op := by
  have := h.op; have := h.gd; have := h.ga; have := h.gb; have := h.pg; have := h.fn
  have := f.imm.isLt; have := b2n_le f.i; have := b2n_le f.pn
  simp only [opc, bits, SWord.word]; norm_num at *; omega
theorem SWord.sGd_word (f : SWord) (h : f.Fits) : sGd f.word = f.gd := by
  have := h.op; have := h.gd; have := h.ga; have := h.gb; have := h.pg; have := h.fn
  have := f.imm.isLt; have := b2n_le f.i; have := b2n_le f.pn
  simp only [sGd, bits, SWord.word]; norm_num at *; omega
theorem SWord.sGa_word (f : SWord) (h : f.Fits) : sGa f.word = f.ga := by
  have := h.op; have := h.gd; have := h.ga; have := h.gb; have := h.pg; have := h.fn
  have := f.imm.isLt; have := b2n_le f.i; have := b2n_le f.pn
  simp only [sGa, bits, SWord.word]; norm_num at *; omega
theorem SWord.sGb_word (f : SWord) (h : f.Fits) : sGb f.word = f.gb := by
  have := h.op; have := h.gd; have := h.ga; have := h.gb; have := h.pg; have := h.fn
  have := f.imm.isLt; have := b2n_le f.i; have := b2n_le f.pn
  simp only [sGb, bits, SWord.word]; norm_num at *; omega
theorem SWord.imm_word (f : SWord) (h : f.Fits) : bits f.word 39 8 = f.imm.toNat := by
  have := h.op; have := h.gd; have := h.ga; have := h.gb; have := h.pg; have := h.fn
  have := f.imm.isLt; have := b2n_le f.i; have := b2n_le f.pn
  simp only [bits, SWord.word]; norm_num at *; omega
theorem SWord.sPg_word (f : SWord) (h : f.Fits) : sPg f.word = f.pg := by
  have := h.op; have := h.gd; have := h.ga; have := h.gb; have := h.pg; have := h.fn
  have := f.imm.isLt; have := b2n_le f.i; have := b2n_le f.pn
  simp only [sPg, bits, SWord.word]; norm_num at *; omega
theorem SWord.sFn_word (f : SWord) (h : f.Fits) : sFn f.word = f.fn := by
  have := h.op; have := h.gd; have := h.ga; have := h.gb; have := h.pg; have := h.fn
  have := f.imm.isLt; have := b2n_le f.i; have := b2n_le f.pn
  simp only [sFn, bits, SWord.word]; norm_num at *; omega
theorem bitN_eq (v i : Nat) : bitN v i = decide (v / 2 ^ i % 2 = 1) := by
  simp [bitN, Nat.testBit_eq_decide_div_mod_eq]
theorem SWord.sI_word (f : SWord) (h : f.Fits) : sI f.word = f.i := by
  have := h.op; have := h.gd; have := h.ga; have := h.gb; have := h.pg; have := h.fn
  have := f.imm.isLt; have := b2n_le f.i; have := b2n_le f.pn
  have hb : f.word / 2 ^ 40 % 2 = b2n f.i := by
    simp only [SWord.word]; norm_num at *; omega
  rw [sI, bitN_eq, hb]
  cases f.i <;> rfl
theorem SWord.sPn_word (f : SWord) (h : f.Fits) : sPn f.word = f.pn := by
  have := h.op; have := h.gd; have := h.ga; have := h.gb; have := h.pg; have := h.fn
  have := f.imm.isLt; have := b2n_le f.i; have := b2n_le f.pn
  have hb : f.word / 2 ^ 4 % 2 = b2n f.pn := by
    simp only [SWord.word]; norm_num at *; omega
  rw [sPn, bitN_eq, hb]
  cases f.pn <;> rfl
@[simp] theorem SWord.sImm_word (f : SWord) (h : f.Fits) : sImm f.word = f.imm.signExtend 64 := by
  simp [sImm, SWord.imm_word f h]
theorem SWord.opB_word (f : SWord) (h : f.Fits) (t thr : Nat) : s.opB t thr f.word = f.b s t thr := by
  simp [State.opB, SWord.b, SWord.sI_word f h, SWord.sImm_word f h, SWord.sGb_word f h]
theorem SWord.guard_word (f : SWord) (h : f.Fits) (t thr : Nat) : s.guard t thr f.word = f.guard s t thr := by
  simp [State.guard, SWord.guard, SWord.sPg_word f h, SWord.sPn_word f h]

/-- An S-format instruction whose encoding holds and whose guard is true. -/
theorem guarded_run {t thr : Nat} {enc : Nat → Bool} {run : Nat → State → Verdict} {w : Nat} (he : enc w = true)
    (hg : s.guard t thr w = true) : guarded t thr enc run w s = run w s := by
  simp [guarded, he, hg]
/-- A false guard: the instruction only advances. -/
theorem guarded_skip {t thr : Nat} {enc : Nat → Bool} {run : Nat → State → Verdict} {w : Nat} (he : enc w = true)
    (hg : s.guard t thr w = false) : guarded t thr enc run w s = .done s := by
  simp [guarded, he, hg]

end Sys2Proof.Machine
end

