-- ==== Sys2Proof/WellFormed.lean ====
section
/-!
DEFINITION. Well-formed commands: every unit that a command names lies in the range that the spec gives units of its kind.
A number that names something the state holds (a packet, a parcel, a ring, a copy) is not bounded here.
-/
namespace Sys2Proof
open Sys2Proof.Machine

/-- A tile, and a tile's thread (R20, R21, R228). -/
def tileWf (t : Nat) : Bool := decide (t < Config.tiles)
def threadWf (t thr : Nat) : Bool := tileWf t && decide (thr < 8)
/-- A stack and its pseudo-channel (R35, R391). -/
def stackWf (k : Nat) : Bool := decide (k < 8)
def pchWf (k c : Nat) : Bool := stackWf k && decide (c < 64)
/-- An I/O die, or a compute die (R21, R24). -/
def dieWf (d : Nat) : Bool := decide (d < 4)
/-- A fabric port and its lane (R427, R476). -/
def portWf (q : Nat) : Bool := decide (q < 32)
def laneWf (q l : Nat) : Bool := portWf q && decide (l < 9)
/-- A function of a host port (R503). -/
def fnWf (d f : Nat) : Bool := dieWf d && decide (f < 1025)
/-- A logic port of the module, and a logic region (R24). -/
def lportWf (n : Nat) : Bool := decide (n < 384)
def regionWf (r : Nat) : Bool := decide (r < 32)
/-- A partition (R9, R26). -/
def partWf (p : Nat) : Bool := decide (p < Config.partitions)

/-- Who writes a register exists: a port, a function of a port, a tile. -/
def agentWf : Agent → Bool
  | .owner d => dieWf d
  | .granger => true
  | .page d f => fnWf d f
  | .tileFw t => tileWf t

/-- The operands of a command name units that exist in the address plan. -/
def Instr.wf : Instr → Bool
  | .tickEnable a => agentWf a
  | .clearStats a => agentWf a
  | .tickEdge _ => true
  | .guardStart => true
  | .deadlineEdge t => tileWf t
  | .tickMarker _ _ _ => true
  | .holdoverEntry => true
  | .freeRunEntry => true
  | .barrierShareClose g _ _ => decide (g < 16)
  | .barrierReport _ => true
  | .barrierClose _ _ => true
  | .tickParam _ => true
  | .amm t thr => threadWf t thr
  | .adrn t thr => threadWf t thr
  | .acbl t thr => threadWf t thr
  | .ahist t thr => threadWf t thr
  | .abar t thr => threadWf t thr
  | .arrayEntryStart t _ => tileWf t
  | .arrayEntryComplete t _ => tileWf t
  | .arrClear a t => agentWf a && tileWf t
  | .mvm t thr => threadWf t thr
  | .mbar t thr => threadWf t thr
  | .mvpEntryStart t => tileWf t
  | .mvpEntryComplete t _ => tileWf t
  | .vecClear a t => agentWf a && tileWf t
  | .mvpClear a t => agentWf a && tileWf t
  | .vadd t thr => threadWf t thr
  | .vsub t thr => threadWf t thr
  | .vmul t thr => threadWf t thr
  | .vfma t thr => threadWf t thr
  | .vmin t thr => threadWf t thr
  | .vmax t thr => threadWf t thr
  | .vcmp t thr => threadWf t thr
  | .vsel t thr => threadWf t thr
  | .vcvt t thr => threadWf t thr
  | .vql8 t thr => threadWf t thr
  | .vdl8 t thr => threadWf t thr
  | .vsf t thr => threadWf t thr
  | .vbit t thr => threadWf t thr
  | .vshf t thr => threadWf t thr
  | .vred t thr => threadWf t thr
  | .vperm t thr => threadWf t thr
  | .vxln t thr => threadWf t thr
  | .vbf2 t thr => threadWf t thr
  | .vbf4 t thr => threadWf t thr
  | .vput t thr => threadWf t thr
  | .vget t thr => threadWf t thr
  | .vld t thr => threadWf t thr
  | .vst t thr => threadWf t thr
  | .vldl t thr => threadWf t thr
  | .vstl t thr => threadWf t thr
  | .vag t thr => threadWf t thr
  | .vagrd t thr => threadWf t thr
  | .vrset t thr => threadWf t thr
  | .vrget t thr => threadWf t thr
  | .vrand t thr => threadWf t thr
  | .vsample t thr => threadWf t thr
  | .vsred t thr => threadWf t thr
  | .vtopk t thr => threadWf t thr
  | .vtopp t thr => threadWf t thr
  | .vtops t thr => threadWf t thr
  | .rep t thr => threadWf t thr
  | .add t thr => threadWf t thr
  | .sub t thr => threadWf t thr
  | .mul t thr => threadWf t thr
  | .mulh t thr => threadWf t thr
  | .and t thr => threadWf t thr
  | .or t thr => threadWf t thr
  | .xor t thr => threadWf t thr
  | .shl t thr => threadWf t thr
  | .shr t thr => threadWf t thr
  | .sar t thr => threadWf t thr
  | .min t thr => threadWf t thr
  | .max t thr => threadWf t thr
  | .movhi t thr => threadWf t thr
  | .cmp t thr => threadWf t thr
  | .sel t thr => threadWf t thr
  | .br t thr => threadWf t thr
  | .jr t thr => threadWf t thr
  | .loop t thr => threadWf t thr
  | .call t thr => threadWf t thr
  | .plog t thr => threadWf t thr
  | .ld t thr => threadWf t thr
  | .st t thr => threadWf t thr
  | .atom t thr => threadWf t thr
  | .fence t thr => threadWf t thr
  | .spost t thr => threadWf t thr
  | .swait t thr => threadWf t thr
  | .tread t thr => threadWf t thr
  | .twait t thr => threadWf t thr
  | .texit t thr => threadWf t thr
  | .tend t thr => threadWf t thr
  | .fget t thr => threadWf t thr
  | .fset t thr => threadWf t thr
  | .fend t thr => threadWf t thr
  | .launch _ => true
  | .taskStart t => tileWf t
  | .taskPrepared t _ _ => tileWf t
  | .startReport _ => true
  | .missNotice _ => true
  | .missReturn t thr => threadWf t thr
  | .threadSwitch t _ => tileWf t
  | .taskReport t => tileWf t
  | .completionReport _ => true
  | .firmwareEntry t => tileWf t
  | .seqClear a t => agentWf a && tileWf t
  | .sarm t thr => threadWf t thr
  | .srearm t thr => threadWf t thr
  | .swaitb t thr => threadWf t thr
  | .srel t thr => threadWf t thr
  | .spush t thr => threadWf t thr
  | .sskip t thr => threadWf t thr
  | .sflush t thr => threadWf t thr
  | .sstop t thr => threadWf t thr
  | .sstat t thr => threadWf t thr
  | .streamInject t slot => tileWf t && decide (slot < 32)
  | .streamReadResponse t slot _ => tileWf t && decide (slot < 32)
  | .linkHalf _ => true
  | .linkCredit _ => true
  | .linkEnd _ => true
  | .linkAbort _ => true
  | .linkClose _ => true
  | .translationRequest _ => true
  | .translationResponse _ => true
  | .strClear a t => agentWf a && tileWf t
  | .wpred t thr => threadWf t thr
  | .wchk t thr => threadWf t thr
  | .wtent t thr => threadWf t thr
  | .wwait t thr => threadWf t thr
  | .wpeek t thr => threadWf t thr
  | .wspec t thr => threadWf t thr
  | .wbound t thr => threadWf t thr
  | .winnowJobStart t _ => tileWf t
  | .winnowPredictionDone t => tileWf t
  | .winnowCheckDone t => tileWf t
  | .commit _ => true
  | .squash _ => true
  | .winClear a t => agentWf a && tileWf t
  | .read _ => true
  | .write _ => true
  | .atomic _ => true
  | .mcastWrite _ => true
  | .readRsp _ => true
  | .writeAck _ => true
  | .atomicRsp _ => true
  | .mcastAck _ => true
  | .packetForward _ _ _ => true
  | .accessTimeout _ => true
  | .torClear a t => agentWf a && tileWf t
  | .glClear a t => agentWf a && tileWf t
  | .gleanerEnable a t _ => agentWf a && tileWf t
  | .granaryTraining stk _ _ => stackWf stk
  | .pchAccess stk c _ _ => pchWf stk c
  | .refreshDue stk c => pchWf stk c
  | .refreshRepay stk c => pchWf stk c
  | .nrefBudgetGain stk c => pchWf stk c
  | .rowClose stk c bank => pchWf stk c && decide (bank < 64)
  | .stackTempRead stk _ => stackWf stk
  | .recentre stk c _ _ _ => pchWf stk c
  | .trainingRecovery stk c _ _ => pchWf stk c
  | .remapRequest a stk pch => agentWf a && pchWf stk pch
  | .remapActivate stk => stackWf stk
  | .pasrEnter a stk => agentWf a && stackWf stk
  | .pasrExit a stk => a.all agentWf && stackWf stk
  | .scrubRow stk => stackWf stk
  | .reservationWrite a stk p _ => agentWf a && stackWf stk && partWf p
  | .grnClear a stk => agentWf a && stackWf stk
  | .blockReceive q _ _ _ _ _ => portWf q
  | .frameForward _ => true
  | .adaptiveEscape _ => true
  | .flowFrame _ => true
  | .flowResponse _ => true
  | .seqNack _ => true
  | .e2eTimeout _ => true
  | .flowDead _ => true
  | .flowIdleClose _ => true
  | .flowClose _ => true
  | .flowCloseAck _ => true
  | .readRetry d _ => dieWf d
  | .copyBlock _ _ => true
  | .fabricMcastWrite _ => true
  | .fabricMcastAck _ => true
  | .mcastReportTimeout _ => true
  | .portHeld q => portWf q
  | .holdExpiry q => portWf q
  | .portReturnUp q => portWf q
  | .pathSettle dst => decide (dst < 65536)
  | .redPart _ => true
  | .redCredit _ => true
  | .redResult _ => true
  | .reduceTimeout _ => true
  | .linkHello _ => true
  | .kfbModuleId a d _ => agentWf a && dieWf d
  | .kfbClear a d => agentWf a && dieWf d
  | .signalDetect q l => laneWf q l
  | .phaseTimeout q => portWf q
  | .attemptRestart q => portWf q
  | .slipTrial q _ => portWf q
  | .trainingMarker q l _ => laneWf q l
  | .laneLockLoss q l => laneWf q l
  | .errorWindow q => portWf q
  | .resyncTimeout q => portWf q
  | .fastRetrainTimeout q => portWf q
  | .retrain a q => agentWf a && portWf q
  | .portEnable a q _ => agentWf a && portWf q
  | .loopbackSet a q mode => agentWf a && portWf q && decide (mode < 4)
  | .lnkClear a d => agentWf a && dieWf d
  | .doorbellPoll d f _ => fnWf d f
  | .descriptorFetched _ _ => true
  | .task _ => true
  | .copy _ => true
  | .mcast _ _ => true
  | .reduce _ => true
  | .xinv _ => true
  | .nop _ => true
  | .ringCreate _ => true
  | .ringDestroy _ => true
  | .loadBale _ => true
  | .tileReset _ => true
  | .clusterReset _ => true
  | .partitionReset _ => true
  | .moduleReset _ => true
  | .fwUpdate _ _ => true
  | .assignBind _ => true
  | .assignUnbind _ => true
  | .assignPartition _ => true
  | .releasePartition _ => true
  | .definePartition _ => true
  | .tableUpdate _ _ => true
  | .keyChange _ => true
  | .marginFrequency _ => true
  | .marginOffset _ => true
  | .marginFreeze _ => true
  | .marginRelease _ => true
  | .mctpCrit _ => true
  | .functionLevelReset d f => fnWf d f
  | .busMasterClear d f => fnWf d f
  | .hostLinkDown d => dieWf d
  | .vfEnableClear d => dieWf d
  | .functionDisable d f => fnWf d f
  | .functionEnable d f _ => fnWf d f
  | .functionStopDone d f => fnWf d f
  | .hstClear a d => agentWf a && dieWf d
  | .baleStaged _ _ => true
  | .baleCommit _ => true
  | .commitWaitExpiry _ => true
  | .configScrub r _ => regionWf r
  | .oreq n _ => lportWf n
  | .irsp n _ _ _ => lportWf n
  | .windowTimeout n _ => lportWf n
  | .oscWrite a d n _ => agentWf a && dieWf d && decide (n < 4)
  | .hbOwnerWrite a d _ => agentWf a && dieWf d
  | .lgcClear a d => agentWf a && dieWf d
  | .cfgClear a d => agentWf a && dieWf d
  | .errorReport _ _ => true
  | .ceRateWindow => true
  | .transitRateWindow => true
  | .intClear a => agentWf a
  | .pwrGoodRise _ => true
  | .pwrGoodFall => true
  | .p48vDrop => true
  | .auxLoss => true
  | .railFault => true
  | .thermalTrip => true
  | .modResetAssert => true
  | .modResetRelease => true
  | .bringupCheckers _ _ _ => true
  | .trainingComplete => true
  | .memtestPairDone _ _ => true
  | .tileWaveStart => true
  | .tileSignature t _ _ => tileWf t
  | .waveTimeout w => decide (w < 8)
  | .capabilityBuild => true
  | .tileFirmwareFetched t _ => tileWf t
  | .resetDrainLate t => tileWf t
  | .clusterPark a c => agentWf a && decide (c < Config.clusters)
  | .clusterWake a c => agentWf a && decide (c < Config.clusters)
  | .deepIdleEnter a => agentWf a
  | .deepIdleExit _ => true
  | .bootCfgWrite a _ => agentWf a
  | .bupClear a => agentWf a
  | .grangerReturn => true
  | .selftestSlice t _ => tileWf t
  | .selftestRequest a cluster target => agentWf a && decide (target < (if cluster then Config.clusters else Config.tiles))
  | .selftestOverdue t => tileWf t
  | .serviceCheckerTest _ => true
  | .parityPoll => true
  | .ageingSample _ => true
  | .marginReplan => true
  | .marginApply d => dieWf d
  | .marginDeferTimeout d => dieWf d
  | .clockChange => true
  | .pllLock => true
  | .evcClear a k => agentWf a && decide (k < 8)
  | .hltClear a => agentWf a
  | .grangerPoll => true
  | .grgClear a => agentWf a
  | .registerWrite a off _ _ => agentWf a && decide (off < 2 ^ 32)
  | .clockRecoveryLock q l => laneWf q l
  | .hostLinkUp d _ _ => dieWf d
  | .fwSlotSelected => true
  | .recentreOverdue stk c => pchWf stk c
  | .boardRecovery target _ _ => decide (target < 3)

end Sys2Proof
end

