-- ==== Sys2Proof/Tests/Slice0.lean ====
section
/-!
SUPPORT. The model's own tests: well-formedness, small steps whose results are the spec's, and for every statement with
hypotheses a concrete state and operands that meet them.
-/
namespace Sys2Proof.Tests
open Sys2Proof.Machine


/-! ### Helpers -/

/-- Tile 0 runs a task of tenant 1 in partition 0; its thread 0 is `h`, and the word w stands at 0x2000. -/
def onTile (w : Nat) (h : Thread := {}) (x : Tile := {}) : State := { State.reset with
  tiles := [(0, { x with task := some { launch := { tenant := 1 }, phase := .running },
                         threads := [(0, { h with st := .active, pc := 0x2000 })] })]
  mem := memPutList [] (instAddr 0 0x2000) (leBytes 8 w) }

/-- Tile 0 runs firmware; its thread 0 is `h`, and the word w stands at 0x2000. -/
def inFirmware (w : Nat) (h : Thread := {}) : State := { State.reset with
  tiles := [(0, { firmware := true, threads := [(0, { h with st := .firmware, pc := 0x2000 })] })]
  mem := memPutList [] (instAddr 0 0x2000) (leBytes 8 w) }

/-- Bring-up has finished and Granger runs. -/
def up : State := { State.reset with
  bup := { ready := true, wasReady := true, grangerUp := true, checked := true, trained := true, bootDone := true, phase := 6, wavesStarted := 8,
           wavesDone := 8 }
  board := { aux := true, p48 := true, pwrGood := true, resetLow := false, rails := true } }

/-- The state that a command leaves. -/
def after (c : Instr) (s : State) : State := match exec c s with | .next s' => s' | _ => s

theorem issues {s : State} {t thr w : Nat} (h : s.mayIssue t thr = true ∧ s.pcOk t (s.thread t thr).pc = true ∧
    s.badMem (instAddr t (s.thread t thr).pc.toNat) 8 = false ∧ s.instWord t (s.thread t thr).pc = w ∧ (s.thread t thr).taint = []) :
    Issues s t thr w := ⟨h.1, h.2.1, h.2.2.1, h.2.2.2.1, h.2.2.2.2⟩

theorem writable {s : State} {a : Agent} {off : Nat} (h : s.agentUp a = true ∧ s.regHeld a off = false ∧ a.reaches off = true ∧
    s.blockUp off = true) : Writable s a off := ⟨h.1, h.2.1, h.2.2.1, h.2.2.2⟩

theorem sfits {f : SWord} (h : f.op < 256 ∧ f.gd < 32 ∧ f.ga < 32 ∧ f.gb < 32 ∧ f.pg < 8 ∧ f.fn < 16) : f.Fits :=
  ⟨h.1, h.2.1, h.2.2.1, h.2.2.2.1, h.2.2.2.2.1, h.2.2.2.2.2⟩

theorem vfits {f : VWord} (h : f.op < 256 ∧ f.vd < 32 ∧ f.va < 32 ∧ f.vb < 32 ∧ f.vc < 32 ∧ f.rnd < 8 ∧ f.td < 8 ∧ f.ts < 8 ∧
    f.gen < 4 ∧ f.agr < 8 ∧ f.agw < 8 ∧ f.fn < 64) : f.Fits := by
  obtain ⟨h1, h2, h3, h4, h5, h6, h7, h8, h9, h10, h11, h12⟩ := h
  exact ⟨h1, h2, h3, h4, h5, h6, h7, h8, h9, h10, h11, h12⟩

/-! ### Well-formedness: an ill-formed term for each check -/

theorem test_wf_accepts_last_units : ([.add 2303 7, .fget 2303 7, .pchAccess 7 63 0 0, .rowClose 7 63 15, .lnkClear (.page 3 1024) 3,
    .clockRecoveryLock 31 8, .functionEnable 3 1024 0, .irsp 383 0 .ok [], .configScrub 31 none, .reservationWrite .granger 7 63 0,
    .barrierShareClose 15 0 0, .streamInject 2303 31, .loopbackSet .granger 31 3, .waveTimeout 7, .clusterPark .granger 143,
    .oscWrite .granger 3 3 0, .evcClear .granger 7, .pathSettle 65535] : List Instr).all Instr.wf = true := by decide
theorem test_wf_refuses_tiles : ([.taskStart 2304, .add 2304 0, .add 0 8, .tickEnable (.tileFw 2304), .vecClear .granger 2304,
    .glClear .granger 2304, .tileSignature 2304 0 false] : List Instr).all (fun c => !c.wf) = true := by decide
theorem test_wf_refuses_stacks : ([.scrubRow 8, .refreshDue 8 0, .refreshDue 0 64, .grnClear .granger 8,
    .reservationWrite .granger 0 64 0] : List Instr).all (fun c => !c.wf) = true := by decide
theorem test_wf_refuses_dies_ports_and_lanes : ([.hostLinkDown 4, .hstClear (.owner 4) 0, .tickEnable (.page 4 0), .tickEnable (.page 0 1025),
    .functionDisable 0 1025, .functionDisable 4 0, .portHeld 32, .laneLockLoss 32 0, .laneLockLoss 0 9, .marginApply 4] : List Instr).all
    (fun c => !c.wf) = true := by decide
theorem test_wf_refuses_logic : ([.windowTimeout 384 0, .oreq 384 { op := .read, tag := 0 }, .configScrub 32 none, .oscWrite .granger 4 0 0,
    .oscWrite .granger 0 4 0] : List Instr).all (fun c => !c.wf) = true := by decide
theorem test_wf_refuses_small_fields : ([.barrierShareClose 16 0 0, .streamInject 0 32, .loopbackSet .granger 0 4, .waveTimeout 8,
    .clusterWake .granger 144, .evcClear .granger 8, .pathSettle 65536, .registerWrite .granger (2 ^ 32) false 0] : List Instr).all
    (fun c => !c.wf) = true := by decide

/-! ### Set-up registers and the tick -/

/-- R42: the blocks of every kind can be written once bring-up has finished, the last unit of each as well as the first. -/
theorem witness_ClearBits : ∀ off ∈ [tileBlock 0 + 0x1020, tileBlock 2303 + 0x2010, tileBlock 0 + 0x3010, tileBlock 0 + 0x28, tileBlock 0 + 0x4020,
    tileBlock 0 + 0x6010, tileBlock 0 + 0x8010, ioBlock 3 + 0x400020, ioBlock 0 + 0x800010, ioBlock 3 + 0x18, lgcBlock 3 + 0x10,
    lgcBlock 0 + 0x800018, 0x10028, 0x20010, 0x30030, 0x40020, 0x30400, 0x30400 + 8 * 7], Writable up .granger off := by
  have h : ([tileBlock 0 + 0x1020, tileBlock 2303 + 0x2010, tileBlock 0 + 0x3010, tileBlock 0 + 0x28, tileBlock 0 + 0x4020,
    tileBlock 0 + 0x6010, tileBlock 0 + 0x8010, ioBlock 3 + 0x400020, ioBlock 0 + 0x800010, ioBlock 3 + 0x18, lgcBlock 3 + 0x10,
    lgcBlock 0 + 0x800018, 0x10028, 0x20010, 0x30030, 0x40020, 0x30400, 0x30400 + 8 * 7] : List Nat).all (fun off => decide (up.agentUp .granger = true ∧
      up.regHeld .granger off = false ∧ Agent.reaches .granger off = true ∧ up.blockUp off = true)) = true := by decide
  exact fun off ho => writable (of_decide_eq_true (List.all_eq_true.mp h off ho))

/-- A stack has left its training, and the capability table is built. -/
def stackUp : State := { up with hbm := [(7, { st := .running })] }

theorem witness_ClearBits_stack_and_cluster : Writable stackUp .granger (grnBlock 7 + 0x38) ∧
    (0 : Nat) = clusterFirst (tileCluster 0) ∧ up.health.evcSel.toNat < 2304 := ⟨writable (by decide), by decide, by decide⟩

theorem witness_RegisterWrites : Writable up .granger 0x10018 ∧ Writable up .granger (0x1000 + 8 * 63) ∧ up.partBusy 63 = false ∧
    Writable up .granger (tileBlock 2303 + 0x4000) ∧ up.taskActive 2303 = false ∧ Writable stackUp .granger (grnBlock 7 + 8) ∧ stackUp.anyBusy = false ∧
    Writable up .granger (lgcBlock 3 + 0x48) ∧ Writable up .granger (tileBlock 0 + 0x14) ∧ Writable up .granger 0x100000 :=
  ⟨writable (by decide), writable (by decide), by decide, writable (by decide), by decide, writable (by decide), by decide, writable (by decide),
   writable (by decide), writable (by decide)⟩
/-- R42, R43, R241: each ground of a refusal: a place out of reach, a unit that is not fitted, a bad alignment. -/
theorem witness_RegisterWrites_refused : Agent.reaches (.tileFw 0) 0 = false ∧ (inFirmware 0).agentUp (.tileFw 0) = true ∧
    (inFirmware 0).regHeld (.tileFw 0) 0 = false ∧ up.blockUp (grnBlock 8) = false ∧ up.regHeld .granger (grnBlock 8) = false ∧
    up.agentUp .granger = true ∧ 0x10018 % 8 = 0 ∧ 0x1001C % 8 ≠ 0 ∧ 0x10019 % 4 ≠ 0 := by decide

theorem test_register_write_splits_threshold : ((after (.registerWrite .granger 0x10018 false 0x00200010) up).integ.transitThresh,
    (after (.registerWrite .granger 0x10018 false 0x00200010) up).integ.ceThresh) = (16, 32) := by decide
theorem test_register_write_misaligned : (after (.registerWrite .granger 0x10019 false 0) up).answer = .busError := by decide

def ticking : State := { up with tick := { enable := true, state := .standalone } }

theorem witness_TickControl : Writable up .granger 0 ∧ up.tick.role ≠ 3 ∧ up.tick.enable = false ∧ up.anyBusy = false ∧
    Writable ticking .granger 0 ∧ ticking.tick.role ≠ 3 ∧ ticking.tick.enable = true :=
  ⟨writable (by decide), by decide, by decide, by decide, writable (by decide), by decide, by decide⟩

/-- R60: a change that is due at the coming edge, and one that is due the edge after. -/
theorem witness_TickEdges : ticking.tick.ticks = true ∧ ticking.tick.inGuard = false ∧
    ({ ticking with tick := { ticking.tick with pendParam := some ⟨7, 500000⟩, pendTick := 1 } }).tick.ticks = true := by decide
theorem test_tick_edge_applies_parameters : (after (.tickEdge []) { ticking with
    tick := { ticking.tick with pendParam := some ⟨7, 500000⟩, pendTick := 1 } }).tick.param = ⟨7, 500000⟩ := by decide
theorem test_tick_edge_waits_for_its_tick : (after (.tickEdge []) { ticking with
    tick := { ticking.tick with pendParam := some ⟨7, 500000⟩, pendTick := 2 } }).tick.pendTick = 2 := by decide

/-- R259: a task whose deadline tick has reached its guard window, in a partition that aborts and in one that finishes. -/
def missing (finish : Bool) : State := { ticking with
  tick := { ticking.tick with inGuard := true, cfg := [(3, { hard := true, finish })] }
  parts := [(3, { clusters := 1, tenant := some 1 })]
  tiles := [(0, { task := some { launch := { tenant := 1, part := 3 }, phase := .running } })] }
theorem witness_TickEdges_miss : ((missing true).tile 0).task = some { launch := { tenant := 1, part := 3 }, phase := .running } ∧
    (missing true).pastGuard (0 + BitVec.ofNat 64 1 - 1) = true ∧ (missing true).aborts 3 = false ∧ (missing false).aborts 3 = true := by decide
theorem test_miss_runs_on : ((after (.deadlineEdge 0) (missing true)).tile 0).task.map (fun k => (k.missed, k.phase)) = some (true, .running) := by decide

/-- A follower, port 5 upstream, with a marker of tick 100 on that port. -/
def follower (st : TickState) (run : Nat) : State := { ticking with
  tick := { ticking.tick with role := 2, upstream := 5, state := st, count := 100, adopted := true, goodRun := run }
  fab := { parcels := [(0, { inPort := some 5, die := 0, frame := { op := .tickMarker, marker := { tick := 100, hops := 31 } } })] } }
theorem witness_Markers : ∃ p, smGet (follower .locked 0).fab.parcels 0 = some p ∧ p.inPort = some 5 ∧ p.frame.op = .tickMarker ∧
    (follower .locked 0).tick.enable = true ∧ (follower .locked 0).tick.role = 2 ∧ 5 = (follower .locked 0).tick.upstream.toNat ∧
    (follower .acquiring 3).tick.adopted = true ∧ (follower .acquiring 3).tick.goodRun = 3 ∧
    p.frame.marker.tick = (follower .acquiring 3).tick.count ∧ p.frame.marker.hops < 32 := ⟨_, rfl, by decide⟩
/-- R56: an offset of 32 half-nanoseconds is 16 ns; the first marker of a new follower; and one that reaches the master. -/
theorem witness_Markers_cases : ((0 : Int) + (((follower .acquiring 3).fport 5).delay.toNat : Int) - (-32)).natAbs ≤ 32 ∧
    ((0 : Int) + (((follower .acquiring 3).fport 5).delay.toNat : Int) - 32).natAbs ≤ 32 ∧
    ({ (follower .acquiring 0).tick with count := 99 } : Tick).count.toNat < (100 : DWord).toNat ∧
    ({ (follower .locked 0).tick with role := 1 } : Tick).role = 1 := by decide
theorem test_fourth_good_marker_locks : (after (.tickMarker 0 32 []) (follower .acquiring 3)).tick.state = .locked := by decide
theorem test_third_good_marker_does_not : (after (.tickMarker 0 32 []) (follower .acquiring 2)).tick.state = .acquiring := by decide
theorem test_marker_offset_too_large : (after (.tickMarker 0 33 []) (follower .acquiring 3)).tick.state = .acquiring := by decide
theorem test_marker_depth : (after (.tickMarker 0 (-32) []) (follower .locked 0)).tick.depth = 32 := by decide
/-- R57, R58: the entry to Holdover, and to Free-run at its limit. -/
theorem witness_Markers_holdover : (follower .locked 0).tick.markerSeen = false ∧
    ({ (follower .holdover 0).tick with missed := 64 } : Tick).limitM1.toNat + 1 ≤ 64 := by decide

/-- R464: a report of groups 0 and 15 from a downstream port, and a close from upstream. -/
def barriers : State := { ticking with
  tick := { ticking.tick with role := 2, upstream := 5, state := .locked, count := 100 }
  fab := { dies := [(0, { enable := true, tickDown := 3 })]
           parcels := [(0, { inPort := some 1, die := 0, frame := { op := .barrierReport, mask := 0x8001, tick := 99 } }),
                       (1, { inPort := some 5, die := 0, frame := { op := .barrierClose, mask := 0x8001, tick := 99 } })] } }
theorem witness_Barriers : 1 ∈ barriers.downPorts ∧ barriers.tick.role = 2 ∧ barriers.tick.enable = true ∧ 5 = barriers.tick.upstream.toNat ∧
    { ticking with tick := { ticking.tick with count := 2 } }.shareMayClose 15 1 = true ∧ ticking.tick.state.isRoot = true := by decide
theorem test_barrier_close : ((after (.barrierClose 1 0) barriers).barrier 15).closed = 99 ∧ ((after (.barrierClose 1 0) barriers).barrier 1).closed = 0 := by decide

/-! ### The log array and the matrix-vector path -/

/-- An empty entry, for a queue of a given length. -/
def op0 : UnitOp := { word := 0 }
def ammWord : Nat := 0x40 * 2 ^ 56 + 4
/-- An MVM in L8 with M = 1, N = 256 and K = 32, its strides in g1. -/
def mvmWord : Nat := 0x48 * 2 ^ 56 + 1 * 2 ^ 16

set_option maxRecDepth 8000 in
/-- Every instruction of the two units, for an empty queue, a full one, and entries at work (M = 1, every register 0, W = 32). -/
theorem witness_UnitInstructions :
    (Issues (onTile ammWord) 0 0 ammWord ∧ widthFault ((onTile ammWord).tileW 0) ammWord = false ∧ ammOk 32 ((onTile ammWord).unitOp 0 0 ammWord) = true) ∧
    (Issues (onTile (0x41 * 2 ^ 56 + 4)) 0 0 (0x41 * 2 ^ 56 + 4) ∧ adrnOk 32 { word := 0x41 * 2 ^ 56 + 4 } = true) ∧
    (Issues (onTile (0x42 * 2 ^ 56)) 0 0 (0x42 * 2 ^ 56) ∧ acblOk { word := 0x42 * 2 ^ 56 } = true) ∧
    (Issues (onTile (0x43 * 2 ^ 56)) 0 0 (0x43 * 2 ^ 56) ∧ ahistOk { word := 0x43 * 2 ^ 56 } = true) ∧
    Issues (onTile (0x44 * 2 ^ 56)) 0 0 (0x44 * 2 ^ 56) ∧
    Issues (onTile (0x44 * 2 ^ 56) {} { arrQ := [op0] }) 0 0 (0x44 * 2 ^ 56) ∧
    (Issues (onTile mvmWord) 0 0 mvmWord ∧ mvmOk { word := BitVec.ofNat 64 mvmWord, gs := 0x020001000040 } = true) ∧
    Issues (onTile mvmWord {} { mvpQ := List.replicate 8 op0 }) 0 0 mvmWord ∧
    Issues (onTile (0x49 * 2 ^ 56)) 0 0 (0x49 * 2 ^ 56) ∧
    Issues (onTile ammWord {} { arrQ := List.replicate 16 op0 }) 0 0 ammWord :=
  ⟨⟨issues (by decide), by decide, by decide⟩, ⟨issues (by decide), by decide⟩, ⟨issues (by decide), by decide⟩, ⟨issues (by decide), by decide⟩,
   issues (by decide), issues (by decide), ⟨issues (by decide), by decide⟩, issues (by decide), issues (by decide), issues (by decide)⟩

/-- R139: a wsel of 0 on a tile of width 32, and a reserved wsel of 5. -/
theorem witness_WrongWidth : (∀ op ∈ [0x40, 0x41, 0x60, 0x61], Issues (onTile (op * 2 ^ 56)) 0 0 (op * 2 ^ 56) ∧
    bits (op * 2 ^ 56) 2 0 ≤ 4 ∧ bits (op * 2 ^ 56) 2 0 + 28 ≠ (onTile (op * 2 ^ 56)).tileW 0) ∧
    (Issues (onTile (0x40 * 2 ^ 56 + 5)) 0 0 (0x40 * 2 ^ 56 + 5) ∧ 5 ≤ bits (0x40 * 2 ^ 56 + 5) 2 0 ∧ ((onTile 0).tile 0).firmware = false) := by
  refine ⟨?_, issues (by decide), by decide, by decide⟩
  intro op h
  simp only [List.mem_cons, List.not_mem_nil, or_false] at h
  rcases h with rfl | rfl | rfl | rfl <;> exact ⟨issues (by decide), by decide, by decide⟩

/-- A tile with the entry at the head of its array queue. -/
def queued (w : DWord) : State := { up with tiles := [(0, { arrQ := [{ word := w }] })] }
theorem witness_UnitEntries : ((queued (0x42 * 2 ^ 56)).tile 0).arrQ = [{ word := 0x42 * 2 ^ 56 }] ∧ ((queued 0).tile 0).arrRun = [] ∧
    (UnitOp.opcode { word := 0x42 * 2 ^ 56 }) = 0x42 ∧ up.loftBad 0 0 32 = false ∧ (UnitOp.opcode { word := 0x41 * 2 ^ 56 + 4 }) = 0x41 ∧
    (List.range (ammM (0x41 * 2 ^ 56 + 4))).all (fun i => !up.isBad (.sum 0 i)) = true ∧
    (List.range (mvNp (0x48 * 2 ^ 56))).all (fun c => (up.mvErr 0 { word := 0x48 * 2 ^ 56 } c).isNone) = true ∧
    (UnitOp.opcode { word := 0x43 * 2 ^ 56 }) = 0x43 ∧ Memory.wf up.mem = true := by decide

theorem test_amm_joins_the_queue : ((after (.amm 0 0) (onTile ammWord)).tile 0).arrQ.length = 1 := by decide
set_option maxRecDepth 20000 in
/-- R118: bin 5 of the histogram stands 20 bytes from the start of the 272 bytes. -/
theorem test_ahist_writes_bins : ((after (.arrayEntryComplete 0 []) { up with tiles := [(0, { hist := [(5, 0x1234)], arrRun := [
    { op := { word := 0x43 * 2 ^ 56 } }] })] }).loft 0 20 4) = [0x34, 0x12, 0, 0] := by decide

/-! ### Vector instructions -/

/-- A tile without damage: every vector register has good parity. -/
theorem vgood_onTile (w : Nat) (h : Thread) (x : Tile) (rs : List Nat) : (onTile w h x).vgood 0 0 rs := by
  intro r _
  simp [State.vregBad, onTile, State.reset]

/-- The word fits its fields and issues on `onTile`. -/
def vReady (f : VWord) : Bool := decide ((f.op < 256 ∧ f.vd < 32 ∧ f.va < 32 ∧ f.vb < 32 ∧ f.vc < 32 ∧ f.rnd < 8 ∧ f.td < 8 ∧ f.ts < 8 ∧
    f.gen < 4 ∧ f.agr < 8 ∧ f.agw < 8 ∧ f.fn < 64) ∧ (onTile f.word).mayIssue 0 0 = true ∧ (onTile f.word).pcOk 0 ((onTile f.word).thread 0 0).pc = true ∧
    (onTile f.word).badMem (instAddr 0 ((onTile f.word).thread 0 0).pc.toNat) 8 = false ∧
    (onTile f.word).instWord 0 ((onTile f.word).thread 0 0).pc = f.word ∧ ((onTile f.word).thread 0 0).taint = [])
theorem vReady_spec {f : VWord} (h : vReady f = true) : f.Fits ∧ Issues (onTile f.word) 0 0 f.word :=
  ⟨vfits (of_decide_eq_true h).1, issues (of_decide_eq_true h).2⟩

/-- One word for every clause, each with register 31 somewhere. -/
def intForms : List VWord := [
  { op := 0x80, vd := 31, va := 31, vb := 31, td := 5, ts := 5 }, { op := 0x81, vd := 31, td := 5, ts := 5 }, { op := 0x82, va := 31, td := 5, ts := 5 },
  { op := 0x83, vc := 31, td := 5, ts := 5 }, { op := 0x84, td := 5, ts := 5, sa := true, sb := true }, { op := 0x84, td := 5, ts := 5 },
  { op := 0x85, td := 5, ts := 5, sa := true, sb := true }, { op := 0x85, td := 5, ts := 5 }, { op := 0x86, ts := 5, fn := 0 }, { op := 0x86, ts := 5, fn := 1 },
  { op := 0x86, ts := 5, fn := 2, sa := true, sb := true }, { op := 0x86, ts := 5, fn := 3 }, { op := 0x87, vc := 31 }, { op := 0x8C, fn := 0 }, { op := 0x8C, fn := 1 },
  { op := 0x8C, fn := 2 }, { op := 0x8C, fn := 3 }, { op := 0x8D, fn := 0 }, { op := 0x8D, fn := 1 }, { op := 0x8D, fn := 2 }, { op := 0x8F }, { op := 0x93, va := 31 }]
theorem witness_IntegerLanes : ∀ f ∈ intForms, f.Fits ∧ Issues (onTile f.word) 0 0 f.word := by
  have h : intForms.all vReady = true := by decide
  exact fun f hf => vReady_spec (List.all_eq_true.mp h f hf)

/-- Lane moves, conversions, reductions, special functions and butterflies, one word for every clause. -/
def otherForms : List VWord := [
  { op := 0x94, vd := 31, va := 31, fn := 63 }, { op := 0x90, vd := 30, fn := 5 },
  { op := 0x88, ts := 2, td := 5 }, { op := 0x88, ts := 5, td := 2 }, { op := 0x88, ts := 5, td := 5 }, { op := 0x88 }, { op := 0x88, td := 1 }, { op := 0x8A }, { op := 0x8B, ts := 1, td := 1, fn := 4 },
  { op := 0x8E, ts := 5, td := 5 }, { op := 0x8E, ts := 5, td := 5, fn := 1 }, { op := 0x89, fn := 1 }, { op := 0x91, vd := 30, rnd := 3, fn := 1 },
  { op := 0x92, vd := 28, va := 28, vc := 29, rnd := 3, fn := 1 }, { op := 0x80, rnd := 3 }, { op := 0x81, ts := 1, td := 1 }, { op := 0x82 }, { op := 0x83, td := 1 },
  { op := 0x80, rnd := 4, gen := 3 }, { op := 0x80, vd := 31, ts := 5, td := 5, nr := true, agr := 7, nw := true, agw := 6 },
  { op := 0xB0, vd := 30, ts := 1, fn := 1 }, { op := 0xB1, va := 30 }, { op := 0xB2, vd := 31, ts := 1, fn := 1 }, { op := 0xB3, vd := 31 },
  { op := 0xB4, vd := 1, va := 31, fn := 1 }]
theorem witness_LaneMoves_Conversions_FloatLanes : ∀ f ∈ otherForms, f.Fits ∧ Issues (onTile f.word) 0 0 f.word := by
  have h : otherForms.all vReady = true := by decide
  exact fun f hf => vReady_spec (List.all_eq_true.mp h f hf)

set_option maxRecDepth 20000 in
/-- R178: no conversion of a type to itself. -/
theorem test_conversion_to_itself_is_illegal : ((after (.vcvt 0 0) (onTile ({ op := 0x88, ts := 5, td := 5 } : VWord).word)).tile 0).task.map (·.code) = some 2 := by decide

/-- The scale byte of a conversion at both ends of its range. -/
theorem witness_Conversions_scale : ∀ e ∈ [1, 254],
    ((onTile 0 { v := [(2, [BitVec.ofNat 32 e])] }).v 0 0 2).getD 0 0 % 256 = e := by decide
/-- Stochastic rounding: the thread's own generator, and one that it does not own. -/
theorem witness_FloatLanes_stochastic : ((onTile 0 {} { gens := [(3, { owner := some 0 })] }).gen 0 3).owner = some 0 ∧
    (onTile 0).isBad (.gen 0 3) = false ∧ ((onTile 0).gen 0 3).owner ≠ some 0 ∧ ((onTile 0).tile 0).firmware = false := by decide
/-- Near-memory rows: the last of 512, and the first beyond. -/
theorem witness_NearMemory : ({ base := 511 } : AddrGen).addr < 512 ∧ 512 ≤ ({ base := 512 } : AddrGen).addr ∧
    (onTile 0x80).badMem (nearAddr 0 511) 256 = false ∧ Memory.wf (onTile 0x80).mem = true := by decide

/-- A vector memory instruction for every memory type, at the last aligned address. -/
theorem witness_VectorMemory : ∀ mt ∈ [0, 1, 2, 3, 4], ∀ op ∈ [0x9A, 0x9B],
    Issues (onTile (op * 2 ^ 56 + 31 * 2 ^ 51 + 7 * 2 ^ 48 + mt * 2 ^ 45)) 0 0 (op * 2 ^ 56 + 31 * 2 ^ 51 + 7 * 2 ^ 48 + mt * 2 ^ 45) ∧
    (loftBytes - mtBytes mt) % mtBytes mt = 0 ∧ up.loftBad 0 (loftBytes - mtBytes mt) (mtBytes mt) = false := by
  have h : ([0, 1, 2, 3, 4] : List Nat).all (fun mt => ([0x9A, 0x9B] : List Nat).all (fun op =>
      let w := op * 2 ^ 56 + 31 * 2 ^ 51 + 7 * 2 ^ 48 + mt * 2 ^ 45
      let s := onTile w
      decide ((s.mayIssue 0 0 = true ∧ s.pcOk 0 (s.thread 0 0).pc = true ∧
        s.badMem (instAddr 0 (s.thread 0 0).pc.toNat) 8 = false ∧ s.instWord 0 (s.thread 0 0).pc = w ∧ (s.thread 0 0).taint = []) ∧
        (loftBytes - mtBytes mt) % mtBytes mt = 0 ∧ up.loftBad 0 (loftBytes - mtBytes mt) (mtBytes mt) = false))) = true := by decide
  intro mt hm op ho
  have := of_decide_eq_true (List.all_eq_true.mp (List.all_eq_true.mp h mt hm) op ho)
  exact ⟨issues this.1, this.2⟩
/-- VLD, VST, VAG (a generator with its narrowest and its widest fields) and VAGRD. -/
def genThread (n sh fw : Nat) : Thread := { g := [(29, 5 + 3 * 2 ^ 32), (30, 7 + 2 * 2 ^ 32), (31, BitVec.ofNat 64 (1 + n * 2 ^ 8 + sh * 2 ^ 16 + fw * 2 ^ 24))] }
def vagWord : Nat := 0xA0 * 2 ^ 56 + 7 * 2 ^ 53 + 29 * 2 ^ 48 + 30 * 2 ^ 43 + 31 * 2 ^ 38
theorem witness_VectorMemory_generators : Issues (onTile (0x98 * 2 ^ 56 + 31 * 2 ^ 51 + 7 * 2 ^ 48)) 0 0 (0x98 * 2 ^ 56 + 31 * 2 ^ 51 + 7 * 2 ^ 48) ∧
    Issues (onTile (0x99 * 2 ^ 56 + 31 * 2 ^ 51 + 7 * 2 ^ 48)) 0 0 (0x99 * 2 ^ 56 + 31 * 2 ^ 51 + 7 * 2 ^ 48) ∧
    Issues (onTile vagWord (genThread 1 0 1)) 0 0 vagWord ∧ Issues (onTile vagWord (genThread 24 23 24)) 0 0 vagWord ∧
    (onTile vagWord (genThread 24 23 24)).g 0 0 29 = BitVec.ofNat 64 (5 + 3 * 2 ^ 32) ∧
    (onTile vagWord (genThread 24 23 24)).g 0 0 31 = BitVec.ofNat 64 (b2n true + 24 * 2 ^ 8 + 23 * 2 ^ 16 + 24 * 2 ^ 24) ∧
    Issues (onTile (0xA1 * 2 ^ 56 + 7 * 2 ^ 53 + 31 * 2 ^ 48)) 0 0 (0xA1 * 2 ^ 56 + 7 * 2 ^ 53 + 31 * 2 ^ 48) :=
  ⟨issues (by decide), issues (by decide), issues (by decide), issues (by decide), by decide, by decide, issues (by decide)⟩

/-- VRSET, VRGET, VRAND and REP, with the word that a REP repeats after it. -/
def repTile : State := { onTile (0xBF * 2 ^ 56 + 65535) with
  mem := memPutList (onTile (0xBF * 2 ^ 56 + 65535)).mem (instAddr 0 0x2008) (leBytes 8 (0x80 * 2 ^ 56)) }
theorem witness_Generators : Issues (onTile (0xA8 * 2 ^ 56 + 3 * 2 ^ 54 + 29 * 2 ^ 48)) 0 0 (0xA8 * 2 ^ 56 + 3 * 2 ^ 54 + 29 * 2 ^ 48) ∧
    Issues (onTile (0xA9 * 2 ^ 56 + 3 * 2 ^ 54 + 29 * 2 ^ 48)) 0 0 (0xA9 * 2 ^ 56 + 3 * 2 ^ 54 + 29 * 2 ^ 48) ∧
    Issues (onTile (0xAA * 2 ^ 56 + 31 * 2 ^ 51 + 3 * 2 ^ 22) {} { gens := [(3, { owner := some 0 })] }) 0 0 (0xAA * 2 ^ 56 + 31 * 2 ^ 51 + 3 * 2 ^ 22) ∧
    Issues repTile 0 0 (0xBF * 2 ^ 56 + 65535) ∧ repTile.pcOk 0 ((repTile.thread 0 0).pc + 8) = true ∧
    repeatable (opc (repTile.instWord 0 ((repTile.thread 0 0).pc + 8))) = true :=
  ⟨issues (by decide), issues (by decide), issues (by decide), issues (by decide), by decide, by decide⟩

/-- The top-k unit as each sampling instruction finds it; k at both ends of its range. -/
theorem witness_Sampling : ({} : TopK).owner = none ∧ ((onTile 0 { g := [(31, 256)] }).g 0 0 31).toNat % 512 = 256 ∧
    ((onTile 0 { g := [(31, 1)] }).g 0 0 31).toNat % 512 = 1 ∧ (∀ l, l < 64 → isNan32 (((onTile 0).v 0 0 0).getD l 0) = false) ∧
    ({ owner := some 0, es := [(1, 2)] } : TopK).es ≠ [] ∧ (∀ e, (onTile 0).isBad (.topk 0 e) = false) :=
  ⟨by decide, by decide, by decide, by decide, by decide, fun _ => rfl⟩

theorem test_vput_lane : ((after (.vput 0 0) (onTile ({ op := 0x93, vd := 1, va := 2 } : VWord).word { g := [(2, 0x123456789)] })).v 0 0 1).getD 63 0 = 0x23456789 := by decide
theorem test_vget_lane : (after (.vget 0 0) (onTile ({ op := 0x94, vd := 1, va := 2, fn := 63 } : VWord).word
    { v := [(2, (List.range 64))] })).g 0 0 1 = 63 := by decide

/-! ### Scalar instructions, memory and synchronisation -/

def sReady (s : Nat → State) (g : Bool) (f : SWord) : Bool := decide ((f.op < 256 ∧ f.gd < 32 ∧ f.ga < 32 ∧ f.gb < 32 ∧ f.pg < 8 ∧ f.fn < 16) ∧
  ((s f.word).mayIssue 0 0 = true ∧ (s f.word).pcOk 0 ((s f.word).thread 0 0).pc = true ∧
    (s f.word).badMem (instAddr 0 ((s f.word).thread 0 0).pc.toNat) 8 = false ∧
    (s f.word).instWord 0 ((s f.word).thread 0 0).pc = f.word ∧ ((s f.word).thread 0 0).taint = []) ∧ f.guard (s f.word) 0 0 = g)
theorem sReady_spec {s : Nat → State} {g : Bool} {f : SWord} (h : sReady s g f = true) :
    f.Fits ∧ Issues (s f.word) 0 0 f.word ∧ f.guard (s f.word) 0 0 = g :=
  ⟨sfits (of_decide_eq_true h).1, issues (of_decide_eq_true h).2.1, (of_decide_eq_true h).2.2⟩

/-- Opcode and fn of every scalar form that uses b. -/
def aluForms : List (Nat × Nat) := [(0, 0), (1, 0), (2, 0), (3, 0), (3, 1), (4, 0), (5, 0), (6, 0), (7, 0), (8, 0), (9, 0), (0xA, 0), (0xA, 1), (0xB, 0),
  (0xB, 1), (0xE, 0), (0xE, 7)]
/-- Each with b in a register and as an immediate, under p0 and under the complement of p7. -/
def aluWords (pn : Bool) : List SWord := aluForms.flatMap (fun e => [
  { op := e.1, gd := 31, ga := 31, gb := 31, pn := pn, fn := e.2 }, { op := e.1, gd := 3, i := true, imm := 0xFFFFFFFF, pg := 7, pn := !pn, fn := e.2 }])
theorem witness_ScalarArithmetic : ∀ f ∈ aluWords false, (f.Fits ∧ Issues (onTile f.word) 0 0 f.word ∧ f.guard (onTile f.word) 0 0 = true) ∧ f.UsesB := by
  have h : (aluWords false).all (sReady onTile true) = true := by decide
  have u : (aluWords false).all (fun f => decide ((f.i = true → f.gb = 0) ∧ (f.i = false → f.imm = 0))) = true := by decide
  intro f hf
  have b := of_decide_eq_true (List.all_eq_true.mp u f hf)
  exact ⟨sReady_spec (List.all_eq_true.mp h f hf), b⟩

/-- MOVHI, CMP and PLOG with p0 and p7 as targets, branches forward, backward and through a register, and the rest of the guarded forms. -/
def restForms (pn : Bool) : List SWord := [
  { op := 0x0C, gd := 31, imm := 0x80000000, pn }, { op := 0x0D, gd := 0, pn }, { op := 0x0D, gd := 7, fn := 5, pn }, { op := 0x28, gd := 7, ga := 7, gb := 7, fn := 3, pn },
  { op := 0x20, imm := 1, pn }, { op := 0x20, imm := 0, pn }, { op := 0x21, ga := 31, pn }, { op := 0x22, gd := 30, imm := 1, pn }, { op := 0x22, gd := 29, pn },
  { op := 0x23, gd := 31, imm := 0, pn }, { op := 0x30, gd := 31, ga := 1, imm := 0xFFFFFFF8, fn := 7, pn }, { op := 0x31, ga := 1, gb := 31, fn := 3, pn },
  { op := 0x31, ga := 1, imm := 1, fn := 3, pn }, { op := 0x30, ga := 1, imm := 1, fn := 15, pn },
  { op := 0x38, fn := 1, pn }, { op := 0x38, fn := 3, pn }, { op := 0x39, imm := 65535, fn := 15, pn }, { op := 0x3A, imm := 1, fn := 15, pn },
  { op := 0x3B, gd := 31, fn := 5, pn }, { op := 0x3C, fn := 0, pn }, { op := 0x3C, fn := 1, pn }, { op := 0x3C, ga := 31, fn := 2, pn }, { op := 0x3D, pn }, { op := 0x3E, pn }]
/-- g29 and g30 hold the loop counts 1 and 2, g1 the last 8-aligned loft offset, g31 the address of the last instruction word. -/
def regs : Thread := { g := [(1, 0x13FFF8), (29, 1), (30, 2), (31, 0xFFF8)] }
theorem witness_Predicates_Branches_Memory : ∀ f ∈ restForms false,
    f.Fits ∧ Issues (onTile f.word regs) 0 0 f.word ∧ f.guard (onTile f.word regs) 0 0 = true := by
  have h : (restForms false).all (sReady (fun w => onTile w regs) true) = true := by decide
  exact fun f hf => sReady_spec (List.all_eq_true.mp h f hf)
theorem witness_FalseGuard : ∀ f ∈ aluWords true ++ restForms true,
    f.Fits ∧ Issues (onTile f.word regs) 0 0 f.word ∧ f.guard (onTile f.word regs) 0 0 = false := by
  have h : (aluWords true ++ restForms true).all (sReady (fun w => onTile w regs) false) = true := by decide
  exact fun f hf => sReady_spec (List.all_eq_true.mp h f hf)
theorem witness_Branches_targets : (onTile 0 regs).issuable 0 (0x2000 + (1#32).signExtend 64 * 8) ∧ (onTile 0 regs).issuable 0 0xFFF8 ∧
    (onTile 0 regs).g 0 0 30 - 1 ≠ 0 ∧ (onTile 0 regs).g 0 0 29 - 1 = 0 := by
  unfold State.issuable; decide

/-- Every size of load at the last aligned place of the loft, and the first address that ends the task. -/
theorem witness_LoftLoads : (∀ k, k < 4 → (loftBytes - 2 ^ k) % 2 ^ k = 0 ∧ up.loftBad 0 (loftBytes - 2 ^ k) (2 ^ k) = false) ∧
    ((onTile 0 regs).g 0 0 1 + (0#32).signExtend 64).toNat + 8 ≤ loftBytes ∧ loftBytes < ((onTile 0 regs).g 0 0 1 + (1#32).signExtend 64).toNat + 8 ∧
    Memory.wf (onTile 0x31 regs).mem = true ∧ ((onTile 0 regs).tile 0).firmware = false := by decide
/-- Every atomic of R235 in a size it permits, without and with its old value returned. -/
theorem witness_Atomics : ∀ aop, aop < 10 → ∃ size, size < 4 ∧ aopSize aop size = true := by decide
def atomWord (aop size : Nat) (ret : Bool) : SWord := { op := 0x32, gd := 31, ga := 1, gb := 30, imm := BitVec.ofNat 32 (aop * 2 ^ 28 + size * 2 ^ 26 + b2n ret * 2 ^ 24) }
theorem witness_Atomics_issue : ∀ e ∈ [(0, 0, true), (6, 3, false), (9, 3, true), (7, 1, true)], (atomWord e.1 e.2.1 e.2.2).Fits ∧
    Issues (onTile (atomWord e.1 e.2.1 e.2.2).word regs) 0 0 (atomWord e.1 e.2.1 e.2.2).word ∧ (atomWord e.1 e.2.1 e.2.2).guard (onTile (atomWord e.1 e.2.1 e.2.2).word regs) 0 0 = true := by
  have h : ([(0, 0, true), (6, 3, false), (9, 3, true), (7, 1, true)] : List (Nat × Nat × Bool)).all
    (fun e => sReady (fun w => onTile w regs) true (atomWord e.1 e.2.1 e.2.2)) = true := by decide
  exact fun e he => sReady_spec (List.all_eq_true.mp h e he)

/-- A store of thread 0 and a load that it waits for are outstanding, and another thread is on. -/
def busyTile (w : Nat) : State := { onTile w with accesses := [
  { issuer := .tile 0, tag := 0, purpose := .store 0 0x2000 0, req := { op := .write, src := tileEnd 0, dst := tileEnd 0, pos := 0 } }] }
theorem witness_Synchronisation : (∃ a ∈ (busyTile 0).accessesOf (.tile 0), a.releaseOf 0 = true) ∧ ((onTile 0).tile 0).pushedBy 0 = false ∧
    (∀ a ∈ (onTile 0).accessesOf (.tile 0), a.releaseOf 0 = false ∧ a.acquireOf 0 = false) ∧ ((onTile 0).tile 0).semOrder = [] ∧
    0 + 65535 ≤ 65535 ∧ smGetD ((onTile 0 {} { sems := [(15, 65535)] }).tile 0).sems 15 0 = 65535 ∧ (∀ k, k < 8 → k ≠ 0 → ((onTile 0).thread 0 k).st = .off) := by decide
/-- TREAD of the task's ticks, TEXIT and TEND in firmware, where no task runs. -/
theorem witness_Firmware_threads : ∀ f ∈ [({ op := 0x3B, gd := 31, fn := 4 } : SWord), { op := 0x3B, fn := 5 }, { op := 0x3D }, { op := 0x3E }],
    (f.Fits ∧ Issues (inFirmware f.word) 0 0 f.word ∧ f.guard (inFirmware f.word) 0 0 = true) ∧ ((inFirmware f.word).tile 0).task = none ∧
    (inFirmware f.word).bup.resets = [] ∧ (inFirmware f.word).bup.exiting = false := by
  have h : ([{ op := 0x3B, gd := 31, fn := 4 }, { op := 0x3B, fn := 5 }, { op := 0x3D }, { op := 0x3E }] : List SWord).all (sReady (fun w => inFirmware w) true) = true := by decide
  exact fun f hf => ⟨sReady_spec (List.all_eq_true.mp h f hf), rfl, rfl, rfl⟩
/-- FGET, FSET and FEND in firmware, at the last register of the tile's block and at ARR_ERR. -/
def fwThread : Thread := { g := [(1, 0xFFF8), (2, 0x1018), (3, 2 ^ 63)] }
theorem witness_Firmware : ∀ f ∈ [({ op := 0xF0, gd := 31, ga := 1 } : SWord), { op := 0xF1, ga := 2, gb := 3 }, { op := 0xF2 }],
    f.Fits ∧ Issues (inFirmware f.word fwThread) 0 0 f.word ∧ f.guard (inFirmware f.word fwThread) 0 0 = true := by
  have h : ([{ op := 0xF0, gd := 31, ga := 1 }, { op := 0xF1, ga := 2, gb := 3 }, { op := 0xF2 }] : List SWord).all
    (sReady (fun w => inFirmware w fwThread) true) = true := by decide
  exact fun f hf => sReady_spec (List.all_eq_true.mp h f hf)

theorem test_sub_wraps : (after (.sub 0 0) (onTile ({ op := 1, gd := 3, ga := 1, gb := 2 } : SWord).word { g := [(1, 0), (2, 1)] })).g 0 0 3 = -1 := by decide
theorem test_mulh_signed : (after (.mulh 0 0) (onTile ({ op := 3, gd := 3, ga := 1, gb := 1, fn := 1 } : SWord).word { g := [(1, -1)] })).g 0 0 3 = 0 := by decide
theorem test_mulh_unsigned : (after (.mulh 0 0) (onTile ({ op := 3, gd := 3, ga := 1, gb := 1 } : SWord).word { g := [(1, -1)] })).g 0 0 3 = -2 := by decide
theorem test_sar_by_65 : (after (.sar 0 0) (onTile ({ op := 9, gd := 3, ga := 1, gb := 2 } : SWord).word { g := [(1, -4), (2, 65)] })).g 0 0 3 = -2 := by decide
theorem test_movhi_keeps_low_half : (after (.movhi 0 0) (onTile ({ op := 0x0C, gd := 1, imm := 7 } : SWord).word { g := [(1, 0xFFFFFFFF)] })).g 0 0 1 = 0x7FFFFFFFF := by decide
theorem test_cmp_to_p0_is_dropped : ((after (.cmp 0 0) (onTile ({ op := 0x0D, gd := 0, ga := 1, gb := 2 } : SWord).word { g := [(1, 1)] })).thread 0 0).pred 0 = true := by decide
theorem test_br_counts_words : ((after (.br 0 0) (onTile ({ op := 0x20, imm := 3 } : SWord).word)).thread 0 0).pc = 0x2018 := by decide
theorem test_loop_falls_through : ((after (.loop 0 0) (onTile ({ op := 0x22, gd := 29, imm := 5 } : SWord).word regs)).thread 0 0).pc = 0x2008 := by decide
theorem test_call_links : (after (.call 0 0) (onTile ({ op := 0x23, gd := 31, imm := 4 } : SWord).word)).g 0 0 31 = 0x2008 := by decide
theorem test_st_then_byte : (after (.st 0 0) (onTile ({ op := 0x31, ga := 1, gb := 31, fn := 1 } : SWord).word regs)).loft 0 0x13FFF8 3 = [0xF8, 0xFF, 0] := by decide
theorem test_swait_takes : (smGetD ((after (.swait 0 0) (onTile ({ op := 0x3A, imm := 3, fn := 2 } : SWord).word {} { sems := [(2, 5)] })).tile 0).sems 2 0) = 2 := by decide

/-! ### Tasks -/

/-- Partition 3 of tenant 1 holds cluster 0, whose tiles 0, 1 and 2 are awake; ring 9 of port 0, function 4. -/
def home : State := { up with
  parts := [(3, { clusters := 1, tenant := some 1 })]
  bup := { up.bup with tiles := [(0, { power := .awake }), (1, { power := .awake }), (2, { power := .awake })] }
  funcs := [(fnKey 0 4, { st := .running, enable := true, tenant := some 1, evLog2 := 4 })]
  tenants := [(1, { bound := some (0, 4) })] }

def job : Launch := { ring := 9, seq := 5, tenant := 1, part := 3, args := [1, 2, 3, 4] }
/-- A packet of the operation that has reached its destination. -/
def arriving (op : PktOp) (dst : Endpoint) (m : Msg) : Packet := { op, src := tileEnd 1, dst, dests := [dst.router], pos := dst.router, out := true, msg := m, tenant := 1, part := 3 }
def carrying (s : State) (p : Packet) : State := { s with net := { pkts := [(0, p)], nextId := 1 } }

theorem witness_Launches : Delivered (carrying home (arriving .control (tileEnd 0) (.launch job))) 0 (arriving .control (tileEnd 0) (.launch job)) (.launch job) ∧
    home.tileOpen 0 = true ∧ home.launchFresh 0 job = true ∧ (home.tile 0).queue.length < 4 ∧ 0 < 1 ∧
    home.launchFresh 0 { job with epoch := 1 } = false ∧ home.launchFresh 0 { job with part := 2 } = false ∧
    (home.ctl 3).inReset = false ∧ home.tileOpen 3 = false ∧
    ({ home with bup := { home.bup with tiles := [(0, { inReset := true })] } } : State).tileOpen 0 = false :=
  ⟨⟨by decide, by decide, by decide⟩, by decide, by decide, by decide, by decide, by decide, by decide, by decide, by decide, by decide⟩

/-- The head launch of tile 0, after another tenant's task and after none, with its deadline ahead and past. -/
def waiting (prev : Option Nat) (now : DWord) (hard : Bool) : State := { home with
  tiles := [(0, { queue := [job], prevTenant := prev })]
  tick := { enable := true, state := .standalone, count := now, cfg := [(3, { hard })] } }
theorem witness_TaskStart : ((waiting (some 2) 0 true).tile 0).queue = [job] ∧ ((waiting (some 2) 0 true).tile 0).active = false ∧
    ((waiting none 0 true).ctl 0).power = .awake ∧ job.start.toNat ≤ (waiting none 0 true).tick.count.toNat ∧ (waiting none 0 true).launchFresh 0 job = true ∧
    (waiting none 0 true).hardMayStart = true ∧ (waiting none 0 true).tileHeld 0 = false ∧ (waiting none 0 true).pastGuard job.deadline = false ∧
    (waiting none 1 true).pastGuard job.deadline = true ∧ (waiting none 1 true).aborts 3 = true := by decide
theorem test_task_start_clears_loft : memGet (after (.taskStart 0) { waiting (some 2) 0 true with mem := [(loftAddr 0 5, 7), (loftAddr 1 5, 9)] }).mem (loftAddr 0 5) = 0 ∧
    memGet (after (.taskStart 0) { waiting (some 2) 0 true with mem := [(loftAddr 0 5, 7), (loftAddr 1 5, 9)] }).mem (loftAddr 1 5) = 9 := by decide

/-- A preparing task whose program is loaded, and a running one with threads 3 Ready and 5 in Miss with its answer. -/
def prep : Task := { launch := { job with mask := 0x81, progTag := 7 } }
def running : State := { home with tick := { enable := true, state := .standalone, inGuard := true }, tiles := [(0, {
  task := some { launch := job, phase := .running }
  threads := [(3, { st := .ready }), (5, { st := .miss, miss := some ⟨31, 2, true, 0x40, 0x2000, some (.ok, [0xFE, 0xFF], false)⟩ })] })] }
theorem witness_Threads : prep.phase = .preparing ∧ prep.launch.load = false ∧ prep.launch.progTag ≠ 0 ∧ prep.launch.progTag = ({ progTag := 7 } : Tile).progTag ∧
    (running.tile 0).rep = none ∧ ((running.tile 0).th ((0 + 1 + 2) % 8)).st = .ready ∧
    (∀ m, m < 2 → ((running.tile 0).th ((0 + 1 + m) % 8)).st ≠ .ready) ∧ (running.thread 0 5).st = .miss ∧
    running.tick.inGuard = true ∧ running.bup.grangerUp = true ∧ (running.tile 1).active = false ∧ (running.tile 1).firmware = false ∧
    (running.ctl 1).power = .awake := by decide
/-- The load of thread 5 has failed; thread 3's code stands in the mask of the preparing task. -/
theorem witness_Threads_failed_load : ((running.tile 0).th 5).miss.map (fun m => { m with ans := some (.busError, [], false) }) =
    some ⟨31, 2, true, 0x40, 0x2000, some (.busError, [], false)⟩ ∧ (running.tile 0).firmware = false ∧ prep.launch.mask.getLsbD 7 = true := by decide
theorem test_load_answer_is_extended : ((after (.missReturn 0 5) running).thread 0 5).g = [(31, -2)] := by decide
theorem test_thread_switch_takes_next : ((after (.threadSwitch 0 0) running).thread 0 3).st = .active := by decide
theorem test_prepared_threads : ((after (.taskPrepared 0 none none) { home with tiles := [(0, { task := some prep, progTag := 7 })] }).thread 0 7).g =
    [(0, 7), (1, 1), (2, 2), (3, 3), (4, 4)] := by decide

/-- A task that has ended, its ring and its descriptor; the partition is Soft, then Hard. -/
def ring9 : Ring := { port := 0, fn := 4, sq := 0x1000, cq := 0x2000, sizeLog2 := 4, slot := 3, fetched := 6, recorded := 5,
                      held := [{ seq := 5, bytes := 1, launchSent := true }] }
def ended (hard : Bool) : State := { home with
  rings := [(9, ring9)]
  tick := { cfg := [(3, { hard })] }
  tiles := [(0, { task := some { launch := job, phase := .ending }, threads := [(0, { st := .off })] })] }
def theReport : TaskReport := { ring := 9, seq := 5, code := 0 }
theorem witness_Reports : (ended true).mayReport 0 { launch := job, phase := .ending } = true ∧ Task.saves { launch := job, phase := .ending } = false ∧
    (ended true).openTickets 0 = false ∧ (ended true).killedOf 0 (ended true).drained633 = none ∧
    ((ended false).tickCfg 3).hard = false ∧ ((ended true).tickCfg 3).hard = true ∧ ((ended true).func 0 4).hasEvents = true ∧
    (carrying (ended true) (arriving .control (tileIo 0 0) (.report theReport))).reportFor 9 = some 0 := by decide
theorem witness_Reports_delivered : ∀ m ∈ [Msg.startReport 9 5, .miss 9 5 3, .report theReport],
    Delivered (carrying (ended true) (arriving .control (tileIo 0 0) m)) 0 (arriving .control (tileIo 0 0) m) m := by
  intro m hm
  simp only [List.mem_cons, List.not_mem_nil, or_false] at hm
  rcases hm with rfl | rfl | rfl <;> exact ⟨by decide, by decide, by decide⟩
set_option exponentiation.threshold 2000 in
set_option maxRecDepth 30000 in
theorem test_record_reaches_its_place : smGetD (after (.completionReport 9) (carrying (ended true) (arriving .control (tileIo 0 0) (.report theReport)))).hostMem
    (0x2000 + 64 * 5 + 4) 0 = 5 := by decide
theorem test_start_report_lets_ring_go_on : (smGet (after (.startReport 0) (carrying (ended true) (arriving .control (tileIo 0 0) (.startReport 9 5)))).rings 9).map
    (fun x => x.held.map (·.launchSent)) = some [false] := by decide

/-! ### Streams and links -/

/-- As `onTile`, on a module that has come up, in partition 3 of tenant 1. -/
def onHome (w : Nat) (h : Thread := {}) (x : Tile := {}) : State := { home with tiles := (onTile w h x).tiles, mem := (onTile w h x).mem }

/-- A descriptor of 32 four-byte elements in halves of 64 bytes from loft offset 64. -/
def d0 (dir : Nat) : Desc := { base := 0x100000, dir, esz := 2, peerTile := 1, peerSlot := 2, buf := 1, half := 1, counts := [32, 1, 1, 1, 1], strides := [4, 0, 0, 0, 0] }
/-- Its 64 bytes at loft offset 0x1000. -/
def descBytes (dir : Nat) : List Byte := leBytes 8 0x100000 ++ leBytes 8 (dir + 2 * 2 ^ 4 + 2 * 2 ^ 11 + 1 * 2 ^ 16 + 1 * 2 ^ 32 + 1 * 2 ^ 47) ++ leBytes 3 31
  ++ List.replicate 13 0 ++ leBytes 6 4 ++ List.replicate 26 0
def armed (w dir : Nat) : State := let s := onHome w { g := [(31, 0x1000)] }; { s with mem := memPutList s.mem (loftAddr 0 0x1000) (descBytes dir) }
def sarmWord : Nat := 0x50 * 2 ^ 56 + 31 * 2 ^ 46 + 31 * 2 ^ 36
set_option maxRecDepth 4000 in
theorem witness_Sarm : ∀ dir ∈ [0, 1, 3], Issues (armed sarmWord dir) 0 0 sarmWord ∧ (armed sarmWord dir).tileHeld 0 = false ∧ ((armed sarmWord dir).slot 0 31).st = .idle ∧
    Desc.ofBytes ((armed sarmWord dir).loft 0 0x1000 64) = d0 dir ∧ descReserved ((armed sarmWord dir).loft 0 0x1000 64) = true ∧
    (armed sarmWord dir).descOk 0 (d0 dir) = true ∧ (armed sarmWord dir).loftBad 0 0x1000 64 = false := by
  intro dir h
  simp only [List.mem_cons, List.not_mem_nil, or_false] at h
  rcases h with rfl | rfl | rfl <;> exact ⟨issues (by decide), by decide, by decide, by decide, by decide, by decide, by decide⟩

/-- A tile with slot 31 as given. -/
def withSlot (w : Nat) (x : Slot) (h : Thread := {}) : State := onHome w h { str := { slots := [(31, x)] } }
def filled : Slot := { st := .active, d := { d0 0 with persistent := true }, h0 := { st := .ready, bytes := 64 }, h1 := { st := .engine, bytes := 64, group := 1 }, nextDel := 16 }
def taken : Slot := { filled with h0 := { st := .taken, bytes := 64 }, takeHalf := 1 }
def output : Slot := { st := .active, d := d0 1, h0 := { st := .taken }, h1 := { st := .free }, takeHalf := 1 }
def w31 (op gd ga gb : Nat) : Nat := op * 2 ^ 56 + gd * 2 ^ 51 + ga * 2 ^ 46 + gb * 2 ^ 41 + 31 * 2 ^ 36
set_option maxRecDepth 4000 in
theorem witness_StreamInstructions : Issues (withSlot (w31 0x51 0 0 0) filled) 0 0 (w31 0x51 0 0 0) ∧ filled.takenCount = 0 ∧
    (withSlot 0 filled).descOk 0 { filled.d with base := 0 } = true ∧ Issues (withSlot (w31 0x52 31 0 0) filled) 0 0 (w31 0x52 31 0 0) ∧ filled.isInput = true ∧
    (filled.half filled.takeHalf).st = .ready ∧ (taken.half taken.takeHalf).st ≠ .ready ∧ taken.nextDel < taken.d.total ∧
    Issues (withSlot (w31 0x53 0 0 0) taken) 0 0 (w31 0x53 0 0 0) ∧ (taken.half taken.relHalf).st = .taken ∧
    Issues (withSlot (w31 0x54 0 0 30) output { g := [(30, 64)] }) 0 0 (w31 0x54 0 0 30) ∧ output.isOutput = true ∧ (output.half output.relHalf).st = .taken ∧
    output.d.groupLen output.pushGroup * output.d.elem = 64 ∧ 64 ≤ output.d.halfBytes ∧
    Issues (withSlot (w31 0x55 0 29 0) filled) 0 0 (w31 0x55 0 29 0) ∧ 16 % filled.d.perHalf = 0 ∧ 16 ≤ filled.d.total ∧
    Issues (withSlot (w31 0x56 0 0 0) output) 0 0 (w31 0x56 0 0 0) ∧ (withSlot 0 output).slotWrites 0 31 = false ∧
    Issues (withSlot (w31 0x57 0 0 0) filled) 0 0 (w31 0x57 0 0 0) ∧ filled.tentGroup = none ∧ ({ output with h0 := { st := .engine } } : Slot).draining = true ∧
    Issues (withSlot (w31 0x58 31 0 0) filled) 0 0 (w31 0x58 31 0 0) :=
  ⟨issues (by decide), by decide, by decide, issues (by decide), by decide, by decide, by decide, by decide, issues (by decide), by decide, issues (by decide), by decide,
   by decide, by decide, by decide, issues (by decide), by decide, by decide, issues (by decide), by decide, issues (by decide), by decide, by decide, issues (by decide)⟩
theorem test_swaitb_half_word : (after (.swaitb 0 0) (withSlot (w31 0x52 31 0 0) filled)).g 0 0 31 = 64 * 2 ^ 21 + 64 := by decide
set_option maxRecDepth 8000 in
theorem test_srel_fills_again : (((after (.srel 0 0) (withSlot (w31 0x53 0 0 0) taken)).slot 0 31).h0.st, ((after (.srel 0 0) (withSlot (w31 0x53 0 0 0) taken)).slot 0 31).relHalf)
    = (.engine, 1) := by decide

/-- A leaf that lets tenant 1 read its page of 64 KiB, in the tile's cache; an input slot whose first half waits for data. -/
def leaf : Leaf := { tenant := 1, vpn := 0x10, log2 := 16, entry := 0x200007 }
def reading (tlb : List Leaf) : State := let s := onHome 0; { s with tiles := [(0, { s.tile 0 with str := { tlb, slots := [(31, { filled with h0 := { bytes := 64 }, nextDel := 0 })] } })] }
theorem witness_StreamEngine : ((reading [leaf]).slot 0 31).st = .active ∧ (reading [leaf]).tileHeld 0 = false ∧ (reading [leaf]).slotReady 0 31 = true ∧
    ((reading [leaf]).tile 0).str.share (classOf .read false) ≠ 0 ∧ (∀ j, j < 32 → j ≠ 31 → (reading [leaf]).slotReady 0 j = false) ∧
    (reading [leaf]).slotXlate 0 31 0x100000 needRead = .ok 0x200000 leaf ∧ (reading []).slotXlate 0 31 0x100000 needRead = .miss ∧
    (reading []).slotReady 0 31 = true ∧ ((reading []).slot 0 31).xlate = false ∧ ((reading [leaf]).slot 0 31).nextSpan = (0x100000, 64, 15, 16, 0) ∧
    xlateIn [leaf] 1 0x100000 needRead = .ok 0x200000 leaf ∧ ((reading [leaf]).tileReq 0 .read 0x200000 64 []).isSome = true ∧
    xlateIn [] 1 0x100000 needRead = .miss := by decide
theorem witness_StreamEngine_delivery : ({ filled with h0 := { bytes := 64, count := 64 }, nextDel := 0 } : Slot).dueHalf = some 0 ∧
    ({ filled with h0 := { bytes := 64, count := 64 }, nextDel := 0, faults := [⟨15, 1, 6, 0⟩] } : Slot).groupFault 0 = some ⟨15, 1, 6, 0⟩ ∧
    (carrying home { arriving .read (tileIo 0 0) (.xlate 39 1 0x100000 needRead) with src := tileEnd 0 }).arrived 0 .read
      = some { arriving .read (tileIo 0 0) (.xlate 39 1 0x100000 needRead) with src := tileEnd 0 } ∧
    ifaceAt (tileIo 0 0) = .io 0 0 ∧ tlbFind (smGetD home.xsvc 0 []) 1 0x100000 = none ∧
    (carrying home (arriving .readRsp (tileEnd 0) (.xlateRsp 7 0x100000 none))).arrived 0 .readRsp = some (arriving .readRsp (tileEnd 0) (.xlateRsp 7 0x100000 none)) := by decide
theorem test_translation_fills_cache : ((after (.translationResponse 0) (carrying (reading []) (arriving .readRsp (tileEnd 0) (.xlateRsp 39 0x100000 (some leaf))))).tile 0).str.tlb = [leaf] := by decide

/-- A linked slot of tile 0 whose peer is slot 2 of tile 1, and a packet from there. -/
def linked (x : Slot) (p : Packet) : State := carrying (withSlot 0 x) p
def inLink : Slot := { st := .active, d := d0 3, h0 := { bytes := 64 }, h1 := { bytes := 64, group := 1 } }
def outLink : Slot := { st := .active, d := d0 2, h0 := { st := .free }, h1 := { st := .free } }
def fromPeer (op : PktOp) (m : Msg) : Packet := { arriving op (tileEnd 0) m with slot := 31, srcSlot := 2, group := 64, size := 64, data := List.replicate 64 7 }
theorem witness_LinkPackets : ((linked inLink (fromPeer .linkHalf .none)).tile 0).task.map (·.phase) = some .running ∧ ((linked inLink (fromPeer .linkHalf .none)).ctl 0).inReset = false ∧
    (linked inLink (fromPeer .linkHalf .none)).tileOpen 0 = true ∧ (linked inLink (fromPeer .linkHalf .none)).partOfTile 0 = some 3 ∧
    (linked inLink (fromPeer .linkHalf .none)).partEpoch 3 = (fromPeer .linkHalf .none).epoch ∧
    (linked inLink (fromPeer .linkHalf .none)).arrived 0 .linkHalf = some (fromPeer .linkHalf .none) ∧
    (linked inLink (fromPeer .linkHalf .none)).peerOk 0 inLink 1 2 64 1 = true ∧ inLink.expectHalf = some 0 ∧ (inLink.half 0).bytes = 64 ∧
    (linked outLink (fromPeer .linkCredit .none)).peerOk 0 outLink 1 2 64 1 = true ∧ inLink.peerIs (fromPeer .linkToken .none) = true ∧
    inLink.nextDel < inLink.d.total ∧ ({ inLink with nextDel := 32 } : Slot).d.total ≤ 32 ∧ outLink.peerIs (fromPeer .linkToken .none) = true := by decide
theorem test_link_credit_adds : ((after (.linkCredit 0) (linked outLink { fromPeer .linkCredit .none with size := 2 })).slot 0 31).credits = 2 := by decide
theorem test_tentative_half_is_held : ((after (.linkHalf 0) (linked inLink { fromPeer .linkHalf .none with tentative := true })).slot 0 31).h0.held = true := by decide

/-! ### Winnow -/

def wWord (op r low : Nat) : Nat := op * 2 ^ 56 + 3 * 2 ^ 54 + r * 2 ^ 49 + low
def wTile (w : Nat) (tk : Ticket) (h : Thread := {}) : State := onHome w h { win := { tickets := [(3, tk)] } }
def wpeekWord (mt : Nat) : Nat := 0x64 * 2 ^ 56 + 31 * 2 ^ 51 + 30 * 2 ^ 46 + 31 * 2 ^ 36 + mt * 2 ^ 33
def wboundWord (n : Nat) : Nat := 0x66 * 2 ^ 56 + 31 * 2 ^ 51 + 30 * 2 ^ 46 + 29 * 2 ^ 41 + 28 * 2 ^ 36 + 27 * 2 ^ 31 + (n - 1) * 2 ^ 7 + 2 ^ 6 + 2 ^ 5
def heldIn : Slot := { inLink with h0 := { bytes := 64, count := 64, held := true, tag := 9 } }
set_option maxRecDepth 20000 in
theorem witness_WinnowInstructions : Issues (wTile (wWord 0x60 31 4) {}) 0 0 (wWord 0x60 31 4) ∧ (wTile 0 {}).tileW 0 = 28 + 4 ∧
    Issues (wTile (wWord 0x61 31 4) { st := .open }) 0 0 (wWord 0x61 31 4) ∧
    Issues (withSlot (wWord 0x62 0 (31 * 2 ^ 36)) outLink) 0 0 (wWord 0x62 0 (31 * 2 ^ 36)) ∧ outLink.d.halfBytes ≤ 16384 ∧ outLink.ticket = none ∧
    Issues (wTile (wWord 0x63 31 (2 ^ 32)) { st := .resolved }) 0 0 (wWord 0x63 31 (2 ^ 32)) ∧ Issues (wTile (wWord 0x63 31 (2 ^ 32)) { st := .open }) 0 0 (wWord 0x63 31 (2 ^ 32)) ∧
    Issues (wTile (wWord 0x63 0 0) { st := .open, predDone := true }) 0 0 (wWord 0x63 0 0) ∧
    Issues (onHome (0x65 * 2 ^ 56 + 0xFFFFFFFF * 2 ^ 8)) 0 0 (0x65 * 2 ^ 56 + 0xFFFFFFFF * 2 ^ 8) ∧
    Issues (withSlot (wpeekWord 3) heldIn { spec := some 0x2000 }) 0 0 (wpeekWord 3) ∧ Issues (withSlot (wpeekWord 0) heldIn { spec := some 0x2000 }) 0 0 (wpeekWord 0) ∧
    heldIn.peekable = true ∧ filled.peekable = true ∧ 0 + mtBytes 2 ≤ heldIn.d.halfBytes ∧ (heldIn.d.halfOff 0 + 0) % mtBytes 2 = 0 ∧
    Issues (onHome (wboundWord 1)) 0 0 (wboundWord 1) ∧ Issues (onHome (wboundWord (2 ^ 24))) 0 0 (wboundWord (2 ^ 24)) ∧ (onHome 0).vgood 0 0 [30, 29, 28] :=
  ⟨issues (by decide), by decide, issues (by decide), issues (by decide), by decide, by decide, issues (by decide), issues (by decide), issues (by decide), issues (by decide),
   issues (by decide), issues (by decide), by decide, by decide, by decide, by decide, issues (by decide), issues (by decide), by intro r _; simp [State.vregBad, onHome, home, up, State.reset]⟩
set_option maxRecDepth 20000 in
theorem test_wwait_counts : (after (.wwait 0 0) (wTile (wWord 0x63 31 (2 ^ 32)) { st := .resolved, fail := true, pred := 0x7, chk := 0xB, repair := 0x8 })).g 0 0 31
    = 2 ^ 63 + 2 ^ 62 + 1 * 2 ^ 48 + 3 * 2 ^ 32 + 3 * 2 ^ 16 + 1 := by rfl

/-- A good descriptor at loft offset 0x1000: one row and one block of columns, rank 1, every operand at 0x2000, the masks at 0x4000. -/
def jobBytes : List Byte := (List.range 8).flatMap (fun _ => leBytes 4 0x2000) ++ leBytes 4 0x4000 ++ leBytes 2 64 ++ leBytes 2 0 ++ [0, 0, 1, 0] ++ List.replicate 20 0
def jobTile (w : Winnow) : State := let s := onHome 0 {} { win := w }; { s with mem := memPutList s.mem (loftAddr 0 0x1000) jobBytes }
def q1 : WinJob := { ticket := 3, off := 0x1000 }
set_option maxRecDepth 8000 in
theorem witness_WinnowJobs : ((jobTile { predQ := [q1] }).loft 0 0x1000 64) = jobBytes ∧ (Job.ofBytes jobBytes).ok jobBytes 32 false = true ∧
    (Job.ofBytes jobBytes).ok jobBytes 32 true = true ∧ (jobTile { predQ := [q1] }).loftBad 0 0x1000 64 = false ∧ 0x1000 % 64 = 0 ∧ 0x1020 % 64 ≠ 0 ∧
    (Job.ofBytes jobBytes).nb = 1 ∧ ((jobTile { tickets := [(3, { nb := 1 })] }).ticket 0 3).nb = 1 ∧ ((jobTile {}).ticket 0 3).nb = 0 := by decide
theorem noLoftErr (s : State) (t off len a b : Nat) (h : s.bad = []) : s.loftErr t off len a b = none := by
  simp [State.loftErr, State.loftBad, State.badMem, h]
theorem firstOf_none : ∀ l : List (Option UnitErr), (∀ e ∈ l, e = none) → firstOf l = none
  | [], _ => rfl
  | e :: r, h => by rw [h e (by simp)]; exact firstOf_none r (fun x hx => h x (by simp [hx]))
/-- Without damage every operand of a job reads well. -/
theorem noJobErr (s : State) (t W : Nat) (j : Job) (c : Bool) (h : s.bad = []) : s.jobErr t W j c = none := by
  refine firstOf_none _ (fun e he => ?_)
  cases c <;> simp only [List.mem_append, List.mem_map, List.mem_flatMap, List.mem_singleton, noLoftErr _ _ _ _ _ _ h, if_true, if_false, Bool.false_eq_true] at he <;> aesop
theorem witness_WinnowJobs_run (c : Bool) : (jobTile { predRun := some q1, chkRun := some q1, tickets := [(3, { st := .open, predDone := true })] }).jobErr 0 32
    (Job.ofBytes jobBytes) c = none := noJobErr _ _ _ _ _ (by simp [jobTile, onHome, home, up, State.reset])

set_option maxRecDepth 20000 in
/-- Good ticket state, a job whose masks read well, and threads that no squash redirects. -/
theorem witness_Winnow_parity : (wTile (wWord 0x61 31 4) { st := .open }).isBad (.ticket 0 3) = false ∧ (wTile (wWord 0x63 31 (2 ^ 32)) { st := .resolved }).isBad (.ticket 0 3) = false ∧
    ({ q1 with desc := jobBytes } : WinJob).desc = jobBytes ∧ (jobTile { chkRun := some { q1 with desc := jobBytes } }).loftErr 0 0x4000 32 4 0 = none ∧
    (∀ thr, ((carrying home (fromPeer .linkToken (.token .commit))).thread 0 thr).redirect = false) :=
  ⟨by decide, by decide, rfl, noLoftErr _ _ _ _ _ _ (by simp [jobTile, onHome, home, up, State.reset]), fun _ => rfl⟩

/-- COMMIT and SQUASH of the held half that thread 4 has peeked at. -/
theorem witness_WinnowJobs_tokens : heldIn.peerIs (fromPeer .linkToken (.token .commit)) = true ∧ heldIn.h0.held = true ∧ heldIn.h1.held = false ∧
    (carrying home (fromPeer .linkToken (.token .squash))).arrived 0 .linkToken = some (fromPeer .linkToken (.token .squash)) := by decide
def peeked (m : Msg) : State := let s := linked heldIn (fromPeer .linkToken m)
  { s with tiles := [(0, { s.tile 0 with threads := [(4, { st := .ready, pc := 0x3000, spec := some 0x2000, taint := [(31, 0)] })] })] }
set_option maxRecDepth 20000 in
theorem test_squash_redirects : ((after (.squash 0) (peeked (.token .squash))).thread 0 4).pc = 0x2000 := by decide
set_option maxRecDepth 20000 in
theorem test_commit_keeps_running : ((after (.commit 0) (peeked (.token .commit))).thread 0 4).pc = 0x3000 ∧ ((after (.commit 0) (peeked (.token .commit))).thread 0 4).taint = [] := by decide

/-! ### The torus -/

/-- A request of 8 bytes from tile 1 to the last 8 bytes of tile 0's loft. -/
def request (op : PktOp) : Packet := { arriving op (tileEnd 0) .none with
  addr := BitVec.ofNat 64 (tileBase 0 + loftBytes - 8), size := 8, data := [1, 2, 3, 4, 5, 6, 7, 8], issuer := .tile 1, operand := 5 }
def readMem : State := { home with mem := [(loftAddr 0 (loftBytes - 8), 9)] }
theorem witness_Requests_tile : ∀ op ∈ [PktOp.read, .write, .atomic], (carrying readMem (request op)).arrived 0 op = some (request op) ∧
    ifaceAt (request op).dst = .tile 0 ∧ (carrying readMem (request op)).tileRefuses 0 (request op) = none ∧ (carrying readMem (request op)).tileOpen 0 = true ∧
    (carrying readMem (request op)).reach (gLocal (request op).addr) 8 = .loft 0 (loftBytes - 8) ∧ atomicOk 0 8 (loftAddr 0 (loftBytes - 8)) = true ∧
    (carrying readMem (request op)).loftBad 0 (loftBytes - 8) 8 = false ∧ Memory.wf readMem.mem = true := by decide
theorem test_read_is_answered : (smGet (after (.read 0) (carrying readMem (request .read))).net.pkts 1).map (fun p => (p.op, p.data)) =
    some (.readRsp, [9, 0, 0, 0, 0, 0, 0, 0]) := by decide
theorem test_atomic_adds : (after (.atomic 0) (carrying readMem (request .atomic))).loft 0 (loftBytes - 8) 2 = [14, 0] := by decide
theorem test_absorbed_in_reset : (smGet (after (.write 0) { carrying readMem (request .write) with bup := { up.bup with tiles := [(0, { inReset := true })] } }).net.pkts 1).map
    (·.status) = some .absorbed := by decide

/-- A request to the last block of stack 7, and a multicast write to tile 0. -/
def toStack (op : PktOp) : Packet := { arriving op (memEnd 7 15) .none with addr := BitVec.ofNat 64 (stackBase 7 + Config.stackBytes - 256), size := 256 }
def tested7 : State := { home with hbm := [(7, { st := .running, tested := true })] }
theorem witness_Requests_stack : ∀ op ∈ [PktOp.read, .write], (carrying tested7 (toStack op)).arrived 0 op = some (toStack op) ∧ ifaceAt (toStack op).dst = .mem 7 15 ∧
    (carrying tested7 (toStack op)).target (gLocal (toStack op).addr) = .stack 7 (Config.stackBytes - 256) ∧ (tested7.stack 7).serves = true ∧
    tested7.rtPart (toStack op) = none ∧ (tested7.stack 7).rowUnscrubbed (Config.stackBytes - 256) = false ∧
    (tested7.pch 7 ((tested7.stack 7).place (Config.stackBytes - 256)).pch).st ≠ .lost ∧
    (tested7.pch 7 ((tested7.stack 7).place (Config.stackBytes - 256)).pch).queue.length < 64 ∧ (carrying tested7 (toStack op)).firstAtPort (toStack op) = true ∧
    (tested7.stack 7).scrubWaits (toStack op).issuer = false ∧ (tested7.stack 7).st ≠ .selfRefresh := by decide
theorem witness_Requests_multicast : (carrying home (request .mcastWrite)).arrived 0 .mcastWrite = some (request .mcastWrite) ∧ home.tileOpen 0 = true ∧
    home.partOfTile 0 = some 3 ∧ (home.partRec 3).tenant = some 1 ∧ home.partEpoch 3 = (request .mcastWrite).epoch ∧
    gLocal 0x13FF00 + 256 ≤ loftBytes := by decide

/-- Tile 0 has a load of thread 5, a store and a multicast outstanding, with their answers at its interface. -/
def acc (tag : Nat) (p : Purpose) (due : Nat) : Access := { issuer := .tile 0, tag, purpose := p, mcDue := due, req := { op := .read, src := tileEnd 0, dst := tileEnd 1, pos := 0 } }
def issuing : State := { running with
  tiles := [(0, { running.tile 0 with threads := [(5, { st := .miss, miss := some ⟨31, 2, true, 0x40, 0x2000, none⟩ })] })]
  accesses := [acc 0 (.miss 5) 0, acc 1 (.store 5 0x2000 0x80) 0, acc 2 (.store 5 0 0) 2] }
def reply (op : PktOp) (tag : Nat) (st : Status) : Packet := { arriving op (tileEnd 0) .none with issuer := .tile 0, tag, status := st, data := [0xFE, 0xFF] }
theorem witness_Answers : ∀ e ∈ [(PktOp.readRsp, 0, Status.ok), (.atomicRsp, 0, .absent), (.writeAck, 1, .ok), (.writeAck, 1, .absorbed), (.mcastAck, 2, .epochStale)],
    (carrying issuing (reply e.1 e.2.1 e.2.2)).arrived 0 e.1 = some (reply e.1 e.2.1 e.2.2) ∧
    ((carrying issuing (reply e.1 e.2.1 e.2.2)).access (.tile 0) e.2.1).any (fun a => !issuing.lateAnswer a && !a.req.reread && !a.dropped) = true := by decide
theorem witness_Answers_task : (issuing.tile 0).task = some { launch := job, phase := .running } ∧ (issuing.tile 0).firmware = false ∧
    issuing.accesses[0]? = some (acc 0 (.miss 5) 0) ∧ (acc 0 (.miss 5) 0).held = false ∧ (issuing.thread 0 5).miss = some ⟨31, 2, true, 0x40, 0x2000, none⟩ ∧
    2 ≤ (acc 2 (.store 5 0 0) 2).mcDue := by decide
/-- An answer whose access has ended: none has its tag, or the one that has it is another. -/
theorem witness_Answers_discarded : (carrying home (reply .readRsp 0 .ok)).arrived 0 .readRsp = some (reply .readRsp 0 .ok) ∧
    (carrying home (reply .readRsp 0 .ok)).access (.tile 0) 0 = none ∧
    ((carrying issuing { reply .readRsp 0 .ok with uid := 7 }).access (.tile 0) 0).any (fun a => a.uid != 7) = true ∧
    ((carrying issuing (reply .readRsp 0 .ok)).access (.tile 0) 0).any (fun a => a.uid == (reply .readRsp 0 .ok).uid) = true := by decide
theorem test_late_answer_is_discarded : ((after (.readRsp 0) (carrying issuing { reply .readRsp 0 .ok with uid := 7 })).accesses.length,
    (after (.readRsp 0) (carrying issuing { reply .readRsp 0 .ok with uid := 7 })).net.pkts) = (3, []) := by decide
theorem test_timeout_is_bus_error : ((after (.accessTimeout 0) issuing).thread 0 5).miss.map (·.ans) = some (some (.busError, [], false)) := by decide

/-- Packets one step from their destination over the wrap of the torus in x, and half-way round in y. -/
def passing (pos d : Nat) : Packet := { op := .read, src := tileEnd pos, dst := tileEnd d, dests := [d], pos }
theorem witness_PacketForward : (smGet (carrying home (passing 47 0)).net.pkts 0 = some (passing 47 0) ∧ 0 < (carrying home (passing 47 0)).net.nextId ∧ hopPort 47 0 = some 0 ∧
      (carrying home (passing 47 0)).mayHop (passing 47 0) = true ∧ (carrying home (passing 47 0)).served (passing 47 0) 0 = true ∧
      (carrying home (passing 0 0)).mayHop (passing 0 0) = true ∧ (carrying home (passing 0 0)).served (passing 0 0) 4 = true ∧
      (passing 0 0).dst.port = 4) ∧
    hopPort 0 47 = some 1 ∧ hopPort 0 (24 * 48) = some 2 ∧ hopPort 0 (25 * 48) = some 3 ∧ hopPort 2303 0 = some 0 ∧ hopPort 24 0 = some 0 ∧
    clusterFirst (tileCluster 0) = 0 ∧ (home.router 0).glCtrl.getLsbD 0 = false ∧ (0x700#32).getLsbD 1 = false :=
  ⟨by decide, by decide, by decide, by decide, by decide, by decide, by decide, by decide, by decide⟩
theorem test_hop_over_the_wrap : (smGet (after (.packetForward 0 {} 0) (carrying home (passing 47 0))).net.pkts 0).map (·.pos) = some 0 := by decide
theorem test_two_bad_routing_copies_sink : (after (.packetForward 0 { route := 1, copy := 2 } 0) (carrying home (passing 47 0))).net.pkts = [] := by decide

/-! ### The Granary -/

/-- Stack 7 in service; its last pseudo-channel holds one read, has a refresh owed, and real-time work on demand. -/
def oneRead : PchReq := { pkt := toStack .read, order := 3, bank := 15, row := 9 }
def pchs (p : Pch) : State := { up with tick := { inGuard := true }, hbm := [(7, { st := .running, tested := true, pchs := [(63, p)] })] }
theorem witness_PseudoChannels : ((pchs { queue := [oneRead] }).stack 7).serves = true ∧ ((pchs { queue := [oneRead] }).stack 7).st ≠ .selfRefresh ∧
    ((pchs { queue := [oneRead] }).pch 7 63).queue = [oneRead] ∧ 0 < ((pchs { queue := [oneRead] }).pch 7 63).budget ∧
    ((pchs {}).stack 7).clocked = true ∧ ((pchs { credit := 4 }).pch 7 63).rtQueued = false ∧ 0 < ((pchs { credit := 4 }).pch 7 63).credit ∧
    ((pchs { queue := [{ oneRead with rt := true }], credit := 3 }).pch 7 63).rtQueued = true ∧
    max 1 ((pchs { queue := [oneRead] }).eccAt (stackBase 7 + (pchs { queue := [oneRead] }).reqOff oneRead) 256) < 2 ∧
    max 2 ((pchs { queue := [oneRead] }).eccAt (stackBase 7 + (pchs { queue := [oneRead] }).reqOff oneRead) 256) = 2 ∧
    ((pchs { st := .recentring }).pch 7 63).st = .recentring := by decide
theorem test_fifth_postponed_refresh_is_issued : ((after (.refreshDue 7 63) (pchs { queue := [{ oneRead with rt := true }], credit := 4 })).pch 7 63).credit = 4 ∧
    ((after (.refreshDue 7 63) (pchs { queue := [{ oneRead with rt := true }], credit := 3 })).pch 7 63).credit = 4 := by decide
theorem test_hot_above_85 : ((after (.stackTempRead 7 86) (pchs {})).stack 7).hot = true ∧ ((after (.stackTempRead 7 85) (pchs {})).stack 7).hot = false := by decide

/-- Sweeps whose lanes have runs of 16 passing taps, and of 15. -/
def eyes : List (BitVec 128) := List.replicate 8 0xFFFF0
def blind : List (BitVec 128) := List.replicate 8 0x7FFF0
set_option maxRecDepth 30000 in
theorem witness_Stacks : ((up.stack 7).st = .untrained ∧ 7 < up.part.nStacks) ∧ (pchs {}).tick.inGuard = true ∧ (pchs {}).bup.grangerUp = true ∧
    ((pchs {}).stack 7).clocked = true ∧ ((pchs {}).pch 7 63).st = .inService ∧ (List.range 4).all (laneEye eyes) = true ∧ (List.range 4).all (laneEye blind) = false ∧
    2 < 0 + ((List.range 4).filter (fun b => !laneEye blind b)).length ∧ (pchs {}).anyBusy = false ∧ ((pchs {}).stack 7).unscrubbed = [] ∧
    (∀ e ∈ ((pchs {}).stack 7).pchs, e.2.queue = []) ∧ (pchs {}).partBusy 63 = false ∧
    64 * (((pchs {}).stack 7).resvSum - 0 + 1500) ≤ ((pchs {}).stack 7).cap64 := by decide
theorem witness_Stacks_registers : ∀ off ∈ [0x20, 0x28, 0x400, 0x400 + 8 * 63], Writable (pchs {}) .granger (grnBlock 7 + off) := by
  intro off h
  simp only [List.mem_cons, List.not_mem_nil, or_false] at h
  rcases h with rfl | rfl | rfl | rfl <;> exact writable (by decide)
/-- A stack that scrubs its last row. -/
theorem witness_Stacks_scrub : ({ st := .scrubbing, unscrubbed := [15258] } : Stack).unscrubbed = 15258 :: [] ∧ 15258 ∉ ([] : List Nat) ∧
    (∀ e ∈ ({ st := .scrubbing, unscrubbed := [15258] } : Stack).pchs, ∀ q ∈ e.2.queue, q.scrubWait = false) := by decide
/-- A stack 4 degrees from where its pseudo-channel was centred, 1 ms before; a pending remap that the coming window arms. -/
def drifted : State := { pchs {} with hbm := [(7, { st := .running, tested := true, temp := 44, pchs := [(63, { centred := 40 })] })],
                                      tick := { enable := true, state := .standalone, inGuard := true, count := 4 } }
theorem witness_Stacks_recentre : drifted.mayRecentre 7 63 = true ∧ within8 0x0000408 0 = true ∧ within8 0x9 0 = false ∧
    ({ remap := .pending, remapArmed := true } : Stack).remapArmed = true ∧ ({ remap := .pending } : Stack).remapArmed = false := by decide
theorem test_recentre_needs_a_drift : ((after (.recentre 7 63 false 0 0) { drifted with hbm := [(7, { st := .running, tested := true, temp := 43, pchs := [(63, { centred := 40 })] })] }).pch 7 63).st
    = .inService ∧ ((after (.recentre 7 63 false 0 0) drifted).pch 7 63).st = .recentring := by decide
theorem test_lost_pseudo_channel_is_remapped : ((after (.remapRequest .granger 7 63) (pchs { st := .lost })).stack 7).remap = .pending := by decide

/-! ### The fabric -/

/-- Module 0 with ports 5 and 31 Up; frames for module 2 leave by port 31, one lane up. -/
def upPort : FPort := { st := .up }
def runLink : Link := { enable := true, phase := .running }
def fabric : State := { up with
  fab := { dies := [(0, { enable := true }), (3, { enable := true })], ports := [(5, upPort), (31, upPort)]
           routing := [(2, BitVec.ofNat 64 (2 ^ 63 + 31 * 2 ^ 57 + 2 ^ 51 + 2 ^ 50))] }
  links := [(5, runLink), (31, runLink)] }
def arrived (f : Frame) : State := { fabric with fab := { fabric.fab with parcels := [(0, { inPort := some 5, die := 0, frame := f })], nextParcel := 1 } }
theorem witness_Frames : (Route.ofWord (smGetD fabric.fab.routing 2 0).toNat).valid = true ∧ (Route.ofWord (smGetD fabric.fab.routing 3 0).toNat).valid = false ∧
    ({ op := .write, dst := 2, lane := 2, hops := 63 } : Frame).routed = true ∧ fabric.isBad (.table 0 2) = false ∧ 2 ≠ fabric.ownId ∧
    fabric.orderedPort 2 (Route.ofWord (smGetD fabric.fab.routing 2 0).toNat) = some (31, true) ∧ fabric.linkTakes 31 = true ∧ (fabric.fport 31).queue = [] ∧
    (arrived { op := .write, dst := 2, lane := 2 }).mustWait 0 { inPort := some 5, die := 0, frame := { op := .write, dst := 2, lane := 2 } } = false ∧
    fabric.adaptPorts (Route.ofWord (smGetD fabric.fab.routing 2 0).toNat) = [] ∧ FrameOp.ordered .write = true ∧ FrameOp.ordered .readRsp = false ∧
    FrameOp.isRequest .read = true ∧ (arrived { op := .read, dst := 3 }).fab.nextParcel = 1 := by decide
/-- A port whose link takes a frame at once. -/
theorem takes {s : State} {q : Nat} {f : Frame} (h : s.linkTakes q = true ∧ (s.link q).retry.length < 255 ∧ (s.fport q).queue = [] ∧
    (s.fport q).txLeft = 0 ∧ s.hasCredit q f = true ∧ f.length ≤ 9) : s.Takes q f := ⟨h.1, h.2.1, h.2.2.1, h.2.2.2.1, h.2.2.2.2.1, h.2.2.2.2.2⟩
/-- Unordered frames: port 5 is adaptive for module 4 and has credit, or has used it all. -/
def rsp4 : Frame := { op := .readRsp, dst := 4, lane := 4, size := 256 }
def adaptive (used : Nat) : State := let s := arrived rsp4
  { s with fab := { s.fab with routing := [(4, BitVec.ofNat 64 (2 ^ 63 + 31 * 2 ^ 57 + 2 ^ 5))], ports := [(5, { upPort with used := [(Frame.laneKey rsp4, used)] }), (31, upPort)] } }
theorem witness_Frames_adaptive : (adaptive 0).adaptPort (Route.ofWord (smGetD (adaptive 0).fab.routing 4 0).toNat) { rsp4 with hops := 1 } = some 5 ∧
    (∀ a ∈ (adaptive (adaptive 0).part.laneUnits).adaptPorts (Route.ofWord (smGetD (adaptive 0).fab.routing 4 0).toNat),
      (adaptive (adaptive 0).part.laneUnits).hasCredit a rsp4 = false) ∧
    (adaptive (adaptive 0).part.laneUnits).orderedPort 4 (Route.ofWord (smGetD (adaptive 0).fab.routing 4 0).toNat) = some (31, false) ∧
    rsp4.routed = true ∧ rsp4.op.ordered = false ∧ rsp4.lane = 4 := by decide
theorem witness_Frames_taken : fabric.Takes 31 { op := .write, dst := 2, lane := 3, hops := 64, size := 256 } ∧ (adaptive 0).Takes 5 { rsp4 with hops := 1 } ∧
    (adaptive (adaptive 0).part.laneUnits).Takes 31 { rsp4 with hops := 1, lane := 0 } := ⟨takes (by decide), takes (by decide), takes (by decide)⟩
theorem test_unordered_frame_escapes : ((after (.adaptiveEscape 0) (adaptive (adaptive 0).part.laneUnits)).link 31).retry.map (fun b => b.units.length) = [8, 1] := by decide
theorem test_frame_goes_up_a_lane : ((after (.frameForward 0) (arrived { op := .write, dst := 2, lane := 2 })).link 31).retry.map (fun b => b.units.filterMap (fun u => match u with | .head f => some (f.lane, f.hops) | _ => none))
    = [[(3, 1)]] := by decide
set_option maxRecDepth 60000 in
/-- Blocks: the next in sequence after the reset value's wrap, and a repeat. -/
theorem witness_Frames_blocks : (fabric.link 31).phase = .running ∧ (0 : BitVec 10) = (fabric.link 31).accepted + 1 ∧ (0x3ff : BitVec 10) ≠ (fabric.link 31).accepted + 1 ∧
    (fabric.kfb (31 / 8)).enable = true ∧ (({ fabric with fab := {} } : State).kfb (31 / 8)).enable = false ∧ FrameOp.read ≠ .linkHello ∧
    ({ op := .read, size := 256 } : Frame).malformed = false ∧ (fabric.fport 31).rx = [] ∧ (decodeBlock []).2 = true ∧
    (decodeBlock [(0, 1), (2, 1), (4, 1)]).2 = true ∧ (decodeBlock [(0, 1), (2, 1), (4, 1), (6, 1)]).2 = false := by decide
theorem witness_Frames_hello : ({ fabric with fab := { fabric.fab with ports := [(5, { st := .training })] } } : State).fport 5 = { st := .training } ∧
    (fabric.kfb (5 / 8)).enable = true ∧ (fabric.link 5).phase = .running := by decide

/-- A WRITE from die 1 of module 2 for tenant 1, next in its flow, with a window over the first megabyte of stack 0. -/
def wr (seq inc : Nat) : Frame := { op := .write, dst := 0, src := 2, srcDie := 1, lane := 0, tenant := 1, addr := 0x100, size := 8, data := [1, 2, 3, 4, 5, 6, 7, 8],
                                    seq := BitVec.ofNat 24 seq, inc := BitVec.ofNat 8 inc, tag := 7 }
def recv : RecvCtx := { src := 2, die := 1, inc := 5, expected := 9, kept := [{ op := .writeAck, dst := 2, src := 0, srcDie := 1, seq := 8, inc := 5, tag := 6 }] }
def flowing (f : Frame) : State := let s := arrived f
  { s with fab := { s.fab with recv := [(recvKey 2 1, recv)], windows := [(0, BitVec.ofNat 128 (2 ^ 64 * (2 ^ 63 + 7 * 2 ^ 60 + 1 * 2 ^ 48 + 16)))] } }
set_option maxRecDepth 20000 in
theorem witness_Flows_receive : smGet (flowing (wr 9 5)).fab.recv (recvKey 2 1) = some recv ∧ (flowing (wr 9 5)).mustWait 0 ⟨some 5, 0, wr 9 5⟩ = false ∧
    (wr 9 5).seq = recv.expected ∧ (wr 9 5).inc = recv.inc ∧ (wr 9 5).damaged = false ∧
    ((flowing (wr 9 5)).ingress ((flowing (wr 9 5)).flowHome 1) 1 0x100 8 needWriteBit).1 = true ∧
    ((flowing (wr 9 5)).mkReq ((wr 9 5).home 1) .write ((flowing (wr 9 5)).ownAddr 0x100) 8 (wr 9 5).data).isSome = true ∧
    ((flowing (wr 9 5)).freeTag ((wr 9 5).home 1)).isSome = true ∧ atOrAbove (wr 8 5).seq recv.expected = false ∧
    (recv.kept.find? (fun x => x.seq == (wr 8 5).seq)).isSome = true ∧ atOrAbove (wr 9 4).inc recv.inc = false ∧ atOrAbove (wr 9 133).inc recv.inc = false := by decide
set_option maxRecDepth 20000 in
theorem test_flow_drops_old_incarnation : (after (.flowFrame 0) (flowing (wr 9 133))).fab.parcels = [] := by decide

/-- This module's own flow from die 1 to module 2, with one WRITE not acknowledged, and one with nothing open. -/
def sent1 : Frame := { wr 3 5 with dst := 2, src := 0, issKind := 0, issIdx := 0, tag := 0 }
def sendCtx (fs : List Frame) (closing : Bool) : SendCtx := { die := 1, dst := 2, inc := 5, next := 4, unacked := fs, closing }
def sending (f : Frame) (fs : List Frame) (closing : Bool) : State := let s := arrived f
  { s with fab := { s.fab with send := [(ctxKey 1 2, sendCtx fs closing)]
                               reads := [{ die := 1, tag := 4, frame := { op := .read, dst := 2 }, pkt := { op := .read, src := tileEnd 0, dst := ioEnd 1 0, pos := 0 } }] }
           accesses := [{ issuer := sent1.issuer 1, tag := 0, purpose := .store 0 0 0, req := { op := .write, src := tileEnd 0, dst := ioEnd 1 0, pos := 0 } }] }
def ack (op : FrameOp) (seq : Nat) : Frame := { op, dst := 0, src := 2, srcDie := 1, seq := BitVec.ofNat 24 seq, inc := 5 }
theorem witness_Flows_send : smGet (sending (ack .writeAck 3) [sent1] false).fab.send (ctxKey 1 2) = some (sendCtx [sent1] false) ∧
    ([sent1].find? (fun x => x.seq == (ack .writeAck 3).seq && x.inc == (ack .writeAck 3).inc)) = some sent1 ∧
    ((sending (ack .writeAck 3) [sent1] false).access (sent1.issuer 1) 0).any (fun a => a.req.op.ordered) = true ∧ (sendCtx [sent1] false).inc = (ack .seqNack 3).inc ∧
    (sendCtx [] false).unacked = [] ∧ (sendCtx [] true).closing = true ∧
    ((sending (ack .writeAck 3) [sent1] false).fab.reads.find? (fun r => r.die == 1 && r.tag == 4)).any (fun r => !r.retried) = true := by decide
set_option maxRecDepth 20000 in
theorem test_flow_response_frees : (smGet (after (.flowResponse 0) (sending (ack .writeAck 3) [sent1] false)).fab.send (ctxKey 1 2)).map (·.unacked) = some [] := by decide
set_option maxRecDepth 20000 in
theorem test_dead_flow_is_closed : smGet (after (.flowDead (ctxKey 1 2)) (sending {} [sent1] false)).fab.send (ctxKey 1 2) = none ∧
    smGet (after (.flowDead (ctxKey 1 2)) (sending {} [sent1] false)).fab.lastInc (ctxKey 1 2) = some 5 := by decide

theorem witness_Ports : (fabric.fport 31).st = .up ∧ (({ fabric with links := [] } : State).link 31).phase ≠ .running ∧
    ({ fabric with fab := { fabric.fab with ports := [(31, { st := .held })] } } : State).fport 31 = { st := .held } ∧ (fabric.kfb (31 / 8)).enable = true ∧
    ([(2, 31)] : List (Nat × Nat)).find? (fun e => e.1 == 2) = some (2, 31) ∧ (∀ k, k < up.part.nIoDies → (up.kfb k).enable = false) ∧
    (0 < fabric.part.nIoDies ∧ (fabric.kfb 0).enable = true) := by decide
/-- Port 31 Down, with its link and its peer's hello back; module 2's path has an alternate over port 5. -/
def fellOver : State := { fabric with
  fab := { fabric.fab with ports := [(5, upPort), (31, { st := .down })], routing := [(2, BitVec.ofNat 64 (2 ^ 63 + 31 * 2 ^ 57 + 5 * 2 ^ 52 + 2 ^ 51))] }
  links := [(5, runLink), (31, { runLink with hello := true })] }
theorem witness_Ports_return : (fellOver.link 31).phase = .running ∧ (fellOver.kfb (31 / 8)).enable = true ∧ (fellOver.fport 31).st = .down ∧
    (fellOver.link 31).hello = true ∧ 2 ∈ fellOver.fab.routing.map (·.1) ∧
    (let r := Route.ofWord (smGetD fellOver.fab.routing 2 0).toNat; r.valid = true ∧ r.altOk = true ∧ r.prim = 31 ∧ r.alt = 5) := by decide
theorem test_path_stays_on_alt : (after (.portReturnUp 31) fellOver).orderedPort 2 (Route.ofWord (smGetD fellOver.fab.routing 2 0).toNat) = some (5, false) := by decide
theorem witness_Ports_id : Writable up .granger (kfbBlock 3 + 8) ∧ Writable fabric .granger (kfbBlock 0 + 8) := ⟨writable (by decide), writable (by decide)⟩
theorem test_module_id_once : (after (.kfbModuleId .granger 3 0xABCD) up).fab.moduleId = 0xABCD ∧ (after (.kfbModuleId .granger 3 0xABCD) fabric).answer = .busError := by decide

/-- A copy of ring 9 whose first block is ready, and one that has still to read it. -/
def theCopy (ready : List (Nat × List Byte)) : Copy := { id := 1, die := 0, ring := 9, seq := 5, src := 0, dst := 0x3000, size := 1024, srcSpace := 2, dstSpace := 1, ready }
def copying (c : Copy) : State := { fabric with rings := [(9, { ring9 with fn := 0 })], funcs := [(fnKey 0 0, { st := .running })], fab := { fabric.fab with copies := [c] } }
set_option exponentiation.threshold 2000 in
set_option maxRecDepth 8000 in
theorem witness_Copies : (copying (theCopy [])).copy 1 = some (theCopy []) ∧ smGet (copying (theCopy [])).rings 9 = some { ring9 with fn := 0 } ∧
    ((copying (theCopy [])).func 0 0).st = .running ∧ (theCopy []).next < 1024 ∧ (theCopy [(512, List.replicate 512 1)]).ready = (512, List.replicate 512 1) :: [] ∧
    ((copying (theCopy [])).mkReq (.engine 0) .read ((copying (theCopy [])).ownAddr 0) ((theCopy []).blockLen 0) []).isSome = true ∧
    ((copying (theCopy [])).freeTag (.engine 0)).isSome = true := by decide

/-- A group of tenant 1 whose tree has ports 5 and 31; one without an entry; a multicast in progress, and this module's own. -/
def mcastFrame : Frame := { op := .mcastWrite, src := 2, lane := 0, group := 4095, tenant := 1, tag := 7, data := [1, 2] }
def inMcast : Mcast := { id := 1, group := 4095, src := 2, tag := 7, die := 0, inPort := some 5, waiting := 0x80000080 }
def casting (f : Frame) : State := let s := arrived f
  { s with fab := { s.fab with mgroups := [(4095, BitVec.ofNat 64 (2 ^ 63 + 1 * 2 ^ 51 + 2 ^ 31 + 2 ^ 5))], mcasts := [inMcast], nextTag := 2 } }
theorem witness_Multicasts : (casting mcastFrame).isBad (.table 1 4095) = false ∧ (∀ m ∈ (casting mcastFrame).fab.mcasts, m.id < (casting mcastFrame).fab.nextTag) ∧
    ((casting mcastFrame).group 0 4095).1.valid = true ∧ ((casting mcastFrame).group 0 4095).1.tenant = 1 ∧ ((casting mcastFrame).group 0 4095).1.member = false ∧
    (List.range 32).filter (fun j => ((casting mcastFrame).group 0 4095).1.tree.testBit j && some 5 != some j) = [31] ∧ fabric.linkTakes 31 = true ∧ fabric.linkTakes 5 = true ∧
    ((casting mcastFrame).group 0 4094).1.valid = false ∧
    (casting mcastFrame).fab.mcasts.find? (fun m => m.src == 2 && m.die == 0 && m.tag == 7) = some inMcast ∧ (casting mcastFrame).mcast 1 = some inMcast ∧
    setBit inMcast.waiting 7 false ≠ 0 ∧ mcastFrame.hops < 64 ∧ inMcast.waiting.getLsbD 31 = true := by decide
theorem witness_Multicasts_taken : (casting mcastFrame).Takes 31 { mcastFrame with hops := 1 } ∧
    (casting mcastFrame).Takes 5 { op := .mcastAck, dst := 2, src := 0, lane := 0, srcDie := 0, tag := 7, group := 4094, pruned := true } := ⟨takes (by decide), takes (by decide)⟩

/-- Member 1 of a reduction group of three, and member 2, with their partials. -/
def rid : RedId := { group := 5, rseq := 1, op := 0, etype := 5, count := 1, leaves := 1, reduce := false }
def redn (rank : Nat) (credit creditSent sent : Bool) : Reduction := { num := 3, id := rid, ring := 9, seq := 5, n := 6, rank, tenant := 1, result := 0, vec := [4], credit, creditSent, sent }
def reducing (f : Frame) (r : Reduction) : State := let s := arrived f
  { s with rings := [(9, ring9)], funcs := home.funcs, hbm := [(0, { st := .running, tested := true })], mem := [(stackBase 0 + 2 * 2, 7), (stackBase 0 + 2 * 3, 8)]
           fab := { s.fab with rgroups := [(5, BitVec.ofNat 128 (2 ^ 64 * (5 + 3 * 2 ^ 16 + 1 * 2 ^ 32 + 2 ^ 47)))], reductions := [r]
                               windows := [(0, BitVec.ofNat 128 (2 ^ 64 * (2 ^ 63 + 1 * 2 ^ 48 + 16)))] } }
def part1 : Frame := { op := .redPart, dst := 0, src := 2, group := 5, tenant := 1, red := rid, vec := [6] }
theorem witness_Reductions : (reducing part1 (redn 2 false true false)).red 3 = some (redn 2 false true false) ∧ ((reducing part1 (redn 2 false true false)).redGroup 5).1.valid = true ∧
    ((reducing part1 (redn 2 false true false)).redGroup 5).1.tenant = 1 ∧ (reducing part1 (redn 2 false true false)).isBad (.table 2 5) = false ∧
    (2 : Nat) / 2 ^ (0 + 1) % 2 = 1 ∧ (6 + 2 - 1) / 2 ≠ 1 ∧ rid ≠ { rid with count := 2 } ∧ (3 : Nat) / 2 ^ 0 % 2 = 1 ∧ (6 + 2 ^ 0 - 1) / 2 ^ 0 ≠ 1 ∧
    ((reducing part1 (redn 3 false false false)).rankModule 5 (3 - 1)).1 = some 7 ∧ (redn 3 false false true).children = [] ∧
    (reducing part1 (redn 3 false false true)).fab.reductions.find? (fun r => r.id == rid && r.sent) = some (redn 3 false false true) := by decide
/-- A reduction of two elements, whose frames bring one each. -/
def twoElems : Reduction := { redn 2 false true false with id := { rid with count := 2 } }
theorem witness_Reductions_frames : ((reducing part1 (redn 2 false true false)).windowOf ((reducing part1 (redn 2 false true false)).redUnit 5) 1).1 = true ∧
    (reducing part1 (redn 2 false true false)).redFor part1 (·.creditSent) = some (redn 2 false true false) ∧
    (reducing part1 (redn 3 false false false)).redFor part1 (fun r => !r.credit) = some (redn 3 false false false) ∧
    ((redn 2 false true false).gather part1).whole = true ∧ (twoElems.gather part1).whole = false ∧ part1.off = (redn 2 false true false).got.length ∧
    (reducing { part1 with red := { rid with count := 2 } } (redn 2 false true false)).redFor { part1 with red := { rid with count := 2 } } (·.creditSent) =
      some (redn 2 false true false) := by decide
theorem test_partial_waits_for_its_rest : ((after (.redPart 0) (reducing { part1 with red := twoElems.id } twoElems)).red 3).map (fun r => (r.vec, r.got)) = some ([4], [6]) := by decide
theorem witness_Reductions_ring : Waits (reducing part1 (redn 2 false true false)) 9 5 ring9 { seq := 5, bytes := 1, launchSent := true } :=
  ⟨rfl, by decide, rfl, rfl, rfl, rfl, rfl⟩
theorem test_partials_are_added : ((after (.redPart 0) (reducing part1 (redn 2 false true false))).red 3).map (·.vec) = some [10] := by decide

/-! ### Links -/

def links (l : Link) : State := { up with links := [(31, l)], fab := { dies := [(3, { enable := true })] } }
def nine (x : Lane) : SMap Lane := (List.range 9).map (fun l => (l, x))
theorem witness_Links : ((links { phase := .noSignal }).link 31).phase = .noSignal ∧ (({ phase := .adapt, lanes := [(8, { signal := true })] } : Link).lane 8).signal = true ∧
    (∀ k, k < 9 → k ≠ 8 → (({ phase := .adapt, lanes := [(8, { signal := true })] } : Link).lane k).signal = true → (({ phase := .adapt, lanes := [(8, { signal := true })] } : Link).lane k).locked = true) ∧
    (({ phase := .align, lanes := [(8, { locked := true, trials := 15 })] } : Link).lane 8).trials < 16 ∧
    (∀ k, k < 9 → k ≠ 8 → (({ phase := .align, lanes := [(8, { locked := true, trials := 15 })] } : Link).lane k).locked = false) ∧
    ({} : Link).attempts + 1 < (up.lnkDie 3).attempts.toNat ∧ (up.lnkDie 3).attempts.toNat ≤ ({ attempts := 7 } : Link).attempts + 1 := by decide
/-- Exchange with all nine lanes aligned: the second marker of lane 8 that shows the peer ready. -/
def readyMark : TMarker := { lane := 8, rxGood := 0x1FF, txLanes := 0xFF, ready := true }
def exchanging : Link := { enable := true, phase := .exchange, lanes := (List.range 9).map (fun l => (l, { aligned := true, rxGood := true, locked := true, signal := true, seen := BitVec.ofNat 4 l })),
                           peerGood := 0x1FF, lastMark := [(8, readyMark)] }
theorem witness_Links_exchange : (exchanging.lane 8).aligned = true ∧ smGet exchanging.lastMark 8 = some readyMark ∧ readyMark.idValid = false ∧ readyMark.ready = true ∧
    (({ exchanging with lastMark := smSet exchanging.lastMark 8 readyMark } : Link).takeMarker 8 readyMark readyMark).selfReady = true := by decide
theorem test_link_runs : ((after (.trainingMarker 31 8 readyMark) (links exchanging)).link 31).phase = .running := by decide
theorem test_last_attempt_fails : ((after (.phaseTimeout 31) (links { enable := true, phase := .adapt, attempts := 7 })).link 31).phase = .failed ∧
    ((after (.phaseTimeout 31) (links { enable := true, phase := .adapt, attempts := 6 })).link 31).phase = .adapt := by decide

def inService : Link := { enable := true, phase := .running, rxLanes := 0x0FF, rejWin := 64, lanes := nine { locked := true, signal := true, ceWin := 4096 } }
theorem witness_LinksRecover : (inService.lane 7).locked = true ∧ inService.rxLanes.getLsbD 7 = true ∧ (inService.lane 8).locked = true ∧
    (∀ k, k < 9 → inService.rxLanes.getLsbD k = true → (inService.lane k).ceWin ≤ (up.lnkDie 3).ceLimit.toNat) ∧ inService.rejWin ≤ (up.lnkDie 3).ueLimit.toNat ∧
    (up.lnkDie 3).ueLimit.toNat < ({ inService with rejWin := 65 } : Link).rejWin ∧ ({} : Link).enable = false ∧ up.bup.badPorts.getLsbD 31 = false ∧
    (∀ k, k < 9 → (({} : Link).lane k).signal = false) := by decide
theorem witness_LinksRecover_registers : Writable (links inService) .granger (portRegs 31) ∧ Writable up .granger (portRegs 31) ∧ Writable up .granger (portRegs 31 + 0x10) :=
  ⟨writable (by decide), writable (by decide), writable (by decide)⟩
theorem test_too_many_rejects_resync : ((after (.errorWindow 31) (links { inService with rejWin := 65 })).link 31).phase = .resync ∧
    ((after (.errorWindow 31) (links inService)).link 31).phase = .running := by decide

/-! ### Critical commands -/

/-- A command's bytes below its tag: type 0x10, the opcode, a body from byte 8 on, and counter 1. -/
def cmd (op body : Nat) : Nat := 0x10 + op * 2 ^ 16 + body * 2 ^ 64 + 2 ^ 896
/-- A value at a byte of the body. -/
def at8 (off v : Nat) : Nat := v * 2 ^ (8 * (off - 8))
def layoutN (n : Nat) (used : List (Nat × Nat)) : Bool := decide (n / 2 ^ 8 % 256 < 2) && n / 2 ^ 24 % 256 == 0 &&
  ((List.range 104).map (· + 8)).all (fun i => used.any (fun u => decide (u.1 ≤ i) && decide (i ≤ u.2)) || n / 2 ^ (8 * i) % 256 == 0)
/-- The key-encryption key of RFC 3394's last test vector: the bytes 00 to 1F. -/
def ownerKey : BitVec 256 := 0x1F1E1D1C1B1A191817161514131211100F0E0D0C0B0A09080706050403020100
/-- The owner's command with its tag under that key. -/
def owned (op body : Nat) : BitVec 1024 := tagged ownerKey ownerSlot (cmd op body)
def critOf (op body : Nat) : Crit := { b := owned op body, ring := some (0, 5), port := 0, slot := ownerSlot, tenant := none }
/-- The owner's ring holds the command, and nothing else. -/
def pfRing (b : BitVec 1024) : Ring := { port := 0, fn := 0, sq := 0x1000, cq := 0x2000, sizeLog2 := 4, slot := 0, fetched := 6, recorded := 5, held := [{ seq := 5, bytes := b }] }
def commanded (s : State) (op body : Nat) : State := { s with
  rings := [(0, pfRing (owned op body))], funcs := smSet s.funcs (fnKey 0 0) { st := .running }, keys := [(ownerSlot, { key := some ownerKey })] }

theorem owned_field {op body : Nat} (off len : Nat) (h : cmd op body < 2 ^ 960) (ho : off + len ≤ 120) :
    dfield (owned op body) off len = cmd op body / 2 ^ (8 * off) % 2 ^ (8 * len) := dfield_tagged ownerKey ownerSlot _ off len h ho

theorem owned_layout {op body : Nat} {used : List (Nat × Nat)} (h : cmd op body < 2 ^ 960) (hl : layoutN (cmd op body) used = true) :
    critLayout (owned op body) used = true := by
  unfold layoutN at hl
  unfold critLayout
  simp only [Bool.and_eq_true, List.all_eq_true, decide_eq_true_eq, beq_iff_eq] at hl ⊢
  refine ⟨⟨?_, ?_⟩, fun i hi => ?_⟩
  · rw [owned_field 1 1 h (by decide)]; exact hl.1.1
  · rw [owned_field 3 1 h (by decide)]; exact hl.1.2
  · have hb : i + 1 ≤ 120 := by
      obtain ⟨j, hj, rfl⟩ := List.mem_map.mp hi
      have := List.mem_range.mp hj
      omega
    rw [owned_field i 1 h hb]
    exact hl.2 i hi

theorem body_top {b m n k : Nat} (hb : b < 2 ^ m) (h : m + n = k) : b * 2 ^ n + 2 ^ n ≤ 2 ^ k := by
  subst h
  rw [Nat.pow_add, ← Nat.succ_mul]
  exact Nat.mul_le_mul_right _ hb

set_option exponentiation.threshold 2000 in
theorem owned_ready {s : State} {op body : Nat} {sel : BitVec 1024 → Bool} (h : cmd op body < 2 ^ 960) (hop : op < 256) (hb : body < 2 ^ 832)
    (hs : sel (owned op body) = true) (hm : s.ownId = 0) (hr : s.bup.ready = true) (hg : s.bup.grangerUp = true) :
    CritReady (commanded s op body) (.ring 0) op sel (critOf op body) := by
  have f0 : dfield (owned op body) 0 1 = 0x10 := by rw [owned_field 0 1 h (by decide)]; unfold cmd; norm_num; omega
  have f1 : dfield (owned op body) 1 1 = 0 := by rw [owned_field 1 1 h (by decide)]; unfold cmd; norm_num; omega
  have f2 : dfield (owned op body) 2 1 = op := by rw [owned_field 2 1 h (by decide)]; unfold cmd; norm_num; omega
  have fc : dfield (owned op body) 0x70 8 = 1 := by
    rw [owned_field 0x70 8 h (by decide)]; unfold cmd
    have e : (0x10 + op * 2 ^ 16 + body * 2 ^ 64 + 2 ^ 896) / 2 ^ (8 * 0x70) = 1 := by
      apply Nat.div_eq_of_lt_le
      · norm_num
      · have := body_top hb (rfl : 832 + 64 = 896)
        have e : (8 * 0x70 : Nat) = 896 := by norm_num
        rw [e]
        have e2 : ((1 : Nat) + 1) * 2 ^ 896 = 2 ^ 896 + 2 ^ 896 := by ring
        rw [e2]
        generalize hT : (2 : Nat) ^ 896 = T at *
        norm_num at *
        omega
    rw [e]; norm_num
  have hf : (commanded s op body).func 0 0 = { st := .running } := by simp [commanded, State.func]
  have hn : (commanded s op body).nextDesc 0 = some (pfRing (owned op body), { seq := 5, bytes := owned op body }) := by
    unfold State.nextDesc
    have e : smGet (commanded s op body).rings 0 = some (pfRing (owned op body)) := rfl
    rw [e]
    simp [pfRing, hf, f1]
  refine ⟨?_, ?_, ?_, Or.inr hg, hr⟩
  · unfold State.critDesc
    simp only [hn, f0, f2, hs, BEq.rfl, Bool.and_self, if_true, State.ringTenant]
    simp [critOf, pfRing, hf]
  · exact critAuth_tagged _ _ ownerKey (cmd op body) h hm (by simp [commanded, State.keySlot, smGetD, smGet, critOf, ownerSlot]) rfl
  · show 0 < dfield (owned op body) 0x70 8
    rw [fc]; decide

theorem sel_owned {op body n : Nat} (h : cmd op body < 2 ^ 960) (hn : cmd op body / 2 ^ (8 * 8) % 2 ^ (8 * 1) = n) : selAt8 n (owned op body) = true := by
  unfold selAt8
  rw [owned_field 8 1 h (by decide), hn]
  exact beq_self_eq_true n

/-- Bodies of the owner's commands, at the ends of their fields' ranges. -/
def bBind := at8 0x0A 2047 + at8 0x0C 1024 + at8 0x0E 3 + at8 0x18 2048
def bUnbind := at8 8 1 + at8 0x0A 1
def bAssign := at8 8 2 + at8 0x0A 2047 + at8 0x0F 63
def bRelease := at8 8 3 + at8 0x0F 3
def bDefine := at8 8 4 + at8 0x0F 63 + at8 0x20 (2 ^ 143) + at8 0x34 (2 ^ 31)
def bTable := at8 8 3 + at8 0x0C 4095 + at8 0x10 1
def bClearKey := at8 8 2048 + at8 0x0A 1
/-- RFC 3394's 256 bits of key data wrapped with the 256-bit key, for slot 2047. -/
def bWrap := at8 8 2047 + at8 0x10 0x21DD027A9B8B98FB3BF4991AE7F0C7CB26D30ED8E286573F26F887FB5CB3CCCBF410B8C404F4C928
def bEmpty := at8 8 1 + at8 0x1C 1
def bLoad := at8 8 (2 ^ 31) + at8 0x10 64 + at8 0x18 512 + at8 0x1C 1 + at8 0x40 (2 ^ 255)
/-- An image of no bytes in the function's own memory, with the digest that FIPS 180-4 gives the empty message. -/
def bImage := at8 8 2 + at8 0x1C 1 + at8 0x40 0x55B852781B9995A44C939B64E441AE2724B96F99C8F4FB9A141CFC9842C4B0E3
def bFreq (v : Nat) := at8 0x0C v
def bOffset := at8 8 1 + at8 9 255 + at8 0x0C 50
/-- Opcode, body, value of byte 8 and used bytes of every command that an owner sends. -/
def ownerCommands : List (Nat × Nat × Nat × List (Nat × Nat)) := [
  (7, at8 8 4000 + at8 0x0C 1 + at8 0x10 16, 4000 % 256, [(0x08, 0x0C), (0x10, 0x17)]),
  (7, at8 8 (2 ^ 24 - 1) + at8 0x0C 64 + at8 0x10 16, 255, [(0x08, 0x0C), (0x10, 0x17)]),
  (4, bBind, 0, [(0x08, 0x08), (0x0A, 0x0E), (0x10, 0x19)]),
  (4, bUnbind, 1, [(0x08, 0x08), (0x0A, 0x0B)]),
  (4, bAssign, 2, [(0x08, 0x08), (0x0A, 0x0B), (0x0F, 0x0F)]),
  (4, bRelease, 3, [(0x08, 0x08), (0x0F, 0x0F)]),
  (4, bDefine, 4, [(0x08, 0x08), (0x0F, 0x0F), (0x20, 0x31), (0x34, 0x37)]),
  (5, bTable, 3, [(0x08, 0x08), (0x0C, 0x13), (0x18, 0x1F)]),
  (6, bClearKey, 0, [(0x08, 0x0A), (0x10, 0x37)]), (6, bWrap, 255, [(0x08, 0x0A), (0x10, 0x37)]),
  (1, bEmpty, 1, [(0x08, 0x0B), (0x10, 0x1C), (0x40, 0x5F)]), (1, bLoad, 0, [(0x08, 0x0B), (0x10, 0x1C), (0x40, 0x5F)]),
  (3, bImage, 2, [(0x08, 0x08), (0x10, 0x1C), (0x40, 0x5F)]),
  (8, bFreq 600, 0, [(0x08, 0x09), (0x0C, 0x0F)]), (8, bFreq 1200, 0, [(0x08, 0x09), (0x0C, 0x0F)]),
  (8, bOffset, 1, [(0x08, 0x09), (0x0C, 0x0F)]), (8, at8 8 2, 2, [(0x08, 0x09), (0x0C, 0x0F)]), (8, at8 8 3, 3, [(0x08, 0x09), (0x0C, 0x0F)]),
  (2, at8 0x0A 2303, 0, resetUsed), (2, at8 8 1 + at8 0x0A 143, 1, resetUsed), (2, at8 8 2 + at8 0x0A 63, 2, resetUsed), (2, at8 8 3, 3, resetUsed)]
set_option exponentiation.threshold 2000 in
set_option maxRecDepth 8000 in
/-- Each passes the checks that every critical command passes, on a module that is ready. -/
theorem witness_Crit : ∀ e ∈ ownerCommands, CritReady (commanded up e.1 e.2.1) (.ring 0) e.1 (selAt8 e.2.2.1) (critOf e.1 e.2.1) ∧
    CritReady (commanded up e.1 e.2.1) (.ring 0) e.1 anySel (critOf e.1 e.2.1) ∧
    (critOf e.1 e.2.1).slot = ownerSlot ∧ critLayout (critOf e.1 e.2.1).b e.2.2.2 = true := by
  have h : ownerCommands.all (fun e => decide (cmd e.1 e.2.1 < 2 ^ 960 ∧ e.1 < 256 ∧ e.2.1 < 2 ^ 832 ∧ cmd e.1 e.2.1 / 2 ^ (8 * 8) % 2 ^ (8 * 1) = e.2.2.1) &&
    layoutN (cmd e.1 e.2.1) e.2.2.2) = true := by decide
  intro e he
  have h' := List.all_eq_true.mp h e he
  rw [Bool.and_eq_true] at h'
  have h1 := of_decide_eq_true h'.1
  exact ⟨owned_ready h1.1 h1.2.1 h1.2.2.1 (sel_owned h1.1 h1.2.2.2) rfl rfl rfl, owned_ready h1.1 h1.2.1 h1.2.2.1 rfl rfl rfl rfl, rfl, owned_layout h1.1 h'.2⟩


/-- Opcode, body and place of a field of each command, with its value. -/
def ownerFields : List (Nat × Nat × Nat × Nat × Nat) := [
  (4, bBind, 0x0A, 2, 2047), (4, bBind, 0x0C, 2, 1024), (4, bBind, 0x0E, 1, 3), (4, bBind, 0x18, 2, 2048), (4, bUnbind, 0x0A, 2, 1),
  (4, bAssign, 0x0A, 2, 2047), (4, bAssign, 0x0F, 1, 63), (4, bRelease, 0x0F, 1, 3),
  (4, bDefine, 0x0F, 1, 63), (4, bDefine, 0x20, 18, 2 ^ 143), (4, bDefine, 0x34, 4, 2 ^ 31),
  (5, bTable, 8, 1, 3), (5, bTable, 0x0C, 4, 4095), (5, bTable, 0x10, 4, 1),
  (6, bClearKey, 8, 2, 2048), (6, bClearKey, 0x0A, 1, 1), (6, bWrap, 8, 2, 2047), (6, bWrap, 0x0A, 1, 0),
  (6, bWrap, 0x10, 40, 0x21DD027A9B8B98FB3BF4991AE7F0C7CB26D30ED8E286573F26F887FB5CB3CCCBF410B8C404F4C928),
  (1, bEmpty, 8, 4, 1), (1, bEmpty, 0x10, 8, 0), (1, bEmpty, 0x18, 4, 0), (1, bEmpty, 0x1C, 1, 1),
  (1, bLoad, 8, 4, 2 ^ 31), (1, bLoad, 0x10, 8, 64), (1, bLoad, 0x18, 4, 512), (1, bLoad, 0x1C, 1, 1),
  (3, bImage, 8, 1, 2), (3, bImage, 0x10, 8, 0), (3, bImage, 0x18, 4, 0), (3, bImage, 0x1C, 1, 1),
  (3, bImage, 0x40, 32, 0x55B852781B9995A44C939B64E441AE2724B96F99C8F4FB9A141CFC9842C4B0E3),
  (8, bFreq 600, 8, 1, 0), (8, bFreq 600, 9, 1, 0), (8, bFreq 600, 0x0C, 4, 600), (8, bFreq 1200, 8, 1, 0), (8, bFreq 1200, 9, 1, 0),
  (8, bFreq 1200, 0x0C, 4, 1200), (8, bOffset, 8, 1, 1), (8, bOffset, 9, 1, 255), (8, bOffset, 0x0C, 4, 50), (8, at8 8 2, 8, 1, 2),
  (8, at8 8 2, 9, 1, 0), (8, at8 8 3, 8, 1, 3), (8, at8 8 3, 9, 1, 0), (2, at8 0x0A 2303, 0x0A, 2, 2303), (2, at8 8 1 + at8 0x0A 143, 0x0A, 2, 143),
  (2, at8 8 2 + at8 0x0A 63, 0x0A, 2, 63), (7, at8 8 4000 + at8 0x0C 1 + at8 0x10 16, 8, 4, 4000),
  (7, at8 8 4000 + at8 0x0C 1 + at8 0x10 16, 0x0C, 1, 1), (7, at8 8 4000 + at8 0x0C 1 + at8 0x10 16, 0x10, 8, 16)]
set_option exponentiation.threshold 2000 in
set_option maxRecDepth 8000 in
theorem witness_Crit_fields : ∀ e ∈ ownerFields, dfield (critOf e.1 e.2.1).b e.2.2.1 e.2.2.2.1 = e.2.2.2.2 := by
  have h : ownerFields.all (fun e => decide (cmd e.1 e.2.1 < 2 ^ 960 ∧ e.2.2.1 + e.2.2.2.1 ≤ 120 ∧
    cmd e.1 e.2.1 / 2 ^ (8 * e.2.2.1) % 2 ^ (8 * e.2.2.2.1) = e.2.2.2.2)) = true := by decide
  intro e he
  have h1 := of_decide_eq_true (List.all_eq_true.mp h e he)
  exact (owned_field _ _ h1.1 h1.2.1).trans h1.2.2

/-- Ready, with every logic region usable; then with partition 3 of tenant 1, whose function is Idle, and partition 63 of no tenant. -/
def lent : State := { up with cap := { regions := 0xFFFFFFFF } }
def leased : State := { lent with
  parts := [(3, { clusters := 1, regions := 1, tenant := some 1 }), (63, { clusters := 2 })]
  funcs := [(fnKey 0 4, { tenant := some 1, quota := 8 })], tenants := [(1, { bound := some (0, 4) })] }
set_option maxRecDepth 8000 in
theorem witness_Assignments :
    (let s := commanded lent 4 bBind; (s.func 3 1024).tenant = none ∧ (s.tenant 2047).bound = none ∧ 3 < s.part.nIoDies ∧ s.quotaSum 3 + 2048 ≤ 2048) ∧
    (let s := commanded leased 4 bUnbind; (s.tenant 1).bound = some (0, 4) ∧ s.tenantBusy 1 = false ∧ (s.func 0 4).st = .idle) ∧
    (let s := commanded leased 4 bAssign; (s.partRec 63).defined = true ∧ (s.partRec 63).tenant = none ∧ (s.partRec 63).clusters &&& s.bup.park = 0) ∧
    (let s := commanded leased 4 bRelease; (s.partRec 3).tenant.isSome = true ∧ s.partTasks 3 = false ∧ ∀ r ∈ s.partRegions 3, s.unstaged r = true) ∧
    (let s := commanded leased 4 bDefine; let cs : BitVec 144 := 2 ^ 143; let rs : Word := 2 ^ 31
      (s.partRec 63).tenant = none ∧ (∀ e ∈ s.parts, e.1 ≠ 63 → e.2.clusters &&& cs = 0 ∧ e.2.regions &&& rs = 0) ∧ cs &&& s.bup.park = 0 ∧
      (∀ k ∈ clustersOf ((s.partRec 63).clusters ||| cs), ∀ u ∈ clusterTiles k, (s.tile u).active = false ∧ (s.tile u).queue = []) ∧
      (∀ r ∈ regionsOf ((s.partRec 63).regions ||| rs), (s.region r).st ≠ .running ∧ s.unstaged r = true) ∧ rs &&& ~~~s.cap.regions = 0) := by decide
theorem witness_Loads : ∀ m : Word, m = 1 ∨ m = 2 ^ 31 → ∀ b, let s := commanded leased 1 b
    (critOf 1 b).spaceOk 1 = true ∧ m ≠ 0 ∧ m &&& ~~~s.cap.regions = 0 ∧ ∀ r ∈ regionsOf m, s.unstaged r = true := by
  intro m hm b
  have e : ∀ r, (commanded leased 1 b).unstaged r = leased.unstaged r := fun _ => rfl
  rcases hm with rfl | rfl
  · exact ⟨rfl, by decide, (by decide : (1 : Word) &&& ~~~leased.cap.regions = 0), by simp only [e]; decide⟩
  · exact ⟨rfl, by decide, (by decide : (2 ^ 31 : Word) &&& ~~~leased.cap.regions = 0), by simp only [e]; decide⟩

theorem permit {c : Crit} {s : State} (hs : c.slot = ownerSlot) (h : dfield c.b 8 2 ≤ 2048) : keyPermit c s = true := by
  simp [keyPermit, hs, h]
theorem witness_Keys : keyPermit (critOf 6 bClearKey) up = true ∧ keyPermit (critOf 6 bWrap) up = true :=
  ⟨permit rfl (by rw [witness_Crit_fields (6, bClearKey, 8, 2, 2048) (by simp [ownerFields])]),
   permit rfl (by rw [witness_Crit_fields (6, bWrap, 8, 2, 2047) (by simp [ownerFields])]; decide)⟩
theorem witness_Image : up.bup.fwJob = none ∧ (critOf 3 bImage).spaceOk 1 = true ∧ ofLe (sha256 []) = 0x55B852781B9995A44C939B64E441AE2724B96F99C8F4FB9A141CFC9842C4B0E3 ∧
    ∀ s : State, s.fetchSpace 0 0 0 0 1 0 0 (.ok []) = (some [], s) := ⟨rfl, rfl, by decide +kernel, fun _ => rfl⟩

def checkedImage : FwJob := { target := 0, ver := 5, floor := 3, ring := some (0, 5) }
theorem witness_Slot_and_margins : ({ up with bup := { up.bup with fwJob := some checkedImage } } : State).bup.grangerUp = true ∧
    up.health.jobs = [] ∧ up.health.relocking = false ∧ up.marginOk 0 0 600 = true ∧ min 600 up.health.fLimit.toNat ≠ up.health.fMhz.toNat ∧
    up.marginOk 0 0 1200 = true ∧ min 1200 up.health.fLimit.toNat = up.health.fMhz.toNat ∧ up.marginOk 1 255 50 = true ∧
    (up.die 3).vplan + 50 ≠ (up.die 3).vcore.toNat ∧ up.marginOk 2 0 0 = true ∧ up.marginOk 3 0 0 = true ∧
    min 1200 ({ up.health with fMhz := 600 } : Health).fLimit.toNat ≠ ({ up.health with fMhz := 600 } : Health).fMhz.toNat ∧
    ({ up with health := { up.health with fMhz := 600 } } : State).marginOk 3 0 0 = true := by decide
set_option exponentiation.threshold 2000 in
set_option maxRecDepth 20000 in
theorem witness_Messages : up.health.mctp = none ∧ dfield (0x40010 : BitVec 1024) 0 1 = 0x10 ∧ reservedDesc (0x40010 : BitVec 1024) = false ∧
    dfield (0x90010 : BitVec 1024) 0 1 = 0x10 ∧ reservedDesc (0x90010 : BitVec 1024) = true := by decide
set_option exponentiation.threshold 2000 in
set_option maxRecDepth 20000 in
theorem test_slot_is_selected : ((after .fwSlotSelected { up with bup := { up.bup with fwJob := some checkedImage } }).fwTarget 0).selected =
    { valid := true, ver := 5, floor := 3 } := by decide
set_option exponentiation.threshold 2000 in
set_option maxRecDepth 20000 in
theorem test_bad_message_is_answered : ((after (.mctpCrit 0x90010) up).health.mctpReply.map (·.status)) = some 0x40 := by decide
theorem witness_TickParam : up.tick.count.toNat + 16 ≤ 16 ∧ up.tick.pendParam = none ∧ up.tick.role ≠ 2 := by decide

/-! ### Rings and work descriptors -/

/-- A descriptor of a type, with its body from byte 8 on. -/
def desc (type body : Nat) : Held := { seq := 5, bytes := BitVec.ofNat 1024 (type + body * 2 ^ 64) }
def oneRing (h : Held) (slot : Nat) : Ring := { port := 0, fn := 4, sq := 0x1000, cq := 0x2000, sizeLog2 := 4, slot, fetched := 6, recorded := 5, held := [h] }
/-- Port 0 serves function 4 of tenant 1, whose ring 9 holds the descriptor. -/
def served (x : Ring) : State := { home with
  rings := [(9, x)], funcs := [(fnKey 0 4, { st := .running, enable := true, tenant := some 1, quota := 8 })], host := [(0, { enable := true, linkUp := true })] }
def withDesc (type body : Nat) : State := served (oneRing (desc type body) 0)

theorem alone {type body slot : Nat} (h : dfield (desc type body).bytes 0 1 = type) :
    Alone (served (oneRing (desc type body) slot)) 9 type (oneRing (desc type body) slot) (desc type body) :=
  ⟨rfl, rfl, rfl, rfl, rfl, rfl, rfl, rfl, h⟩

def emptyRing : Ring := { oneRing (desc 6 0) 3 with held := [], fetched := 5 }
set_option exponentiation.threshold 2000 in
set_option maxRecDepth 20000 in
theorem witness_Rings : (served emptyRing).fnServed 0 4 = true ∧ (served emptyRing).fnRings 0 4 = [(9, emptyRing)] ∧ ((served emptyRing).func 0 4).hasEvents = false ∧
    smGet ([(3, .ok (2 ^ 32 * 5 + 7))] : SMap (HostData DWord)) 3 = some (.ok (2 ^ 32 * 5 + 7)) ∧
    smGetD ([(2, .ok 1)] : SMap (HostData DWord)) 3 .failed = .failed ∧ smGetD ([(3, .poisoned)] : SMap (HostData DWord)) 3 .failed = .poisoned ∧
    (7 + 2 ^ 32 - 5 % 2 ^ 32) % 2 ^ 32 ≤ 16 ∧ (5 + 2 ^ 32 - 5) % 2 ^ 32 ≤ 16 ∧ 16 < (5 + 17 + 2 ^ 32 - 5 % 2 ^ 32) % 2 ^ 32 ∧
    reservedDesc (desc 6 0).bytes = false ∧ reservedDesc (desc 7 0).bytes = true ∧ home.bup.deep = false := by decide
set_option exponentiation.threshold 2000 in
set_option maxRecDepth 20000 in
theorem test_poll_asks_for_descriptors : (smGet (after (.doorbellPoll 0 4 [(3, .ok (2 ^ 32 * 5 + 7))]) (served emptyRing)).rings 9).map (·.toFetch) = some 2 := by decide
set_option exponentiation.threshold 2000 in
set_option maxRecDepth 20000 in
theorem test_bad_tail_stops_ring : (smGet (after (.doorbellPoll 0 4 [(3, .ok (2 ^ 32 * 5 + 22))]) (served emptyRing)).rings 9).map (·.stopped) = some true := by decide

def xinvBody := at8 8 0x10000 + at8 0x10 0x20000
def createBody := at8 8 0x4000 + at8 0x10 0x5000 + at8 0x18 16 + at8 0x1A 1023
def taskBody := at8 0x10 1 + at8 0x11 3 + at8 0x14 0x80 + at8 0x16 0x2000 + at8 0x18 0x10000 + at8 0x20 8
def copyBody := at8 0x10 0x4000 + at8 0x18 (2 ^ 30) + at8 0x20 1
def rectBody := at8 8 0x40 + at8 0x10 0x1000 + at8 0x18 255 + at8 0x1A 1 + at8 0x1B 3 + at8 0x1F 2
def treeBody (g : Nat) := at8 0x18 63 + at8 0x1C g
def redBody := at8 8 1 + at8 0x0C 4 + at8 0x10 1 + at8 0x14 1 + at8 0x18 0x100000 + at8 0x20 64
set_option exponentiation.threshold 2000 in
set_option maxRecDepth 20000 in
theorem witness_Alone : ∀ e ∈ [(6, 0), (6, at8 8 1), (5, xinvBody), (8, createBody), (9, at8 8 7), (1, 0), (1, taskBody), (2, 0), (2, copyBody), (3, rectBody),
    (3, treeBody 4095), (4, redBody)], Alone (withDesc e.1 e.2) 9 e.1 (oneRing (desc e.1 e.2) 0) (desc e.1 e.2) := by
  have h : [(6, 0), (6, at8 8 1), (5, xinvBody), (8, createBody), (9, at8 8 7), (1, 0), (1, taskBody), (2, 0), (2, copyBody), (3, rectBody),
    (3, treeBody 4095), (4, redBody)].all (fun e => dfield (desc e.1 e.2).bytes 0 1 == e.1) = true := by decide
  intro e he
  exact alone (eq_of_beq (List.all_eq_true.mp h e he))
set_option exponentiation.threshold 2000 in
set_option maxRecDepth 20000 in
theorem witness_Rings_administered : plainLayout (desc 6 0).bytes [] = true ∧ plainLayout (desc 6 (at8 8 1)).bytes [] = false ∧
    plainLayout (desc 5 xinvBody).bytes [(0x08, 0x17)] = true ∧ dfield (desc 5 xinvBody).bytes 8 8 = 0x10000 ∧ dfield (desc 5 xinvBody).bytes 0x10 8 = 0x20000 ∧
    (withDesc 5 xinvBody).ringTenant (oneRing (desc 5 xinvBody) 0) = some 1 ∧ plainLayout (desc 8 createBody).bytes [(0x08, 0x18), (0x1A, 0x1B)] = true ∧
    dfield (desc 8 createBody).bytes 8 8 = 0x4000 ∧ dfield (desc 8 createBody).bytes 0x10 8 = 0x5000 ∧ dfield (desc 8 createBody).bytes 0x18 1 = 16 ∧
    dfield (desc 8 createBody).bytes 0x1A 2 = 1023 ∧ (withDesc 8 createBody).freeRing 0 = some 0 ∧ ((withDesc 8 createBody).fnRings 0 4).length ≤ (withDesc 8 createBody).ringQuota 0 4 ∧
    smGet (withDesc 8 createBody).rings 0 = none ∧ plainLayout (desc 9 (at8 8 7)).bytes [(0x08, 0x09)] = true ∧ dfield (desc 9 (at8 8 7)).bytes 8 2 = 7 := by decide
/-- Two rings of the function: one to destroy, empty or with work. -/
def twoRings (y : Ring) : State := { withDesc 9 (at8 8 7) with rings := [(7, y), (9, oneRing (desc 9 (at8 8 7)) 0)] }
set_option exponentiation.threshold 2000 in
set_option maxRecDepth 20000 in
theorem witness_Destroy : ∀ y ∈ [emptyRing, oneRing (desc 6 0) 3], Alone (twoRings y) 9 9 (oneRing (desc 9 (at8 8 7)) 0) (desc 9 (at8 8 7)) ∧
    smGet (twoRings y).rings 7 = some y ∧ y.port = 0 ∧ y.fn = 4 ∧ y.destroying = none := by
  intro y hy
  have d : dfield (desc 9 (at8 8 7)).bytes 0 1 = 9 := by decide
  have f : ((twoRings y).func 0 4).st = .running := rfl
  simp only [List.mem_cons, List.not_mem_nil, or_false] at hy
  rcases hy with rfl | rfl <;> exact ⟨⟨rfl, f, rfl, rfl, rfl, rfl, rfl, rfl, d⟩, rfl, rfl, rfl, rfl⟩

/-- The engine's translation holds the tenant's page, and stack 0 serves; groups of the tenant, of another, and of none. -/
def working (type body : Nat) : State := { withDesc type body with
  xsvc := [(0, [leaf])], hbm := [(0, { st := .running, tested := true })], links := fabric.links
  fab := { fabric.fab with mgroups := [(4094, BitVec.ofNat 64 (2 ^ 63 + 2 * 2 ^ 51)), (4095, BitVec.ofNat 64 (2 ^ 63 + 1 * 2 ^ 51 + 2 ^ 31))]
                           rgroups := [(4, BitVec.ofNat 128 (2 ^ 64 * (5 + 1 * 2 ^ 16 + 1 * 2 ^ 32 + 2 ^ 47)))] } }
set_option exponentiation.threshold 2000 in
set_option maxRecDepth 20000 in
theorem witness_Work_tasks_and_copies : taskOk (desc 1 0).bytes = false ∧ taskOk (desc 1 taskBody).bytes = true ∧ dfield (desc 1 taskBody).bytes 0x11 1 = 3 ∧
    dfield (desc 1 taskBody).bytes 0x12 2 = 0 ∧ home.mayLaunch 1 3 0 = true ∧ home.mayLaunch 1 2 0 = false ∧ (home.tickCfg 3).hard = false ∧ home.launchesAt 0 < 4 ∧
    copyOk (desc 2 0).bytes = false ∧ copyOk (desc 2 copyBody).bytes = true ∧ dfield (desc 2 copyBody).bytes 0x20 1 = 1 ∧
    (withDesc 2 copyBody).spaceOk (oneRing (desc 2 copyBody) 0) 0 = true ∧ (withDesc 2 copyBody).spaceOk (oneRing (desc 2 copyBody) 0) 1 = true ∧
    (withDesc 2 copyBody).engineCopies 0 < 16 := by decide
set_option exponentiation.threshold 2000 in
set_option maxRecDepth 20000 in
theorem witness_Work_multicasts : plainLayout (desc 3 rectBody).bytes [(0x08, 0x18), (0x1A, 0x21)] = true ∧ dfield (desc 3 rectBody).bytes 0x1A 1 = 1 ∧
    dfield (desc 3 rectBody).bytes 0x1B 1 = 3 ∧ ((working 3 rectBody).partRec 3).tenant = some 1 ∧ rectOk 0 2 0 0 = true ∧ (working 3 rectBody).engineQuiet 0 = true ∧
    ((working 3 rectBody).freeTag (.engine 0)).isSome = true ∧ plainLayout (desc 3 (treeBody 4095)).bytes [(0x08, 0x18), (0x1A, 0x21)] = true ∧
    dfield (desc 3 (treeBody 4095)).bytes 0x1A 1 = 0 ∧ dfield (desc 3 (treeBody 4095)).bytes 0x1C 2 = 4095 ∧ (working 3 0).isBad (.table 1 4095) = false ∧
    ((working 3 0).group 0 4093).1.valid = false ∧ ((working 3 0).group 0 4094).1.valid = true ∧ ((working 3 0).group 0 4094).1.tenant ≠ 1 ∧
    ((working 3 0).group 0 4095).1.valid = true ∧ ((working 3 0).group 0 4095).1.tenant = 1 ∧ ((working 3 0).group 0 4095).1.member = false ∧
    (List.range 32).filter (fun j => ((working 3 0).group 0 4095).1.tree.testBit j) = [31] ∧ (working 3 0).linkTakes 31 = true := by decide
theorem witness_Work_multicast_taken : (working 3 0).Takes 31 ((working 3 0).mcastFrame 0 4095 1 0 (slice [] 0 64) 2 0) := takes (by decide)
set_option exponentiation.threshold 2000 in
set_option maxRecDepth 20000 in
theorem witness_Work_reductions : reduceOk (desc 4 redBody).bytes = true ∧ dfield (desc 4 redBody).bytes 0x0C 2 = 4 ∧ (working 4 redBody).redUnit 4 = 0 ∧
    (working 4 redBody).isBad (.table 2 4) = false ∧ ((working 4 redBody).redGroup 3).1.valid = false ∧ ((working 4 redBody).redGroup 4).1.valid = true ∧
    ((working 4 redBody).redGroup 4).1.tenant = 1 ∧ ((working 4 redBody).redGroup 4).1.rank % 2 = 1 ∧ ((working 4 redBody).redGroup 4).1.n ≠ 1 ∧
    ((working 4 redBody).readLeaves 0 1 0x100000 64 (1 * elemBytes 0) 1 0).1.toOption.isSome = true := by decide
set_option exponentiation.threshold 2000 in
set_option maxRecDepth 20000 in
theorem test_task_becomes_launch : (after (.task 9) (withDesc 1 taskBody)).net.pkts.map (fun e => e.2.msg matches .launch _) = [true] := by decide
set_option exponentiation.threshold 2000 in
set_option maxRecDepth 20000 in
theorem test_created_ring : (smGet (after (.ringCreate 9) (withDesc 8 createBody)).rings 0).map (fun x => (x.sizeLog2, x.slot, x.fn)) = some (16, 1023, 4) := by decide

/-! ### Functions -/

/-- Function 4 of port 0 in a state, with its ring of queued launches. -/
def fnIn (st : FnState) (x : Func) : State := { home with
  funcs := [(fnKey 0 4, { x with st })], rings := [(9, ring9)], tiles := [(0, { queue := [job] })], host := [(0, { enable := true, linkUp := true })] }
set_option exponentiation.threshold 2000 in
set_option maxRecDepth 20000 in
theorem witness_Functions : ∀ st : FnState, ((fnIn st {}).func 0 4).st = st ∧
    (∀ t k, ((fnIn st {}).tile t).task = some k → (fnIn st {}).ofFn 0 4 k.launch.ring = false) ∧
    (∀ c ∈ (fnIn st {}).fab.copies, c.lport = none → (fnIn st {}).ofFn 0 4 c.ring = false) ∧ (fnIn st {}).agentUp (.page 0 4) = true ∧
    (fnIn .stopping {}).fnBusy 0 4 = false := by
  intro st
  refine ⟨by cases st <;> rfl, fun t k h => ?_, fun c h => absurd h List.not_mem_nil, by cases st <;> decide, by decide⟩
  by_cases e : t = 0
  · subst e
    exact absurd (show none = some k from h) (by simp)
  · have : ((fnIn st {}).tile t).task = none := by simp [State.tile, fnIn, smGetD, smGet, Ne.symm e]
    rw [this] at h
    exact absurd h (by simp)
theorem witness_Functions_enable : 4 ≤ bits ((0x441 : Word) ||| 1).toNat 7 4 ∧ (bits ((0x441 : Word) ||| 1).toNat 11 8 = 0 ∨ 4 ≤ bits ((0x441 : Word) ||| 1).toNat 11 8) ∧
    bits ((0x331 : Word) ||| 1).toNat 7 4 < 4 ∧ 4 ≤ ({} : Func).adminLog2.toNat ∧ ({} : Func).evLog2 = 0 ∧ ({ tenant := some 1 } : Func).tenant.isSome = true := by decide
set_option maxRecDepth 20000 in
theorem witness_Functions_rings : (fnIn .idle { tenant := some 1 }).freeRing 0 = some 0 ∧ 0 < up.part.nIoDies ∧ up.board.rails = true ∧ up.bup.checked = true ∧
    (up.hostDie 0).disabled = false := by decide
theorem test_flr_drops_queued_launches : ((after (.functionLevelReset 0 4) (fnIn .running {})).tile 0).queue = [] := by decide
theorem test_disable_while_stopping : ((after (.functionDisable 0 4) (fnIn .stopping {})).func 0 4).cfgErr = true := by decide

/-! ### Logic regions -/

/-- Region 31 of tenant 1's partition runs; port 383 holds the tenant's page. -/
def logic : State := { home with
  parts := [(3, { clusters := 1, regions := 2 ^ 31, tenant := some 1 })]
  regions := [(31, { st := .running, imageValid := true, active := [(2 * 2 ^ 28 + 1, 0x800)] })]
  lports := [(383, { tlb := [{ leaf with entry := 0x20001F }] })] }
def asks (op : OOp) : OReq := { op, tag := 255, addr := 0x100000, size := 8, rt := true, data := [1, 2, 3, 4, 5, 6, 7, 8] }
set_option maxRecDepth 20000 in
theorem witness_Requests : (∀ op ∈ [OOp.read, .write, .atomic, .copy, .release, .acquire], (asks op).sized = true) ∧ logic.regionOpen (lportRegion 383) = true ∧
    logic.tagInUse 383 255 = false ∧ (logic.lport 383).fences = [] ∧ logic.partOfRegion (lportRegion 383) = some 3 ∧ logic.partHeld 3 = false ∧
    (logic.partRec 3).tenant = some 1 ∧ logic.engineCopies (logic.homeIo 3) < 16 ∧ (logic.lportRange 383 1 0x200000 8 needRead).1 = none ∧
    ({ logic with parts := [] } : State).partOfRegion (lportRegion 383) = none := by decide
set_option maxRecDepth 20000 in
theorem witness_Requests_reach : ∀ e ∈ [(PktOp.read, needRead), (.write, needWrite), (.atomic, needAtomic)],
    (logic.lportRange 383 1 0x100000 8 e.2).1 = some 0x200000 ∧
    ((logic.lportRange 383 1 0x100000 8 e.2).2.mkReq (.lport 383) e.1 0x200000 8 (if e.1 = .write then [1, 2, 3, 4, 5, 6, 7, 8] else [])).isSome = true := by decide
set_option exponentiation.threshold 2000 in
set_option maxRecDepth 20000 in
/-- Boundary frame 1 marks port 11 real-time, and no other. -/
theorem test_real_time_bit : ((after (.oreq 383 (asks .read)) logic).accesses.map (·.req.rt)) = [true] ∧
    ((after (.oreq 382 (asks .read)) { logic with lports := [(382, { tlb := [{ leaf with entry := 0x20001F }] })] }).accesses.map (·.req.rt)) = [false] := by decide

/-- An inbound request at the port. -/
def inAt (op : PktOp) : Inbound := ⟨63, { op, src := tileEnd 0, dst := lportEnd 383, pos := 0, tag := 9, size := 8, tenant := 1 }⟩
/-- A rectangle that the torus has not, and the last row of it; a group of tenant 1 whose tree is port 31. -/
def grouped : State := { logic with links := fabric.links, fab := { fabric.fab with mgroups := [(7, BitVec.ofNat 64 (2 ^ 63 + 1 * 2 ^ 51 + 2 ^ 31))] } }
theorem witness_Requests_multicast_of_design : (asks .torusMcast).sized = true ∧ (asks .fabricMcast).sized = true ∧ rectOk 0 48 0 0 = false ∧ rectOk 0 47 47 47 = true ∧
    (grouped.group (grouped.homeIo 3) 7).1.valid = true ∧ (grouped.group (grouped.homeIo 3) 7).1.tenant = 1 ∧ (grouped.group (grouped.homeIo 3) 7).1.member = false ∧
    (grouped.group (grouped.homeIo 3) 7).1.ports none = [31] ∧ (grouped.group (grouped.homeIo 3) 8).1.valid = false ∧ grouped.isBad (.table 1 7) = false := by decide
theorem witness_Requests_multicast_taken : grouped.Takes 31 (grouped.mcastFrame (grouped.homeIo 3) 7 1 0x100000 (slice [1, 2, 3] 0 8) 1 383) := takes (by decide)
/-- The time-out has answered request 63, and the design answers it late. -/
theorem test_late_answer_of_design_is_dropped : ((after (.irsp 383 63 .ok []) { logic with lports := [(383, { late := [63] })] }).lport 383).late = [] ∧
    (after (.irsp 383 63 .ok []) { logic with lports := [(383, { late := [63] })] }).net.pkts = [] := by decide
theorem witness_Inbound : ∀ op ∈ [PktOp.read, .write, .atomic], (({ logic with lports := [(383, { inbound := [inAt op] })] } : State).lport 383).inbound.find? (fun q => q.itag == 63) = some (inAt op) := by
  decide
theorem test_window_timeout_answers : ((after (.windowTimeout 383 63) { logic with lports := [(383, { inbound := [inAt .read] })] }).net.pkts.map (fun e => (e.2.status, e.2.tag))) =
    [(.busError, 9)] := by decide

/-- A bale with one section for region 0: one frame of zeros at the first boundary frame's address. -/
def baleBody : List Byte := leBytes 4 0x454C4142 ++ leBytes 2 1 ++ leBytes 1 3 ++ leBytes 1 1 ++ leBytes 4 304 ++ leBytes 4 0xC0 ++ List.replicate 112 0 ++
  leBytes 4 0xA0 ++ leBytes 4 137 ++ leBytes 4 1 ++ leBytes 4 0 ++ leBytes 8 0x1234 ++ leBytes 8 0 ++
  leBytes 1 1 ++ leBytes 4 (2 * 2 ^ 28) ++ leBytes 1 2 ++ leBytes 2 1 ++ List.replicate 128 0 ++ leBytes 4 0
def bale : List Byte := baleBody ++ leBytes 4 (crc32c baleBody)
def load : Load := { ring := 9, seq := 5, mask := 1, addr := 64, len := 304, space := 1, digest := BitVec.ofNat 256 (ofLe (sha256 bale)) }
def loading (l : Load) (x : Region) : State := { lent with loads := [l], regions := [(0, x)], tick := { inGuard := true } }
set_option maxRecDepth 200000 in
theorem witness_Loads_staged : (loading load { stage := .staging }).stagesNext 0 load = true ∧ baleHeader bale 304 1 up.part.b0 = none ∧
    (stageSections bale [(0, 0)] []).1 = none ∧ (stageSections bale [(0, 0)] []).2 = [(0, [(2 * 2 ^ 28, 0)], 0x1234, 1)] ∧ crc32c (bale.take 300) = field bale 300 4 ∧
    ofLe (sha256 bale) = load.digest.toNat := by decide +kernel
set_option maxRecDepth 200000 in
theorem witness_Loads_fetched : (loading load {}).fetchSpace load.port 4 9 0 1 64 304 (.ok bale) = (some (slice bale 0 304), loading load {}) ∧
    ((loading load {}).fetchSpace load.port 4 9 0 1 64 304 .failed).1 = none ∧ slice bale 0 304 = bale := ⟨rfl, rfl, by decide +kernel⟩
set_option exponentiation.threshold 2000 in
set_option maxRecDepth 20000 in
theorem witness_Loads_commit : (loading { load with armed := true, chosen := true } { stage := .armed }).tick.inGuard = true ∧
    (loading { load with armed := true, chosen := true } { stage := .armed }).clocksOk 0 = true ∧ ({ load with clear := true } : Load).clear = true ∧
    (loading { load with armed := true } { stage := .armed }).loads[0]? = some { load with armed := true } ∧ ({ load with armed := true } : Load).chosen = false :=
  ⟨rfl, by decide, rfl, rfl, rfl⟩
set_option exponentiation.threshold 2000 in
set_option maxRecDepth 20000 in
theorem test_clear_load_empties : ((after (.baleCommit 0) (loading { load with armed := true, chosen := true, clear := true } { st := .running, stage := .armed })).region 0).st = .empty := by decide
set_option exponentiation.threshold 2000 in
set_option maxRecDepth 20000 in
/-- A region whose active frame has gone off its shadow. -/
theorem witness_Scrub : lent.board.rails = true ∧ (∀ j, j < 8 → ((loading load { imageValid := true, active := [(0, 1)] }).region (8 * (0 / 8) + j)).stage ≠ .staging) ∧
    0 % 2 ^ 28 < typeFrames (0 / 2 ^ 28) ∧ (2 ^ 29 + 1) % 2 ^ 28 < typeFrames ((2 ^ 29 + 1) / 2 ^ 28) ∧ (1 : BitVec 1024) ≠ smGetD (({ imageValid := true, active := [(0, 1)] } : Region).shadow) 0 0 := by decide
theorem witness_Oscillators : Writable lent .granger (lgcBlock 3 + 0x20 + 8 * 3) ∧ Writable lent .granger (lgcBlock 3 + 0x40) := ⟨writable (by decide), writable (by decide)⟩
theorem witness_Oscillators_free : 10000 ≤ (10000 : Word).toNat ∧ (800000 : Word).toNat ≤ 800000 ∧ lent.oscInUse 3 3 = false ∧
    ∀ i, i < 9 → ((0xFEDCBA981 : DWord).toNat / 2 ^ (4 * i) % 16 < 2 ∨ 8 ≤ (0xFEDCBA981 : DWord).toNat / 2 ^ (4 * i) % 16) ∧
      (lent.region (8 * 3 + ((0xFEDCBA981 : DWord).toNat / 2 ^ (4 * i) % 16 - 8))).st ≠ .running := by decide

/-! ### Resets, parking and deep idle -/

theorem witness_Resets : (∀ k, (home.bup.recent.filter (fun e => e.1 == k)).length < 64) ∧ home.bup.grangerUp = true ∧ home.tileNamed 2303 = true ∧
    home.clusterNamed 143 = true ∧ home.resettable 0 = true ∧ (∀ t, CmdSrc.ring 0 ≠ .granger t) ∧ 63 < Config.partitions :=
  ⟨fun k => by simp [home, up, State.reset], rfl, by decide, by decide, by decide, fun t => by simp, by decide⟩
set_option maxRecDepth 20000 in
theorem test_reset_ends_task : ((after (.tileReset (.granger 1)) { home with tiles := [(0, { queue := [job] }), (1, { queue := [job], progTag := 7 })] }).tiles.map
    (fun e => e.2.queue.length)) = [1, 0] := by decide

/-- Tile 5 waits for its image; a task of tile 5 that a reset killed, with its write still out. -/
def fetching : State := { home with bup := { home.bup with tiles := [(5, { power := .resetting })] } }
def killed : Killed := { tile := 5, launch := job, epoch := 0 }
def undrained : State := { home with bup := { home.bup with killed := [killed] }, accesses := [
  { issuer := .tile 5, tag := 0, purpose := .store 0 0x2000 0x40, req := { arriving .write (tileEnd 0) .none with issuer := .tile 5 } }] }
theorem witness_Tile_images : (fetching.ctl 5).power = .resetting ∧ (fetching.ctl 5).fetched = false ∧ Memory.wf fetching.mem = true ∧
    undrained.killedOf 5 (fun k => !undrained.drained633 k) = some killed := by decide
theorem test_image_is_loaded : (after (.tileFirmwareFetched 5 [1, 2, 3]) fetching).mem = [(instAddr 5 0, 1), (instAddr 5 0 + 1, 2), (instAddr 5 0 + 2, 3)] := by decide
theorem test_late_drain_reports : ((after (.resetDrainLate 5) undrained).net.pkts.map (fun e =>
    match e.2.msg with | .report r => (r.ring, r.seq, r.code) | _ => (0, 0, 0))) = [(9, 5, 0x0D)] := by decide

/-- Cluster 143 is parked. -/
def parked : State := { home with bup := { home.bup with park := 2 ^ 143 } }
set_option maxRecDepth 20000 in
theorem witness_Parking : Writable home .granger (parkReg 143) ∧ Writable parked .granger (parkReg 143) ∧ home.bup.park.getLsbD 143 = false ∧
    home.partOfCluster 143 = none ∧ parked.bup.park.getLsbD 143 = true ∧ parked.bup.phase = 6 ∧ parked.fusedOff 2303 = false ∧ (parked.ctl 2303).disabled = false :=
  ⟨writable (by decide), writable (by decide), by decide, by decide, by decide, by decide, by decide, by decide⟩
theorem test_park_of_held_cluster_is_refused : (after (.clusterPark .granger 0) home).answer = .busError := by decide
def deep : State := { home with bup := { home.bup with deep := true }, rings := [(9, ring9)] }
def deepFrame : State := { deep with fab := { deep.fab with parcels := [(0, { inPort := some 5, die := 0, frame := { op := .write, dst := 0 } })] } }
theorem witness_DeepIdle : Writable home .granger 0x20038 ∧ Writable deep .granger 0x20038 ∧ home.bup.deep = false ∧ home.mayDeepIdle = true ∧
    ({ home with fab := { home.fab with copies := [theCopy []] } } : State).mayDeepIdle = false ∧ deep.bup.deep = true ∧ deep.bup.exiting = false ∧
    deep.rings.any (fun e => !e.2.held.isEmpty) = true ∧ deepFrame.fab.parcels.any (fun e => e.2.inPort.isSome && e.2.frame.wakes deepFrame.ownId) = true ∧
    deep.tileUsable 2303 = true ∧ (deep.ctl 2303).power = .off :=
  ⟨writable (by decide), writable (by decide), by decide, by decide, by decide, by decide, by decide, by decide, by decide, by decide, by decide⟩
theorem test_deep_idle_is_refused_while_copying : (after (.deepIdleEnter .granger) { home with fab := { home.fab with copies := [theCopy []] } }).answer = .busError := by decide

/-! ### Bring-up -/

/-- Powered with the rails down; held in MOD_RESET#; in a phase; with no image for a target. -/
def dark : State := { State.reset with board := { aux := true } }
def heldReset (was rails : Bool) : State := { up with bup := { up.bup with wasReady := was }, board := { up.board with resetLow := true, rails } }
def inPhase (n : Nat) : State := { up with bup := { up.bup with phase := n, ready := false, wasReady := false, memRound := 3, wavesStarted := 8 } }
def noImage : FwTarget := { slot0 := { valid := false }, slot1 := { valid := false } }
theorem witness_Power : dark.board.pwrGood = false ∧ dark.board.aux = true ∧ dark.board.rails = false ∧ up.board.rails = true ∧ up.board.aux = true ∧
    up.board.pwrGood = true ∧ up.board.resetLow = false ∧ (heldReset true true).bootCode = 0 ∧ (heldReset true true).bup.wasReady = true ∧
    (heldReset false false).bup.wasReady = false ∧ (heldReset false false).board.rails = false ∧
    ({ heldReset true true with bup := { up.bup with fw := [(0, noImage)] } } : State).bootCode = 1 ∧
    ({ heldReset true true with bup := { up.bup with fw := [(1, noImage)] } } : State).bootCode = 4 ∧
    ({ heldReset true true with bup := { up.bup with fw := [(2, noImage)] } } : State).bootCode = 2 := by decide
theorem test_thermal_trip_counts : (after .thermalTrip up).board.trips = up.board.trips + 1 := by decide
theorem test_rise_without_supply : (after (.pwrGoodRise false) dark).board = { aux := true, pwrGood := true, railFault := true } := by decide
set_option maxRecDepth 20000 in
theorem witness_Phases : (inPhase 2).bup.phase = 2 ∧ (inPhase 2).board.rails = true ∧ [Checked.ioDie 3].any Checked.fatal = true ∧ ((inPhase 2).stack 7).st = .untrained ∧
    (∀ k, k < 8 → (({ inPhase 3 with hbm := (List.range 8).map (fun k => (k, ({ st := .running } : Stack))) } : State).stack k).swept = true) ∧ (inPhase 3).part.nStacks = 8 ∧
    2 * (inPhase 4).bup.memRound < (inPhase 4).part.nStacks ∧ ((inPhase 4).stack 7).st ≠ .failed ∧ (({ st := .running } : Stack).inService ≠ 0) ∧
    ({ (inPhase 4).bup with wavesStarted := 7 } : Bringup).wavesStarted < 8 ∧ (inPhase 4).fusedOff 0 = false ∧ ((inPhase 4).ctl 0).disabled = false ∧
    (inPhase 4).tileDone 0 = false ∧ ({ inPhase 4 with bup := { (inPhase 4).bup with tiles := [(0, { reported := true })] } } : State).tileDone 0 = true ∧
    (inPhase 4).bup.wavesDone = 8 ∧ (inPhase 4).part.nStacks ≤ 2 * ({ (inPhase 4).bup with memRound := 4 } : Bringup).memRound := by decide
def signing : State := { up with bup := { up.bup with tiles := [(2303, { sigDue := true, fetched := true, power := .booting })] } }
theorem witness_Signatures : (signing.ctl 2303).sigDue = true ∧ (signing.ctl 2303).fetched = true ∧ 28 ≤ popcount (signing.fuseCols 2303 &&& ~~~((signing.ctl 2303).removed ||| 0xF)) := by decide
theorem test_fifth_bad_column_disables : ((after (.tileSignature 2303 0x1F false) signing).ctl 2303).disabled = true := by decide
theorem witness_Boot : Writable up .granger 0x20008 ∧ (1 : Word).toNat % 4 < 2 ∧ 2 ≤ (2 : Word).toNat % 4 ∧
    ({ up.bup with grangerUp := false } : Bringup).grangerUp = false ∧ up.bup.bootDone = true ∧ up.bup.deep = false ∧ ({ up.bup with failCode := 1 } : Bringup).failCode = 1 :=
  ⟨writable (by decide), by decide, by decide, by decide, by decide, by decide, by decide⟩

/-! ### Reports and health -/

def corrected : Report := { kind := 1, source := 2, unit := 3 }
def reporting (log : SMap (Nat × Report)) : State := { up with integ := { up.integ with reports := [corrected], log, logCount := 1, ceWin := [(7, 2000)] } }
theorem witness_Health_reports : (reporting []).integ.reports[0]? = some corrected ∧ (reporting []).integ.foldInto corrected = none ∧
    (reporting [(0, 0, corrected)]).integ.foldInto corrected = some (0, 0, corrected) ∧ (reporting []).integ.ceWin = [(7, 2000)] ∧ (reporting []).integ.ceThresh ≠ 0 ∧
    (reporting []).integ.ceThresh.toNat < 2000 := by decide
theorem test_report_folds : (smGet (after (.errorReport 0 true) (reporting [(0, 0, corrected)])).integ.log 0).map (fun e => e.2.folded) = some 1 := by decide
/-- In a guard window: tile 0's cycle stands at its last step. -/
def guarding (n : Nat) : State := { home with
  bup := { home.bup with tiles := [(0, { power := .awake, nextStep := n, removed := 0x1 })] }, tick := { enable := true, state := .standalone, inGuard := true } }
set_option maxRecDepth 20000 in
theorem witness_Slices : (guarding 137).maySlice 0 = true ∧ (guarding 137).sliceSteps ≠ 0 ∧ ((guarding 137).tile 0).active = false ∧
    (guarding 137).stepsFrom 0 137 = 137 :: [] ∧ ((guarding 136).stepsFrom 0 136) = 136 :: [137] ∧ ((guarding 137).ctl 0).failedOnce = false ∧
    (guarding 96).stepsFrom 0 96 = 97 :: (guarding 97).stepsFrom 0 98 ∧ (guarding 0).tileUsable 0 = true := by decide
theorem witness_Requested : Writable (guarding 0) .granger 0x30010 ∧ ((requestOf (true, 0)).filter (fun t => (guarding 0).tileUsable t && !(guarding 0).bup.park.getLsbD (tileCluster t))) ≠ [] ∧
    0 < Config.clusters ∧ (guarding 0).health.requests.length < 16 := ⟨writable (by decide), by decide, by decide, by decide⟩
set_option maxRecDepth 20000 in
theorem test_last_step_ends_cycle : ((after (.selftestSlice 0 [true]) (guarding 137)).ctl 0).nextStep = 0 := by decide
set_option maxRecDepth 20000 in
theorem test_cycle_skips_removed_column : ((after (.selftestSlice 0 [true]) (guarding 96)).ctl 0).nextStep = 98 := by decide
def dies (x : DieHealth) (f : BitVec 16) : State := { guarding 0 with health := { up.health with dies := [(3, x)], fMhz := f } }
theorem witness_Margins : (dies {} 1200).marginWindow = true ∧ (dies {} 1200).health.windowTaken.getLsbD 3 = false ∧ (dies {} 1200).dieFree 3 = true ∧
    (dies { vcore := 780 } 1200).stepMv 3 ≠ 0 ∧ (((dies { vcore := 780 } 1200).die 3).vcore.toNat : Int) < (dies { vcore := 780 } 1200).wantMv 3 ∧
    (dies { vcore := 820 } 1200).wantMv 3 < (((dies { vcore := 820 } 1200).die 3).vcore.toNat : Int) ∧ (dies { vcore := 820 } 1200).stepMv 3 ≠ 0 ∧
    (dies {} 1200).health.fMhz.toNat ≤ (dies {} 1200).wantMhz ∧ (dies { vcore := 780 } 1200).dieThere 3 = false ∧ (dies {} 600).clockThere = false ∧
    (dies {} 600).wantMhz ≠ (dies {} 600).health.fMhz.toNat ∧ 7 ≤ (dies {} 600).guardUs ∧ (dies {} 600).health.windowTaken = 0 ∧
    (∀ d, d < 4 → (dies {} 600).dieFree d = true) ∧ (∀ d, d < 4 → (dies {} 600).wantMv d ≤ ((dies {} 600).die d).vcore.toNat) ∧ (dies {} 600).bup.checked = true := by decide
theorem test_voltage_steps_by_20 : ((after (.marginApply 3) (dies { vcore := 750 } 1200)).die 3).vcore = 770 := by decide
theorem witness_Replan : (dies { samples := [(0, 20)], slack := 20 } 1200).health.frozen = false ∧ ((20 : BitVec 16).toInt < (30 : Byte).toNat) ∧
    ((30 : Byte).toNat : Int) ≤ (38 : BitVec 16).toInt ∧ (38 : BitVec 16).toInt ≤ 30 + 8 ∧ (30 + 8 : Int) < (39 : BitVec 16).toInt ∧ [1, -2, 3, 4].length = 4 ∧
    ([] : List Nat).Nodup := by decide
theorem test_replan_raises_voltage : ((after .marginReplan (dies { samples := [(0, 20)], slack := 20 } 1200)).die 3).vplan = 815 := by decide

/-! ### The queue and the invariants -/

theorem witness_Step : ({ State.reset with pending := [.nop 0, .nop 1] } : State).pending = .nop 0 :: [.nop 1] ∧ State.reset.pending = [] := by decide
theorem test_step_takes_front : (match Sys2Proof.Machine.step { State.reset with pending := [.nop 0, .nop 1] } with | .next s => s.pending | _ => []) = [.nop 1] := by decide
theorem witness_Canonical : Memory.wf ([(3, 1), (5, 2)] : List Host.Cell) = true ∧ Memory.wf ([(5, 1), (3, 2)] : List Host.Cell) = false ∧ Memory.wf ([(3, 0)] : List Host.Cell) = false := by decide
/-- Two partitions that share nothing, and a slot whose counter lies below its mark; an idle step leaves such a state as it is. -/
theorem witness_Invariant : (∀ k, (home.keySlot k).last ≤ (home.keySlot k).high) ∧ (∀ p q, p ≠ q → (home.partRec p).clusters &&& (home.partRec q).clusters = 0 ∧
    (home.partRec p).regions &&& (home.partRec q).regions = 0) ∧ Sys2Proof.Machine.step home = .next home := by
  refine ⟨fun k => ?_, fun p q h => ?_, rfl⟩
  · show (State.reset.keySlot k).last ≤ (State.reset.keySlot k).high
    unfold State.keySlot State.reset
    simp only [smGetD, smGet]
    split <;> simp
  · by_cases hp : p = 3
    · have hq : q ≠ 3 := fun e => h (hp.trans e.symm)
      simp [State.partRec, home, smGetD, smGet, hp, Ne.symm hq]
    · simp [State.partRec, home, smGetD, smGet, Ne.symm hp]

end Sys2Proof.Tests
end

namespace Sys2Proof.Machine

/-- The busy branch of a step: later proofs about a step go on from here with `exec`. -/
theorem step_of_pending_cons {s : State} {c : Instr} {rest : List Instr} (h : s.pending = c :: rest) :
    step s = exec c { s with pending := rest } := by
  simp only [step, h]

/-- The idle branch of a step (log entry 2). -/
theorem step_of_pending_nil {s : State} (h : s.pending = []) : step s = .next s := by
  simp only [step, h]

/-- Settles O56, by the two branches of a step: a queue with a front command, and an empty one. -/
theorem stepRunsFrontCommand : Obligations.StepRunsFrontCommand := by
  unfold Obligations.StepRunsFrontCommand
  exact ⟨fun _ _ _ => step_of_pending_cons, fun _ => step_of_pending_nil⟩

end Sys2Proof.Machine

namespace Sys2Proof.Machine

/-! ### What every step keeps: the form of memory, the counters of the key slots, the partitions

`Keeps s s'` says that the two invariants go over from `s` to `s'`. Each operation of the model has one lemma `Keeps.<operation>`: whatever
the state `s₀` a command began with, an operation that runs on a state `s` with `Keeps s₀ s` gives another such state. So a chain of
operations is a chain of lemmas, `(h.updTile ..).wake ..`, and a branch is `Keeps.ite`. The operations that do touch memory, the key slots
or the partitions (`Keeps.wr`, `Keeps.zeroMem`, `Keeps.updKey`, `Keeps.updPart`, …) carry the content; the others are frames. -/

/-- Two partitions share no cluster and no logic region (R26). -/
def PartRec.Apart (a b : PartRec) : Prop := a.clusters &&& b.clusters = 0 ∧ a.regions &&& b.regions = 0

theorem PartRec.Apart.symm {a b : PartRec} (h : a.Apart b) : b.Apart a :=
  ⟨BitVec.and_comm .. ▸ h.1, BitVec.and_comm .. ▸ h.2⟩

theorem PartRec.apart_empty (a : PartRec) : a.Apart {} := ⟨BitVec.and_zero, BitVec.and_zero⟩

/-- The invariant of the key slots and the partitions: each slot's counter lies at or below its mark, and no two partitions share a
member (R26, R531). -/
structure Registry (ks : SMap KeySlot) (ps : SMap PartRec) : Prop where
  below : ∀ k, (smGetD ks k {}).last ≤ (smGetD ks k {}).high
  apart : ∀ p q, p ≠ q → (smGetD ps p {}).Apart (smGetD ps q {})

/-- A slot may change in any way that leaves its counter at or below its mark. -/
theorem Registry.updKey {ks ps} (h : Registry ks ps) (k : Nat) (f : KeySlot → KeySlot)
    (hf : ∀ x : KeySlot, x.last ≤ x.high → (f x).last ≤ (f x).high) : Registry (smUpd ks k {} f) ps := by
  refine ⟨fun j => ?_, h.apart⟩
  by_cases hj : j = k
  · rw [hj, smGetD_smUpd_same]
    exact hf _ (h.below k)
  · rw [smGetD_smUpd_ne _ _ _ _ _ hj]
    exact h.below j

/-- A partition may change in any way that leaves it apart from the others. -/
theorem Registry.updPart {ks ps} (h : Registry ks ps) (p : Nat) (f : PartRec → PartRec)
    (hf : ∀ q, q ≠ p → (f (smGetD ps p {})).Apart (smGetD ps q {})) : Registry ks (smUpd ps p {} f) := by
  refine ⟨h.below, fun a b hab => ?_⟩
  by_cases ha : a = p
  · subst ha
    rw [smGetD_smUpd_same, smGetD_smUpd_ne _ _ _ _ _ hab.symm]
    exact hf b hab.symm
  · rw [smGetD_smUpd_ne _ _ _ _ _ ha]
    by_cases hb : b = p
    · subst hb
      rw [smGetD_smUpd_same]
      exact (hf a ha).symm
    · rw [smGetD_smUpd_ne _ _ _ _ _ hb]
      exact h.apart a b hab

theorem Registry.noParts {ks ps} (h : Registry ks ps) : Registry ks [] := ⟨h.below, fun _ _ _ => PartRec.apart_empty _⟩

theorem smGet_mem {α : Type} {m : SMap α} {k : Nat} {v : α} (h : smGet m k = some v) : (k, v) ∈ m := by
  induction m with
  | nil => cases h
  | cons e m ih =>
    rw [smGet] at h
    split at h
    · next hk => injection h with h; subst hk h; exact List.mem_cons_self
    · exact List.mem_cons_of_mem _ (ih h)

theorem smGet_map {α β : Type} (f : α → β) (m : SMap α) (k : Nat) : smGet (m.map (fun e => (e.1, f e.2))) k = (smGet m k).map f := by
  induction m with
  | nil => rfl
  | cons e m ih =>
    simp only [List.map_cons, smGet]
    split
    · rfl
    · exact ih

/-- At a loss of power every slot's counter becomes its mark, and no partition is left (R531). -/
theorem Registry.powerLost (ks : SMap KeySlot) : Registry (ks.map (fun e => (e.1, { e.2 with last := e.2.high }))) [] := by
  refine ⟨fun k => ?_, fun _ _ _ => PartRec.apart_empty _⟩
  have listed : smGetD (ks.map (fun e => (e.1, { e.2 with last := e.2.high }))) k {} =
      ((smGet ks k).map (fun x : KeySlot => { x with last := x.high })).getD {} :=
    congrArg (Option.getD · ({} : KeySlot)) (smGet_map (fun x : KeySlot => { x with last := x.high }) ks k)
  rw [listed]
  cases smGet ks k with
  | none => exact le_rfl
  | some x => exact le_rfl

/-- What holds of memory and of the registry in `s` holds in `s'`. -/
structure Keeps (s s' : State) : Prop where
  mem : Memory.wf s.mem = true → Memory.wf s'.mem = true
  registry : Registry s.keys s.parts → Registry s'.keys s'.parts

section
variable {s₀ s s' : State}

theorem Keeps.refl (s : State) : Keeps s s := ⟨id, id⟩

theorem Keeps.same (h : Keeps s₀ s) (hm : s'.mem = s.mem) (hk : s'.keys = s.keys) (hp : s'.parts = s.parts) : Keeps s₀ s' :=
  ⟨fun w => hm ▸ h.mem w, fun w => hk ▸ hp ▸ h.registry w⟩

theorem Keeps.foldl {α} {g : State → α → State} (l : List α) (h : Keeps s₀ s) (hg : ∀ s x, Keeps s₀ s → Keeps s₀ (g s x)) :
   Keeps s₀ (l.foldl g s) := by
  induction l generalizing s with
  | nil => exact h
  | cons x l ih => exact ih (hg s x h)

theorem Keeps.foldlSnd {α β} {g : β × State → α → β × State} (l : List α) {b : β} (h : Keeps s₀ s)
    (hg : ∀ a x, Keeps s₀ a.2 → Keeps s₀ (g a x).2) : Keeps s₀ (l.foldl g (b, s)).2 := by
  suffices ∀ a : β × State, Keeps s₀ a.2 → Keeps s₀ (l.foldl g a).2 from this (b, s) h
  induction l with
  | nil => exact fun _ h => h
  | cons x l ih => exact fun a h => ih _ (hg a x h)

theorem Keeps.foldlOption {α} {g : State → α → Option State} (l : List α)
    (hg : ∀ s x s', Keeps s₀ s → g s x = some s' → Keeps s₀ s') (h : Keeps s₀ s)
    (e : l.foldl (fun r x => match r with | none => none | some s => g s x) (some s) = some s') : Keeps s₀ s' := by
  have none_stays : ∀ l : List α, l.foldl (fun r x => match r with | none => none | some s => g s x) none = none := by
    intro l
    induction l with
    | nil => rfl
    | cons _ l ih => exact ih
  induction l generalizing s with
  | nil => injection e with e; exact e ▸ h
  | cons x l ih =>
    rw [List.foldl_cons] at e
    dsimp only at e
    cases hx : g s x with
    | none => rw [hx, none_stays] at e; cases e
    | some u => rw [hx] at e; exact ih (hg s x u h hx) e

/-- A record update that leaves memory, the key slots and the partitions alone. -/
theorem Keeps.with (h : Keeps s₀ s) (part tick cap tiles routers bad net accesses hbm fab links lnk host funcs rings tenants
    xsvc hostMem regions loads lports lgc integ bup health board answer freeCount pending) :
    Keeps s₀ ⟨part, tick, cap, s.parts, tiles, routers, s.mem, bad, net, accesses, hbm, fab, links, lnk, host, funcs, rings, tenants,
      s.keys, xsvc, hostMem, regions, loads, lports, lgc, integ, bup, health, board, answer, freeCount, pending⟩ := h.same rfl rfl rfl

/-- The state of a pair that a `match` has taken apart. -/
theorem Keeps.of_snd {α} {r : α × State} {a : α} (eq : r = (a, s')) (h : Keeps s₀ r.2) : Keeps s₀ s' := by
  subst eq
  exact h

theorem Keeps.ite {c : Prop} [Decidable c] (h : Keeps s₀ s) (h' : Keeps s₀ s') : Keeps s₀ (if c then s else s') := by
  split
  · exact h
  · exact h'

theorem Keeps.getD {o : Option State} (h : Keeps s₀ s) (ho : ∀ s', o = some s' → Keeps s₀ s') : Keeps s₀ (o.getD s) := by
  cases o with
  | none => exact h
  | some s' => exact ho s' rfl

/-- The record update of a module reset: no partition is left (R637). -/
theorem Keeps.noParts (h : Keeps s₀ s) (part tick cap tiles routers bad net accesses hbm fab links lnk host funcs rings tenants
    xsvc hostMem regions loads lports lgc integ bup health board answer freeCount pending) :
    Keeps s₀ ⟨part, tick, cap, [], tiles, routers, s.mem, bad, net, accesses, hbm, fab, links, lnk, host, funcs, rings, tenants,
      s.keys, xsvc, hostMem, regions, loads, lports, lgc, integ, bup, health, board, answer, freeCount, pending⟩ :=
  ⟨h.mem, fun w => (h.registry w).noParts⟩

theorem Keeps.next (e : (.next s : Out) = .next s') (h : Keeps s₀ s) : Keeps s₀ s' := by
  injection e with e
  exact e ▸ h

/-- Every state that a verdict carries keeps the invariants. -/
def Verdict.Keeps (s₀ : State) : Verdict → Prop
  | .fault .. => True
  | .wait _ _ s | .done s | .jump _ s | .park _ _ s | .own s => Machine.Keeps s₀ s

/-- Every state that the outcome of a multicast carries keeps the invariants. -/
def McastSent.Keeps (s₀ : State) : McastSent → Prop
  | .waits => True
  | .refused s | .sent s => Machine.Keeps s₀ s

end

section
variable {s₀ s s' : State} (h : Keeps s₀ s)
include h

/-! #### The operations of Machine/Ops -/

theorem Keeps.wr (a bs) : Keeps s₀ (s.wr a bs) :=
  ⟨fun w => memPutList_wf _ _ _ (h.mem w), h.registry⟩

theorem Keeps.clean (p) : Keeps s₀ (s.clean p) := h.with ..
theorem Keeps.free (w) : Keeps s₀ (s.free w).2 := h.with ..
theorem Keeps.setTile (t x) : Keeps s₀ (s.setTile t x) := h.with ..
theorem Keeps.updTile (t f) : Keeps s₀ (s.updTile t f) := h.setTile ..
theorem Keeps.updThread (t k f) : Keeps s₀ (s.updThread t k f) := h.updTile ..
theorem Keeps.updSlot (t i f) : Keeps s₀ (s.updSlot t i f) := h.updTile ..
theorem Keeps.updRouter (t f) : Keeps s₀ (s.updRouter t f) := h.with ..
theorem Keeps.updStack (k f) : Keeps s₀ (s.updStack k f) := h.with ..
theorem Keeps.updBup (f) : Keeps s₀ (s.updBup f) := h.with ..
theorem Keeps.updCtl (t f) : Keeps s₀ (s.updCtl t f) := h.updBup ..
theorem Keeps.updTick (f) : Keeps s₀ (s.updTick f) := h.with ..
theorem Keeps.updFab (f) : Keeps s₀ (s.updFab f) := h.with ..
theorem Keeps.updInt (f) : Keeps s₀ (s.updInt f) := h.with ..
theorem Keeps.updHealth (f) : Keeps s₀ (s.updHealth f) := h.with ..
theorem Keeps.updKfb (d f) : Keeps s₀ (s.updKfb d f) := h.updFab ..
theorem Keeps.updFport (q f) : Keeps s₀ (s.updFport q f) := h.updFab ..
theorem Keeps.updLink (q f) : Keeps s₀ (s.updLink q f) := h.with ..
theorem Keeps.updLnkDie (d f) : Keeps s₀ (s.updLnkDie d f) := h.with ..
theorem Keeps.updHost (d f) : Keeps s₀ (s.updHost d f) := h.with ..
theorem Keeps.updFunc (d f g) : Keeps s₀ (s.updFunc d f g) := h.with ..

theorem Keeps.updRing (r f) : Keeps s₀ (s.updRing r f) := by
  unfold State.updRing
  grind [Keeps.with]

theorem Keeps.updRegion (r f) : Keeps s₀ (s.updRegion r f) := h.with ..
theorem Keeps.updLport (n f) : Keeps s₀ (s.updLport n f) := h.with ..
theorem Keeps.updLgc (d f) : Keeps s₀ (s.updLgc d f) := h.with ..
theorem Keeps.torCtr (t off n) : Keeps s₀ (s.torCtr t off n) := h.updRouter ..
theorem Keeps.kfbCtr (d off n) : Keeps s₀ (s.kfbCtr d off n) := h.updKfb ..
theorem Keeps.hstCtr (d off n) : Keeps s₀ (s.hstCtr d off n) := h.updHost ..
theorem Keeps.grnCtr (d off n) : Keeps s₀ (s.grnCtr d off n) := h.updStack ..
theorem Keeps.intCtr (off n) : Keeps s₀ (s.intCtr off n) := h.updInt ..
theorem Keeps.bupCtr (off n) : Keeps s₀ (s.bupCtr off n) := h.updBup ..
theorem Keeps.hltCtr (off n) : Keeps s₀ (s.hltCtr off n) := h.updHealth ..
theorem Keeps.grgCtr (off n) : Keeps s₀ (s.grgCtr off n) := h.updHealth ..
theorem Keeps.lgcCtr (d off n) : Keeps s₀ (s.lgcCtr d off n) := h.updLgc ..
theorem Keeps.cfgCtr (d off n) : Keeps s₀ (s.cfgCtr d off n) := h.updLgc ..
theorem Keeps.lnkCtr (q off n) : Keeps s₀ (s.lnkCtr q off n) := h.updLink ..

theorem Keeps.report (kind source unit addr detail tenant part epoch) :
    Keeps s₀ (s.report kind source unit addr detail tenant part epoch) := by
  unfold State.report
  grind [Keeps.updInt, Keeps.intCtr]

theorem Keeps.hostWr (d a bs) : Keeps s₀ (s.hostWr d a bs) := h.with ..
theorem Keeps.hstErr (d kind fn ring) : Keeps s₀ (s.hstErr d kind fn ring) := h.updHost ..

theorem Keeps.event (d f code part unit detail) : Keeps s₀ (s.event d f code part unit detail) :=
  .ite (((h.hostWr ..).updFunc ..).hstCtr ..) ((h.updFunc ..).hstCtr ..)

theorem Keeps.ownerEvent (code part unit detail) : Keeps s₀ (s.ownerEvent code part unit detail) := by
  unfold State.ownerEvent
  grind [Keeps.hstCtr, Keeps.event]

theorem Keeps.grangerEvent (code part unit detail) : Keeps s₀ (s.grangerEvent code part unit detail) := .ite (h.ownerEvent ..) h

theorem Keeps.tenantEvent (ten code part unit detail) : Keeps s₀ (s.tenantEvent ten code part unit detail) := by
  unfold State.tenantEvent
  grind [Keeps.hstCtr, Keeps.event]

theorem Keeps.evAdd (t src n) : Keeps s₀ (s.evAdd t src n) := by
  unfold State.evAdd
  grind [Keeps.updHealth, Keeps.ownerEvent, Keeps.foldl]

theorem Keeps.strCtr (t off n) : Keeps s₀ (s.strCtr t off n) := by
  unfold State.strCtr
  grind [Keeps.updTile, Keeps.evAdd]

theorem Keeps.winCtr (t off n) : Keeps s₀ (s.winCtr t off n) := by
  unfold State.winCtr
  grind [Keeps.updTile, Keeps.evAdd]

theorem Keeps.seqCtrAdd (t off n) : Keeps s₀ (s.seqCtrAdd t off n) := by
  unfold State.seqCtrAdd
  grind [Keeps.updTile, Keeps.evAdd]

theorem Keeps.vecCtrAdd (t off n) : Keeps s₀ (s.vecCtrAdd t off n) := by
  unfold State.vecCtrAdd
  grind [Keeps.updTile, Keeps.evAdd]

theorem Keeps.arrCtrAdd (t off n) : Keeps s₀ (s.arrCtrAdd t off n) := by
  unfold State.arrCtrAdd
  grind [Keeps.updTile, Keeps.evAdd]

theorem Keeps.mvpCtrAdd (t off n) : Keeps s₀ (s.mvpCtrAdd t off n) := by
  unfold State.mvpCtrAdd
  grind [Keeps.updTile, Keeps.evAdd]

theorem Keeps.tileReport (kind t addr detail) : Keeps s₀ (s.tileReport kind t addr detail) :=
  (Keeps.ite (h.evAdd ..) h).report ..

/-! #### The operations of Machine/NetOps -/

theorem Keeps.addPkt (p) : Keeps s₀ (s.addPkt p) := h.with ..
theorem Keeps.inject (p) : Keeps s₀ (s.inject p) := h.addPkt ..
theorem Keeps.dropPkt (id) : Keeps s₀ (s.dropPkt id) := h.with ..
theorem Keeps.respond (p op status data) : Keeps s₀ (s.respond p op status data) := h.inject ..
theorem Keeps.sendMsg (src dst m part epoch tenant) : Keeps s₀ (s.sendMsg src dst m part epoch tenant) := h.inject ..

theorem Keeps.countHeld (n) : Keeps s₀ (s.countHeld n) := by
  unfold State.countHeld
  grind [Keeps.torCtr]

theorem Keeps.issue (a) : Keeps s₀ (s.issue a) := by
  unfold State.issue
  grind [Keeps.inject, Keeps.countHeld, Keeps.with]

theorem Keeps.releaseHeld (i n) : Keeps s₀ (s.releaseHeld i n) := by
  induction n generalizing s with
  | zero => exact h
  | succ n ih =>
    unfold State.releaseHeld
    grind [Keeps.inject, Keeps.with]

theorem Keeps.retire (i tag) : Keeps s₀ (s.retire i tag) := (h.with ..).releaseHeld ..
theorem Keeps.updAccess (i tag f) : Keeps s₀ (s.updAccess i tag f) := h.with ..

/-! #### The operations of Machine/HostOps -/

theorem Keeps.startDesc (r type go) (hgo : ∀ a a2 s, Keeps s₀ s → Keeps s₀ (go a a2 s)) : Keeps s₀ (s.startDesc r type go) := by
  unfold State.startDesc
  grind

theorem Keeps.updHeld (r seq f) : Keeps s₀ (s.updHeld r seq f) := h.updRing ..
theorem Keeps.started (r seq) : Keeps s₀ (s.started r seq) := h.updHeld ..

theorem Keeps.writeRecord (x h' c) : Keeps s₀ (s.writeRecord x h' c) := by
  unfold State.writeRecord
  grind [Keeps.hstCtr, Keeps.hostWr, Keeps.foldl]

theorem Keeps.hostReadErr {α : Type} (d fn ring) (r : HostData α) : Keeps s₀ (s.hostReadErr d fn ring r) := by
  cases r with
  | ok => exact h
  | failed => exact h.hstErr ..
  | poisoned => exact h.hstErr ..

theorem Keeps.ringFault (r cause x) : Keeps s₀ (s.ringFault r cause x) := (((h.updRing ..).event ..).hstCtr ..).hstErr ..

theorem Keeps.flushRing (r n) : Keeps s₀ (s.flushRing r n) := by
  induction n generalizing s with
  | zero => exact h
  | succ n ih =>
    unfold State.flushRing
    split
    · exact h
    · split
      · exact h
      · split
        · exact h
        · split
          · exact ih (by grind [Keeps.writeRecord, Keeps.updRing, Keeps.ringFault])
          · exact h

theorem Keeps.done (r seq c) : Keeps s₀ (s.done r seq c) := (h.updHeld ..).flushRing ..

theorem Keeps.finish (r seq c) : Keeps s₀ (s.finish r seq c) := by
  unfold State.finish
  grind [Keeps.done, Keeps.with]

theorem Keeps.finishWith (r seq status) : Keeps s₀ (s.finishWith r seq status) := h.finish ..

/-! #### The operations of Machine/SeqOps -/

theorem Keeps.loftWr (t off bs) : Keeps s₀ (s.loftWr t off bs) := h.wr ..
theorem Keeps.nearWr (t row v) : Keeps s₀ (s.nearWr t row v) := h.wr ..
theorem Keeps.flagsOr (t f) : Keeps s₀ (s.flagsOr t f) := h.updTile ..
theorem Keeps.raise (t thr f) : Keeps s₀ (s.raise t thr f) := .ite (h.flagsOr ..) (h.updThread ..)

theorem Keeps.applyRow (t r) : Keeps s₀ (s.applyRow t r) := by
  unfold State.applyRow
  grind [Keeps.clean, Keeps.updTile, Keeps.loftWr, Keeps.foldl]

theorem Keeps.applyRows (t rs) : Keeps s₀ (s.applyRows t rs) := by
  unfold State.applyRows
  grind [Keeps.applyRow, Keeps.foldl]

theorem Keeps.askXlate (t who va need) : Keeps s₀ (s.askXlate t who va need) := (h.strCtr ..).inject ..
theorem Keeps.tlbUse (t l) : Keeps s₀ (s.tlbUse t l) := h.updTile ..

theorem Keeps.portIdle (t) : Keeps s₀ (s.portIdle t) := by
  unfold State.portIdle
  grind [Keeps.free, Keeps.updTile]

theorem Keeps.chargeClass (t op n remote) : Keeps s₀ (s.chargeClass t op n remote) := ((h.updTile ..).strCtr ..).strCtr ..
theorem Keeps.strErr (t cause slot elem addr) : Keeps s₀ (s.strErr t cause slot elem addr) := h.updTile ..
theorem Keeps.sendToken (t slot k) : Keeps s₀ (s.sendToken t slot k) := h.inject ..
theorem Keeps.sendCredit (t slot n) : Keeps s₀ (s.sendCredit t slot n) := h.inject ..
theorem Keeps.dropSlotReads (t k p) : Keeps s₀ (s.dropSlotReads t k p) := h.with ..

theorem Keeps.wake (t) : Keeps s₀ (s.wake t) := by
  unfold State.wake
  grind [Keeps.updThread, Keeps.foldl]

theorem Keeps.ahistDone (t op) : Keeps s₀ (s.ahistDone t op) := .ite ((h.loftWr ..).updTile ..) (h.loftWr ..)
theorem Keeps.applyRuns (t rs) : Keeps s₀ (s.applyRuns t rs) := (h.applyRows ..).arrCtrAdd ..
theorem Keeps.someFlags (t f) : Keeps s₀ (s.someFlags t f) := (h.free 7).flagsOr ..

theorem Keeps.stopArray (t) : Keeps s₀ (s.stopArray t) := by
  unfold State.stopArray
  grind [Keeps.free, Keeps.updTile, Keeps.arrCtrAdd, Keeps.ahistDone, Keeps.applyRuns, Keeps.someFlags, Keeps.foldl]

theorem Keeps.rowsLost (t) : Keeps s₀ (s.rowsLost t) := .ite h ((((h.free 32).free 64).arrCtrAdd ..).mvpCtrAdd ..)

theorem Keeps.mvpKeep (t n) : Keeps s₀ (s.mvpKeep t n) := by
  unfold State.mvpKeep
  dsimp only
  (repeat' split) <;> grind [Keeps.free, Keeps.mvpCtrAdd, Keeps.applyRows, Keeps.someFlags, Keeps.foldl]

theorem Keeps.stopMvp (t) : Keeps s₀ (s.stopMvp t) := by
  unfold State.stopMvp
  grind [Keeps.free, Keeps.updTile, Keeps.someFlags, Keeps.mvpKeep, Keeps.foldl]

theorem Keeps.stopUnits (t) : Keeps s₀ (s.stopUnits t) := (h.stopArray ..).stopMvp ..
theorem Keeps.cutCycles (t off ran) : Keeps s₀ (s.cutCycles t off ran) := .ite ((h.free 32).winCtr ..) h

theorem Keeps.stopWinnow (t) : Keeps s₀ (s.stopWinnow t) := by
  unfold State.stopWinnow
  grind [Keeps.updTile, Keeps.winCtr, Keeps.cutCycles]

theorem Keeps.ackHalf (t peer h' st) : Keeps s₀ (s.ackHalf t peer h' st) := h.inject ..

theorem Keeps.dropHeld (t k) : Keeps s₀ (s.dropHeld t k) := by
  unfold State.dropHeld
  grind [Keeps.updSlot, Keeps.winCtr, Keeps.ackHalf]

theorem Keeps.sendEndTokens (t origin code) : Keeps s₀ (s.sendEndTokens t origin code) := by
  unfold State.sendEndTokens
  grind [Keeps.strCtr, Keeps.sendToken, Keeps.dropHeld, Keeps.foldl]

theorem Keeps.abortTokens (t) : Keeps s₀ (s.abortTokens t) := by
  unfold State.abortTokens
  grind [Keeps.updTile, Keeps.sendEndTokens]

theorem Keeps.endFields (code thr unit pc addr) : Keeps s₀ (s.endFields code thr unit pc addr).2 := by
  unfold State.endFields
  grind [Keeps.free]

theorem Keeps.endTask (t code thr unit pc addr) : Keeps s₀ (s.endTask t code thr unit pc addr) := by
  unfold State.endTask
  grind [Keeps.updTile, Keeps.stopUnits, Keeps.stopWinnow, Keeps.abortTokens, Keeps.endFields]

theorem Keeps.streamFault (t slot code cause elem addr) : Keeps s₀ (s.streamFault t slot code cause elem addr) := by
  unfold State.streamFault
  grind [Keeps.updTile, Keeps.strErr, Keeps.endTask]

theorem Keeps.jobDone (j) : Keeps s₀ (s.jobDone j) := by
  unfold State.jobDone
  grind [Keeps.grangerEvent, Keeps.finishWith]

theorem Keeps.settleResets : Keeps s₀ (s.settleResets) := by
  unfold State.settleResets
  grind [Keeps.updBup, Keeps.grangerEvent, Keeps.jobDone, Keeps.foldl]

theorem Keeps.endFirmware (t) : Keeps s₀ (s.endFirmware t) := ((h.updTile ..).updCtl ..).settleResets
theorem Keeps.firmwareFault (t) : Keeps s₀ (s.firmwareFault t) := (h.updCtl ..).endFirmware ..

theorem Keeps.faultEnd (t code thr unit pc addr) : Keeps s₀ (s.faultEnd t code thr unit pc addr) :=
  .ite (h.firmwareFault ..) (h.endTask ..)

theorem Keeps.redirect (t thr) : Keeps s₀ (s.redirect t thr) := by
  unfold State.redirect
  grind [Keeps.updThread, Keeps.winCtr, Keeps.with]

theorem Keeps.settle (t thr ok v) (hv : v.Keeps s₀) : Keeps s₀ (s.settle t thr ok v) := by
  unfold State.settle
  cases v <;> grind [Keeps.updThread, Keeps.seqCtrAdd, Keeps.faultEnd, Verdict.Keeps]

theorem Keeps.issueAt (t thr o ok run) (hrun : ∀ a s, Keeps s₀ s → (run a s).Keeps s₀) :
    Keeps s₀ (s.issueAt t thr o ok run) := by
  unfold State.issueAt
  grind [Keeps.updTile, Keeps.updCtl, Keeps.tileReport, Keeps.endTask, Keeps.firmwareFault, Keeps.faultEnd, Keeps.settle,
    Verdict.Keeps, illegal]

theorem Keeps.setG (t thr r v) : Keeps s₀ (s.setG t thr r v) := h.updThread ..
theorem Keeps.setP (t thr k v) : Keeps s₀ (s.setP t thr k v) := .ite h (h.updThread ..)

theorem keeps_guarded (t thr enc run w) (hrun : ∀ a s, Keeps s₀ s → (run a s).Keeps s₀) :
    (guarded t thr enc run w s).Keeps s₀ := by
  unfold guarded
  grind [Verdict.Keeps, illegal]

/-! #### The operations of Machine/Operands -/

theorem Keeps.space1 (t thr va n need tagged go) (hgo : ∀ a s, Keeps s₀ s → (go a s).Keeps s₀) :
    (s.space1 t thr va n need tagged go).Keeps s₀ := by
  unfold State.space1
  grind [Keeps.askXlate, Keeps.tlbUse, Keeps.portIdle, Verdict.Keeps]

/-! #### The operations of Machine/Array -/

theorem Keeps.queueArr (t o) : (s.queueArr t o).Keeps s₀ := by
  unfold State.queueArr
  grind [Keeps.updTile, Verdict.Keeps]

theorem keeps_execAmm (t thr) (e : execAmm t thr s = .next s') : Keeps s₀ s' := by
  unfold execAmm at e
  grind [Keeps.issueAt, Keeps.queueArr, Verdict.Keeps, illegal]

theorem keeps_execAdrn (t thr) (e : execAdrn t thr s = .next s') : Keeps s₀ s' := by
  unfold execAdrn at e
  grind [Keeps.issueAt, Keeps.queueArr, Verdict.Keeps, illegal]

theorem keeps_execAcbl (t thr) (e : execAcbl t thr s = .next s') : Keeps s₀ s' := by
  unfold execAcbl at e
  grind [Keeps.issueAt, Keeps.queueArr, Verdict.Keeps, illegal]

theorem keeps_execAhist (t thr) (e : execAhist t thr s = .next s') : Keeps s₀ s' := by
  unfold execAhist at e
  grind [Keeps.issueAt, Keeps.queueArr, Verdict.Keeps, illegal]

theorem keeps_execAbar (t thr) (e : execAbar t thr s = .next s') : Keeps s₀ s' := by
  unfold execAbar at e
  grind [Keeps.issueAt, Verdict.Keeps, illegal]

theorem Keeps.addBubbles (t b) : Keeps s₀ (s.addBubbles t b) := by
  unfold State.addBubbles
  grind [Keeps.arrCtrAdd, Keeps.foldl]

theorem Keeps.arrFail (t o e') : Keeps s₀ (s.arrFail t o e') := by
  unfold State.arrFail
  grind [Keeps.updTile, Keeps.arrCtrAdd, Keeps.tileReport, Keeps.applyRuns, Keeps.endTask]

theorem Keeps.startRun (t o load x) : Keeps s₀ (s.startRun t o load x) := by
  unfold State.startRun
  grind [Keeps.updTile, Keeps.wake, Keeps.arrFail]

theorem keeps_execArrayEntryStart (t bubbles) (e : execArrayEntryStart t bubbles s = .next s') : Keeps s₀ s' := by
  unfold execArrayEntryStart at e
  grind [Keeps.updTile, Keeps.addBubbles, Keeps.startRun, Keeps.with]

theorem Keeps.barriers (t mv) : Keeps s₀ (s.barriers t mv) := (h.updTile ..).wake ..

theorem keeps_execArrayEntryComplete (t bubbles) (e : execArrayEntryComplete t bubbles s = .next s') : Keeps s₀ s' := by
  unfold execArrayEntryComplete at e
  grind [Keeps.updTile, Keeps.arrCtrAdd, Keeps.ahistDone, Keeps.applyRuns, Keeps.addBubbles, Keeps.barriers]

theorem keeps_execMvm (t thr) (e : execMvm t thr s = .next s') : Keeps s₀ s' := by
  unfold execMvm at e
  grind [Keeps.updTile, Keeps.issueAt, Verdict.Keeps, illegal]

theorem keeps_execMbar (t thr) (e : execMbar t thr s = .next s') : Keeps s₀ s' := by
  unfold execMbar at e
  grind [Keeps.issueAt, Verdict.Keeps, illegal]

theorem Keeps.mvpFail (t n o e') : Keeps s₀ (s.mvpFail t n o e') := by
  unfold State.mvpFail
  grind [Keeps.updTile, Keeps.tileReport, Keeps.mvpKeep, Keeps.endTask]

theorem Keeps.cleanSums (t) : Keeps s₀ (s.cleanSums t) := h.with ..

theorem keeps_execMvpEntryStart (t) (e : execMvpEntryStart t s = .next s') : Keeps s₀ s' := by
  unfold execMvpEntryStart at e
  injection e with e
  subst e
  split <;> grind [Keeps.free, Keeps.updTile, Keeps.mvpCtrAdd, Keeps.wake, Keeps.mvpFail, Keeps.cleanSums, Keeps.with]

theorem keeps_execMvpEntryComplete (t stall) (e : execMvpEntryComplete t stall s = .next s') : Keeps s₀ s' := by
  unfold execMvpEntryComplete at e
  injection e with e
  subst e
  split
  · exact h
  · split
    · exact ((h.free 32).cleanSums ..).mvpFail ..
    · exact (((((h.updTile ..).applyRows ..).mvpCtrAdd ..).mvpCtrAdd ..).mvpCtrAdd ..).barriers ..

/-! #### The operations of Machine/Regs -/

theorem Keeps.refuse (a) : Keeps s₀ (s.refuse a) := by
  unfold State.refuse
  grind [Keeps.hstErr, Keeps.with]

theorem Keeps.regWrite (a off f) (hf : ∀ s s', Keeps s₀ s → f s = some s' → Keeps s₀ s') : Keeps s₀ (s.regWrite a off f) := by
  unfold State.regWrite
  grind [Keeps.refuse, Keeps.with]

theorem Keeps.capRewrite : Keeps s₀ (s.capRewrite) := h.with ..
theorem Keeps.capUpdate : Keeps s₀ (s.capUpdate) := .ite h.capRewrite h

/-! #### The operations of Machine/Granary -/

theorem Keeps.updPch (k c f) : Keeps s₀ (s.updPch k c f) := h.updStack ..
theorem Keeps.grnErr (k kind pch off) : Keeps s₀ (s.grnErr k kind pch off) := h.updStack ..

theorem Keeps.zeroMem (a n) : Keeps s₀ (s.zeroMem a n) :=
  ⟨fun w => filter_wf _ _ (h.mem w), h.registry⟩

theorem Keeps.drawTokens (k p bytes) : Keeps s₀ (s.drawTokens k p bytes).2 := by
  unfold State.drawTokens
  grind [Keeps.free, Keeps.updStack, Keeps.grnCtr]

theorem Keeps.grnEffect (p a) : Keeps s₀ (s.grnEffect p a).2 := by
  unfold State.grnEffect
  grind [Keeps.wr]

theorem Keeps.grnEnter (k off q) : Keeps s₀ (s.grnEnter k off q) :=
  .ite (((h.grnEffect ..).updPch ..).respond ..) ((h.grnEffect ..).updPch ..)

theorem Keeps.pasrWake (k) : Keeps s₀ (s.pasrWake k) := .ite (((h.with ..).updStack ..).grnCtr ..) h
theorem Keeps.nack (id p st) : Keeps s₀ (s.nack id p st) := (h.dropPkt ..).respond ..
theorem Keeps.refuseBad (id p source unit) : Keeps s₀ (s.refuseBad id p source unit) := (h.report ..).nack ..

theorem Keeps.grnTake (id p k off) : Keeps s₀ (s.grnTake id p k off) := by
  unfold State.grnTake
  grind [Keeps.updStack, Keeps.grnCtr, Keeps.dropPkt, Keeps.updPch, Keeps.grnErr, Keeps.drawTokens, Keeps.grnEnter,
    Keeps.pasrWake, Keeps.nack, Keeps.refuseBad]

theorem Keeps.releaseScrubbed (k row) : Keeps s₀ (s.releaseScrubbed k row) := by
  unfold State.releaseScrubbed
  grind [Keeps.updPch, Keeps.grnEnter, Keeps.foldl]

theorem Keeps.scrub (k r) : Keeps s₀ (s.scrub k r) := ((h.zeroMem ..).updStack ..).releaseScrubbed ..

theorem keeps_execScrubRow (k) (e : execScrubRow k s = .next s') : Keeps s₀ s' := by
  unfold execScrubRow at e
  grind [Keeps.scrub]

theorem Keeps.activate (k c bank row off rt) : Keeps s₀ (s.activate k c bank row off rt) := by
  unfold State.activate
  grind [Keeps.updTick, Keeps.grnCtr, Keeps.ownerEvent, Keeps.updPch, Keeps.grnErr]

theorem Keeps.useRow (k c bank row off rt older) : Keeps s₀ (s.useRow k c bank row off rt older) := by
  unfold State.useRow
  grind [Keeps.updPch, Keeps.activate]

theorem Keeps.grnAnswer (k c q ecc) : Keeps s₀ (s.grnAnswer k c q ecc) := by
  unfold State.grnAnswer
  split
  · exact h.grnCtr ..
  · have read := Keeps.ite (c := q.pkt.op = .atomic) ((h.grnCtr k 0x200 32).grnCtr k 0x208 32) (h.grnCtr k 0x200 q.pkt.size)
    dsimp only
    split
    · have lost := ((read.grnCtr k 0x258 1).grnErr k 1 c (s.reqOff q / 256 * 256)).report 9 3 k (gLocal q.pkt.addr) 0 (some q.pkt.tenant) none 0
      exact (Keeps.ite ((lost.free 64).wr ..) lost).respond ..
    · exact (Keeps.ite ((read.grnCtr ..).updInt ..) read).respond ..

theorem Keeps.pchServe (k c q ecc) : Keeps s₀ (s.pchServe k c q ecc) := ((h.useRow ..).updPch ..).grnAnswer ..

theorem keeps_execPchAccess (k c agedBelow ecc) (e : execPchAccess k c agedBelow ecc s = .next s') : Keeps s₀ s' := by
  unfold execPchAccess at e
  grind [Keeps.grnCtr, Keeps.pchServe]

theorem keeps_execRowClose (k c bank) (e : execRowClose k c bank s = .next s') : Keeps s₀ s' := .next e (h.updPch ..)

theorem keeps_execRefreshDue (k c) (e : execRefreshDue k c s = .next s') : Keeps s₀ s' := by
  unfold execRefreshDue at e
  grind [Keeps.grnCtr, Keeps.updPch]

theorem keeps_execRefreshRepay (k c) (e : execRefreshRepay k c s = .next s') : Keeps s₀ s' :=
  .next e (.ite ((h.updPch ..).grnCtr ..) h)

theorem keeps_execNrefBudgetGain (k c) (e : execNrefBudgetGain k c s = .next s') : Keeps s₀ s' := .next e (.ite (h.updPch ..) h)

theorem keeps_execStackTempRead (k temp) (e : execStackTempRead k temp s = .next s') : Keeps s₀ s' :=
  .next e (.ite (h.updStack ..) h)

theorem Keeps.losePch (k c) : Keeps s₀ (s.losePch k c) := by
  unfold State.losePch
  have told := ((((h.updPch k c (fun p => { p with st := .lost, queue := [] })).foldl
    (g := fun s r => s.respond r.pkt r.pkt.op.answer .busError [])
    ((s.pch k c).queue.filter (fun r => r.pkt.op != .write || r.scrubWait)) (fun _ _ h => h.respond ..)).grnErr k 3 c 0).capUpdate).grangerEvent 0x10 0xFF k c
  exact .ite (told.grangerEvent ..) told

theorem Keeps.remapWrite (k pch) (e : s.remapWrite k pch = some s') : Keeps s₀ s' := by
  unfold State.remapWrite at e
  dsimp only at e
  split at e
  · injection e with e
    subst e
    exact ⟨fun w => filter_wf _ _ (h.mem w), h.registry⟩
  · cases e

theorem keeps_execRemapRequest (a k pch) (e : execRemapRequest a k pch s = .next s') : Keeps s₀ s' := by
  unfold execRemapRequest at e
  grind [Keeps.regWrite, Keeps.remapWrite]

theorem Keeps.stacksGuard : Keeps s₀ (s.stacksGuard) := h.with ..
theorem keeps_execRemapActivate (k) (e : execRemapActivate k s = .next s') : Keeps s₀ s' := .next e (.ite (h.updStack ..) h)

theorem Keeps.recoverPch (k c first second) : Keeps s₀ (s.recoverPch k c first second) :=
  .ite ((h.updPch ..).grnErr ..) (Keeps.ite (((h.updPch ..).updStack ..).grnErr ..) (h.losePch ..))

theorem keeps_execGranaryTraining (k ca sweeps) (e : execGranaryTraining k ca sweeps s = .next s') : Keeps s₀ s' := by
  unfold execGranaryTraining at e
  grind [Keeps.updStack, Keeps.updPch, Keeps.foldl]

theorem keeps_execRecentre (k c found rd wd) (e : execRecentre k c found rd wd s = .next s') : Keeps s₀ s' :=
  .next e (.ite h (Keeps.ite (((h.updStack ..).grnCtr ..).updPch ..) (((h.updStack ..).grnCtr ..).updPch ..)))

theorem keeps_execTrainingRecovery (k c first second) (e : execTrainingRecovery k c first second s = .next s') : Keeps s₀ s' :=
  .next e (.ite (h.recoverPch ..) h)

theorem keeps_execRecentreOverdue (k c) (e : execRecentreOverdue k c s = .next s') : Keeps s₀ s' :=
  .next e (.ite ((h.updPch ..).ownerEvent ..) h)

theorem Keeps.drainPch (k c n) : Keeps s₀ (s.drainPch k c n) := by
  induction n generalizing s with
  | zero => exact h
  | succ n ih =>
    unfold State.drainPch
    grind [Keeps.pchServe]

theorem Keeps.drainStack (k) : Keeps s₀ (s.drainStack k) := by
  unfold State.drainStack
  grind [Keeps.scrub, Keeps.drainPch, Keeps.foldl]

theorem Keeps.pasrSleep (k) : Keeps s₀ (s.pasrSleep k) := (h.drainStack ..).updStack ..

theorem Keeps.pasrEnter (k) (e : s.pasrEnter k = some s') : Keeps s₀ s' := by
  unfold State.pasrEnter at e
  grind [Keeps.pasrSleep]

theorem keeps_execPasrEnter (a k) (e : execPasrEnter a k s = .next s') : Keeps s₀ s' := by
  unfold execPasrEnter at e
  grind [Keeps.regWrite, Keeps.pasrEnter]

theorem keeps_execPasrExit (a k) (e : execPasrExit a k s = .next s') : Keeps s₀ s' := by
  unfold execPasrExit at e
  grind [Keeps.regWrite, Keeps.pasrWake]

theorem Keeps.resvWrite (k p v) (e : s.resvWrite k p v = some s') : Keeps s₀ s' := by
  unfold State.resvWrite at e
  grind [Keeps.updStack]

theorem keeps_execReservationWrite (a k p v) (e : execReservationWrite a k p v s = .next s') : Keeps s₀ s' := by
  unfold execReservationWrite at e
  grind [Keeps.regWrite, Keeps.resvWrite]

theorem keeps_execGrnClear (a k) (e : execGrnClear a k s = .next s') : Keeps s₀ s' := by
  unfold execGrnClear at e
  grind [Keeps.updStack, Keeps.regWrite]

/-! #### The operations of Machine/Xlate -/

theorem Keeps.stackFetch (k off n) : Keeps s₀ (s.stackFetch k off n).2 := by
  unfold State.stackFetch
  split
  · exact h
  · have read := fun c bank row older => ((Keeps.ite (c := ((s.pasrWake k).stack k).rowUnscrubbed off)
      (((h.pasrWake k).grnCtr k 0x268 1).scrub k (off / 0x400000)) (h.pasrWake k)).useRow k c bank row off false older).grnCtr k 0x200 n
    dsimp only
    split <;> dsimp only
    · exact read ..
    · exact ((read ..).grnCtr ..).updInt ..
    · exact (((read ..).grnCtr ..).grnErr ..).report ..

theorem Keeps.readPhys (g n) : Keeps s₀ (s.readPhys g n).2 := by
  unfold State.readPhys
  grind [Keeps.stackFetch]

theorem Keeps.tableEntry (a) : Keeps s₀ (s.tableEntry a).2 := by
  unfold State.tableEntry
  grind [Keeps.stackFetch]

theorem Keeps.walkFrom (tenant va top ls a) : Keeps s₀ (s.walkFrom tenant va top ls a).2 := by
  induction ls generalizing s top a with
  | nil => exact h
  | cons l ls ih =>
    unfold State.walkFrom
    split
    · exact h
    · split
      · next eq => exact .of_snd eq (h.tableEntry _)
      · next eq =>
        have entry := Keeps.of_snd eq (h.tableEntry _)
        split
        · exact entry
        · exact entry
        · exact ih entry ..

theorem Keeps.walk (tenant va) : Keeps s₀ (s.walk tenant va).2 := by
  unfold State.walk
  grind [Keeps.walkFrom]

theorem Keeps.service (d tenant va) : Keeps s₀ (s.service d tenant va).2 := by
  unfold State.service
  grind [Keeps.walk, Keeps.with]

theorem Keeps.translate (d tenant va need) : Keeps s₀ (s.translate d tenant va need).2 := by
  unfold State.translate
  grind [Keeps.service]

theorem Keeps.fetchFrom (d tenant va away fuel off n acc) :
    Keeps s₀ (s.fetchFrom d tenant va away fuel off n acc).2 := by
  induction fuel generalizing s off n acc with
  | zero => exact h
  | succ fuel ih =>
    unfold State.fetchFrom
    split
    · exact h
    · dsimp only
      split
      · next eq => exact .of_snd eq (h.translate ..)
      · next eq =>
        have mapped := Keeps.of_snd eq (h.translate ..)
        split
        · next eq => exact ih (.of_snd eq (mapped.readPhys ..)) ..
        · next eq => exact .of_snd eq (mapped.readPhys ..)
        · next eq =>
          have read := Keeps.of_snd eq (mapped.readPhys ..)
          split
          · exact ih read ..
          · exact read

theorem Keeps.fetchVa (d tenant va n away) : Keeps s₀ (s.fetchVa d tenant va n away).2 := h.fetchFrom ..

/-! #### The operations of Machine/FabOps -/

theorem Keeps.kfbErr (d kind port module detail) : Keeps s₀ (s.kfbErr d kind port module detail) := h.updKfb ..
theorem Keeps.addParcel (inPort die f) : Keeps s₀ (s.addParcel inPort die f) := h.updFab ..
theorem Keeps.oweUnits (q f) : Keeps s₀ (s.oweUnits q f) := .ite (h.updFport ..) h

theorem Keeps.dropParcel (id) : Keeps s₀ (s.dropParcel id) := by
  unfold State.dropParcel
  grind [Keeps.updFab, Keeps.oweUnits]

theorem Keeps.parcelFor (id op go) (hgo : ∀ a a2 s, Keeps s₀ s → Keeps s₀ (go a a2 s)) : Keeps s₀ (s.parcelFor id op go) := by
  unfold State.parcelFor
  grind

theorem Keeps.sendFrame (die f) : Keeps s₀ (s.sendFrame die f) := h.addParcel ..

theorem Keeps.pushBlock (q us times) : Keeps s₀ (s.pushBlock q us times) := by
  unfold State.pushBlock
  grind [Keeps.free, Keeps.updFport, Keeps.updLink]

theorem Keeps.beginFrame (q f) : Keeps s₀ (s.beginFrame q f) := (h.updFport ..).kfbCtr ..

theorem Keeps.fillUnits (q n m) : Keeps s₀ (s.fillUnits q n m).2 := by
  induction n generalizing s m with
  | zero => exact h
  | succ n ih =>
    unfold State.fillUnits
    (repeat' split) <;> grind [Keeps.updFport, Keeps.beginFrame, Keeps.with]

theorem Keeps.drainPort (q n) : Keeps s₀ (s.drainPort q n) := by
  induction n generalizing s with
  | zero => exact h
  | succ n ih =>
    unfold State.drainPort
    grind [Keeps.pushBlock, Keeps.fillUnits]

theorem Keeps.drain (q) : Keeps s₀ (s.drain q) := h.drainPort ..

theorem Keeps.portSend (q f) : Keeps s₀ (s.portSend q f) := by
  unfold State.portSend
  grind [Keeps.updFport, Keeps.report, Keeps.drain]

theorem Keeps.portUp (q) : Keeps s₀ (s.portUp q) := (((h.updFport ..).updLink ..).capUpdate).drain ..
theorem Keeps.sendHello (q) : Keeps s₀ (s.sendHello q) := .ite (((h.updLink ..).beginFrame ..).pushBlock ..) h

theorem Keeps.badEntry (d k i) : Keeps s₀ (s.badEntry d k i).2 := by
  unfold State.badEntry
  grind [Keeps.report]

theorem Keeps.route (d m) : Keeps s₀ (s.route d m).2 := by
  unfold State.route
  grind [Keeps.badEntry]

theorem Keeps.stayOnAlt (q) : Keeps s₀ (s.stayOnAlt q) := by
  unfold State.stayOnAlt
  grind [Keeps.updFab]

theorem Keeps.sendOrdered (d r f) : Keeps s₀ (s.sendOrdered d r f) := by
  unfold State.sendOrdered
  grind [Keeps.kfbCtr, Keeps.kfbErr, Keeps.portSend]

theorem Keeps.updSend (k f) : Keeps s₀ (s.updSend k f) := by
  unfold State.updSend
  grind [Keeps.updFab]

theorem Keeps.dropFlow (c) : Keeps s₀ (s.dropFlow c) := h.updFab ..

theorem Keeps.resend (k) : Keeps s₀ (s.resend k) := by
  unfold State.resend
  grind [Keeps.kfbCtr, Keeps.addParcel, Keeps.dropFlow, Keeps.foldl]

theorem Keeps.answerIssuer (d f st data damaged) : Keeps s₀ (s.answerIssuer d f st data damaged) := by
  unfold State.answerIssuer
  grind [Keeps.inject]

theorem Keeps.closeFlow (k) : Keeps s₀ (s.closeFlow k) := by
  unfold State.closeFlow
  grind [Keeps.updFab]

theorem Keeps.leave (id p d) : Keeps s₀ (s.leave id p d) := by
  unfold State.leave
  grind [Keeps.updFab, Keeps.kfbCtr, Keeps.dropPkt, Keeps.nack, Keeps.kfbErr, Keeps.addParcel, Keeps.route, Keeps.updSend]

theorem Keeps.ingress (d tenant addr n need) : Keeps s₀ (s.ingress d tenant addr n need).2 :=
  h.foldlSnd _ (fun _ _ h => h.badEntry ..)

theorem Keeps.windowOf (d tenant) : Keeps s₀ (s.windowOf d tenant).2 :=
  h.foldlSnd _ (fun _ _ h => h.badEntry ..)

theorem Keeps.denied (d port module tenant) : Keeps s₀ (s.denied d port module tenant) := (h.kfbCtr ..).kfbErr ..
theorem Keeps.updCopy (k f) : Keeps s₀ (s.updCopy k f) := h.updFab ..
theorem Keeps.orsp (n tag st data) : Keeps s₀ (s.orsp n tag st data) := .ite h (h.updLport ..)
theorem Keeps.giveMrep (n r) : Keeps s₀ (s.giveMrep n r) := .ite h (h.updLport ..)

theorem Keeps.copyEnd (k) : Keeps s₀ (s.copyEnd k) := by
  unfold State.copyEnd
  grind [Keeps.updFab, Keeps.finish, Keeps.orsp]

theorem Keeps.copyAddr (c space a need) : Keeps s₀ (s.copyAddr c space a need).2 := by
  unfold State.copyAddr
  grind [Keeps.translate]

theorem Keeps.copyWrite (c off data) : Keeps s₀ (s.copyWrite c off data) := by
  unfold State.copyWrite
  grind [Keeps.hostWr, Keeps.issue, Keeps.updCopy, Keeps.copyAddr]

theorem Keeps.copyRead (c) : Keeps s₀ (s.copyRead c) := by
  unfold State.copyRead
  grind [Keeps.issue, Keeps.updCopy, Keeps.copyAddr]

theorem Keeps.startCopy (c) : Keeps s₀ (s.startCopy c) := by
  unfold State.startCopy
  grind [Keeps.updFab, Keeps.copyAddr]

theorem Keeps.group (d g) : Keeps s₀ (s.group d g).2 := by
  unfold State.group
  grind [Keeps.badEntry]

theorem Keeps.updMcast (k f) : Keeps s₀ (s.updMcast k f) := h.updFab ..
theorem Keeps.pruneBranch (k q) : Keeps s₀ (s.pruneBranch k q) := ((h.updMcast ..).kfbCtr ..).kfbErr ..

theorem Keeps.mcastReport (m) : Keeps s₀ (s.mcastReport m) := by
  unfold State.mcastReport
  grind [Keeps.updFab, Keeps.finish, Keeps.giveMrep, Keeps.group]

theorem Keeps.mcastAdvance (k) : Keeps s₀ (s.mcastAdvance k) := by
  unfold State.mcastAdvance
  grind [Keeps.updFab, Keeps.addParcel, Keeps.portSend, Keeps.mcastReport]

theorem Keeps.mcastSpread (m g f i check) : Keeps s₀ (s.mcastSpread m g f i check) := by
  unfold State.mcastSpread
  grind [Keeps.updFab, Keeps.report, Keeps.issue, Keeps.portSend, Keeps.ingress, Keeps.denied, Keeps.updMcast,
    Keeps.pruneBranch, Keeps.mcastAdvance, Keeps.foldl]

theorem Keeps.mcastSend (d group tenant addr data kind idx ring lport) :
    (s.mcastSend d group tenant addr data kind idx ring lport).Keeps s₀ := by
  unfold State.mcastSend
  grind [Keeps.updFab, Keeps.group, Keeps.mcastSpread, McastSent.Keeps]

theorem Keeps.updRecv (k f) : Keeps s₀ (s.updRecv k f) := by
  unfold State.updRecv
  grind [Keeps.updFab]

theorem Keeps.flowAnswer (k seq inc tag op st data damaged) : Keeps s₀ (s.flowAnswer k seq inc tag op st data damaged) :=
  (h.updRecv ..).sendFrame ..

/-! #### The operations of Machine/Scalar -/

theorem Keeps.alu (t thr o u f) : Keeps s₀ (s.alu t thr o u f) := by
  unfold State.alu
  grind [Keeps.issueAt, Keeps.setG, keeps_guarded, Verdict.Keeps]

theorem keeps_execAdd (t thr) (e : execAdd t thr s = .next s') : Keeps s₀ s' := .next e (h.alu ..)
theorem keeps_execSub (t thr) (e : execSub t thr s = .next s') : Keeps s₀ s' := .next e (h.alu ..)
theorem keeps_execMul (t thr) (e : execMul t thr s = .next s') : Keeps s₀ s' := .next e (h.alu ..)
theorem keeps_execMulh (t thr) (e : execMulh t thr s = .next s') : Keeps s₀ s' := .next e (h.alu ..)
theorem keeps_execAnd (t thr) (e : execAnd t thr s = .next s') : Keeps s₀ s' := .next e (h.alu ..)
theorem keeps_execOr (t thr) (e : execOr t thr s = .next s') : Keeps s₀ s' := .next e (h.alu ..)
theorem keeps_execXor (t thr) (e : execXor t thr s = .next s') : Keeps s₀ s' := .next e (h.alu ..)
theorem keeps_execShl (t thr) (e : execShl t thr s = .next s') : Keeps s₀ s' := .next e (h.alu ..)
theorem keeps_execShr (t thr) (e : execShr t thr s = .next s') : Keeps s₀ s' := .next e (h.alu ..)
theorem keeps_execSar (t thr) (e : execSar t thr s = .next s') : Keeps s₀ s' := .next e (h.alu ..)
theorem keeps_execMin (t thr) (e : execMin t thr s = .next s') : Keeps s₀ s' := .next e (h.alu ..)
theorem keeps_execMax (t thr) (e : execMax t thr s = .next s') : Keeps s₀ s' := .next e (h.alu ..)

theorem keeps_execMovhi (t thr) (e : execMovhi t thr s = .next s') : Keeps s₀ s' := by
  unfold execMovhi at e
  grind [Keeps.issueAt, Keeps.setG, keeps_guarded, Verdict.Keeps]

theorem keeps_execCmp (t thr) (e : execCmp t thr s = .next s') : Keeps s₀ s' := by
  unfold execCmp at e
  grind [Keeps.issueAt, Keeps.setP, keeps_guarded, Verdict.Keeps]

theorem keeps_execSel (t thr) (e : execSel t thr s = .next s') : Keeps s₀ s' := by
  unfold execSel at e
  grind [Keeps.issueAt, Keeps.setG, keeps_guarded, Verdict.Keeps]

theorem Keeps.branch (u : State) (t pc) : (u.branch t pc s).Keeps s₀ := by
  unfold State.branch
  grind [Verdict.Keeps, illegal]

theorem keeps_execBr (t thr) (e : execBr t thr s = .next s') : Keeps s₀ s' := by
  unfold execBr at e
  grind [Keeps.issueAt, keeps_guarded, Keeps.branch, Verdict.Keeps]

theorem keeps_execJr (t thr) (e : execJr t thr s = .next s') : Keeps s₀ s' := by
  unfold execJr at e
  grind [Keeps.issueAt, keeps_guarded, Keeps.branch, Verdict.Keeps]

theorem keeps_execLoop (t thr) (e : execLoop t thr s = .next s') : Keeps s₀ s' := by
  unfold execLoop at e
  grind [Keeps.issueAt, Keeps.setG, keeps_guarded, Keeps.branch, Verdict.Keeps]

theorem keeps_execCall (t thr) (e : execCall t thr s = .next s') : Keeps s₀ s' := by
  unfold execCall at e
  grind [Keeps.issueAt, Keeps.setG, keeps_guarded, Keeps.branch, Verdict.Keeps]

theorem keeps_execPlog (t thr) (e : execPlog t thr s = .next s') : Keeps s₀ s' := by
  unfold execPlog at e
  grind [Keeps.issueAt, Keeps.setP, keeps_guarded, Verdict.Keeps]

theorem Keeps.parityAt (t thr off n) : (s.parityAt t thr off n).Keeps s₀ := by
  unfold State.parityAt
  grind [Keeps.tileReport, Keeps.faultEnd, Verdict.Keeps]

theorem Keeps.startMiss (t thr tag m p remote) : Keeps s₀ (s.startMiss t thr tag m p remote) :=
  ((h.updThread ..).issue ..).seqCtrAdd ..

theorem Keeps.missNowhere (t thr m) : Keeps s₀ (s.missNowhere t thr m) := (h.updThread ..).seqCtrAdd ..

theorem Keeps.storeNowhere (t thr a) : Keeps s₀ (s.storeNowhere t thr a) := by
  unfold State.storeNowhere
  grind [Keeps.updThread, Keeps.endTask]

theorem keeps_execLd (t thr) (e : execLd t thr s = .next s') : Keeps s₀ s' := by
  unfold execLd at e
  grind [Keeps.chargeClass, Keeps.issueAt, Keeps.setG, keeps_guarded, Keeps.space1, Keeps.parityAt, Keeps.startMiss,
    Keeps.missNowhere, Verdict.Keeps]

theorem keeps_execSt (t thr) (e : execSt t thr s = .next s') : Keeps s₀ s' := by
  unfold execSt at e
  grind [Keeps.issue, Keeps.loftWr, Keeps.chargeClass, Keeps.issueAt, keeps_guarded, Keeps.space1, Keeps.storeNowhere,
    Verdict.Keeps]

theorem keeps_execAtom (t thr) (e : execAtom t thr s = .next s') : Keeps s₀ s' := by
  unfold execAtom at e
  grind [Keeps.issue, Keeps.loftWr, Keeps.chargeClass, Keeps.issueAt, Keeps.setG, keeps_guarded, Keeps.space1, Keeps.parityAt,
    Keeps.startMiss, Keeps.missNowhere, Keeps.storeNowhere, Verdict.Keeps]

theorem keeps_execFence (t thr) (e : execFence t thr s = .next s') : Keeps s₀ s' := by
  unfold execFence at e
  grind [Keeps.issueAt, keeps_guarded, Verdict.Keeps]

theorem keeps_execSpost (t thr) (e : execSpost t thr s = .next s') : Keeps s₀ s' := by
  unfold execSpost at e
  grind [Keeps.updTile, Keeps.issueAt, keeps_guarded, Verdict.Keeps]

theorem keeps_execSwait (t thr) (e : execSwait t thr s = .next s') : Keeps s₀ s' := by
  unfold execSwait at e
  grind [Keeps.updTile, Keeps.issueAt, keeps_guarded, Verdict.Keeps]

theorem keeps_execTread (t thr) (e : execTread t thr s = .next s') : Keeps s₀ s' := by
  unfold execTread at e
  grind [Keeps.free, Keeps.issueAt, Keeps.setG, keeps_guarded, Verdict.Keeps]

theorem keeps_execTwait (t thr) (e : execTwait t thr s = .next s') : Keeps s₀ s' := by
  unfold execTwait at e
  grind [Keeps.issueAt, keeps_guarded, Verdict.Keeps]

theorem keeps_execTexit (t thr) (e : execTexit t thr s = .next s') : Keeps s₀ s' := by
  unfold execTexit at e
  grind [Keeps.updThread, Keeps.endTask, Keeps.endFirmware, Keeps.issueAt, keeps_guarded, Verdict.Keeps]

theorem keeps_execTend (t thr) (e : execTend t thr s = .next s') : Keeps s₀ s' := by
  unfold execTend at e
  grind [Keeps.endTask, Keeps.endFirmware, Keeps.issueAt, keeps_guarded, Verdict.Keeps]

/-! #### The operations of Machine/Streams -/

theorem Keeps.serveWaiters (t k late n) : Keeps s₀ (s.serveWaiters t k late n) := by
  induction n generalizing s with
  | zero => exact h
  | succ n ih =>
    unfold State.serveWaiters
    dsimp only
    split
    · exact h
    · split
      · exact h
      · have served := fun y w k' f t' => ((h.updSlot t k y).setG t k' f w).updThread t k' t'
        exact ih (.ite (((served ..).strCtr ..).strCtr ..) (served ..))

theorem Keeps.serve (t k) : Keeps s₀ (s.serve t k) := .ite (h.wake ..) (((h.free 32).serveWaiters ..).wake ..)

theorem Keeps.squashTaint (t slot half) : Keeps s₀ (s.squashTaint t slot half) := by
  unfold State.squashTaint
  grind [Keeps.updThread, Keeps.redirect, Keeps.foldl]

theorem Keeps.discardHeld (t k) : Keeps s₀ (s.discardHeld t k) := by
  unfold State.discardHeld
  grind [Keeps.dropHeld, Keeps.squashTaint]

theorem Keeps.closeSlot (t k) : Keeps s₀ (s.closeSlot t k) :=
  .ite h (((Keeps.ite (((h.strCtr ..).discardHeld ..).sendToken ..) h).updSlot ..).serve ..)

theorem Keeps.finishUse (t k) : Keeps s₀ (s.finishUse t k) := by
  unfold State.finishUse
  grind [Keeps.updSlot, Keeps.sendToken, Keeps.serve]

theorem Keeps.deliver (t k late n) : Keeps s₀ (s.deliver t k late n) := by
  induction n generalizing s with
  | zero => exact h
  | succ n ih =>
    unfold State.deliver
    grind [Keeps.updSlot, Keeps.streamFault, Keeps.serveWaiters, Keeps.finishUse]

theorem keeps_execStreamReadResponse (t k late) (e : execStreamReadResponse t k late s = .next s') : Keeps s₀ s' :=
  .next e (.ite ((h.deliver ..).wake ..) h)

theorem Keeps.streamData (t a st bad data) : Keeps s₀ (s.streamData t a st bad data) := by
  unfold State.streamData
  grind [Keeps.updSlot, Keeps.loftWr]

theorem Keeps.streamAck (t a st) : Keeps s₀ (s.streamAck t a st) := by
  unfold State.streamAck
  dsimp only
  (repeat' split) <;> grind [Keeps.free, Keeps.updSlot, Keeps.wake, Keeps.streamFault, Keeps.group, Keeps.closeSlot,
      Keeps.finishUse, Keeps.with]

theorem Keeps.holdFault (t k elem bytes cause code addr) : Keeps s₀ (s.holdFault t k elem bytes cause code addr) := h.updSlot ..

theorem Keeps.injectRead (t k) : Keeps s₀ (s.injectRead t k) := by
  unfold State.injectRead
  dsimp only
  (repeat' split) <;> grind [Keeps.updSlot, Keeps.issue, Keeps.askXlate, Keeps.tlbUse, Keeps.chargeClass, Keeps.group,
      Keeps.holdFault, Keeps.with]

theorem Keeps.drainParity (t k elem off n addr) : Keeps s₀ (s.drainParity t k elem off n addr) :=
  (h.tileReport ..).streamFault ..

theorem Keeps.drained (t k i) : Keeps s₀ (s.drained t k i) := (((h.updSlot ..).finishUse ..).serve ..).abortTokens ..

theorem Keeps.injectWrite (t k) : Keeps s₀ (s.injectWrite t k) := by
  unfold State.injectWrite
  grind [Keeps.updSlot, Keeps.issue, Keeps.askXlate, Keeps.tlbUse, Keeps.chargeClass, Keeps.abortTokens, Keeps.streamFault,
    Keeps.drainParity, Keeps.drained]

theorem Keeps.injectHalf (t k) : Keeps s₀ (s.injectHalf t k) :=
  .ite h (Keeps.ite ((h.free 64).drainParity ..) ((((h.chargeClass ..).issue ..).updSlot ..).drained ..))

theorem keeps_execStreamInject (t k) (e : execStreamInject t k s = .next s') : Keeps s₀ s' := by
  unfold execStreamInject at e
  grind [Keeps.updTile, Keeps.portIdle, Keeps.injectRead, Keeps.injectWrite, Keeps.injectHalf]

theorem Keeps.bulk (id op go) (hgo : ∀ a s, Keeps s₀ s → Keeps s₀ (go a s)) : Keeps s₀ (s.bulk id op go) := by
  unfold State.bulk
  grind [Keeps.updInt, Keeps.dropPkt, Keeps.nack]

theorem Keeps.mismatch (t k tile slot) : Keeps s₀ (s.mismatch t k tile slot) := ((h.strErr ..).inject ..).closeSlot ..

theorem keeps_execLinkHalf (id) (e : execLinkHalf id s = .next s') : Keeps s₀ s' := by
  unfold execLinkHalf at e
  injection e with e
  subst e
  split
  · exact h
  · split
    · exact h.refuseBad ..
    · refine h.bulk id _ _ (fun p s h => ?_)
      dsimp only
      split
      · exact h.respond ..
      · split
        · exact (h.respond ..).mismatch ..
        · split
          · exact (h.respond ..).mismatch ..
          · split
            · exact (h.respond ..).mismatch ..
            · have stored := (h.loftWr p.dst.router ((s.slot p.dst.router p.slot).d.halfOff ‹Nat›) p.data).updSlot p.dst.router p.slot
              split
              · exact (stored _).wake ..
              · split
                · exact (((stored _).respond ..).deliver ..).wake ..
                · exact ((((stored _).respond ..).free 32).deliver ..).wake ..

theorem Keeps.credit (t k c) : Keeps s₀ (s.credit t k c) := by
  unfold State.credit
  grind [Keeps.updSlot, Keeps.mismatch]

theorem keeps_execLinkCredit (id) (e : execLinkCredit id s = .next s') : Keeps s₀ s' := by
  unfold execLinkCredit at e
  grind [Keeps.bulk, Keeps.credit]

theorem Keeps.token (id kind go) (hgo : ∀ a a2 a3 a4 s, Keeps s₀ s → Keeps s₀ (go a a2 a3 a4 s)) :
    Keeps s₀ (s.token id kind go) := by
  unfold State.token
  grind [Keeps.bulk]

theorem Keeps.endAtConsumer (t k) : Keeps s₀ (s.endAtConsumer t k) := .ite h (h.closeSlot ..)
theorem Keeps.mismatchToken (t k p) : Keeps s₀ (s.mismatchToken t k p) := .ite h ((h.strErr ..).closeSlot ..)

theorem keeps_execLinkEnd (id) (e : execLinkEnd id s = .next s') : Keeps s₀ s' := by
  unfold execLinkEnd at e
  grind [Keeps.token, Keeps.endAtConsumer, Keeps.mismatchToken]

theorem keeps_execLinkAbort (id) (e : execLinkAbort id s = .next s') : Keeps s₀ s' := by
  unfold execLinkAbort at e
  grind [Keeps.free, Keeps.updTile, Keeps.streamFault, Keeps.token, Keeps.endAtConsumer]

theorem keeps_execLinkClose (id) (e : execLinkClose id s = .next s') : Keeps s₀ s' := by
  unfold execLinkClose at e
  grind [Keeps.updSlot, Keeps.abortTokens, Keeps.closeSlot, Keeps.token]

theorem keeps_execTranslationRequest (id) (e : execTranslationRequest id s = .next s') : Keeps s₀ s' := by
  unfold execTranslationRequest at e
  grind [Keeps.inject, Keeps.dropPkt, Keeps.service]

theorem keeps_execTranslationResponse (id) (e : execTranslationResponse id s = .next s') : Keeps s₀ s' := by
  unfold execTranslationResponse at e
  injection e with e
  subst e
  split <;> grind [Keeps.updTile, Keeps.updSlot, Keeps.dropPkt, Keeps.wake, Keeps.endTask, Keeps.streamFault, Keeps.holdFault, Keeps.with]

theorem Keeps.strInsn (t thr o enc run) (hrun : ∀ a s, Keeps s₀ s → (run a s).Keeps s₀) :
    Keeps s₀ (s.strInsn t thr o enc run) := by
  unfold State.strInsn
  grind [Keeps.issueAt, Verdict.Keeps, illegal]

theorem Keeps.arm (t k d) : Keeps s₀ (s.arm t k d) := by
  unfold State.arm
  grind [Keeps.updSlot, Keeps.sendCredit, Keeps.credit, Keeps.foldl]

theorem keeps_execSarm (t thr) (e : execSarm t thr s = .next s') : Keeps s₀ s' := by
  unfold execSarm at e
  grind [Keeps.parityAt, Keeps.strInsn, Keeps.arm, Verdict.Keeps, illegal]

theorem keeps_execSrearm (t thr) (e : execSrearm t thr s = .next s') : Keeps s₀ s' := by
  unfold execSrearm at e
  grind [Keeps.updSlot, Keeps.strCtr, Keeps.dropSlotReads, Keeps.serve, Keeps.strInsn, Verdict.Keeps, illegal]

theorem keeps_execSwaitb (t thr) (e : execSwaitb t thr s = .next s') : Keeps s₀ s' := by
  unfold execSwaitb at e
  grind [Keeps.updSlot, Keeps.strCtr, Keeps.setG, Keeps.strInsn, Verdict.Keeps]

theorem keeps_execSrel (t thr) (e : execSrel t thr s = .next s') : Keeps s₀ s' := by
  unfold execSrel at e
  grind [Keeps.updSlot, Keeps.sendCredit, Keeps.serve, Keeps.finishUse, Keeps.strInsn, Verdict.Keeps, illegal]

theorem keeps_execSpush (t thr) (e : execSpush t thr s = .next s') : Keeps s₀ s' := by
  unfold execSpush at e
  grind [Keeps.updSlot, Keeps.serve, Keeps.strInsn, Verdict.Keeps, illegal]

theorem keeps_execSskip (t thr) (e : execSskip t thr s = .next s') : Keeps s₀ s' := by
  unfold execSskip at e
  injection e with e
  subst e
  refine h.strInsn _ _ _ _ _ (fun w s h => ?_)
  dsimp only
  split
  · exact trivial
  · split
    · exact h
    · exact (((((h.discardHeld ..).strCtr ..).dropSlotReads ..).updSlot ..).finishUse ..).serve ..

theorem keeps_execSflush (t thr) (e : execSflush t thr s = .next s') : Keeps s₀ s' := by
  unfold execSflush at e
  grind [Keeps.strInsn, Verdict.Keeps, illegal]

theorem keeps_execSstop (t thr) (e : execSstop t thr s = .next s') : Keeps s₀ s' := by
  unfold execSstop at e
  grind [Keeps.updSlot, Keeps.strCtr, Keeps.sendToken, Keeps.dropSlotReads, Keeps.serve, Keeps.discardHeld, Keeps.strInsn,
    Verdict.Keeps, illegal]

theorem keeps_execSstat (t thr) (e : execSstat t thr s = .next s') : Keeps s₀ s' := by
  unfold execSstat at e
  grind [Keeps.setG, Keeps.strInsn, Verdict.Keeps]

theorem keeps_execStrClear (a t) (e : execStrClear a t s = .next s') : Keeps s₀ s' := by
  unfold execStrClear at e
  grind [Keeps.updTile, Keeps.regWrite]

/-! #### The operations of Machine/VecOps -/

theorem Keeps.stepAg (t thr ks) : Keeps s₀ (s.stepAg t thr ks) := h.updThread ..
theorem Keeps.setV (t thr r v) : Keeps s₀ (s.setV t thr r v) := (h.updThread ..).with ..

theorem Keeps.vecParity (t thr source loc) : (s.vecParity t thr source loc).Keeps s₀ := by
  unfold State.vecParity
  grind [Keeps.updTile, Keeps.tileReport, Keeps.faultEnd, Verdict.Keeps]

theorem Keeps.withV (t thr rs go) (hgo : go.Keeps s₀) : (s.withV t thr rs go).Keeps s₀ := by
  unfold State.withV
  split
  · exact h.vecParity ..
  · exact hgo

theorem Keeps.withRow (t thr row go) (hgo : ∀ a, (go a).Keeps s₀) : (s.withRow t thr row go).Keeps s₀ := by
  unfold State.withRow
  grind [Keeps.vecParity, Verdict.Keeps, vecAddr]

theorem Keeps.setGen (t g x) : Keeps s₀ (s.setGen t g x) := h.updTile ..

theorem Keeps.withDraw (t thr g n go) (hgo : ∀ a s, Keeps s₀ s → (go a s).Keeps s₀) : (s.withDraw t thr g n go).Keeps s₀ := by
  unfold State.withDraw
  grind [Keeps.vecParity, Keeps.setGen, Verdict.Keeps]

theorem Keeps.endRep (t thr) : Keeps s₀ (s.endRep t thr) := by
  unfold State.endRep
  grind [Keeps.updTile, Keeps.updThread, Keeps.redirect]

theorem Keeps.repStep (t thr o left run) (hrun : ∀ a s, Keeps s₀ s → (run a s).Keeps s₀) :
    Keeps s₀ (s.repStep t thr o left run) := by
  unfold State.repStep
  grind [Keeps.updTile, Keeps.updCtl, Keeps.vecCtrAdd, Keeps.tileReport, Keeps.endTask, Keeps.firmwareFault, Keeps.faultEnd,
    Keeps.endRep, Verdict.Keeps]

theorem Keeps.vecAt (t thr o run) (hrun : ∀ a s, Keeps s₀ s → (run a s).Keeps s₀) : Keeps s₀ (s.vecAt t thr o run) := by
  unfold State.vecAt
  grind [Keeps.vecCtrAdd, Keeps.issueAt, Keeps.repStep, Verdict.Keeps]

/-! #### The operations of Machine/Vector -/

theorem Keeps.elementwise (t thr w useB useC blocks f) : (s.elementwise t thr w useB useC blocks f).Keeps s₀ := by
  unfold State.elementwise
  grind [Keeps.nearWr, Keeps.raise, Keeps.stepAg, Keeps.setV, Keeps.withV, Keeps.withRow, Keeps.withDraw, Verdict.Keeps,
    illegal, vecAddr]

theorem keeps_execVadd (t thr) (e : execVadd t thr s = .next s') : Keeps s₀ s' := by
  unfold execVadd at e
  grind [Keeps.vecAt, Keeps.elementwise, Verdict.Keeps, illegal]

theorem keeps_execVsub (t thr) (e : execVsub t thr s = .next s') : Keeps s₀ s' := by
  unfold execVsub at e
  grind [Keeps.vecAt, Keeps.elementwise, Verdict.Keeps, illegal]

theorem keeps_execVmul (t thr) (e : execVmul t thr s = .next s') : Keeps s₀ s' := by
  unfold execVmul at e
  grind [Keeps.vecAt, Keeps.elementwise, Verdict.Keeps, illegal]

theorem keeps_execVfma (t thr) (e : execVfma t thr s = .next s') : Keeps s₀ s' := by
  unfold execVfma at e
  grind [Keeps.vecAt, Keeps.elementwise, Verdict.Keeps, illegal]

theorem keeps_execVmin (t thr) (e : execVmin t thr s = .next s') : Keeps s₀ s' := by
  unfold execVmin at e
  grind [Keeps.vecAt, Keeps.elementwise, Verdict.Keeps, illegal]

theorem keeps_execVmax (t thr) (e : execVmax t thr s = .next s') : Keeps s₀ s' := by
  unfold execVmax at e
  grind [Keeps.vecAt, Keeps.elementwise, Verdict.Keeps, illegal]

theorem keeps_execVcmp (t thr) (e : execVcmp t thr s = .next s') : Keeps s₀ s' := by
  unfold execVcmp at e
  grind [Keeps.vecAt, Keeps.elementwise, Verdict.Keeps, illegal]

theorem keeps_execVsel (t thr) (e : execVsel t thr s = .next s') : Keeps s₀ s' := by
  unfold execVsel at e
  grind [Keeps.vecAt, Keeps.elementwise, Verdict.Keeps, illegal]

theorem keeps_execVcvt (t thr) (e : execVcvt t thr s = .next s') : Keeps s₀ s' := by
  unfold execVcvt at e
  grind [Keeps.vecAt, Keeps.elementwise, Verdict.Keeps, illegal]

theorem keeps_execVql8 (t thr) (e : execVql8 t thr s = .next s') : Keeps s₀ s' := by
  unfold execVql8 at e
  grind [Keeps.raise, Keeps.setV, Keeps.withV, Keeps.vecAt, Verdict.Keeps, illegal]

theorem keeps_execVdl8 (t thr) (e : execVdl8 t thr s = .next s') : Keeps s₀ s' := by
  unfold execVdl8 at e
  grind [Keeps.vecAt, Keeps.elementwise, Verdict.Keeps, illegal]

theorem keeps_execVsf (t thr) (e : execVsf t thr s = .next s') : Keeps s₀ s' := by
  unfold execVsf at e
  grind [Keeps.vecAt, Keeps.elementwise, Verdict.Keeps, illegal]

theorem keeps_execVbit (t thr) (e : execVbit t thr s = .next s') : Keeps s₀ s' := by
  unfold execVbit at e
  grind [Keeps.vecAt, Keeps.elementwise, Verdict.Keeps, illegal]

theorem keeps_execVshf (t thr) (e : execVshf t thr s = .next s') : Keeps s₀ s' := by
  unfold execVshf at e
  grind [Keeps.vecAt, Keeps.elementwise, Verdict.Keeps, illegal]

theorem keeps_execVred (t thr) (e : execVred t thr s = .next s') : Keeps s₀ s' := by
  unfold execVred at e
  grind [Keeps.raise, Keeps.setV, Keeps.withV, Keeps.withDraw, Keeps.vecAt, Verdict.Keeps, illegal]

theorem keeps_execVperm (t thr) (e : execVperm t thr s = .next s') : Keeps s₀ s' := by
  unfold execVperm at e
  grind [Keeps.setV, Keeps.withV, Keeps.vecAt, Verdict.Keeps, illegal]

theorem keeps_execVxln (t thr) (e : execVxln t thr s = .next s') : Keeps s₀ s' := by
  unfold execVxln at e
  grind [Keeps.setV, Keeps.withV, Keeps.vecAt, Verdict.Keeps, illegal]

theorem Keeps.butterfly (t thr w outs srcs terms) : (s.butterfly t thr w outs srcs terms).Keeps s₀ := by
  unfold State.butterfly
  grind [Keeps.raise, Keeps.setV, Keeps.withV, Keeps.withDraw, Verdict.Keeps, illegal, Keeps.foldl]

theorem keeps_execVbf2 (t thr) (e : execVbf2 t thr s = .next s') : Keeps s₀ s' := by
  unfold execVbf2 at e
  grind [Keeps.vecAt, Keeps.butterfly, Verdict.Keeps, illegal]

theorem keeps_execVbf4 (t thr) (e : execVbf4 t thr s = .next s') : Keeps s₀ s' := by
  unfold execVbf4 at e
  grind [Keeps.vecAt, Keeps.butterfly, Verdict.Keeps, illegal]

theorem keeps_execVput (t thr) (e : execVput t thr s = .next s') : Keeps s₀ s' := by
  unfold execVput at e
  grind [Keeps.setV, Keeps.vecAt, Verdict.Keeps, illegal]

theorem keeps_execVget (t thr) (e : execVget t thr s = .next s') : Keeps s₀ s' := by
  unfold execVget at e
  grind [Keeps.setG, Keeps.withV, Keeps.vecAt, Verdict.Keeps, illegal]

theorem keeps_execVld (t thr) (e : execVld t thr s = .next s') : Keeps s₀ s' := by
  unfold execVld at e
  grind [Keeps.stepAg, Keeps.setV, Keeps.withRow, Keeps.vecAt, Verdict.Keeps, illegal]

theorem keeps_execVst (t thr) (e : execVst t thr s = .next s') : Keeps s₀ s' := by
  unfold execVst at e
  grind [Keeps.nearWr, Keeps.stepAg, Keeps.withV, Keeps.vecAt, Verdict.Keeps, illegal, vecAddr]

theorem keeps_execVldl (t thr) (e : execVldl t thr s = .next s') : Keeps s₀ s' := by
  unfold execVldl at e
  grind [Keeps.stepAg, Keeps.setV, Keeps.vecParity, Keeps.vecAt, Verdict.Keeps, illegal, vecAddr]

theorem keeps_execVstl (t thr) (e : execVstl t thr s = .next s') : Keeps s₀ s' := by
  unfold execVstl at e
  grind [Keeps.loftWr, Keeps.stepAg, Keeps.withV, Keeps.vecAt, Verdict.Keeps, illegal, vecAddr]

theorem keeps_execVag (t thr) (e : execVag t thr s = .next s') : Keeps s₀ s' := by
  unfold execVag at e
  grind [Keeps.updThread, Keeps.vecAt, Verdict.Keeps, illegal]

theorem keeps_execVagrd (t thr) (e : execVagrd t thr s = .next s') : Keeps s₀ s' := by
  unfold execVagrd at e
  grind [Keeps.setG, Keeps.vecAt, Verdict.Keeps, illegal]

theorem keeps_execVrset (t thr) (e : execVrset t thr s = .next s') : Keeps s₀ s' := by
  unfold execVrset at e
  grind [Keeps.clean, Keeps.setGen, Keeps.vecAt, Verdict.Keeps, illegal]

theorem keeps_execVrget (t thr) (e : execVrget t thr s = .next s') : Keeps s₀ s' := by
  unfold execVrget at e
  grind [Keeps.setG, Keeps.vecParity, Keeps.vecAt, Verdict.Keeps, illegal]

theorem keeps_execVrand (t thr) (e : execVrand t thr s = .next s') : Keeps s₀ s' := by
  unfold execVrand at e
  grind [Keeps.setV, Keeps.withDraw, Keeps.vecAt, Verdict.Keeps, illegal]

theorem keeps_execVsample (t thr) (e : execVsample t thr s = .next s') : Keeps s₀ s' := by
  unfold execVsample at e
  grind [Keeps.raise, Keeps.setV, Keeps.withV, Keeps.withDraw, Keeps.vecAt, Verdict.Keeps, illegal]

theorem keeps_execVsred (t thr) (e : execVsred t thr s = .next s') : Keeps s₀ s' := by
  unfold execVsred at e
  grind [Keeps.setG, Keeps.withV, Keeps.vecAt, Verdict.Keeps, illegal]

theorem Keeps.cleanTopk (t) : Keeps s₀ (s.cleanTopk t) := h.with ..

theorem keeps_execVtopk (t thr) (e : execVtopk t thr s = .next s') : Keeps s₀ s' := by
  unfold execVtopk at e
  grind [Keeps.updTile, Keeps.raise, Keeps.vecParity, Keeps.withV, Keeps.vecAt, Keeps.cleanTopk, Verdict.Keeps, illegal]

theorem keeps_execVtopp (t thr) (e : execVtopp t thr s = .next s') : Keeps s₀ s' := by
  unfold execVtopp at e
  grind [Keeps.updTile, Keeps.raise, Keeps.vecParity, Keeps.vecAt, Verdict.Keeps, illegal]

theorem keeps_execVtops (t thr) (e : execVtops t thr s = .next s') : Keeps s₀ s' := by
  unfold execVtops at e
  grind [Keeps.raise, Keeps.setG, Keeps.vecParity, Keeps.withDraw, Keeps.vecAt, Verdict.Keeps, illegal]

theorem keeps_execRep (t thr) (e : execRep t thr s = .next s') : Keeps s₀ s' := by
  unfold execRep at e
  grind [Keeps.updTile, Keeps.issueAt, Verdict.Keeps, illegal]

/-! #### The operations of Machine/Winnow -/

theorem Keeps.updTicket (t k f) : Keeps s₀ (s.updTicket t k f) := h.updTile ..

theorem Keeps.resolve (t k fail ended) : Keeps s₀ (s.resolve t k fail ended) := by
  unfold State.resolve
  grind [Keeps.updSlot, Keeps.winCtr, Keeps.sendToken, Keeps.wake, Keeps.serve, Keeps.finishUse, Keeps.updTicket, Keeps.foldl]

theorem Keeps.endTicket (t k) : Keeps s₀ (s.endTicket t k) := .ite h ((((h.cutCycles ..).cutCycles ..).updTile ..).resolve ..)

theorem Keeps.endTickets (t) : Keeps s₀ (s.endTickets t) := by
  unfold State.endTickets
  grind [Keeps.resolve, Keeps.foldl]

theorem Keeps.winErr (t source ticket loc) : Keeps s₀ (s.winErr t source ticket loc) := h.updTile ..
theorem Keeps.winIllegal (t j) : Keeps s₀ (s.winIllegal t j) := ((h.winErr ..).endTask ..).endTicket ..

theorem Keeps.winParity (t j source loc) : Keeps s₀ (s.winParity t j source loc) :=
  (((h.winErr ..).tileReport ..).endTask ..).endTicket ..

theorem keeps_execWinnowJobStart (t checker) (e : execWinnowJobStart t checker s = .next s') : Keeps s₀ s' := by
  unfold execWinnowJobStart at e
  grind [Keeps.updTile, Keeps.wake, Keeps.updTicket, Keeps.winIllegal, Keeps.winParity]

theorem Keeps.winCycles (t off n) : Keeps s₀ (s.winCycles t off n) := (h.free 32).winCtr ..

theorem keeps_execWinnowPredictionDone (t) (e : execWinnowPredictionDone t s = .next s') : Keeps s₀ s' := by
  unfold execWinnowPredictionDone at e
  injection e with e
  subst e
  split <;> grind [Keeps.updTile, Keeps.winCtr, Keeps.loftWr, Keeps.wake, Keeps.cutCycles, Keeps.updTicket, Keeps.winParity,
      Keeps.winCycles, Keeps.with]

theorem keeps_execWinnowCheckDone (t) (e : execWinnowCheckDone t s = .next s') : Keeps s₀ s' := by
  unfold execWinnowCheckDone at e
  injection e with e
  subst e
  dsimp only
  (repeat' split) <;> grind [Keeps.updTile, Keeps.winCtr, Keeps.loftWr, Keeps.cutCycles, Keeps.updTicket, Keeps.resolve,
      Keeps.winParity, Keeps.winCycles, Keeps.with]

theorem Keeps.untaint (t slot half) : Keeps s₀ (s.untaint t slot half) := by
  unfold State.untaint
  grind [Keeps.updThread, Keeps.flagsOr, Keeps.foldl]

theorem keeps_execCommit (id) (e : execCommit id s = .next s') : Keeps s₀ s' := by
  unfold execCommit at e
  injection e with e
  subst e
  refine h.token id _ _ (fun t k _ p s h => ?_)
  dsimp only
  split
  · exact h
  · have acked := Keeps.ite (c := (s.slot t k).h0.held) (h.ackHalf t (s.slot t k).d.peerTile (s.slot t k).h0 .ok) h
    have acked := (Keeps.ite (c := (s.slot t k).h1.held) (acked.ackHalf t (s.slot t k).d.peerTile (s.slot t k).h1 .ok) acked).updSlot t k
      (fun x => { x with h0 := { x.h0 with held := false }, h1 := { x.h1 with held := false } })
    have clear : ∀ (v : BitVec 32) {u}, Keeps s₀ u → Keeps s₀ (let u := u.deliver t k v.toNat 2
        let u := if (s.slot t k).h0.held then u.untaint t k 0 else u
        (if (s.slot t k).h1.held then u.untaint t k 1 else u).wake t) := by
      intro v u h
      have first := Keeps.ite (c := (s.slot t k).h0.held) ((h.deliver t k v.toNat 2).untaint t k 0) (h.deliver t k v.toNat 2)
      exact (Keeps.ite (first.untaint ..) first).wake ..
    by_cases w : (s.slot t k).waiters.isEmpty
    · rw [if_pos w]
      exact clear 0 acked
    · rw [if_neg w]
      exact clear _ (acked.free 32)

theorem Keeps.freeFill (a n) : Keeps s₀ (s.freeFill a n) := (h.wr ..).with ..

theorem keeps_execSquash (id) (e : execSquash id s = .next s') : Keeps s₀ s' := by
  unfold execSquash at e
  grind [Keeps.wake, Keeps.discardHeld, Keeps.token, Keeps.freeFill]

theorem Keeps.ticketParity (t thr k) : (s.ticketParity t thr k).Keeps s₀ := by
  unfold State.ticketParity
  grind [Keeps.winParity, Verdict.Keeps]

theorem Keeps.winQueue (t thr w checker) : (s.winQueue t thr w checker).Keeps s₀ := by
  unfold State.winQueue
  grind [Keeps.clean, Keeps.updTile, Keeps.updTicket, Keeps.ticketParity, Verdict.Keeps, illegal]

theorem keeps_execWpred (t thr) (e : execWpred t thr s = .next s') : Keeps s₀ s' := by
  unfold execWpred at e
  grind [Keeps.issueAt, Keeps.winQueue, Verdict.Keeps]

theorem keeps_execWchk (t thr) (e : execWchk t thr s = .next s') : Keeps s₀ s' := by
  unfold execWchk at e
  grind [Keeps.issueAt, Keeps.winQueue, Verdict.Keeps]

theorem keeps_execWtent (t thr) (e : execWtent t thr s = .next s') : Keeps s₀ s' := by
  unfold execWtent at e
  grind [Keeps.updSlot, Keeps.issueAt, Verdict.Keeps, illegal]

theorem keeps_execWwait (t thr) (e : execWwait t thr s = .next s') : Keeps s₀ s' := by
  unfold execWwait at e
  grind [Keeps.issueAt, Keeps.setG, Keeps.updTicket, Keeps.ticketParity, Verdict.Keeps, illegal]

theorem keeps_execWpeek (t thr) (e : execWpeek t thr s = .next s') : Keeps s₀ s' := by
  unfold execWpeek at e
  grind [Keeps.updThread, Keeps.issueAt, Keeps.setV, Keeps.vecParity, Verdict.Keeps, illegal]

theorem keeps_execWspec (t thr) (e : execWspec t thr s = .next s') : Keeps s₀ s' := by
  unfold execWspec at e
  grind [Keeps.updThread, Keeps.issueAt, Verdict.Keeps, illegal]

theorem keeps_execWbound (t thr) (e : execWbound t thr s = .next s') : Keeps s₀ s' := by
  unfold execWbound at e
  grind [Keeps.winCtr, Keeps.issueAt, Keeps.setG, Keeps.withV, Verdict.Keeps, illegal]

theorem keeps_execWinClear (a t) (e : execWinClear a t s = .next s') : Keeps s₀ s' := by
  unfold execWinClear at e
  grind [Keeps.updTile, Keeps.regWrite]

/-! #### The operations of Machine/Tasks -/

theorem Keeps.controlRetry (id p) : Keeps s₀ (s.controlRetry id p) := by
  unfold State.controlRetry
  grind [Keeps.intCtr, Keeps.report, Keeps.inject, Keeps.dropPkt, Keeps.sendMsg]

theorem Keeps.control (id go) (hgo : ∀ a s, Keeps s₀ s → Keeps s₀ (go a s)) : Keeps s₀ (s.control id go) := by
  unfold State.control
  grind [Keeps.controlRetry]

theorem Keeps.sendReport (t l r) : Keeps s₀ (s.sendReport t l r) := h.sendMsg ..
theorem Keeps.rejectLaunch (t l code) : Keeps s₀ (s.rejectLaunch t l code) := h.sendReport ..

theorem Keeps.endLaunch (t l code) : Keeps s₀ (s.endLaunch t l code) := by
  unfold State.endLaunch
  grind [Keeps.updTile, Keeps.seqCtrAdd, Keeps.endFields, Keeps.sendReport]

theorem keeps_execLaunch (id) (e : execLaunch id s = .next s') : Keeps s₀ s' := by
  unfold execLaunch at e
  grind [Keeps.updTile, Keeps.intCtr, Keeps.dropPkt, Keeps.control, Keeps.rejectLaunch, Keeps.endLaunch]

theorem Keeps.updEv (t f) : Keeps s₀ (s.updEv t f) := h.updHealth ..

theorem Keeps.changeTenant (t tenant) : Keeps s₀ (s.changeTenant t tenant) := by
  unfold State.changeTenant
  grind [Keeps.updTile, Keeps.zeroMem]

theorem keeps_execTaskStart (t) (e : execTaskStart t s = .next s') : Keeps s₀ s' := by
  unfold execTaskStart at e
  grind [Keeps.updTile, Keeps.intCtr, Keeps.sendMsg, Keeps.endLaunch, Keeps.updEv, Keeps.changeTenant, Keeps.with]

theorem Keeps.freeBytes (n) : Keeps s₀ (s.freeBytes n).2 := h.with ..

theorem Keeps.ctxRead (t l away) : Keeps s₀ (s.ctxRead t l away).2 := by
  unfold State.ctxRead
  grind [Keeps.tileReport, Keeps.fetchVa]

theorem Keeps.updTask (t f) : Keeps s₀ (s.updTask t f) := h.updTile ..

theorem Keeps.prepared (t l ctx) : Keeps s₀ (s.prepared t l ctx) := by
  unfold State.prepared
  grind [Keeps.updTile, Keeps.endTask, Keeps.freeBytes, Keeps.ctxRead, Keeps.updTask]

theorem keeps_execTaskPrepared (t prog ctx) (e : execTaskPrepared t prog ctx s = .next s') : Keeps s₀ s' := by
  unfold execTaskPrepared at e
  grind [Keeps.wr, Keeps.updTile, Keeps.endTask, Keeps.fetchVa, Keeps.prepared]

theorem keeps_execThreadSwitch (t idle) (e : execThreadSwitch t idle s = .next s') : Keeps s₀ s' := by
  unfold execThreadSwitch at e
  grind [Keeps.updTile, Keeps.seqCtrAdd]

theorem keeps_execMissReturn (t thr) (e : execMissReturn t thr s = .next s') : Keeps s₀ s' := by
  unfold execMissReturn at e
  grind [Keeps.updThread, Keeps.wake, Keeps.faultEnd]

theorem keeps_execDeadlineEdge (t) (e : execDeadlineEdge t s = .next s') : Keeps s₀ s' := by
  unfold execDeadlineEdge at e
  grind [Keeps.sendMsg, Keeps.endTask, Keeps.updTask]

theorem keeps_execFirmwareEntry (t) (e : execFirmwareEntry t s = .next s') : Keeps s₀ s' := .next e (.ite h (h.updTile ..))

theorem Keeps.ctxWrites (t l fuel off bs) : Keeps s₀ (s.ctxWrites t l fuel off bs) := by
  induction fuel generalizing s off bs with
  | zero => exact h
  | succ fuel ih =>
    unfold State.ctxWrites
    split
    · exact h
    · dsimp only
      split
      · next eq => exact (Keeps.of_snd eq (h.translate ..)).updTask ..
      · next eq =>
        have mapped := Keeps.of_snd eq (h.translate ..)
        split
        · exact mapped.updTask ..
        · exact ih (((mapped.portIdle ..).chargeClass ..).issue ..) ..

theorem Keeps.saveCtx (t k) : Keeps s₀ (s.saveCtx t k) := by
  unfold State.saveCtx
  grind [Keeps.tileReport, Keeps.loftWr, Keeps.updTask, Keeps.ctxWrites]

theorem Keeps.closeLinks (t) : Keeps s₀ (s.closeLinks t) := by
  unfold State.closeLinks
  grind [Keeps.sendToken, Keeps.dropHeld, Keeps.foldl]

theorem Keeps.reportTask (t k) : Keeps s₀ (s.reportTask t k) := by
  unfold State.reportTask
  grind [Keeps.updTile, Keeps.strCtr, Keeps.seqCtrAdd, Keeps.sendReport, Keeps.updEv, Keeps.closeLinks, Keeps.with]

theorem Keeps.reportKilled (k) : Keeps s₀ (s.reportKilled k) := by
  unfold State.reportKilled
  grind [Keeps.updBup, Keeps.seqCtrAdd, Keeps.endFields, Keeps.sendReport, Keeps.updEv]

theorem Keeps.taskReport (t) : Keeps s₀ (s.taskReport t) := by
  unfold State.taskReport
  grind [Keeps.endTickets, Keeps.saveCtx, Keeps.reportTask]

theorem keeps_execTaskReport (t) (e : execTaskReport t s = .next s') : Keeps s₀ s' := by
  unfold execTaskReport at e
  grind [Keeps.reportKilled, Keeps.taskReport]

/-! #### The operations of Machine/Net -/

theorem Keeps.tileNack (id p st) : Keeps s₀ (s.tileNack id p st) := by
  unfold State.tileNack
  grind [Keeps.updInt, Keeps.nack]

theorem Keeps.tileServe (id p t) : Keeps s₀ (s.tileServe id p t) := by
  unfold State.tileServe
  grind [Keeps.wr, Keeps.tileReport, Keeps.dropPkt, Keeps.respond, Keeps.nack, Keeps.refuseBad, Keeps.tileNack]

theorem Keeps.lportServe (id p n) : Keeps s₀ (s.lportServe id p n) := by
  unfold State.lportServe
  grind [Keeps.updLport, Keeps.lgcCtr, Keeps.dropPkt, Keeps.nack, Keeps.refuseBad]

theorem Keeps.serveRequest (id op) : Keeps s₀ (s.serveRequest id op) := by
  unfold State.serveRequest
  grind [Keeps.nack, Keeps.grnTake, Keeps.leave, Keeps.tileServe, Keeps.lportServe]

theorem keeps_execRead (id) (e : execRead id s = .next s') : Keeps s₀ s' := .next e (h.serveRequest ..)
theorem keeps_execWrite (id) (e : execWrite id s = .next s') : Keeps s₀ s' := .next e (h.serveRequest ..)
theorem keeps_execAtomic (id) (e : execAtomic id s = .next s') : Keeps s₀ s' := .next e (h.serveRequest ..)

theorem keeps_execMcastWrite (id) (e : execMcastWrite id s = .next s') : Keeps s₀ s' := by
  unfold execMcastWrite at e
  grind [Keeps.dropPkt, Keeps.respond, Keeps.loftWr, Keeps.nack, Keeps.refuseBad, Keeps.tileNack]

theorem Keeps.lportFences (n n') : Keeps s₀ (s.lportFences n n') := by
  induction n' generalizing s with
  | zero => exact h
  | succ n ih =>
    unfold State.lportFences
    grind [Keeps.updLport, Keeps.orsp]

theorem Keeps.issuerReport (i kind addr detail p) : Keeps s₀ (s.issuerReport i kind addr detail p) := by
  unfold State.issuerReport
  grind [Keeps.report, Keeps.tileReport]

theorem Keeps.complete (a st bad data) : Keeps s₀ (s.complete a st bad data) := by
  unfold State.complete
  grind [Keeps.updThread, Keeps.retire, Keeps.wake, Keeps.faultEnd, Keeps.sendFrame, Keeps.updCopy, Keeps.orsp, Keeps.copyEnd,
    Keeps.updMcast, Keeps.mcastAdvance, Keeps.flowAnswer, Keeps.streamData, Keeps.streamAck, Keeps.updTask, Keeps.lportFences]

theorem Keeps.answered (id op go) (hgo : ∀ a a2 s, Keeps s₀ s → Keeps s₀ (go a a2 s)) : Keeps s₀ (s.answered id op go) := by
  unfold State.answered
  grind [Keeps.updInt, Keeps.dropPkt, Keeps.retire]

theorem keeps_execReadRsp (id) (e : execReadRsp id s = .next s') : Keeps s₀ s' := by
  unfold execReadRsp at e
  grind [Keeps.intCtr, Keeps.inject, Keeps.updAccess, Keeps.portIdle, Keeps.chargeClass, Keeps.issuerReport, Keeps.complete,
    Keeps.answered]

theorem keeps_execWriteAck (id) (e : execWriteAck id s = .next s') : Keeps s₀ s' := by
  unfold execWriteAck at e
  grind [Keeps.complete, Keeps.answered]

theorem keeps_execAtomicRsp (id) (e : execAtomicRsp id s = .next s') : Keeps s₀ s' := by
  unfold execAtomicRsp at e
  grind [Keeps.issuerReport, Keeps.complete, Keeps.answered]

theorem Keeps.torusMcastReport (a) : Keeps s₀ (s.torusMcastReport a) := by
  unfold State.torusMcastReport
  grind [Keeps.retire, Keeps.finish, Keeps.giveMrep, Keeps.lportFences]

theorem keeps_execMcastAck (id) (e : execMcastAck id s = .next s') : Keeps s₀ s' := by
  unfold execMcastAck at e
  grind [Keeps.updAccess, Keeps.answered, Keeps.torusMcastReport]

theorem keeps_execAccessTimeout (i) (e : execAccessTimeout i s = .next s') : Keeps s₀ s' := by
  unfold execAccessTimeout at e
  grind [Keeps.retire, Keeps.complete, Keeps.torusMcastReport]

theorem Keeps.glTrace (c rec_) : Keeps s₀ (s.glTrace c rec_) := by
  unfold State.glTrace
  grind [Keeps.updRouter, Keeps.torCtr, Keeps.issue]

theorem Keeps.glSee (router port out vc cycle p) : Keeps s₀ (s.glSee router port out vc cycle p) :=
  .ite (Keeps.ite (((h.torCtr ..).torCtr ..).glTrace ..) ((h.torCtr ..).torCtr ..)) h

theorem Keeps.torErr (t kind port p) : Keeps s₀ (s.torErr t kind port p) := h.updRouter ..
theorem Keeps.servedBy (p port) : Keeps s₀ (s.servedBy p port) := h.updRouter ..

theorem Keeps.hopIn (id n port p cycle) : Keeps s₀ (s.hopIn id n port p cycle) := by
  unfold State.hopIn
  grind [Keeps.torCtr, Keeps.report, Keeps.glSee, Keeps.torErr, Keeps.with]

theorem Keeps.toInterface (id p) : Keeps s₀ (s.toInterface id p) := .ite (Keeps.ite (h.respond ..) h) (h.with ..)

theorem Keeps.hopOut (id port p damage cycle) : Keeps s₀ (s.hopOut id port p damage cycle) :=
  .ite (((h.torCtr ..).glSee ..).toInterface ..) (((h.torCtr ..).glSee ..).hopIn ..)

theorem Keeps.seeParity (p) : Keeps s₀ (s.seeParity p) := .ite ((h.torCtr ..).torErr ..) h

theorem keeps_execPacketForward (id damage cycle) (e : execPacketForward id damage cycle s = .next s') :
    Keeps s₀ s' := by
  unfold execPacketForward at e
  injection e with e
  subst e
  split
  · exact h
  · dsimp only
    split
    · exact h
    · refine ((((Keeps.ite (h.glSee ..) h).seeParity ..).dropPkt ..).foldl _ (fun _ _ h => h.servedBy ..)).foldlSnd _ (fun _ _ h => ?_)
      exact (Keeps.ite h (h.with ..)).hopOut ..

theorem Keeps.torClear (t) : Keeps s₀ (s.torClear t) := h.updRouter ..

theorem keeps_execTorClear (a t) (e : execTorClear a t s = .next s') : Keeps s₀ s' := by
  unfold execTorClear at e
  grind [Keeps.regWrite, Keeps.torClear]

theorem Keeps.glClear (t) : Keeps s₀ (s.glClear t) := .ite (h.updRouter ..) h

theorem keeps_execGlClear (a t) (e : execGlClear a t s = .next s') : Keeps s₀ s' := by
  unfold execGlClear at e
  grind [Keeps.regWrite, Keeps.glClear]

theorem Keeps.glCtrlWrite (t v) (e : s.glCtrlWrite t v = some s') : Keeps s₀ s' := by
  unfold State.glCtrlWrite at e
  grind [Keeps.updRouter]

theorem keeps_execGleanerEnable (a t v) (e : execGleanerEnable a t v s = .next s') : Keeps s₀ s' := by
  unfold execGleanerEnable at e
  grind [Keeps.regWrite, Keeps.glCtrlWrite]

/-! #### The operations of Machine/LogicOps -/

theorem Keeps.isolatePort (n) : Keeps s₀ (s.isolatePort n) := by
  unfold State.isolatePort
  grind [Keeps.updFab, Keeps.updLport, Keeps.respond, Keeps.foldl, Keeps.with]

theorem Keeps.isolate (r) : Keeps s₀ (s.isolate r) := by
  unfold State.isolate
  grind [Keeps.isolatePort, Keeps.foldl]

theorem Keeps.emptyRegion (r) : Keeps s₀ (s.emptyRegion r) := (h.isolate ..).updRegion ..
theorem Keeps.resetRegion (r) : Keeps s₀ (s.resetRegion r) := (h.isolate ..).updRegion ..
theorem Keeps.cfgErr (r kind detail frame) : Keeps s₀ (s.cfgErr r kind detail frame) := h.updLgc ..

theorem Keeps.endLoad (l detail sect off staged) : Keeps s₀ (s.endLoad l detail sect off staged) := by
  unfold State.endLoad
  grind [Keeps.updRegion, Keeps.finish, Keeps.cfgErr, Keeps.foldl, Keeps.with]

theorem Keeps.killLoads (r) : Keeps s₀ (s.killLoads r) := by
  unfold State.killLoads
  grind [Keeps.endLoad, Keeps.foldl]

/-! #### The operations of Machine/Fabric -/

theorem Keeps.remoteReadIn (id p) : Keeps s₀ (s.remoteReadIn id p) := by
  unfold State.remoteReadIn
  grind [Keeps.issue, Keeps.dropParcel, Keeps.sendFrame, Keeps.ingress, Keeps.denied]

theorem Keeps.forward (id p) : Keeps s₀ (s.forward id p) := by
  unfold State.forward
  grind [Keeps.kfbErr, Keeps.addParcel, Keeps.dropParcel, Keeps.portSend, Keeps.route, Keeps.sendOrdered]

theorem keeps_execFrameForward (id) (e : execFrameForward id s = .next s') : Keeps s₀ s' := by
  unfold execFrameForward at e
  grind [Keeps.remoteReadIn, Keeps.forward]

theorem keeps_execAdaptiveEscape (id) (e : execAdaptiveEscape id s = .next s') : Keeps s₀ s' := by
  unfold execAdaptiveEscape at e
  grind [Keeps.kfbCtr, Keeps.kfbErr, Keeps.dropParcel, Keeps.route, Keeps.sendOrdered]

theorem Keeps.accept (h' k p) (e : s.accept h' k p = some s') : Keeps s₀ s' := by
  unfold State.accept at e
  grind [Keeps.report, Keeps.issue, Keeps.ingress, Keeps.denied, Keeps.flowAnswer]

theorem keeps_execFlowFrame (id) (e : execFlowFrame id s = .next s') : Keeps s₀ s' := by
  unfold execFlowFrame at e
  injection e with e
  subst e
  split
  · exact h
  · dsimp only
    split
    · exact h
    · split
      · split
        · exact h
        · exact (h.updFab ..).kfbCtr ..
      · split
        · exact h.dropParcel ..
        · split
          · split
            · next eq => exact (Keeps.accept ((h.updFab ..).updRecv ..) _ _ _ eq).dropParcel ..
            · exact h
          · split
            · split
              · exact (((h.updFab ..).dropParcel ..).kfbCtr ..).sendFrame ..
              · exact ((h.updFab ..).dropParcel ..).kfbCtr ..
            · split
              · exact ((h.updFab ..).dropParcel ..).free 1
              · exact ((((h.updFab ..).dropParcel ..).free 1).kfbCtr ..).sendFrame ..

theorem keeps_execFlowResponse (id) (e : execFlowResponse id s = .next s') : Keeps s₀ s' := by
  unfold execFlowResponse at e
  injection e with e
  subst e
  split <;> grind [Keeps.updFab, Keeps.inject, Keeps.dropParcel, Keeps.updSend, Keeps.answerIssuer, Keeps.with]

theorem keeps_execSeqNack (id) (e : execSeqNack id s = .next s') : Keeps s₀ s' := by
  unfold execSeqNack at e
  grind [Keeps.dropParcel, Keeps.parcelFor, Keeps.resend]

theorem keeps_execE2eTimeout (ctx) (e : execE2eTimeout ctx s = .next s') : Keeps s₀ s' := by
  unfold execE2eTimeout at e
  grind [Keeps.resend]

theorem keeps_execFlowDead (ctx) (e : execFlowDead ctx s = .next s') : Keeps s₀ s' := by
  unfold execFlowDead at e
  injection e with e
  subst e
  split
  · exact h
  · split
    · exact h
    · exact (((((h.dropFlow ..).foldl _ (fun _ _ h => h.answerIssuer ..)).kfbCtr ..).kfbErr ..).closeFlow ..).grangerEvent ..

theorem keeps_execFlowIdleClose (ctx) (e : execFlowIdleClose ctx s = .next s') : Keeps s₀ s' := by
  unfold execFlowIdleClose at e
  grind [Keeps.sendFrame, Keeps.updSend]

theorem keeps_execFlowClose (id) (e : execFlowClose id s = .next s') : Keeps s₀ s' := by
  unfold execFlowClose at e
  grind [Keeps.updFab, Keeps.dropParcel, Keeps.parcelFor, Keeps.sendFrame]

theorem keeps_execFlowCloseAck (id) (e : execFlowCloseAck id s = .next s') : Keeps s₀ s' := by
  unfold execFlowCloseAck at e
  grind [Keeps.dropParcel, Keeps.parcelFor, Keeps.closeFlow]

theorem keeps_execReadRetry (d tag) (e : execReadRetry d tag s = .next s') : Keeps s₀ s' := by
  unfold execReadRetry at e
  grind [Keeps.updFab, Keeps.kfbCtr, Keeps.respond, Keeps.kfbErr, Keeps.addParcel]

theorem keeps_execCopyBlock (k host) (e : execCopyBlock k host s = .next s') : Keeps s₀ s' := by
  unfold execCopyBlock at e
  grind [Keeps.hostReadErr, Keeps.updCopy, Keeps.copyEnd, Keeps.copyWrite, Keeps.copyRead]

theorem keeps_execFabricMcastWrite (id) (e : execFabricMcastWrite id s = .next s') : Keeps s₀ s' := by
  unfold execFabricMcastWrite at e
  grind [Keeps.updFab, Keeps.kfbErr, Keeps.dropParcel, Keeps.portSend, Keeps.group, Keeps.mcastSpread]

theorem keeps_execFabricMcastAck (id) (e : execFabricMcastAck id s = .next s') : Keeps s₀ s' := by
  unfold execFabricMcastAck at e
  grind [Keeps.dropParcel, Keeps.updMcast, Keeps.mcastAdvance]

theorem keeps_execMcastReportTimeout (k) (e : execMcastReportTimeout k s = .next s') : Keeps s₀ s' := by
  unfold execMcastReportTimeout at e
  grind [Keeps.mcastReport]

theorem keeps_execPortHeld (q) (e : execPortHeld q s = .next s') : Keeps s₀ s' := .next e (.ite (h.updFport ..) h)

theorem Keeps.failover (q lost) : Keeps s₀ (s.failover q lost) := by
  unfold State.failover
  grind [Keeps.kfbCtr, Keeps.resend, Keeps.foldl]

theorem Keeps.detach (q) : Keeps s₀ (s.detach q) := .ite ((h.updTick ..).grangerEvent ..) h

theorem Keeps.portDown (q) : Keeps s₀ (s.portDown q) := by
  unfold State.portDown
  refine (((((((h.updFport ..).updLink ..).grangerEvent ..).failover ..).foldl _ (fun s m h => ?_)).detach ..)).capUpdate
  exact .ite ((h.pruneBranch ..).mcastAdvance ..) h

theorem keeps_execHoldExpiry (q) (e : execHoldExpiry q s = .next s') : Keeps s₀ s' := .next e (.ite (h.portDown ..) h)

theorem keeps_execPortReturnUp (q) (e : execPortReturnUp q s = .next s') : Keeps s₀ s' := by
  unfold execPortReturnUp at e
  grind [Keeps.updFport, Keeps.updLink, Keeps.kfbCtr, Keeps.grangerEvent, Keeps.drain, Keeps.portUp, Keeps.stayOnAlt]

theorem keeps_execPathSettle (dst) (e : execPathSettle dst s = .next s') : Keeps s₀ s' := by
  unfold execPathSettle at e
  grind [Keeps.updFab]

theorem Keeps.redGroup (g) : Keeps s₀ (s.redGroup g).2 := by
  unfold State.redGroup
  grind [Keeps.badEntry]

theorem Keeps.rankModule (g r) : Keeps s₀ (s.rankModule g r).2 := by
  unfold State.rankModule
  grind [Keeps.readPhys]

theorem Keeps.updRed (k f) : Keeps s₀ (s.updRed k f) := h.updFab ..
theorem Keeps.dropRed (k) : Keeps s₀ (s.dropRed k) := h.updFab ..

theorem Keeps.redSend (r op rank vec flags) : Keeps s₀ (s.redSend r op rank vec flags) := by
  unfold State.redSend
  grind [Keeps.sendFrame, Keeps.rankModule, Keeps.foldl]

theorem Keeps.redWrite (r vec flags) : Keeps s₀ (s.redWrite r vec flags) := by
  unfold State.redWrite
  grind [Keeps.kfbCtr, Keeps.startCopy, Keeps.dropRed]

theorem Keeps.redAdvance (k n) : Keeps s₀ (s.redAdvance k n) := by
  induction n generalizing s with
  | zero => exact h
  | succ n ih =>
    unfold State.redAdvance
    grind [Keeps.kfbCtr, Keeps.finish, Keeps.updRed, Keeps.dropRed, Keeps.redSend, Keeps.redWrite, Keeps.foldl]

theorem Keeps.redFail (r status rank module) : Keeps s₀ (s.redFail r status rank module) :=
  (((h.dropRed ..).kfbCtr ..).kfbErr ..).finish ..

theorem Keeps.redDenied (id p f) : Keeps s₀ (s.redDenied id p f).2 := by
  unfold State.redDenied
  grind [Keeps.dropParcel, Keeps.windowOf, Keeps.denied, Keeps.redGroup]

theorem keeps_execRedPart (id) (e : execRedPart id s = .next s') : Keeps s₀ s' := by
  unfold execRedPart at e
  grind [Keeps.dropParcel, Keeps.parcelFor, Keeps.updRed, Keeps.redAdvance, Keeps.redFail, Keeps.redDenied]

theorem keeps_execRedCredit (id) (e : execRedCredit id s = .next s') : Keeps s₀ s' := by
  unfold execRedCredit at e
  grind [Keeps.dropParcel, Keeps.parcelFor, Keeps.updRed, Keeps.redAdvance, Keeps.redDenied]

theorem keeps_execRedResult (id) (e : execRedResult id s = .next s') : Keeps s₀ s' := by
  unfold execRedResult at e
  grind [Keeps.dropParcel, Keeps.parcelFor, Keeps.updRed, Keeps.redSend, Keeps.redWrite, Keeps.redDenied, Keeps.foldl]

theorem keeps_execReduceTimeout (k) (e : execReduceTimeout k s = .next s') : Keeps s₀ s' := by
  unfold execReduceTimeout at e
  grind [Keeps.rankModule, Keeps.redFail]

theorem keeps_execLinkHello (id) (e : execLinkHello id s = .next s') : Keeps s₀ s' := by
  unfold execLinkHello at e
  grind [Keeps.updFport, Keeps.updLink, Keeps.dropParcel, Keeps.portUp]

theorem Keeps.idWrite (v) (e : s.idWrite v = some s') : Keeps s₀ s' := by
  unfold State.idWrite at e
  grind [Keeps.updFab]

theorem keeps_execKfbModuleId (a d v) (e : execKfbModuleId a d v s = .next s') : Keeps s₀ s' := by
  unfold execKfbModuleId at e
  grind [Keeps.regWrite, Keeps.idWrite]

theorem keeps_execKfbClear (a d) (e : execKfbClear a d s = .next s') : Keeps s₀ s' := by
  unfold execKfbClear at e
  grind [Keeps.updKfb, Keeps.regWrite]

/-! #### The operations of Machine/Tick -/

theorem Keeps.tickSend (q f) : Keeps s₀ (s.tickSend q f) := by
  unfold State.tickSend
  grind [Keeps.updFport, Keeps.drain]

theorem Keeps.tickSendDown (f) : Keeps s₀ (s.tickSendDown f) := by
  unfold State.tickSendDown
  grind [Keeps.tickSend, Keeps.foldl]

theorem Keeps.tickEvent (code) : Keeps s₀ (s.tickEvent code) := h.ownerEvent ..
theorem Keeps.updBarrier (g f) : Keeps s₀ (s.updBarrier g f) := h.updTick ..

theorem Keeps.wakeGroup (g) : Keeps s₀ (s.wakeGroup g) := by
  unfold State.wakeGroup
  grind [Keeps.releaseHeld, Keeps.wake, Keeps.foldl]

theorem Keeps.noteStall (old n late) : Keeps s₀ (s.noteStall old n late) := h.updTick ..
theorem Keeps.releaseGroup (g n) : Keeps s₀ (s.releaseGroup g n) := ((h.updBarrier ..).updTick ..).wakeGroup ..
theorem Keeps.groupClosed (g n late) : Keeps s₀ (s.groupClosed g n late) := .ite h ((h.noteStall ..).releaseGroup ..)

theorem Keeps.closeShares (gs n late) : Keeps s₀ (s.closeShares gs n late) := by
  unfold State.closeShares
  grind [Keeps.tickSend, Keeps.updBarrier, Keeps.groupClosed, Keeps.foldl]

theorem keeps_execBarrierShareClose (g n ns) (e : execBarrierShareClose g n ns s = .next s') : Keeps s₀ s' :=
  .next e (.ite h (Keeps.ite ((h.closeShares ..).tickSendDown ..) (h.closeShares ..)))

theorem Keeps.treeFrame (id op go) (hgo : ∀ a a2 s, Keeps s₀ s → Keeps s₀ (go a a2 s)) : Keeps s₀ (s.treeFrame id op go) := by
  unfold State.treeFrame
  grind [Keeps.dropParcel]

theorem keeps_execBarrierReport (id) (e : execBarrierReport id s = .next s') : Keeps s₀ s' := by
  unfold execBarrierReport at e
  grind [Keeps.updBarrier, Keeps.treeFrame, Keeps.foldl]

theorem Keeps.takeClose (mask n late) : Keeps s₀ (s.takeClose mask n late) := by
  unfold State.takeClose
  grind [Keeps.groupClosed, Keeps.foldl]

theorem keeps_execBarrierClose (id ns) (e : execBarrierClose id ns s = .next s') : Keeps s₀ s' := by
  unfold execBarrierClose at e
  grind [Keeps.tickSendDown, Keeps.treeFrame, Keeps.takeClose]

theorem Keeps.evSnapshot : Keeps s₀ (s.evSnapshot) := h.updHealth ..

theorem Keeps.sumCounts : Keeps s₀ (s.sumCounts) := by
  unfold State.sumCounts
  grind [Keeps.updInt, Keeps.intCtr]

theorem Keeps.wakeEdge (w) : Keeps s₀ (s.wakeEdge w) := by
  unfold State.wakeEdge
  grind [Keeps.updTile, Keeps.wake, Keeps.foldl]

theorem Keeps.masterMarker : Keeps s₀ (s.masterMarker) := by
  unfold State.masterMarker
  grind [Keeps.free, Keeps.tickSend, Keeps.foldl]

theorem Keeps.noteEdge : Keeps s₀ (s.noteEdge) := .ite h (h.updTick ..)

theorem Keeps.edge (n) : Keeps s₀ (s.edge n) := by
  unfold State.edge
  dsimp only
  (repeat' split) <;> grind [Keeps.updTick, Keeps.closeShares, Keeps.evSnapshot, Keeps.sumCounts, Keeps.wakeEdge,
      Keeps.masterMarker, Keeps.noteEdge, Keeps.with]

theorem keeps_execTickEdge (upsets) (e : execTickEdge upsets s = .next s') : Keeps s₀ s' :=
  .next e (.ite ((h.with ..).edge ..) h)

theorem Keeps.takeMarker (m offset) : Keeps s₀ (s.takeMarker m offset) := (h.updTick ..).takeClose ..

theorem Keeps.follow (m offset) : Keeps s₀ (s.follow m offset) := by
  unfold State.follow
  grind [Keeps.updTick, Keeps.edge]

theorem Keeps.forwardMarker (f delay turn) : Keeps s₀ (s.forwardMarker f delay turn) := by
  unfold State.forwardMarker
  grind [Keeps.tickSend, Keeps.foldl]

theorem keeps_execTickMarker (id arrival turn) (e : execTickMarker id arrival turn s = .next s') : Keeps s₀ s' := by
  unfold execTickMarker at e
  grind [Keeps.updTick, Keeps.tickEvent, Keeps.treeFrame, Keeps.takeMarker, Keeps.follow, Keeps.forwardMarker]

theorem keeps_execHoldoverEntry (e : execHoldoverEntry s = .next s') : Keeps s₀ s' :=
  .next e (.ite ((h.updTick ..).tickEvent ..) h)

theorem keeps_execFreeRunEntry (e : execFreeRunEntry s = .next s') : Keeps s₀ s' := by
  unfold execFreeRunEntry at e
  grind [Keeps.updTick, Keeps.tickEvent, Keeps.releaseGroup, Keeps.foldl]

theorem Keeps.tckCtrlWrite (v) (e : s.tckCtrlWrite v = some s') : Keeps s₀ s' := by
  unfold State.tckCtrlWrite at e
  grind [Keeps.with]

theorem keeps_execTickEnable (a) (e : execTickEnable a s = .next s') : Keeps s₀ s' := by
  unfold execTickEnable at e
  grind [Keeps.regWrite, Keeps.tckCtrlWrite]

theorem keeps_execClearStats (a) (e : execClearStats a s = .next s') : Keeps s₀ s' := by
  unfold execClearStats at e
  grind [Keeps.regWrite, Keeps.tckCtrlWrite]

/-! #### The operations of Machine/BupOps -/

theorem Keeps.resetLimit (ks) : Keeps s₀ (s.resetLimit ks).2 := by
  unfold State.resetLimit
  grind [Keeps.free]

theorem Keeps.advanceEpochs (ts cs ps) : Keeps s₀ (s.advanceEpochs ts cs ps) := by
  unfold State.advanceEpochs
  grind [Keeps.updBup, Keeps.updInt]

theorem Keeps.resetTokens (t) : Keeps s₀ (s.resetTokens t) := by
  unfold State.resetTokens
  grind [Keeps.sendToken, Keeps.foldl]

theorem Keeps.absorbHeld (t) : Keeps s₀ (s.absorbHeld t) := by
  unfold State.absorbHeld
  grind [Keeps.updInt, Keeps.winCtr, Keeps.ackHalf, Keeps.foldl]

theorem Keeps.killTasks (t old) : Keeps s₀ (s.killTasks t old) := by
  unfold State.killTasks
  grind [Keeps.updTile, Keeps.updBup, Keeps.endFields, Keeps.endLaunch, Keeps.foldl]

theorem Keeps.resetTile (t old tokens) : Keeps s₀ (s.resetTile t old tokens) := by
  unfold State.resetTile
  exact ((((((((Keeps.ite (h.resetTokens t) h).strCtr ..).absorbHeld ..).killTasks ..).rowsLost ..).stopWinnow ..).with ..).zeroMem ..).updTile .. |>.updCtl ..

theorem Keeps.powerOff (t old) : Keeps s₀ (s.powerOff t old) := (h.resetTile ..).updCtl ..
theorem Keeps.noteReset (scope target issuer) : Keeps s₀ (s.noteReset scope target issuer) := (h.updBup ..).bupCtr ..

theorem Keeps.startTiles (old scope target issuer ts ring tokens) :
    Keeps s₀ (s.startTiles old scope target issuer ts ring tokens) := by
  unfold State.startTiles
  grind [Keeps.updBup, Keeps.settleResets, Keeps.resetTile, Keeps.noteReset, Keeps.foldl]

theorem Keeps.resetOneTile (t issuer ring) : Keeps s₀ (s.resetOneTile t issuer ring) := (h.advanceEpochs ..).startTiles ..
theorem Keeps.resetCluster (c issuer ring) : Keeps s₀ (s.resetCluster c issuer ring) := (h.advanceEpochs ..).startTiles ..

theorem Keeps.refillBuckets (p) : Keeps s₀ (s.refillBuckets p) := by
  unfold State.refillBuckets
  grind [Keeps.updStack, Keeps.foldl]

theorem Keeps.resetPartition (p issuer ring) : Keeps s₀ (s.resetPartition p issuer ring) := by
  unfold State.resetPartition
  grind [Keeps.resetRegion, Keeps.killLoads, Keeps.advanceEpochs, Keeps.startTiles, Keeps.refillBuckets, Keeps.foldl]

theorem Keeps.orphanJobs (gone) : Keeps s₀ (s.orphanJobs gone) := by
  unfold State.orphanJobs
  grind [Keeps.updBup, Keeps.updFab, Keeps.updHealth, Keeps.with]

theorem Keeps.functionIdle (d f) : Keeps s₀ (s.functionIdle d f) := (((h.orphanJobs ..).with ..).updFunc ..).hstCtr ..

theorem Keeps.clearHost : Keeps s₀ (s.clearHost) := by
  unfold State.clearHost
  grind [Keeps.updFab, Keeps.kfbCtr, Keeps.kfbErr, Keeps.functionIdle, Keeps.foldl, Keeps.with]

theorem Keeps.moduleTile (t old) : Keeps s₀ (s.moduleTile t old) := (h.resetTile ..).updCtl ..

theorem Keeps.restoreKeep : Keeps s₀ (s.restoreKeep) := by
  unfold State.restoreKeep
  grind [Keeps.updStack, Keeps.updBup, Keeps.foldl]

theorem Keeps.reinit : Keeps s₀ s.reinit := by
  unfold State.reinit
  have old := h.advanceEpochs (List.range Config.tiles) (List.range Config.clusters) (List.range Config.partitions)
  have tiles := old.foldl (g := fun (u : State) t => if u.resettable t then u.moduleTile t (s.tileEpoch t)
      else u.updCtl t (fun c => { c with inReset := !u.bup.park.getLsbD (tileCluster t), reported := false }))
    ((List.range Config.tiles).filter (fun t => !s.fusedOff t && !(s.ctl t).disabled))
    (fun u t h => Keeps.ite (h.moduleTile ..) (h.updCtl ..))
  have regions := tiles.foldl (g := fun u r => (u.killLoads r).emptyRegion r) (List.range 32) (fun _ _ h => (h.killLoads _).emptyRegion _)
  exact ((regions.clearHost).restoreKeep.noParts ..).updBup ..

theorem Keeps.moduleReset (issuer) : Keeps s₀ (s.moduleReset issuer) := ((h.noteReset ..).reinit).updBup ..

theorem Keeps.deepExit (cause) : Keeps s₀ (s.deepExit cause) := by
  unfold State.deepExit
  grind [Keeps.updBup, Keeps.updCtl, Keeps.settleResets, Keeps.restoreKeep, Keeps.foldl, Keeps.with]

/-! #### The operations of Machine/Host -/

theorem keeps_execStartReport (id) (e : execStartReport id s = .next s') : Keeps s₀ s' := by
  unfold execStartReport at e
  grind [Keeps.dropPkt, Keeps.updHeld, Keeps.control]

theorem Keeps.countMiss (r seq part tile) : Keeps s₀ (s.countMiss r seq part tile) := by
  unfold State.countMiss
  grind [Keeps.updTick, Keeps.event]

theorem keeps_execMissNotice (id) (e : execMissNotice id s = .next s') : Keeps s₀ s' := by
  unfold execMissNotice at e
  grind [Keeps.dropPkt, Keeps.control, Keeps.countMiss]

theorem keeps_execCompletionReport (r) (e : execCompletionReport r s = .next s') : Keeps s₀ s' := by
  unfold execCompletionReport at e
  grind [Keeps.dropPkt, Keeps.updHeld, Keeps.finish, Keeps.control]

theorem Keeps.doorbell (r w) : Keeps s₀ (s.doorbell r w) := by
  unfold State.doorbell
  dsimp only
  (repeat' split) <;> grind [Keeps.updRing, Keeps.ringFault, Keeps.with]

theorem keeps_execDoorbellPoll (d f words) (e : execDoorbellPoll d f words s = .next s') : Keeps s₀ s' := by
  unfold execDoorbellPoll at e
  grind [Keeps.updFunc, Keeps.hstCtr, Keeps.hostReadErr, Keeps.doorbell, Keeps.foldl, Keeps.with]

theorem keeps_execDescriptorFetched (r data) (e : execDescriptorFetched r data s = .next s') : Keeps s₀ s' := by
  unfold execDescriptorFetched at e
  grind [Keeps.updRing, Keeps.hstCtr, Keeps.hostReadErr, Keeps.flushRing, Keeps.deepExit]

theorem keeps_execTask (r) (e : execTask r s = .next s') : Keeps s₀ s' := by
  unfold execTask at e
  grind [Keeps.sendMsg, Keeps.startDesc, Keeps.updHeld, Keeps.finishWith, Keeps.countMiss]

theorem keeps_execCopy (r) (e : execCopy r s = .next s') : Keeps s₀ s' := by
  unfold execCopy at e
  grind [Keeps.startDesc, Keeps.started, Keeps.finish, Keeps.finishWith, Keeps.startCopy]

theorem Keeps.torusMcast (i src pu tenant part addr ts data epoch) (e : s.torusMcast i src pu tenant part addr ts data epoch = some s') : Keeps s₀ s' := by
  unfold State.torusMcast at e
  simp only [Option.map_eq_some_iff] at e
  grind [Keeps.issue, Keeps.with]

theorem keeps_execMcast (r data) (e : execMcast r data s = .next s') : Keeps s₀ s' := by
  unfold execMcast at e
  injection e with e
  subst e
  refine h.startDesc r _ _ (fun x d s h => ?_)
  dsimp only
  have grouped := h.group x.port (dfield d.bytes 0x1C 2)
  split
  · exact h.finishWith ..
  · split
    · exact h.finishWith ..
    · split
      · exact grouped.finishWith ..
      · split
        · exact grouped.finishWith ..
        · split
          · exact h.finishWith ..
          · split
            · exact h.finishWith ..
            · split
              · exact h
              · split
                · split
                  · split
                    · next eq =>
                      have sent := (h.started r d.seq).mcastSend x.port (dfield d.bytes 0x1C 2) ‹Nat› (dfield d.bytes 8 8)
                        (slice ‹_› 0 (dfield d.bytes 0x18 1 + 1)) 2 0 (some (r, d.seq)) none
                      rw [eq] at sent
                      exact sent
                    · exact h
                  · exact h.getD (fun _ eq => (h.started ..).torusMcast _ _ _ _ _ _ _ _ _ eq)
                · exact (h.hostReadErr ..).finishWith ..

theorem Keeps.readLeaves (d tenant a stride bytes n m) : Keeps s₀ (s.readLeaves d tenant a stride bytes n m).2 := by
  induction n generalizing s m with
  | zero => exact h
  | succ n ih =>
    unfold State.readLeaves
    (repeat' split) <;> grind [Keeps.fetchVa]

theorem keeps_execReduce (r) (e : execReduce r s = .next s') : Keeps s₀ s' := by
  unfold execReduce at e
  injection e with e
  subst e
  refine h.startDesc r _ _ (fun x d s h => ?_)
  dsimp only
  split
  · exact h.finishWith ..
  · have grouped := h.redGroup (dfield d.bytes 0x0C 2)
    split
    · exact grouped.finishWith ..
    · split
      · exact grouped.finishWith ..
      · split
        · exact grouped
        · split
          · next eq => exact (Keeps.of_snd eq (grouped.readLeaves ..)).finish ..
          · next eq => exact (((Keeps.of_snd eq (grouped.readLeaves ..)).started ..).updFab ..).redAdvance ..

theorem Keeps.invalidate (tenant va size) : Keeps s₀ (s.invalidate tenant va size) := h.with ..

theorem keeps_execXinv (r) (e : execXinv r s = .next s') : Keeps s₀ s' := by
  unfold execXinv at e
  grind [Keeps.startDesc, Keeps.finishWith, Keeps.invalidate]

theorem keeps_execNop (r) (e : execNop r s = .next s') : Keeps s₀ s' := by
  unfold execNop at e
  grind [Keeps.startDesc, Keeps.finishWith]

theorem keeps_execRingCreate (r) (e : execRingCreate r s = .next s') : Keeps s₀ s' := by
  unfold execRingCreate at e
  grind [Keeps.startDesc, Keeps.finish, Keeps.finishWith, Keeps.with]

theorem keeps_execRingDestroy (r) (e : execRingDestroy r s = .next s') : Keeps s₀ s' := by
  unfold execRingDestroy at e
  grind [Keeps.updRing, Keeps.startDesc, Keeps.started, Keeps.finishWith, Keeps.with]

theorem Keeps.stopFn (d f) : Keeps s₀ (s.stopFn d f) := by
  unfold State.stopFn
  grind [Keeps.updTile, Keeps.updFab, Keeps.updFunc, Keeps.endTask, Keeps.updCopy, Keeps.copyEnd, Keeps.foldl, Keeps.with]

theorem keeps_execFunctionLevelReset (d f) (e : execFunctionLevelReset d f s = .next s') : Keeps s₀ s' := .next e (h.stopFn ..)
theorem keeps_execBusMasterClear (d f) (e : execBusMasterClear d f s = .next s') : Keeps s₀ s' := .next e (h.stopFn ..)

theorem Keeps.stopFns (d p) : Keeps s₀ (s.stopFns d p) := by
  unfold State.stopFns
  grind [Keeps.stopFn, Keeps.foldl]

theorem keeps_execHostLinkDown (d) (e : execHostLinkDown d s = .next s') : Keeps s₀ s' := .next e ((h.updHost ..).stopFns ..)
theorem keeps_execVfEnableClear (d) (e : execVfEnableClear d s = .next s') : Keeps s₀ s' := .next e (h.stopFns ..)

theorem keeps_execHostLinkUp (d width rate) (e : execHostLinkUp d width rate s = .next s') : Keeps s₀ s' :=
  .next e (.ite h (h.updHost ..))

theorem keeps_execFunctionStopDone (d f) (e : execFunctionStopDone d f s = .next s') : Keeps s₀ s' :=
  .next e (.ite (h.functionIdle ..) h)

theorem Keeps.cfgDrop (d f) : Keeps s₀ (s.cfgDrop d f) := h.updFunc ..

theorem Keeps.fnCtrl (d f v) : Keeps s₀ (s.fnCtrl d f v) := by
  unfold State.fnCtrl
  grind [Keeps.updFunc, Keeps.stopFn, Keeps.cfgDrop, Keeps.with]

theorem keeps_execFunctionEnable (d f v) (e : execFunctionEnable d f v s = .next s') : Keeps s₀ s' :=
  .next e (.ite ((h.fnCtrl ..).with ..) h)

theorem keeps_execFunctionDisable (d f) (e : execFunctionDisable d f s = .next s') : Keeps s₀ s' :=
  .next e (.ite ((h.fnCtrl ..).with ..) h)

theorem keeps_execHstClear (a d) (e : execHstClear a d s = .next s') : Keeps s₀ s' := by
  unfold execHstClear at e
  grind [Keeps.updHost, Keeps.regWrite]

/-! #### The operations of Machine/Crit -/

theorem Keeps.updKey (k f) (hf : ∀ x : KeySlot, x.last ≤ x.high → (f x).last ≤ (f x).high) : Keeps s₀ (s.updKey k f) :=
  ⟨h.mem, fun w => (h.registry w).updKey k f hf⟩

theorem Keeps.answerTo (ring mctp r) : Keeps s₀ (s.answerTo ring mctp r) := by
  unfold State.answerTo
  grind [Keeps.updHealth, Keeps.grgCtr, Keeps.finish]

theorem Keeps.critAnswer (c r) : Keeps s₀ (s.critAnswer c r) := by
  unfold State.critAnswer
  grind [Keeps.updHealth, Keeps.finish, Keeps.answerTo]

theorem Keeps.critStatus (c st) : Keeps s₀ (s.critStatus c st) := h.critAnswer ..
theorem Keeps.critRefuse (c reason) : Keeps s₀ (s.critRefuse c reason) := h.critAnswer ..

theorem Keeps.critStarted (c) : Keeps s₀ (s.critStarted c) := by
  unfold State.critStarted
  grind [Keeps.updHealth, Keeps.started]

theorem Keeps.critCtr (c off) : Keeps s₀ (s.critCtr c off) := .ite (h.hstCtr ..) h

theorem Keeps.useCounter (c) : Keeps s₀ (s.useCounter c) := by
  unfold State.useCounter
  grind [Keeps.updKey]

theorem Keeps.crit (src op sel used layout permit go) (hgo : ∀ a s, Keeps s₀ s → Keeps s₀ (go a s)) :
    Keeps s₀ (s.crit src op sel used layout permit go) := by
  unfold State.crit
  grind [Keeps.critAnswer, Keeps.critStatus, Keeps.critRefuse, Keeps.critCtr, Keeps.useCounter]

theorem Keeps.tickParam (period guard e') (e : s.tickParam period guard e' = .ok s') : Keeps s₀ s' := by
  unfold State.tickParam at e
  grind [Keeps.updTick]

theorem Keeps.critDone (c) (r : Except Nat State) (hr : ∀ s', r = .ok s' → Keeps s₀ s') : Keeps s₀ (s.critDone c r) := by
  cases r with
  | ok s' => exact (hr s' rfl).critStatus ..
  | error => exact h.critRefuse ..

theorem keeps_execTickParam (src) (e : execTickParam src s = .next s') : Keeps s₀ s' := by
  unfold execTickParam at e
  grind [Keeps.crit, Keeps.tickParam, Keeps.critDone]

theorem keeps_execKeyChange (src) (e : execKeyChange src s = .next s') : Keeps s₀ s' := by
  unfold execKeyChange at e
  grind [Keeps.updKey, Keeps.crit, Keeps.critDone]

theorem Keeps.startLoad (c mask) : Keeps s₀ (s.startLoad c mask) := by
  unfold State.startLoad
  grind [Keeps.updRegion, Keeps.critStarted, Keeps.foldl, Keeps.with]

theorem keeps_execLoadBale (src) (e : execLoadBale src s = .next s') : Keeps s₀ s' := by
  unfold execLoadBale at e
  grind [Keeps.cfgErr, Keeps.critAnswer, Keeps.critRefuse, Keeps.crit, Keeps.startLoad]

theorem Keeps.limited (c ks go) (hgo : ∀ s, Keeps s₀ s → Keeps s₀ (go s)) : Keeps s₀ (s.limited c ks go) := by
  unfold State.limited
  grind [Keeps.resetLimit, Keeps.critRefuse, Keeps.critStarted]

theorem keeps_execTileReset (src) (e : execTileReset src s = .next s') : Keeps s₀ s' := by
  unfold execTileReset at e
  grind [Keeps.resetLimit, Keeps.resetOneTile, Keeps.critRefuse, Keeps.crit, Keeps.limited]

theorem keeps_execClusterReset (src) (e : execClusterReset src s = .next s') : Keeps s₀ s' := by
  unfold execClusterReset at e
  grind [Keeps.resetLimit, Keeps.resetCluster, Keeps.critRefuse, Keeps.crit, Keeps.limited]

theorem keeps_execPartitionReset (src) (e : execPartitionReset src s = .next s') : Keeps s₀ s' := by
  unfold execPartitionReset at e
  grind [Keeps.resetPartition, Keeps.critRefuse, Keeps.crit, Keeps.limited]

theorem keeps_execModuleReset (src) (e : execModuleReset src s = .next s') : Keeps s₀ s' := by
  unfold execModuleReset at e
  injection e with e
  subst e
  exact h.crit _ _ _ _ _ _ _ (fun c _ h => h.limited _ _ _ (fun _ h => h.moduleReset _))

theorem Keeps.readLocal (a n n' m l) : Keeps s₀ (s.readLocal a n n' m l).2 := by
  induction n' generalizing s m l with
  | zero => exact h
  | succ n ih =>
    unfold State.readLocal
    grind [Keeps.readPhys]

theorem Keeps.fetchSpace (d fn ring tenant space a n away) : Keeps s₀ (s.fetchSpace d fn ring tenant space a n away).2 := by
  unfold State.fetchSpace
  grind [Keeps.hostReadErr, Keeps.fetchVa, Keeps.readLocal]

theorem keeps_execFwUpdate (src image) (e : execFwUpdate src image s = .next s') : Keeps s₀ s' := by
  unfold execFwUpdate at e
  grind [Keeps.updBup, Keeps.critRefuse, Keeps.critStarted, Keeps.crit, Keeps.fetchSpace]

theorem Keeps.assign (src sub used go) (hgo : ∀ a s s', Keeps s₀ s → go a s = .ok s' → Keeps s₀ s') :
    Keeps s₀ (s.assign src sub used go) := by
  unfold State.assign
  grind [Keeps.crit, Keeps.critDone]

theorem keeps_execAssignBind (src) (e : execAssignBind src s = .next s') : Keeps s₀ s' := by
  unfold execAssignBind at e
  grind [Keeps.updFunc, Keeps.assign, Keeps.with]

theorem keeps_execAssignUnbind (src) (e : execAssignUnbind src s = .next s') : Keeps s₀ s' := by
  unfold execAssignUnbind at e
  grind [Keeps.updFunc, Keeps.assign, Keeps.with]

theorem Keeps.updPart (p f) (hf : Registry s.keys s.parts → ∀ q, q ≠ p → (f (s.partRec p)).Apart (s.partRec q)) : Keeps s₀ (s.updPart p f) :=
  ⟨h.mem, fun w => (h.registry w).updPart p f (hf (h.registry w))⟩
theorem Keeps.updPart_tenant (p t) : Keeps s₀ (s.updPart p (fun x => { x with tenant := t })) :=
  h.updPart p _ (fun w q hq => w.apart p q hq.symm)

theorem keeps_execAssignPartition (src) (e : execAssignPartition src s = .next s') : Keeps s₀ s' := by
  unfold execAssignPartition at e
  injection e with e
  subst e
  refine h.assign _ _ _ _ (fun c s s' h e => ?_)
  have assigned := h.updPart_tenant c.partArg (some c.tenantArg)
  grind

theorem keeps_execReleasePartition (src) (e : execReleasePartition src s = .next s') : Keeps s₀ s' := by
  unfold execReleasePartition at e
  injection e with e
  subst e
  refine h.assign _ _ _ _ (fun c s s' h e => ?_)
  have released := h.updPart_tenant c.partArg none
  have emptied := released.foldl (g := fun s r => s.emptyRegion r) (s.partRegions c.partArg) (fun _ _ h => h.emptyRegion _)
  grind

theorem Keeps.redefine (p cs rs)
    (hfree : ∀ e ∈ s.parts, e.1 ≠ p → e.2.clusters &&& cs = 0 ∧ e.2.regions &&& rs = 0) : Keeps s₀ (s.redefine p cs rs) := by
  have defined : Keeps s₀ (s.updPart p (fun x => { x with clusters := cs, regions := rs })) := by
    refine h.updPart p _ (fun _ q hq => PartRec.Apart.symm ?_)
    rw [State.partRec, smGetD]
    cases listed : smGet s.parts q with
    | none => exact (PartRec.apart_empty _).symm
    | some x => exact hfree (q, x) (smGet_mem listed) hq
  unfold State.redefine
  exact ((defined.advanceEpochs ..).foldl _ (fun _ _ h => h.emptyRegion ..)).foldl _ (fun _ _ h => h.resetCluster ..)

theorem keeps_execDefinePartition (src) (e : execDefinePartition src s = .next s') : Keeps s₀ s' := by
  unfold execDefinePartition at e
  injection e with e
  subst e
  refine h.assign _ _ _ _ (fun c s s' h e => ?_)
  dsimp only at e
  split at e
  · cases e
  · split at e
    · cases e
    · next free =>
      split at e
      · cases e
      · split at e
        · cases e
        · injection e with e
          subst e
          refine h.redefine _ _ _ (fun x hx hp => ?_)
          simp only [not_or, List.any_eq_true, not_exists, not_and] at free
          simpa [hp] using free.2.1 x hx

theorem Keeps.setRoute (dst w) : Keeps s₀ (s.setRoute dst w) := .ite ((h.updFab ..).updFab ..) (h.updFab ..)

theorem Keeps.setEntry (k i bs) : Keeps s₀ (s.setEntry k i bs) := by
  unfold State.setEntry
  grind [Keeps.clean, Keeps.updFab, Keeps.setRoute]

theorem Keeps.setEntries (k size n m l) : Keeps s₀ (s.setEntries k size n m l) := by
  induction n generalizing s m l with
  | zero => exact h
  | succ n ih =>
    unfold State.setEntries
    grind [Keeps.setEntry]

theorem keeps_execTableUpdate (src data) (e : execTableUpdate src data s = .next s') : Keeps s₀ s' := by
  unfold execTableUpdate at e
  grind [Keeps.hostReadErr, Keeps.critStatus, Keeps.critRefuse, Keeps.crit, Keeps.setEntries]

theorem Keeps.updDie (d f) : Keeps s₀ (s.updDie d f) := h.updHealth ..

theorem Keeps.jobValues (j) : Keeps s₀ (s.jobValues j) := by
  unfold State.jobValues
  grind [Keeps.updHealth, Keeps.updDie, Keeps.foldl]

theorem Keeps.settleJobs (n) : Keeps s₀ (s.settleJobs n) := by
  induction n generalizing s with
  | zero => exact h
  | succ n ih =>
    unfold State.settleJobs
    grind [Keeps.updHealth, Keeps.answerTo, Keeps.jobValues]

theorem Keeps.settleMargin : Keeps s₀ (s.settleMargin) := by
  unfold State.settleMargin
  grind [Keeps.updHealth, Keeps.settleJobs]

theorem Keeps.marginOverride (src sel) : Keeps s₀ (s.marginOverride src sel) := by
  unfold State.marginOverride
  grind [Keeps.updHealth, Keeps.critStatus, Keeps.critRefuse, Keeps.critStarted, Keeps.crit, Keeps.settleMargin]

theorem keeps_execMarginFrequency (src) (e : execMarginFrequency src s = .next s') : Keeps s₀ s' :=
  .next e (h.marginOverride ..)

theorem keeps_execMarginOffset (src) (e : execMarginOffset src s = .next s') : Keeps s₀ s' := .next e (h.marginOverride ..)
theorem keeps_execMarginFreeze (src) (e : execMarginFreeze src s = .next s') : Keeps s₀ s' := .next e (h.marginOverride ..)
theorem keeps_execMarginRelease (src) (e : execMarginRelease src s = .next s') : Keeps s₀ s' := .next e (h.marginOverride ..)

theorem keeps_execMctpCrit (msg) (e : execMctpCrit msg s = .next s') : Keeps s₀ s' :=
  .next e (.ite h (Keeps.ite ((h.grgCtr ..).answerTo ..) ((h.grgCtr ..).updHealth ..)))

/-! #### The operations of Machine/Logic -/

theorem Keeps.lportXlate (n tenant va need) : Keeps s₀ (s.lportXlate n tenant va need).2 := by
  unfold State.lportXlate
  grind [Keeps.updLport, Keeps.lgcCtr, Keeps.service]

theorem Keeps.lportRange (n tenant va size need) : Keeps s₀ (s.lportRange n tenant va size need).2 := by
  unfold State.lportRange
  grind [Keeps.lportXlate]

theorem Keeps.oreqAccess (n tenant q op need) : Keeps s₀ (s.oreqAccess n tenant q op need) := by
  unfold State.oreqAccess
  grind [Keeps.issue, Keeps.orsp, Keeps.lportRange]

theorem Keeps.oreqRun (n p tenant q) : Keeps s₀ (s.oreqRun n p tenant q) := by
  unfold State.oreqRun
  split
  · exact h.oreqAccess ..
  · exact h.oreqAccess ..
  · exact h.oreqAccess ..
  · dsimp only
    split
    · exact h.orsp ..
    · split
      · exact h
      · exact h.getD (fun _ eq => h.torusMcast _ _ _ _ _ _ _ _ _ eq)
  · split
    · exact h
    · have sent := h.mcastSend (s.homeIo (n / 96)) q.group tenant q.addr.toNat (slice q.data 0 q.size) 1 n none (some (n, q.tag))
      split
      · next eq => rw [eq] at sent; exact sent
      · exact h
      · next eq => rw [eq] at sent; exact sent.orsp ..
  · exact .ite h (h.startCopy ..)
  · exact (h.updLport ..).lportFences ..
  · exact (h.updLport ..).lportFences ..

theorem keeps_execOreq (n q) (e : execOreq n q s = .next s') : Keeps s₀ s' := by
  unfold execOreq at e
  grind [Keeps.orsp, Keeps.oreqRun]

theorem Keeps.inboundFor (n itag go) (hgo : ∀ a s, Keeps s₀ s → Keeps s₀ (go a s)) : Keeps s₀ (s.inboundFor n itag go) := by
  unfold State.inboundFor
  grind [Keeps.updLport]

theorem keeps_execIrsp (n itag st data) (e : execIrsp n itag st data s = .next s') : Keeps s₀ s' := by
  unfold execIrsp at e
  grind [Keeps.updLport, Keeps.respond, Keeps.inboundFor]

theorem Keeps.lgcErr (r kind unit word) : Keeps s₀ (s.lgcErr r kind unit word) := h.updLgc ..

theorem keeps_execWindowTimeout (n itag) (e : execWindowTimeout n itag s = .next s') : Keeps s₀ s' := by
  unfold execWindowTimeout at e
  grind [Keeps.updLport, Keeps.lgcCtr, Keeps.respond, Keeps.inboundFor, Keeps.lgcErr]

theorem Keeps.putSections (dict secs) : Keeps s₀ (s.putSections dict secs) := by
  unfold State.putSections
  grind [Keeps.updRegion, Keeps.updLgc, Keeps.cfgCtr, Keeps.foldl]

theorem Keeps.stageBale (l bs) : Keeps s₀ (s.stageBale l bs) := by
  unfold State.stageBale
  grind [Keeps.updRegion, Keeps.endLoad, Keeps.putSections, Keeps.foldl, Keeps.with]

theorem keeps_execBaleStaged (k bale) (e : execBaleStaged k bale s = .next s') : Keeps s₀ s' := by
  unfold execBaleStaged at e
  grind [Keeps.endLoad, Keeps.fetchSpace, Keeps.stageBale]

theorem Keeps.commitRegion (r) : Keeps s₀ (s.commitRegion r) := ((h.isolate ..).updRegion ..).cfgCtr ..
theorem Keeps.commitClear (r) : Keeps s₀ (s.commitClear r) := ((h.emptyRegion ..).updRegion ..).cfgCtr ..

theorem keeps_execBaleCommit (k) (e : execBaleCommit k s = .next s') : Keeps s₀ s' := by
  unfold execBaleCommit at e
  grind [Keeps.finishWith, Keeps.endLoad, Keeps.commitRegion, Keeps.commitClear, Keeps.foldl, Keeps.with]

theorem keeps_execCommitWaitExpiry (k) (e : execCommitWaitExpiry k s = .next s') : Keeps s₀ s' := by
  unfold execCommitWaitExpiry at e
  grind [Keeps.endLoad]

theorem Keeps.chooseLoads : Keeps s₀ (s.chooseLoads) := by
  unfold State.chooseLoads
  grind [Keeps.cfgCtr, Keeps.foldl, Keeps.with]

theorem Keeps.expireJobs : Keeps s₀ (s.expireJobs) := by
  unfold State.expireJobs
  grind [Keeps.updHealth, Keeps.answerTo, Keeps.foldl]

theorem keeps_execGuardStart (e : execGuardStart s = .next s') : Keeps s₀ s' := by
  unfold execGuardStart at e
  grind [Keeps.updTick, Keeps.updHealth, Keeps.hltCtr, Keeps.stacksGuard, Keeps.wakeEdge, Keeps.settleMargin,
    Keeps.chooseLoads, Keeps.expireJobs]

theorem keeps_execConfigScrub (r upset) (e : execConfigScrub r upset s = .next s') : Keeps s₀ s' := by
  unfold execConfigScrub at e
  grind [Keeps.updRegion, Keeps.cfgCtr, Keeps.report, Keeps.cfgErr]

theorem Keeps.oscWrite (d n khz) (e : s.oscWrite d n khz = some s') : Keeps s₀ s' := by
  unfold State.oscWrite at e
  grind [Keeps.updLgc]

theorem keeps_execOscWrite (a d n khz) (e : execOscWrite a d n khz s = .next s') : Keeps s₀ s' := by
  unfold execOscWrite at e
  grind [Keeps.regWrite, Keeps.oscWrite]

theorem Keeps.hbWrite (d v) (e : s.hbWrite d v = some s') : Keeps s₀ s' := by
  unfold State.hbWrite at e
  grind [Keeps.updLgc]

theorem keeps_execHbOwnerWrite (a d v) (e : execHbOwnerWrite a d v s = .next s') : Keeps s₀ s' := by
  unfold execHbOwnerWrite at e
  grind [Keeps.regWrite, Keeps.hbWrite]

theorem keeps_execLgcClear (a d) (e : execLgcClear a d s = .next s') : Keeps s₀ s' := by
  unfold execLgcClear at e
  grind [Keeps.updLgc, Keeps.regWrite]

theorem keeps_execCfgClear (a d) (e : execCfgClear a d s = .next s') : Keeps s₀ s' := by
  unfold execCfgClear at e
  grind [Keeps.updLgc, Keeps.regWrite]

/-! #### The operations of Machine/Integrity -/

theorem Keeps.postEntry (r n) : Keeps s₀ (s.postEntry r n) := by
  unfold State.postEntry
  grind [Keeps.updInt, Keeps.ownerEvent]

theorem Keeps.logEntry (r) : Keeps s₀ (s.logEntry r) := (h.updInt ..).postEntry ..

theorem keeps_execErrorReport (i within) (e : execErrorReport i within s = .next s') : Keeps s₀ s' := by
  unfold execErrorReport at e
  grind [Keeps.updInt, Keeps.intCtr, Keeps.logEntry]

theorem keeps_execCeRateWindow (e : execCeRateWindow s = .next s') : Keeps s₀ s' := by
  unfold execCeRateWindow at e
  grind [Keeps.updInt, Keeps.logEntry, Keeps.foldl]

theorem keeps_execTransitRateWindow (e : execTransitRateWindow s = .next s') : Keeps s₀ s' :=
  .next e ((Keeps.ite (h.logEntry ..) h).updInt ..)

theorem keeps_execIntClear (a) (e : execIntClear a s = .next s') : Keeps s₀ s' := by
  unfold execIntClear at e
  grind [Keeps.updInt, Keeps.regWrite]

/-! #### The operations of Machine/Lanes -/

theorem Keeps.updLane (q k f) : Keeps s₀ (s.updLane q k f) := h.updLink ..

theorem Keeps.allLanes (q f) : Keeps s₀ (s.allLanes q f) := by
  unfold State.allLanes
  grind [Keeps.updLane, Keeps.foldl]

theorem Keeps.lnkErr (q kind lane) : Keeps s₀ (s.lnkErr q kind lane) := h.updLnkDie ..
theorem Keeps.portEvent (q code lane) : Keeps s₀ (s.portEvent q code lane) := h.grangerEvent ..
theorem Keeps.startAdapt (q) : Keeps s₀ (s.startAdapt q) := ((h.allLanes ..).updLink ..).lnkCtr ..
theorem Keeps.fullRetrain (q) : Keeps s₀ (s.fullRetrain q) := (h.updLink ..).startAdapt ..

theorem Keeps.startResync (q) : Keeps s₀ (s.startResync q) :=
  .ite (((h.updLink ..).allLanes ..).lnkCtr ..) ((h.updLink ..).allLanes ..)

theorem Keeps.portFailed (q) : Keeps s₀ (s.portFailed q) := by
  unfold State.portFailed
  grind [Keeps.updFport, Keeps.updLink, Keeps.capUpdate, Keeps.portDown, Keeps.lnkErr, Keeps.portEvent]

theorem keeps_execSignalDetect (q l) (e : execSignalDetect q l s = .next s') : Keeps s₀ s' :=
  .next e (.ite h (Keeps.ite ((h.updLane ..).startAdapt ..) (h.updLane ..)))

theorem keeps_execClockRecoveryLock (q l) (e : execClockRecoveryLock q l s = .next s') : Keeps s₀ s' := by
  unfold execClockRecoveryLock at e
  grind [Keeps.updLink, Keeps.updLane]

theorem keeps_execSlipTrial (q slips) (e : execSlipTrial q slips s = .next s') : Keeps s₀ s' := by
  unfold execSlipTrial at e
  grind [Keeps.free, Keeps.updLink, Keeps.updLane, Keeps.foldl]

theorem keeps_execPhaseTimeout (q) (e : execPhaseTimeout q s = .next s') : Keeps s₀ s' :=
  .next e (.ite h (Keeps.ite (((h.updLink ..).lnkErr ..).portFailed ..) (((h.updLink ..).lnkErr ..).updLink ..)))

theorem keeps_execAttemptRestart (q) (e : execAttemptRestart q s = .next s') : Keeps s₀ s' := .next e (.ite (h.startAdapt ..) h)

theorem Keeps.lanesChanged (q oldTx oldRx) : Keeps s₀ (s.lanesChanged q oldTx oldRx) := by
  unfold State.lanesChanged
  grind [Keeps.updFport, Keeps.portEvent]

theorem Keeps.peerFresh (q) : Keeps s₀ (s.peerFresh q) := ((Keeps.ite (h.portDown ..) h).updFport ..).updLink ..

theorem Keeps.replay (q) : Keeps s₀ (s.replay q) := by
  unfold State.replay
  grind [Keeps.free, Keeps.updLink, Keeps.foldl]

theorem Keeps.resume (q m changed) : Keeps s₀ (s.resume q m changed) := by
  unfold State.resume
  grind [Keeps.updLink, Keeps.lnkCtr, Keeps.drain, Keeps.sendHello, Keeps.peerFresh, Keeps.replay]

theorem keeps_execTrainingMarker (q l m) (e : execTrainingMarker q l m s = .next s') : Keeps s₀ s' := by
  unfold execTrainingMarker at e
  injection e with e
  subst e
  refine .ite h (.ite (.ite (h.startResync ..) ?_) (.ite h ?_))
  · have marked := h.updLink q (fun x => { x with lastMark := smSet x.lastMark l m })
    split
    · exact .ite (marked.updLink ..).capUpdate marked
    · exact marked
  · have marked := h.updLink q (fun x => { x with lastMark := smSet x.lastMark l m })
    split
    · exact marked
    · lift_lets
      extract_lets u named self changed s₁ s₂ s₃ s₄ y
      have h₁ : Keeps s₀ s₁ := marked.updLink ..
      have h₂ : Keeps s₀ s₂ := .ite ((h₁.lnkErr ..).portEvent ..) h₁
      have h₃ : Keeps s₀ s₃ := .ite (h₂.peerFresh ..) h₂
      have h₄ : Keeps s₀ s₄ := h₃.updLink ..
      exact .ite (h₄.fullRetrain ..) (.ite ((h₄.resume ..).lanesChanged ..).capUpdate h₄)

theorem Keeps.loseLane (q l) : Keeps s₀ (s.loseLane q l) := h.updLane ..

theorem keeps_execLaneLockLoss (q l) (e : execLaneLockLoss q l s = .next s') : Keeps s₀ s' := by
  unfold execLaneLockLoss at e
  grind [Keeps.capUpdate, Keeps.updLane, Keeps.lnkErr, Keeps.startResync, Keeps.loseLane]

theorem keeps_execErrorWindow (q) (e : execErrorWindow q s = .next s') : Keeps s₀ s' := by
  unfold execErrorWindow at e
  injection e with e
  subst e
  dsimp only
  (repeat' split) <;> grind [Keeps.updLink, Keeps.allLanes, Keeps.lnkErr, Keeps.startResync, Keeps.loseLane, Keeps.foldl, Keeps.with]

theorem keeps_execResyncTimeout (q) (e : execResyncTimeout q s = .next s') : Keeps s₀ s' :=
  .next e (.ite h ((((h.allLanes ..).updLink ..).lnkErr ..).lnkCtr ..))

theorem keeps_execFastRetrainTimeout (q) (e : execFastRetrainTimeout q s = .next s') : Keeps s₀ s' :=
  .next e (.ite (h.fullRetrain ..) h)

theorem Keeps.takeFrame (q f) : Keeps s₀ (s.takeFrame q f) := by
  unfold State.takeFrame
  grind [Keeps.kfbCtr, Keeps.kfbErr, Keeps.addParcel, Keeps.oweUnits, Keeps.deepExit]

theorem Keeps.takeUnits (q n) : Keeps s₀ (s.takeUnits q n) := by
  induction n generalizing s with
  | nil => exact h
  | cons a l ih =>
    unfold State.takeUnits
    (repeat' split) <;> grind [Keeps.updFport, Keeps.startResync, Keeps.takeFrame, Keeps.with]

theorem Keeps.measure (q trip) : Keeps s₀ (s.measure q trip) := h.updFport ..

theorem Keeps.freeRetry (q ack) : Keeps s₀ (s.freeRetry q ack) := by
  unfold State.freeRetry
  grind [Keeps.updFport, Keeps.updLink, Keeps.foldl]

theorem Keeps.takeAck (q ack) : Keeps s₀ (s.takeAck q ack) := by
  unfold State.takeAck
  grind [Keeps.updLink, Keeps.lnkCtr, Keeps.replay, Keeps.freeRetry]

theorem Keeps.countCorrected (q bytes) : Keeps s₀ (s.countCorrected q bytes) := by
  unfold State.countCorrected
  grind [Keeps.lnkCtr, Keeps.updLane, Keeps.foldl]

theorem Keeps.acceptBlock (q b) : Keeps s₀ (s.acceptBlock q b) := (((h.updLink ..).lnkCtr ..).updFport ..).takeUnits ..

theorem Keeps.answerBlock (q arrival turn) : Keeps s₀ (s.answerBlock q arrival turn) := by
  unfold State.answerBlock
  grind [Keeps.pushBlock, Keeps.fillUnits, Keeps.drain]

theorem keeps_execBlockReceive (q b clean errors arrival times)
    (e : execBlockReceive q b clean errors arrival times s = .next s') : Keeps s₀ s' := by
  unfold execBlockReceive at e
  grind [Keeps.updFport, Keeps.updLink, Keeps.lnkCtr, Keeps.measure, Keeps.takeAck, Keeps.countCorrected, Keeps.acceptBlock,
    Keeps.answerBlock]

theorem Keeps.portEnable (q on) : Keeps s₀ (s.portEnable q on) := by
  unfold State.portEnable
  grind [Keeps.updFport, Keeps.updLink, Keeps.capUpdate, Keeps.pruneBranch, Keeps.mcastAdvance, Keeps.allLanes,
    Keeps.startAdapt, Keeps.foldl]

theorem Keeps.ownerRetrain (q) : Keeps s₀ (s.ownerRetrain q) :=
  .ite ((Keeps.ite (((h.allLanes ..).stayOnAlt ..).updFport ..) (h.allLanes ..)).fullRetrain ..) h

theorem Keeps.lnkCtrlWrite (q v) (e : s.lnkCtrlWrite q v = some s') : Keeps s₀ s' := by
  unfold State.lnkCtrlWrite at e
  grind [Keeps.portEnable, Keeps.ownerRetrain]

theorem keeps_execPortEnable (a q on) (e : execPortEnable a q on s = .next s') : Keeps s₀ s' := by
  unfold execPortEnable at e
  grind [Keeps.regWrite, Keeps.lnkCtrlWrite]

theorem keeps_execRetrain (a q) (e : execRetrain a q s = .next s') : Keeps s₀ s' := by
  unfold execRetrain at e
  grind [Keeps.regWrite, Keeps.lnkCtrlWrite]

theorem Keeps.testWrite (q mode) (e : s.testWrite q mode = some s') : Keeps s₀ s' := by
  unfold State.testWrite at e
  grind [Keeps.updLink]

theorem keeps_execLoopbackSet (a q mode) (e : execLoopbackSet a q mode s = .next s') : Keeps s₀ s' := by
  unfold execLoopbackSet at e
  grind [Keeps.regWrite, Keeps.testWrite]

theorem Keeps.lnkClear (d) : Keeps s₀ (s.lnkClear d) := by
  unfold State.lnkClear
  grind [Keeps.updLink, Keeps.allLanes, Keeps.foldl]

theorem keeps_execLnkClear (a d) (e : execLnkClear a d s = .next s') : Keeps s₀ s' := by
  unfold execLnkClear at e
  grind [Keeps.regWrite, Keeps.lnkClear]

/-! #### The operations of Machine/Bringup -/

theorem Keeps.disableTile (t) : Keeps s₀ (s.disableTile t) := (h.updTile ..).updCtl ..

theorem Keeps.checkerFailed (u) : Keeps s₀ (s.checkerFailed u) := by
  unfold State.checkerFailed
  grind [Keeps.updStack, Keeps.updBup, Keeps.updHost, Keeps.report, Keeps.portEnable, Keeps.disableTile]

theorem Keeps.bringupFails (code) : Keeps s₀ (s.bringupFails code) := h.updBup ..
theorem Keeps.updFw (n g) : Keeps s₀ (s.updFw n g) := h.updBup ..
theorem Keeps.fwRuns (n) : Keeps s₀ (s.fwRuns n) := h.updFw ..

theorem Keeps.measureDies : Keeps s₀ (s.measureDies) := by
  unfold State.measureDies
  grind [Keeps.free, Keeps.updHealth, Keeps.updDie, Keeps.settleMargin, Keeps.foldl]

theorem keeps_execBringupCheckers (bad tested pll) (e : execBringupCheckers bad tested pll s = .next s') : Keeps s₀ s' := by
  unfold execBringupCheckers at e
  grind [Keeps.updStack, Keeps.updBup, Keeps.updInt, Keeps.checkerFailed, Keeps.bringupFails, Keeps.fwRuns, Keeps.measureDies,
    Keeps.foldl]

theorem Keeps.testPair (p) : Keeps s₀ (s.testPair p) := by
  unfold State.testPair
  grind [Keeps.updStack, Keeps.foldl]

theorem keeps_execTrainingComplete (e : execTrainingComplete s = .next s') : Keeps s₀ s' :=
  .next e (.ite h ((h.updBup ..).testPair ..))

theorem Keeps.testDone (k errs seconds) : Keeps s₀ (s.testDone k errs seconds) := by
  unfold State.testDone
  grind [Keeps.updStack, Keeps.updBup, Keeps.zeroMem, Keeps.losePch, Keeps.foldl]

theorem keeps_execMemtestPairDone (errs seconds) (e : execMemtestPairDone errs seconds s = .next s') : Keeps s₀ s' := by
  unfold execMemtestPairDone at e
  grind [Keeps.updBup, Keeps.testPair, Keeps.testDone]

theorem Keeps.countWaves : Keeps s₀ (s.countWaves) := .ite (h.updBup ..) h
theorem Keeps.wakeTile (t) : Keeps s₀ (s.wakeTile t) := .ite h (h.updCtl ..)

theorem keeps_execTileWaveStart (e : execTileWaveStart s = .next s') : Keeps s₀ s' := by
  unfold execTileWaveStart at e
  grind [Keeps.updBup, Keeps.countWaves, Keeps.wakeTile, Keeps.foldl]

theorem Keeps.tested (t) : Keeps s₀ (s.tested t) := .ite ((h.updCtl ..).capUpdate) h

theorem keeps_execTileSignature (t badCols bad) (e : execTileSignature t badCols bad s = .next s') : Keeps s₀ s' := by
  unfold execTileSignature at e
  grind [Keeps.updCtl, Keeps.settleResets, Keeps.disableTile, Keeps.countWaves, Keeps.tested]

theorem keeps_execWaveTimeout (w) (e : execWaveTimeout w s = .next s') : Keeps s₀ s' := by
  unfold execWaveTimeout at e
  grind [Keeps.disableTile, Keeps.countWaves, Keeps.foldl]

theorem Keeps.settleFw : Keeps s₀ (s.settleFw) := .ite (h.updFw ..) h

theorem keeps_execTileFirmwareFetched (t image) (e : execTileFirmwareFetched t image s = .next s') : Keeps s₀ s' :=
  .next e (.ite h (((((h.wr ..).bupCtr ..).updTile ..).updCtl ..).settleFw))

theorem keeps_execFwSlotSelected (e : execFwSlotSelected s = .next s') : Keeps s₀ s' := by
  unfold execFwSlotSelected at e
  grind [Keeps.updBup, Keeps.grangerEvent, Keeps.answerTo, Keeps.updFw, Keeps.settleFw]

theorem Keeps.enableEngines : Keeps s₀ (s.enableEngines) := by
  unfold State.enableEngines
  grind [Keeps.updTick, Keeps.updHost, Keeps.foldl]

theorem keeps_execCapabilityBuild (e : execCapabilityBuild s = .next s') : Keeps s₀ s' :=
  .next e (.ite h (h.capRewrite.enableEngines.updBup ..))

theorem keeps_execResetDrainLate (t) (e : execResetDrainLate t s = .next s') : Keeps s₀ s' := by
  unfold execResetDrainLate at e
  grind [Keeps.bupCtr, Keeps.grangerEvent, Keeps.reportKilled]

theorem Keeps.powerOffTiles (ts) : Keeps s₀ (s.powerOffTiles ts) := by
  unfold State.powerOffTiles
  grind [Keeps.settleResets, Keeps.advanceEpochs, Keeps.powerOff, Keeps.settleFw, Keeps.foldl]

theorem Keeps.parkCluster (c) (e : s.parkCluster c = some s') : Keeps s₀ s' := by
  unfold State.parkCluster at e
  grind [Keeps.updBup, Keeps.capUpdate, Keeps.powerOffTiles]

theorem Keeps.unparkCluster (c) : Keeps s₀ (s.unparkCluster c) := by
  unfold State.unparkCluster
  grind [Keeps.updBup, Keeps.countWaves, Keeps.wakeTile, Keeps.foldl]

theorem keeps_execClusterPark (a c) (e : execClusterPark a c s = .next s') : Keeps s₀ s' := by
  unfold execClusterPark at e
  grind [Keeps.regWrite, Keeps.parkCluster]

theorem keeps_execClusterWake (a c) (e : execClusterWake a c s = .next s') : Keeps s₀ s' := by
  unfold execClusterWake at e
  grind [Keeps.regWrite, Keeps.unparkCluster]

theorem Keeps.deepEnter : Keeps s₀ s.deepEnter := by
  unfold State.deepEnter
  refine ((((h.powerOffTiles ..).foldl _ (fun s e h => ?_)).foldl _ (fun s k h => ?_))).updBup ..
  · exact .ite ((h.isolate ..).updRegion ..) h
  · have kept := (h.updBup (fun b => { b with savedKeep := smSet b.savedKeep k (s.stack k).keep })).updStack k (fun x => { x with keep := 2 })
    exact .ite (kept.pasrSleep ..) kept

theorem Keeps.deepWrite (e : s.deepWrite = some s') : Keeps s₀ s' := by
  unfold State.deepWrite at e
  grind [Keeps.deepEnter]

theorem keeps_execDeepIdleEnter (a) (e : execDeepIdleEnter a s = .next s') : Keeps s₀ s' := by
  unfold execDeepIdleEnter at e
  grind [Keeps.regWrite, Keeps.deepWrite]

theorem keeps_execDeepIdleExit (cause) (e : execDeepIdleExit cause s = .next s') : Keeps s₀ s' := by
  unfold execDeepIdleExit at e
  grind [Keeps.regWrite, Keeps.deepExit]

theorem Keeps.bootCfgWrite (v) (e : s.bootCfgWrite v = some s') : Keeps s₀ s' := by
  unfold State.bootCfgWrite at e
  grind [Keeps.updBup]

theorem keeps_execBootCfgWrite (a v) (e : execBootCfgWrite a v s = .next s') : Keeps s₀ s' := by
  unfold execBootCfgWrite at e
  grind [Keeps.regWrite, Keeps.bootCfgWrite]

theorem keeps_execBupClear (a) (e : execBupClear a s = .next s') : Keeps s₀ s' := by
  unfold execBupClear at e
  grind [Keeps.updBup, Keeps.regWrite]

/-! #### The operations of Machine/Health -/

theorem Keeps.disableInService (t) : Keeps s₀ (s.disableInService t) :=
  ((((h.killTasks ..).updTile ..).disableTile ..).capUpdate).grangerEvent ..

theorem Keeps.zeroBank (t k) : Keeps s₀ (s.zeroBank t k) :=
  ⟨fun w => filter_wf _ _ (h.mem w), h.registry⟩

theorem Keeps.stepFails (t n) : Keeps s₀ (s.stepFails t n) := by
  unfold State.stepFails
  grind [Keeps.updCtl, Keeps.grangerEvent, Keeps.capUpdate, Keeps.disableInService, Keeps.zeroBank]

theorem Keeps.cycleDone (t) : Keeps s₀ (s.cycleDone t) := by
  unfold State.cycleDone
  grind [Keeps.updCtl, Keeps.updHealth]

theorem Keeps.stepOver (t n) : Keeps s₀ (s.stepOver t n) := (Keeps.ite ((h.updCtl ..).cycleDone ..) (h.updCtl ..)).updCtl ..

theorem Keeps.runSteps (t n) : Keeps s₀ (s.runSteps t n) := by
  induction n generalizing s with
  | nil => exact h
  | cons a l ih =>
    unfold State.runSteps
    (repeat' split) <;> grind [Keeps.updTile, Keeps.updCtl, Keeps.hltCtr, Keeps.stepFails, Keeps.stepOver, Keeps.with]

theorem keeps_execSelftestSlice (t steps) (e : execSelftestSlice t steps s = .next s') : Keeps s₀ s' :=
  .next e (.ite h (((h.updHealth ..).hltCtr ..).runSteps ..))

theorem Keeps.stRequest (cluster target) (e : s.stRequest cluster target = some s') : Keeps s₀ s' := by
  unfold State.stRequest at e
  grind [Keeps.updCtl, Keeps.updHealth, Keeps.foldl]

theorem keeps_execSelftestRequest (a cluster target) (e : execSelftestRequest a cluster target s = .next s') : Keeps s₀ s' := by
  unfold execSelftestRequest at e
  grind [Keeps.regWrite, Keeps.stRequest]

theorem keeps_execSelftestOverdue (t) (e : execSelftestOverdue t s = .next s') : Keeps s₀ s' := by
  unfold execSelftestOverdue at e
  grind [Keeps.updCtl, Keeps.grangerEvent]

theorem Keeps.unserviceable (r) : Keeps s₀ (s.unserviceable r) := (h.updHealth ..).grangerEvent ..

theorem Keeps.failStack (k) : Keeps s₀ (s.failStack k) := by
  unfold State.failStack
  grind [Keeps.updStack, Keeps.respond, Keeps.foldl]

theorem Keeps.serviceFailed (u) : Keeps s₀ (s.serviceFailed u) := by
  unfold State.serviceFailed
  grind [Keeps.report, Keeps.checkerFailed, Keeps.disableInService, Keeps.unserviceable, Keeps.failStack]

theorem keeps_execServiceCheckerTest (bad) (e : execServiceCheckerTest bad s = .next s') : Keeps s₀ s' := by
  unfold execServiceCheckerTest at e
  grind [Keeps.capUpdate, Keeps.serviceFailed, Keeps.foldl]

theorem Keeps.pollParity (r) : Keeps s₀ (s.pollParity r) := by
  unfold State.pollParity
  grind [Keeps.updCtl, Keeps.grangerEvent, Keeps.unserviceable]

theorem keeps_execParityPoll (e : execParityPoll s = .next s') : Keeps s₀ s' := by
  unfold execParityPoll at e
  grind [Keeps.pollParity, Keeps.foldl]

theorem Keeps.addSample (d v) : Keeps s₀ (s.addSample d v) := h.updDie ..

theorem Keeps.sampleDie (d v) : Keeps s₀ (s.sampleDie d v) :=
  .ite (((h.addSample ..).updHealth ..).grangerEvent ..) (h.addSample ..)

theorem keeps_execAgeingSample (slacks) (e : execAgeingSample slacks s = .next s') : Keeps s₀ s' := by
  unfold execAgeingSample at e
  grind [Keeps.sampleDie, Keeps.foldl]

theorem Keeps.replanDie (d) : Keeps s₀ (s.replanDie d) := by
  unfold State.replanDie
  grind [Keeps.free, Keeps.updHealth, Keeps.grangerEvent, Keeps.updDie]

theorem keeps_execMarginReplan (e : execMarginReplan s = .next s') : Keeps s₀ s' := by
  unfold execMarginReplan at e
  grind [Keeps.settleMargin, Keeps.replanDie, Keeps.foldl]

theorem keeps_execMarginApply (d) (e : execMarginApply d s = .next s') : Keeps s₀ s' :=
  .next e (.ite h (((((h.updDie ..).updHealth ..).hltCtr ..).grangerEvent ..).settleMargin))

theorem keeps_execMarginDeferTimeout (d) (e : execMarginDeferTimeout d s = .next s') : Keeps s₀ s' :=
  .next e (.ite (h.grangerEvent ..) h)

theorem keeps_execClockChange (e : execClockChange s = .next s') : Keeps s₀ s' := .next e (.ite h (h.updHealth ..))

theorem keeps_execPllLock (e : execPllLock s = .next s') : Keeps s₀ s' :=
  .next e (.ite (((h.updHealth ..).hltCtr ..).settleMargin) h)

theorem Keeps.updSelEv (k f) : Keeps s₀ (s.updSelEv k f) := .ite h (h.updHealth ..)

theorem keeps_execEvcClear (a k) (e : execEvcClear a k s = .next s') : Keeps s₀ s' := by
  unfold execEvcClear at e
  grind [Keeps.regWrite, Keeps.updSelEv]

theorem keeps_execHltClear (a) (e : execHltClear a s = .next s') : Keeps s₀ s' := by
  unfold execHltClear at e
  grind [Keeps.updHealth, Keeps.regWrite]

theorem Keeps.adopt (kind unit now) : Keeps s₀ (s.adopt kind unit now) := h.updHealth ..
theorem Keeps.logDisc (kind unit now copy epoch) : Keeps s₀ (s.logDisc kind unit now copy epoch) := (h.updHealth ..).grgCtr ..

theorem Keeps.pollUnit (u) : Keeps s₀ (s.pollUnit u) := by
  unfold State.pollUnit
  grind [Keeps.grangerEvent, Keeps.capUpdate, Keeps.adopt, Keeps.logDisc]

theorem Keeps.pollAll : Keeps s₀ (s.pollAll) := by
  unfold State.pollAll
  grind [Keeps.updHealth, Keeps.pollUnit, Keeps.foldl]

theorem keeps_execGrangerPoll (e : execGrangerPoll s = .next s') : Keeps s₀ s' := .next e (.ite h.pollAll h)

theorem keeps_execGrgClear (a) (e : execGrgClear a s = .next s') : Keeps s₀ s' := by
  unfold execGrgClear at e
  grind [Keeps.updHealth, Keeps.regWrite]

theorem keeps_execGrangerReturn (e : execGrangerReturn s = .next s') : Keeps s₀ s' := by
  unfold execGrangerReturn at e
  grind [Keeps.updBup, Keeps.grangerEvent, Keeps.capUpdate, Keeps.deepExit, Keeps.pollAll]

/-! #### The operations of Machine/Board -/

omit h in
theorem Keeps.powerLost : Keeps s₀ s.powerLost :=
  ⟨fun _ => rfl, fun _ => .powerLost s.keys⟩

theorem Keeps.railsOff : Keeps s₀ s.railsOff := .ite .powerLost h
theorem Keeps.tryPhase2 : Keeps s₀ (s.tryPhase2) := .ite (h.updBup ..) h

theorem keeps_execPwrGoodRise (p48) (e : execPwrGoodRise p48 s = .next s') : Keeps s₀ s' := by
  unfold execPwrGoodRise at e
  grind [Keeps.updBup, Keeps.updDie, Keeps.tryPhase2, Keeps.foldl, Keeps.with]

theorem keeps_execPwrGoodFall (e : execPwrGoodFall s = .next s') : Keeps s₀ s' := .next e (h.railsOff.with ..)
theorem keeps_execP48vDrop (e : execP48vDrop s = .next s') : Keeps s₀ s' := .next e (h.railsOff.with ..)
theorem Keeps.railFault : Keeps s₀ (s.railFault) := h.railsOff.with ..
theorem keeps_execRailFault (e : execRailFault s = .next s') : Keeps s₀ s' := .next e (.ite h.railFault h)
theorem keeps_execThermalTrip (e : execThermalTrip s = .next s') : Keeps s₀ s' := .next e (.ite ((h.with ..).railFault) h)

theorem Keeps.cutSlot : Keeps s₀ (s.cutSlot) := by
  unfold State.cutSlot
  grind [Keeps.free, Keeps.updFw]

theorem Keeps.grangerDown : Keeps s₀ (s.grangerDown) := by
  unfold State.grangerDown
  grind [Keeps.updBup, Keeps.updHealth]

theorem keeps_execAuxLoss (e : execAuxLoss s = .next s') : Keeps s₀ s' := .next e (.ite h (Keeps.with .powerLost ..))

theorem keeps_execModResetAssert (e : execModResetAssert s = .next s') : Keeps s₀ s' := by
  unfold execModResetAssert at e
  grind [Keeps.updBup, Keeps.cutSlot, Keeps.grangerDown, Keeps.with]

theorem Keeps.restartBringup : Keeps s₀ s.restartBringup := by
  unfold State.restartBringup
  exact ((h.reinit.with ..).foldl _ (fun _ _ h => (h.portEnable ..).portEnable ..)).updBup ..

theorem Keeps.booted : Keeps s₀ (s.booted) := by
  unfold State.booted
  grind [Keeps.updBup, Keeps.updFw, Keeps.fwRuns, Keeps.tryPhase2, Keeps.restartBringup]

theorem keeps_execModResetRelease (e : execModResetRelease s = .next s') : Keeps s₀ s' :=
  .next e (.ite h (Keeps.ite ((h.with ..).booted) (((h.with ..).bringupFails ..).updBup ..)))

theorem keeps_execBoardRecovery (target slot ver) (e : execBoardRecovery target slot ver s = .next s') : Keeps s₀ s' :=
  .next e (.ite h ((h.free 16).updFw ..))

/-! #### The operations of Machine/Registers -/

theorem keeps_onLo (lo f) (hf : ∀ a s', f a = some s' → Keeps s₀ s') (e : onLo s lo f = some s') : Keeps s₀ s' := by
  unfold onLo at e
  grind

theorem keeps_clearBit (lo f) (hf : ∀ s, Keeps s₀ s → Keeps s₀ (f s)) (e : clearBit s lo f = some s') : Keeps s₀ s' := by
  unfold clearBit at e
  grind

theorem Keeps.tckReg (o lo) (e : s.tckReg o lo = some s') : Keeps s₀ s' := by
  unfold State.tckReg at e
  grind [Keeps.updTick, Keeps.tckCtrlWrite, keeps_onLo]

theorem Keeps.intReg (o lo) (e : s.intReg o lo = some s') : Keeps s₀ s' := by
  unfold State.intReg at e
  grind [Keeps.updInt, keeps_onLo, keeps_clearBit]

theorem Keeps.parkWrite (n lo hi) (e : s.parkWrite n lo hi = some s') : Keeps s₀ s' := by
  refine Keeps.foldlOption _ (fun s b s' h e => ?_) h e
  split at e
  · exact h.parkCluster _ e
  · injection e with e
    subst e
    exact h.unparkCluster ..

theorem Keeps.bupReg (o lo hi) (e : s.bupReg o lo hi = some s') : Keeps s₀ s' := by
  unfold State.bupReg at e
  grind [Keeps.updBup, Keeps.deepExit, Keeps.deepWrite, Keeps.bootCfgWrite, keeps_onLo, keeps_clearBit, Keeps.parkWrite]

theorem Keeps.stCfgWrite (v) (e : s.stCfgWrite v = some s') : Keeps s₀ s' := by
  unfold State.stCfgWrite at e
  grind [Keeps.updHealth]

theorem Keeps.ageCfgWrite (v) (e : s.ageCfgWrite v = some s') : Keeps s₀ s' := by
  unfold State.ageCfgWrite at e
  grind [Keeps.updHealth]

theorem Keeps.evcWrite (k v) (e : s.evcWrite k v = some s') : Keeps s₀ s' := by
  unfold State.evcWrite at e
  grind [Keeps.updSelEv]

theorem Keeps.hltReg (o lo) (e : s.hltReg o lo = some s') : Keeps s₀ s' := by
  unfold State.hltReg at e
  grind [Keeps.updHealth, Keeps.stRequest, keeps_onLo, keeps_clearBit, Keeps.stCfgWrite, Keeps.ageCfgWrite, Keeps.evcWrite]

theorem Keeps.grgReg (o lo) (e : s.grgReg o lo = some s') : Keeps s₀ s' := by
  unfold State.grgReg at e
  grind [Keeps.updHealth, keeps_onLo, keeps_clearBit]

theorem Keeps.splitWrite (t v) (e : s.splitWrite t v = some s') : Keeps s₀ s' := by
  unfold State.splitWrite at e
  grind [Keeps.updTile]

theorem Keeps.glReg (t o lo hi) (e : s.glReg t o lo hi = some s') : Keeps s₀ s' := by
  unfold State.glReg at e
  grind [Keeps.updRouter, Keeps.glCtrlWrite, keeps_onLo]

theorem Keeps.tileRegWrite (t o lo hi) (e : s.tileRegWrite t o lo hi = some s') : Keeps s₀ s' := by
  unfold State.tileRegWrite at e
  grind [Keeps.updTile, Keeps.updRouter, Keeps.torClear, Keeps.glClear, keeps_onLo, keeps_clearBit, Keeps.splitWrite,
    Keeps.glReg]

theorem Keeps.pasrWrite (k v) (e : s.pasrWrite k v = some s') : Keeps s₀ s' := by
  unfold State.pasrWrite at e
  grind [Keeps.updStack, Keeps.pasrWake, Keeps.pasrSleep]

theorem Keeps.grnReg (k o lo hi) (e : s.grnReg k o lo hi = some s') : Keeps s₀ s' := by
  unfold State.grnReg at e
  grind [Keeps.updStack, Keeps.remapWrite, Keeps.resvWrite, keeps_onLo, keeps_clearBit, Keeps.pasrWrite]

theorem Keeps.hstReg (d o lo hi) (e : s.hstReg d o lo hi = some s') : Keeps s₀ s' := by
  unfold State.hstReg at e
  grind [Keeps.updHost, keeps_onLo, keeps_clearBit]

theorem Keeps.kfbEnable (d on) : Keeps s₀ (s.kfbEnable d on) := by
  unfold State.kfbEnable
  grind [Keeps.updKfb, Keeps.portUp, Keeps.sendHello, Keeps.foldl]

theorem Keeps.timersWrite (d v) (e : s.timersWrite d v = some s') : Keeps s₀ s' := by
  unfold State.timersWrite at e
  grind [Keeps.updKfb, Verdict.Keeps]

theorem Keeps.tickDownWrite (d v) : Keeps s₀ (s.tickDownWrite d v) := by
  unfold State.tickDownWrite
  grind [Keeps.updTick, Keeps.updKfb]

theorem Keeps.kfbReg (d o lo hi) (e : s.kfbReg d o lo hi = some s') : Keeps s₀ s' := by
  unfold State.kfbReg at e
  grind [Keeps.updKfb, Keeps.idWrite, keeps_onLo, keeps_clearBit, Keeps.kfbEnable, Keeps.timersWrite, Keeps.tickDownWrite,
    Verdict.Keeps]

theorem Keeps.lnkCfgWrite (d v) (e : s.lnkCfgWrite d v = some s') : Keeps s₀ s' := by
  unfold State.lnkCfgWrite at e
  grind [Keeps.updLnkDie]

theorem Keeps.lnkPortReg (q o lo) (e : s.lnkPortReg q o lo = some s') : Keeps s₀ s' := by
  unfold State.lnkPortReg at e
  grind [Keeps.updLane, Keeps.lnkCtrlWrite, Keeps.testWrite, keeps_onLo]

theorem Keeps.lnkReg (d o lo hi) (e : s.lnkReg d o lo hi = some s') : Keeps s₀ s' := by
  unfold State.lnkReg at e
  grind [Keeps.updLnkDie, Keeps.lnkClear, keeps_onLo, keeps_clearBit, Keeps.lnkCfgWrite, Keeps.lnkPortReg]

theorem Keeps.lgcReg (d o lo hi) (e : s.lgcReg d o lo hi = some s') : Keeps s₀ s' := by
  unfold State.lgcReg at e
  grind [Keeps.updLgc, Keeps.oscWrite, Keeps.hbWrite, keeps_onLo, keeps_clearBit]

theorem Keeps.setReg (o lo hi) (e : s.setReg o lo hi = some s') : Keeps s₀ s' := by
  unfold State.setReg at e
  split at e <;> grind [Keeps.tckReg, Keeps.intReg, Keeps.bupReg, Keeps.hltReg, Keeps.grgReg, Keeps.tileRegWrite,
      Keeps.grnReg, Keeps.hstReg, Keeps.kfbReg, Keeps.lnkReg, Keeps.lgcReg]

theorem Keeps.pageWrite (d f off wide v) : Keeps s₀ (s.pageWrite d f off wide v) := by
  unfold State.pageWrite
  grind [Keeps.updFunc, Keeps.refuse, Keeps.cfgDrop, Keeps.fnCtrl, Keeps.with]

theorem keeps_execRegisterWrite (a off wide v) (e : execRegisterWrite a off wide v s = .next s') : Keeps s₀ s' := by
  unfold execRegisterWrite at e
  grind [Keeps.regWrite, Keeps.setReg, Keeps.pageWrite]

theorem keeps_execArrClear (a t) (e : execArrClear a t s = .next s') : Keeps s₀ s' := by
  unfold execArrClear at e
  grind [Keeps.updTile, Keeps.regWrite]

theorem keeps_execVecClear (a t) (e : execVecClear a t s = .next s') : Keeps s₀ s' := by
  unfold execVecClear at e
  grind [Keeps.updTile, Keeps.regWrite]

theorem keeps_execMvpClear (a t) (e : execMvpClear a t s = .next s') : Keeps s₀ s' := by
  unfold execMvpClear at e
  grind [Keeps.updTile, Keeps.regWrite]

theorem keeps_execSeqClear (a t) (e : execSeqClear a t s = .next s') : Keeps s₀ s' := by
  unfold execSeqClear at e
  grind [Keeps.updTile, Keeps.regWrite]

theorem Keeps.firmwareOnly (t thr o u run) (hrun : ∀ a s, Keeps s₀ s → (run a s).Keeps s₀) :
    Keeps s₀ (s.firmwareOnly t thr o u run) := by
  unfold State.firmwareOnly
  grind [Keeps.issueAt, Verdict.Keeps, illegal]

theorem keeps_execFget (t thr) (e : execFget t thr s = .next s') : Keeps s₀ s' := by
  unfold execFget at e
  grind [Keeps.setG, Keeps.firmwareOnly, Verdict.Keeps]

theorem keeps_execFset (t thr) (e : execFset t thr s = .next s') : Keeps s₀ s' := by
  unfold execFset at e
  injection e with e
  subst e
  refine h.firmwareOnly _ _ _ _ _ (fun w s h => ?_)
  exact Keeps.ite (h.getD (fun _ eq => h.tileRegWrite _ _ _ _ eq)) h

theorem keeps_execFend (t thr) (e : execFend t thr s = .next s') : Keeps s₀ s' := by
  unfold execFend at e
  grind [Keeps.endFirmware, Keeps.firmwareOnly, Verdict.Keeps]

/-! #### The operations of Machine/Step -/

theorem Keeps.withFetchWord (nbits w) : Keeps s₀ (s.withFetchWord nbits w) := by
  unfold State.withFetchWord
  grind [Keeps.with]

end

/-- Every command that completes keeps the invariants. -/
theorem keeps_exec {s s' : State} (c : Instr) (e : exec c s = .next s') : Keeps s s' := by
  have h := Keeps.refl s
  cases c with
  | tickEnable => exact keeps_execTickEnable h _ e
  | clearStats => exact keeps_execClearStats h _ e
  | tickEdge => exact keeps_execTickEdge h _ e
  | guardStart => exact keeps_execGuardStart h e
  | deadlineEdge => exact keeps_execDeadlineEdge h _ e
  | tickMarker => exact keeps_execTickMarker h _ _ _ e
  | holdoverEntry => exact keeps_execHoldoverEntry h e
  | freeRunEntry => exact keeps_execFreeRunEntry h e
  | barrierShareClose => exact keeps_execBarrierShareClose h _ _ _ e
  | barrierReport => exact keeps_execBarrierReport h _ e
  | barrierClose => exact keeps_execBarrierClose h _ _ e
  | tickParam => exact keeps_execTickParam h _ e
  | amm => exact keeps_execAmm h _ _ e
  | adrn => exact keeps_execAdrn h _ _ e
  | acbl => exact keeps_execAcbl h _ _ e
  | ahist => exact keeps_execAhist h _ _ e
  | abar => exact keeps_execAbar h _ _ e
  | arrayEntryStart => exact keeps_execArrayEntryStart h _ _ e
  | arrayEntryComplete => exact keeps_execArrayEntryComplete h _ _ e
  | arrClear => exact keeps_execArrClear h _ _ e
  | mvm => exact keeps_execMvm h _ _ e
  | mbar => exact keeps_execMbar h _ _ e
  | mvpEntryStart => exact keeps_execMvpEntryStart h _ e
  | mvpEntryComplete => exact keeps_execMvpEntryComplete h _ _ e
  | vecClear => exact keeps_execVecClear h _ _ e
  | mvpClear => exact keeps_execMvpClear h _ _ e
  | vadd => exact keeps_execVadd h _ _ e
  | vsub => exact keeps_execVsub h _ _ e
  | vmul => exact keeps_execVmul h _ _ e
  | vfma => exact keeps_execVfma h _ _ e
  | vmin => exact keeps_execVmin h _ _ e
  | vmax => exact keeps_execVmax h _ _ e
  | vcmp => exact keeps_execVcmp h _ _ e
  | vsel => exact keeps_execVsel h _ _ e
  | vcvt => exact keeps_execVcvt h _ _ e
  | vql8 => exact keeps_execVql8 h _ _ e
  | vdl8 => exact keeps_execVdl8 h _ _ e
  | vsf => exact keeps_execVsf h _ _ e
  | vbit => exact keeps_execVbit h _ _ e
  | vshf => exact keeps_execVshf h _ _ e
  | vred => exact keeps_execVred h _ _ e
  | vperm => exact keeps_execVperm h _ _ e
  | vxln => exact keeps_execVxln h _ _ e
  | vbf2 => exact keeps_execVbf2 h _ _ e
  | vbf4 => exact keeps_execVbf4 h _ _ e
  | vput => exact keeps_execVput h _ _ e
  | vget => exact keeps_execVget h _ _ e
  | vld => exact keeps_execVld h _ _ e
  | vst => exact keeps_execVst h _ _ e
  | vldl => exact keeps_execVldl h _ _ e
  | vstl => exact keeps_execVstl h _ _ e
  | vag => exact keeps_execVag h _ _ e
  | vagrd => exact keeps_execVagrd h _ _ e
  | vrset => exact keeps_execVrset h _ _ e
  | vrget => exact keeps_execVrget h _ _ e
  | vrand => exact keeps_execVrand h _ _ e
  | vsample => exact keeps_execVsample h _ _ e
  | vsred => exact keeps_execVsred h _ _ e
  | vtopk => exact keeps_execVtopk h _ _ e
  | vtopp => exact keeps_execVtopp h _ _ e
  | vtops => exact keeps_execVtops h _ _ e
  | rep => exact keeps_execRep h _ _ e
  | add => exact keeps_execAdd h _ _ e
  | sub => exact keeps_execSub h _ _ e
  | mul => exact keeps_execMul h _ _ e
  | mulh => exact keeps_execMulh h _ _ e
  | and => exact keeps_execAnd h _ _ e
  | or => exact keeps_execOr h _ _ e
  | xor => exact keeps_execXor h _ _ e
  | shl => exact keeps_execShl h _ _ e
  | shr => exact keeps_execShr h _ _ e
  | sar => exact keeps_execSar h _ _ e
  | min => exact keeps_execMin h _ _ e
  | max => exact keeps_execMax h _ _ e
  | movhi => exact keeps_execMovhi h _ _ e
  | cmp => exact keeps_execCmp h _ _ e
  | sel => exact keeps_execSel h _ _ e
  | br => exact keeps_execBr h _ _ e
  | jr => exact keeps_execJr h _ _ e
  | loop => exact keeps_execLoop h _ _ e
  | call => exact keeps_execCall h _ _ e
  | plog => exact keeps_execPlog h _ _ e
  | ld => exact keeps_execLd h _ _ e
  | st => exact keeps_execSt h _ _ e
  | atom => exact keeps_execAtom h _ _ e
  | fence => exact keeps_execFence h _ _ e
  | spost => exact keeps_execSpost h _ _ e
  | swait => exact keeps_execSwait h _ _ e
  | tread => exact keeps_execTread h _ _ e
  | twait => exact keeps_execTwait h _ _ e
  | texit => exact keeps_execTexit h _ _ e
  | tend => exact keeps_execTend h _ _ e
  | fget => exact keeps_execFget h _ _ e
  | fset => exact keeps_execFset h _ _ e
  | fend => exact keeps_execFend h _ _ e
  | launch => exact keeps_execLaunch h _ e
  | taskStart => exact keeps_execTaskStart h _ e
  | taskPrepared => exact keeps_execTaskPrepared h _ _ _ e
  | startReport => exact keeps_execStartReport h _ e
  | missNotice => exact keeps_execMissNotice h _ e
  | missReturn => exact keeps_execMissReturn h _ _ e
  | threadSwitch => exact keeps_execThreadSwitch h _ _ e
  | taskReport => exact keeps_execTaskReport h _ e
  | completionReport => exact keeps_execCompletionReport h _ e
  | firmwareEntry => exact keeps_execFirmwareEntry h _ e
  | seqClear => exact keeps_execSeqClear h _ _ e
  | sarm => exact keeps_execSarm h _ _ e
  | srearm => exact keeps_execSrearm h _ _ e
  | swaitb => exact keeps_execSwaitb h _ _ e
  | srel => exact keeps_execSrel h _ _ e
  | spush => exact keeps_execSpush h _ _ e
  | sskip => exact keeps_execSskip h _ _ e
  | sflush => exact keeps_execSflush h _ _ e
  | sstop => exact keeps_execSstop h _ _ e
  | sstat => exact keeps_execSstat h _ _ e
  | streamInject => exact keeps_execStreamInject h _ _ e
  | streamReadResponse => exact keeps_execStreamReadResponse h _ _ _ e
  | linkHalf => exact keeps_execLinkHalf h _ e
  | linkCredit => exact keeps_execLinkCredit h _ e
  | linkEnd => exact keeps_execLinkEnd h _ e
  | linkAbort => exact keeps_execLinkAbort h _ e
  | linkClose => exact keeps_execLinkClose h _ e
  | translationRequest => exact keeps_execTranslationRequest h _ e
  | translationResponse => exact keeps_execTranslationResponse h _ e
  | strClear => exact keeps_execStrClear h _ _ e
  | wpred => exact keeps_execWpred h _ _ e
  | wchk => exact keeps_execWchk h _ _ e
  | wtent => exact keeps_execWtent h _ _ e
  | wwait => exact keeps_execWwait h _ _ e
  | wpeek => exact keeps_execWpeek h _ _ e
  | wspec => exact keeps_execWspec h _ _ e
  | wbound => exact keeps_execWbound h _ _ e
  | winnowJobStart => exact keeps_execWinnowJobStart h _ _ e
  | winnowPredictionDone => exact keeps_execWinnowPredictionDone h _ e
  | winnowCheckDone => exact keeps_execWinnowCheckDone h _ e
  | commit => exact keeps_execCommit h _ e
  | squash => exact keeps_execSquash h _ e
  | winClear => exact keeps_execWinClear h _ _ e
  | read => exact keeps_execRead h _ e
  | write => exact keeps_execWrite h _ e
  | atomic => exact keeps_execAtomic h _ e
  | mcastWrite => exact keeps_execMcastWrite h _ e
  | readRsp => exact keeps_execReadRsp h _ e
  | writeAck => exact keeps_execWriteAck h _ e
  | atomicRsp => exact keeps_execAtomicRsp h _ e
  | mcastAck => exact keeps_execMcastAck h _ e
  | packetForward => exact keeps_execPacketForward h _ _ _ e
  | accessTimeout => exact keeps_execAccessTimeout h _ e
  | torClear => exact keeps_execTorClear h _ _ e
  | glClear => exact keeps_execGlClear h _ _ e
  | gleanerEnable => exact keeps_execGleanerEnable h _ _ _ e
  | granaryTraining => exact keeps_execGranaryTraining h _ _ _ e
  | pchAccess => exact keeps_execPchAccess h _ _ _ _ e
  | refreshDue => exact keeps_execRefreshDue h _ _ e
  | refreshRepay => exact keeps_execRefreshRepay h _ _ e
  | nrefBudgetGain => exact keeps_execNrefBudgetGain h _ _ e
  | rowClose => exact keeps_execRowClose h _ _ _ e
  | stackTempRead => exact keeps_execStackTempRead h _ _ e
  | recentre => exact keeps_execRecentre h _ _ _ _ _ e
  | trainingRecovery => exact keeps_execTrainingRecovery h _ _ _ _ e
  | remapRequest => exact keeps_execRemapRequest h _ _ _ e
  | remapActivate => exact keeps_execRemapActivate h _ e
  | pasrEnter => exact keeps_execPasrEnter h _ _ e
  | pasrExit => exact keeps_execPasrExit h _ _ e
  | scrubRow => exact keeps_execScrubRow h _ e
  | reservationWrite => exact keeps_execReservationWrite h _ _ _ _ e
  | grnClear => exact keeps_execGrnClear h _ _ e
  | blockReceive => exact keeps_execBlockReceive h _ _ _ _ _ _ e
  | frameForward => exact keeps_execFrameForward h _ e
  | adaptiveEscape => exact keeps_execAdaptiveEscape h _ e
  | flowFrame => exact keeps_execFlowFrame h _ e
  | flowResponse => exact keeps_execFlowResponse h _ e
  | seqNack => exact keeps_execSeqNack h _ e
  | e2eTimeout => exact keeps_execE2eTimeout h _ e
  | flowDead => exact keeps_execFlowDead h _ e
  | flowIdleClose => exact keeps_execFlowIdleClose h _ e
  | flowClose => exact keeps_execFlowClose h _ e
  | flowCloseAck => exact keeps_execFlowCloseAck h _ e
  | readRetry => exact keeps_execReadRetry h _ _ e
  | copyBlock => exact keeps_execCopyBlock h _ _ e
  | fabricMcastWrite => exact keeps_execFabricMcastWrite h _ e
  | fabricMcastAck => exact keeps_execFabricMcastAck h _ e
  | mcastReportTimeout => exact keeps_execMcastReportTimeout h _ e
  | portHeld => exact keeps_execPortHeld h _ e
  | holdExpiry => exact keeps_execHoldExpiry h _ e
  | portReturnUp => exact keeps_execPortReturnUp h _ e
  | pathSettle => exact keeps_execPathSettle h _ e
  | redPart => exact keeps_execRedPart h _ e
  | redCredit => exact keeps_execRedCredit h _ e
  | redResult => exact keeps_execRedResult h _ e
  | reduceTimeout => exact keeps_execReduceTimeout h _ e
  | linkHello => exact keeps_execLinkHello h _ e
  | kfbModuleId => exact keeps_execKfbModuleId h _ _ _ e
  | kfbClear => exact keeps_execKfbClear h _ _ e
  | signalDetect => exact keeps_execSignalDetect h _ _ e
  | phaseTimeout => exact keeps_execPhaseTimeout h _ e
  | attemptRestart => exact keeps_execAttemptRestart h _ e
  | slipTrial => exact keeps_execSlipTrial h _ _ e
  | trainingMarker => exact keeps_execTrainingMarker h _ _ _ e
  | laneLockLoss => exact keeps_execLaneLockLoss h _ _ e
  | errorWindow => exact keeps_execErrorWindow h _ e
  | resyncTimeout => exact keeps_execResyncTimeout h _ e
  | fastRetrainTimeout => exact keeps_execFastRetrainTimeout h _ e
  | retrain => exact keeps_execRetrain h _ _ e
  | portEnable => exact keeps_execPortEnable h _ _ _ e
  | loopbackSet => exact keeps_execLoopbackSet h _ _ _ e
  | lnkClear => exact keeps_execLnkClear h _ _ e
  | doorbellPoll => exact keeps_execDoorbellPoll h _ _ _ e
  | descriptorFetched => exact keeps_execDescriptorFetched h _ _ e
  | task => exact keeps_execTask h _ e
  | copy => exact keeps_execCopy h _ e
  | mcast => exact keeps_execMcast h _ _ e
  | reduce => exact keeps_execReduce h _ e
  | xinv => exact keeps_execXinv h _ e
  | nop => exact keeps_execNop h _ e
  | ringCreate => exact keeps_execRingCreate h _ e
  | ringDestroy => exact keeps_execRingDestroy h _ e
  | loadBale => exact keeps_execLoadBale h _ e
  | tileReset => exact keeps_execTileReset h _ e
  | clusterReset => exact keeps_execClusterReset h _ e
  | partitionReset => exact keeps_execPartitionReset h _ e
  | moduleReset => exact keeps_execModuleReset h _ e
  | fwUpdate => exact keeps_execFwUpdate h _ _ e
  | assignBind => exact keeps_execAssignBind h _ e
  | assignUnbind => exact keeps_execAssignUnbind h _ e
  | assignPartition => exact keeps_execAssignPartition h _ e
  | releasePartition => exact keeps_execReleasePartition h _ e
  | definePartition => exact keeps_execDefinePartition h _ e
  | tableUpdate => exact keeps_execTableUpdate h _ _ e
  | keyChange => exact keeps_execKeyChange h _ e
  | marginFrequency => exact keeps_execMarginFrequency h _ e
  | marginOffset => exact keeps_execMarginOffset h _ e
  | marginFreeze => exact keeps_execMarginFreeze h _ e
  | marginRelease => exact keeps_execMarginRelease h _ e
  | mctpCrit => exact keeps_execMctpCrit h _ e
  | functionLevelReset => exact keeps_execFunctionLevelReset h _ _ e
  | busMasterClear => exact keeps_execBusMasterClear h _ _ e
  | hostLinkDown => exact keeps_execHostLinkDown h _ e
  | vfEnableClear => exact keeps_execVfEnableClear h _ e
  | functionDisable => exact keeps_execFunctionDisable h _ _ e
  | functionEnable => exact keeps_execFunctionEnable h _ _ _ e
  | functionStopDone => exact keeps_execFunctionStopDone h _ _ e
  | hstClear => exact keeps_execHstClear h _ _ e
  | baleStaged => exact keeps_execBaleStaged h _ _ e
  | baleCommit => exact keeps_execBaleCommit h _ e
  | commitWaitExpiry => exact keeps_execCommitWaitExpiry h _ e
  | configScrub => exact keeps_execConfigScrub h _ _ e
  | oreq => exact keeps_execOreq h _ _ e
  | irsp => exact keeps_execIrsp h _ _ _ _ e
  | windowTimeout => exact keeps_execWindowTimeout h _ _ e
  | oscWrite => exact keeps_execOscWrite h _ _ _ _ e
  | hbOwnerWrite => exact keeps_execHbOwnerWrite h _ _ _ e
  | lgcClear => exact keeps_execLgcClear h _ _ e
  | cfgClear => exact keeps_execCfgClear h _ _ e
  | errorReport => exact keeps_execErrorReport h _ _ e
  | ceRateWindow => exact keeps_execCeRateWindow h e
  | transitRateWindow => exact keeps_execTransitRateWindow h e
  | intClear => exact keeps_execIntClear h _ e
  | pwrGoodRise => exact keeps_execPwrGoodRise h _ e
  | pwrGoodFall => exact keeps_execPwrGoodFall h e
  | p48vDrop => exact keeps_execP48vDrop h e
  | auxLoss => exact keeps_execAuxLoss h e
  | railFault => exact keeps_execRailFault h e
  | thermalTrip => exact keeps_execThermalTrip h e
  | modResetAssert => exact keeps_execModResetAssert h e
  | modResetRelease => exact keeps_execModResetRelease h e
  | bringupCheckers => exact keeps_execBringupCheckers h _ _ _ e
  | trainingComplete => exact keeps_execTrainingComplete h e
  | memtestPairDone => exact keeps_execMemtestPairDone h _ _ e
  | tileWaveStart => exact keeps_execTileWaveStart h e
  | tileSignature => exact keeps_execTileSignature h _ _ _ e
  | waveTimeout => exact keeps_execWaveTimeout h _ e
  | capabilityBuild => exact keeps_execCapabilityBuild h e
  | tileFirmwareFetched => exact keeps_execTileFirmwareFetched h _ _ e
  | resetDrainLate => exact keeps_execResetDrainLate h _ e
  | clusterPark => exact keeps_execClusterPark h _ _ e
  | clusterWake => exact keeps_execClusterWake h _ _ e
  | deepIdleEnter => exact keeps_execDeepIdleEnter h _ e
  | deepIdleExit => exact keeps_execDeepIdleExit h _ e
  | bootCfgWrite => exact keeps_execBootCfgWrite h _ _ e
  | bupClear => exact keeps_execBupClear h _ e
  | grangerReturn => exact keeps_execGrangerReturn h e
  | selftestSlice => exact keeps_execSelftestSlice h _ _ e
  | selftestRequest => exact keeps_execSelftestRequest h _ _ _ e
  | selftestOverdue => exact keeps_execSelftestOverdue h _ e
  | serviceCheckerTest => exact keeps_execServiceCheckerTest h _ e
  | parityPoll => exact keeps_execParityPoll h e
  | ageingSample => exact keeps_execAgeingSample h _ e
  | marginReplan => exact keeps_execMarginReplan h e
  | marginApply => exact keeps_execMarginApply h _ e
  | marginDeferTimeout => exact keeps_execMarginDeferTimeout h _ e
  | clockChange => exact keeps_execClockChange h e
  | pllLock => exact keeps_execPllLock h e
  | evcClear => exact keeps_execEvcClear h _ _ e
  | hltClear => exact keeps_execHltClear h _ e
  | grangerPoll => exact keeps_execGrangerPoll h e
  | grgClear => exact keeps_execGrgClear h _ e
  | registerWrite => exact keeps_execRegisterWrite h _ _ _ _ e
  | clockRecoveryLock => exact keeps_execClockRecoveryLock h _ _ e
  | hostLinkUp => exact keeps_execHostLinkUp h _ _ _ e
  | fwSlotSelected => exact keeps_execFwSlotSelected h e
  | recentreOverdue => exact keeps_execRecentreOverdue h _ _ e
  | boardRecovery => exact keeps_execBoardRecovery h _ _ _ e

/-- Every step keeps the invariants: it runs a command, or leaves the state as it is (log entry 2). -/
theorem keeps_step {s s' : State} (e : step s = .next s') : Keeps s s' := by
  cases waiting : s.pending with
  | nil =>
    rw [step_of_pending_nil waiting] at e
    exact .next e (.refl s)
  | cons c rest =>
    rw [step_of_pending_cons waiting] at e
    have ran := keeps_exec c e
    exact ⟨ran.mem, ran.registry⟩

/-- Settles O58, by `keeps_step`: every command keeps the canonical form of memory. -/
theorem stepKeepsMemoryCanonical : Obligations.StepKeepsMemoryCanonical := by
  unfold Obligations.StepKeepsMemoryCanonical
  exact fun _ _ canonical e => (keeps_step e).mem canonical

/-- Settles O59, by `keeps_step`: every command keeps the registry of key slots and partitions. -/
theorem stepKeepsCountersAndPartitions : Obligations.StepKeepsCountersAndPartitions := by
  unfold Obligations.StepKeepsCountersAndPartitions
  rintro inv s s' ⟨below, apart⟩ e
  obtain ⟨below', apart'⟩ := (keeps_step e).registry ⟨below, apart⟩
  exact ⟨below', apart'⟩

/-- Settles O60: after reset memory is empty, the one key slot in use has taken no command, and there is no partition. -/
theorem resetMeetsTheInvariants : Obligations.ResetMeetsTheInvariants := by
  unfold Obligations.ResetMeetsTheInvariants
  refine ⟨rfl, fun k => ?_, fun _ _ _ => PartRec.apart_empty _⟩
  simp only [State.keySlot, State.reset, smGetD, smGet]
  split <;> exact le_rfl

end Sys2Proof.Machine

namespace Sys2Proof.Machine

/-! ### Register writes that reach their block, and refused ones (R42 to R44, R719) -/

section
variable {s s' : State} {a : Agent} {off : Nat} {f : State → Option State}

/-- A write that reaches its block and is taken. -/
theorem State.regWrite_taken (h : Writable s a off) (e : f s = some s') : s.regWrite a off f = { s' with answer := .ok } := by
  simp [State.regWrite, h.up, h.free, h.reaches, h.block, e]

/-- A write by an agent that is up is refused where the agent may not reach the block, the block is not up, or `f` takes nothing. -/
theorem State.regWrite_refused (up : s.agentUp a = true) (free : s.regHeld a off = false)
    (e : a.reaches off = false ∨ s.blockUp off = false ∨ f s = none) : s.regWrite a off f = s.refuse a := by
  unfold State.regWrite
  rw [if_neg (by simp [up, free])]
  rcases e with e | e | e
  · rw [if_pos (by simp [e])]
  · rw [if_pos (by simp [e])]
  · rw [e]
    exact ite_self _

/-- A refusal answers a bus error, and HST_ERR of an owner's port notes the dropped write (R42, R545). -/
theorem State.refuse_spec (notPage : ∀ port fn, a ≠ .page port fn) :
    s.refuse a = { s with host := (s.refuse a).host, answer := .busError } ∧
    (∀ d, a = .owner d → (s.hostDie d).err.getLsbD 63 = false → ((s.refuse a).hostDie d).err = BitVec.ofNat 64 (2 ^ 63 + 2 ^ 56)) ∧
    ((∀ d, a ≠ .owner d) → (s.refuse a).host = s.host) := by
  cases a with
  | owner d =>
    refine ⟨rfl, fun d' same clear => ?_, fun other => absurd rfl (other d)⟩
    cases same
    have noted : ((s.refuse (.owner d)).hostDie d).err = firstErr (s.hostDie d).err (BitVec.ofNat 64 (1 * 2 ^ 56)) :=
      congrArg HostDie.err (smGetD_smUpd_same s.host d {} (fun h => { h with err := firstErr h.err (BitVec.ofNat 64 (1 * 2 ^ 56)) }))
    rw [noted, firstErr, clear]
    rfl
  | granger =>
    refine ⟨rfl, fun d same => ?_, fun _ => rfl⟩
    cases same
  | page d fn => exact absurd rfl (notPage d fn)
  | tileFw t =>
    refine ⟨rfl, fun d same => ?_, fun _ => rfl⟩
    cases same
end

/-! ### TCK_CTRL (R48, R52, R74, R75) -/

/-- What the fields of TCK_CTRL are when it is written back with one more of the bits enable and clear_stats set. -/
theorem ctrl_fields (enable : Bool) (role : BitVec 2) (upstream : BitVec 5) :
    let w := BitVec.ofNat 32 (b2n enable + role.toNat * 4 + upstream.toNat * 256)
    (BitVec.ofNat 2 (bits (w ||| 1#32).toNat 3 2) = role ∧ BitVec.ofNat 5 (bits (w ||| 1#32).toNat 12 8) = upstream ∧
      (w ||| 1#32).getLsbD 0 = true ∧ (w ||| 1#32).getLsbD 4 = false) ∧
    BitVec.ofNat 2 (bits (w ||| 16#32).toNat 3 2) = role ∧ BitVec.ofNat 5 (bits (w ||| 16#32).toNat 12 8) = upstream ∧
      (w ||| 16#32).getLsbD 0 = enable ∧ (w ||| 16#32).getLsbD 4 = true := by
  revert enable role upstream
  decide

section
variable {s : State}

theorem Tick.ctrl_set_enable (t : Tick) : BitVec.ofNat 2 (bits (t.ctrl ||| 1#32).toNat 3 2) = t.role ∧
    BitVec.ofNat 5 (bits (t.ctrl ||| 1#32).toNat 12 8) = t.upstream ∧ (t.ctrl ||| 1#32).getLsbD 0 = true ∧
    (t.ctrl ||| 1#32).getLsbD 4 = false := (ctrl_fields t.enable t.role t.upstream).1

theorem Tick.ctrl_clear_stats (t : Tick) : BitVec.ofNat 2 (bits (t.ctrl ||| 16#32).toNat 3 2) = t.role ∧
    BitVec.ofNat 5 (bits (t.ctrl ||| 16#32).toNat 12 8) = t.upstream ∧ (t.ctrl ||| 16#32).getLsbD 0 = t.enable ∧
    (t.ctrl ||| 16#32).getLsbD 4 = true := (ctrl_fields t.enable t.role t.upstream).2

/-- Enable written to an idle module that is Off: the state of its role. -/
theorem State.tckCtrlWrite_enable (role : s.tick.role ≠ 3) (off : s.tick.enable = false) (idle : s.anyBusy = false) :
    s.tckCtrlWrite (s.tick.ctrl ||| 1#32) = some { s with tick := { s.tick with
      enable := true, adopted := false, goodRun := 0, missed := 0, markerSeen := false, depth := 0, state := roleState s.tick.role } } := by
  obtain ⟨hr, hu, he, hc⟩ := s.tick.ctrl_set_enable
  have notReserved : ¬ s.tick.role = 3#2 := role
  simp only [State.tckCtrlWrite, hr, hu, he, hc]
  simp [notReserved, off, idle]

/-- Enable written again changes nothing. -/
theorem State.tckCtrlWrite_enabled (role : s.tick.role ≠ 3) (on : s.tick.enable = true) :
    s.tckCtrlWrite (s.tick.ctrl ||| 1#32) = some s := by
  obtain ⟨hr, hu, he, hc⟩ := s.tick.ctrl_set_enable
  have same : ({ s.tick with enable := s.tick.enable } : Tick) = s.tick := rfl
  rw [on] at same
  have notReserved : ¬ s.tick.role = 3#2 := role
  simp only [State.tckCtrlWrite, hr, hu, he, hc]
  simp [notReserved, on, same]

/-- clear_stats written while the tick is enabled. -/
theorem State.tckCtrlWrite_clear_enabled (role : s.tick.role ≠ 3) (on : s.tick.enable = true) :
    s.tckCtrlWrite (s.tick.ctrl ||| 16#32) = some { s with tick := s.tick.clearStats } := by
  obtain ⟨hr, hu, he, hc⟩ := s.tick.ctrl_clear_stats
  have same : ({ s.tick.clearStats with role := s.tick.role, upstream := s.tick.upstream, enable := s.tick.enable } : Tick) =
      s.tick.clearStats := rfl
  rw [on] at same
  have notReserved : ¬ s.tick.role = 3#2 := role
  simp only [State.tckCtrlWrite, hr, hu, he, hc]
  simp [notReserved, on, same]

/-- clear_stats written while the tick is not enabled. -/
theorem State.tckCtrlWrite_clear_off (role : s.tick.role ≠ 3) (off : s.tick.enable = false) :
    s.tckCtrlWrite (s.tick.ctrl ||| 16#32) = some { s with tick := { s.tick.clearStats with
      state := .off, inGuard := false, adopted := false, goodRun := 0, missed := 0, depth := 0 } } := by
  obtain ⟨hr, hu, he, hc⟩ := s.tick.ctrl_clear_stats
  have notReserved : ¬ s.tick.role = 3#2 := role
  simp only [State.tckCtrlWrite, hr, hu, he, hc]
  simp [notReserved, off, Tick.clearStats]
end

/-- Settles O3: what each of the two writes makes of the tick, in its two cases. -/
theorem tickControlWritesTakeEffect : Obligations.TickControlWritesTakeEffect := by
  unfold Obligations.TickControlWritesTakeEffect
  intro s a h role
  refine ⟨fun off idle => ?_, fun on => ?_, fun on => ?_, fun off => ?_⟩
  · exact congrArg Host.Outcome.next (State.regWrite_taken (f := fun s => s.tckCtrlWrite (s.tick.ctrl ||| 1#32)) h
      (State.tckCtrlWrite_enable role off idle))
  · exact congrArg Host.Outcome.next (State.regWrite_taken (f := fun s => s.tckCtrlWrite (s.tick.ctrl ||| 1#32)) h
      (State.tckCtrlWrite_enabled role on))
  · exact congrArg Host.Outcome.next (State.regWrite_taken (f := fun s => s.tckCtrlWrite (s.tick.ctrl ||| 16#32)) h
      (State.tckCtrlWrite_clear_enabled role on))
  · exact congrArg Host.Outcome.next (State.regWrite_taken (f := fun s => s.tckCtrlWrite (s.tick.ctrl ||| 16#32)) h
      (State.tckCtrlWrite_clear_off role off))

/-! ### What a 32-bit write holds of its value (R42, R43) -/

/-- A field of the low half of a 64-bit value. -/
theorem bits_low_half (v : DWord) {hi lo : Nat} (h : hi < 32) : bits (v.setWidth 32).toNat hi lo = bits v.toNat hi lo := by
  refine Nat.eq_of_testBit_eq fun i => ?_
  simp only [bits, BitVec.toNat_setWidth, Nat.testBit_mod_two_pow, Nat.testBit_div_two_pow]
  by_cases inField : i < hi + 1 - lo
  · have inHalf : lo + i < 32 := by omega
    simp [inField, inHalf, Nat.add_comm i lo]
  · simp [inField]

/-- A bit of the low half of a 64-bit value. -/
theorem getLsbD_low_half (v : DWord) {i : Nat} (h : i < 32) : (v.setWidth 32).getLsbD i = v.getLsbD i := by
  simp [h]

/-- A 16-bit register field of the low half. -/
theorem low_field (v : DWord) : (v.setWidth 32).setWidth 16 = BitVec.ofNat 16 (bits v.toNat 15 0) := by
  apply BitVec.eq_of_toNat_eq
  simp [bits]

/-- The 16-bit register field of the low half's upper half. -/
theorem high_field (v : DWord) : (v.setWidth 32 >>> 16).setWidth 16 = BitVec.ofNat 16 (bits v.toNat 31 16) := by
  apply BitVec.eq_of_toNat_eq
  rw [← bits_low_half v (by decide)]
  simp [bits, Nat.shiftRight_eq_div_pow]

section
variable {s s' : State} {a : Agent} {off : Nat} {wide : Bool} {v : DWord}

/-- A register write of an agent that has no function page. -/
theorem exec_registerWrite_of_not_page (notPage : ∀ port fn, a ≠ .page port fn) :
    exec (.registerWrite a off wide v) s = .next (s.regWrite a off (fun s =>
      if off % (if wide then 8 else 4) ≠ 0 then none
      else s.setReg (off / 8 * 8) (halves off wide v).1 (halves off wide v).2)) := by
  cases a with
  | page port fn => exact absurd rfl (notPage port fn)
  | owner d => rfl
  | granger => rfl
  | tileFw t => rfl

/-- A 32-bit write to the low half of a register. -/
theorem exec_registerWrite_low (notPage : ∀ port fn, a ≠ .page port fn) (aligned : off % 8 = 0) (h : Writable s a off)
    (e : s.setReg off (some (v.setWidth 32)) none = some s') :
    exec (.registerWrite a off false v) s = .next { s' with answer := .ok } := by
  rw [exec_registerWrite_of_not_page notPage]
  refine congrArg Host.Outcome.next (State.regWrite_taken h ?_)
  have word : off / 8 * 8 = off := by omega
  have good : off % 4 = 0 := by omega
  simp [halves, aligned, good, word, e]

/-- A 32-bit write to the high half of a register. -/
theorem exec_registerWrite_high (notPage : ∀ port fn, a ≠ .page port fn) (aligned : off % 8 = 4) (h : Writable s a off)
    (e : s.setReg (off - 4) none (some (v.setWidth 32)) = some s') :
    exec (.registerWrite a off false v) s = .next { s' with answer := .ok } := by
  rw [exec_registerWrite_of_not_page notPage]
  refine congrArg Host.Outcome.next (State.regWrite_taken h ?_)
  have word : off / 8 * 8 = off - 4 := by omega
  have good : off % 4 = 0 := by omega
  simp [halves, aligned, good, word, e]

/-! ### The word of the set-up window that an offset names (R42) -/

variable {lo hi : Option Word} {r : Nat}

theorem State.setReg_tick (h : off < 0x10000) : s.setReg off lo hi = s.tckReg off lo := by
  simp [State.setReg, h]

theorem State.setReg_tile {t : Nat} (ht : t < 2304) (hr : r < 0x10000) : s.setReg (tileBlock t + r) lo hi = s.tileRegWrite t r lo hi := by
  have unit : (tileBlock t + r - 0x10000000) / 0x10000 = t := by unfold tileBlock; omega
  have reg : (tileBlock t + r) % 0x10000 = r := by unfold tileBlock; omega
  have above : ¬ tileBlock t + r < 0x10000000 := by unfold tileBlock; omega
  have below : tileBlock t + r < 0x20000000 := by unfold tileBlock; omega
  unfold State.setReg
  iterate 6 rw [if_neg (by omega)]
  rw [if_pos below, unit, reg]

theorem State.setReg_stack {k : Nat} (hk : k < 8) (hr : r < 0x100000) : s.setReg (grnBlock k + r) lo hi = s.grnReg k r lo hi := by
  have unit : (grnBlock k + r - 0x20000000) / 0x100000 = k := by unfold grnBlock; omega
  have reg : (grnBlock k + r) % 0x100000 = r := by unfold grnBlock; omega
  have above : ¬ grnBlock k + r < 0x20000000 := by unfold grnBlock; omega
  have below : grnBlock k + r < 0x30000000 := by unfold grnBlock; omega
  unfold State.setReg
  iterate 7 rw [if_neg (by omega)]
  rw [if_pos below, unit, reg]

theorem State.setReg_logic {d : Nat} (hr : r < 0x1000000) : s.setReg (lgcBlock d + r) lo hi = s.lgcReg d r lo hi := by
  have unit : (lgcBlock d + r - 0x40000000) / 0x1000000 = d := by unfold lgcBlock; omega
  have reg : (lgcBlock d + r) % 0x1000000 = r := by unfold lgcBlock; omega
  have above : ¬ lgcBlock d + r < 0x40000000 := by unfold lgcBlock; omega
  unfold State.setReg
  iterate 9 rw [if_neg (by omega)]
  rw [unit, reg]

/-! ### The registers of the statement, each written whole -/

/-- INT_THRESH. -/
theorem State.setReg_intThresh : s.setReg 0x10018 (some (v.setWidth 32)) none =
    some (s.updInt (fun x => { x with
      transitThresh := BitVec.ofNat 16 (bits v.toNat 15 0), ceThresh := BitVec.ofNat 16 (bits v.toNat 31 16) })) := by
  rw [← low_field, ← high_field]
  rfl

/-- TCK_GROUP of an idle partition. -/
theorem State.setReg_group {p : Nat} (hp : p < 64) (idle : s.partBusy p = false) (reserved : v.getLsbD 1 = false) :
    s.setReg (0x1000 + 8 * p) (some (v.setWidth 32)) none = some (s.updTick (fun x => { x with
      cfg := smSet x.cfg p { group := BitVec.ofNat 4 (bits v.toNat 7 4), finish := v.getLsbD 2, hard := v.getLsbD 0 } })) := by
  rw [State.setReg_tick (by omega), ← bits_low_half v (by decide), ← getLsbD_low_half v (i := 2) (by decide),
    ← getLsbD_low_half v (i := 0) (by decide)]
  rw [← getLsbD_low_half v (by decide)] at reserved
  have part : (0x1000 + 8 * p - 0x1000) / 8 = p := by omega
  unfold State.tckReg
  iterate 3 rw [if_neg (by omega)]
  rw [if_pos (by omega)]
  simp only [onLo, part, idle, reserved]
  simp

/-- STR_SPLIT of an idle tile. -/
theorem State.setReg_split {t : Nat} (ht : t < 2304) (idle : s.taskActive t = false)
    (fits : bits v.toNat 20 16 + bits v.toNat 12 8 + bits v.toNat 4 0 ≤ 16) :
    s.setReg (tileBlock t + 0x4000) (some (v.setWidth 32)) none =
      some (s.updTile t (fun x => { x with str := { x.str with split := v.setWidth 32 &&& 0x001F1F1F } })) := by
  rw [State.setReg_tile ht (by decide)]
  show s.splitWrite t (v.setWidth 32) = _
  unfold State.splitWrite
  rw [if_neg]
  simp only [bits_low_half v (show 20 < 32 by decide), bits_low_half v (show 12 < 32 by decide),
    bits_low_half v (show 4 < 32 by decide), idle]
  simpa using fits

/-- GRN_CFG while no task runs. -/
theorem State.setReg_rdThresh {k : Nat} (hk : k < 8) (idle : s.anyBusy = false) (least : 4 ≤ bits v.toNat 13 8) :
    s.setReg (grnBlock k + 8) (some (v.setWidth 32)) none =
      some (s.updStack k (fun x => { x with rdThresh := BitVec.ofNat 6 (bits v.toNat 13 8), hotForce := v.getLsbD 0 })) := by
  rw [State.setReg_stack hk (by decide), ← getLsbD_low_half v (i := 0) (by decide)]
  rw [← bits_low_half v (by decide)] at least ⊢
  unfold State.grnReg
  rw [if_pos rfl]
  simp only [onLo, idle]
  rw [if_neg (by simpa using least)]

/-- LGC_PROBE. -/
theorem State.setReg_probe {d : Nat} : s.setReg (lgcBlock d + 0x48) (some (v.setWidth 32)) none =
    some (s.updLgc d (fun x => { x with probe := v.getLsbD 0 })) := by
  rw [State.setReg_logic (by decide), ← getLsbD_low_half v (i := 0) (by decide)]
  rfl

/-- The valid bit of a tile's fault register. -/
theorem State.setReg_faultValid {t : Nat} (ht : t < 2304) (one : v.getLsbD 31 = true) :
    s.setReg (tileBlock t + 0x10) none (some (v.setWidth 32)) =
      some (s.updTile t (fun x => { x with fault := x.fault &&& ~~~(1#64 <<< 63) })) := by
  rw [State.setReg_tile ht (by decide)]
  rw [← getLsbD_low_half v (by decide)] at one
  show some (s.updTile t (fun x => { x with fault := w1cValid x.fault (some (v.setWidth 32)) })) = _
  simp only [w1cValid, Option.any_some, one, if_true]

/-- A refused write (R42, R43, R506, R628). -/
theorem registerWrite_refused (notPage : ∀ port fn, a ≠ .page port fn) (up : s.agentUp a = true) (free : s.regHeld a off = false)
    (why : a.reaches off = false ∨ s.blockUp off = false ∨ off % (if wide then 8 else 4) ≠ 0) :
    exec (.registerWrite a off wide v) s = .next (s.refuse a) := by
  rw [exec_registerWrite_of_not_page notPage]
  refine congrArg Host.Outcome.next (State.regWrite_refused up free (why.imp_right (Or.imp_right fun misaligned => ?_)))
  exact if_pos misaligned
end

/-- Settles O2: the seven registers by their own lemmas, and what a refusal leaves. -/
theorem registerWritesTakeEffectOrAreRefused : Obligations.RegisterWritesTakeEffectOrAreRefused := by
  unfold Obligations.RegisterWritesTakeEffectOrAreRefused
  refine ⟨fun s a v t k d p notPage => ?_, fun s a off wide v notPage up free why => ?_⟩
  · refine ⟨fun h => ?_, fun hp idle reserved h => ?_, fun ht idle fits h => ?_, fun hk idle least h => ?_, fun _ h => ?_,
      fun ht one h => ?_, fun h => ?_⟩
    · exact exec_registerWrite_low notPage (by decide) h State.setReg_intThresh
    · exact exec_registerWrite_low notPage (by omega) h (State.setReg_group hp idle reserved)
    · exact exec_registerWrite_low notPage (by unfold tileBlock; omega) h (State.setReg_split ht idle fits)
    · exact exec_registerWrite_low notPage (by unfold grnBlock; omega) h (State.setReg_rdThresh hk idle least)
    · exact exec_registerWrite_low notPage (by unfold lgcBlock; omega) h State.setReg_probe
    · exact exec_registerWrite_high notPage (by unfold tileBlock; omega) h (State.setReg_faultValid ht one)
    · exact exec_registerWrite_low notPage (by decide) h rfl
  · obtain ⟨whole, noted, others⟩ := State.refuse_spec (s := s) notPage
    exact ⟨_, registerWrite_refused notPage up free why, congrArg State.answer whole, whole, noted, others⟩

end Sys2Proof.Machine

namespace Sys2Proof.Machine

/-! ### Requests at their endpoint (R34, R38, R39, R371 to R375, R392, R393, R603, R607) -/

/-- A packet stands in the torus that answers the request `p`. -/
def Answered (p : Packet) (s' : State) (o : PktOp) (st : Status) (data : List Byte) : Prop :=
  ∃ n e, smGet s'.net.pkts n = some e ∧ e.op = o ∧ e.status = st ∧ e.data = data ∧ e.dst = p.src ∧ e.issuer = p.issuer ∧ e.tag = p.tag

/-- The bytes `bs` stand at `a`, and memory outside them is as before. -/
def Stored (s s' : State) (a : Nat) (bs : List Byte) : Prop :=
  s'.rd a bs.length = bs ∧ ∀ x, (x < a ∨ a + bs.length ≤ x) → memGet s'.mem x = memGet s.mem x

section
variable {s s' : State} {id t : Nat} {p : Packet} {op : PktOp}

theorem State.respond_answered (st : Status) (data : List Byte) : Answered p (s.respond p op st data) op st data :=
  ⟨s.net.nextId, _, smGet_smSet_same .., rfl, rfl, rfl, rfl, rfl, rfl⟩

/-- Memory that holds what a write leaves. -/
theorem Stored.of_mem {a : Nat} {bs : List Byte} (wf : Memory.wf s.mem = true) (e : s'.mem = memPutList s.mem a bs) : Stored s s' a bs := by
  obtain ⟨_, lands, stays⟩ := s.wr_spec a bs
  refine ⟨?_, fun x out => ?_⟩
  · rw [State.rd, e]
    exact (lands wf).2
  · rw [e]
    exact stays x out

/-! #### A tile interface -/

/-- A refusal answers with its status and leaves memory as it is. -/
theorem State.tileNack_spec (st : Status) : (s.tileNack id p st).mem = s.mem ∧ Answered p (s.tileNack id p st) p.op.answer st [] := by
  unfold State.tileNack State.nack
  refine ⟨?_, State.respond_answered ..⟩
  rw [State.respond_mem]
  cases st <;> rfl

theorem State.tileServe_refused {st : Status} (e : s.tileRefuses t p = some st) : s.tileServe id p t = s.tileNack id p st := by
  rw [State.tileServe, e]

theorem State.tileRefuses_inReset (h : (s.ctl t).inReset = true) : s.tileRefuses t p = some .absorbed := if_pos h

theorem State.tileRefuses_notOpen (run : (s.ctl t).inReset = false) (h : s.tileOpen t = false) : s.tileRefuses t p = some .absent := by
  simp [State.tileRefuses, run, h]

/-- The loft is served at any time. -/
theorem State.tileRange_loft {a n off : Nat} (e : s.reach a n = .loft t off) : s.tileRange t a n = some (loftAddr t off) := by
  rw [State.tileRange, e]
  exact if_pos rfl

section
variable {off : Nat} (opens : s.tileRefuses t p = none) (idle : (s.tile t).firmware = false) (good : p.isBad = false)
  (loft : s.reach (gLocal p.addr) p.size = .loft t off)
include opens idle loft

/-- A tile serves a read of its loft. -/
theorem State.tileServe_read (isRead : p.op = .read) (sound : s.loftBad t off p.size = false) :
    s.tileServe id p t = (s.dropPkt id).respond p .readRsp .ok (s.loft t off p.size) := by
  have sound' : s.badMem (loftAddr t off) p.size = false := sound
  simp [State.tileServe, opens, idle, State.tileRange_loft loft, isRead, sound', State.loft]

include good

/-- A tile serves a write of its loft. -/
theorem State.tileServe_write (isWrite : p.op = .write) :
    s.tileServe id p t = ((s.dropPkt id).wr (loftAddr t off) (p.data.take p.size)).respond p .writeAck .ok [] := by
  simp [State.tileServe, opens, idle, good, State.tileRange_loft loft, isWrite]

/-- A tile serves an atomic on its loft. -/
theorem State.tileServe_atomic (isAtomic : p.op = .atomic) (fits : atomicOk p.aop p.size (loftAddr t off) = true)
    (sound : s.loftBad t off p.size = false) :
    s.tileServe id p t = ((s.dropPkt id).wr (loftAddr t off)
      (leBytes p.size (atomicNew p.aop p.size (ofLe (s.loft t off p.size)) p.operand.toNat p.compare.toNat))).respond p .atomicRsp .ok
        (if p.ret then s.loft t off p.size else []) := by
  have sound' : s.badMem (loftAddr t off) p.size = false := sound
  simp [State.tileServe, opens, idle, good, State.tileRange_loft loft, isAtomic, fits, sound', State.loft]
end

/-! #### A stack's controller -/

/-- A stack that is not in self-refresh is awake. -/
theorem State.pasrWake_awake {k : Nat} (awake : (s.stack k).st ≠ .selfRefresh) : s.pasrWake k = s := if_neg awake

/-- The queue of a pseudo-channel after its controller's update. -/
@[simp] theorem State.pch_updPch (k c : Nat) (f : Pch → Pch) : (s.updPch k c f).pch k c = f (s.pch k c) := by
  simp [State.pch, State.updPch, State.updStack, State.stack, Stack.pch]

/-- A request that its port takes, that draws on no reservation and whose row is scrubbed, enters the queue. -/
theorem State.grnTake_enters {k off : Nat} (serves : (s.stack k).serves = true) (awake : (s.stack k).st ≠ .selfRefresh)
    (good : p.isBad = false) (plain : s.rtPart p = none) (scrubbed : (s.stack k).rowUnscrubbed off = false)
    (live : (s.pch k ((s.stack k).place off).pch).st ≠ .lost) (room : (s.pch k ((s.stack k).place off).pch).queue.length < 64)
    (notAtomic : p.op ≠ .atomic) (inTurn : p.op ≠ .read → (s.stack k).scrubWaits p.issuer = false) :
    s.grnTake id p k off = (s.dropPkt id).grnEnter k off { pkt := p, rt := false } := by
  have free : (decide (64 ≤ (s.pch k ((s.stack k).place off).pch).queue.length) ||
      (p.op != .read && (s.stack k).scrubWaits p.issuer)) = false := by
    by_cases isRead : p.op = .read
    · simp [isRead, room]
    · simp [inTurn isRead, room]
  have dropped : ((s.dropPkt id).stack k).rowUnscrubbed off = false := scrubbed
  unfold State.grnTake
  rw [if_neg (by simp [serves]), State.pasrWake_awake awake]
  simp [live, good, notAtomic, free, plain, dropped]

/-- A write that enters a queue is visible and acknowledged (R392). -/
theorem State.grnEnter_write {k off : Nat} {q : PchReq} (isWrite : q.pkt.op = .write) :
    (s.grnEnter k off q).mem = memPutList s.mem (stackBase k + off) (q.pkt.data.take q.pkt.size) ∧
    Answered q.pkt (s.grnEnter k off q) .writeAck .ok [] := by
  unfold State.grnEnter
  rw [if_pos isWrite]
  refine ⟨?_, State.respond_answered ..⟩
  simp [State.grnEffect, isWrite, State.updPch, State.wr]

/-- A read that enters a queue has taken its data (R392). -/
theorem State.grnEnter_read {k off : Nat} {q : PchReq} (isRead : q.pkt.op = .read) :
    (s.grnEnter k off q).mem = s.mem ∧ ∃ e,
      ((s.grnEnter k off q).pch k ((s.stack k).place off).pch).queue = (s.pch k ((s.stack k).place off).pch).queue ++ [e] ∧
      e.pkt = { q.pkt with data := s.rd (stackBase k + off) q.pkt.size } ∧ e.rt = q.rt := by
  have notWrite : ¬ q.pkt.op = .write := by simp [isRead]
  unfold State.grnEnter
  rw [if_neg notWrite]
  simp only [State.grnEffect, isRead]
  exact ⟨rfl, _, congrArg Pch.queue (State.pch_updPch ..), rfl, rfl⟩

/-! #### A request that stands at its interface -/

theorem State.op_of_arrived (here : s.arrived id op = some p) : p.op = op := by
  unfold State.arrived at here
  split at here
  · cases here
  · split at here
    · cases here
      exact And.left ‹_›
    · cases here

section
variable (here : s.arrived id op = some p) (plain : p.msg = .none)
include here plain

theorem State.serveRequest_tile (at_ : ifaceAt p.dst = .tile t) : s.serveRequest id op = s.tileServe id p t := by
  simp only [State.serveRequest, here, plain, at_]

theorem State.serveRequest_stack {k i off : Nat} (at_ : ifaceAt p.dst = .mem k i) (first : s.firstAtPort p = true)
    (range : s.target (gLocal p.addr) = .stack k off) : s.serveRequest id op = s.grnTake id p k off := by
  simp [State.serveRequest, here, plain, at_, first, range]

omit plain in
/-- A multicast write at a tile of the partition that it names. -/
theorem exec_mcastWrite_serves (multicast : op = .mcastWrite) (run : (s.ctl p.dst.router).inReset = false)
    (opens : s.tileOpen p.dst.router = true) (idle : (s.tile p.dst.router).firmware = false)
    (part : s.partOfTile p.dst.router = some p.part) (tenant : (s.partRec p.part).tenant = some p.tenant)
    (epoch : s.partEpoch p.part = p.epoch) (good : p.isBad = false) (fits : gLocal p.addr + p.size ≤ loftBytes) :
    exec (.mcastWrite id) s = .next (((s.dropPkt id).wr (loftAddr p.dst.router (gLocal p.addr)) (p.data.take p.size)).respond p
      .mcastAck .ok []) := by
  subst multicast
  rw [exec_mcastWrite]
  simp [execMcastWrite, here, run, opens, idle, part, tenant, epoch, good, Nat.not_lt.mpr fits, State.loftWr]
end

/-- The command that brings a read, write or atomic to its endpoint. -/
theorem exec_request (kind : op = .read ∨ op = .write ∨ op = .atomic) :
    exec (if op = .read then Instr.read id else if op = .write then .write id else .atomic id) s = .next (s.serveRequest id op) := by
  rcases kind with rfl | rfl | rfl <;> rfl

/-- A read, write or atomic at a tile interface: refused, or served from the loft. -/
theorem request_at_tile (here : s.arrived id op = some p) (plain : p.msg = .none) (wf : Memory.wf s.mem = true)
    (kind : op = .read ∨ op = .write ∨ op = .atomic) (at_ : ifaceAt p.dst = .tile t) :
    let cmd := if op = .read then Instr.read id else if op = .write then .write id else .atomic id
    ((s.ctl t).inReset = true → Completes cmd s (fun s' => s'.mem = s.mem ∧ Answered p s' p.op.answer .absorbed [])) ∧
    ((s.ctl t).inReset = false → s.tileOpen t = false → Completes cmd s (fun s' => s'.mem = s.mem ∧ Answered p s' p.op.answer .absent [])) ∧
    (s.tileRefuses t p = none → (s.tile t).firmware = false → p.isBad = false → ∀ off, s.reach (gLocal p.addr) p.size = .loft t off →
      (op = .read → s.loftBad t off p.size = false →
        Completes (.read id) s (fun s' => s'.mem = s.mem ∧ Answered p s' .readRsp .ok (s.loft t off p.size))) ∧
      (op = .write → Completes (.write id) s (fun s' =>
        Stored s s' (loftAddr t off) (p.data.take p.size) ∧ Answered p s' .writeAck .ok [])) ∧
      (op = .atomic → atomicOk p.aop p.size (loftAddr t off) = true → s.loftBad t off p.size = false → Completes (.atomic id) s (fun s' =>
        Stored s s' (loftAddr t off)
          (leBytes p.size (atomicNew p.aop p.size (ofLe (s.loft t off p.size)) p.operand.toNat p.compare.toNat)) ∧
        Answered p s' .atomicRsp .ok (if p.ret then s.loft t off p.size else [])))) := by
  have served : s.serveRequest id op = s.tileServe id p t := State.serveRequest_tile here plain at_
  have isOp := State.op_of_arrived here
  refine ⟨fun inReset => ?_, fun run shut => ?_, fun opens idle good off loft =>
    ⟨fun isRead sound => ?_, fun isWrite => ?_, fun isAtomic fits sound => ?_⟩⟩
  · rw [State.tileServe_refused (State.tileRefuses_inReset inReset)] at served
    exact ⟨_, exec_request kind, served ▸ State.tileNack_spec _⟩
  · rw [State.tileServe_refused (State.tileRefuses_notOpen run shut)] at served
    exact ⟨_, exec_request kind, served ▸ State.tileNack_spec _⟩
  · subst isRead
    rw [State.tileServe_read opens idle loft isOp sound] at served
    exact ⟨_, congrArg Host.Outcome.next served, State.respond_mem .., State.respond_answered ..⟩
  · subst isWrite
    rw [State.tileServe_write opens idle good loft isOp] at served
    exact ⟨_, congrArg Host.Outcome.next served, .of_mem wf (State.respond_mem ..), State.respond_answered ..⟩
  · subst isAtomic
    rw [State.tileServe_atomic opens idle good loft isOp fits sound] at served
    exact ⟨_, congrArg Host.Outcome.next served, .of_mem wf (State.respond_mem ..), State.respond_answered ..⟩

/-- A write or read at a stack's controller: it enters its pseudo-channel's queue. -/
theorem request_at_stack (here : s.arrived id op = some p) (plain : p.msg = .none) (wf : Memory.wf s.mem = true) {k i off : Nat}
    (at_ : ifaceAt p.dst = .mem k i) (first : s.firstAtPort p = true) (range : s.target (gLocal p.addr) = .stack k off)
    (serves : (s.stack k).serves = true) (awake : (s.stack k).st ≠ .selfRefresh) (good : p.isBad = false) (noTokens : s.rtPart p = none)
    (scrubbed : (s.stack k).rowUnscrubbed off = false) (live : (s.pch k ((s.stack k).place off).pch).st ≠ .lost)
    (room : (s.pch k ((s.stack k).place off).pch).queue.length < 64) :
    (op = .write → (s.stack k).scrubWaits p.issuer = false → Completes (.write id) s (fun s' =>
      Stored s s' (stackBase k + off) (p.data.take p.size) ∧ Answered p s' .writeAck .ok [])) ∧
    (op = .read → Completes (.read id) s (fun s' => s'.mem = s.mem ∧ ∃ q,
      (s'.pch k ((s.stack k).place off).pch).queue = (s.pch k ((s.stack k).place off).pch).queue ++ [q] ∧
      q.pkt = { p with data := s.rd (stackBase k + off) p.size } ∧ q.rt = false)) := by
  have served : s.serveRequest id op = s.grnTake id p k off := State.serveRequest_stack here plain at_ first range
  have isOp := State.op_of_arrived here
  refine ⟨fun isWrite inTurn => ?_, fun isRead => ?_⟩
  · subst isWrite
    rw [State.grnTake_enters serves awake good noTokens scrubbed live room (by simp [isOp]) (fun _ => inTurn)] at served
    obtain ⟨mem, answered⟩ := State.grnEnter_write (s := s.dropPkt id) (k := k) (off := off) (q := { pkt := p, rt := false }) isOp
    exact ⟨_, congrArg Host.Outcome.next served, .of_mem wf mem, answered⟩
  · subst isRead
    rw [State.grnTake_enters serves awake good noTokens scrubbed live room (by simp [isOp]) (fun notRead => absurd isOp notRead)] at served
    exact ⟨_, congrArg Host.Outcome.next served, State.grnEnter_read (s := s.dropPkt id) (q := { pkt := p, rt := false }) isOp⟩
end

/-- Settles O36: a tile's interface, a stack's controller, and a tile of a multicast. -/
theorem requestsAreServedAtTheirEndpoint : Obligations.RequestsAreServedAtTheirEndpoint := by
  unfold Obligations.RequestsAreServedAtTheirEndpoint
  intro s id op p t here plain wf
  refine ⟨fun kind at_ => request_at_tile here plain wf kind at_, ?_, ?_⟩
  · intro k i off at_ first range serves awake good noTokens scrubbed c live room
    exact request_at_stack here plain wf at_ first range serves awake good noTokens scrubbed live room
  · rintro multicast rfl run opens idle part tenant epoch good fits
    exact ⟨_, exec_mcastWrite_serves here multicast run opens idle part tenant epoch good fits, Stored.of_mem wf (State.respond_mem ..),
      State.respond_answered ..⟩

end Sys2Proof.Machine

namespace Sys2Proof.Machine

/-! ### A critical command that is ready (R531) -/

section
variable {s : State}

/-- A command that passes every check uses up its counter and goes on to its own conditions and effect. -/
theorem State.crit_of_ready {src : CmdSrc} {op : Nat} {sel : BitVec 1024 → Bool} {c : Crit} (h : CritReady s src op sel c)
    {used : List (Nat × Nat)} {layout : BitVec 1024 → Bool} {permit : Crit → State → Bool} (go : Crit → State → State)
    (used_ok : critLayout c.b used = true) (layout_ok : layout c.b = true) (permitted : permit c s = true) :
    s.crit src op sel used layout permit go = go c (s.useCounter c) := by
  have fresh : ¬ c.counter ≤ (s.keySlot c.slot).last := Nat.not_le.mpr h.fresh
  have marked : ¬ ((s.keySlot c.slot).high < c.counter ∧ s.bup.grangerUp = false) := by
    rintro ⟨above, away⟩
    rcases h.mark with below | here
    · exact absurd above (Nat.not_lt.mpr below)
    · simp [here] at away
  have ready : (s.useCounter c).bup.ready = true := h.ready
  simp [State.crit, h.desc, used_ok, layout_ok, permitted, h.auth, fresh, marked, ready]

/-- The critical command that a ring starts next. -/
theorem State.critDesc_ring {r op : Nat} {sel : BitVec 1024 → Bool} {x : Ring} {h : Held} (next : s.nextDesc r = some (x, h))
    (critical : dfield h.bytes 0 1 = 0x10) (opcode : dfield h.bytes 2 1 = op) (selected : sel h.bytes = true) :
    s.critDesc (.ring r) op sel = some {
      b := h.bytes, ring := some (r, h.seq), port := x.port
      slot := if x.fn = 0 then ownerSlot else (s.ringTenant x).getD 0 + 1, tenant := s.ringTenant x } := by
  simp [State.critDesc, next, critical, opcode, selected]

/-! ### Records that are due -/

/-- The bytes of a record's extents change host memory alone. -/
theorem State.foldl_hostWr_frame {α : Type} (d : Nat) (addr : α → Nat) (bytes : α → List Byte) (l : List α) :
    (l.foldl (fun s e => s.hostWr d (addr e) (bytes e)) s).funcs = s.funcs ∧
    (l.foldl (fun s e => s.hostWr d (addr e) (bytes e)) s).rings = s.rings := by
  induction l generalizing s with
  | nil => exact ⟨rfl, rfl⟩
  | cons e l ih => exact ih (s := s.hostWr d (addr e) (bytes e))

/-- Writing a record changes no function and no ring. -/
theorem State.writeRecord_frame (x : Ring) (h : Held) (c : Record) :
    (s.writeRecord x h c).funcs = s.funcs ∧ (s.writeRecord x h c).rings = s.rings := by
  have extents (ext : Nat) := s.foldl_hostWr_frame x.port (fun e : BitVec 256 × Nat => ext + 32 * e.2)
    (fun e => leBytes 32 e.1.toNat) h.extents.zipIdx
  unfold State.writeRecord
  generalize (if dfield h.bytes 0 1 = 1 then dfield h.bytes 0x58 8 else 0) = ext
  by_cases absent : ext = 0
  · simp only [absent, if_true, State.hstCtr, State.updHost_funcs, State.updHost_rings, State.hostWr_funcs, State.hostWr_rings, and_self]
  · simp only [absent, if_false, State.hstCtr, State.updHost_funcs, State.updHost_rings, State.hostWr_funcs, State.hostWr_rings]
    exact extents ext

/-- An update of a ring that is there. -/
theorem State.smGet_updRing {r : Nat} {x : Ring} (f : Ring → Ring) (ring : smGet s.rings r = some x) :
    smGet (s.updRing r f).rings r = some (f x) := by
  simp [State.updRing, ring]

theorem State.func_updRing (r : Nat) (f : Ring → Ring) (d g : Nat) : (s.updRing r f).func d g = s.func d g := by
  unfold State.updRing
  split <;> rfl

theorem State.func_updHost (k : Nat) (f : HostDie → HostDie) (d g : Nat) : (s.updHost k f).func d g = s.func d g := rfl

/-- An event that no ring takes is counted in the function. -/
theorem State.event_dropped {d f : Nat} (code part unit detail : Nat) (noEvents : (s.func d f).hasEvents = false) :
    (s.event d f code part unit detail).func d f = { s.func d f with evDropped := (s.func d f).evDropped + 1 } := by
  unfold State.event
  rw [if_neg (by simp [noEvents])]
  exact smGetD_smUpd_same s.funcs (fnKey d f) {} (fun y => { y with evDropped := y.evDropped + 1 })

section
variable {r n : Nat} {x : Ring}

/-- The ring after its oldest record has been written. -/
def Ring.pop (x : Ring) (rest : List Held) : Ring := { x with held := rest, recorded := x.recorded + 1 }

/-- The state after a ring's oldest record has been written. -/
def State.popRecord (s : State) (r : Nat) (x : Ring) (h : Held) (rest : List Held) (c : Record) : State :=
  (s.writeRecord x h c).updRing r (fun x => x.pop rest)

theorem State.popRecord_spec (ring : smGet s.rings r = some x) (h : Held) (rest : List Held) (c : Record) :
    smGet (s.popRecord r x h rest c).rings r = some (x.pop rest) ∧ ∀ d f, (s.popRecord r x h rest c).func d f = s.func d f := by
  obtain ⟨funcs, rings⟩ := s.writeRecord_frame x h c
  refine ⟨State.smGet_updRing _ (rings ▸ ring), fun d f => ?_⟩
  rw [State.popRecord, State.func_updRing, State.func, funcs]
  rfl

/-- A ring of a running function writes the record of its oldest descriptor; after the last record of a ring whose descriptor read
failed it posts the ring's fault (R513). -/
theorem State.flushRing_done (ring : smGet s.rings r = some x) (running : (s.func x.port x.fn).st = .running) {h : Held} {rest : List Held}
    {c : Record} (held : x.held = h :: rest) (due : h.st = .done c) :
    s.flushRing r (n + 1) = (if x.readFault && rest.isEmpty then (s.popRecord r x h rest c).ringFault r 3 x
      else s.popRecord r x h rest c).flushRing r n := by
  rw [State.flushRing, ring]
  simp only [running, held, due]
  rfl

theorem State.flushRing_empty (ring : smGet s.rings r = some x) (held : x.held = []) : s.flushRing r n = s := by
  cases n with
  | zero => rfl
  | succ n =>
    rw [State.flushRing, ring]
    simp [held]

/-- The ring's fault reaches a function without an event ring as a dropped event. -/
theorem State.ringFault_spec (cause : Nat) (ring : smGet s.rings r = some x) (port fn : Nat) (y : Ring) (at_ : y.port = port ∧ y.fn = fn)
    (noEvents : (s.func port fn).hasEvents = false) :
    smGet (s.ringFault r cause y).rings r = some { x with stopped := true, toFetch := 0 } ∧
    ((s.ringFault r cause y).func port fn).evDropped = (s.func port fn).evDropped + 1 := by
  obtain ⟨rfl, rfl⟩ := at_
  have stays := s.func_updRing r (fun x => { x with stopped := true, toFetch := 0 }) y.port y.fn
  constructor
  · simp only [State.ringFault, State.hstErr, State.hstCtr, State.updHost_rings, State.event_rings]
    exact State.smGet_updRing _ ring
  · simp only [State.ringFault, State.hstErr, State.hstCtr, State.func_updHost]
    rw [State.event_dropped _ _ _ _ (by rw [stays]; exact noEvents), stays]

/-- The record of a ring's last command but one, whose descriptor read after it failed, is followed by the record of that read and
by the ring's fault, which its function counts. -/
theorem State.finish_before_failed_read {h g : Held} {c d : Record} {seq : Nat} (ring : smGet s.rings r = some x)
    (running : (s.func x.port x.fn).st = .running) (noEvents : (s.func x.port x.fn).hasEvents = false) (failed : x.readFault = true)
    (stays : x.destroying = none) (held : x.held = [h, g]) (first : h.seq = seq) (other : g.seq ≠ seq) (due : g.st = .done d) :
    ((s.finish r seq c).func x.port x.fn).evDropped = (s.func x.port x.fn).evDropped + 1 := by
  let h' : Held := { h with st := .done c }
  let x0 : Ring := { x with held := [h', g] }
  let s0 := s.updHeld r seq (fun h => { h with st := .done c })
  have ring0 : smGet s0.rings r = some x0 := by
    refine (State.smGet_updRing _ ring).trans ?_
    simp [x0, h', held, first, other]
  have func0 : ∀ d f, s0.func d f = s.func d f := s.func_updRing r _
  obtain ⟨ring1, func1⟩ := State.popRecord_spec ring0 h' [g] c
  let s1 := s0.popRecord r x0 h' [g] c
  obtain ⟨ring2, func2⟩ := State.popRecord_spec (s := s1) ring1 g [] d
  let s2 := s1.popRecord r (x0.pop [g]) g [] d
  have funcs : ∀ d f, s2.func d f = s.func d f := fun d f => by rw [func2, func1, func0]
  obtain ⟨ring3, dropped⟩ := State.ringFault_spec (s := s2) 3 ring2 x.port x.fn (x0.pop [g]) ⟨rfl, rfl⟩
    (by rw [funcs]; exact noEvents)
  let s3 := s2.ringFault r 3 (x0.pop [g])
  have flushed : s.done r seq c = s3 := by
    show s0.flushRing r (255 + 1 + 1) = s3
    rw [State.flushRing_done ring0 (by rw [func0]; exact running) rfl rfl, if_neg (by simp),
      State.flushRing_done ring1 (by rw [func1, func0]; exact running) rfl due,
      if_pos (by rw [show (x0.pop [g]).readFault = true from failed]; rfl),
      State.flushRing_empty ring3 rfl]
  have stays3 : s.finish r seq c = s3 := by
    have ring3' : smGet s3.rings r = _ := ring3
    unfold State.finish
    rw [flushed]
    simp only [ring3']
    rw [show ((x0.pop [g]).pop []).destroying = none from stays]
  rw [stays3, dropped, funcs]
end
end

/-! ### A bind that waits in a ring whose next descriptor could not be read -/

/-- The bytes below the tag of ASSIGN with sub-operation 0: tenant 1 is bound to function 0 of I/O die 0, with a quota of 0; counter 1. -/
def bindNumber : Nat := 0x10 + 4 * 2 ^ (8 * 0x02) + 2 ^ (8 * 0x0A) + 2 ^ (8 * 0x70)

def bindKey : BitVec 256 := 1

/-- The command with its tag under the owner's key. -/
def bindCommand : BitVec 1024 := tagged bindKey ownerSlot bindNumber

def bindCrit : Crit := { b := bindCommand, ring := some (0, 5), slot := ownerSlot }

/-- The ring of the physical function of port 0, as DESCRIPTOR_FETCHED leaves it where the read after the command's failed (R513). -/
def bindRing : Ring where
  port := 0
  fn := 0
  sq := 0x1000
  cq := 0x2000
  sizeLog2 := 4
  slot := 0
  fetched := 7
  recorded := 5
  stopped := true
  readFault := true
  held := [{ seq := 5, bytes := bindCommand }, { seq := 6, bytes := 0, st := .done { status := BitVec.ofNat 8 HOST_FAULT } }]

/-- A ready module whose owner's ring is that one. Its function has no event ring. -/
def bindWaits : State := { State.reset with
  bup := { ready := true }
  keys := [(ownerSlot, { key := some bindKey, high := 1 })]
  rings := [(0, bindRing)]
  funcs := [(fnKey 0 0, { st := .running })] }

section
set_option exponentiation.threshold 2000

theorem bindNumber_lt : bindNumber < 2 ^ 960 := by decide

theorem bindCommand_field {off len v : Nat} (inside : off + len ≤ 120) (e : bindNumber / 2 ^ (8 * off) % 2 ^ (8 * len) = v) :
    dfield bindCommand off len = v :=
  (dfield_tagged bindKey ownerSlot bindNumber off len bindNumber_lt inside).trans e

/-- The fields of the command. -/
theorem bindCommand_fields : dfield bindCommand 0 1 = 0x10 ∧ dfield bindCommand 1 1 = 0 ∧ dfield bindCommand 2 1 = 4 ∧
    dfield bindCommand 8 1 = 0 ∧ dfield bindCommand 0x70 8 = 1 := by
  refine ⟨?_, ?_, ?_, ?_, ?_⟩
  all_goals exact bindCommand_field (by decide) (by decide)

/-- The operands of the command. -/
theorem bindCommand_operands : bindCrit.tenantArg = 1 ∧ dfield bindCommand 0x0C 2 = 0 ∧ dfield bindCommand 0x0E 1 = 0 ∧
    dfield bindCommand 0x18 2 = 0 ∧ dfield bindCommand 0x10 8 = 0 := by
  refine ⟨?_, ?_, ?_, ?_, ?_⟩
  all_goals exact bindCommand_field (by decide) (by decide)

theorem bindCommand_layout : critLayout bindCommand [(0x08, 0x08), (0x0A, 0x0E), (0x10, 0x19)] = true := by
  have unlisted : ((List.range 104).map (· + 8)).all (fun i => [(0x08, 0x08), (0x0A, 0x0E), (0x10, 0x19)].any
      (fun u : Nat × Nat => decide (u.1 ≤ i) && decide (i ≤ u.2)) || bindNumber / 2 ^ (8 * i) % 2 ^ (8 * 1) == 0) = true := by decide
  have flags : dfield bindCommand 1 1 = 0 := bindCommand_fields.2.1
  have byte3 : dfield bindCommand 3 1 = 0 := bindCommand_field (by decide) (by decide)
  unfold critLayout
  simp only [flags, byte3, List.all_eq_true, Bool.and_eq_true] at unlisted ⊢
  refine ⟨⟨rfl, rfl⟩, fun i member => ?_⟩
  have inside : i + 1 ≤ 120 := by
    obtain ⟨j, range, rfl⟩ := List.mem_map.mp member
    have := List.mem_range.mp range
    omega
  rw [bindCommand_field inside rfl]
  exact unlisted i member

end

/-- The command is ready, and nothing speaks against the bind. -/
theorem bindCrit_ready : CritReady bindWaits (.ring 0) 4 (selAt8 0) bindCrit := by
  obtain ⟨type, flags, op, sub, counter⟩ := bindCommand_fields
  have tag : bindCrit.b = tagged bindKey bindCrit.slot bindNumber := by simp only [bindCrit, bindCommand]
  have used : bindCrit.counter = 1 := counter
  have next : bindWaits.nextDesc 0 = some (bindRing, { seq := 5, bytes := bindCommand }) := by
    have ring : smGet bindWaits.rings 0 = some bindRing := rfl
    have running : (bindWaits.func 0 0).st = .running := rfl
    unfold State.nextDesc
    rw [ring]
    simp [bindRing, running, flags]
  refine ⟨?_, critAuth_tagged _ _ bindKey bindNumber bindNumber_lt rfl rfl tag, ?_, .inl ?_, rfl⟩
  · rw [State.critDesc_ring next type op (by rw [selAt8, sub]; rfl)]
    rfl
  · rw [used]
    decide
  · rw [used]
    decide

/-- What a bind leaves, before the command's record is written. -/
def State.bindTo (s : State) (t d f q : Nat) (root : DWord) : State :=
  { s with tenants := smSet s.tenants t { bound := some (d, f), root } }.updFunc d f (fun x => { x with tenant := some t, quota := q })

/-- The bind of the waiting command: its effect, then its record. -/
theorem exec_bindCrit : exec (.assignBind (.ring 0)) bindWaits =
    .next (((bindWaits.useCounter bindCrit).bindTo 1 0 0 0 0).finish 0 5 { status := BitVec.ofNat 8 0 }) := by
  obtain ⟨tenant, fn, die, quota, root⟩ := bindCommand_operands
  rw [exec_assignBind]
  refine congrArg Host.Outcome.next ((State.crit_of_ready bindCrit_ready _ bindCommand_layout rfl rfl).trans ?_)
  have b : bindCrit.b = bindCommand := rfl
  simp only [tenant, b, fn, die, quota, root]
  rfl

/-- Refutes O50: a bind of function 0 of I/O die 0 that waits in a ring of that very function, behind whose command a descriptor read
has failed. The record of the bind is followed by the record of that read and by the ring's fault, and the function, which has no
event ring, counts the dropped event: it is not as before but for its tenant and quota. -/
theorem not_criticalCommandsTakeEffect : ¬ Obligations.CriticalCommandsTakeEffect := by
  unfold Obligations.CriticalCommandsTakeEffect
  intro h
  obtain ⟨bind, -⟩ := h bindWaits (.ring 0) bindCrit
  have b : bindCrit.b = bindCommand := rfl
  obtain ⟨tenant, fn, die, quota, root⟩ := bindCommand_operands
  rw [b, tenant, fn, die, quota] at bind
  obtain ⟨s', runs, -, -, effect, -⟩ := bind ⟨bindCrit_ready, rfl, bindCommand_layout⟩ (by decide) (by decide) (by decide) (by decide)
    rfl rfl (by decide)
  rw [exec_bindCrit] at runs
  obtain rfl := Host.Outcome.next.inj runs
  have counted := State.finish_before_failed_read (s := (bindWaits.useCounter bindCrit).bindTo 1 0 0 0 0) (r := 0) (x := bindRing)
    (c := { status := BitVec.ofNat 8 0 }) (seq := 5) rfl rfl rfl rfl rfl rfl rfl (by decide) rfl
  rw [show bindRing.port = 0 from rfl, show bindRing.fn = 0 from rfl, effect] at counted
  exact absurd counted (by decide)

end Sys2Proof.Machine

namespace Sys2Proof.Machine

/-! ### What writing records, posting events and answering commands may change (R514, R524, R527, R531) -/

/-- A value that every step of a fold leaves is left by the fold. -/
theorem foldl_leaves {σ α β : Type} (value : σ → β) {f : σ → α → σ} (step : ∀ s x, value (f s x) = value s) (l : List α) (s : σ) :
    value (l.foldl f s) = value s := by
  induction l generalizing s with
  | nil => rfl
  | cons x l ih => rw [List.foldl_cons, ih, step]

/-- `s'` differs from `s` in the rings, the functions, the host ports, host memory and Granger's registers alone. -/
def HostSide (s s' : State) : Prop :=
  ∃ rings funcs host hostMem health, s' = { s with rings, funcs, host, hostMem, health }

section
variable {s s' s'' : State}

theorem HostSide.refl (s : State) : HostSide s s := ⟨_, _, _, _, _, rfl⟩

theorem HostSide.trans (h : HostSide s s') (h' : HostSide s' s'') : HostSide s s'' := by
  obtain ⟨_, _, _, _, _, rfl⟩ := h
  obtain ⟨_, _, _, _, _, rfl⟩ := h'
  exact ⟨_, _, _, _, _, rfl⟩

theorem HostSide.foldl {α : Type} {f : State → α → State} (step : ∀ s x, HostSide s (f s x)) (l : List α) (s : State) :
    HostSide s (l.foldl f s) := by
  induction l generalizing s with
  | nil => exact .refl s
  | cons x l ih => exact (step s x).trans (ih (f s x))

theorem HostSide.tick (h : HostSide s s') : s'.tick = s.tick := by
  obtain ⟨_, _, _, _, _, rfl⟩ := h
  rfl

theorem HostSide.keys (h : HostSide s s') : s'.keys = s.keys := by
  obtain ⟨_, _, _, _, _, rfl⟩ := h
  rfl
end

section
variable (s : State)

theorem State.hostWr_hostSide (d a : Nat) (bs : List Byte) : HostSide s (s.hostWr d a bs) := ⟨_, _, _, _, _, rfl⟩
theorem State.updHost_hostSide (d : Nat) (f : HostDie → HostDie) : HostSide s (s.updHost d f) := ⟨_, _, _, _, _, rfl⟩
theorem State.updHealth_hostSide (f : Health → Health) : HostSide s (s.updHealth f) := ⟨_, _, _, _, _, rfl⟩

theorem State.updRing_hostSide (r : Nat) (f : Ring → Ring) : HostSide s (s.updRing r f) := by
  unfold State.updRing
  split
  · exact .refl s
  · exact ⟨_, _, _, _, _, rfl⟩

theorem State.event_hostSide (d f code part unit detail : Nat) : HostSide s (s.event d f code part unit detail) := by
  obtain ⟨_, _, _, h⟩ := s.event_frame d f code part unit detail
  exact ⟨_, _, _, _, _, h⟩

theorem State.ownerEvent_hostSide (code part unit detail : Nat) : HostSide s (s.ownerEvent code part unit detail) := by
  obtain ⟨_, _, _, h⟩ := s.ownerEvent_frame code part unit detail
  exact ⟨_, _, _, _, _, h⟩

theorem State.writeRecord_hostSide (x : Ring) (h : Held) (c : Record) : HostSide s (s.writeRecord x h c) := by
  unfold State.writeRecord
  dsimp only
  refine .trans ?_ ((State.hostWr_hostSide ..).trans (State.updHost_hostSide ..))
  generalize (if dfield h.bytes 0 1 = 1 then dfield h.bytes 0x58 8 else 0) = ext
  split
  · exact .refl s
  · exact .foldl (fun s _ => s.hostWr_hostSide ..) _ s

theorem State.ringFault_hostSide (r cause : Nat) (x : Ring) : HostSide s (s.ringFault r cause x) :=
  ((s.updRing_hostSide ..).trans (State.event_hostSide ..)).trans ((State.updHost_hostSide ..).trans (State.updHost_hostSide ..))

theorem State.popRecord_hostSide (r : Nat) (x : Ring) (h : Held) (rest : List Held) (c : Record) : HostSide s (s.popRecord r x h rest c) :=
  (s.writeRecord_hostSide x h c).trans (State.updRing_hostSide ..)

theorem State.flushRing_hostSide (r n : Nat) : HostSide s (s.flushRing r n) := by
  induction n generalizing s with
  | zero => exact .refl s
  | succ n ih =>
    unfold State.flushRing
    split
    · exact .refl s
    · next x _ =>
      split
      · exact .refl s
      · split
        · exact .refl s
        · next h rest _ =>
          split
          · next c _ =>
            refine .trans ?_ (ih _)
            have popped := s.popRecord_hostSide r x h rest c
            split
            · exact popped.trans (State.ringFault_hostSide ..)
            · exact popped
          · exact .refl s

theorem State.done_hostSide (r seq : Nat) (c : Record) : HostSide s (s.done r seq c) :=
  (s.updRing_hostSide ..).trans (State.flushRing_hostSide ..)

theorem State.finish_hostSide (r seq : Nat) (c : Record) : HostSide s (s.finish r seq c) := by
  unfold State.finish
  dsimp only
  split
  · exact s.done_hostSide ..
  · split
    · have emptied : HostSide (s.done r seq c) { s.done r seq c with rings := smErase (s.done r seq c).rings r } := ⟨_, _, _, _, _, rfl⟩
      exact ((s.done_hostSide ..).trans emptied).trans (State.done_hostSide ..)
    · exact s.done_hostSide ..

theorem State.answerTo_hostSide (ring : Option (Nat × Nat)) (mctp : Bool) (r : Record) : HostSide s (s.answerTo ring mctp r) := by
  unfold State.answerTo
  split
  · exact s.finish_hostSide ..
  · split
    · dsimp only
      split
      · exact s.updHealth_hostSide _
      · exact (s.updHealth_hostSide _).trans (State.updHealth_hostSide ..)
    · exact .refl s

theorem State.critAnswer_hostSide (c : Crit) (r : Record) : HostSide s (s.critAnswer c r) := by
  unfold State.critAnswer
  split
  · exact s.finish_hostSide ..
  · exact (s.updHealth_hostSide _).trans (State.answerTo_hostSide ..)
end

/-! ### TICK_PARAM (R49, R60, R78, R531) -/

section
variable {s : State} {c : Crit}

/-- A change that is in range, far enough ahead and free of another one is accepted. -/
theorem State.tickParam_accepted {period guard e : Nat} (ahead : s.tick.count.toNat + 16 ≤ e) (range : tickParamOk period guard = true)
    (free : s.tick.pendParam = none) (notFollower : s.tick.role ≠ 2) :
    s.tickParam period guard e = .ok (s.updTick (fun t => { t with
      pendParam := some ⟨BitVec.ofNat 6 (guard - 1), BitVec.ofNat 24 period⟩, pendTick := BitVec.ofNat 64 e })) := by
  unfold State.tickParam
  rw [if_neg (Nat.not_lt.mpr ahead), if_neg (by simp [range]), if_neg (by simp [free]), if_neg notFollower]

/-- What a command leaves that used up its counter and then changed the host side alone. -/
theorem counterUsed_of_keys {s' : State} (keys : s'.keys = (s.useCounter c).keys) : CounterUsed s s' c := by
  have slot : s'.keySlot c.slot = (s.useCounter c).keySlot c.slot := by rw [State.keySlot, keys]; rfl
  have used : (s.useCounter c).keySlot c.slot = { s.keySlot c.slot with
      last := c.counter, high := if (s.keySlot c.slot).high < c.counter then c.counter + 65536 else (s.keySlot c.slot).high } :=
    smGetD_smUpd_same s.keys c.slot {} (fun k =>
      { k with last := c.counter, high := if k.high < c.counter then c.counter + 65536 else k.high })
  unfold CounterUsed
  rw [slot, used]
  dsimp only
  split <;> omega
end

/-- Settles O7: the command passes its checks, its change is accepted, and its answer touches neither the tick nor the key slots. -/
theorem tickParamSchedulesTheChange : Obligations.TickParamSchedulesTheChange := by
  unfold Obligations.TickParamSchedulesTheChange
  intro s src c ready owner layout period guard e ahead low high one most half free notFollower
  have range : tickParamOk period guard = true := by
    have top : period ≤ 16777215 := by omega
    simp [tickParamOk, low, top, one, most, half]
  have accepted := State.tickParam_accepted (s := s.useCounter c) ahead range free notFollower
  have runs := State.crit_of_ready (layout := anyLayout) (permit := ownerOnly) ready (fun c s =>
    s.critDone c (s.tickParam (dfield c.b 8 4) (dfield c.b 0x0C 1) (dfield c.b 0x10 8))) layout rfl (by simp [ownerOnly, owner])
  have answered := State.critAnswer_hostSide ((s.useCounter c).updTick (fun t => { t with
    pendParam := some ⟨BitVec.ofNat 6 (guard - 1), BitVec.ofNat 24 period⟩, pendTick := BitVec.ofNat 64 e })) c { status := BitVec.ofNat 8 0 }
  refine ⟨_, congrArg Host.Outcome.next (runs.trans ?_), counterUsed_of_keys answered.keys, answered.tick⟩
  rw [accepted]
  rfl

end Sys2Proof.Machine

namespace Sys2Proof.Machine

/-! ### What the tick unit's operations leave of the tick (R48, R51, R60, R67, R463, R464) -/

section
variable (s : State)

@[simp] theorem State.wake_tick (t : Nat) : (s.wake t).tick = s.tick := by
  refine foldl_leaves State.tick (fun s k => ?_) _ s
  dsimp only
  split <;> rfl

@[simp] theorem State.tickSend_tick (q : Nat) (f : Frame) : (s.tickSend q f).tick = s.tick := by
  unfold State.tickSend
  split
  · rfl
  · rfl
  · rfl
  · obtain ⟨_, _, _, h⟩ := State.drain_frame (s.updFport q (fun p =>
      { p with queue := p.queue.takeWhile (·.op.ofTick) ++ f :: p.queue.dropWhile (·.op.ofTick) })) q
    rw [h]
    rfl

@[simp] theorem State.tickSendDown_tick (f : Frame) : (s.tickSendDown f).tick = s.tick :=
  foldl_leaves State.tick (fun s q => s.tickSend_tick q f) _ s

@[simp] theorem State.forwardMarker_tick (f : Frame) (delay : Nat) (turn : SMap Nat) : (s.forwardMarker f delay turn).tick = s.tick :=
  foldl_leaves State.tick (fun s q => s.tickSend_tick q _) _ s

@[simp] theorem State.masterMarker_tick : s.masterMarker.tick = s.tick := by
  unfold State.masterMarker
  refine foldl_leaves State.tick (fun s q => ?_) _ s
  dsimp only
  rw [State.tickSend_tick]
  rfl

@[simp] theorem State.tickEvent_tick (code : Nat) : (s.tickEvent code).tick = s.tick := (s.ownerEvent_hostSide ..).tick

@[simp] theorem State.wakeEdge_tick (w : Wait) : (s.wakeEdge w).tick = s.tick := by
  unfold State.wakeEdge
  refine foldl_leaves State.tick (fun s t => ?_) _ s
  dsimp only
  rw [State.wake_tick, State.updTile_tick]

@[simp] theorem State.wakeGroup_tick (g : Nat) : (s.wakeGroup g).tick = s.tick := by
  refine (foldl_leaves State.tick (fun s t => ?_) _ _).trans (foldl_leaves State.tick (fun s i => ?_) _ _)
  · split
    · exact s.wake_tick t
    · rfl
  · exact s.releaseHeld_tick i _

/-! #### All of the tick but the barriers and the stalls -/

/-- The tick without the barriers of its groups and the stalls that they count: what closing a group leaves. -/
def Tick.core (t : Tick) : Tick := { t with barriers := [], stallEdges := [], stalls := 0, maxStall := 0 }

theorem State.noteStall_core (old n : Nat) (late : Option Nat) : (s.noteStall old n late).tick.core = s.tick.core := rfl

theorem State.releaseGroup_core (g n : Nat) : (s.releaseGroup g n).tick.core = s.tick.core := by
  unfold State.releaseGroup
  dsimp only
  rw [State.wakeGroup_tick]
  rfl

theorem State.groupClosed_core (g n : Nat) (late : Option Nat) : (s.groupClosed g n late).tick.core = s.tick.core := by
  unfold State.groupClosed
  dsimp only
  split
  · rfl
  · exact (State.releaseGroup_core ..).trans (s.noteStall_core ..)

theorem State.takeClose_core (mask : BitVec 16) (n : Nat) (late : Option Nat) : (s.takeClose mask n late).tick.core = s.tick.core :=
  foldl_leaves (fun s : State => s.tick.core) (fun s g => s.groupClosed_core g n late) _ s

theorem State.closeShares_core (gs : List Nat) (n : Nat) (late : Option Nat) : (s.closeShares gs n late).tick.core = s.tick.core := by
  have shared := foldl_leaves (fun s : State => s.tick.core) (f := fun s g => s.updBarrier g (fun b => { b with share := n }))
    (fun _ _ => rfl) gs s
  unfold State.closeShares
  split
  · rfl
  · dsimp only
    split
    · exact (foldl_leaves (fun s : State => s.tick.core) (fun s g => s.groupClosed_core g n late) gs _).trans shared
    · exact (congrArg Tick.core (State.tickSend_tick ..)).trans shared

theorem State.noteEdge_core : s.noteEdge.tick.core = s.tick.core := by
  unfold State.noteEdge
  dsimp only
  split <;> rfl

/-- The tick unit's part of an edge: its number, and the shares that close with it. -/
def State.edgeShares (s : State) (n : DWord) : State :=
  let s := s.updTick (fun t => t.atEdge n)
  (s.closeShares ((List.range 16).filter (fun g => s.shareMayClose g (n.toNat - 1))) (n.toNat - 1) none).noteEdge

/-- What an edge does beside the tick unit's part: late tasks, counts, waiting threads, and the master's markers. -/
def State.edgeRest (s : State) : State :=
  let s := (({ s with tiles := s.tiles.map (fun (e : Nat × Tile) => (e.1, e.2.lateEdge)) } : State).sumCounts.evSnapshot).wakeEdge .tickEdge
  if s.tick.state = .master then s.masterMarker else s

theorem State.edge_parts (n : DWord) : s.edge n = (s.edgeShares n).edgeRest := rfl

theorem State.edgeRest_tick : s.edgeRest.tick = s.tick := by
  unfold State.edgeRest
  dsimp only
  split
  · rw [State.masterMarker_tick, State.wakeEdge_tick]
    rfl
  · rw [State.wakeEdge_tick]
    rfl

/-- An edge does to the tick what the tick unit does at an edge, apart from barriers and stalls. -/
theorem State.edge_core (n : DWord) : (s.edge n).tick.core = (s.tick.atEdge n).core := by
  rw [State.edge_parts, State.edgeRest_tick]
  exact (State.noteEdge_core _).trans (State.closeShares_core ..)
end

/-! #### The tick unit at an edge -/

theorem Tick.applyPending_leaves (t : Tick) : t.applyPending.count = t.count ∧ t.applyPending.inGuard = t.inGuard ∧
    t.applyPending.state = t.state ∧ t.applyPending.adopted = t.adopted ∧ t.applyPending.goodRun = t.goodRun := by
  unfold Tick.applyPending
  split
  · split <;> exact ⟨rfl, rfl, rfl, rfl, rfl⟩
  · exact ⟨rfl, rfl, rfl, rfl, rfl⟩

theorem Tick.atEdge_leaves (t : Tick) (n : DWord) : (t.atEdge n).count = n ∧ (t.atEdge n).inGuard = false ∧
    (t.atEdge n).state = t.state ∧ (t.atEdge n).adopted = t.adopted ∧ (t.atEdge n).goodRun = t.goodRun :=
  Tick.applyPending_leaves _

/-- A change that is held takes effect once its tick has come (R60, R61). -/
theorem Tick.applyPending_param {t : Tick} {p : TickParam} (pending : t.pendParam = some p) :
    (t.pendTick.toNat ≤ t.count.toNat → t.applyPending.param = p ∧ t.applyPending.pendParam = none) ∧
    (t.count.toNat < t.pendTick.toNat → t.applyPending.param = t.param ∧ t.applyPending.pendParam = some p) := by
  unfold Tick.applyPending
  rw [pending]
  refine ⟨fun due => ?_, fun early => ?_⟩
  · simp only [due, if_true, and_self]
  · simp only [Nat.not_le.mpr early, if_false, pending, and_self]

theorem Tick.applyPending_none {t : Tick} (free : t.pendParam = none) : t.applyPending = t := by
  unfold Tick.applyPending
  rw [free]

/-- At an edge the tick unit takes the number, and then the change that is due. -/
theorem Tick.atEdge_numbered (t : Tick) (n : DWord) : ∃ u : Tick, t.atEdge n = u.applyPending ∧ u.count = n ∧ u.param = t.param ∧
    u.pendParam = t.pendParam ∧ u.pendTick = t.pendTick := ⟨_, rfl, rfl, rfl, rfl, rfl⟩

/-- A change takes effect at the edge of its tick, and not before (R60, R61). -/
theorem Tick.atEdge_param {t : Tick} {n : DWord} {p : TickParam} (pending : t.pendParam = some p) :
    (t.pendTick.toNat ≤ n.toNat → (t.atEdge n).param = p ∧ (t.atEdge n).pendParam = none) ∧
    (n.toNat < t.pendTick.toNat → (t.atEdge n).param = t.param ∧ (t.atEdge n).pendParam = some p) := by
  obtain ⟨u, numbered, count, param, pend, tick⟩ := t.atEdge_numbered n
  rw [numbered, ← count, ← param, ← tick]
  exact Tick.applyPending_param (pend.trans pending)

/-- With no change pending an edge leaves the parameters as they are. -/
theorem Tick.atEdge_param_none {t : Tick} {n : DWord} (free : t.pendParam = none) : (t.atEdge n).param = t.param := by
  obtain ⟨u, numbered, -, param, pend, -⟩ := t.atEdge_numbered n
  rw [numbered, Tick.applyPending_none (pend.trans free), param]

/-- An edge of the running tick (R48, R49, R51, R60, R61). -/
theorem tickEdge_completes {s : State} (runs : s.tick.ticks = true) (upsets : List Place) :
    ∃ s', exec (.tickEdge upsets) s = .next s' ∧ s'.tick.core = (s.tick.atEdge (s.tick.count + 1)).core := by
  refine ⟨_, congrArg Host.Outcome.next (if_pos runs), ?_⟩
  exact State.edge_core ..

/-! #### The guard-start edge -/

section
variable (s : State)

theorem State.chooseLoads_tick : s.chooseLoads.tick = s.tick := by
  refine foldl_leaves State.tick (fun s l => ?_) s.loads s
  split
  · exact foldl_leaves State.tick (f := fun s d => s.cfgCtr d 0x210 1) (fun _ _ => rfl) _ s
  · rfl

theorem State.expireJobs_hostSide : HostSide s s.expireJobs :=
  (s.updHealth_hostSide _).trans (.foldl (fun s _ => s.answerTo_hostSide ..) _ _)

theorem State.jobValues_hostSide (j : MarginJob) : HostSide s (s.jobValues j) := by
  unfold State.jobValues
  refine .trans ?_ (.foldl (fun s d => ?_) dieList _)
  · split
    · exact s.updHealth_hostSide _
    · exact s.updHealth_hostSide _
    · exact .refl s
  · split
    · exact s.updHealth_hostSide _
    · exact .refl s

theorem State.settleJobs_hostSide (n : Nat) : HostSide s (s.settleJobs n) := by
  induction n generalizing s with
  | zero => exact .refl s
  | succ n ih =>
    unfold State.settleJobs
    split
    · exact .refl s
    · split
      · exact (((s.jobValues_hostSide _).trans (State.updHealth_hostSide ..)).trans (State.answerTo_hostSide ..)).trans (ih _)
      · exact .refl s

theorem State.settleMargin_hostSide : HostSide s s.settleMargin := by
  unfold State.settleMargin
  exact (s.settleJobs_hostSide _).trans (State.updHealth_hostSide ..)
end

/-- The guard-start event opens the guard window and leaves the rest of the tick (R49, R51). -/
theorem guardStart_completes {s : State} (runs : s.tick.ticks = true) (before : s.tick.inGuard = false) :
    ∃ s', exec .guardStart s = .next s' ∧ s'.tick = { s.tick with inGuard := true } := by
  refine ⟨_, congrArg Host.Outcome.next (if_neg (by simp [runs, before])), ?_⟩
  rw [State.wakeEdge_tick, (State.settleMargin_hostSide _).tick, (State.expireJobs_hostSide _).tick]
  exact State.chooseLoads_tick _

end Sys2Proof.Machine

namespace Sys2Proof.Machine

/-! ### Barriers of groups (R67, R464, R465) -/

/-- A fact about one element that its own step of a fold brings about, and that every step keeps, holds after the fold. -/
theorem foldl_reaches {σ α : Type} {holds : α → σ → Prop} {f : σ → α → σ} (own : ∀ s x, holds x (f s x))
    (keeps : ∀ s x y, holds y s → holds y (f s x)) {l : List α} {x : α} (listed : x ∈ l) (s : σ) : holds x (l.foldl f s) := by
  induction l generalizing s with
  | nil => cases listed
  | cons y l ih =>
    rw [List.foldl_cons]
    rcases List.mem_cons.mp listed with rfl | later
    · exact List.foldlRecOn l f (own s x) (fun s h y _ => keeps s y x h)
    · exact ih later (f s y)

section
variable {s s' : State} {g k n : Nat}

theorem State.barrier_of_barriers (same : s'.tick.barriers = s.tick.barriers) : s'.barrier k = s.barrier k := by
  rw [State.barrier, same, State.barrier]

theorem State.barrier_of_tick (same : s'.tick = s.tick) : s'.barrier k = s.barrier k :=
  State.barrier_of_barriers (congrArg Tick.barriers same)

theorem State.barrier_updBarrier (f : Barrier → Barrier) :
    (s.updBarrier g f).barrier k = if k = g then f (s.barrier g) else s.barrier k := by
  unfold State.barrier State.updBarrier
  split
  · next same =>
    subst same
    exact smGetD_smUpd_same ..
  · next other => exact smGetD_smUpd_ne _ _ _ _ _ other

theorem State.releaseGroup_barrier :
    (s.releaseGroup g n).barrier k = if k = g then { s.barrier g with closed := n } else s.barrier k := by
  refine (State.barrier_of_barriers (s := s.updBarrier g (fun b => { b with closed := n })) ?_).trans (State.barrier_updBarrier _)
  unfold State.releaseGroup
  dsimp only
  rw [State.wakeGroup_tick]
  rfl

/-- Closing a group for a tick raises the tick up to which it is closed. -/
theorem State.groupClosed_barrier (late : Option Nat) :
    (s.groupClosed g n late).barrier k = if k = g then { s.barrier g with closed := max n (s.barrier g).closed } else s.barrier k := by
  unfold State.groupClosed
  dsimp only
  split
  · next already =>
    rw [max_eq_right already]
    split
    · next same => rw [same]
    · rfl
  · next after =>
    rw [max_eq_left (Nat.le_of_not_le after)]
    exact State.releaseGroup_barrier

theorem State.groupClosed_reaches (late : Option Nat) : n ≤ ((s.groupClosed g n late).barrier g).closed := by
  rw [State.groupClosed_barrier, if_pos rfl]
  exact le_max_left ..

theorem State.groupClosed_keeps {m : Nat} (late : Option Nat) (closed : m ≤ (s.barrier k).closed) :
    m ≤ ((s.groupClosed g n late).barrier k).closed := by
  rw [State.groupClosed_barrier]
  split
  · next same =>
    subst same
    exact closed.trans (le_max_right ..)
  · exact closed

theorem State.groupClosed_share (late : Option Nat) : ((s.groupClosed g n late).barrier k).share = (s.barrier k).share := by
  rw [State.groupClosed_barrier]
  split
  · next same => rw [same]
  · rfl

/-- A close from upstream closes the groups that it names. -/
theorem State.takeClose_reaches {mask : BitVec 16} (late : Option Nat) (named : mask.getLsbD g = true) (hg : g < 16) :
    n ≤ ((s.takeClose mask n late).barrier g).closed :=
  foldl_reaches (holds := fun g s => n ≤ (State.barrier s g).closed) (fun _ _ => State.groupClosed_reaches late)
    (fun _ _ _ closed => State.groupClosed_keeps late closed) (List.mem_filter.mpr ⟨List.mem_range.mpr hg, named⟩) s

/-- One group's share closes, and at a root its barrier with it (R67 step 2). -/
theorem State.closeShares_one (late : Option Nat) : ((s.closeShares [g] n late).barrier g).share = n ∧
    (s.tick.state.isRoot = true → n ≤ ((s.closeShares [g] n late).barrier g).closed) := by
  let u := s.updBarrier g (fun b => { b with share := n })
  have shared : (u.barrier g).share = n := by
    rw [State.barrier_updBarrier, if_pos rfl]
  cases root : s.tick.state.isRoot with
  | true =>
    have closes : s.closeShares [g] n late = u.groupClosed g n late := if_pos root
    rw [closes]
    exact ⟨(State.groupClosed_share late).trans shared, fun _ => State.groupClosed_reaches late⟩
  | false =>
    have reports : (s.closeShares [g] n late).tick = u.tick := by
      have notRoot : ¬ u.tick.state.isRoot = true := by simp [u, State.updBarrier, State.updTick, root]
      refine (congrArg State.tick (if_neg notRoot)).trans ?_
      exact State.tickSend_tick ..
    rw [State.barrier_of_tick reports]
    exact ⟨shared, fun absurdRoot => absurd absurdRoot (by simp)⟩

/-! #### Frames of the spanning tree -/

theorem State.fport_updFport (f : FPort → FPort) : (s.updFport g f).fport k = if k = g then f (s.fport g) else s.fport k := by
  unfold State.fport State.updFport
  split
  · next same =>
    subst same
    exact smGetD_smUpd_same ..
  · next other => exact smGetD_smUpd_ne _ _ _ _ _ other

/-- A parcel that leaves the fabric leaves at most the credit that its port owes. -/
theorem State.dropParcel_cases (s : State) (id : Nat) :
    s.dropParcel id = s.updFab (fun x => { x with parcels := smErase x.parcels id }) ∨ ∃ (q : Nat) (owed : FPort → SMap Nat),
      s.dropParcel id = (s.updFab (fun x => { x with parcels := smErase x.parcels id })).updFport q (fun p => { p with owed := owed p }) := by
  unfold State.dropParcel State.oweUnits
  dsimp only
  split
  · split
    · exact .inr ⟨_, _, rfl⟩
    · exact .inl rfl
  · exact .inl rfl

@[simp] theorem State.dropParcel_tick (id : Nat) : (s.dropParcel id).tick = s.tick := by
  rcases s.dropParcel_cases id with h | ⟨_, _, h⟩ <;> (rw [h]; rfl)

theorem State.dropParcel_downPorts (id : Nat) : (s.dropParcel id).downPorts = s.downPorts := by
  rcases s.dropParcel_cases id with h | ⟨_, _, h⟩ <;> (rw [h]; rfl)

theorem State.dropParcel_delay (id q : Nat) : ((s.dropParcel id).fport q).delay = (s.fport q).delay := by
  rcases s.dropParcel_cases id with h | ⟨_, _, h⟩
  · rw [h]
    rfl
  · rw [h, State.fport_updFport]
    split
    · next same =>
      subst same
      rfl
    · rfl

theorem State.treeFrame_arrived {id q : Nat} {p : Parcel} {op : FrameOp} {go : Nat → Frame → State → State}
    (here : smGet s.fab.parcels id = some p) (port : p.inPort = some q) (kind : p.frame.op = op) :
    s.treeFrame id op go = go q p.frame (s.dropParcel id) := by
  unfold State.treeFrame
  rw [here]
  dsimp only
  rw [port]
  exact if_pos kind
end

section
variable {s : State} {g n ns id q : Nat} {p : Parcel}

/-- A share that nothing holds open. -/
theorem barrierShareClose_completes (hg : g < 16) (may : s.shareMayClose g n = true) :
    Completes (.barrierShareClose g n ns) s (fun s' => (s'.barrier g).share = n ∧
      (s.tick.state.isRoot = true → n ≤ (s'.barrier g).closed)) := by
  refine ⟨_, congrArg Host.Outcome.next (if_neg (by simp [hg, may])), ?_⟩
  have sent : ∀ (u : State) (f : Frame) (c : Prop) [Decidable c], (if c then u.tickSendDown f else u).barrier g = u.barrier g :=
    fun u f c _ => by
      split
      · exact State.barrier_of_tick (u.tickSendDown_tick f)
      · rfl
  dsimp only
  rw [sent]
  exact State.closeShares_one _

/-- A report from a downstream port is recorded for each group that it names. -/
theorem barrierReport_completes (here : smGet s.fab.parcels id = some p) (port : p.inPort = some q)
    (kind : p.frame.op = .barrierReport) (down : q ∈ s.downPorts) :
    Completes (.barrierReport id) s (fun s' => ∀ g, g < 16 → p.frame.mask.getLsbD g = true →
      p.frame.tick.toNat ≤ smGetD (s'.barrier g).down q 0 ∧ (s'.barrier g).closed = (s.barrier g).closed) := by
  refine ⟨_, congrArg Host.Outcome.next (State.treeFrame_arrived here port kind), fun g hg named => ?_⟩
  rw [if_pos (by rw [State.dropParcel_downPorts]; exact List.contains_iff_mem.mpr down)]
  refine ⟨foldl_reaches (holds := fun g s => p.frame.tick.toNat ≤ smGetD (State.barrier s g).down q 0) (fun s g => ?_)
    (fun s k g noted => ?_) (List.mem_filter.mpr ⟨List.mem_range.mpr hg, named⟩) _, ?_⟩
  · rw [State.barrier_updBarrier, if_pos rfl]
    dsimp only
    rw [smGetD_smSet_same]
    exact le_max_left ..
  · rw [State.barrier_updBarrier]
    split
    · next same =>
      subst same
      dsimp only
      rw [smGetD_smSet_same]
      exact le_max_left ..
    · exact noted
  · refine (foldl_leaves (fun s => (State.barrier s g).closed) (fun s k => ?_) _ _).trans
      (congrArg Barrier.closed (State.barrier_of_tick (State.dropParcel_tick id)))
    rw [State.barrier_updBarrier]
    split
    · next same => rw [same]
    · rfl

/-- A close from upstream closes each group that it names. -/
theorem barrierClose_completes (here : smGet s.fab.parcels id = some p) (port : p.inPort = some q)
    (kind : p.frame.op = .barrierClose) (follower : s.tick.role = 2) (on : s.tick.enable = true) (up : q = s.tick.upstream.toNat) :
    Completes (.barrierClose id ns) s (fun s' => ∀ g, g < 16 → p.frame.mask.getLsbD g = true →
      p.frame.tick.toNat ≤ (s'.barrier g).closed) := by
  refine ⟨_, congrArg Host.Outcome.next (State.treeFrame_arrived here port kind), fun g hg named => ?_⟩
  rw [if_pos (by rw [State.dropParcel_tick]; exact ⟨follower, on, up⟩), State.barrier_of_tick (State.tickSendDown_tick ..)]
  exact State.takeClose_reaches _ named hg
end

/-- Settles O6: a share that closes, a report from below, and a close from above. -/
theorem barrierFramesCloseGroups : Obligations.BarrierFramesCloseGroups := by
  unfold Obligations.BarrierFramesCloseGroups
  exact fun s => ⟨fun g n ns hg may => barrierShareClose_completes hg may, fun id q ns p here port =>
    ⟨fun kind down => barrierReport_completes here port kind down,
      fun kind follower on up => barrierClose_completes here port kind follower on up⟩⟩

end Sys2Proof.Machine

namespace Sys2Proof.Machine

/-! ### Tick markers and a follower's states (R54, R56 to R58, R79, R463, R465) -/

/-- The tick of a follower that has taken a marker: its depth, its offset and the marker's parameters. -/
def Tick.marked (t : Tick) (m : Marker) (offset : Int) : Tick := { t with
  depth := BitVec.ofNat 8 (m.hops + 1), param := m.param, pendParam := m.pend
  pendTick := if m.pend.isSome then m.pendTick else t.pendTick, offset := satOffset offset }

/-- What a marker that has been taken leaves for the follower to compare (R56). -/
theorem Tick.marked_core_leaves {t u : Tick} {m : Marker} {offset : Int} (core : u.core = (t.marked m offset).core) :
    u.state = t.state ∧ u.count = t.count ∧ u.adopted = t.adopted ∧ u.goodRun = t.goodRun :=
  ⟨(congrArg Tick.state core).trans rfl, (congrArg Tick.count core).trans rfl, (congrArg Tick.adopted core).trans rfl,
    (congrArg Tick.goodRun core).trans rfl⟩

section
variable {s : State} {m : Marker} {offset : Int}

theorem State.takeMarker_core : (s.takeMarker m offset).tick.core = (s.tick.marked m offset).core := State.takeClose_core ..

/-- The marker is of the follower's own tick and at most 2 ns from its edge (R56). -/
def Marker.near (m : Marker) (t : Tick) (offset : Int) : Prop := m.tick = t.count ∧ offset.natAbs ≤ 32

theorem State.follow_locked (locked : s.tick.state = .locked) : s.follow m offset =
    if decide (m.tick = s.tick.count) && decide (offset.natAbs ≤ 32) then s.updTick (fun t => { t with markerSeen := true }) else s := by
  unfold State.follow
  simp only [locked]

/-- A Locked follower notes a good marker, and nothing else (R57). -/
theorem State.follow_locked_leaves (locked : s.tick.state = .locked) : (s.follow m offset).tick = s.tick ∨
    (s.follow m offset).tick = { s.tick with markerSeen := true } := by
  rw [State.follow_locked locked]
  split
  · exact .inr rfl
  · exact .inl rfl

theorem State.follow_locked_near (locked : s.tick.state = .locked) (good : m.near s.tick offset) :
    (s.follow m offset).tick.markerSeen = true := by
  rw [State.follow_locked locked, if_pos (by simp [good.1, good.2])]
  rfl

/-- A follower that is behind takes the marker's number at the next edge (R56). -/
theorem State.follow_behind (acquiring : s.tick.state = .acquiring) (behind : s.tick.count.toNat < m.tick.toNat) :
    s.follow m offset = (s.updTick (fun t => { t with adopted := true, goodRun := 0 })).edge m.tick := by
  have other : ¬ m.tick = s.tick.count := fun same => absurd behind (by rw [same]; exact Nat.lt_irrefl _)
  unfold State.follow
  simp only [acquiring, other, behind, decide_false, Bool.false_and, Bool.and_false, if_true]
  rfl

/-- The fourth good marker in a row locks the follower (R56). -/
theorem State.follow_fourth (acquiring : s.tick.state = .acquiring) (adopted : s.tick.adopted = true) (run : s.tick.goodRun = 3)
    (good : m.near s.tick offset) (shallow : m.hops < 32) :
    (s.follow m offset).tick = { s.tick with state := .locked, goodRun := 0, markerSeen := true, missed := 0 } := by
  have notDeep : ¬ 32 < m.hops + 1 := by omega
  unfold State.follow
  simp [acquiring, adopted, good.1, good.2, State.updTick, run, notDeep]
end

section
variable {s : State} {id q : Nat} {arrival : Int} {turn : SMap Nat} {p : Parcel}

/-- A marker on the upstream port of a follower: the marker is taken, then followed. -/
theorem tickMarker_upstream (here : smGet s.fab.parcels id = some p) (port : p.inPort = some q) (kind : p.frame.op = .tickMarker)
    (on : s.tick.enable = true) (follower : s.tick.role = 2) (up : q = s.tick.upstream.toNat) :
    let offset := (p.frame.marker.acc : Int) + ((s.fport q).delay.toNat : Int) - arrival
    ∃ s' u : State, exec (.tickMarker id arrival turn) s = .next s' ∧
      u.tick.core = (s.tick.marked p.frame.marker (offset / 2)).core ∧ s'.tick = (u.follow p.frame.marker offset).tick := by
  intro offset
  have core := State.takeMarker_core (s := s.dropParcel id) (m := p.frame.marker) (offset := offset / 2)
  rw [State.dropParcel_tick] at core
  refine ⟨_, _, congrArg Host.Outcome.next (State.treeFrame_arrived here port kind), core, ?_⟩
  rw [State.dropParcel_tick, State.dropParcel_delay, if_neg (by simp [on]), if_neg (by rw [follower]; decide),
    if_neg (by simp [follower, up]), State.forwardMarker_tick]

/-- A marker that reaches a master. -/
theorem tickMarker_conflict (here : smGet s.fab.parcels id = some p) (port : p.inPort = some q) (kind : p.frame.op = .tickMarker)
    (on : s.tick.enable = true) (master : s.tick.role = 1) :
    Completes (.tickMarker id arrival turn) s (fun s' => s'.tick = { s.tick with conflict := true }) := by
  refine ⟨_, congrArg Host.Outcome.next (State.treeFrame_arrived here port kind), ?_⟩
  rw [State.dropParcel_tick, if_neg (by simp [on]), if_pos master]
  refine (State.tickEvent_tick ..).trans ?_
  exact congrArg (fun t : Tick => { t with conflict := true }) (State.dropParcel_tick id)

/-- The holdover limit has passed: the follower runs free, and no group holds a tile back (R57, R465). -/
theorem freeRunEntry_completes (holdover : s.tick.state = .holdover) (late : s.tick.limitM1.toNat + 1 ≤ s.tick.missed) :
    Completes .freeRunEntry s (fun s' => s'.tick.state = .freeRun ∧ ∀ g, g < 16 → s.tick.count.toNat - 1 ≤ (s'.barrier g).closed) := by
  let n := s.tick.count.toNat - 1
  let free := (s.updTick (fun t => { t with state := .freeRun })).tickEvent 5
  have tick : free.tick = { s.tick with state := .freeRun } := State.tickEvent_tick ..
  let release := fun (s : State) (g : Nat) => if (s.barrier g).closed < n then s.releaseGroup g n else s
  have runs : exec .freeRunEntry s = .next ((List.range 16).foldl release free) := by
    refine congrArg Host.Outcome.next ((if_pos ⟨holdover, late⟩).trans ?_)
    have count : free.tick.count = s.tick.count := by rw [tick]
    show (List.range 16).foldl (fun s g => if (s.barrier g).closed < free.tick.count.toNat - 1 then
      s.releaseGroup g (free.tick.count.toNat - 1) else s) free = _
    rw [count]
  refine ⟨_, runs, ?_, fun g hg => ?_⟩
  · have core : ((List.range 16).foldl release free).tick.core = free.tick.core :=
      foldl_leaves (fun s : State => s.tick.core) (fun s g => by
        dsimp only [release]
        split
        · exact s.releaseGroup_core g n
        · rfl) _ free
    rw [tick] at core
    exact congrArg Tick.state core
  · refine foldl_reaches (holds := fun g s => n ≤ (State.barrier s g).closed) (fun s g => ?_) (fun s k g closed => ?_)
      (List.mem_range.mpr hg) free
    · dsimp only [release]
      split
      · rw [State.releaseGroup_barrier, if_pos rfl]
      · next already => exact Nat.le_of_not_lt already
    · dsimp only [release]
      split
      · rw [State.releaseGroup_barrier]
        split
        · exact le_rfl
        · exact closed
      · exact closed
end

/-- Settles O5: a marker at a follower in each of its states, at a master, and the two entries that no marker makes. -/
theorem markersMoveTheFollower : Obligations.MarkersMoveTheFollower := by
  unfold Obligations.MarkersMoveTheFollower
  refine fun s => ⟨fun id q arrival turn p here port kind on => ⟨fun follower up locked => ?_, fun follower up acquiring behind => ?_,
    fun follower up acquiring adopted run sameTick close shallow => ?_, fun master => tickMarker_conflict here port kind on master⟩,
    fun locked unseen => ?_, fun holdover late => freeRunEntry_completes holdover late⟩
  · obtain ⟨s', u, runs, core, tick⟩ := tickMarker_upstream (arrival := arrival) (turn := turn) here port kind on follower up
    obtain ⟨stateU, countU, -, -⟩ := Tick.marked_core_leaves core
    have lockedU : u.tick.state = .locked := stateU.trans locked
    have followed : s'.tick.depth = u.tick.depth ∧ s'.tick.offset = u.tick.offset ∧ s'.tick.param = u.tick.param ∧
        s'.tick.pendParam = u.tick.pendParam ∧ s'.tick.state = u.tick.state ∧ s'.tick.count = u.tick.count := by
      rw [tick]
      rcases State.follow_locked_leaves (m := p.frame.marker)
        (offset := (p.frame.marker.acc : Int) + ((s.fport q).delay.toNat : Int) - arrival) lockedU with same | seen
      · rw [same]
        exact ⟨rfl, rfl, rfl, rfl, rfl, rfl⟩
      · rw [seen]
        exact ⟨rfl, rfl, rfl, rfl, rfl, rfl⟩
    obtain ⟨depth, off, param, pend, state, count⟩ := followed
    refine ⟨s', runs, depth.trans (congrArg Tick.depth core), off.trans (congrArg Tick.offset core), param.trans (congrArg Tick.param core),
      pend.trans (congrArg Tick.pendParam core), state.trans lockedU, count.trans countU, fun sameTick close => ?_⟩
    rw [tick]
    exact State.follow_locked_near lockedU ⟨sameTick.trans countU.symm, close⟩
  · obtain ⟨s', u, runs, core, tick⟩ := tickMarker_upstream (arrival := arrival) (turn := turn) here port kind on follower up
    obtain ⟨stateU, countU, -, -⟩ := Tick.marked_core_leaves core
    rw [State.follow_behind (stateU.trans acquiring) (by rw [countU]; exact behind)] at tick
    have edged := State.edge_core (u.updTick (fun t => { t with adopted := true, goodRun := 0 })) p.frame.marker.tick
    rw [← tick] at edged
    obtain ⟨taken, -, state, adopted, run⟩ :=
      Tick.atEdge_leaves (u.updTick (fun t => { t with adopted := true, goodRun := 0 })).tick p.frame.marker.tick
    exact ⟨s', runs, (congrArg Tick.count edged).trans taken, (congrArg Tick.adopted edged).trans adopted,
      (congrArg Tick.state edged).trans (state.trans (stateU.trans acquiring)), (congrArg Tick.goodRun edged).trans run⟩
  · obtain ⟨s', u, runs, core, tick⟩ := tickMarker_upstream (arrival := arrival) (turn := turn) here port kind on follower up
    obtain ⟨stateU, countU, adoptedU, runU⟩ := Tick.marked_core_leaves core
    rw [State.follow_fourth (stateU.trans acquiring) (adoptedU.trans adopted) (runU.trans run)
      ⟨sameTick.trans countU.symm, close⟩ shallow] at tick
    exact ⟨s', runs, congrArg Tick.state tick, (congrArg Tick.count tick).trans countU⟩
  · refine ⟨_, congrArg Host.Outcome.next (if_pos ⟨locked, by simp [unseen]⟩), ?_⟩
    exact State.tickEvent_tick ..

end Sys2Proof.Machine

namespace Sys2Proof.Machine

/-! ### What ending a task leaves: the task itself, and the packets on their way (R254 to R260, R310, R340) -/

theorem mem_smSet_of_ne {α : Type} {m : SMap α} {k j : Nat} {v w : α} (h : (j, w) ∈ m) (ne : j ≠ k) : (j, w) ∈ smSet m k v := by
  induction m with
  | nil => cases h
  | cons e m ih =>
    unfold smSet
    split
    · exact List.mem_cons_of_mem _ h
    · split
      · next same =>
        rcases List.mem_cons.mp h with head | tail
        · exact absurd (congrArg Prod.fst head) (same ▸ ne)
        · exact List.mem_cons_of_mem _ tail
      · rcases List.mem_cons.mp h with head | tail
        · exact head ▸ List.mem_cons_self
        · exact List.mem_cons_of_mem _ (ih tail)

theorem mem_smSet_same {α : Type} (m : SMap α) (k : Nat) (v : α) : (k, v) ∈ smSet m k v := smGet_mem (smGet_smSet_same ..)

/-- Tile t's task is in `s'` as it was in `s`, and every packet that was in the torus still is. As with `Keeps`, each operation that an
ending task goes through has one lemma, and a chain of operations is a chain of lemmas. -/
structure TaskStands (t : Nat) (s s' : State) : Prop where
  task : (s'.tile t).task = (s.tile t).task
  next : s.net.nextId ≤ s'.net.nextId
  kept : ∀ id p, id < s.net.nextId → (id, p) ∈ s.net.pkts → (id, p) ∈ s'.net.pkts

theorem TaskStands.refl (t : Nat) (s : State) : TaskStands t s s := ⟨rfl, le_rfl, fun _ _ _ h => h⟩

theorem Tile.recordEnd_task (x : Tile) (code thr unit : Nat) (pc addr : DWord) : (x.recordEnd code thr unit pc addr).task = x.task := by
  unfold Tile.recordEnd
  split <;> rfl

section
variable {t : Nat} {s₀ s s' : State}

theorem TaskStands.foldl {α : Type} {g : State → α → State} (l : List α) (h : TaskStands t s₀ s)
    (hg : ∀ s x, TaskStands t s₀ s → TaskStands t s₀ (g s x)) : TaskStands t s₀ (l.foldl g s) :=
  List.foldlRecOn l g h (fun s h x _ => hg s x h)

theorem TaskStands.same (h : TaskStands t s₀ s) (tiles : s'.tiles = s.tiles) (net : s'.net = s.net) : TaskStands t s₀ s' := by
  refine ⟨?_, net ▸ h.next, net ▸ h.kept⟩
  rw [State.tile, tiles]
  exact h.task

theorem TaskStands.ite {c : Prop} [Decidable c] (h : TaskStands t s₀ s) (h' : TaskStands t s₀ s') : TaskStands t s₀ (if c then s else s') := by
  split
  · exact h
  · exact h'
end

section
variable {t : Nat} {s₀ s : State} (h : TaskStands t s₀ s)
include h

theorem TaskStands.updTile (u : Nat) (f : Tile → Tile) (hf : ∀ x, (f x).task = x.task := by intro x; rfl) : TaskStands t s₀ (s.updTile u f) := by
  refine ⟨?_, h.next, h.kept⟩
  by_cases same : t = u
  · subst same
    rw [State.tile_updTile_same, hf]
    exact h.task
  · rw [State.tile_updTile_ne _ _ _ _ same]
    exact h.task

theorem TaskStands.inject (p : Packet) : TaskStands t s₀ (s.inject p) :=
  ⟨h.task, h.next.trans (Nat.le_succ _), fun id q old there => mem_smSet_of_ne (h.kept id q old there) (Nat.ne_of_lt (old.trans_le h.next))⟩

theorem TaskStands.free (w : Nat) : TaskStands t s₀ (s.free w).2 := h.same rfl rfl
theorem TaskStands.clean (p : Place) : TaskStands t s₀ (s.clean p) := h.same rfl rfl
theorem TaskStands.loftWr (off : Nat) (bs : List Byte) : TaskStands t s₀ (s.loftWr t off bs) := h.same rfl rfl
theorem TaskStands.flagsOr (f : Flags) : TaskStands t s₀ (s.flagsOr t f) := h.updTile t _
theorem TaskStands.updSlot (k : Nat) (f : Slot → Slot) : TaskStands t s₀ (s.updSlot t k f) := h.updTile t _
theorem TaskStands.someFlags (f : Flags) : TaskStands t s₀ (s.someFlags t f) := (h.free 7).flagsOr _

theorem TaskStands.evAdd (src n : Nat) : TaskStands t s₀ (s.evAdd t src n) := by
  obtain ⟨_, _, _, _, e⟩ := s.evAdd_frame t src n
  exact h.same (by rw [e]) (by rw [e])

theorem TaskStands.arrCtrAdd (off n : Nat) : TaskStands t s₀ (s.arrCtrAdd t off n) := by
  unfold State.arrCtrAdd
  exact (TaskStands.ite (h.evAdd ..) h).updTile t _

theorem TaskStands.mvpCtrAdd (off n : Nat) : TaskStands t s₀ (s.mvpCtrAdd t off n) := by
  unfold State.mvpCtrAdd
  split <;> exact TaskStands.updTile (by grind [TaskStands.evAdd]) t _ (fun _ => rfl)

theorem TaskStands.winCtr (off n : Nat) : TaskStands t s₀ (s.winCtr t off n) := by
  unfold State.winCtr
  split <;> exact TaskStands.updTile (by grind [TaskStands.evAdd]) t _ (fun _ => rfl)

theorem TaskStands.strCtr (off n : Nat) : TaskStands t s₀ (s.strCtr t off n) := by
  unfold State.strCtr
  split <;> exact TaskStands.updTile (by grind [TaskStands.evAdd]) t _ (fun _ => rfl)

theorem TaskStands.applyRow (r : RowOut) : TaskStands t s₀ (s.applyRow t r) := by
  have stored := h.foldl (g := fun s e => s.loftWr t e.1 e.2) r.loft (fun _ _ h => h.loftWr ..)
  unfold State.applyRow
  refine TaskStands.updTile ?_ t _ (fun _ => rfl)
  split
  · exact (stored.updTile t _).clean _
  · exact stored

theorem TaskStands.applyRows (rs : List RowOut) : TaskStands t s₀ (s.applyRows t rs) := h.foldl rs (fun _ _ h => h.applyRow _)
theorem TaskStands.applyRuns (rs : List (UnitRun × RowOut)) : TaskStands t s₀ (s.applyRuns t rs) := (h.applyRows _).arrCtrAdd ..

theorem TaskStands.ahistDone (op : UnitOp) : TaskStands t s₀ (s.ahistDone t op) :=
  .ite ((h.loftWr ..).updTile t _) (h.loftWr ..)

theorem TaskStands.stopArray : TaskStands t s₀ (s.stopArray t) := by
  unfold State.stopArray
  dsimp only
  split
  · exact h.updTile t _
  · refine TaskStands.updTile ?_ t _ (fun _ => rfl)
    have rows := fun rs n => ((h.free 32).applyRuns rs).arrCtrAdd 0x100 n
    have flagged := fun rs n => (rows rs n).foldl (g := fun s (r : UnitRun) => s.someFlags t r.load) (s.tile t).arrRun (fun _ _ h => h.someFlags _)
    split
    · split
      · exact (flagged ..).ahistDone _
      · exact flagged ..
    · exact flagged ..

theorem TaskStands.mvpKeep (n : Nat) : TaskStands t s₀ (s.mvpKeep t n) := by
  unfold State.mvpKeep
  dsimp only
  have passes := fun rs a b => ((h.applyRows rs).mvpCtrAdd 0x108 a).mvpCtrAdd 0x100 b
  split
  · exact (((passes ..).free 32).someFlags _).mvpCtrAdd ..
  · exact passes ..

theorem TaskStands.stopMvp : TaskStands t s₀ (s.stopMvp t) := by
  unfold State.stopMvp
  dsimp only
  split
  · exact h.updTile t _
  · refine TaskStands.updTile ?_ t _ (fun _ => rfl)
    exact ((h.free 32).mvpKeep _).foldl (g := fun s (r : UnitRun) => s.someFlags t r.load) _ (fun _ _ h => h.someFlags _)

theorem TaskStands.cutCycles (off : Nat) (ran : Bool) : TaskStands t s₀ (s.cutCycles t off ran) := .ite ((h.free 32).winCtr ..) h

theorem TaskStands.stopWinnow : TaskStands t s₀ (s.stopWinnow t) := by
  unfold State.stopWinnow
  exact (((h.cutCycles ..).cutCycles ..).updTile t _).winCtr ..

theorem TaskStands.sendToken (k : Nat) (token : Token) : TaskStands t s₀ (s.sendToken t k token) := h.inject _

theorem TaskStands.dropHeld (k : Nat) : TaskStands t s₀ (s.dropHeld t k) := by
  unfold State.dropHeld
  refine ((TaskStands.ite ?_ ?_).updSlot ..).winCtr ..
  · exact (TaskStands.ite (h.inject _) h).inject _
  · exact TaskStands.ite (h.inject _) h

theorem TaskStands.sendEndTokens (origin code : Nat) : TaskStands t s₀ (s.sendEndTokens t origin code) := by
  refine h.foldl _ (fun s k h => ?_)
  dsimp only
  split
  · exact h
  · split
    · exact (TaskStands.ite (h.sendToken ..) h).sendToken ..
    · split
      · exact ((h.strCtr ..).dropHeld _).sendToken ..
      · exact h
end

/-! #### A deadline that passes (R64, R259) -/

theorem State.free_snd (s : State) (w : Nat) : (s.free w).2 = { s with freeCount := s.freeCount + 1 } := rfl

theorem State.endFields_frame (s : State) (code thr unit : Nat) (pc addr : DWord) :
    ∃ n, (s.endFields code thr unit pc addr).2 = { s with freeCount := n } := by
  unfold State.endFields
  split
  · exact ⟨_, rfl⟩
  · dsimp only
    split <;> split <;> split <;> (simp only [State.free_snd]; exact ⟨_, rfl⟩)

/-- An aborted task's tokens go out, and its record of them with them. -/
theorem State.abortTokens_task {s : State} {t : Nat} {k : Task} (task : (s.tile t).task = some k) :
    ∃ sent, ((s.abortTokens t).tile t).task = some { k with tokensSent := sent } ∧ s.net.nextId ≤ (s.abortTokens t).net.nextId ∧
      ∀ id p, id < s.net.nextId → (id, p) ∈ s.net.pkts → (id, p) ∈ (s.abortTokens t).net.pkts := by
  unfold State.abortTokens
  rw [task]
  dsimp only
  split
  · have stands := fun origin code => (TaskStands.refl t s).sendEndTokens origin code
    refine ⟨true, ?_, ?_⟩
    · rw [State.tile_updTile_same]
      dsimp only
      rw [(stands _ _).task, task]
      rfl
    · rw [State.updTile_net]
      exact ⟨(stands _ _).next, (stands _ _).kept⟩
  · exact ⟨k.tokensSent, task, le_rfl, fun _ _ _ there => there⟩

/-- A task that has not begun to end ends with a code: it keeps what it has missed, and no packet is lost. -/
theorem State.endTask_begins {s : State} {t code : Nat} {k : Task} (task : (s.tile t).task = some k) (goes : k.phase ≠ .ending)
    (bad : code ≠ 0) : ∃ k', ((s.endTask t code 0 0 0 0).tile t).task = some k' ∧ k'.phase = .ending ∧ k'.code = code ∧
      k'.missed = k.missed ∧ k'.lateEdges = k.lateEdges ∧
      ∀ id p, id < s.net.nextId → (id, p) ∈ s.net.pkts → (id, p) ∈ (s.endTask t code 0 0 0 0).net.pkts := by
  obtain ⟨n, frame⟩ := s.endFields_frame code 0 0 0 0
  unfold State.endTask
  rw [task]
  dsimp only
  rw [if_neg goes]
  revert frame
  generalize s.endFields code 0 0 0 0 = fields
  obtain ⟨⟨thr, unit, pc, addr⟩, u⟩ := fields
  rintro rfl
  dsimp only
  rw [if_neg bad]
  let k' : Task := { k with phase := .ending, code, fThread := thr, fUnit := unit, fPc := pc.setWidth 16, fAddr := addr }
  let f : Tile → Tile := fun x => ({ x with task := some k' }.recordEnd code thr unit pc addr).stopThreads
  let v := ({ s with freeCount := n } : State).updTile t f
  have begun : (v.tile t).task = some k' := by
    rw [State.tile_updTile_same]
    exact Tile.recordEnd_task ..
  let g : Tile → Tile := fun x => { x with str := { x.str with slots := x.str.slots.map (fun e => (e.1, e.2.dropUnsent)) } }
  obtain ⟨stands, next, kept⟩ : TaskStands t v (((v.stopUnits t).stopWinnow t).updTile t g) := ((TaskStands.refl t v).stopArray.stopMvp.stopWinnow).updTile t g
  obtain ⟨sent, ended, -, kept'⟩ := State.abortTokens_task (stands.trans begun)
  exact ⟨_, ended, rfl, rfl, rfl, rfl, fun id p old there => kept' id p (old.trans_le next) (kept id p old there)⟩

/-- The miss notice that a tile sends about a task. -/
def State.sendMiss (s : State) (t : Nat) (l : Launch) : State :=
  s.sendMsg (tileEnd t) (tileIo l.ioDie t) (.miss l.ring l.seq l.part) l.part l.epoch l.tenant

theorem State.sendMiss_notice (s : State) (t : Nat) (l : Launch) : ∃ p, (s.net.nextId, p) ∈ (s.sendMiss t l).net.pkts ∧
    p.op = .control ∧ p.msg = .miss l.ring l.seq l.part ∧ p.dst = tileIo l.ioDie t :=
  ⟨_, mem_smSet_same .., rfl, rfl, rfl⟩

/-- A running task whose deadline's guard window has begun: it has missed, its notice is sent, and where its partition aborts it ends. -/
theorem exec_deadlineEdge_misses {s : State} {t : Nat} {k : Task} (task : (s.tile t).task = some k) (goes : k.phase ≠ .ending)
    (first : k.missed = false) (past : s.pastGuard k.launch.deadline = true) :
    let late := min 255 (s.tick.edgesSince k.launch.deadline.toNat)
    let u := (s.updTask t (fun k => { k with missed := true, lateEdges := late })).sendMiss t k.launch
    exec (.deadlineEdge t) s = .next (if s.aborts k.launch.part then u.endTask t 1 0 0 0 0 else u) := by
  intro late u
  have aborts : u.aborts k.launch.part = s.aborts k.launch.part := rfl
  rw [exec_deadlineEdge]
  refine congrArg Host.Outcome.next ?_
  rw [task]
  dsimp only
  rw [if_neg (by simp [goes, first, past]), ← aborts]
  rfl

/-- Settles O4: an edge, the guard-start event, and the deadline of a running task in a partition that aborts and in one that does not. -/
theorem tickEdgesAdvanceTheTickAndMarkMisses : Obligations.TickEdgesAdvanceTheTickAndMarkMisses := by
  unfold Obligations.TickEdgesAdvanceTheTickAndMarkMisses
  refine ⟨fun s runs => ⟨fun upsets => ?_, guardStart_completes runs⟩, fun s t k task goes first past => ?_⟩
  · obtain ⟨s', done, core⟩ := tickEdge_completes runs upsets
    obtain ⟨count, guard, -, -, -⟩ := s.tick.atEdge_leaves (s.tick.count + 1)
    have param : s'.tick.param = (s.tick.atEdge (s.tick.count + 1)).param := (congrArg Tick.param core).trans rfl
    have pend : s'.tick.pendParam = (s.tick.atEdge (s.tick.count + 1)).pendParam := (congrArg Tick.pendParam core).trans rfl
    refine ⟨s', done, (congrArg Tick.count core).trans count, (congrArg Tick.inGuard core).trans guard, fun p pending => ?_, fun free => ?_⟩
    · rw [param, pend]
      exact Tick.atEdge_param pending
    · rw [param]
      exact Tick.atEdge_param_none free
  · intro noticed late
    have runs := exec_deadlineEdge_misses task goes first past
    let m := s.updTask t (fun k => { k with missed := true, lateEdges := late })
    have missed : ((m.sendMiss t k.launch).tile t).task = some { k with missed := true, lateEdges := late } := by
      have updated : (m.tile t).task = (s.tile t).task.map (fun k => { k with missed := true, lateEdges := late }) :=
        congrArg Tile.task (State.tile_updTile_same s t (fun x => { x with task := x.task.map _ }))
      rw [task] at updated
      exact updated
    obtain ⟨p, there, op, msg, dst⟩ := m.sendMiss_notice t k.launch
    refine ⟨fun lives => ?_, fun aborts => ?_⟩
    · rw [lives] at runs
      exact ⟨_, runs, missed, p, there, op, msg, dst⟩
    · rw [aborts] at runs
      obtain ⟨k', ended, phase, code, kMissed, kLate, kept⟩ := State.endTask_begins (code := 1) missed goes (by decide)
      exact ⟨_, runs, ⟨p, kept _ p (Nat.lt_succ_self _) there, op, msg, dst⟩, k', ended, phase, code, kMissed, kLate⟩

end Sys2Proof.Machine

namespace Sys2Proof.Machine

/-! ### Starting the head of a tile's queue (R59, R249, R250, R253, R259) -/

/-- A zeroed range reads 0, and the rest of memory reads as before. -/
theorem memGet_memZero (m : List Host.Cell) (a n k : Nat) :
    memGet (memZero m a n) k = if a ≤ k ∧ k < a + n then 0 else memGet m k := by
  induction m with
  | nil => exact (ite_self _).symm
  | cons e m ih =>
    unfold memZero at ih ⊢
    rw [List.filter_cons]
    by_cases same : e.1 = k
    · subst same
      by_cases zeroed : a ≤ e.1 ∧ e.1 < a + n
      · simp only [zeroed, decide_true, Bool.and_self, Bool.not_true, Bool.false_eq_true, if_false, and_self, if_true] at ih ⊢
        exact ih
      · simp only [← Bool.decide_and, zeroed, decide_false, Bool.not_false, if_true, if_false, memGet]
    · by_cases zeroed : a ≤ e.1 ∧ e.1 < a + n
      · simp only [zeroed, decide_true, Bool.and_self, Bool.not_true, Bool.false_eq_true, if_false, memGet, same]
        exact ih
      · simp only [← Bool.decide_and, zeroed, decide_false, Bool.not_false, if_true, memGet, same, if_false] at ih ⊢
        exact ih

section
variable {s : State} {t : Nat} {l : Launch}

/-! #### The tenant changes -/

/-- The same tenant's memories stay (R250 step 1). -/
theorem State.changeTenant_stays {tenant : Nat} (same : (s.tile t).prevTenant = none ∨ (s.tile t).prevTenant = some tenant) :
    s.changeTenant t tenant = s.updTile t (fun x => { x with prevTenant := some tenant }) := by
  have kept : ¬ (s.tile t).prevTenant.any (fun p => p != tenant) = true := by
    rcases same with h | h <;> simp [h]
  unfold State.changeTenant
  dsimp only
  rw [if_neg kept]

/-- What a change of tenant leaves of the tile. -/
theorem State.changeTenant_tile (tenant : Nat) : ∃ progTag str, (s.changeTenant t tenant).tile t =
    { s.tile t with progTag, str, prevTenant := some tenant } := by
  unfold State.changeTenant
  dsimp only
  split
  · refine ⟨0, { (s.tile t).str with tlb := [] }, ?_⟩
    rw [State.tile_updTile_same, State.tile_updTile_same]
    rfl
  · exact ⟨_, _, State.tile_updTile_same ..⟩

/-- Nothing outside the tile's slot changes with the tenant. -/
theorem State.changeTenant_frame (tenant : Nat) : (s.changeTenant t tenant).net = s.net ∧ (s.changeTenant t tenant).parts = s.parts ∧
    (s.changeTenant t tenant).tick = s.tick ∧ (s.changeTenant t tenant).accesses = s.accesses ∧
    (∀ u, u ≠ t → (s.changeTenant t tenant).tile u = s.tile u) ∧
    (∀ a, (a < tileBase t ∨ tileBase t + 0x200000 ≤ a) → memGet (s.changeTenant t tenant).mem a = memGet s.mem a) := by
  unfold State.changeTenant
  dsimp only
  split
  · refine ⟨rfl, rfl, rfl, rfl, fun u other => ?_, fun a out => ?_⟩
    · rw [State.tile_updTile_ne _ _ _ _ other, State.tile_updTile_ne _ _ _ _ other]
      rfl
    · simp only [State.updTile_mem, State.zeroMem, memGet_memZero, loftAddr, nearAddr, instAddr, loftBytes, nearOff, instOff]
      iterate 3 rw [if_neg (by omega)]
  · exact ⟨rfl, rfl, rfl, rfl, fun u other => State.tile_updTile_ne _ _ _ _ other, fun _ _ => rfl⟩

/-- Another tenant finds the loft, near memory and the program zeroed, and SEQ_PROG_TAG 0 (R250 step 1). -/
theorem State.changeTenant_zeroes {tenant q : Nat} (prev : (s.tile t).prevTenant = some q) (other : q ≠ tenant) :
    ((s.changeTenant t tenant).tile t).progTag = 0 ∧ (∀ o, o < loftBytes → memGet (s.changeTenant t tenant).mem (loftAddr t o) = 0) ∧
    (∀ o, o < 0x20000 → memGet (s.changeTenant t tenant).mem (nearAddr t 0 + o) = 0) ∧
    (∀ o, 0x2000 ≤ o → o < 0x10000 → memGet (s.changeTenant t tenant).mem (instAddr t o) = 0) := by
  have changes : (s.tile t).prevTenant.any (fun p => p != tenant) = true := by simp [prev, other]
  unfold State.changeTenant
  dsimp only
  rw [if_pos changes]
  refine ⟨?_, fun o ho => ?_, fun o ho => ?_, fun o lo hi => ?_⟩
  · rw [State.tile_updTile_same, State.tile_updTile_same]
  all_goals
    simp only [State.updTile_mem, State.zeroMem, memGet_memZero, loftAddr, nearAddr, instAddr, loftBytes, nearOff, instOff] at *
  · rw [if_neg (by omega), if_neg (by omega), if_pos (by omega)]
  · rw [if_neg (by omega), if_pos (by omega)]
  · rw [if_pos (by omega)]

/-! #### The head launch -/

/-- The head launch becomes the tile's task: its start report is sent, and the tile's own state is that of a task which begins. -/
def State.beginTask (s : State) (t : Nat) (k : Task) : State :=
  let l := k.launch
  let s := s.sendMsg (tileEnd t) (tileIo l.ioDie t) (.startReport l.ring l.seq) l.part l.epoch l.tenant
  let s := s.updTile t (fun x => x.begin k)
  ({ s with bad := s.bad.filter (fun p => !p.ofTask t) } : State).updEv t (fun e => { e with cs := e.cs.map (fun c => (c.1, c.2.startTask)) })

theorem State.beginTask_tile (k : Task) : (s.beginTask t k).tile t = (s.tile t).begin k :=
  State.tile_updTile_same s t (fun x => x.begin k)

theorem State.beginTask_frame (k : Task) : (s.beginTask t k).mem = s.mem ∧ (s.beginTask t k).parts = s.parts ∧
    (s.beginTask t k).tick = s.tick ∧ (s.beginTask t k).accesses = s.accesses ∧ ∀ u, u ≠ t → (s.beginTask t k).tile u = s.tile u :=
  ⟨rfl, rfl, rfl, rfl, fun u other => State.tile_updTile_ne s t u (fun x => x.begin k) other⟩

theorem State.beginTask_sent (k : Task) :
    Sent (s.beginTask t k) (tileIo k.launch.ioDie t) (.startReport k.launch.ring k.launch.seq) :=
  ⟨s.net.nextId, _, smGet_smSet_same .., rfl, rfl, rfl⟩

/-- A launch that the tile reports before it starts: the tile records the end, and the report goes to the launch's ring (R254, R266). -/
theorem State.endLaunch_spec (code : Nat) : (∃ fault faultAddr seqCtr, (s.endLaunch t l code).tile t = { s.tile t with fault, faultAddr, seqCtr }) ∧
    (s.endLaunch t l code).mem = s.mem ∧ ∃ r, Sent (s.endLaunch t l code) (tileIo l.ioDie t) (.report r) ∧ r.ring = l.ring ∧ r.seq = l.seq ∧
      r.code = code ∧ r.startTick = 0 := by
  obtain ⟨n, frame⟩ := s.endFields_frame code 0 0 0 0
  unfold State.endLaunch
  revert frame
  generalize s.endFields code 0 0 0 0 = fields
  obtain ⟨⟨thr, unit, pc, addr⟩, u⟩ := fields
  rintro rfl
  dsimp only
  refine ⟨?_, ?_, { ioDie := l.ioDie, ring := l.ring, seq := l.seq, code, fThread := thr, fUnit := unit, fPc := pc.setWidth 16, fAddr := addr },
    ?_, rfl, rfl, rfl, rfl⟩
  · have recorded : ∀ x : Tile, ∃ fault faultAddr, x.recordEnd code thr unit pc addr = { x with fault, faultAddr } := by
      intro x
      unfold Tile.recordEnd
      split
      · exact ⟨_, _, rfl⟩
      · exact ⟨_, _, rfl⟩
    obtain ⟨fault, faultAddr, e⟩ := recorded (s.tile t)
    have tile : (s.updTile t (fun x => x.recordEnd code thr unit pc addr)).tile t = { s.tile t with fault, faultAddr } :=
      (State.tile_updTile_same ..).trans e
    refine ⟨fault, faultAddr, ctrAdd (s.tile t).seqCtr 0x118 1, ?_⟩
    rw [State.seqCtrAdd_tile_same]
    exact congrArg (fun x : Tile => { x with seqCtr := ctrAdd x.seqCtr 0x118 1 }) tile
  · rw [State.seqCtrAdd_state]
    rfl
  · rw [State.seqCtrAdd_state]
    exact ⟨s.net.nextId, _, smGet_smSet_same .., rfl, rfl, rfl⟩

section
variable {rest : List Launch} (head : (s.tile t).queue = l :: rest) (idle : (s.tile t).active = false)
  (tasks : (s.tile t).firmware = false) (awake : (s.ctl t).power = .awake) (due : l.start.toNat ≤ s.tick.count.toNat)
  (fresh : s.launchFresh t l = true) (hard : (s.tickCfg l.part).hard = true → s.hardMayStart = true ∧ s.tileHeld t = false)
include head idle tasks awake due fresh hard

/-- The head launch of an idle tile: a miss notice where its deadline has passed, then its end or its start. -/
theorem exec_taskStart_head :
    let late := s.pastGuard l.deadline
    let edges := if late then min 255 (s.tick.edgesSince l.deadline.toNat) else 0
    let u := if late then s.sendMiss t l else s
    exec (.taskStart t) s = .next (if late && s.aborts l.part then (u.updTile t (fun x => { x with queue := x.queue.drop 1 })).endLaunch t l 1
      else (u.beginTask t { launch := l, missed := late, epoch := l.epoch, lateEdges := edges }).changeTenant t l.tenant) := by
  intro late edges u
  have allowed : ((s.tickCfg l.part).hard && (!s.hardMayStart || s.tileHeld t)) = false := by
    cases isHard : (s.tickCfg l.part).hard with
    | false => rfl
    | true => simp [hard isHard]
  have still : u.aborts l.part = s.aborts l.part := by
    unfold u
    split <;> rfl
  rw [exec_taskStart, ← still]
  refine congrArg Host.Outcome.next ?_
  dsimp only
  rw [head]
  dsimp only
  rw [if_neg (by simp [idle, tasks, awake]), if_neg (by simpa using due), if_neg (by simp [allowed]), if_neg (by simp [fresh])]
  rfl
end
end

/-- Settles O28: the launch that becomes the tile's task, and the one that its deadline ends first. -/
theorem taskStartsFromTheQueue : Obligations.TaskStartsFromTheQueue := by
  unfold Obligations.TaskStartsFromTheQueue
  intro s t l rest x head idle tasks awake due fresh hard
  refine ⟨fun before => ?_, fun late aborts => ?_⟩
  · have runs := exec_taskStart_head head idle tasks awake due fresh hard
    simp only [before, Bool.false_and, Bool.false_eq_true, if_false] at runs
    refine ⟨_, runs, ?_⟩
    let k : Task := { launch := l, epoch := l.epoch }
    let u := s.beginTask t k
    obtain ⟨mem, parts, tick, accesses, others⟩ := State.beginTask_frame (s := s) (t := t) k
    have begun : u.tile t = x.begin k := State.beginTask_tile k
    have queue : (u.tile t).queue = rest := by rw [begun]; exact congrArg (List.drop 1) head
    have prev : (u.tile t).prevTenant = x.prevTenant := by rw [begun]; rfl
    obtain ⟨net, parts', tick', accesses', others', outside⟩ := State.changeTenant_frame (s := u) (t := t) l.tenant
    obtain ⟨progTag, str, tile⟩ := State.changeTenant_tile (s := u) (t := t) l.tenant
    obtain ⟨id, p, sent⟩ := State.beginTask_sent (s := s) (t := t) k
    refine ⟨?_, ?_, ?_, ?_, ?_, ?_, ?_, ⟨id, p, by rw [net]; exact sent⟩, fun v other => (others' v other).trans (others v other), fun same => ?_,
      fun q was other => State.changeTenant_zeroes (prev.trans was) other, fun a out => ?_, parts'.trans parts, tick'.trans tick,
      accesses'.trans accesses⟩
    · rw [tile, begun]
      rfl
    · rw [tile]
      exact queue
    · rw [tile, begun]
      rfl
    · rw [tile, begun]
      rfl
    · rw [tile, begun]
      rfl
    · rw [tile]
    · rw [tile, begun]
      rfl
    · rw [State.changeTenant_stays (by rw [prev]; exact same)]
      refine ⟨mem, ?_⟩
      rw [State.tile_updTile_same, begun]
      rfl
    · rw [outside a out, mem]
  · have runs := exec_taskStart_head head idle tasks awake due fresh hard
    simp only [late, aborts, Bool.and_self, if_true] at runs
    refine ⟨_, runs, ?_⟩
    let u := (s.sendMiss t l).updTile t (fun x => { x with queue := x.queue.drop 1 })
    have dropped : u.tile t = { x with queue := rest } := by
      refine (State.tile_updTile_same ..).trans ?_
      exact congrArg (fun q : List Launch => { x with queue := q.drop 1 }) head
    obtain ⟨⟨fault, faultAddr, seqCtr, tile⟩, mem, report⟩ := State.endLaunch_spec (s := u) (t := t) (l := l) 1
    refine ⟨?_, mem, report⟩
    rw [tile, dropped]

end Sys2Proof.Machine

namespace Sys2Proof.Machine

/-! ### The record of a ring's only descriptor (R513, R514, R524) -/

section
variable {s : State} {r seq : Nat} {x : Ring} {h : Held}

/-- The ring with its one descriptor done. -/
def Ring.doneWith (x : Ring) (h : Held) (c : Record) : Ring := { x with held := [{ h with st := .done c }] }

/-- The state with the record of a ring's one descriptor written. -/
def State.recordLone (s : State) (r seq : Nat) (x : Ring) (h : Held) (c : Record) : State :=
  (s.updHeld r seq (fun h => { h with st := .done c })).popRecord r (x.doneWith h c) { h with st := .done c } [] c

theorem State.updHeld_lone (f : Held → Held) (ring : smGet s.rings r = some x) (held : x.held = [h]) (first : h.seq = seq) :
    smGet (s.updHeld r seq f).rings r = some { x with held := [f h] } := by
  refine (State.smGet_updRing _ ring).trans ?_
  simp [held, first]

/-- The written record leaves the ring empty and the functions as they were. -/
theorem State.recordLone_spec (ring : smGet s.rings r = some x) (held : x.held = [h]) (first : h.seq = seq) (c : Record) :
    smGet (s.recordLone r seq x h c).rings r = some { x with held := [], recorded := x.recorded + 1 } ∧
    ∀ d f, (s.recordLone r seq x h c).func d f = s.func d f := by
  obtain ⟨popped, func⟩ := State.popRecord_spec (State.updHeld_lone (fun h => { h with st := .done c }) ring held first)
    { h with st := .done c } [] c
  exact ⟨popped, fun d f => (func d f).trans (s.func_updRing r _ d f)⟩

/-- The ring after its fault. -/
theorem State.ringFault_ring (cause : Nat) (y : Ring) (ring : smGet s.rings r = some x) :
    smGet (s.ringFault r cause y).rings r = some { x with stopped := true, toFetch := 0 } := by
  simp only [State.ringFault, State.hstErr, State.hstCtr, State.updHost_rings, State.event_rings]
  exact State.smGet_updRing _ ring

/-- A ring that holds one descriptor writes its record at once, and its fault after it where a descriptor read has failed. -/
theorem State.done_lone (ring : smGet s.rings r = some x) (running : (s.func x.port x.fn).st = .running) (held : x.held = [h])
    (first : h.seq = seq) (c : Record) : s.done r seq c =
      if x.readFault then (s.recordLone r seq x h c).ringFault r 3 (x.doneWith h c) else s.recordLone r seq x h c := by
  have ring0 := State.updHeld_lone (fun h => { h with st := .done c }) ring held first
  have func0 := s.func_updRing r (fun x => { x with held := x.held.map (fun h => if h.seq = seq then { h with st := .done c } else h) })
  obtain ⟨ring1, -⟩ := State.recordLone_spec ring held first c
  show (s.updHeld r seq (fun h => { h with st := .done c })).flushRing r (256 + 1) = _
  rw [State.flushRing_done ring0 ((congrArg Func.st (func0 x.port x.fn)).trans running) rfl rfl]
  simp only [List.isEmpty_nil, Bool.and_true]
  split
  · exact State.flushRing_empty (State.ringFault_ring 3 _ ring1) rfl
  · exact State.flushRing_empty ring1 rfl

/-- Where no RING_DESTROY waits for the ring, its one descriptor leaves nothing more to do. -/
theorem State.finish_lone (ring : smGet s.rings r = some x) (running : (s.func x.port x.fn).st = .running) (held : x.held = [h])
    (first : h.seq = seq) (stays : x.destroying = none) (c : Record) : s.finish r seq c =
      if x.readFault then (s.recordLone r seq x h c).ringFault r 3 (x.doneWith h c) else s.recordLone r seq x h c := by
  obtain ⟨ring1, -⟩ := State.recordLone_spec ring held first c
  unfold State.finish
  rw [State.done_lone ring running held first c]
  split
  · simp only [State.ringFault_ring 3 (x.doneWith h c) ring1, stays]
  · simp only [ring1, stays]

end

/-! ### A task whose report reaches a ring that a failed read has stopped -/

theorem Delivered.control {s : State} {id : Nat} {p : Packet} {m : Msg} (arrives : Delivered s id p m) (go : Packet → State → State) :
    s.control id go = go p s := by
  unfold State.control
  rw [arrives.here]
  exact if_neg (by rw [arrives.intact]; decide)

/-- The state in which a report's record is written: its packet is taken, and its descriptor may be followed by the next launch. -/
def State.takeReport (s : State) (id r : Nat) (q : TaskReport) : State :=
  (s.dropPkt id).updHeld r q.seq (fun h => { h with launchSent := false, extents := q.extents })

theorem exec_completionReport_delivered {s : State} {id r : Nat} {p : Packet} {q : TaskReport} (first : s.reportFor r = some id)
    (arrives : Delivered s id p (.report q)) :
    exec (.completionReport r) s = .next ((s.takeReport id r q).finish r q.seq (q.record p.src.router)) := by
  rw [exec_completionReport]
  unfold execCompletionReport
  rw [first]
  simp only [arrives.control, arrives.msg]
  rfl

/-- The report of the only descriptor of a ring. -/
def lateReport : TaskReport := { ring := 0, seq := 5, code := 0 }

/-- The packet with the report, at the I/O die. -/
def lateReportPacket : Packet where
  op := .control
  src := tileEnd 0
  dst := tileIo 0 0
  pos := (tileIo 0 0).router
  out := true
  msg := .report lateReport

/-- The report's descriptor. -/
def lateHeld : Held := { seq := 5, bytes := 1, st := .started }

/-- A ring with one descriptor, in which a descriptor read has failed (R513). -/
def failedRing : Ring where
  port := 0
  fn := 0
  sq := 0x1000
  cq := 0x2000
  sizeLog2 := 4
  slot := 0
  fetched := 6
  recorded := 5
  stopped := true
  readFault := true
  held := [lateHeld]

/-- The report has arrived at that ring, whose running function has no event ring. -/
def reportArrives : State := { State.reset with
  rings := [(0, failedRing)]
  funcs := [(fnKey 0 0, { st := .running })]
  net := { pkts := [(0, lateReportPacket)], nextId := 1 } }

theorem reportArrives_delivered : Delivered reportArrives 0 lateReportPacket (.report lateReport) := ⟨by decide, rfl, rfl⟩

/-- The function counts the event of the ring's fault. -/
theorem lateReport_dropped : (((reportArrives.takeReport 0 0 lateReport).finish 0 5 (lateReport.record 0)).func 0 0).evDropped = 1 := by
  have ring : smGet (reportArrives.takeReport 0 0 lateReport).rings 0 = some failedRing := rfl
  obtain ⟨ring1, func1⟩ := State.recordLone_spec ring rfl rfl (h := lateHeld) (seq := 5) (lateReport.record 0)
  rw [State.finish_lone (h := lateHeld) (seq := 5) ring rfl rfl rfl rfl, if_pos (show failedRing.readFault = true from rfl)]
  rw [(State.ringFault_spec 3 ring1 0 0 (failedRing.doneWith lateHeld (lateReport.record 0)) ⟨rfl, rfl⟩ (by rw [func1]; rfl)).2, func1]
  rfl

/-- Refutes O30: the completion report of the one descriptor of a ring in which a descriptor read has failed. Its record is followed
by the ring's fault (R513), and the function, which has no event ring, counts the dropped event: the record is not all that changes.
The clause does not say that no descriptor read of the ring has failed. -/
theorem not_reportsReachTheRing : ¬ Obligations.ReportsReachTheRing := by
  unfold Obligations.ReportsReachTheRing
  intro h
  have first : reportArrives.reportFor 0 = some 0 := by decide
  obtain ⟨-, -, -, completion⟩ := h reportArrives
  obtain ⟨s', runs, s1, h1, unchanged, -, -, recorded⟩ := completion 0 0 lateReportPacket lateReport failedRing lateHeld first
    reportArrives_delivered rfl rfl rfl rfl rfl rfl rfl
  rw [exec_completionReport_delivered first reportArrives_delivered] at runs
  have before : (s'.func 0 0).evDropped = 0 := by
    rw [recorded.state, unchanged]
    rfl
  obtain rfl := Host.Outcome.next.inj runs
  exact absurd (before.symm.trans lateReport_dropped) (by decide)

end Sys2Proof.Machine

namespace Sys2Proof.Machine

/-! ### The bytes of a record in host memory (R514, R524) -/

/-- Writes at the keys of positions from k on leave the other keys. -/
theorem smGet_foldl_smSet_ne {α : Type} (key : Nat → Nat) (j : Nat) : ∀ (bs : List α) (k : Nat) (m : SMap α),
    (∀ i, i < bs.length → j ≠ key (k + i)) → smGet ((bs.zipIdx k).foldl (fun m e => smSet m (key e.2) e.1) m) j = smGet m j
  | [], _, _, _ => rfl
  | b :: bs, k, m, other => by
    have later : ∀ i, i < bs.length → j ≠ key (k + 1 + i) := fun i small => by
      rw [Nat.add_assoc, Nat.add_comm 1]
      exact other (i + 1) (by simpa using small)
    rw [List.zipIdx_cons, List.foldl_cons, smGet_foldl_smSet_ne key j bs (k + 1) _ later]
    exact smGet_smSet_ne m (key k) j b (other 0 (by simp))

/-- A list written at keys of its positions, no two of them equal, stands at its keys. -/
theorem smGet_foldl_smSet {α : Type} (key : Nat → Nat) (d : α) : ∀ (bs : List α) (k : Nat) (m : SMap α),
    (∀ i j, i < bs.length → j < bs.length → key (k + i) = key (k + j) → i = j) → ∀ i, i < bs.length →
    smGet ((bs.zipIdx k).foldl (fun m e => smSet m (key e.2) e.1) m) (key (k + i)) = some (bs.getD i d)
  | [], _, _, _, _, empty => absurd empty (Nat.not_lt_zero _)
  | b :: bs, k, m, apart, i, small => by
    rw [List.zipIdx_cons, List.foldl_cons]
    cases i with
    | zero =>
      have last : ∀ i, i < bs.length → key (k + 0) ≠ key (k + 1 + i) := fun i small same => by
        rw [Nat.add_assoc, Nat.add_comm 1] at same
        exact absurd (apart 0 (i + 1) (by simp) (by simpa using small) same) (by simp)
      rw [smGet_foldl_smSet_ne key _ bs (k + 1) _ last]
      exact smGet_smSet_same m (key k) b
    | succ i =>
      have shift : ∀ i, k + 1 + i = k + (i + 1) := fun i => by rw [Nat.add_assoc, Nat.add_comm 1]
      have rest := smGet_foldl_smSet key d bs (k + 1) (smSet m (key k) b) (fun i j hi hj same => by
        rw [shift, shift] at same
        exact Nat.succ.inj (apart (i + 1) (j + 1) (by simpa using hi) (by simpa using hj) same)) i (by simpa using small)
      rw [shift] at rest
      exact rest

/-- Bytes written to host memory stand at their addresses. -/
theorem State.hostWr_bytes (s : State) (d a : Nat) (bs : List Byte) (short : bs.length ≤ 2 ^ 64) (i : Nat) (small : i < bs.length) :
    smGet (s.hostWr d a bs).hostMem (2 ^ 64 * d + (a + i) % 2 ^ 64) = some (bs.getD i 0) := by
  have stands := smGet_foldl_smSet (fun i => 2 ^ 64 * d + (a + i) % 2 ^ 64) 0 bs 0 s.hostMem
    (fun i j hi hj same => by simp only [Nat.zero_add] at same; omega) i small
  rw [Nat.zero_add] at stands
  exact stands

theorem Record.bytes_length (c : Record) (seq phase : Nat) : (c.bytes seq phase).length = 64 := by
  delta Record.bytes
  simp

section
variable {s : State} {r seq : Nat} {x : Ring} {h : Held}

/-- The record of a descriptor without extents is one write of 64 bytes. -/
theorem State.writeRecord_plain (s : State) (x : Ring) (c : Record) (plain : h.extents = []) :
    s.writeRecord x h c = (s.hostWr x.port (x.cq.toNat + 64 * (h.seq % 2 ^ x.sizeLog2))
      ({ c with cookie := BitVec.ofNat 32 (dfield h.bytes 4 4), extCount := 0, endTick := s.tick.count }.bytes h.seq
        (1 - h.seq / 2 ^ x.sizeLog2 % 2))).hstCtr x.port 0x110 1 := by
  simp only [State.writeRecord, plain, List.zipIdx_nil, List.foldl_nil, ite_self, List.length_nil, List.isEmpty_nil, Bool.not_true,
    Bool.false_and, Bool.false_eq_true, if_false]
  rfl

theorem State.updRing_frame (s : State) (r : Nat) (f : Ring → Ring) : ∃ r1, s.updRing r f = { s with rings := r1 } := by
  unfold State.updRing
  split
  · exact ⟨_, rfl⟩
  · exact ⟨_, rfl⟩

/-- Where the record of a descriptor stands in the completion ring. -/
def Ring.recordAddr (x : Ring) (seq : Nat) : Nat := x.cq.toNat + 64 * (seq % 2 ^ x.sizeLog2)

/-- The 64 bytes of the record of a descriptor without extents. -/
def Held.recordBytes (h : Held) (x : Ring) (c : Record) (now : DWord) : List Byte :=
  { c with cookie := BitVec.ofNat 32 (dfield h.bytes 4 4), extCount := 0, endTick := now }.bytes h.seq (1 - h.seq / 2 ^ x.sizeLog2 % 2)

/-- A write to host memory between changes of the rings, counted by the host port. -/
theorem State.hostWr_between (s : State) (rings0 rings1 : SMap Ring) (d a : Nat) (bs : List Byte) : ∃ host,
    { (({ s with rings := rings0 } : State).hostWr d a bs).hstCtr d 0x110 1 with rings := rings1 } =
      { s.hostWr d a bs with rings := rings1, host } := ⟨_, rfl⟩

/-- A record without extents is one write to host memory. -/
theorem State.recordLone_plain (s : State) (r seq : Nat) (x : Ring) (c : Record) (plain : h.extents = []) : ∃ rings host,
    s.recordLone r seq x h c = { s.hostWr x.port (x.recordAddr h.seq) (h.recordBytes x c s.tick.count) with rings, host } := by
  obtain ⟨r1, begun⟩ := s.updRing_frame r (fun x => { x with held := x.held.map (fun h => if h.seq = seq then { h with st := .done c } else h) })
  have written := State.writeRecord_plain (s.updHeld r seq (fun h => { h with st := .done c })) (x.doneWith h c) c
    (show ({ h with st := HeldState.done c } : Held).extents = [] from plain)
  obtain ⟨r2, popped⟩ := State.updRing_frame ((s.updHeld r seq (fun h => { h with st := .done c })).writeRecord (x.doneWith h c)
    { h with st := .done c } c) r (fun y => y.pop [])
  unfold State.recordLone State.popRecord
  rw [popped, written, State.updHeld, begun]
  exact ⟨_, s.hostWr_between ..⟩

theorem Held.recordBytes_length (h : Held) (x : Ring) (c : Record) (now : DWord) : (h.recordBytes x c now).length = 64 :=
  Record.bytes_length ..

/-- The one descriptor of a ring is recorded as soon as it is done. -/
theorem Waits.finish_recorded (waits : Waits s r seq x h) (c : Record) : Recorded s (s.finish r seq c) r x h c := by
  obtain ⟨ring, running, held, first, plain, stays, sound⟩ := waits
  obtain ⟨ring1, -⟩ := State.recordLone_spec ring held first c
  obtain ⟨rings, host, written⟩ := s.recordLone_plain r seq x c plain
  obtain ⟨hostMem, wrote⟩ := s.hostWr_frame x.port (x.recordAddr h.seq) (h.recordBytes x c s.tick.count)
  have bytes := s.hostWr_bytes x.port (x.recordAddr h.seq) (h.recordBytes x c s.tick.count) (by rw [Held.recordBytes_length]; decide)
  rw [Held.recordBytes_length, wrote] at bytes
  rw [State.finish_lone ring running held first stays c, if_neg (by rw [sound]; decide)]
  refine ⟨by rw [written, wrote], ring1, ?_⟩
  rw [written, wrote]
  exact bytes

end
end Sys2Proof.Machine

namespace Sys2Proof.Machine

/-! ### Starting a ring's only descriptor (R68, R516, R517) -/

section
variable {s : State} {r type : Nat} {x : Ring} {h : Held}

theorem Alone.waits (alone : Alone s r type x h) : Waits s r h.seq x h :=
  ⟨alone.ring, alone.running, alone.held, rfl, alone.plain, alone.stays, alone.sound⟩

/-- The one descriptor of a ring is the next to start: none before it holds it back. -/
theorem Alone.startDesc (alone : Alone s r type x h) (go : Ring → Held → State → State) : s.startDesc r type go = go x h s := by
  have next : s.nextDesc r = some (x, h) := by
    unfold State.nextDesc
    simp [alone.ring, alone.running, alone.held, alone.fetched, alone.unsent]
  unfold State.startDesc
  rw [next]
  exact if_pos alone.type

/-- The one descriptor of a ring as the ring holds it after a change. -/
theorem Alone.updHeld (alone : Alone s r type x h) (f : Held → Held) {s' : State} (rings : s'.rings = s.rings) :
    smGet (s'.updHeld r h.seq f).rings r = some { x with held := [f h] } :=
  State.updHeld_lone f (rings ▸ alone.ring) alone.held rfl

theorem Alone.started (alone : Alone s r type x h) : smGet (s.started r h.seq).rings r = some { x with held := [{ h with st := .started }] } :=
  alone.updHeld _ rfl

theorem State.started_frame (s : State) (r seq : Nat) : ∃ r1, s.started r seq = { s with rings := r1 } := s.updRing_frame r _

/-- A descriptor that is done at once is recorded at once. -/
theorem Alone.ends (alone : Alone s r type x h) {d : Instr} {c : Record} (runs : exec d s = .next (s.finish r h.seq c)) :
    Ends d s s r x h c :=
  ⟨_, runs, alone.waits.finish_recorded c⟩

theorem dfield_lt (b : BitVec 1024) (off n : Nat) : dfield b off n < 2 ^ (8 * n) := Nat.mod_lt _ (Nat.two_pow_pos _)

/-- A field of a descriptor fits the word that holds it. -/
theorem toNat_ofNat_dfield (b : BitVec 1024) (off n : Nat) {w : Nat} (fits : 8 * n ≤ w) :
    (BitVec.ofNat w (dfield b off n)).toNat = dfield b off n := by
  rw [BitVec.toNat_ofNat]
  exact Nat.mod_eq_of_lt (Nat.lt_of_lt_of_le (dfield_lt b off n) (Nat.pow_le_pow_right (by decide) fits))

/-! ### TASK (R62, R248, R518) -/

/-- The ring engine sends the launch of its descriptor to the tile, and waits for the start report. -/
def State.sendLaunch (s : State) (r : Nat) (x : Ring) (h : Held) (t : Nat) : State :=
  let l := s.launchOf r x h t
  (s.sendMsg (tileIo x.port (dfield h.bytes 0x12 2)) (tileEnd (dfield h.bytes 0x12 2)) (.launch l) (dfield h.bytes 0x11 1) l.epoch
    l.tenant).updHeld r h.seq (fun h => { h with launchSent := true })

theorem State.sendLaunch_frame (s : State) (r : Nat) (x : Ring) (h : Held) (t : Nat) :
    ∃ r1, s.sendLaunch r x h t = { s.sendMsg (tileIo x.port (dfield h.bytes 0x12 2)) (tileEnd (dfield h.bytes 0x12 2)) (.launch (s.launchOf r x h t))
      (dfield h.bytes 0x11 1) (s.launchOf r x h t).epoch (s.launchOf r x h t).tenant with rings := r1 } := State.updRing_frame ..

theorem exec_task_badLayout (alone : Alone s r 1 x h) (bad : taskOk h.bytes = false) :
    exec (.task r) s = .next (s.finish r h.seq { status := 0x40 }) := by
  rw [exec_task]
  unfold execTask
  rw [alone.startDesc, if_pos (by rw [bad]; decide)]
  rfl

theorem exec_task_notPermitted (alone : Alone s r 1 x h) (good : taskOk h.bytes = true) {t : Nat} (tenant : s.ringTenant x = some t)
    (refused : s.mayLaunch t (dfield h.bytes 0x11 1) (dfield h.bytes 0x12 2) = false) :
    exec (.task r) s = .next (s.finish r h.seq { status := 0x41 }) := by
  rw [exec_task]
  unfold execTask
  rw [alone.startDesc, if_neg (by rw [good]; decide)]
  simp only [tenant, refused, Bool.not_false, if_true]
  rfl

theorem exec_task_sent (alone : Alone s r 1 x h) (good : taskOk h.bytes = true) {t : Nat} (tenant : s.ringTenant x = some t)
    (may : s.mayLaunch t (dfield h.bytes 0x11 1) (dfield h.bytes 0x12 2) = true) (awake : s.bup.deep = false)
    (soft : (s.tickCfg (dfield h.bytes 0x11 1)).hard = false) (room : s.launchesAt (dfield h.bytes 0x12 2) < 4) :
    exec (.task r) s = .next (s.sendLaunch r x h t) := by
  rw [exec_task]
  unfold execTask
  rw [alone.startDesc, if_neg (by rw [good]; decide)]
  simp only [tenant, may, soft, awake, Nat.not_le.mpr room, Bool.not_true, Bool.false_and, Bool.or_self, Bool.false_eq_true, if_false,
    decide_false]
  rfl

/-- The fields of the launch are those of the descriptor. -/
theorem State.launchOf_fields (s : State) (r : Nat) (x : Ring) (h : Held) (t : Nat) : let l := s.launchOf r x h t
    l.entry.toNat = dfield h.bytes 0x16 2 ∧ l.progAddr.toNat = dfield h.bytes 0x18 8 ∧
    (∀ i, i < 4 → (l.args.getD i 0).toNat = dfield h.bytes (0x38 + 8 * i) 8) ∧
    (dfield h.bytes 8 8 ≠ 0 → l.start.toNat = dfield h.bytes 8 8) ∧
    (dfield h.bytes 8 8 = 0 → l.start = s.tick.count + (if s.tick.inGuard then 1 else 0)) := by
  refine ⟨toNat_ofNat_dfield _ _ _ (by decide), toNat_ofNat_dfield _ _ _ (by decide), fun i small => ?_, fun given => ?_, fun next => ?_⟩
  · have arg : (s.launchOf r x h t).args.getD i 0 = BitVec.ofNat 64 (dfield h.bytes (0x38 + 8 * i) 8) := by
      simp [State.launchOf, List.getD_eq_getElem?_getD, List.getElem?_range small]
    rw [arg]
    exact toNat_ofNat_dfield _ _ _ (by decide)
  · have start : (s.launchOf r x h t).start = BitVec.ofNat 64 (dfield h.bytes 8 8) := if_neg given
    rw [start]
    exact toNat_ofNat_dfield _ _ _ (by decide)
  · have start : (s.launchOf r x h t).start = if s.tick.inGuard then s.tick.count + 1 else s.tick.count := if_pos next
    rw [start]
    split
    · rfl
    · exact (BitVec.add_zero _).symm

end
end Sys2Proof.Machine

namespace Sys2Proof.Machine

/-! ### What reads of module memory leave: the fabric and the rings (R302 to R306, R392) -/

/-- The fabric and the rings of `s'` are those of `s`. -/
structure SameFab (s s' : State) : Prop where
  fab : s'.fab = s.fab
  rings : s'.rings = s.rings

theorem SameFab.refl (s : State) : SameFab s s := ⟨rfl, rfl⟩

theorem SameFab.trans {s s' s'' : State} (h : SameFab s s') (h' : SameFab s' s'') : SameFab s s'' :=
  ⟨h'.fab.trans h.fab, h'.rings.trans h.rings⟩

theorem SameFab.foldl {α : Type} {f : State → α → State} (step : ∀ s x, SameFab s (f s x)) (l : List α) (s : State) :
    SameFab s (l.foldl f s) :=
  ⟨foldl_leaves State.fab (fun s x => (step s x).fab) l s, foldl_leaves State.rings (fun s x => (step s x).rings) l s⟩

/-- The state of a pair that a `match` has taken apart. -/
theorem SameFab.of_snd {α : Type} {s s' : State} {q : α × State} {a : α} (eq : q = (a, s')) (h : SameFab s q.2) : SameFab s s' := by
  subst eq
  exact h

section
variable {s s' : State} (h : SameFab s s')
include h

theorem SameFab.grnCtr (k off n : Nat) : SameFab s (s'.grnCtr k off n) := h.trans ⟨rfl, rfl⟩
theorem SameFab.grnErr (k kind c off : Nat) : SameFab s (s'.grnErr k kind c off) := h.trans ⟨rfl, rfl⟩
theorem SameFab.updPch (k c : Nat) (f : Pch → Pch) : SameFab s (s'.updPch k c f) := h.trans ⟨rfl, rfl⟩
theorem SameFab.updStack (k : Nat) (f : Stack → Stack) : SameFab s (s'.updStack k f) := h.trans ⟨rfl, rfl⟩
theorem SameFab.updTick (f : Tick → Tick) : SameFab s (s'.updTick f) := h.trans ⟨rfl, rfl⟩
theorem SameFab.updInt (f : Integrity → Integrity) : SameFab s (s'.updInt f) := h.trans ⟨rfl, rfl⟩
theorem SameFab.zeroMem (a n : Nat) : SameFab s (s'.zeroMem a n) := h.trans ⟨rfl, rfl⟩
theorem SameFab.ownerEvent (code part unit detail : Nat) : SameFab s (s'.ownerEvent code part unit detail) :=
  h.trans ⟨State.ownerEvent_fab .., State.ownerEvent_rings ..⟩
theorem SameFab.report (kind source unit addr detail : Nat) (tenant part : Option Nat) (epoch : Byte) :
    SameFab s (s'.report kind source unit addr detail tenant part epoch) := h.trans ⟨State.report_fab .., State.report_rings ..⟩
end

section
variable (s : State)

theorem State.grnEffect_sameFab (p : Packet) (a : Nat) : SameFab s (s.grnEffect p a).2 := by
  unfold State.grnEffect
  split
  · exact .refl s
  · exact ⟨rfl, rfl⟩
  · exact ⟨rfl, rfl⟩

theorem State.grnEnter_sameFab (k off : Nat) (q : PchReq) : SameFab s (s.grnEnter k off q) := by
  have effect := s.grnEffect_sameFab q.pkt (stackBase k + off)
  unfold State.grnEnter
  dsimp only
  split
  · exact ⟨(State.respond_fab ..).trans effect.fab, (State.respond_rings ..).trans effect.rings⟩
  · exact ⟨effect.fab, effect.rings⟩

theorem State.releaseScrubbed_sameFab (k row : Nat) : SameFab s (s.releaseScrubbed k row) := by
  unfold State.releaseScrubbed
  dsimp only
  exact .foldl (fun s (w : Nat × PchReq) => ((SameFab.refl s).updPch k w.1 _).trans (State.grnEnter_sameFab ..)) _ s

theorem State.scrub_sameFab (k row : Nat) : SameFab s (s.scrub k row) := by
  unfold State.scrub
  dsimp only
  exact (((SameFab.refl s).zeroMem ..).updStack ..).trans (State.releaseScrubbed_sameFab ..)

theorem State.pasrWake_sameFab (k : Nat) : SameFab s (s.pasrWake k) := by
  unfold State.pasrWake
  dsimp only
  split
  · exact ⟨rfl, rfl⟩
  · exact .refl s

theorem State.activate_sameFab (k c bank row off : Nat) (rt : Bool) : SameFab s (s.activate k c bank row off rt) := by
  unfold State.activate
  dsimp only
  have opened := fun f => ((SameFab.refl s).grnCtr k 0x210 1).updPch k c f
  have charged := fun f g => ((opened f).grnCtr k 0x230 1).updPch k c g
  have late := fun f g => ((charged f g).grnCtr k 0x238 1).grnErr k 5 c (off / 256 * 256)
  split
  · split
    · split
      · exact late ..
      · exact ((late ..).ownerEvent ..).updTick ..
    · exact charged ..
  · exact opened ..

theorem State.useRow_sameFab (k c bank row off : Nat) (rt older : Bool) : SameFab s (s.useRow k c bank row off rt older) := by
  unfold State.useRow
  split
  · split
    · exact (SameFab.refl s).updPch ..
    · exact s.activate_sameFab ..
  · exact s.activate_sameFab ..

/-- The stack wakes and the row is scrubbed before it is read. -/
def State.readyRow (k off : Nat) : State :=
  if ((s.pasrWake k).stack k).rowUnscrubbed off then ((s.pasrWake k).grnCtr k 0x268 1).scrub k (off / 0x400000) else s.pasrWake k

theorem State.readyRow_sameFab (k off : Nat) : SameFab s (s.readyRow k off) := by
  unfold State.readyRow
  split
  · exact ((s.pasrWake_sameFab k).grnCtr ..).trans (State.scrub_sameFab ..)
  · exact s.pasrWake_sameFab k

theorem State.stackFetch_sameFab (k off n : Nat) : SameFab s (s.stackFetch k off n).2 := by
  have opened := fun c bank row older =>
    ((s.readyRow_sameFab k off).trans (State.useRow_sameFab (s.readyRow k off) k c bank row off false older)).grnCtr k 0x200 n
  unfold State.stackFetch
  split
  · exact .refl s
  · dsimp only
    rw [← State.readyRow]
    split <;> dsimp only
    · exact opened ..
    · exact ((opened ..).grnCtr ..).updInt ..
    · exact (((opened ..).grnCtr ..).grnErr ..).report ..

theorem State.readPhys_sameFab (g : DWord) (n : Nat) : SameFab s (s.readPhys g n).2 := by
  unfold State.readPhys
  split
  · exact .refl s
  · exact .refl s
  · split
    · next k off _ =>
      split
      · next eq => exact .of_snd eq (s.stackFetch_sameFab k off n)
      · next eq => exact .of_snd eq (s.stackFetch_sameFab k off n)
    · exact .refl s

theorem State.tableEntry_sameFab (a : Nat) : SameFab s (s.tableEntry a).2 := by
  unfold State.tableEntry
  split
  · exact s.stackFetch_sameFab ..
  · exact .refl s

theorem State.walkFrom_sameFab (tenant va : Nat) (top : Bool) (ls : List Level) (a : Nat) : SameFab s (s.walkFrom tenant va top ls a).2 := by
  induction ls generalizing s top a with
  | nil => exact .refl s
  | cons l ls ih =>
    unfold State.walkFrom
    split
    · exact .refl s
    · split
      · next eq => exact .of_snd eq (s.tableEntry_sameFab _)
      · next eq =>
        have entry := SameFab.of_snd eq (s.tableEntry_sameFab _)
        split
        · exact entry
        · exact entry
        · exact entry.trans (ih ..)

theorem State.walk_sameFab (tenant : Nat) (va : DWord) : SameFab s (s.walk tenant va).2 := by
  unfold State.walk
  split
  · exact .refl s
  · exact s.walkFrom_sameFab ..

theorem State.service_sameFab (d tenant : Nat) (va : DWord) : SameFab s (s.service d tenant va).2 := by
  unfold State.service
  dsimp only
  split
  · split
    · exact .refl s
    · exact ⟨rfl, rfl⟩
  · split
    · next eq => exact (SameFab.of_snd eq (s.walk_sameFab tenant va)).trans ⟨rfl, rfl⟩
    · next eq => exact .of_snd eq (s.walk_sameFab tenant va)

theorem State.translate_sameFab (d tenant : Nat) (va : DWord) (need : Nat) : SameFab s (s.translate d tenant va need).2 := by
  have served := s.service_sameFab d tenant va
  unfold State.translate
  dsimp only
  split
  · split
    · exact served
    · exact served
  · exact served

theorem State.fetchFrom_sameFab (d tenant : Nat) (va : DWord) (away : Option (List Byte)) (fuel off n : Nat) (acc : List Byte) :
    SameFab s (s.fetchFrom d tenant va away fuel off n acc).2 := by
  induction fuel generalizing s off n acc with
  | zero => exact .refl s
  | succ fuel ih =>
    unfold State.fetchFrom
    split
    · exact .refl s
    · dsimp only
      split
      · next eq => exact .of_snd eq (s.translate_sameFab ..)
      · next eq =>
        have translated := SameFab.of_snd eq (s.translate_sameFab ..)
        split
        · next eq => exact (translated.trans (.of_snd eq (State.readPhys_sameFab ..))).trans (ih ..)
        · next eq => exact translated.trans (.of_snd eq (State.readPhys_sameFab ..))
        · next eq =>
          have read := translated.trans (.of_snd eq (State.readPhys_sameFab ..))
          split
          · exact read.trans (ih ..)
          · exact read

theorem State.readLeaves_sameFab (d tenant a stride bytes k i : Nat) : SameFab s (s.readLeaves d tenant a stride bytes k i).2 := by
  induction k generalizing s i with
  | zero => exact .refl s
  | succ k ih =>
    unfold State.readLeaves
    split
    · next eq =>
      have fetched := SameFab.of_snd eq (s.fetchFrom_sameFab ..)
      split
      · next eq => exact fetched.trans (.of_snd eq (ih ..))
      · next eq => exact fetched.trans (.of_snd eq (ih ..))
    · next eq => exact .of_snd eq (s.fetchFrom_sameFab ..)
    · next eq => exact .of_snd eq (s.fetchFrom_sameFab ..)

end
end Sys2Proof.Machine

namespace Sys2Proof.Machine

section
variable {s : State} {r : Nat} {x : Ring} {h : Held}

/-- The launch is on its way to its tile, and the ring waits for its start report. -/
theorem Alone.sendLaunch (alone : Alone s r 1 x h) (t : Nat) : let s' := s.sendLaunch r x h t
    s'.mem = s.mem ∧ s'.tiles = s.tiles ∧ smGet s'.rings r = some { x with held := [{ h with launchSent := true }] } ∧
      Sent s' (tileEnd (dfield h.bytes 0x12 2)) (.launch (s.launchOf r x h t)) := by
  obtain ⟨r1, sent⟩ := s.sendLaunch_frame r x h t
  refine ⟨?_, ?_, alone.updHeld _ (State.sendMsg_rings ..), ?_⟩
  · rw [sent]
    rfl
  · rw [sent]
    rfl
  · rw [sent]
    exact ⟨s.net.nextId, _, smGet_smSet_same .., rfl, rfl, rfl⟩

/-! ### COPY (R447, R519) -/

theorem State.copyAddr_sameFab (s : State) (c : Copy) (space : Nat) (a : DWord) (need : Nat) : SameFab s (s.copyAddr c space a need).2 := by
  unfold State.copyAddr
  split
  · exact .refl s
  · exact s.translate_sameFab ..

/-- Where a copy's end lies, and the state after it has been looked up. -/
def State.copyTarget (s : State) (c : Copy) : Option DWord × State :=
  if c.dstSpace = 1 then (none, s) else s.copyAddr c c.dstSpace c.dst needWrite

theorem State.copyTarget_sameFab (s : State) (c : Copy) : SameFab s (s.copyTarget c).2 := by
  unfold State.copyTarget
  split
  · exact .refl s
  · exact s.copyAddr_sameFab ..

/-- Only a virtual address is walked for. -/
theorem State.copyTarget_untranslated (s : State) (c : Copy) (space : c.dstSpace = 1 ∨ c.dstSpace = 2) : (s.copyTarget c).2 = s := by
  unfold State.copyTarget
  obtain host | local_ := space
  · rw [if_pos host]
  · rw [if_neg (by rw [local_]; decide)]
    unfold State.copyAddr
    rw [if_pos local_]

/-- A copy that starts joins the copies, with a tag and the module of its destination. -/
theorem State.startCopy_eq (s : State) (c : Copy) : ∃ tag dmod,
    s.startCopy c = (s.copyTarget c).2.updFab (fun f => { f with copies := f.copies ++ [{ c with id := tag, dmod }], nextTag := tag + 1 }) :=
  ⟨_, _, rfl⟩

/-- The copy that a descriptor asks for. -/
def State.copyOf (s : State) (r : Nat) (x : Ring) (h : Held) : Copy where
  die := x.port
  ring := r
  seq := h.seq
  src := BitVec.ofNat 64 (dfield h.bytes 8 8)
  dst := BitVec.ofNat 64 (dfield h.bytes 0x10 8)
  size := dfield h.bytes 0x18 8
  srcSpace := dfield h.bytes 0x20 1 % 4
  dstSpace := dfield h.bytes 0x20 1 / 4
  tenant := (s.ringTenant x).getD 0

theorem exec_copy_badLayout (alone : Alone s r 2 x h) (bad : copyOk h.bytes = false) :
    exec (.copy r) s = .next (s.finish r h.seq { status := 0x40 }) := by
  rw [exec_copy]
  unfold execCopy
  rw [alone.startDesc]
  dsimp only
  rw [if_pos (by rw [bad]; decide)]
  rfl

theorem exec_copy_starts (alone : Alone s r 2 x h) (good : copyOk h.bytes = true)
    (src : s.spaceOk x (dfield h.bytes 0x20 1 % 4) = true) (dst : s.spaceOk x (dfield h.bytes 0x20 1 / 4) = true)
    (srcClear : windowOffset (dfield h.bytes 0x20 1 % 4) (dfield h.bytes 8 8) (dfield h.bytes 0x18 8) = none)
    (dstClear : windowOffset (dfield h.bytes 0x20 1 / 4) (dfield h.bytes 0x10 8) (dfield h.bytes 0x18 8) = none)
    (room : s.engineCopies x.port < 16) : exec (.copy r) s = .next ((s.started r h.seq).startCopy (s.copyOf r x h)) := by
  rw [exec_copy]
  unfold execCopy
  rw [alone.startDesc]
  dsimp only
  rw [if_neg (by rw [good]; decide), if_neg (by rw [src, dst]; decide), srcClear, dstClear]
  dsimp only
  rw [if_neg (by omega)]
  rfl

/-- The destination of a copy with a good layout is in one of three spaces. -/
theorem copyOk_dstSpace {b : BitVec 1024} (good : copyOk b = true) :
    dfield b 0x20 1 / 4 = 0 ∨ dfield b 0x20 1 / 4 = 1 ∨ dfield b 0x20 1 / 4 = 2 := by
  unfold copyOk at good
  simp only [Bool.and_eq_true, decide_eq_true_eq, bne_iff_ne] at good
  omega

/-- The copy has started: it stands last among the copies. -/
theorem Alone.startCopy (alone : Alone s r 2 x h) (good : copyOk h.bytes = true) :
    let s' := (s.started r h.seq).startCopy (s.copyOf r x h)
    (dfield h.bytes 0x20 1 / 4 ≠ 0 → s'.mem = s.mem) ∧ smGet s'.rings r = some { x with held := [{ h with st := .started }] } ∧
      ∃ tag dmod, s'.fab.copies = s.fab.copies ++ [{ s.copyOf r x h with id := tag, dmod }] := by
  obtain ⟨tag, dmod, starts⟩ := (s.started r h.seq).startCopy_eq (s.copyOf r x h)
  have kept := (s.started r h.seq).copyTarget_sameFab (s.copyOf r x h)
  obtain ⟨r1, begun⟩ := s.started_frame r h.seq
  intro s'
  refine ⟨fun physical => ?_, ?_, tag, dmod, ?_⟩
  · show ((s.started r h.seq).startCopy (s.copyOf r x h)).mem = s.mem
    rw [starts, State.copyTarget_untranslated _ _ ((copyOk_dstSpace good).resolve_left physical), begun]
    rfl
  · show smGet ((s.started r h.seq).startCopy (s.copyOf r x h)).rings r = _
    rw [starts]
    exact (congrArg (smGet · r) kept.rings).trans alone.started
  · show ((s.started r h.seq).startCopy (s.copyOf r x h)).fab.copies = _
    rw [starts]
    have fab : ((s.started r h.seq).copyTarget (s.copyOf r x h)).2.fab = s.fab := kept.fab.trans (by rw [begun])
    exact congrArg (fun f : Fabric => f.copies ++ [{ s.copyOf r x h with id := tag, dmod }]) fab

/-! ### REDUCE (R455 to R457, R521) -/

/-- A group entry with good parity is read without a report. -/
theorem State.redGroup_state {g : Nat} (sound : s.isBad (.table 2 g) = false) : (s.redGroup g).2 = s := by
  unfold State.redGroup State.badEntry
  rw [sound]
  rfl

/-- The reduction of a member that has combined its leaves. -/
def State.reductionOf (s : State) (r t tag : Nat) (h : Held) (v : List DWord × BitVec 7) : Reduction :=
  let b := h.bytes
  let g := (s.redGroup (dfield b 0x0C 2)).1
  { num := tag, ring := r, seq := h.seq, n := g.n, rank := g.rank, tenant := t, result := BitVec.ofNat 64 (dfield b 0x28 8), vec := v.1, flags := v.2,
    id := { group := dfield b 0x0C 2, rseq := BitVec.ofNat 32 (dfield b 8 4), op := dfield b 0x0E 1, etype := dfield b 0x0F 1,
            count := dfield b 0x10 4, leaves := dfield b 0x14 1, reduce := dfield b 0x15 1 == 1 } }

/-- The state in which a reduction has joined the others. -/
def State.addReduction (s : State) (q : Reduction) : State :=
  s.updFab (fun f => { f with reductions := f.reductions ++ [q], nextTag := q.num + 1 })

theorem exec_reduce_notPermitted (alone : Alone s r 4 x h) (good : reduceOk h.bytes = true) {t : Nat} (tenant : s.ringTenant x = some t)
    (sound : s.isBad (.table 2 (dfield h.bytes 0x0C 2)) = false)
    (refused : (s.redGroup (dfield h.bytes 0x0C 2)).1.valid = false ∨ (s.redGroup (dfield h.bytes 0x0C 2)).1.tenant ≠ t) :
    exec (.reduce r) s = .next (s.finish r h.seq { status := 0x41 }) := by
  rw [exec_reduce]
  unfold execReduce
  rw [alone.startDesc]
  dsimp only
  rw [if_neg (by rw [good]; decide), State.redGroup_state sound, tenant]
  dsimp only
  rw [if_pos (by simpa using refused)]
  rfl

theorem exec_reduce_starts (alone : Alone s r 4 x h) (good : reduceOk h.bytes = true) {t : Nat} (tenant : s.ringTenant x = some t)
    (sound : s.isBad (.table 2 (dfield h.bytes 0x0C 2)) = false) (valid : (s.redGroup (dfield h.bytes 0x0C 2)).1.valid = true)
    (owner : (s.redGroup (dfield h.bytes 0x0C 2)).1.tenant = t) (alone' : ∀ q ∈ s.fab.reductions, q.id.group ≠ dfield h.bytes 0x0C 2)
    {vs : List (List Byte)} {sx : State} (leaves : s.readLeaves (s.redUnit (dfield h.bytes 0x0C 2)) t (dfield h.bytes 0x18 8)
      (dfield h.bytes 0x20 8) (dfield h.bytes 0x10 4 * elemBytes (dfield h.bytes 0x0F 1)) (dfield h.bytes 0x14 1) 0 = (.ok vs, sx)) :
    exec (.reduce r) s = .next (((sx.started r h.seq).addReduction (s.reductionOf r t sx.fab.nextTag h
      (redLeaves (dfield h.bytes 0x0E 1) (dfield h.bytes 0x0F 1) (Nat.log2 (dfield h.bytes 0x14 1))
        (vs.map (fun bs => elements (elemBytes (dfield h.bytes 0x0F 1)) (dfield h.bytes 0x10 4) bs))))).redAdvance sx.fab.nextTag redLevels) := by
  rw [exec_reduce]
  unfold execReduce
  rw [alone.startDesc]
  dsimp only
  rw [if_neg (by rw [good]; decide), State.redGroup_state sound, tenant]
  dsimp only
  rw [if_neg (by simp [valid, owner]), if_neg (by simpa using alone'), leaves]
  rfl

/-- A member of odd rank waits for the credit of its parent before it sends its partial. -/
theorem State.redAdvance_waits {q : Reduction} {tag n : Nat} (found : s.red tag = some q) (level : q.level = 0) (several : q.n ≠ 1)
    (odd : q.rank % 2 = 1) (noCredit : q.credit = false) : s.redAdvance tag (n + 1) = s := by
  unfold State.redAdvance
  rw [found]
  simp [level, several, odd, noCredit]

/-- A reduction whose number is new is the one of that number. -/
theorem State.red_addReduction (s : State) (q : Reduction) (new : ∀ p ∈ s.fab.reductions, p.num ≠ q.num) : (s.addReduction q).red q.num = some q := by
  have none_ : s.fab.reductions.find? (fun p => p.num == q.num) = none := List.find?_eq_none.mpr (fun p member => by simpa using new p member)
  show (s.fab.reductions ++ [q]).find? (fun p => p.num == q.num) = some q
  rw [List.find?_append, none_]
  simp

end
end Sys2Proof.Machine

namespace Sys2Proof.Machine

/-! ### A frame given to an idle port (R428, R433, R452) -/

/-- What a port needs, beside a frame and its credit, to send a block. -/
structure SameLink (s s' : State) (q : Nat) : Prop where
  enable : (s'.kfb (q / 8)).enable = (s.kfb (q / 8)).enable
  st : (s'.fport q).st = (s.fport q).st
  phase : (s'.link q).phase = (s.link q).phase

section
variable {s s' s'' : State} {q : Nat}

theorem SameLink.trans (h : SameLink s s' q) (h' : SameLink s' s'' q) : SameLink s s'' q :=
  ⟨h'.enable.trans h.enable, h'.st.trans h.st, h'.phase.trans h.phase⟩

/-- The link takes a block as before if its retry buffer has room. -/
theorem SameLink.takes (h : SameLink s s' q) (takes : s.linkTakes q = true) (room : (s'.link q).retry.length < 256) : s'.linkTakes q = true := by
  unfold State.linkTakes at takes ⊢
  simp only [Bool.and_eq_true, decide_eq_true_eq] at takes ⊢
  obtain ⟨⟨⟨enable, up⟩, running⟩, -⟩ := takes
  rw [h.enable, h.st, h.phase]
  exact ⟨⟨⟨enable, up⟩, running⟩, room⟩

theorem State.fport_same (s : State) (q : Nat) (f : FPort → FPort) : (s.updFport q f).fport q = f (s.fport q) := by
  rw [State.fport_updFport, if_pos rfl]

theorem State.link_same (s : State) (q : Nat) (f : Link → Link) : (s.updLink q f).link q = f (s.link q) := smGetD_smUpd_same ..

theorem State.updFport_sameLink (s : State) (q : Nat) (f : FPort → FPort) (st : (f (s.fport q)).st = (s.fport q).st) :
    SameLink s (s.updFport q f) q :=
  ⟨rfl, by rw [State.fport_same, st], rfl⟩

theorem State.beginFrame_sameLink (s : State) (q : Nat) (f : Frame) : SameLink s (s.beginFrame q f) q := by
  have counted : ∀ s : State, SameLink s (s.kfbCtr (q / 8) 0x200 1) q := fun s =>
    ⟨(congrArg Kfb.enable (smGetD_smUpd_same s.fab.dies (q / 8) {} (fun k => { k with ctr := ctrAdd k.ctr 0x200 1 }))).trans rfl, rfl, rfl⟩
  exact (s.updFport_sameLink q _ rfl).trans (counted _)

/-- The port after it has begun a frame. -/
theorem State.beginFrame_fport (s : State) (q : Nat) (f : Frame) : ∃ used rrClass,
    (s.beginFrame q f).fport q = { s.fport q with queue := (s.fport q).queue.erase f, used, rrClass } := by
  have begun := s.fport_same q (fun p => { p with
    queue := p.queue.erase f, used := smUpd p.used f.laneKey 0 (fun n => n + f.length),
    rrClass := if f.op.cls = 3 then p.rrClass else (f.op.cls + 1) % 3 })
  exact ⟨_, _, begun⟩

/-- A block that leaves is the last of the retry buffer; its port keeps its state, its queue and the frame that it has half sent. -/
theorem State.pushBlock_spec (s : State) (q : Nat) (us : List FrameUnit) : SameLink s (s.pushBlock q us none) q ∧
    ((s.pushBlock q us none).fport q).queue = (s.fport q).queue ∧ ((s.pushBlock q us none).fport q).txLeft = (s.fport q).txLeft ∧
    ∃ b, ((s.pushBlock q us none).link q).retry = (s.link q).retry ++ [b] ∧ b.units = us := by
  obtain ⟨u, owed, rrCred, b, e, units, port0, link0, kfb0⟩ : ∃ (u : State) (owed : FPort → SMap Nat) (rrCred : FPort → Nat) (b : Link → Block),
      s.pushBlock q us none = (u.updFport q (fun p => { p with owed := owed p, rrCred := rrCred p })).updLink q
        (fun l => { l with retry := l.retry ++ [b l], nextSeq := l.nextSeq + 1 }) ∧ (∀ l, (b l).units = us) ∧
      u.fport = s.fport ∧ u.link = s.link ∧ u.kfb = s.kfb :=
    ⟨((s.free 11).2.free 6).2, _, _,
      fun l => { seq := l.nextSeq, ack := l.accepted, units := us, credSel := _, credCnt := _, echoTx := _, echoRx := _, echoTurn := _ },
      rfl, fun _ => rfl, rfl, rfl, rfl⟩
  have port : (s.pushBlock q us none).fport q = { s.fport q with owed := owed (s.fport q), rrCred := rrCred (s.fport q) } := by
    rw [e, ← port0]
    exact u.fport_same q (fun p => { p with owed := owed p, rrCred := rrCred p })
  have link : (s.pushBlock q us none).link q =
      { s.link q with retry := (s.link q).retry ++ [b (s.link q)], nextSeq := (s.link q).nextSeq + 1 } := by
    rw [e, State.link_same, show (u.updFport q (fun p => { p with owed := owed p, rrCred := rrCred p })).link q = u.link q from rfl, link0]
  have kfb : (s.pushBlock q us none).kfb (q / 8) = s.kfb (q / 8) := by
    rw [e, ← kfb0]
    rfl
  exact ⟨⟨congrArg Kfb.enable kfb, by rw [port], by rw [link]⟩, by rw [port], by rw [port], b (s.link q), by rw [link], units _⟩

/-! #### The units of the blocks -/

variable {f : Frame}

theorem State.nextOf_empty (empty : (s.fport q).queue = []) (cls : Nat) : s.nextOf q cls = none := by
  unfold State.nextOf
  rw [empty]
  rfl

theorem State.nextFrame_empty (empty : (s.fport q).queue = []) : s.nextFrame q = none := by
  unfold State.nextFrame
  rw [State.nextOf_empty empty]
  simp [State.nextOf_empty empty]

/-- The only queued frame is the next of its class, and no other class has one. -/
theorem State.nextOf_only (queue : (s.fport q).queue = [f]) (credit : s.hasCredit q f = true) (cls : Nat) :
    s.nextOf q cls = if f.op.cls = cls then some f else none := by
  unfold State.nextOf
  rw [queue]
  split
  · next same => simp [same, credit]
  · next other => simp [other]

/-- The only queued frame is sent next, whichever class has its turn. -/
theorem State.nextFrame_only (queue : (s.fport q).queue = [f]) (credit : s.hasCredit q f = true) (notControl : f.op.cls ≠ 3) :
    s.nextFrame q = some f := by
  have below : f.op.cls < 3 := by
    revert notControl
    cases f.op <;> decide
  have turn : ∃ i ∈ List.range 3, ((s.fport q).rrClass + i) % 3 = f.op.cls :=
    ⟨(f.op.cls + 3 - (s.fport q).rrClass % 3) % 3, List.mem_range.mpr (Nat.mod_lt _ (by decide)), by omega⟩
  unfold State.nextFrame
  rw [State.nextOf_only queue credit, if_neg notControl]
  dsimp only
  rw [show (List.range 3).findSome? (fun i => s.nextOf q (((s.fport q).rrClass + i) % 3)) =
    (List.range 3).findSome? (fun i => if f.op.cls = ((s.fport q).rrClass + i) % 3 then some f else none) from
    congrArg (List.findSome? · _) (funext fun i => State.nextOf_only queue credit _)]
  obtain ⟨i, member, same⟩ := turn
  cases found : (List.range 3).findSome? (fun i => if f.op.cls = ((s.fport q).rrClass + i) % 3 then some f else none) with
  | none => exact absurd (List.findSome?_eq_none_iff.mp found i member) (by simp [same])
  | some g =>
    obtain ⟨j, -, sent⟩ := List.exists_of_findSome?_eq_some found
    split at sent
    · exact sent.symm
    · cases sent

/-- A port with nothing queued and nothing half sent fills no unit. -/
theorem State.fillUnits_idle (empty : (s.fport q).queue = []) (n room : Nat) (nothing : room = 0 ∨ (s.fport q).txLeft = 0) :
    s.fillUnits q n room = ([], s) := by
  cases n with
  | zero => rfl
  | succ n =>
    unfold State.fillUnits
    rw [State.nextOf_empty empty, State.nextFrame_empty empty]
    dsimp only
    split
    · rfl
    · next room =>
      rw [if_neg (by rw [nothing.resolve_left room]; decide)]

/-- A port with nothing queued sends the rest of the frame that it has half sent. -/
theorem State.fillUnits_rest (empty : (s.fport q).queue = []) (n room : Nat) (half : 0 < (s.fport q).txLeft)
    (fits : (s.fport q).txLeft ≤ room) : s.fillUnits q (n + 1) room =
      (List.replicate (s.fport q).txLeft .data, s.updFport q (fun p => { p with txLeft := 0 })) := by
  have idle := State.fillUnits_idle (s := s.updFport q (fun p => { p with txLeft := 0 })) (q := q) (by rw [State.fport_same]; exact empty) n
    (room - (s.fport q).txLeft) (.inr (by rw [State.fport_same]))
  unfold State.fillUnits
  rw [State.nextOf_empty empty]
  dsimp only
  rw [if_neg (by omega), if_pos half, Nat.min_eq_left fits, Nat.sub_self, idle, List.append_nil]

/-- A port begins its only queued frame, and has half sent what the block does not take. -/
theorem State.fillUnits_only (queue : (s.fport q).queue = [f]) (whole : (s.fport q).txLeft = 0) (credit : s.hasCredit q f = true)
    (notControl : f.op.cls ≠ 3) (n m : Nat) : s.fillUnits q (n + 1) (m + 1) =
      (.head f :: List.replicate (min f.dataUnits m) .data,
        (s.beginFrame q f).updFport q (fun p => { p with txLeft := f.dataUnits - min f.dataUnits m })) := by
  obtain ⟨used, rrClass, begun⟩ := s.beginFrame_fport q f
  have idle := State.fillUnits_idle (s := (s.beginFrame q f).updFport q (fun p => { p with txLeft := f.dataUnits - min f.dataUnits m })) (q := q)
    (by rw [State.fport_same, begun, queue]; simp) n (m - min f.dataUnits m) (by rw [State.fport_same]; dsimp only; omega)
  unfold State.fillUnits
  rw [State.nextOf_only queue credit, if_neg notControl, State.nextFrame_only queue credit notControl, whole]
  dsimp only
  rw [if_neg (by omega), if_neg (by omega), Nat.add_sub_cancel, idle, List.append_nil]

/-! #### The blocks of a frame -/

theorem State.drainPort_idle (empty : (s.fport q).queue = []) (whole : (s.fport q).txLeft = 0) (n : Nat) : s.drainPort q n = s := by
  cases n with
  | zero => rfl
  | succ n =>
    unfold State.drainPort
    rw [State.fillUnits_idle empty 9 8 (.inr whole)]
    split
    · rfl
    · rfl

theorem State.drainPort_block (takes : s.linkTakes q = true) {us : List FrameUnit} (fills : s.fillUnits q 9 8 = (us, s')) (some_ : us ≠ [])
    (n : Nat) : s.drainPort q (n + 1) = (s'.pushBlock q us none).drainPort q n := by
  rw [State.drainPort, if_neg (by rw [takes]; decide), fills]
  exact if_neg (by simpa using some_)

/-- The units of a frame that its first block takes. -/
def Frame.firstUnits (f : Frame) : List FrameUnit := .head f :: List.replicate (min f.dataUnits 7) .data

theorem State.Takes.up (takes : s.Takes q f) : (s.fport q).st = .up := by
  have link := takes.link
  unfold State.linkTakes at link
  simp only [Bool.and_eq_true, beq_iff_eq] at link
  exact link.1.1.2

/-- Whether a port takes a frame depends on the ports, the links and the dies alone. -/
theorem State.Takes.congr (takes : s.Takes q f) (fport : s'.fport = s.fport) (link : s'.link = s.link) (kfb : s'.kfb = s.kfb)
    (part : s'.part = s.part) : s'.Takes q f := by
  obtain ⟨links, blocks, queue, whole, credit, units⟩ := takes
  unfold State.linkTakes at links
  unfold State.hasCredit at credit
  rw [← fport, ← link, ← kfb] at links
  rw [← fport, ← part] at credit
  exact ⟨links, link ▸ blocks, fport ▸ queue, fport ▸ whole, credit, units⟩

/-- A port that takes a frame begins it, and its first block leaves. -/
theorem State.Takes.begins (takes : s.Takes q f) (clean : f.hdrBad = false) (notControl : f.op.cls ≠ 3) : ∃ s1,
    s.portSend q f = (s1.pushBlock q f.firstUnits none).drainPort q 3 ∧ SameLink s s1 q ∧ (s1.link q).retry = (s.link q).retry ∧
      (s1.fport q).queue = [] ∧ (s1.fport q).txLeft = f.dataUnits - min f.dataUnits 7 := by
  let s0 := s.updFport q (fun p => { p with queue := p.queue ++ [f] })
  have same0 : SameLink s s0 q := s.updFport_sameLink q _ rfl
  have port0 : s0.fport q = { s.fport q with queue := [f] } := (s.fport_same q _).trans (by rw [takes.queue]; rfl)
  have given : s.portSend q f = s0.drainPort q (3 + 1) := by
    unfold State.portSend
    rw [clean, takes.up]
    show s0.drainPort q (2 * (s0.fport q).queue.length + 2) = _
    rw [port0]
    rfl
  have credit : s0.hasCredit q f = true := by
    have credit := takes.credit
    unfold State.hasCredit at credit ⊢
    rw [port0]
    exact credit
  have fills := State.fillUnits_only (by rw [port0]) (by rw [port0]; exact takes.whole) credit notControl 8 7
  obtain ⟨used, rrClass, begun⟩ := s0.beginFrame_fport q f
  refine ⟨_, given.trans (State.drainPort_block (same0.takes takes.link (Nat.lt_succ_of_lt takes.blocks)) fills (List.cons_ne_nil _ _) 3),
    (same0.trans (s0.beginFrame_sameLink q f)).trans (State.updFport_sameLink _ q _ rfl), rfl, ?_, ?_⟩
  · rw [State.fport_same, begun, port0]
    exact List.erase_cons_head ..
  · rw [State.fport_same]

/-- A port that takes a frame sends it at once, in one block or two. -/
theorem State.Takes.transmitted (takes : s.Takes q f) (clean : f.hdrBad = false) (notControl : f.op.cls ≠ 3) :
    Transmitted s (s.portSend q f) q f := by
  obtain ⟨s1, sent, same1, retry1, queue1, left1⟩ := takes.begins clean notControl
  obtain ⟨same2, queue2, left2, b, retry2, units2⟩ := s1.pushBlock_spec q f.firstUnits
  rw [queue1] at queue2
  rw [left1] at left2
  rw [retry1] at retry2
  have units : f.dataUnits ≤ 8 := by
    have := takes.units
    unfold Frame.length at this
    omega
  by_cases short : f.dataUnits ≤ 7
  · rw [Nat.min_eq_left short, Nat.sub_self] at left2
    refine ⟨[b], ?_, ?_⟩
    · rw [sent, State.drainPort_idle queue2 left2, retry2]
    · simp [units2, Frame.firstUnits, short]
  · have eight : f.dataUnits = 8 := by omega
    rw [eight] at left2
    have again := (same1.trans same2).takes takes.link (by
      have := takes.blocks
      rw [retry2, List.length_append, List.length_singleton]
      omega)
    have fills := State.fillUnits_rest queue2 8 8 (by rw [left2]; decide) (by rw [left2]; decide)
    rw [left2] at fills
    obtain ⟨-, queue3, left3, c, retry3, units3⟩ := State.pushBlock_spec
      ((s1.pushBlock q f.firstUnits none).updFport q (fun p => { p with txLeft := 0 })) q (List.replicate (8 - min 8 7) FrameUnit.data)
    rw [State.fport_same] at queue3 left3
    refine ⟨[b, c], ?_, ?_⟩
    · rw [sent, State.drainPort_block again fills (by decide), State.drainPort_idle (queue3.trans queue2) left3, retry3]
      exact (congrArg (· ++ [c]) retry2).trans (List.append_assoc ..)
    · simp only [List.flatMap_cons, List.flatMap_nil, units2, units3, Frame.firstUnits, eight]
      rfl

end
end Sys2Proof.Machine

namespace Sys2Proof.Machine

/-! ### MCAST (R371, R448, R449, R520) -/

section
variable {s : State} {r : Nat} {x : Ring} {h : Held} {q : Nat} {f : Frame}

/-! #### A port's work leaves the multicasts -/

theorem State.fillUnits_mcasts (s : State) (q n room : Nat) : (s.fillUnits q n room).2.fab.mcasts = s.fab.mcasts := by
  induction n generalizing s room with
  | zero => rfl
  | succ n ih =>
    unfold State.fillUnits
    split
    · split
      · exact ih ..
      · rfl
    · dsimp only
      split
      · rfl
      · split
        · exact ih ..
        · split
          · rfl
          · exact ih ..

theorem State.pushBlock_mcasts (s : State) (q : Nat) (us : List FrameUnit) : (s.pushBlock q us none).fab.mcasts = s.fab.mcasts := rfl

theorem State.drainPort_mcasts (s : State) (q n : Nat) : (s.drainPort q n).fab.mcasts = s.fab.mcasts := by
  induction n generalizing s with
  | zero => rfl
  | succ n ih =>
    unfold State.drainPort
    split
    · rfl
    · dsimp only
      split
      · rfl
      · exact (ih _).trans ((State.pushBlock_mcasts ..).trans (State.fillUnits_mcasts ..))

theorem State.portSend_mcasts (s : State) (q : Nat) (f : Frame) : (s.portSend q f).fab.mcasts = s.fab.mcasts := by
  unfold State.portSend
  split
  · rw [State.report_fab]
  · split
    · rfl
    · rfl
    · rfl
    · exact State.drainPort_mcasts ..

/-! #### A fabric multicast to one branch -/

/-- A multicast that still waits for a branch goes no further. -/
theorem State.mcastAdvance_waits {m : Mcast} {k : Nat} (found : s.mcast k = some m) (waits : m.waiting ≠ 0) : s.mcastAdvance k = s := by
  unfold State.mcastAdvance
  rw [found]
  exact if_pos (.inl waits)

/-- The branches of a multicast that waits for one port. -/
theorem branch_ne_zero (small : q < 32) : BitVec.ofNat 32 (2 ^ q) ≠ 0 := by
  intro zero
  have mod := congrArg BitVec.toNat zero
  rw [BitVec.toNat_ofNat, Nat.mod_eq_of_lt (Nat.pow_lt_pow_right (by decide) small)] at mod
  exact absurd mod (Nat.pos_iff_ne_zero.mp (Nat.two_pow_pos q))

/-- The state in which a new multicast has joined the others. -/
def State.addMcast (s : State) (m : Mcast) : State := s.updFab (fun x => { x with mcasts := x.mcasts ++ [m] })

theorem State.mcast_of_last {m : Mcast} {others : List Mcast} (all : s.fab.mcasts = others ++ [m]) (new : ∀ y ∈ others, y.id ≠ m.id) :
    s.mcast m.id = some m := by
  have none_ : others.find? (fun y => y.id == m.id) = none := List.find?_eq_none.mpr (fun y member => by simpa using new y member)
  unfold State.mcast
  rw [all, List.find?_append, none_]
  simp

/-- A multicast of no member here whose tree has one branch leaves by that branch's port and waits for its answer. -/
theorem State.mcastSpread_oneBranch {m : Mcast} {g : Group} (i : Issuer) (check : Bool) (ports : g.ports m.inPort = [q]) (small : q < 32)
    (up : (s.fport q).st = .up) (notMember : g.member = false) (new : ∀ y ∈ s.fab.mcasts, y.id ≠ m.id) :
    s.mcastSpread m g f i check = (s.addMcast { m with waiting := BitVec.ofNat 32 (2 ^ q) }).portSend q f := by
  unfold State.mcastSpread
  rw [ports, notMember]
  dsimp only [List.foldl_cons, List.foldl_nil]
  rw [if_pos (by decide), Nat.zero_add]
  have upStill : ((s.updFab (fun x => { x with mcasts := x.mcasts ++ [{ m with waiting := BitVec.ofNat 32 (2 ^ q) }] })).fport q).st = .up := up
  rw [upStill]
  have all := State.portSend_mcasts (s.addMcast { m with waiting := BitVec.ofNat 32 (2 ^ q) }) q f
  exact State.mcastAdvance_waits (State.mcast_of_last (m := { m with waiting := BitVec.ofNat 32 (2 ^ q) }) all new) (branch_ne_zero small)

/-- A port that takes a frame has room for it. -/
theorem State.Takes.room (takes : s.Takes q f) : s.portRoom q f = true := by
  have units := takes.units
  unfold State.portRoom
  rw [takes.up, takes.queue]
  simp only [List.map_nil, List.foldl_nil, Frame.bytes, decide_eq_true_eq]
  omega

/-- A group entry with good parity is read without a report. -/
theorem State.group_state {d g : Nat} (sound : s.isBad (.table 1 g) = false) : (s.group d g).2 = s := by
  unfold State.group State.badEntry
  rw [sound]
  rfl

/-- The multicast of a ring's descriptor. -/
def State.mcastOf (s : State) (r d group seq : Nat) : Mcast :=
  { id := s.fab.nextTag, group, src := s.ownId, tag := s.fab.nextTag % 65536, die := d, here := d, tick := s.tick.count.toNat,
    ring := some (r, seq), lport := none }

/-- The state in which a multicast to the branch of port q waits for its answer. -/
def State.startMcast (s : State) (r d group seq q : Nat) : State :=
  (s.updFab (fun x => { x with nextTag := s.fab.nextTag + 1 })).addMcast { s.mcastOf r d group seq with waiting := BitVec.ofNat 32 (2 ^ q) }

theorem State.startMcast_frame (s : State) (r d group seq q : Nat) : ∃ mcasts nextTag,
    s.startMcast r d group seq q = { s with fab := { s.fab with mcasts, nextTag } } := ⟨_, _, rfl⟩

/-- The frame of a new multicast is sent on its branch's port; memory and the rings stay. -/
theorem State.startMcast_sent (r d group seq : Nat) (takes : s.Takes q f) (clean : f.hdrBad = false) (notControl : f.op.cls ≠ 3) :
    let s' := (s.startMcast r d group seq q).portSend q f
    s'.mem = s.mem ∧ s'.rings = s.rings ∧ Transmitted s s' q f := by
  obtain ⟨mcasts, nextTag, begun⟩ := s.startMcast_frame r d group seq q
  rw [begun]
  obtain ⟨_, _, _, _, kept⟩ := State.portSend_frame { s with fab := { s.fab with mcasts, nextTag } } q f
  have takesStill : State.Takes { s with fab := { s.fab with mcasts, nextTag } } q f := takes.congr rfl rfl rfl rfl
  exact ⟨(congrArg State.mem kept).trans rfl, (congrArg State.rings kept).trans rfl, takesStill.transmitted clean notControl⟩

/-- A multicast to one branch whose port takes its frame is sent. -/
theorem State.mcastSend_oneBranch {d gi t addr seq : Nat} {data : List Byte} (sound : s.isBad (.table 1 gi) = false)
    (valid : (s.group d gi).1.valid = true) (owner : (s.group d gi).1.tenant = t) (notMember : (s.group d gi).1.member = false)
    (new : ∀ m ∈ s.fab.mcasts, m.id < s.fab.nextTag) (tree : (List.range 32).filter (fun j => (s.group d gi).1.tree.testBit j) = [q])
    (takes : s.Takes q (s.mcastFrame d gi t addr data 2 0)) :
    s.mcastSend d gi t addr data 2 0 (some (r, seq)) none =
      .sent ((s.startMcast r d gi seq q).portSend q (s.mcastFrame d gi t addr data 2 0)) := by
  have state := State.group_state (d := d) sound
  have small : q < 32 := by
    have member : q ∈ (List.range 32).filter (fun j => (s.group d gi).1.tree.testBit j) := by rw [tree]; exact List.mem_singleton.mpr rfl
    exact List.mem_range.mp (List.mem_filter.mp member).1
  have ports : (s.group d gi).1.ports none = [q] := by
    unfold Group.ports
    rw [← tree]
    exact congrArg (List.filter · _) (funext fun j => by simp)
  have ready : s.mcastReady (s.group d gi).1 none (s.mcastFrame d gi t addr data 2 0) (.engine d) = true := by
    unfold State.mcastReady
    rw [ports, notMember]
    simp [takes.room]
  unfold State.mcastSend
  dsimp only
  rw [if_neg (by simp [valid, owner]), state, if_neg (by rw [ready]; decide)]
  refine congrArg McastSent.sent ?_
  exact State.mcastSpread_oneBranch (s := s.updFab (fun x => { x with nextTag := s.fab.nextTag + 1 })) (m := s.mcastOf r d gi seq) (.engine d) false
    ports small takes.up notMember (fun y member same => absurd (new y member) (by rw [same]; exact Nat.lt_irrefl _))

end
end Sys2Proof.Machine

namespace Sys2Proof.Machine

section
variable {s : State} {r t : Nat} {x : Ring} {h : Held}

/-! #### A torus multicast -/

/-- An access that is issued stands last in the list, sent or held. -/
theorem State.issue_accesses (s : State) (a : Access) : ∃ held, (s.issue a).accesses = s.accesses ++ [{ a.stamped s.net.stamp with held }] := by
  unfold State.issue
  dsimp only
  split
  · obtain ⟨routers, counted⟩ := State.countHeld_frame { { s with net := { s.net with stamp := s.net.stamp + 1 } } with
      accesses := s.accesses ++ [{ a.stamped s.net.stamp with held := true }] } (a.stamped s.net.stamp).issuer
    exact ⟨true, by rw [counted]⟩
  · exact ⟨(a.stamped s.net.stamp).held, rfl⟩

/-- The tiles of a descriptor's rectangle. -/
def Held.rect (h : Held) : List Nat := rectTiles (dfield h.bytes 0x1E 1) (dfield h.bytes 0x1F 1) (dfield h.bytes 0x20 1) (dfield h.bytes 0x21 1)

/-- The access of a descriptor's torus multicast. -/
def State.torusAccess (s : State) (r t tag : Nat) (x : Ring) (h : Held) (bs : List Byte) : Access :=
  let part := dfield h.bytes 0x1B 1
  let data := slice bs 0 (dfield h.bytes 0x18 1 + 1)
  let src := tileIo x.port (h.rect.headD 0)
  { (s.started r h.seq).mkAccess (.engine x.port) tag (.mcast r h.seq)
      { op := .mcastWrite, src, dst := tileEnd (h.rect.headD 0), dests := h.rect, pos := src.router, issuer := .engine x.port,
        addr := BitVec.ofNat 64 (dfield h.bytes 8 8), size := data.length, data, tenant := t, part, epoch := s.partEpoch part } none with
    mcDue := h.rect.length }

/-- The state in which a descriptor's torus multicast has been issued. -/
def State.issueTorus (s : State) (r t tag : Nat) (x : Ring) (h : Held) (bs : List Byte) : State :=
  (s.started r h.seq).issue (s.torusAccess r t tag x h bs)

/-- A multicast of mode 1 that nothing forbids. -/
structure TorusReady (s : State) (r t : Nat) (x : Ring) (h : Held) : Prop where
  alone : Alone s r 3 x h
  layout : plainLayout h.bytes [(0x08, 0x18), (0x1A, 0x21)] = true
  tenant : s.ringTenant x = some t
  mode : dfield h.bytes 0x1A 1 = 1
  part : dfield h.bytes 0x1B 1 < 64
  owner : (s.partRec (dfield h.bytes 0x1B 1)).tenant = some t
  rect : rectOk (dfield h.bytes 0x1E 1) (dfield h.bytes 0x1F 1) (dfield h.bytes 0x20 1) (dfield h.bytes 0x21 1) = true
  quiet : s.engineQuiet x.port = true

theorem TorusReady.exec_failed (ready : TorusReady s r t x h) {bad : HostData (List Byte)} (failed : bad = .failed ∨ bad = .poisoned) :
    exec (.mcast r bad) s = .next ((s.hostReadErr x.port x.fn r bad).finish r h.seq { status := 0x45 }) := by
  obtain ⟨alone, layout, tenant, mode, part, owner, rect, quiet⟩ := ready
  rw [exec_mcast]
  unfold execMcast
  rw [alone.startDesc]
  dsimp only
  rw [if_neg (by simp [layout, mode]), tenant]
  dsimp only
  rw [if_neg (by simp [mode]), if_neg (by simp [mode]), if_neg (by simp [mode, part, owner]), if_neg (by simp [mode, rect]),
    if_neg (by rw [quiet]; decide)]
  obtain rfl | rfl := failed
  · rfl
  · rfl

theorem TorusReady.exec_sent (ready : TorusReady s r t x h) {tag : Nat} (free : s.freeTag (.engine x.port) = some tag) (bs : List Byte) :
    exec (.mcast r (.ok bs)) s = .next (s.issueTorus r t tag x h bs) := by
  obtain ⟨alone, layout, tenant, mode, part, owner, rect, quiet⟩ := ready
  have freeStill : (s.started r h.seq).freeTag (.engine x.port) = some tag := by
    obtain ⟨r1, begun⟩ := s.started_frame r h.seq
    rw [begun]
    exact free
  rw [exec_mcast]
  unfold execMcast
  rw [alone.startDesc]
  dsimp only
  rw [if_neg (by simp [layout, mode]), tenant]
  dsimp only
  rw [if_neg (by simp [mode]), if_neg (by simp [mode]), if_neg (by simp [mode, part, owner]), if_neg (by simp [mode, rect]),
    if_neg (by rw [quiet]; decide), if_neg (by rw [mode]; decide)]
  unfold State.torusMcast
  rw [freeStill]
  rfl

/-- The record of a multicast whose data could not be read follows the error that the host port keeps. -/
theorem TorusReady.failed_recorded (ready : TorusReady s r t x h) {bad : HostData (List Byte)} (failed : bad = .failed ∨ bad = .poisoned) :
    ∃ s1, s1 = { s with host := s1.host } ∧
      Recorded s1 ((s.hostReadErr x.port x.fn r bad).finish r h.seq { status := 0x45 }) r x h { status := 0x45 } := by
  obtain ⟨host, kept⟩ : ∃ host, s.hostReadErr x.port x.fn r bad = { s with host } := by
    obtain rfl | rfl := failed
    · exact ⟨_, rfl⟩
    · exact ⟨_, rfl⟩
  have waits := ready.alone.waits
  rw [kept]
  exact ⟨{ s with host }, rfl, Waits.finish_recorded (s := { s with host })
    ⟨waits.ring, waits.running, waits.held, waits.seq, waits.plain, waits.stays, waits.sound⟩ _⟩

/-- A torus multicast leaves memory, and its descriptor is at work. -/
theorem TorusReady.issued (ready : TorusReady s r t x h) (tag : Nat) (bs : List Byte) :
    (s.issueTorus r t tag x h bs).mem = s.mem ∧ smGet (s.issueTorus r t tag x h bs).rings r = some { x with held := [{ h with st := .started }] } ∧
      ∃ a : Access, (s.issueTorus r t tag x h bs).accesses = s.accesses ++ [a] ∧ a.mcDue = h.rect.length ∧ a.req.op = .mcastWrite ∧ a.req.dests = h.rect ∧
        a.req.addr.toNat = dfield h.bytes 8 8 ∧ a.req.data = slice bs 0 (dfield h.bytes 0x18 1 + 1) ∧ a.req.tenant = t ∧
        a.req.part = dfield h.bytes 0x1B 1 := by
  obtain ⟨r1, begun⟩ := s.started_frame r h.seq
  have mem : (s.started r h.seq).mem = s.mem := by rw [begun]
  have accesses : (s.started r h.seq).accesses = s.accesses := by rw [begun]
  obtain ⟨held, issued⟩ := (s.started r h.seq).issue_accesses (s.torusAccess r t tag x h bs)
  unfold State.issueTorus
  rw [State.issue_mem, State.issue_rings]
  exact ⟨mem, ready.alone.started, _, issued.trans (congrArg (· ++ _) accesses), rfl, rfl, rfl, toNat_ofNat_dfield _ _ _ (by decide), rfl, rfl, rfl⟩

/-! #### A multicast of a group -/

/-- A multicast of mode 0 with a good layout, of a group whose entry has good parity. -/
structure GroupReady (s : State) (r t : Nat) (x : Ring) (h : Held) : Prop where
  alone : Alone s r 3 x h
  layout : plainLayout h.bytes [(0x08, 0x18), (0x1A, 0x21)] = true
  tenant : s.ringTenant x = some t
  mode : dfield h.bytes 0x1A 1 = 0
  group : dfield h.bytes 0x1C 2 < 4096
  sound : s.isBad (.table 1 (dfield h.bytes 0x1C 2)) = false

theorem GroupReady.exec_invalid (ready : GroupReady s r t x h) (bs : List Byte) (invalid : (s.group x.port (dfield h.bytes 0x1C 2)).1.valid = false) :
    exec (.mcast r (.ok bs)) s = .next (s.finish r h.seq { status := 6 }) := by
  obtain ⟨alone, layout, tenant, mode, group, sound⟩ := ready
  rw [exec_mcast]
  unfold execMcast
  rw [alone.startDesc]
  dsimp only
  rw [if_neg (by simp [layout, mode]; omega), tenant]
  dsimp only
  rw [if_neg (by simp [invalid]), if_pos (by simp [mode, invalid]), State.group_state sound]
  rfl

theorem GroupReady.exec_foreign (ready : GroupReady s r t x h) (bs : List Byte) (valid : (s.group x.port (dfield h.bytes 0x1C 2)).1.valid = true)
    (foreign : (s.group x.port (dfield h.bytes 0x1C 2)).1.tenant ≠ t) :
    exec (.mcast r (.ok bs)) s = .next (s.finish r h.seq { status := 0x41 }) := by
  obtain ⟨alone, layout, tenant, mode, group, sound⟩ := ready
  rw [exec_mcast]
  unfold execMcast
  rw [alone.startDesc]
  dsimp only
  rw [if_neg (by simp [layout, mode]; omega), tenant]
  dsimp only
  rw [if_pos ⟨mode, valid, foreign⟩, State.group_state sound]
  rfl

theorem GroupReady.exec_sent (ready : GroupReady s r t x h) (bs : List Byte) (valid : (s.group x.port (dfield h.bytes 0x1C 2)).1.valid = true)
    (owner : (s.group x.port (dfield h.bytes 0x1C 2)).1.tenant = t) (quiet : s.engineQuiet x.port = true) {s' : State}
    (sent : (s.started r h.seq).mcastSend x.port (dfield h.bytes 0x1C 2) t (dfield h.bytes 8 8) (slice bs 0 (dfield h.bytes 0x18 1 + 1)) 2 0
      (some (r, h.seq)) none = .sent s') : exec (.mcast r (.ok bs)) s = .next s' := by
  obtain ⟨alone, layout, tenant, mode, group, sound⟩ := ready
  rw [exec_mcast]
  unfold execMcast
  rw [alone.startDesc]
  dsimp only
  rw [if_neg (by simp [layout, mode]; omega), tenant]
  dsimp only
  rw [if_neg (by simp [owner]), if_neg (by simp [valid]), if_neg (by simp [mode]), if_neg (by simp [mode]), if_neg (by rw [quiet]; decide),
    if_pos mode, sent]

theorem State.started_isBad {place : Place} {seq : Nat} : (s.started r seq).isBad place = s.isBad place := by
  obtain ⟨r1, begun⟩ := s.started_frame r seq
  rw [begun]
  rfl

/-- A descriptor that has started changes no group entry. -/
theorem State.group_started {d g seq : Nat} (sound : s.isBad (.table 1 g) = false) : ((s.started r seq).group d g).1 = (s.group d g).1 := by
  obtain ⟨r1, begun⟩ := s.started_frame r seq
  rw [begun]
  unfold State.group State.badEntry
  rw [show ({ s with rings := r1 } : State).isBad (.table 1 g) = false from sound, sound]
  rfl

/-- The multicast of a group whose tree has one branch: its frame is sent on that branch's port, and its descriptor is at work. -/
theorem GroupReady.sent (ready : GroupReady s r t x h) (bs : List Byte) {q : Nat} (valid : (s.group x.port (dfield h.bytes 0x1C 2)).1.valid = true)
    (owner : (s.group x.port (dfield h.bytes 0x1C 2)).1.tenant = t) (notMember : (s.group x.port (dfield h.bytes 0x1C 2)).1.member = false)
    (quiet : s.engineQuiet x.port = true) (new : ∀ m ∈ s.fab.mcasts, m.id < s.fab.nextTag)
    (tree : (List.range 32).filter (fun j => (s.group x.port (dfield h.bytes 0x1C 2)).1.tree.testBit j) = [q])
    (takes : s.Takes q (s.mcastFrame x.port (dfield h.bytes 0x1C 2) t (dfield h.bytes 8 8) (slice bs 0 (dfield h.bytes 0x18 1 + 1)) 2 0)) :
    Completes (.mcast r (.ok bs)) s (fun s' => s'.mem = s.mem ∧ smGet s'.rings r = some { x with held := [{ h with st := .started }] } ∧
      Transmitted s s' q (s.mcastFrame x.port (dfield h.bytes 0x1C 2) t (dfield h.bytes 8 8) (slice bs 0 (dfield h.bytes 0x18 1 + 1)) 2 0)) := by
  have group := State.group_started (r := r) (d := x.port) (seq := h.seq) ready.sound
  obtain ⟨same, takesStill, fab, links, mem⟩ : (s.started r h.seq).mcastFrame x.port (dfield h.bytes 0x1C 2) t (dfield h.bytes 8 8)
      (slice bs 0 (dfield h.bytes 0x18 1 + 1)) 2 0 = s.mcastFrame x.port (dfield h.bytes 0x1C 2) t (dfield h.bytes 8 8)
      (slice bs 0 (dfield h.bytes 0x18 1 + 1)) 2 0 ∧ (s.started r h.seq).Takes q _ ∧ (s.started r h.seq).fab = s.fab ∧
      (s.started r h.seq).link = s.link ∧ (s.started r h.seq).mem = s.mem := by
    obtain ⟨r1, begun⟩ := s.started_frame r h.seq
    rw [begun]
    exact ⟨rfl, takes.congr rfl rfl rfl rfl, rfl, rfl, rfl⟩
  have sends := State.mcastSend_oneBranch (s := s.started r h.seq) (d := x.port) (addr := dfield h.bytes 8 8) (seq := h.seq) (r := r) (q := q)
    (t := t) (data := slice bs 0 (dfield h.bytes 0x18 1 + 1)) (State.started_isBad.trans ready.sound) (by rw [group]; exact valid)
    (by rw [group]; exact owner) (by rw [group]; exact notMember) (by rw [fab]; exact new) (by rw [group]; exact tree)
    (by rw [same]; exact takesStill)
  rw [same] at sends
  obtain ⟨memKept, ringsKept, transmitted⟩ := State.startMcast_sent r x.port (dfield h.bytes 0x1C 2) h.seq takesStill rfl
    (show FrameOp.mcastWrite.cls ≠ 3 by decide)
  refine ⟨_, ready.exec_sent bs valid owner quiet sends, memKept.trans mem, (congrArg (smGet · r) ringsKept).trans ready.alone.started, ?_⟩
  unfold Transmitted at transmitted ⊢
  rw [← links]
  exact transmitted

end
end Sys2Proof.Machine

namespace Sys2Proof.Machine

section
variable {s : State} {r : Nat} {x : Ring} {h : Held}

/-- A reduction of a member of odd rank starts from its combined leaves, and waits for its parent's credit. -/
theorem Alone.startReduction (alone : Alone s r 4 x h) (good : reduceOk h.bytes = true) {t : Nat} (tenant : s.ringTenant x = some t)
    (sound : s.isBad (.table 2 (dfield h.bytes 0x0C 2)) = false) (valid : (s.redGroup (dfield h.bytes 0x0C 2)).1.valid = true)
    (owner : (s.redGroup (dfield h.bytes 0x0C 2)).1.tenant = t)
    (others : ∀ q ∈ s.fab.reductions, q.id.group ≠ dfield h.bytes 0x0C 2 ∧ q.num < s.fab.nextTag) {vs : List (List Byte)} {sx : State}
    (leaves : s.readLeaves (s.redUnit (dfield h.bytes 0x0C 2)) t (dfield h.bytes 0x18 8) (dfield h.bytes 0x20 8)
      (dfield h.bytes 0x10 4 * elemBytes (dfield h.bytes 0x0F 1)) (dfield h.bytes 0x14 1) 0 = (.ok vs, sx))
    (odd : (s.redGroup (dfield h.bytes 0x0C 2)).1.rank % 2 = 1) (several : (s.redGroup (dfield h.bytes 0x0C 2)).1.n ≠ 1) :
    Completes (.reduce r) s (fun s' => s'.mem = sx.mem ∧ ∃ tag, s'.fab.reductions = s.fab.reductions ++ [s.reductionOf r t tag h
      (redLeaves (dfield h.bytes 0x0E 1) (dfield h.bytes 0x0F 1) (Nat.log2 (dfield h.bytes 0x14 1))
        (vs.map (fun bs => elements (elemBytes (dfield h.bytes 0x0F 1)) (dfield h.bytes 0x10 4) bs)))]) := by
  have runs := exec_reduce_starts alone good tenant sound valid owner (fun q member => (others q member).1) leaves
  revert runs
  generalize redLeaves _ _ _ _ = v
  intro runs
  have fab : (sx.started r h.seq).fab = s.fab := by
    obtain ⟨r1, begun⟩ := sx.started_frame r h.seq
    rw [begun]
    exact (SameFab.of_snd leaves (s.readLeaves_sameFab ..)).fab
  have mem : (sx.started r h.seq).mem = sx.mem := by
    obtain ⟨r1, begun⟩ := sx.started_frame r h.seq
    rw [begun]
  have tag : sx.fab.nextTag = s.fab.nextTag := congrArg Fabric.nextTag (SameFab.of_snd leaves (s.readLeaves_sameFab ..)).fab
  have found := (sx.started r h.seq).red_addReduction (s.reductionOf r t sx.fab.nextTag h v) (fun p member => by
    rw [fab] at member
    exact Nat.ne_of_lt (tag.symm ▸ (others p member).2))
  have waits := State.redAdvance_waits (n := 17) found rfl several odd rfl
  refine ⟨_, runs.trans (congrArg Host.Outcome.next waits), mem, sx.fab.nextTag, ?_⟩
  exact congrArg (fun f : Fabric => f.reductions ++ [s.reductionOf r t sx.fab.nextTag h v]) fab

end

/-- Settles O48: each descriptor is the only one of its ring, so that it starts at once and its record is written as soon as it is done;
what its work leaves is read off the state in which the work begins. -/
theorem workDescriptorsStartTheirWork : Obligations.WorkDescriptorsStartTheirWork := by
  unfold Obligations.WorkDescriptorsStartTheirWork
  intro s r x h
  refine ⟨fun alone => ⟨fun bad => alone.ends (exec_task_badLayout alone bad), fun t good tenant => ⟨fun refused =>
    alone.ends (exec_task_notPermitted alone good tenant refused), fun may awake soft room => ?task⟩⟩, fun alone => ⟨fun bad =>
    alone.ends (exec_copy_badLayout alone bad), fun good src dst srcClear dstClear room => ?copy⟩, fun t bs alone layout tenant =>
    ⟨fun mode part owner rect quiet => ?torus, fun mode group sound => ?group⟩, fun t alone good tenant sound => ⟨fun refused =>
    alone.ends (exec_reduce_notPermitted alone good tenant sound refused), fun vs sx valid owner others leaves odd several => ?reduce⟩⟩
  case task =>
    obtain ⟨mem, tiles, ring, sent⟩ := alone.sendLaunch t
    obtain ⟨entry, progAddr, args, given, next⟩ := s.launchOf_fields r x h t
    exact ⟨_, exec_task_sent alone good tenant may awake soft room, mem, tiles, ring, s.launchOf r x h t, sent, rfl, rfl, rfl, rfl, rfl, rfl,
      rfl, entry, progAddr, rfl, rfl, args, given, next⟩
  case copy =>
    obtain ⟨mem, ring, tag, dmod, copies⟩ := alone.startCopy good
    exact ⟨_, exec_copy_starts alone good src dst srcClear dstClear room, mem, ring, _, copies, rfl, rfl, rfl,
      toNat_ofNat_dfield _ _ _ (by decide), toNat_ofNat_dfield _ _ _ (by decide), rfl, rfl, rfl, rfl, rfl⟩
  case torus =>
    have ready : TorusReady s r t x h := ⟨alone, layout, tenant, mode, part, owner, rect, quiet⟩
    refine ⟨fun bad failed => ⟨_, ready.exec_failed failed, ready.failed_recorded failed⟩, fun free => ?_⟩
    obtain ⟨tag, free⟩ := Option.isSome_iff_exists.mp free
    exact ⟨_, ready.exec_sent free bs, ready.issued tag bs⟩
  case group =>
    have ready : GroupReady s r t x h := ⟨alone, layout, tenant, mode, group, sound⟩
    refine ⟨fun invalid => alone.ends (ready.exec_invalid bs invalid), fun valid foreign => alone.ends (ready.exec_foreign bs valid foreign),
      fun q valid owner notMember quiet new tree takes => ?_⟩
    obtain ⟨s', runs, mem, ring, sent⟩ := ready.sent bs valid owner notMember quiet new tree takes
    exact ⟨s', runs, mem, ring, _, sent, rfl, rfl, rfl, rfl, rfl⟩
  case reduce =>
    obtain ⟨s', runs, mem, tag, reductions⟩ := alone.startReduction good tenant sound valid owner others leaves odd several
    exact ⟨s', runs, mem, _, reductions, rfl, rfl, rfl, rfl, rfl, rfl, rfl, rfl, rfl, toNat_ofNat_dfield _ _ _ (by decide), rfl, rfl, rfl, rfl⟩

end Sys2Proof.Machine

namespace Sys2Proof.Machine

/-! ### How an instruction settles that waits, parks or faults (R231, R243, R254) -/

section
variable {s s' : State} {t thr w o : Nat} {ok : Bool} {c : Instr} {run : Nat → State → Verdict}

/-- The instruction has not issued: its thread waits at it. -/
theorem State.settle_wait (clean : (s.thread t thr).taint = []) (st : ThState) (why : Wait) :
    s.settle t thr ok (.wait st why s') = s'.updThread t thr (fun h => { h with st, wait := why }) := by
  simp [State.settle, clean]

/-- The instruction has issued, and its thread waits before it goes on. -/
theorem State.settle_park (clean : (s.thread t thr).taint = []) (st : ThState) (why : Wait) :
    s.settle t thr ok (.park st why s') =
      (s'.updThread t thr (fun x => { x with pc := (s.thread t thr).pc + 8, st, wait := why })).seqCtrAdd t 0x100 1 := by
  simp [State.settle, clean]

/-- A fault of a task's thread ends the task (R254). -/
theorem State.settle_fault (clean : (s.thread t thr).taint = []) (task : (s.tile t).firmware = false) (code unit : Nat) (addr : DWord) :
    s.settle t thr ok (.fault code unit addr) = s.endTask t code thr unit (s.thread t thr).pc addr := by
  simp [State.settle, State.faultEnd, clean, task]

/-- A command whose instruction is at issue carries out the instruction's verdict. -/
theorem exec_at_issue (issues : Issues s t thr w) (op : opc w = o) (defined : definedOp o = true)
    (runs : exec c s = .next (s.issueAt t thr o (fun _ => false) run)) : exec c s = .next (s.settle t thr false (run w s)) :=
  runs.trans (congrArg Host.Outcome.next (s.issueAt_of_issues issues (by rw [op, defined]) op))

/-- Of tile t what `f` sets, its thread, and what counting the instruction moves: nothing else changes. -/
theorem tileOnly_upd {f : Tile → Tile} (g : Thread → Thread) (off n : Nat) (threads : ∀ x, (f x).threads = x.threads) :
    (((s.updTile t f).updThread t thr g).seqCtrAdd t off n).thread t thr = g (s.thread t thr) ∧
    TileOnly s (((s.updTile t f).updThread t thr g).seqCtrAdd t off n) t thr f := by
  have kept (k : Nat) : (s.updTile t f).thread t k = s.thread t k := by
    simp only [State.thread, Tile.th, State.tile_updTile_same, threads]
  refine ⟨by rw [State.seqCtrAdd_thread, State.thread_updThread_same, kept], ?_, fun u other => ?_, ?_, fun k other => ?_⟩
  · rw [State.seqCtrAdd_state ((s.updTile t f).updThread t thr g)]
    rfl
  · rw [State.seqCtrAdd_tile_ne _ _ _ _ _ other, State.tile_updThread_ne _ _ _ _ _ other, State.tile_updTile_ne _ _ _ _ other]
  · rw [State.seqCtrAdd_tile_same, State.tile_updThread_same, State.tile_updTile_same]
    rfl
  · rw [State.seqCtrAdd_thread, State.thread_updThread_ne _ _ _ _ _ other, kept]

/-- The thread after an instruction that only advances. -/
def Thread.advanced (h : Thread) : Thread := { h with pc := h.pc + 8 }

/-- An instruction that sets of its tile what `f` says, and goes on. -/
theorem completes_tile {f : Tile → Tile} (clean : (s.thread t thr).taint = []) (threads : ∀ x, (f x).threads = x.threads)
    (settles : exec c s = .next (s.settle t thr false (.done (s.updTile t f)))) :
    Completes c s (fun s' => s'.thread t thr = (s.thread t thr).advanced ∧ TileOnly s s' t thr f) := by
  refine ⟨_, settles.trans (congrArg Host.Outcome.next (s.settle_done clean)), ?_⟩
  exact tileOnly_upd (fun x => { x with pc := (s.thread t thr).pc + 8 }) 0x100 1 threads

/-- An instruction that has no room in its unit's queue. -/
theorem completes_waits {why : Why} (clean : (s.thread t thr).taint = [])
    (settles : exec c s = .next (s.settle t thr false (.wait .unit (.retry why) s))) :
    Completes c s (fun s' => s' = s.updThread t thr (fun h => { h with st := .unit, wait := .retry why })) :=
  ⟨_, settles.trans (congrArg Host.Outcome.next (State.settle_wait clean ..)), rfl⟩

/-- An instruction that changes its thread alone and goes on. -/
theorem leavesThread_advanced (clean : (s.thread t thr).taint = []) (settles : exec c s = .next (s.settle t thr false (.done s))) :
    LeavesThread c s t thr (s.thread t thr).advanced :=
  ⟨_, settles.trans (congrArg Host.Outcome.next (s.settle_done clean)), threadOnly_upd s t thr _ 0x100 1⟩

/-- An instruction that parks its thread behind n entries. -/
theorem leavesThread_parked {why : Wait} (clean : (s.thread t thr).taint = [])
    (settles : exec c s = .next (s.settle t thr false (.park .sync why s))) :
    LeavesThread c s t thr { (s.thread t thr).advanced with st := .sync, wait := why } :=
  ⟨_, settles.trans (congrArg Host.Outcome.next (State.settle_park clean ..)), threadOnly_upd s t thr _ 0x100 1⟩
end

/-! ### Array and matrix-vector instructions at issue (R131, R138 to R140, R211, R214) -/

section
variable {s : State} {t thr w : Nat} {c : Instr} {o : UnitOp}

/-- The 56 bits under the opcode of a word. -/
theorem bits_operands (w : Nat) : bits w 55 0 = w % 2 ^ 56 := by simp [bits]

/-- An array instruction that its checks pass has room in the queue, or waits for it. -/
theorem completes_queueArr (clean : (s.thread t thr).taint = []) (settles : exec c s = .next (s.settle t thr false (s.queueArr t o))) :
    ((s.tile t).arrQ.length < 16 → Completes c s (fun s' => s'.thread t thr = (s.thread t thr).advanced ∧
      TileOnly s s' t thr (fun x => { x with arrQ := x.arrQ ++ [o] }))) ∧
    ((s.tile t).arrQ.length = 16 → Completes c s (fun s' =>
      s' = s.updThread t thr (fun h => { h with st := .unit, wait := .retry .arrQ }))) := by
  refine ⟨fun room => completes_tile clean (fun _ => rfl) (settles.trans ?_), fun full => completes_waits clean (settles.trans ?_)⟩
  · rw [State.queueArr, if_neg (Nat.not_le.mpr room)]
  · rw [State.queueArr, if_pos full.ge]

variable (issues : Issues s t thr w)
include issues

theorem exec_amm_passed (op : opc w = 0x40) (width : widthFault (s.tileW t) w = false) (ok : ammOk (s.tileW t) (s.unitOp t thr w) = true) :
    exec (.amm t thr) s = .next (s.settle t thr false (s.queueArr t (s.unitOp t thr w))) := by
  refine (exec_at_issue issues op rfl (exec_amm ..)).trans ?_
  simp [width, ok]

theorem exec_adrn_passed (op : opc w = 0x41) (width : widthFault (s.tileW t) w = false) (ok : adrnOk (s.tileW t) (s.unitOp t thr w) = true) :
    exec (.adrn t thr) s = .next (s.settle t thr false (s.queueArr t (s.unitOp t thr w))) := by
  refine (exec_at_issue issues op rfl (exec_adrn ..)).trans ?_
  simp [width, ok]

theorem exec_acbl_passed (op : opc w = 0x42) (ok : acblOk (s.unitOp t thr w) = true) :
    exec (.acbl t thr) s = .next (s.settle t thr false (s.queueArr t (s.unitOp t thr w))) := by
  refine (exec_at_issue issues op rfl (exec_acbl ..)).trans ?_
  simp [ok]

theorem exec_ahist_passed (op : opc w = 0x43) (ok : ahistOk (s.unitOp t thr w) = true) :
    exec (.ahist t thr) s = .next (s.settle t thr false (s.queueArr t (s.unitOp t thr w))) := by
  refine (exec_at_issue issues op rfl (exec_ahist ..)).trans ?_
  simp [ok]

theorem exec_mvm_passed (op : opc w = 0x48) (ok : mvmOk (s.unitOp t thr w) = true) : exec (.mvm t thr) s = .next (s.settle t thr false
    (if 8 ≤ (s.tile t).mvpQ.length then .wait .unit (.retry .mvpQ) s
     else .done (s.updTile t (fun x => { x with mvpQ := x.mvpQ ++ [s.unitOp t thr w] })))) := by
  refine (exec_at_issue issues op rfl (exec_mvm ..)).trans ?_
  simp [ok]

theorem exec_abar_passed (op : opc w = 0x44) (plain : w % 2 ^ 56 = 0) : exec (.abar t thr) s = .next (s.settle t thr false
    (if (s.tile t).arrQ.length + (s.tile t).arrRun.length = 0 then .done s
     else .park .sync (.abar ((s.tile t).arrQ.length + (s.tile t).arrRun.length)) s)) := by
  refine (exec_at_issue issues op rfl (exec_abar ..)).trans ?_
  rw [if_neg (by rw [bits_operands, plain]; exact not_not.mpr rfl)]

theorem exec_mbar_passed (op : opc w = 0x49) (plain : w % 2 ^ 56 = 0) : exec (.mbar t thr) s = .next (s.settle t thr false
    (if (s.tile t).mvpQ.length + (s.tile t).mvpRun.length = 0 then .done s
     else .park .sync (.mbar ((s.tile t).mvpQ.length + (s.tile t).mvpRun.length)) s)) := by
  refine (exec_at_issue issues op rfl (exec_mbar ..)).trans ?_
  rw [if_neg (by rw [bits_operands, plain]; exact not_not.mpr rfl)]
end

/-- Settles O8: the four array instructions by the array's queue, MVM by the path's, and each barrier with entries ahead of it or none. -/
theorem unitInstructionsAreQueued : Obligations.UnitInstructionsAreQueued := by
  unfold Obligations.UnitInstructionsAreQueued
  intro s t thr w issues
  have clean := issues.clean
  refine ⟨fun op width ok => completes_queueArr clean (exec_amm_passed issues op width ok),
    fun op width ok => (completes_queueArr clean (exec_adrn_passed issues op width ok)).1,
    fun op ok => (completes_queueArr clean (exec_acbl_passed issues op ok)).1,
    fun op ok => (completes_queueArr clean (exec_ahist_passed issues op ok)).1,
    fun op plain => ?abar, fun op ok => ?mvm, fun op plain => ?mbar⟩
  case abar =>
    have runs := exec_abar_passed issues op plain
    exact ⟨fun empty => leavesThread_advanced clean (by rw [runs, if_pos empty]),
      fun ahead => leavesThread_parked clean (by rw [runs, if_neg ahead])⟩
  case mvm =>
    have runs := exec_mvm_passed issues op ok
    exact ⟨fun room => completes_tile clean (fun _ => rfl) (by rw [runs, if_neg (Nat.not_le.mpr room)]; rfl),
      fun full => completes_waits clean (by rw [runs, if_pos full.ge])⟩
  case mbar =>
    have runs := exec_mbar_passed issues op plain
    exact ⟨fun empty => leavesThread_advanced clean (by rw [runs, if_pos empty]),
      fun ahead => leavesThread_parked clean (by rw [runs, if_neg ahead])⟩

/-! ### A wrong wsel (R139) -/

section
variable {s : State} {t thr w code : Nat}

/-- The tile's task is ending with the code. -/
def State.Ends (s : State) (t code : Nat) : Prop := ∃ k, (s.tile t).task = some k ∧ k.phase = .ending ∧ k.code = code

/-- What an ending task sets off in its tile once the end is recorded (R256, R310). -/
def State.stopWork (s : State) (t : Nat) : State :=
  (((s.stopUnits t).stopWinnow t).updTile t (fun x => { x with str := { x.str with slots := x.str.slots.map (fun e => (e.1, e.2.dropUnsent)) } })).abortTokens t

theorem State.stopWork_ends (ends : s.Ends t code) : (s.stopWork t).Ends t code := by
  obtain ⟨k, task, phase, ended⟩ := ends
  have stands := (TaskStands.refl t s).stopArray.stopMvp.stopWinnow.updTile t
    (fun x => { x with str := { x.str with slots := x.str.slots.map (fun e => (e.1, e.2.dropUnsent)) } })
  obtain ⟨sent, kept, -⟩ := State.abortTokens_task (stands.task.trans task)
  exact ⟨_, kept, phase, ended⟩

/-- A task that has not begun to end ends with the code that is given first (R255). -/
theorem State.endTask_ends {k : Task} (task : (s.tile t).task = some k) (goes : k.phase ≠ .ending) (bad : code ≠ 0) (unit : Nat)
    (pc addr : DWord) : (s.endTask t code thr unit pc addr).Ends t code := by
  unfold State.endTask
  rw [task]
  dsimp only
  rw [if_neg goes, if_neg bad]
  exact State.stopWork_ends ⟨_, (congrArg Tile.task (State.tile_updTile_same ..)).trans (Tile.recordEnd_task ..), rfl, rfl⟩

/-- A thread that may issue outside firmware belongs to a running task (R243). -/
theorem Issues.running (issues : Issues s t thr w) (inTask : (s.tile t).firmware = false) :
    ∃ k, (s.tile t).task = some k ∧ k.phase ≠ .ending := by
  have may := issues.may
  cases task : (s.tile t).task with
  | none => simp [State.mayIssue, inTask, task] at may
  | some k =>
    simp [State.mayIssue, inTask, task] at may
    exact ⟨k, rfl, by simp [may]⟩

/-- An instruction that faults at issue ends its task with the fault's code. -/
theorem completes_fault {c : Instr} {o : Nat} {run : Nat → State → Verdict} (issues : Issues s t thr w)
    (inTask : (s.tile t).firmware = false) (runs : exec c s = .next (s.issueAt t thr o (fun _ => false) run))
    (defined : definedOp o = true) (bad : code ≠ 0) (verdict : run w s = .fault code 0 0) (op : opc w = o) :
    Completes c s (fun s' => s'.Ends t code) := by
  obtain ⟨k, task, goes⟩ := issues.running inTask
  refine ⟨_, exec_at_issue issues op defined runs, ?_⟩
  rw [verdict, State.settle_fault issues.clean inTask]
  exact State.endTask_ends task goes bad ..

theorem widthFault_of_other {W : Nat} (named : bits w 2 0 ≤ 4) (other : bits w 2 0 + 28 ≠ W) : widthFault W w = true := by
  simp [widthFault, aWsel, named, other]

theorem widthFault_of_reserved {W : Nat} (reserved : 5 ≤ bits w 2 0) : widthFault W w = false := by
  simp [widthFault, aWsel, Nat.not_le.mpr reserved]

/-- The wsel of a queued entry is that of its word. -/
theorem State.unitOp_wsel (s : State) (t thr w : Nat) : aWsel (s.unitOp t thr w).word.toNat = bits w 2 0 := by
  simp only [State.unitOp, aWsel, bits, BitVec.toNat_ofNat]
  omega

theorem ammOk_reserved {W : Nat} (reserved : 5 ≤ bits w 2 0) : ammOk W (s.unitOp t thr w) = false := by
  simp [ammOk, State.unitOp_wsel, Nat.not_le.mpr reserved]

theorem adrnOk_reserved {W : Nat} (reserved : 5 ≤ bits w 2 0) : adrnOk W (s.unitOp t thr w) = false := by
  simp [adrnOk, State.unitOp_wsel, Nat.not_le.mpr reserved]

theorem State.winQueue_width {checker : Bool} (width : widthFault (s.tileW t) w = true) : s.winQueue t thr w checker = .fault 3 0 0 :=
  if_pos width

theorem State.winQueue_reserved {checker : Bool} (reserved : 5 ≤ bits w 2 0) : s.winQueue t thr w checker = illegal := by
  unfold State.winQueue
  dsimp only
  rw [if_neg (by rw [widthFault_of_reserved reserved]; decide), if_pos]
  exact Or.inr (Nat.lt_of_succ_le reserved)
end

/-- Settles O9: the width rule comes before every other check, and a reserved wsel fails the checks that come after it. -/
theorem wrongWidthEndsTask : Obligations.WrongWidthEndsTask := by
  unfold Obligations.WrongWidthEndsTask
  intro s t thr w issues inTask ends each
  refine ⟨fun named other => ?width, fun reserved => ?reserved⟩
  case width =>
    have width := widthFault_of_other named other
    exact ⟨completes_fault issues inTask (exec_amm ..) rfl (by decide) (if_pos width),
      completes_fault issues inTask (exec_adrn ..) rfl (by decide) (if_pos width),
      completes_fault issues inTask (exec_wpred ..) rfl (by decide) (State.winQueue_width width),
      completes_fault issues inTask (exec_wchk ..) rfl (by decide) (State.winQueue_width width)⟩
  case reserved =>
    have noWidth := widthFault_of_reserved (W := s.tileW t) reserved
    exact ⟨completes_fault issues inTask (exec_amm ..) rfl (by decide) (by simp [noWidth, ammOk_reserved reserved, illegal]),
      completes_fault issues inTask (exec_adrn ..) rfl (by decide) (by simp [noWidth, adrnOk_reserved reserved, illegal]),
      completes_fault issues inTask (exec_wpred ..) rfl (by decide) (State.winQueue_reserved reserved),
      completes_fault issues inTask (exec_wchk ..) rfl (by decide) (State.winQueue_reserved reserved)⟩

end Sys2Proof.Machine

namespace Sys2Proof.Machine

/-! ### A sum of the path that fails parity (R221, R225) -/

section
variable {s : State} {t : Nat}

theorem State.endTask_of_no_task {code thr unit : Nat} {pc addr : DWord} (idle : (s.tile t).task = none) :
    s.endTask t code thr unit pc addr = s := by
  simp only [State.endTask, idle]

theorem State.tileReport_tile (kind addr detail u : Nat) : (s.tileReport kind t addr detail).tile u = s.tile u := by
  simp [State.tile]

/-- The path that has found an error holds no started entry; here with no task for the error to end. -/
theorem State.mvpFail_mvpRun (idle : (s.tile t).task = none) (n : Nat) (o : UnitOp) (e : UnitErr) :
    ((s.mvpFail t n o e).tile t).mvpRun = [] := by
  have stands := (TaskStands.refl t s).mvpKeep n
  unfold State.mvpFail
  dsimp only
  rw [State.endTask_of_no_task, State.tileReport_tile, State.tile_updTile_same]
  rw [State.tileReport_tile, State.tile_updTile_same]
  exact stands.task.trans idle

/-- The oldest started entry does not complete where a sum is bad: the path drops every started entry. -/
theorem exec_mvpEntryComplete_badSum {k stall : Nat} {r : UnitRun} {rest : List UnitRun} (started : (s.tile t).mvpRun = r :: rest)
    (bad : s.sumBad t = some k) (idle : (s.tile t).task = none) :
    ∃ s', exec (.mvpEntryComplete t stall) s = .next s' ∧ (s'.tile t).mvpRun = [] := by
  refine ⟨_, ?_, State.mvpFail_mvpRun (s := (s.free 32).2.cleanSums t) (idle : _ = none) ((s.free 32).1.toNat % max 1 r.rows.length) r.op ⟨6, 0, k⟩⟩
  rw [exec_mvpEntryComplete, execMvpEntryComplete, started]
  dsimp only
  rw [bad]
end

/-- An MVM in L8 with M = 1, N = 256 and K = 32, at work. -/
def mvmRun : UnitRun := { op := { word := BitVec.ofNat 64 (0x48 * 2 ^ 56) } }

/-- Tile 0 runs firmware and has two entries of the path at work; a sum of the path fails parity. -/
def badSumAtWork : State := { State.reset with
  tiles := [(0, { firmware := true, mvpRun := [mvmRun, mvmRun] })]
  bad := [.mvSum 0 0] }

/-- Refutes O10: the oldest of two started entries of the path, with a sum that fails parity. It does not complete and leave the other
at work: the path stops and drops both (R221, R225). -/
theorem not_unitEntriesStartAndComplete : ¬ Obligations.UnitEntriesStartAndComplete := by
  unfold Obligations.UnitEntriesStartAndComplete
  intro claim
  obtain ⟨-, -, -, complete⟩ := claim badSumAtWork 0
  obtain ⟨s', runs, left, -⟩ := complete mvmRun [mvmRun] 0 rfl
  obtain ⟨u, stops, dropped⟩ := exec_mvpEntryComplete_badSum (s := badSumAtWork) (t := 0) (stall := 0) rfl rfl rfl
  cases runs.symm.trans stops
  cases left.symm.trans dropped

end Sys2Proof.Machine

namespace Sys2Proof.Machine

/-! ### Clear bits of the set-up registers (R165, R226, R267, R317, R351, R385, R422, R471, R501, R545, R584, R588, R618, R649, R688,
R689, R696) -/

section
variable {s : State} {a : Agent} {off : Nat} {c : Instr} {f : State → State}

/-- A command that writes 1 to a clear bit, where the write reaches its block. -/
theorem exec_clear (runs : exec c s = .next (s.regWrite a off (fun s => some (f s)))) (h : Writable s a off) :
    exec c s = .next { f s with answer := .ok } :=
  runs.trans (congrArg Host.Outcome.next (State.regWrite_taken h rfl))

theorem State.glClear_first {t : Nat} (first : t = clusterFirst (tileCluster t)) :
    s.glClear t = s.updRouter t (fun r => { r with ctr := r.ctr.filter (fun e => decide (e.1 ≤ 0x160)) }) :=
  if_pos first.symm

theorem State.updSelEv_present {n : Nat} {g : EvCtr → EvCtr} (present : s.health.evcSel.toNat < 2304) :
    s.updSelEv n g = s.updHealth (fun h => { h with ev := smUpd h.ev s.health.evcSel.toNat {} (fun e => { e with cs := smUpd e.cs n {} g }) }) :=
  if_neg (Nat.not_le.mpr present)

theorem exec_evcClear_runs {n : Nat} (small : n < 8) : exec (.evcClear a n) s =
    .next (s.regWrite a (0x30400 + 8 * n) (fun s => some (s.updSelEv n (fun c => { c with value := 0, sat := false })))) :=
  congrArg Host.Outcome.next (if_neg (Nat.not_le.mpr small))

/-- The event counter n of the tile that HLT_EVC_SEL names is zeroed, and nothing else but the answer changes. -/
theorem exec_evcClear_zeroes {n : Nat} (small : n < 8) (present : s.health.evcSel.toNat < 2304) (h : Writable s a (0x30400 + 8 * n)) :
    ∃ s', exec (.evcClear a n) s = .next s' ∧ s' = { s with health := s'.health, answer := .ok } ∧
      ∃ e, smGet s'.health.ev s.health.evcSel.toNat = some e ∧ (smGetD e.cs n {}).value = 0 ∧ (smGetD e.cs n {}).sat = false := by
  refine ⟨_, exec_clear (exec_evcClear_runs small) h, ?_⟩
  rw [State.updSelEv_present present]
  refine ⟨rfl, _, smGet_smSet_same .., ?_⟩
  rw [smGetD_smUpd_same]
  exact ⟨rfl, rfl⟩
end

/-! #### LNK_CLEAR: the ports of a die and their lanes (R501) -/

/-- The counters of a port and the error counters of its nine lanes stand at zero. -/
def Link.Cleared (x : Link) : Prop :=
  x.ctr = [] ∧ ∀ l, l < 9 → (smGetD x.lanes l {}).ce = 0 ∧ (smGetD x.lanes l {}).testErr = 0

/-- What LNK_CLEAR does to one port of its die. -/
def State.clearPort (s : State) (q : Nat) : State :=
  (s.updLink q (fun l => { l with ctr := [] })).allLanes q (fun x => { x with ce := 0, testErr := 0 })

theorem State.lnkClear_eq (s : State) (d : Nat) : s.lnkClear d = (List.range 8).foldl (fun s k => s.clearPort (8 * d + k)) s := rfl

section
variable {s : State} {q p : Nat}

theorem State.link_updLink_ne {f : Link → Link} (other : p ≠ q) : (s.updLink q f).link p = s.link p := smGetD_smUpd_ne _ _ _ _ _ other

theorem State.allLanes_link_ne {f : Lane → Lane} (other : p ≠ q) : (s.allLanes q f).link p = s.link p :=
  foldl_leaves (State.link · p) (fun _ _ => State.link_updLink_ne other) ..

theorem State.updLane_lane (s : State) (q k l : Nat) (f : Lane → Lane) :
    smGetD ((s.updLane q k f).link q).lanes l {} = if l = k then f (smGetD (s.link q).lanes k {}) else smGetD (s.link q).lanes l {} := by
  rw [State.updLane, State.link_same]
  dsimp only
  split
  · next same => rw [same, smGetD_smUpd_same]
  · next other => rw [smGetD_smUpd_ne _ _ _ _ _ other]

theorem State.allLanes_ctr (s : State) (q : Nat) (f : Lane → Lane) : ((s.allLanes q f).link q).ctr = (s.link q).ctr :=
  foldl_leaves (fun u : State => (u.link q).ctr) (fun u k => by rw [State.updLane, State.link_same]) ..

/-- What `f` makes of every lane holds of each of the nine once all have been changed. -/
theorem State.allLanes_lane {P : Lane → Prop} {f : Lane → Lane} (each : ∀ x, P (f x)) {l : Nat} (small : l < 9) :
    P (smGetD ((s.allLanes q f).link q).lanes l {}) := by
  refine foldl_reaches (holds := fun l s => P (smGetD (State.link s q).lanes l {})) (fun s k => ?own) (fun s k l h => ?kept)
    (List.mem_range.mpr small) s
  case own =>
    rw [State.updLane_lane, if_pos rfl]
    exact each _
  case kept =>
    rw [State.updLane_lane]
    split
    · exact each _
    · exact h

theorem State.clearPort_link_ne (other : p ≠ q) : (s.clearPort q).link p = s.link p :=
  (State.allLanes_link_ne other).trans (State.link_updLink_ne other)

theorem State.clearPort_cleared (s : State) (q : Nat) : ((s.clearPort q).link q).Cleared := by
  refine ⟨?_, fun l small => State.allLanes_lane (P := fun x => x.ce = 0 ∧ x.testErr = 0) (fun _ => ⟨rfl, rfl⟩) small⟩
  rw [State.clearPort, State.allLanes_ctr, State.link_same]

theorem State.clearPort_frame (s : State) (q : Nat) : ∃ links, s.clearPort q = { s with links } :=
  List.foldlRecOn (motive := fun u : State => ∃ links, u = { s with links }) _ _ ⟨_, rfl⟩ (by rintro _ ⟨_, rfl⟩ _ _; exact ⟨_, rfl⟩)

theorem State.lnkClear_frame (s : State) (d : Nat) : ∃ links, s.lnkClear d = { s with links } := by
  rw [State.lnkClear_eq]
  refine List.foldlRecOn (motive := fun u : State => ∃ links, u = { s with links }) _ _ ⟨s.links, rfl⟩ ?_
  rintro u ⟨_, rfl⟩ k _
  exact State.clearPort_frame _ _

theorem State.lnkClear_link_other (s : State) {d : Nat} (other : q / 8 ≠ d) : (s.lnkClear d).link q = s.link q := by
  rw [State.lnkClear_eq]
  refine List.foldlRecOn (motive := fun u => State.link u q = s.link q) _ _ rfl (fun u same k member => ?_)
  have small := List.mem_range.mp member
  exact (State.clearPort_link_ne (by omega)).trans same

theorem State.lnkClear_cleared (s : State) (d : Nat) {k : Nat} (small : k < 8) : ((s.lnkClear d).link (8 * d + k)).Cleared := by
  rw [State.lnkClear_eq]
  refine foldl_reaches (holds := fun k (u : State) => (u.link (8 * d + k)).Cleared) (f := fun u k => u.clearPort (8 * d + k))
    (fun u k => u.clearPort_cleared _) (fun u j k h => ?_) (List.mem_range.mpr small) s
  by_cases same : k = j
  · rw [same]
    exact u.clearPort_cleared _
  · rw [State.clearPort_link_ne (by omega)]
    exact h

end

/-- Settles O1: each clear bit names its counters; those of an I/O die's ports go port by port and lane by lane. -/
theorem clearBitsZeroTheirCounters : Obligations.ClearBitsZeroTheirCounters := by
  unfold Obligations.ClearBitsZeroTheirCounters
  intro s a t k d n
  refine ⟨exec_clear (exec_arrClear ..), exec_clear (exec_vecClear ..), exec_clear (exec_mvpClear ..), exec_clear (exec_seqClear ..),
    exec_clear (exec_strClear ..), exec_clear (exec_winClear ..), fun h => ⟨exec_clear (exec_torClear ..) h, fun first => ?gleaner⟩,
    exec_clear (exec_grnClear ..), exec_clear (exec_kfbClear ..), fun h => ?ports, exec_clear (exec_hstClear ..), exec_clear (exec_lgcClear ..),
    exec_clear (exec_cfgClear ..), exec_clear (exec_intClear ..), exec_clear (exec_bupClear ..), exec_clear (exec_hltClear ..),
    exec_clear (exec_grgClear ..), exec_evcClear_zeroes⟩
  case gleaner =>
    rw [exec_clear (exec_glClear ..) h, State.glClear_first first]
  case ports =>
    have runs : exec (.lnkClear a d) s = .next { s.lnkClear d with answer := .ok } := exec_clear (exec_lnkClear ..) h
    have others (q : Nat) (other : q / 8 ≠ d) := s.lnkClear_link_other other
    have cleared (k : Nat) (small : k < 8) := s.lnkClear_cleared d small
    obtain ⟨links, frame⟩ := s.lnkClear_frame d
    rw [frame] at runs others cleared
    exact ⟨_, runs, rfl, others, cleared⟩

end Sys2Proof.Machine

namespace Sys2Proof.Machine

/-! ### How a vector instruction completes (R187, R189, R231, R242) -/

section
variable {s s₁ : State} {t thr w o : Nat} {c : Instr} {run : Nat → State → Verdict}

/-- A thread that may issue does so while no REP runs on its tile. -/
theorem Issues.noRep (issues : Issues s t thr w) : (s.tile t).rep = none := by
  have may := issues.may
  simp only [State.mayIssue, Bool.and_eq_true] at may
  exact Option.isNone_iff_eq_none.mp may.1.1

/-- The state after a vector instruction that left `s`: the instruction is counted, and its thread goes on at `pc`. -/
def State.vecGoesOn (s : State) (t thr : Nat) (pc : DWord) : State :=
  ((s.vecCtrAdd t 0x100 1).updThread t thr (fun h => { h with pc })).seqCtrAdd t 0x100 1

theorem exec_vec_issued (issues : Issues s t thr w) (op : opc w = o) (defined : definedOp o = true)
    (runs : exec c s = .next (s.vecAt t thr o run)) : exec c s = .next (s.settle t thr (taintVec w)
      (match run w s with | .done s' => .done (s'.vecCtrAdd t 0x100 1) | v => v)) := by
  rw [runs, State.vecAt, issues.noRep]
  exact congrArg Host.Outcome.next (s.issueAt_of_issues issues (by rw [op, defined]) op)

/-- A vector instruction at issue whose verdict is that it is done. -/
theorem completes_vec {P : State → Prop} (issues : Issues s t thr w) (op : opc w = o) (defined : definedOp o = true)
    (runs : exec c s = .next (s.vecAt t thr o run)) (verdict : run w s = .done s₁)
    (holds : P (s₁.vecGoesOn t thr ((s.thread t thr).pc + 8))) : Completes c s P := by
  refine ⟨_, (exec_vec_issued issues op defined runs).trans ?_, holds⟩
  rw [verdict]
  exact congrArg Host.Outcome.next (s.settle_done issues.clean)

/-- A vector instruction at issue that faults ends its task with the fault's code. -/
theorem completes_vecFault {code unit : Nat} {addr : DWord} (issues : Issues s t thr w) (op : opc w = o) (defined : definedOp o = true)
    (runs : exec c s = .next (s.vecAt t thr o run)) (inTask : (s.tile t).firmware = false) (bad : code ≠ 0)
    (verdict : run w s = .fault code unit addr) : Completes c s (fun s' => s'.Ends t code) := by
  obtain ⟨k, task, goes⟩ := issues.running inTask
  refine ⟨_, exec_vec_issued issues op defined runs, ?_⟩
  rw [verdict]
  dsimp only
  rw [State.settle_fault issues.clean inTask]
  exact State.endTask_ends task goes bad ..
end

section
variable (s : State) (t thr : Nat) (pc : DWord)

/-- What counting in the vector unit's block can do (R208, R676). -/
theorem State.vecCtrAdd_frame (off n : Nat) : ∃ funcs host hostMem health, s.vecCtrAdd t off n =
    ({ s with funcs, host, hostMem, health } : State).updTile t (fun x => { x with vecCtr := ctrAdd x.vecCtr off n }) := by
  unfold State.vecCtrAdd
  split
  · obtain ⟨_, _, _, _, h⟩ := s.evAdd_frame t 16 n
    exact ⟨_, _, _, _, by rw [h]⟩
  · obtain ⟨_, _, _, _, h⟩ := s.evAdd_frame t 17 n
    exact ⟨_, _, _, _, by rw [h]⟩
  · exact ⟨_, _, _, _, rfl⟩

theorem State.vecGoesOn_frame : ∃ tiles health funcs host hostMem,
    s.vecGoesOn t thr pc = { s with tiles, health, funcs, host, hostMem } := by
  unfold State.vecGoesOn
  obtain ⟨_, _, _, _, vec⟩ := s.vecCtrAdd_frame t 0x100 1
  rw [vec]
  exact ⟨_, _, _, _, _, State.seqCtrAdd_state ..⟩

theorem State.vecGoesOn_tile_same : ∃ vecCtr seqCtr, (s.vecGoesOn t thr pc).tile t =
    { (s.tile t).updTh thr (fun h => { h with pc }) with vecCtr, seqCtr } := by
  unfold State.vecGoesOn
  obtain ⟨_, _, _, _, vec⟩ := s.vecCtrAdd_frame t 0x100 1
  rw [State.seqCtrAdd_tile_same, State.tile_updThread_same, vec, State.tile_updTile_same]
  exact ⟨_, _, rfl⟩

theorem State.vecGoesOn_tile_ne {u : Nat} (other : u ≠ t) : (s.vecGoesOn t thr pc).tile u = s.tile u := by
  unfold State.vecGoesOn
  obtain ⟨_, _, _, _, vec⟩ := s.vecCtrAdd_frame t 0x100 1
  rw [State.seqCtrAdd_tile_ne _ _ _ _ _ other, State.tile_updThread_ne _ _ _ _ _ other, vec, State.tile_updTile_ne _ _ _ _ other]
  rfl

@[simp] theorem State.vecGoesOn_mem : (s.vecGoesOn t thr pc).mem = s.mem := by
  obtain ⟨_, _, _, _, _, frame⟩ := s.vecGoesOn_frame t thr pc
  rw [frame]
@[simp] theorem State.vecGoesOn_near (row : Nat) : (s.vecGoesOn t thr pc).near t row = s.near t row := by
  simp only [State.near, State.rd, State.vecGoesOn_mem]
@[simp] theorem State.vecGoesOn_thread : (s.vecGoesOn t thr pc).thread t thr = { s.thread t thr with pc } := by
  obtain ⟨_, _, tile⟩ := s.vecGoesOn_tile_same t thr pc
  rw [State.thread, tile]
  exact Tile.th_setTh_same ..
theorem State.vecGoesOn_thread_ne {k : Nat} (other : k ≠ thr) : (s.vecGoesOn t thr pc).thread t k = s.thread t k := by
  obtain ⟨_, _, tile⟩ := s.vecGoesOn_tile_same t thr pc
  rw [State.thread, tile]
  exact Tile.th_setTh_ne _ _ _ _ other
@[simp] theorem State.vecGoesOn_v (r : Nat) : (s.vecGoesOn t thr pc).v t thr r = s.v t thr r := by
  rw [State.v, State.vecGoesOn_thread]
  rfl
@[simp] theorem State.vecGoesOn_gen (g : Nat) : (s.vecGoesOn t thr pc).gen t g = s.gen t g := by
  obtain ⟨_, _, tile⟩ := s.vecGoesOn_tile_same t thr pc
  rw [State.gen, tile]
  rfl
@[simp] theorem State.vecGoesOn_topk : ((s.vecGoesOn t thr pc).tile t).topk = (s.tile t).topk := by
  obtain ⟨_, _, tile⟩ := s.vecGoesOn_tile_same t thr pc
  rw [tile]
  rfl
end

/-! ### What the operations of a vector instruction change -/

section
variable {s s' : State} {t thr : Nat} {f : Tile → Tile}

theorem VecOnly.refl (s : State) (t thr : Nat) : VecOnly s s t thr id := ⟨rfl, fun _ h => h, fun _ _ => rfl, rfl, fun _ _ => rfl⟩

/-- A change of the instruction's own thread. -/
theorem VecOnly.updThread (h : VecOnly s s' t thr f) (g : Thread → Thread) : VecOnly s (s'.updThread t thr g) t thr f where
  state := by
    rw [h.state]
    rfl
  parity := h.parity
  tiles u other := (State.tile_updThread_ne _ _ _ _ _ other).trans (h.tiles u other)
  tile := by
    rw [State.tile_updThread_same, h.tile]
    rfl
  threads k other := (State.thread_updThread_ne _ _ _ _ _ other).trans (h.threads k other)

/-- Parity that turns good. -/
theorem VecOnly.filterBad (h : VecOnly s s' t thr f) (p : Place → Bool) : VecOnly s { s' with bad := s'.bad.filter p } t thr f where
  state := by rw [h.state]
  parity q there := h.parity q (List.mem_of_mem_filter there)
  tiles := h.tiles
  tile := h.tile
  threads := h.threads

/-- A change of the tile that leaves its threads. -/
theorem VecOnly.updTile (h : VecOnly s s' t thr f) (g : Tile → Tile) (threads : ∀ x, (g x).threads = x.threads)
    (apart : ∀ x threads seqCtr vecCtr, g { x with threads, seqCtr, vecCtr } = { g x with threads, seqCtr, vecCtr }) :
    VecOnly s (s'.updTile t g) t thr (fun x => g (f x)) where
  state := by
    rw [h.state]
    rfl
  parity := h.parity
  tiles u other := (State.tile_updTile_ne _ _ _ _ other).trans (h.tiles u other)
  tile := by
    rw [State.tile_updTile_same, h.tile, apart]
  threads k other := by
    rw [State.thread, Tile.th, State.tile_updTile_same, threads]
    exact h.threads k other

theorem VecOnly.setV (h : VecOnly s s' t thr f) (r : Nat) (v : List Nat) : VecOnly s (s'.setV t thr r v) t thr f :=
  (h.updThread _).filterBad _

theorem VecOnly.setG (h : VecOnly s s' t thr f) (r : Nat) (v : DWord) : VecOnly s (s'.setG t thr r v) t thr f := h.updThread _

theorem VecOnly.stepAg (h : VecOnly s s' t thr f) (ks : List Nat) : VecOnly s (s'.stepAg t thr ks) t thr f := h.updThread _

/-- Flags that a thread without taint raises are the task's. -/
theorem State.raise_clean (clean : (s.thread t thr).taint = []) (g : Flags) : s.raise t thr g = s.flagsOr t g := by
  rw [State.raise, clean]
  rfl

theorem VecOnly.flagsOr (h : VecOnly s s' t thr f) (g : Flags) :
    VecOnly s (s'.flagsOr t g) t thr (fun x => { f x with flags := (f x).flags ||| g }) :=
  h.updTile _ (fun _ => rfl) (fun _ _ _ _ => rfl)

theorem VecOnly.vecGoesOn (h : VecOnly s s' t thr f) (pc : DWord) : VecOnly s (s'.vecGoesOn t thr pc) t thr f where
  state := by
    obtain ⟨_, _, _, _, _, frame⟩ := s'.vecGoesOn_frame t thr pc
    rw [frame, h.state]
  parity q there := by
    obtain ⟨_, _, _, _, _, frame⟩ := s'.vecGoesOn_frame t thr pc
    rw [frame] at there
    exact h.parity q there
  tiles u other := (s'.vecGoesOn_tile_ne t thr pc other).trans (h.tiles u other)
  tile := by
    obtain ⟨_, _, tile⟩ := s'.vecGoesOn_tile_same t thr pc
    rw [tile, h.tile]
    rfl
  threads k other := (s'.vecGoesOn_thread_ne t thr pc other).trans (h.threads k other)
end
end Sys2Proof.Machine

namespace Sys2Proof.Machine

/-! ### The fields of a V-format word (R173, R175) -/

theorem bitN_of_field {v i : Nat} {b : Bool} (h : v / 2 ^ i % 2 = b2n b) : bitN v i = b := by
  rw [bitN_eq, h]
  cases b <;> rfl

section
variable {f : VWord} (fits : f.Fits)
include fits

theorem VWord.Fits.opc : opc f.word = f.op := by
  obtain ⟨⟩ := fits
  have := b2n_le f.sa; have := b2n_le f.sb; have := b2n_le f.sat; have := b2n_le f.nr; have := b2n_le f.nw
  simp only [Machine.opc, bits, VWord.word]; norm_num; omega

/-- The fields of a word are the fields that it was made of. -/
theorem VWord.Fits.fields : vVd f.word = f.vd ∧ vVa f.word = f.va ∧ vVb f.word = f.vb ∧ vVc f.word = f.vc ∧ vRnd f.word = f.rnd ∧
    vTd f.word = f.td ∧ vTs f.word = f.ts ∧ vGen f.word = f.gen ∧ vAgr f.word = f.agr ∧ vAgw f.word = f.agw ∧ vFn f.word = f.fn ∧
    bits f.word 7 0 = 0 := by
  obtain ⟨⟩ := fits
  have := b2n_le f.sa; have := b2n_le f.sb; have := b2n_le f.sat; have := b2n_le f.nr; have := b2n_le f.nw
  refine ⟨?_, ?_, ?_, ?_, ?_, ?_, ?_, ?_, ?_, ?_, ?_, ?_⟩ <;>
    (simp only [vVd, vVa, vVb, vVc, vRnd, vTd, vTs, vGen, vAgr, vAgw, vFn, bits, VWord.word]; norm_num; omega)

/-- The one-bit fields of a word. -/
theorem VWord.Fits.flags : vSa f.word = f.sa ∧ vSb f.word = f.sb ∧ vSat f.word = f.sat ∧ vNr f.word = f.nr ∧ vNw f.word = f.nw := by
  obtain ⟨⟩ := fits
  have := b2n_le f.sa; have := b2n_le f.sb; have := b2n_le f.sat; have := b2n_le f.nr; have := b2n_le f.nw
  refine ⟨?_, ?_, ?_, ?_, ?_⟩ <;> (refine bitN_of_field ?_; simp only [VWord.word]; norm_num; omega)
end

/-! ### Vector registers (R167, R221) -/

section
variable {s : State} {t thr r : Nat}

/-- Lane l of a register as a number. -/
theorem State.v_getD (s : State) (t thr r : Nat) {l : Nat} (small : l < 64) :
    (s.v t thr r).getD l 0 = ((smGetD (s.thread t thr).v r []).getD l 0).toNat := by
  simp [State.v, Thread.lanes, small]

theorem State.v_lt (s : State) (t thr r l : Nat) : (s.v t thr r).getD l 0 < 2 ^ 32 := by
  rcases Nat.lt_or_ge l 64 with small | big
  · rw [s.v_getD t thr r small]
    exact BitVec.isLt _
  · simp [State.v, Thread.lanes, big]

@[simp] theorem State.v_length (s : State) (t thr r : Nat) : (s.v t thr r).length = 64 := by simp [State.v, Thread.lanes]

@[simp] theorem State.lane_toNat (s : State) (t thr r l : Nat) : (s.lane t thr r l).toNat = (s.v t thr r).getD l 0 := by
  rw [State.lane, BitVec.toNat_ofNat, Nat.mod_eq_of_lt (s.v_lt ..)]

/-- A register as the list of its lanes. -/
theorem State.v_eq_range (s : State) (t thr r : Nat) : s.v t thr r = (List.range 64).map (fun l => (s.v t thr r).getD l 0) := by
  refine List.ext_getElem (by simp) fun l h _ => ?_
  rw [List.getElem_map, List.getElem_range, List.getD_eq_getElem _ _ h]

@[simp] theorem State.setV_thread (s : State) (t thr r : Nat) (v : List Nat) :
    (s.setV t thr r v).thread t thr = { s.thread t thr with v := smSet (s.thread t thr).v r (v.map (BitVec.ofNat 32 ·)) } :=
  State.thread_updThread_same ..

@[simp] theorem State.flagsOr_thread (s : State) (t k : Nat) (g : Flags) : (s.flagsOr t g).thread t k = s.thread t k := by
  rw [State.flagsOr, State.thread, State.tile_updTile_same]
  rfl

@[simp] theorem State.stepAg_thread (s : State) (t thr : Nat) (ks : List Nat) : (s.stepAg t thr ks).thread t thr =
    { s.thread t thr with ag := ks.dedup.foldl (fun m k => smUpd m k {} AddrGen.next) (s.thread t thr).ag } :=
  State.thread_updThread_same ..

/-- The flags of a thread that is not tainted, raised with its result. -/
theorem State.setV_raise (clean : (s.thread t thr).taint = []) (v : List Nat) (g : Flags) :
    (s.setV t thr r v).raise t thr g = (s.setV t thr r v).flagsOr t g :=
  State.raise_clean (by rw [State.setV_thread]; exact clean) g

/-- What a register reads after it was written. -/
theorem State.v_of_thread {v : List Nat} (l : Nat) (small : l < 64)
    (written : smGetD (s.thread t thr).v r [] = v.map (BitVec.ofNat 32 ·)) : (s.v t thr r).getD l 0 = v.getD l 0 % 2 ^ 32 := by
  rw [s.v_getD t thr r small, written]
  rcases Nat.lt_or_ge l v.length with inside | outside
  · simp [inside]
  · simp [outside]

theorem State.withV_good {rs : List Nat} (good : s.vgood t thr rs) (go : Verdict) : s.withV t thr rs go = go := by
  have none_bad : rs.find? (fun r => (s.vregBad t thr r).isSome) = none := by
    rw [List.find?_eq_none]
    intro r there
    simp [good r there]
  rw [State.withV, none_bad]

theorem State.vgood_cons {rs : List Nat} : s.vgood t thr (r :: rs) ↔ s.vregBad t thr r = none ∧ s.vgood t thr rs := List.forall_mem_cons

theorem State.withDraw_none (g : Nat) (go : List Nat → State → Verdict) : s.withDraw t thr g 0 go = go [] s := if_pos rfl

/-- Without words drawn the bits of a rounding are 0. -/
@[simp] theorem srBits_nil (k l : Nat) : srBits [] k l = 0 := by simp [srBits]
end

end Sys2Proof.Machine

namespace Sys2Proof.Machine

/-! ### Instructions that write 64 lanes (R173 to R177) -/

section
variable {f : VWord} (fits : f.Fits)
include fits

/-- A field without a meaning is 0, said of the fields. -/
theorem VUse.ok_word (u : VUse) : u.ok f.word = ((u.vd || f.vd == 0) && (u.va || f.va == 0) && ((u.vb && !f.nr) || f.vb == 0)
    && (u.vc || f.vc == 0) && (if u.rnd then decide (f.rnd ≤ 4) else f.rnd == 0)
    && (u.td || f.td == 0) && (u.ts || f.ts == 0) && (u.sa || !f.sa) && (u.sb || !f.sb) && (u.sat || !f.sat)
    && (u.gen || f.gen == 0) && (u.nrw || (!f.nr && !f.nw)) && (f.nr || f.agr == 0) && (f.nw || f.agw == 0)
    && decide (f.fn < u.fns)) := by
  simp only [VUse.ok, fits.fields, fits.flags, beq_self_eq_true, Bool.true_and]
end

section
variable {s s₁ : State} {t thr w r o : Nat} {c : Instr} {run : Nat → State → Verdict}

theorem writesLanes_of_done {lanes : Nat → Word} {g : Flags} (issues : Issues s t thr w) (op : opc w = o)
    (defined : definedOp o = true) (runs : exec c s = .next (s.vecAt t thr o run)) (verdict : run w s = .done s₁)
    (thread : s₁.thread t thr = { s.thread t thr with v := smSet (s.thread t thr).v r ((List.range 64).map lanes) })
    (only : VecOnly s s₁ t thr (fun x => { x with flags := x.flags ||| g })) : WritesLanes c s t thr r lanes g := by
  refine completes_vec issues op defined runs verdict ⟨?_, only.vecGoesOn _⟩
  rw [State.vecGoesOn_thread, thread]

/-- A vector instruction that raises no flag changes nothing of its tile but the thread and the counters. -/
theorem VecOnly.raise_none (h : VecOnly s s₁ t thr id) : VecOnly s s₁ t thr (fun x => { x with flags := x.flags ||| 0 }) := by
  have unchanged : (fun x : Tile => { x with flags := x.flags ||| 0 }) = id := by
    funext x
    exact congrArg (fun flags => { x with flags }) BitVec.or_zero
  rwa [unchanged]

/-- An instruction whose whole effect is a register's new lanes and the flags that they raised. -/
theorem writesLanes_setV_raise {lanes : Nat → Word} {v : List Nat} {g : Flags} (issues : Issues s t thr w) (op : opc w = o)
    (defined : definedOp o = true) (runs : exec c s = .next (s.vecAt t thr o run))
    (verdict : run w s = .done ((s.setV t thr r v).raise t thr g))
    (same : v.map (BitVec.ofNat 32 ·) = (List.range 64).map lanes) : WritesLanes c s t thr r lanes g := by
  rw [State.setV_raise issues.clean] at verdict
  refine writesLanes_of_done issues op defined runs verdict ?_ (((VecOnly.refl s t thr).setV _ _).flagsOr _)
  rw [State.flagsOr_thread, State.setV_thread, same]

/-- An instruction whose whole effect is a register's new lanes. -/
theorem writesLanes_setV {lanes : Nat → Word} {v : List Nat} (issues : Issues s t thr w) (op : opc w = o)
    (defined : definedOp o = true) (runs : exec c s = .next (s.vecAt t thr o run)) (verdict : run w s = .done (s.setV t thr r v))
    (same : v.map (BitVec.ofNat 32 ·) = (List.range 64).map lanes) : WritesLanes c s t thr r lanes 0 := by
  refine writesLanes_of_done issues op defined runs verdict ?_ ((VecOnly.refl s t thr).setV _ _).raise_none
  rw [State.setV_thread, same]

/-- An instruction of register operands reads them and draws; what it leaves is the result, its flags and no generator stepped. -/
theorem State.elementwise_registers {useB useC : Bool} {blocks : Nat} (fn : LaneFn) (nr : vNr w = false) (nw : vNw w = false)
    (may : s.mayDraw t thr (vGen w) blocks = true) (good : s.vgood t thr (vVa w :: ((if useB then [vVb w] else []) ++ (if useC then [vVc w] else [])))) :
    s.elementwise t thr w useB useC blocks fn = s.withDraw t thr (vGen w) blocks (fun ws s' =>
      let r := mapLanes fn (s.v t thr (vVa w)) (if useB then s.v t thr (vVb w) else []) (if useC then s.v t thr (vVc w) else []) ws
      .done (((s'.setV t thr (vVd w) r.1).raise t thr r.2).stepAg t thr [])) := by
  unfold State.elementwise
  simp only [nr, nw, may, Bool.not_true, Bool.false_and, Bool.false_eq_true, if_false, Bool.not_false, Bool.and_true, List.append_nil]
  exact State.withV_good good _
end

section
variable {s : State} {t thr o : Nat} {c : Instr} {run : Nat → State → Verdict} {f : VWord} {useB useC : Bool} {fn : LaneFn}

/-- The result of a lane function in each lane, and its flags. -/
theorem mapLanes_fst (fn : LaneFn) (a b c ws : List Nat) : (mapLanes fn a b c ws).1 =
    (List.range 64).map (fun l => (fn (a.getD l 0) (b.getD l 0) (c.getD l 0) (srBits ws 0 l)).1) := by
  simp [mapLanes]

theorem mapLanes_snd (fn : LaneFn) (a b c ws : List Nat) : (mapLanes fn a b c ws).2 =
    (List.range 64).foldl (fun g l => g ||| (fn (a.getD l 0) (b.getD l 0) (c.getD l 0) (srBits ws 0 l)).2) 0 := by
  simp only [mapLanes, List.foldl_map]

variable (fits : f.Fits) (issues : Issues s t thr f.word) (op : f.op = o) (defined : definedOp o = true)
  (runs : exec c s = .next (s.vecAt t thr o run)) (nr : f.nr = false) (nw : f.nw = false)
  (good : s.vgood t thr (f.va :: ((if useB then [f.vb] else []) ++ (if useC then [f.vc] else []))))
  (verdict : run f.word s = s.elementwise t thr f.word useB useC 0 fn)
include fits issues op defined runs nr nw good verdict

/-- An element-wise instruction of register operands gives each lane what its lane function gives it. -/
theorem writesLanes_elementwise (r : Nat → Nat × Flags) (lane : ∀ l, l < 64 → fn ((s.v t thr f.va).getD l 0)
      ((if useB then s.v t thr f.vb else []).getD l 0) ((if useC then s.v t thr f.vc else []).getD l 0) 0 = r l) :
    WritesLanes c s t thr f.vd (fun l => BitVec.ofNat 32 (r l).1) ((List.range 64).foldl (fun g l => g ||| (r l).2) 0) := by
  obtain ⟨vd, va, vb, vc, -⟩ := fits.fields
  obtain ⟨-, -, -, vnr, vnw⟩ := fits.flags
  rw [State.elementwise_registers fn (vnr.trans nr) (vnw.trans nw) rfl (by rwa [va, vb, vc]), State.withDraw_none, vd, va, vb, vc] at verdict
  refine writesLanes_of_done issues (fits.opc.trans op) defined runs verdict ?_ ?_
  · rw [State.setV_raise issues.clean, State.stepAg_thread, State.flagsOr_thread, State.setV_thread, mapLanes_fst, List.map_map]
    have same : ∀ l ∈ List.range 64, BitVec.ofNat 32 (fn ((s.v t thr f.va).getD l 0) ((if useB then s.v t thr f.vb else []).getD l 0)
        ((if useC then s.v t thr f.vc else []).getD l 0) (srBits [] 0 l)).1 = BitVec.ofNat 32 (r l).1 := fun l there => by
      rw [srBits_nil, lane l (List.mem_range.mp there)]
    rw [← List.map_congr_left same]
    rfl
  · rw [State.setV_raise issues.clean, mapLanes_snd]
    have same : (List.range 64).foldl (fun g l => g ||| (fn ((s.v t thr f.va).getD l 0) ((if useB then s.v t thr f.vb else []).getD l 0)
        ((if useC then s.v t thr f.vc else []).getD l 0) (srBits [] 0 l)).2) 0 = (List.range 64).foldl (fun g l => g ||| (r l).2) (0 : Flags) :=
      List.foldl_ext _ _ _ fun g l there => by rw [srBits_nil, lane l (List.mem_range.mp there)]
    rw [same]
    exact (((VecOnly.refl s t thr).setV _ _).flagsOr _).stepAg _

/-- As `writesLanes_elementwise`, for a lane function that raises no flag. -/
theorem writesLanes_exact (g : Word → Word → Word → Word) (lane : ∀ a b c : Word, fn a.toNat b.toNat c.toNat 0 = ((g a b c).toNat, 0)) :
    WritesLanes c s t thr f.vd (fun l => g (s.lane t thr f.va l) (if useB then s.lane t thr f.vb l else 0)
      (if useC then s.lane t thr f.vc l else 0)) 0 := by
  have result := writesLanes_elementwise fits issues op defined runs nr nw good verdict
    (fun l => ((g (s.lane t thr f.va l) (if useB then s.lane t thr f.vb l else 0) (if useC then s.lane t thr f.vc l else 0)).toNat, 0))
    (fun l _ => by
      rw [← lane]
      cases useB <;> cases useC <;> simp)
  have no_flags : (List.range 64).foldl (fun g _ => g ||| 0) (0 : Flags) = 0 := by decide
  rw [no_flags] at result
  simpa using result
end
end Sys2Proof.Machine

namespace Sys2Proof.Machine

/-! ### Integer lanes (R93, R106, R169) -/

@[simp] theorem bitsInt_signed (x : Word) : bitsInt true 32 x.toNat = x.toInt := by
  rw [bitsInt, Nat.mod_eq_of_lt x.isLt, BitVec.toInt_eq_toNat_cond]
  have := x.isLt
  simp only [Bool.true_and, decide_eq_true_eq]
  split <;> split <;> omega

@[simp] theorem bitsInt_unsigned (x : Word) : bitsInt false 32 x.toNat = x.toNat := by
  rw [bitsInt, Nat.mod_eq_of_lt x.isLt]
  rfl

/-- A word is the wrapped value of the integer that it spells, signed or not. -/
@[simp] theorem ofInt_bitsInt (signed : Bool) (x : Word) : BitVec.ofInt 32 (bitsInt signed 32 x.toNat) = x := by
  cases signed
  · rw [bitsInt_unsigned, BitVec.ofInt_natCast, BitVec.ofNat_toNat, BitVec.setWidth_eq]
  · rw [bitsInt_signed, BitVec.ofInt_toInt]

theorem bitsInt_inj (signed : Bool) {x y : Word} : bitsInt signed 32 x.toNat = bitsInt signed 32 y.toNat ↔ x = y :=
  ⟨fun same => by rw [← ofInt_bitsInt signed x, same, ofInt_bitsInt], fun same => same ▸ rfl⟩

theorem toNat_ones (p : Bool) : (if p then 2 ^ 32 - 1 else 0) = (if p then BitVec.allOnes 32 else (0 : Word)).toNat := by
  cases p <;> rfl

/-- What VCMP finds of two 32-bit integers, by fn and the operands' signs (R177). -/
def VWord.compares (f : VWord) (a b : Word) : Bool :=
  let x := bitsInt f.sa 32 a.toNat
  let y := bitsInt f.sb 32 b.toNat
  match f.fn with | 0 => decide (x = y) | 1 => decide (x ≠ y) | 2 => decide (x < y) | _ => decide (x ≤ y)

section
variable {f : VWord} (fits : f.Fits)
include fits

theorem arithLane_word (ts : f.ts = 5) (td : f.td = 5) (sat : f.sat = false)
    (ff : Nat → Nat → Nat → Nat → Nat → Nat → Nat × Flags) (fi : Int → Int → Int → Int) (a b c : Word) :
    arithLane f.word ff fi a.toNat b.toNat c.toNat 0 = ((BitVec.ofInt 32
      (fi (bitsInt f.sa 32 a.toNat) (bitsInt f.sb 32 b.toNat) (bitsInt (f.sa || f.sb) 32 c.toNat))).toNat, 0) := by
  have whole (x : Word) : x.toNat % 2 ^ intW 5 = x.toNat := Nat.mod_eq_of_lt x.isLt
  simp only [arithLane, fits.fields, fits.flags, ts, td, sat, whole]
  rfl

theorem cmpLane_word (ts : f.ts = 5) (a b : Word) (c : Nat) :
    cmpLane f.word a.toNat b.toNat c 0 = ((if f.compares a b then BitVec.allOnes 32 else (0 : Word)).toNat, 0) := by
  have whole (x : Word) : x.toNat % 2 ^ 32 = x.toNat := Nat.mod_eq_of_lt x.isLt
  have integer : isFlt 5 = false := rfl
  have width : intW 5 = 32 := rfl
  rw [← toNat_ones]
  simp only [cmpLane, VWord.compares, fits.fields, fits.flags, ts, integer, whole, width, Bool.false_eq_true, if_false] <;> rfl
end

/-! #### Bits and shifts of a word as numbers -/

theorem toNat_andNot (a b : Word) : a.toNat &&& (2 ^ 32 - 1 - b.toNat) = (a &&& ~~~b).toNat := by
  rw [BitVec.toNat_and, BitVec.toNat_not]

theorem toNat_shl (a : Word) (n : Nat) : a.toNat * 2 ^ n % 2 ^ 32 = (a <<< n).toNat := by
  rw [BitVec.toNat_shiftLeft, Nat.shiftLeft_eq]

theorem toNat_shr (a : Word) (n : Nat) : a.toNat / 2 ^ n = (a >>> n).toNat := by
  rw [BitVec.toNat_ushiftRight, Nat.shiftRight_eq_div_pow]

theorem toNat_sar (a : Word) (n : Nat) : intBits (Int.fdiv (bitsInt true 32 a.toNat) (2 ^ n)) 32 = (a.sshiftRight n).toNat := by
  rw [bitsInt_signed, BitVec.sshiftRight, Int.shiftRight_eq_div_pow, Int.fdiv_eq_ediv_of_nonneg _ (by positivity)]
  simp [intBits, BitVec.toNat_ofInt]

/-! ### The integer instructions of O11's form (R174 to R177, R180) -/

/-- Operands and destination are registers, and the word rounds, draws and saturates nothing. -/
structure VWord.Plain (f : VWord) : Prop where
  nr : f.nr = false
  nw : f.nw = false
  agr : f.agr = 0
  agw : f.agw = 0
  rnd : f.rnd = 0
  gen : f.gen = 0
  sat : f.sat = false

theorem VUse.ok_plain {f : VWord} (fits : f.Fits) (plain : f.Plain) (u : VUse) : u.ok f.word = ((u.vd || f.vd == 0) && (u.va || f.va == 0)
    && (u.vb || f.vb == 0) && (u.vc || f.vc == 0) && (u.td || f.td == 0) && (u.ts || f.ts == 0) && (u.sa || !f.sa) && (u.sb || !f.sb)
    && decide (f.fn < u.fns)) := by
  obtain ⟨nr, nw, agr, agw, rnd, gen, sat⟩ := plain
  rw [VUse.ok_word fits, nr, nw, agr, agw, rnd, gen, sat]
  simp

section
variable {s : State} {t thr o : Nat} {f : VWord} {c : Instr} (fits : f.Fits) (plain : f.Plain)
include fits plain

/-- The checks of a 32-bit integer instruction pass (R175, R176). -/
theorem arithUse_integer (ts : f.ts = 5) (td : f.td = 5) (fn : f.fn = 0) {fma : Bool} (vc : fma = true ∨ f.vc = 0) (minMax : Bool) :
    (arithUse f.word minMax fma).ok f.word = true ∧ addTypes f.word = true ∧ mulTypes f.word = true := by
  have lacks : (fma || f.vc == 0) = true := by rcases vc with vc | vc <;> simp [vc]
  simp [VUse.ok_plain fits plain, arithUse, addTypes, mulTypes, fits.fields, isFlt, isInt, lacks, ts, td, fn]

/-- An arithmetic instruction of 32-bit integers gives each lane its exact result, wrapped. -/
theorem writesLanes_integer {minMax fma : Bool} {types : Nat → Bool} {blocks : Nat → Nat}
    {ff : Nat → Nat → Nat → Nat → Nat → Nat → Nat → Nat × Flags} {fi : Int → Int → Int → Int} (issues : Issues s t thr f.word)
    (ts : f.ts = 5) (td : f.td = 5) (good : s.vgood t thr (f.va :: ([f.vb] ++ (if fma then [f.vc] else []))))
    (op : f.op = o) (defined : definedOp o = true)
    (runs : exec c s = .next (s.vecAt t thr o (fun w s => if !((arithUse w minMax fma).ok w && types w) then illegal
      else s.elementwise t thr w true fma (blocks w) (arithLane w (ff w) fi))))
    (ok : (arithUse f.word minMax fma).ok f.word = true) (typed : types f.word = true) (noDraw : blocks f.word = 0)
    (g : Word → Word → Word → Word)
    (lane : ∀ a b c : Word, BitVec.ofInt 32 (fi (bitsInt f.sa 32 a.toNat) (bitsInt f.sb 32 b.toNat) (bitsInt (f.sa || f.sb) 32 c.toNat)) = g a b c) :
    WritesLanes c s t thr f.vd (fun l => g (s.lane t thr f.va l) (s.lane t thr f.vb l) (if fma then s.lane t thr f.vc l else 0)) 0 := by
  refine writesLanes_exact (useB := true) (fn := arithLane f.word (ff f.word) fi) fits issues op defined runs plain.nr plain.nw good ?_ g
    fun a b c => ?_
  · simp only [ok, typed, noDraw, Bool.and_self, Bool.not_true, Bool.false_eq_true, if_false]
  · rw [arithLane_word fits ts td plain.sat, lane]

/-- VBIT and VSHF: `fn` names one of n functions of two words. -/
theorem writesLanes_bitwise {n : Nat} {fns : Nat → Nat → Nat → Nat} (issues : Issues s t thr f.word) (ts : f.ts = 0) (td : f.td = 0)
    (sa : f.sa = false) (sb : f.sb = false) (vc : f.vc = 0) (good : s.vgood t thr [f.va, f.vb]) (op : f.op = o) (defined : definedOp o = true)
    (runs : exec c s = .next (s.vecAt t thr o (fun w s => if !({ vd := true, va := true, vb := true, fns := n } : VUse).ok w then illegal
      else s.elementwise t thr w true false 0 (fun a b _ _ => (fns w a b, 0))))) (listed : f.fn < n)
    (g : Word → Word → Word) (lane : ∀ a b : Word, fns f.word a.toNat b.toNat = (g a b).toNat) :
    WritesLanes c s t thr f.vd (fun l => g (s.lane t thr f.va l) (s.lane t thr f.vb l)) 0 := by
  refine writesLanes_exact (useB := true) (useC := false) (fn := fun a b _ _ => (fns f.word a b, 0)) fits issues op defined runs plain.nr plain.nw good
    ?_ (fun a b _ => g a b) fun a b _ => by rw [lane]
  simp [VUse.ok_plain fits plain, vc, ts, td, sa, sb, listed]

/-- VCMP of two 32-bit integers. -/
theorem writesLanes_compare (issues : Issues s t thr f.word) (ts : f.ts = 5) (td : f.td = 0) (vc : f.vc = 0) (good : s.vgood t thr [f.va, f.vb])
    (op : f.op = 0x86) (listed : f.fn < 4) (p : Word → Word → Bool) (holds : ∀ a b, f.compares a b = p a b) :
    WritesLanes (.vcmp t thr) s t thr f.vd
      (fun l => if p (s.lane t thr f.va l) (s.lane t thr f.vb l) then BitVec.allOnes 32 else 0) 0 := by
  refine writesLanes_exact (useB := true) (useC := false) (fn := cmpLane f.word) fits issues op rfl (exec_vcmp ..) plain.nr plain.nw good ?_
    (fun a b _ => if p a b then BitVec.allOnes 32 else 0) fun a b c => by rw [cmpLane_word fits ts, holds]
  simp [VUse.ok_plain fits plain, fits.fields, isFlt, isInt, ts, td, vc, listed]
end

theorem ofInt_sub (a b : Int) : BitVec.ofInt 32 (a - b) = BitVec.ofInt 32 a - BitVec.ofInt 32 b := by
  rw [Int.sub_eq_add_neg, BitVec.ofInt_add, BitVec.ofInt_neg, BitVec.sub_eq_add_neg]

/-- The smaller of two integers of 32 bits, and the larger. -/
theorem ofInt_min (signed : Bool) (a b : Word) : BitVec.ofInt 32 (min (bitsInt signed 32 a.toNat) (bitsInt signed 32 b.toNat)) =
    if bitsInt signed 32 a.toNat ≤ bitsInt signed 32 b.toNat then a else b := by
  rw [min_def, apply_ite (BitVec.ofInt 32), ofInt_bitsInt, ofInt_bitsInt]

theorem ofInt_max (signed : Bool) (a b : Word) : BitVec.ofInt 32 (max (bitsInt signed 32 a.toNat) (bitsInt signed 32 b.toNat)) =
    if bitsInt signed 32 a.toNat ≤ bitsInt signed 32 b.toNat then b else a := by
  rw [max_def, apply_ite (BitVec.ofInt 32), ofInt_bitsInt, ofInt_bitsInt]

/-- Settles O11: each instruction's checks pass, and its lane function is the stated one. -/
theorem integerLaneResults : Obligations.IntegerLaneResults := by
  unfold Obligations.IntegerLaneResults
  intro s t thr f fits issues nr nw agr agw rnd gen sat A B C gives ones
  have plain : f.Plain := ⟨nr, nw, agr, agw, rnd, gen, sat⟩
  refine ⟨fun ts td fn good => ?arith, fun op ts td vc good => ?compare, fun ts td sa sb good => ?bits, fun op ts td sa sb vb vc fn => ?put⟩
  case arith =>
    have use {fma : Bool} (vc : fma = true ∨ f.vc = 0) := arithUse_integer fits plain ts td fn vc
    have noDraw : (if isFlt (vTs f.word) then srBlocks f.word else 0) = 0 := by simp [fits.fields, ts, isFlt]
    refine ⟨fun vc => ?two, fun op goodC => ?three⟩
    case three =>
      obtain ⟨ok, -, mul⟩ := use (.inl rfl) false
      have all : s.vgood t thr (f.va :: ([f.vb] ++ (if true then [f.vc] else []))) := List.forall_mem_append.mpr ⟨good, goodC⟩
      exact writesLanes_integer fits plain issues ts td all op rfl (exec_vfma ..) ok mul noDraw (fun a b c => a * b + c) fun a b c => by
        simp [BitVec.ofInt_add, BitVec.ofInt_mul]
    case two =>
      obtain ⟨⟨ok, add, mul⟩, ⟨okM, -, -⟩⟩ := And.intro (use (.inr vc) false) (use (.inr vc) true)
      have integer {c o minMax types blocks ff fi} := @writesLanes_integer s t thr o f c fits plain minMax false types blocks ff fi issues ts td good
      refine ⟨fun op => integer op rfl (exec_vadd ..) ok add noDraw (fun a b _ => a + b) fun a b _ => by simp [BitVec.ofInt_add],
        fun op => integer op rfl (exec_vsub ..) ok add noDraw (fun a b _ => a - b) fun a b _ => by simp [ofInt_sub],
        fun op => integer op rfl (exec_vmul ..) ok mul noDraw (fun a b _ => a * b) fun a b _ => by simp [BitVec.ofInt_mul],
        fun op sa sb => integer op rfl (exec_vmin ..) okM mul rfl (fun a b _ => if a.toInt ≤ b.toInt then a else b) fun a b _ => ?_,
        fun op sa sb => integer op rfl (exec_vmin ..) okM mul rfl (fun a b _ => if a.toNat ≤ b.toNat then a else b) fun a b _ => ?_,
        fun op sa sb => integer op rfl (exec_vmax ..) okM mul rfl (fun a b _ => if a.toInt ≤ b.toInt then b else a) fun a b _ => ?_,
        fun op sa sb => integer op rfl (exec_vmax ..) okM mul rfl (fun a b _ => if a.toNat ≤ b.toNat then b else a) fun a b _ => ?_⟩
      · rw [sa, sb, ofInt_min, bitsInt_signed, bitsInt_signed]
      · rw [sa, sb, ofInt_min, bitsInt_unsigned, bitsInt_unsigned]
        simp only [Int.ofNat_le]
      · rw [sa, sb, ofInt_max, bitsInt_signed, bitsInt_signed]
      · rw [sa, sb, ofInt_max, bitsInt_unsigned, bitsInt_unsigned]
        simp only [Int.ofNat_le]
  case compare =>
    have compare := writesLanes_compare fits plain issues ts td vc good op
    refine ⟨fun fn same => compare (by omega) (fun a b => a == b) fun a b => ?_, fun fn same => compare (by omega) (fun a b => a != b) fun a b => ?_,
      fun fn sa sb => compare (by omega) (fun a b => decide (a.toInt < b.toInt)) fun a b => ?_,
      fun fn sa sb => compare (by omega) (fun a b => decide (a.toNat ≤ b.toNat)) fun a b => ?_⟩
    · simp [VWord.compares, fn, same, bitsInt_inj, beq_eq_decide]
    · simp [VWord.compares, fn, same, bitsInt_inj, bne, beq_eq_decide]
    · simp [VWord.compares, fn, sa, sb]
    · simp [VWord.compares, fn, sa, sb]
  case bits =>
    refine ⟨fun op fn goodC => ?sel, fun vc => ?two⟩
    case sel =>
      refine writesLanes_exact (useB := true) (useC := true) (fn := fun a b c _ => (if c ≠ 0 then a else b, 0)) fits issues op rfl (exec_vsel ..) nr nw
        (List.forall_mem_append.mpr ⟨good, goodC⟩) ?_ (fun a b c => if c = 0 then b else a) fun a b c => ?_
      · simp [VUse.ok_plain fits plain, ts, td, sa, sb, fn]
      · by_cases zero : c = 0
        · rw [zero]
          rfl
        · rw [if_neg zero, if_pos (show c.toNat ≠ 0 from fun same => zero (BitVec.eq_of_toNat_eq same))]
    case two =>
      have bitwise {c o n fns} := @writesLanes_bitwise s t thr o f c fits plain n fns issues ts td sa sb vc good
      have vFn := fits.fields.2.2.2.2.2.2.2.2.2.2.1
      refine ⟨fun op fn => bitwise op rfl (exec_vbit ..) (by omega) (fun a b => a &&& b) fun a b => ?_,
        fun op fn => bitwise op rfl (exec_vbit ..) (by omega) (fun a b => a ||| b) fun a b => ?_,
        fun op fn => bitwise op rfl (exec_vbit ..) (by omega) (fun a b => a ^^^ b) fun a b => ?_,
        fun op fn => bitwise op rfl (exec_vbit ..) (by omega) (fun a b => a &&& ~~~b) fun a b => ?_,
        fun op fn => bitwise op rfl (exec_vshf ..) (by omega) (fun a b => a <<< (b.toNat % 32)) fun a b => ?_,
        fun op fn => bitwise op rfl (exec_vshf ..) (by omega) (fun a b => a >>> (b.toNat % 32)) fun a b => ?_,
        fun op fn => bitwise op rfl (exec_vshf ..) (by omega) (fun a b => a.sshiftRight (b.toNat % 32)) fun a b => ?_,
        fun op fn => ?perm⟩
      · simp only [vFn, fn, BitVec.toNat_and]
      · simp only [vFn, fn, BitVec.toNat_or]
      · simp only [vFn, fn, BitVec.toNat_xor]
      · simp only [vFn, fn, toNat_andNot]
      · simp only [vFn, fn, toNat_shl]
      · simp only [vFn, fn, toNat_shr]
      · simp only [vFn, fn, toNat_sar]
      refine writesLanes_setV issues (fits.opc.trans op) rfl (exec_vperm ..)
        (v := (s.v t thr f.vb).map (fun i => (s.v t thr f.va).getD (i % 64) 0)) ?_ ?_
      · simp only [VUse.ok_plain fits plain, fits.fields, State.withV_good good]
        simp [vc, ts, td, sa, sb, fn]
      · rw [s.v_eq_range t thr f.vb, List.map_map, List.map_map]
        refine List.map_congr_left fun l _ => ?_
        show BitVec.ofNat 32 _ = s.lane t thr f.va ((s.lane t thr f.vb l).toNat % 64)
        rw [State.lane_toNat]
        rfl
  case put =>
    refine writesLanes_setV issues (fits.opc.trans op) rfl (exec_vput ..)
      (v := List.replicate 64 ((s.g t thr f.va).toNat % 2 ^ 32)) ?_ ?_
    · simp only [VUse.ok_plain fits plain, fits.fields]
      simp [vb, vc, ts, td, sa, sb, fn]
    · rw [List.map_replicate, List.map_const', List.length_range]
      exact congrArg (List.replicate 64) (BitVec.eq_of_toNat_eq (by simp))

end Sys2Proof.Machine

namespace Sys2Proof.Machine

/-! ### Moves between registers (R174, R180) -/

@[simp] theorem State.setG_thread (s : State) (t thr r : Nat) (v : DWord) :
    (s.setG t thr r v).thread t thr = { s.thread t thr with g := smSet (s.thread t thr).g r v } :=
  State.thread_updThread_same ..

/-- A lane taken from one of two registers, by a bit of its number. -/
theorem ofNat_lane_by_bit (s : State) (t thr ra rb l k i j : Nat) :
    BitVec.ofNat 32 (if l.testBit k then (s.v t thr rb).getD j 0 else (s.v t thr ra).getD i 0) =
      if l / 2 ^ k % 2 = 0 then s.lane t thr ra i else s.lane t thr rb j := by
  rw [Nat.testBit_eq_decide_div_mod_eq]
  rcases Nat.mod_two_eq_zero_or_one (l / 2 ^ k) with bit | bit
  · simp only [bit, if_true]
    rfl
  · simp only [bit, decide_true, if_true, one_ne_zero, if_false]
    rfl

/-- Settles O12: VGET is a write of a general register, VXLN two writes of vector registers. -/
theorem laneMovesReachTheirPlace : Obligations.LaneMovesReachTheirPlace := by
  unfold Obligations.LaneMovesReachTheirPlace
  intro s t thr f fits issues form h
  have plain : f.Plain := ⟨congrArg VWord.nr form, congrArg VWord.nw form, congrArg VWord.agr form, congrArg VWord.agw form,
    congrArg VWord.rnd form, congrArg VWord.gen form, congrArg VWord.sat form⟩
  have vc : f.vc = 0 := congrArg VWord.vc form
  have ts : f.ts = 0 := congrArg VWord.ts form
  have td : f.td = 0 := congrArg VWord.td form
  have sa : f.sa = false := congrArg VWord.sa form
  have sb : f.sb = false := congrArg VWord.sb form
  refine ⟨fun op vb good => ?get, fun op near even good => ?exchange⟩
  case get =>
    refine completes_vec issues (fits.opc.trans op) rfl (exec_vget ..)
      (s₁ := s.setG t thr f.vd (BitVec.ofNat 64 ((s.v t thr f.va).getD f.fn 0))) ?_ ⟨?_, ((VecOnly.refl s t thr).setG _ _).vecGoesOn _⟩
    · simp only [VUse.ok_plain fits plain, fits.fields, State.withV_good good]
      simp [vb, vc, ts, td, sa, sb, fits.fn]
    · have lane : BitVec.ofNat 64 ((s.v t thr f.va).getD f.fn 0) = (s.lane t thr f.va f.fn).setWidth 64 := by
        rw [← State.lane_toNat, BitVec.ofNat_toNat]
      rw [State.vecGoesOn_thread, State.setG_thread, lane]
      rfl
  case exchange =>
    let d := 2 ^ f.fn
    let lo := fun l => if l.testBit f.fn then (s.v t thr f.vb).getD (l - d) 0 else (s.v t thr f.va).getD l 0
    let hi := fun l => if l.testBit f.fn then (s.v t thr f.vb).getD l 0 else (s.v t thr f.va).getD (l + d) 0
    refine completes_vec issues (fits.opc.trans op) rfl (exec_vxln ..)
      (s₁ := (s.setV t thr f.vd ((List.range 64).map lo)).setV t thr (f.vd + 1) ((List.range 64).map hi)) ?_
      ⟨?_, (((VecOnly.refl s t thr).setV _ _).setV _ _).vecGoesOn _⟩
    · simp only [VUse.ok_plain fits plain, fits.fields, State.withV_good good]
      simp [vc, ts, td, sa, sb, even, Nat.lt_succ_of_le near, lo, hi, d]
    · rw [State.vecGoesOn_thread, State.setV_thread, State.setV_thread, List.map_map, List.map_map,
        List.map_congr_left (f := (BitVec.ofNat 32 ·) ∘ lo) fun l _ => ofNat_lane_by_bit s t thr f.va f.vb l f.fn l (l - d),
        List.map_congr_left (f := (BitVec.ofNat 32 ·) ∘ hi) fun l _ => ofNat_lane_by_bit s t thr f.va f.vb l f.fn (l + d) l]

end Sys2Proof.Machine

namespace Sys2Proof.Machine

/-! ### Generators (R197, R201) -/

section
variable (s : State) (t : Nat)

@[simp] theorem State.setGen_gen (g : Nat) (x : Gen) : (s.setGen t g x).gen t g = x := by
  rw [State.setGen, State.gen, State.tile_updTile_same, smGetD_smSet_same]

@[simp] theorem State.setGen_thread (g : Nat) (x : Gen) (k : Nat) : (s.setGen t g x).thread t k = s.thread t k := by
  rw [State.setGen, State.thread, State.tile_updTile_same]
  rfl

/-- Writing a vector register leaves the generators. -/
@[simp] theorem State.setV_gen (thr r g : Nat) (v : List Nat) : (s.setV t thr r v).gen t g = s.gen t g := by
  rw [State.setV]
  show (s.updThread t thr _).gen t g = s.gen t g
  rw [State.gen, State.tile_updThread_same]
  rfl
end

/-- Four words to a block. -/
theorem philoxRound_length (k0 k1 c0 c1 c2 c3 n : Nat) : (philoxRound k0 k1 c0 c1 c2 c3 n).length = 4 := by
  fun_induction philoxRound with
  | case1 => rfl
  | case2 _ _ _ _ _ _ _ _ _ ih => exact ih

theorem philox_length (key ctr : Nat) : (philox key ctr).length = 4 := philoxRound_length ..

/-- Element i of a list that is made of blocks of n. -/
theorem getElem?_flatMap_blocks {α β : Type} {n : Nat} (pos : 0 < n) (f : β → List α) (block : ∀ b, (f b).length = n) :
    ∀ (l : List β) (i : Nat), (l.flatMap f)[i]? = l[i / n]?.bind (fun b => (f b)[i % n]?)
  | [], i => by simp
  | b :: l, i => by
    rw [List.flatMap_cons, List.getElem?_append, block]
    rcases Nat.lt_or_ge i n with inside | beyond
    · simp [inside, Nat.div_eq_of_lt, Nat.mod_eq_of_lt]
    · have step : i / n = (i - n) / n + 1 := Nat.div_eq_sub_div pos beyond
      rw [if_neg (Nat.not_lt.mpr beyond), getElem?_flatMap_blocks pos f block l, step, List.getElem?_cons_succ, Nat.mod_eq_sub_mod beyond]

/-- Word i of n blocks that a generator draws (R198). -/
theorem Gen.draw_word (g : Gen) (n i : Nat) (inside : i < 4 * n) :
    (g.draw n).1.getD i 0 = (philox g.key.toNat ((g.ctr.toNat + i / 4) % 2 ^ 128)).getD (i % 4) 0 := by
  have block : i / 4 < n := by omega
  rw [Gen.draw, List.getD_eq_getElem?_getD, getElem?_flatMap_blocks (by decide) _ (fun _ => philox_length ..)]
  simp [block, List.getD_eq_getElem?_getD]

/-- A draw that finds its generator good. -/
theorem State.withDraw_good {s : State} {t thr g n : Nat} (some_ : n ≠ 0) (good : s.isBad (.gen t g) = false) (go : List Nat → State → Verdict) :
    s.withDraw t thr g n go = go ((s.gen t g).draw n).1 (s.setGen t g ((s.gen t g).draw n).2) := by
  rw [State.withDraw, if_neg some_, good]
  rfl

/-- The counter that VRSET makes of two registers. -/
theorem ofNat_two_words (lo hi : DWord) : BitVec.ofNat 128 (lo.toNat + 2 ^ 64 * hi.toNat) = hi ++ lo := by
  refine BitVec.eq_of_toNat_eq ?_
  have := lo.isLt; have := hi.isLt
  rw [BitVec.toNat_append, BitVec.toNat_ofNat, ← Nat.shiftLeft_add_eq_or_of_lt lo.isLt, Nat.shiftLeft_eq, Nat.mod_eq_of_lt (by omega)]
  ring

/-- The fields of the words of VRSET and VRGET. -/
theorem generatorWord_fields {o g r : Nat} (ho : o < 256) (hg : g < 4) (hr : r ≤ 29) : let w := o * 2 ^ 56 + g * 2 ^ 54 + r * 2 ^ 48
    opc w = o ∧ bits w 55 54 = g ∧ bits w 53 53 = 0 ∧ bits w 52 48 = r ∧ bits w 47 0 = 0 := by
  refine ⟨?_, ?_, ?_, ?_, ?_⟩ <;> (simp only [opc, bits]; norm_num; omega)

/-- The fields of the word of a REP with its count in the word. -/
theorem repWord_fields {n : Nat} (hn : n < 65536) : let w := 0xBF * 2 ^ 56 + n
    opc w = 0xBF ∧ bitN w 55 = false ∧ bits w 54 16 = 0 ∧ bits w 15 0 = n := by
  refine ⟨?_, bitN_of_field (b := false) ?_, ?_, ?_⟩ <;> (simp only [opc, bits, b2n]; norm_num; omega)

section
variable {s : State} {t thr g r vd n : Nat}

theorem vrset_completes (hg : g < 4) (hr : r ≤ 29) (issues : Issues s t thr (0xA8 * 2 ^ 56 + g * 2 ^ 54 + r * 2 ^ 48)) :
    Completes (.vrset t thr) s (fun s' =>
      s'.gen t g = { key := s.g t thr r, owner := some thr, ctr := s.g t thr (r + 2) ++ s.g t thr (r + 1) } ∧
      s'.thread t thr = { s.thread t thr with pc := (s.thread t thr).pc + 8 } ∧ s'.mem = s.mem) := by
  obtain ⟨op, gen, zero, reg, rest⟩ := generatorWord_fields (o := 0xA8) (by decide) hg hr
  generalize 0xA8 * 2 ^ 56 + g * 2 ^ 54 + r * 2 ^ 48 = w at issues op gen zero reg rest
  refine completes_vec issues op rfl (exec_vrset ..) (s₁ := (s.setGen t g
    ⟨s.g t thr r, BitVec.ofNat 128 ((s.g t thr (r + 1)).toNat + 2 ^ 64 * (s.g t thr (r + 2)).toNat), some thr⟩).clean (.gen t g)) ?_ ⟨?_, ?_, ?_⟩
  · simp [gen, zero, reg, rest, Nat.not_lt.mpr hr]
  · rw [State.vecGoesOn_gen, ofNat_two_words]
    exact State.setGen_gen ..
  · rw [State.vecGoesOn_thread]
    exact congrArg (fun y : Thread => { y with pc := (s.thread t thr).pc + 8 }) (State.setGen_thread ..)
  · rw [State.vecGoesOn_mem]
    rfl

theorem vrget_completes (hg : g < 4) (hr : r ≤ 29) (issues : Issues s t thr (0xA9 * 2 ^ 56 + g * 2 ^ 54 + r * 2 ^ 48))
    (good : s.isBad (.gen t g) = false) : Completes (.vrget t thr) s (fun s' => s'.thread t thr = { s.thread t thr with
      g := smSet (smSet (smSet (s.thread t thr).g r (s.gen t g).key) (r + 1) ((s.gen t g).ctr.setWidth 64)) (r + 2)
        (((s.gen t g).ctr >>> 64).setWidth 64), pc := (s.thread t thr).pc + 8 } ∧ VecOnly s s' t thr id) := by
  obtain ⟨op, gen, zero, reg, rest⟩ := generatorWord_fields (o := 0xA9) (by decide) hg hr
  generalize 0xA9 * 2 ^ 56 + g * 2 ^ 54 + r * 2 ^ 48 = w at issues op gen zero reg rest
  have high : BitVec.ofNat 64 ((s.gen t g).ctr.toNat / 2 ^ 64) = ((s.gen t g).ctr >>> 64).setWidth 64 := by
    rw [← BitVec.ofNat_toNat, BitVec.toNat_ushiftRight, Nat.shiftRight_eq_div_pow]
  refine completes_vec issues op rfl (exec_vrget ..) (s₁ := ((s.setG t thr r (s.gen t g).key).setG t thr (r + 1)
    ((s.gen t g).ctr.setWidth 64)).setG t thr (r + 2) (BitVec.ofNat 64 ((s.gen t g).ctr.toNat / 2 ^ 64)))
    ?_ ⟨?_, ((((VecOnly.refl s t thr).setG _ _).setG _ _).setG _ _).vecGoesOn _⟩
  · simp [gen, zero, reg, rest, Nat.not_lt.mpr hr, good]
  · rw [State.vecGoesOn_thread, State.setG_thread, State.setG_thread, State.setG_thread, high]

theorem vrand_completes (hg : g < 4) (hvd : vd < 32) (issues : Issues s t thr (0xAA * 2 ^ 56 + vd * 2 ^ 51 + g * 2 ^ 22))
    (owned : (s.gen t g).owner = some thr) (good : s.isBad (.gen t g) = false) : Completes (.vrand t thr) s (fun s' =>
      (∀ l, l < 64 → (s'.v t thr vd).getD l 0 =
        ((philox (s.gen t g).key.toNat (((s.gen t g).ctr.toNat + l / 4) % 2 ^ 128)).getD (l % 4) 0) % 2 ^ 32) ∧
      (s'.gen t g).ctr = (s.gen t g).ctr + 16 ∧ s'.mem = s.mem) := by
  obtain ⟨f, form⟩ : ∃ f : VWord, f = { op := 0xAA, vd, gen := g } := ⟨_, rfl⟩
  have fits : f.Fits := by rw [form]; constructor <;> simp <;> omega
  have word : 0xAA * 2 ^ 56 + vd * 2 ^ 51 + g * 2 ^ 22 = f.word := by
    have no : b2n false = 0 := rfl
    simp only [form, VWord.word, no]
    omega
  rw [word] at issues
  have op : opc f.word = 0xAA := by rw [fits.opc, form]
  have may : s.mayDraw t thr g 16 = true := by simp [State.mayDraw, owned]
  refine completes_vec issues op rfl (exec_vrand ..)
    (s₁ := (s.setGen t g ((s.gen t g).draw 16).2).setV t thr vd ((s.gen t g).draw 16).1) ?_ ⟨fun l small => ?_, ?_, ?_⟩
  · simp only [VUse.ok_word fits, fits.fields]
    rw [← State.withDraw_good (thr := thr) (n := 16) (by decide) good (fun ws s => .done (s.setV t thr vd ws))]
    simp [form, may]
  · rw [State.vecGoesOn_v, State.v_of_thread (v := ((s.gen t g).draw 16).1) l small, Gen.draw_word _ _ _ (by omega)]
    rw [State.setV_thread, smGetD_smSet_same]
  · rw [State.vecGoesOn_gen, State.setV_gen, State.setGen_gen]
    rfl
  · rw [State.vecGoesOn_mem]
    rfl

theorem rep_completes (hn : n < 65536) (issues : Issues s t thr (0xBF * 2 ^ 56 + n)) (pcOk : s.pcOk t ((s.thread t thr).pc + 8) = true)
    (may : repeatable (opc (s.instWord t ((s.thread t thr).pc + 8))) = true) : Completes (.rep t thr) s (fun s' =>
      (s'.tile t).rep = some ⟨thr, n + 1⟩ ∧ s'.thread t thr = { s.thread t thr with pc := (s.thread t thr).pc + 8 } ∧ s'.mem = s.mem) := by
  obtain ⟨op, immediate, zero, count⟩ := repWord_fields hn
  generalize 0xBF * 2 ^ 56 + n = w at issues op immediate zero count
  have range : ¬ (n + 1 = 0 ∨ 65536 < n + 1) := by omega
  have runs : exec (.rep t thr) s = .next (s.settle t thr (taintVec (s.instWord t ((s.thread t thr).pc + 8)))
      (.jump ((s.thread t thr).pc + 8) (s.updTile t (fun x => { x with rep := some ⟨thr, n + 1⟩ })))) := by
    refine (congrArg Host.Outcome.next (s.issueAt_of_issues issues (by rw [op]; rfl) op)).trans ?_
    simp only [immediate, zero, count, range, pcOk, may, Bool.false_eq_true, if_false, Bool.not_true, ne_eq, not_true_eq_false]
  refine ⟨_, runs.trans (congrArg Host.Outcome.next (s.settle_jump issues.clean)), ?_, ?_, ?_⟩
  · rw [State.seqCtrAdd_tile_same, State.tile_updThread_same, State.tile_updTile_same]
    rfl
  · rw [State.seqCtrAdd_thread, State.thread_updThread_same, State.thread, State.tile_updTile_same]
    rfl
  · rw [State.seqCtrAdd_state]
    rfl
end

/-- Settles O17: VRSET and VRGET move a generator to and from registers, VRAND draws sixteen blocks, and REP is recorded in the tile. -/
theorem generatorAndRepeatInstructions : Obligations.GeneratorAndRepeatInstructions := by
  unfold Obligations.GeneratorAndRepeatInstructions
  intro s t thr g r vd n hg hr hvd hn h x
  exact ⟨vrset_completes hg hr, vrget_completes hg hr, vrand_completes hg hvd, rep_completes hn⟩

end Sys2Proof.Machine

namespace Sys2Proof.Machine

/-! ### Vector loads and stores (R184 to R186) -/

/-- The fields of the word of a vector load or store. -/
theorem memoryWord_fields {o r ag m : Nat} (ho : o < 256) (hr : r < 32) (hag : ag < 8) (hm : m ≤ 4) :
    let w := o * 2 ^ 56 + r * 2 ^ 51 + ag * 2 ^ 48 + m * 2 ^ 45
    opc w = o ∧ mReg w = r ∧ mAg w = ag ∧ mMt w = m ∧ bits w 44 0 = 0 := by
  refine ⟨?_, ?_, ?_, ?_, ?_⟩ <;> (simp only [opc, mReg, mAg, mMt, bits]; norm_num; omega)

/-- The thread after a load or store: its generator has stepped, and it goes on at the next instruction (R192). -/
def Thread.stepped (h : Thread) (ag : Nat) : Thread := { h with ag := smUpd h.ag ag {} AddrGen.next, pc := h.pc + 8 }

section
variable {s s₁ : State} {t thr w o r ag : Nat} {c : Instr} {run : Nat → State → Verdict}

/-- The words of a row, stored, are the bytes of a register's lanes. -/
theorem ofWords_lanes (s : State) (t thr r : Nat) : ofWords ((s.v t thr r).map (BitVec.ofNat 32 ·)) = (s.v t thr r).flatMap (leBytes 4 ·) := by
  rw [ofWords, List.flatMap_map]
  refine List.flatMap_congr fun n there => ?_
  obtain ⟨l, small, rfl⟩ := List.getElem_of_mem there
  have bound := s.v_lt t thr r l
  rw [List.getD_eq_getElem _ _ small] at bound
  rw [BitVec.toNat_ofNat, Nat.mod_eq_of_lt bound]

@[simp] theorem State.wr_thread (s : State) (a : Nat) (bs : List Byte) (t k : Nat) : (s.wr a bs).thread t k = s.thread t k := rfl

theorem completes_vecLoad {v : List Nat} (issues : Issues s t thr w) (op : opc w = o) (defined : definedOp o = true)
    (runs : exec c s = .next (s.vecAt t thr o run)) (verdict : run w s = .done ((s.setV t thr r v).stepAg t thr [ag])) :
    Completes c s (fun s' => s'.mem = s.mem ∧ s'.thread t thr =
      { (s.thread t thr).stepped ag with v := smSet (s.thread t thr).v r (v.map (BitVec.ofNat 32 ·)) }) := by
  refine completes_vec issues op defined runs verdict ⟨?_, ?_⟩
  · rw [State.vecGoesOn_mem]
    rfl
  · rw [State.vecGoesOn_thread, State.stepAg_thread, State.setV_thread]
    rfl

/-- A store at a has put its bytes there, left the other bytes and stepped its generator. -/
def StoresVector (c : Instr) (s : State) (t thr ag a : Nat) (bs : List Byte) : Prop := Completes c s (fun s' =>
  s'.thread t thr = (s.thread t thr).stepped ag ∧ s'.rd a bs.length = bs ∧
  ∀ x, (x < a ∨ a + bs.length ≤ x) → memGet s'.mem x = memGet s.mem x)

theorem storesVector_of_done {a : Nat} {bs : List Byte} (wf : Memory.wf s.mem = true) (issues : Issues s t thr w) (op : opc w = o)
    (defined : definedOp o = true) (runs : exec c s = .next (s.vecAt t thr o run)) (verdict : run w s = .done ((s.wr a bs).stepAg t thr [ag])) :
    StoresVector c s t thr ag a bs := by
  have written : ((s.wr a bs).stepAg t thr [ag]).mem = memPutList s.mem a bs := rfl
  refine completes_vec issues op defined runs verdict ⟨?_, ?_, fun x outside => ?_⟩
  · rw [State.vecGoesOn_thread, State.stepAg_thread]
    rfl
  · rw [State.rd, State.vecGoesOn_mem, written, memGetList_memPutList bs _ _ wf]
  · rw [State.vecGoesOn_mem, written, memGet_memPutList_out bs _ _ _ outside]

theorem State.withRow_good {row : Nat} (inside : row < 512) (good : s.badMem (nearAddr t row) 256 = false) (go : List Nat → Verdict) :
    s.withRow t thr row go = go ((s.near t row).map (·.toNat)) := by
  rw [State.withRow, if_neg (Nat.not_le.mpr inside), good]
  rfl

theorem map_ofNat_toNat (ws : List Word) : (ws.map (·.toNat)).map (BitVec.ofNat 32 ·) = ws := by
  rw [List.map_map]
  exact List.map_id'' (fun x => by simp) ws
end

section
variable {s : State} {t thr r ag : Nat} (hr : r < 32) (hag : ag < 8)
include hr hag

theorem vld_completes (issues : Issues s t thr (0x98 * 2 ^ 56 + r * 2 ^ 51 + ag * 2 ^ 48 + 0 * 2 ^ 45))
    (inside : ((s.thread t thr).agen ag).addr < 512) (good : s.badMem (nearAddr t ((s.thread t thr).agen ag).addr) 256 = false) :
    Completes (.vld t thr) s (fun s' => s'.mem = s.mem ∧ s'.thread t thr = { (s.thread t thr).stepped ag with
      v := smSet (s.thread t thr).v r (s.near t ((s.thread t thr).agen ag).addr) }) := by
  obtain ⟨op, fReg, fAg, fMt, rest⟩ := memoryWord_fields (o := 0x98) (by decide) hr hag (Nat.zero_le 4)
  generalize 0x98 * 2 ^ 56 + r * 2 ^ 51 + ag * 2 ^ 48 + 0 * 2 ^ 45 = w at issues op fReg fAg fMt rest
  have encoded : memEnc w false = true := by simp [memEnc, fMt, rest]
  rw [← map_ofNat_toNat (s.near t _)]
  refine completes_vecLoad issues op rfl (exec_vld ..) ?_
  simp only [encoded, fReg, fAg, Bool.not_true, Bool.false_eq_true, if_false]
  exact State.withRow_good inside good _

theorem vst_completes (issues : Issues s t thr (0x99 * 2 ^ 56 + r * 2 ^ 51 + ag * 2 ^ 48 + 0 * 2 ^ 45))
    (inside : ((s.thread t thr).agen ag).addr < 512) (good : s.vgood t thr [r]) (wf : Memory.wf s.mem = true) :
    StoresVector (.vst t thr) s t thr ag (nearAddr t ((s.thread t thr).agen ag).addr) ((s.v t thr r).flatMap (leBytes 4 ·)) := by
  obtain ⟨op, fReg, fAg, fMt, rest⟩ := memoryWord_fields (o := 0x99) (by decide) hr hag (Nat.zero_le 4)
  generalize 0x99 * 2 ^ 56 + r * 2 ^ 51 + ag * 2 ^ 48 + 0 * 2 ^ 45 = w at issues op fReg fAg fMt rest
  have encoded : memEnc w false = true := by simp [memEnc, fMt, rest]
  refine storesVector_of_done wf issues op rfl (exec_vst ..) ?_
  simp only [encoded, fReg, fAg, Bool.not_true, Bool.false_eq_true, if_false, State.nearWr, ofWords_lanes, State.withV_good good]
  exact if_neg (Nat.not_le.mpr inside)

variable {mt : Nat} (hmt : mt ≤ 4) (aligned : ((s.thread t thr).agen ag).addr % mtBytes mt = 0)
  (inside : ((s.thread t thr).agen ag).addr + mtBytes mt ≤ loftBytes)
include hmt aligned inside

theorem vldl_completes (issues : Issues s t thr (0x9A * 2 ^ 56 + r * 2 ^ 51 + ag * 2 ^ 48 + mt * 2 ^ 45))
    (good : s.loftBad t ((s.thread t thr).agen ag).addr (mtBytes mt) = false) :
    Completes (.vldl t thr) s (fun s' => s'.mem = s.mem ∧ s'.thread t thr = { (s.thread t thr).stepped ag with
      v := smSet (s.thread t thr).v r
        ((unpackLanes mt (s.loft t ((s.thread t thr).agen ag).addr (mtBytes mt))).map (BitVec.ofNat 32 ·)) }) := by
  obtain ⟨op, fReg, fAg, fMt, rest⟩ := memoryWord_fields (o := 0x9A) (by decide) hr hag hmt
  generalize 0x9A * 2 ^ 56 + r * 2 ^ 51 + ag * 2 ^ 48 + mt * 2 ^ 45 = w at issues op fReg fAg fMt rest
  have encoded : memEnc w true = true := by simp [memEnc, fMt, rest, hmt]
  have range : mtRange mt ((s.thread t thr).agen ag).addr = true := by simp [mtRange, aligned, inside]
  refine completes_vecLoad issues op rfl (exec_vldl ..) ?_
  simp only [encoded, range, good, fReg, fAg, fMt, Bool.not_true, Bool.false_eq_true, if_false]

theorem vstl_completes (issues : Issues s t thr (0x9B * 2 ^ 56 + r * 2 ^ 51 + ag * 2 ^ 48 + mt * 2 ^ 45))
    (good : s.vgood t thr [r]) (wf : Memory.wf s.mem = true) :
    StoresVector (.vstl t thr) s t thr ag (loftAddr t ((s.thread t thr).agen ag).addr) (packLanes mt (s.v t thr r)) := by
  obtain ⟨op, fReg, fAg, fMt, rest⟩ := memoryWord_fields (o := 0x9B) (by decide) hr hag hmt
  generalize 0x9B * 2 ^ 56 + r * 2 ^ 51 + ag * 2 ^ 48 + mt * 2 ^ 45 = w at issues op fReg fAg fMt rest
  have encoded : memEnc w true = true := by simp [memEnc, fMt, rest, hmt]
  have range : mtRange mt ((s.thread t thr).agen ag).addr = true := by simp [mtRange, aligned, inside]
  refine storesVector_of_done wf issues op rfl (exec_vstl ..) ?_
  simp only [encoded, range, fReg, fAg, fMt, Bool.not_true, Bool.false_eq_true, if_false, State.loftWr, State.withV_good good]
end

/-! ### Address generators (R192, R193) -/

/-- The fields of the word of VAG. -/
theorem vagWord_fields {ag gb gi gc : Nat} (hag : ag < 8) (hb : gb < 32) (hi : gi < 32) (hc : gc < 32) :
    let w := 0xA0 * 2 ^ 56 + ag * 2 ^ 53 + gb * 2 ^ 48 + gi * 2 ^ 43 + gc * 2 ^ 38
    opc w = 0xA0 ∧ bits w 55 53 = ag ∧ bits w 52 48 = gb ∧ bits w 47 43 = gi ∧ bits w 42 38 = gc ∧ bits w 37 0 = 0 := by
  refine ⟨?_, ?_, ?_, ?_, ?_, ?_⟩ <;> (simp only [opc, bits]; norm_num; omega)

/-- The fields of the word of VAGRD. -/
theorem vagrdWord_fields {ag r : Nat} (hag : ag < 8) (hr : r < 32) : let w := 0xA1 * 2 ^ 56 + ag * 2 ^ 53 + r * 2 ^ 48
    opc w = 0xA1 ∧ bits w 55 53 = ag ∧ bits w 52 48 = r ∧ bits w 47 0 = 0 := by
  refine ⟨?_, ?_, ?_, ?_⟩ <;> (simp only [opc, bits]; norm_num; omega)


/-- The words that VAG reads hold a generator's fields, each in its bits (R193). -/
theorem AddrGen.of_words {g : AddrGen} {b i c : DWord} (hb : b = BitVec.ofNat 64 (g.base.toNat + g.stride.toNat * 2 ^ 32))
    (hi : i = BitVec.ofNat 64 (g.idx.toNat + g.inc.toNat * 2 ^ 32))
    (hc : c = BitVec.ofNat 64 (b2n g.mode + g.n.toNat * 2 ^ 8 + g.shift.toNat * 2 ^ 16 + g.fw.toNat * 2 ^ 24)) :
    (bits b.toNat 63 53 = 0 ∧ bits b.toNat 31 21 = 0 ∧ bits i.toNat 63 56 = 0 ∧ bits i.toNat 31 24 = 0 ∧ bits c.toNat 63 29 = 0 ∧
      bits c.toNat 23 21 = 0 ∧ bits c.toNat 15 13 = 0 ∧ bits c.toNat 7 1 = 0) ∧
    (bits c.toNat 12 8 = g.n.toNat ∧ bits c.toNat 20 16 = g.shift.toNat ∧ bits c.toNat 28 24 = g.fw.toNat) ∧
    ({ base := BitVec.ofNat 21 b.toNat, stride := BitVec.ofNat 21 (b.toNat / 2 ^ 32), idx := BitVec.ofNat 24 i.toNat,
       inc := BitVec.ofNat 24 (i.toNat / 2 ^ 32), mode := bitN c.toNat 0, n := BitVec.ofNat 5 g.n.toNat,
       shift := BitVec.ofNat 5 g.shift.toNat, fw := BitVec.ofNat 5 g.fw.toNat } : AddrGen) = g := by
  obtain ⟨base, stride, idx, inc, mode, n, shift, fw⟩ := g
  dsimp only at hb hi hc ⊢
  have := base.isLt; have := stride.isLt; have := idx.isLt; have := inc.isLt; have := n.isLt; have := shift.isLt; have := fw.isLt
  have := b2n_le mode
  have hb : b.toNat = base.toNat + stride.toNat * 2 ^ 32 := by rw [hb, BitVec.toNat_ofNat, Nat.mod_eq_of_lt (by omega)]
  have hi : i.toNat = idx.toNat + inc.toNat * 2 ^ 32 := by rw [hi, BitVec.toNat_ofNat, Nat.mod_eq_of_lt (by omega)]
  have hc : c.toNat = b2n mode + n.toNat * 2 ^ 8 + shift.toNat * 2 ^ 16 + fw.toNat * 2 ^ 24 := by
    rw [hc, BitVec.toNat_ofNat, Nat.mod_eq_of_lt (by omega)]
  refine ⟨?_, ?_, ?_⟩
  · refine ⟨?_, ?_, ?_, ?_, ?_, ?_, ?_, ?_⟩ <;> (simp only [bits, hb, hi, hc]; omega)
  · refine ⟨?_, ?_, ?_⟩ <;> (simp only [bits, hc]; omega)
  · rw [AddrGen.mk.injEq]
    refine ⟨?_, ?_, ?_, ?_, bitN_of_field (by omega), ?_, ?_, ?_⟩ <;> (refine BitVec.eq_of_toNat_eq ?_; simp only [BitVec.toNat_ofNat, hb, hi]; omega)

section
variable {s : State} {t thr ag r : Nat}

theorem vag_completes {gb gi gc : Nat} {g : AddrGen} (hag : ag < 8) (hb : gb < 32) (hi : gi < 32) (hc : gc < 32)
    (issues : Issues s t thr (0xA0 * 2 ^ 56 + ag * 2 ^ 53 + gb * 2 ^ 48 + gi * 2 ^ 43 + gc * 2 ^ 38))
    (n : 1 ≤ g.n.toNat ∧ g.n.toNat ≤ 24) (shift : g.shift.toNat ≤ 23) (fw : 1 ≤ g.fw.toNat ∧ g.fw.toNat ≤ 24)
    (base : s.g t thr gb = BitVec.ofNat 64 (g.base.toNat + g.stride.toNat * 2 ^ 32))
    (idx : s.g t thr gi = BitVec.ofNat 64 (g.idx.toNat + g.inc.toNat * 2 ^ 32))
    (ctl : s.g t thr gc = BitVec.ofNat 64 (b2n g.mode + g.n.toNat * 2 ^ 8 + g.shift.toNat * 2 ^ 16 + g.fw.toNat * 2 ^ 24)) :
    Completes (.vag t thr) s (fun s' => s'.thread t thr =
      { s.thread t thr with ag := smSet (s.thread t thr).ag ag g, pc := (s.thread t thr).pc + 8 } ∧ VecOnly s s' t thr id) := by
  obtain ⟨op, fAg, fB, fI, fC, rest⟩ := vagWord_fields hag hb hi hc
  generalize 0xA0 * 2 ^ 56 + ag * 2 ^ 53 + gb * 2 ^ 48 + gi * 2 ^ 43 + gc * 2 ^ 38 = w at issues op fAg fB fI fC rest
  obtain ⟨⟨b63, b31, i63, i31, c63, c23, c15, c7⟩, ⟨cn, cs, cf⟩, made⟩ := AddrGen.of_words base idx ctl
  refine completes_vec issues op rfl (exec_vag ..) (s₁ := s.updThread t thr (fun h => { h with ag := smSet h.ag ag g })) ?_
    ⟨?_, ((VecOnly.refl s t thr).updThread _).vecGoesOn _⟩
  · have range : ¬ (g.n.toNat = 0 ∨ 24 < g.n.toNat ∨ 23 < g.shift.toNat ∨ g.fw.toNat = 0 ∨ 24 < g.fw.toNat) := by omega
    simp only [fAg, fB, fI, fC, rest, b63, b31, i63, i31, c63, c23, c15, c7, cn, cs, cf, made, range, ne_eq, not_true_eq_false, or_self, if_false]
  · rw [State.vecGoesOn_thread, State.thread_updThread_same]

theorem vagrd_completes (hag : ag < 8) (hr : r < 32) (issues : Issues s t thr (0xA1 * 2 ^ 56 + ag * 2 ^ 53 + r * 2 ^ 48)) :
    Completes (.vagrd t thr) s (fun s' =>
      s'.thread t thr = (s.thread t thr).wrote r (((s.thread t thr).agen ag).idx.setWidth 64) ∧ VecOnly s s' t thr id) := by
  obtain ⟨op, fAg, fR, rest⟩ := vagrdWord_fields hag hr
  generalize 0xA1 * 2 ^ 56 + ag * 2 ^ 53 + r * 2 ^ 48 = w at issues op fAg fR rest
  refine completes_vec issues op rfl (exec_vagrd ..) (s₁ := s.setG t thr r (((s.thread t thr).agen ag).idx.setWidth 64)) ?_
    ⟨?_, ((VecOnly.refl s t thr).setG _ _).vecGoesOn _⟩
  · simp only [fAg, fR, rest, ne_eq, not_true_eq_false, if_false]
  · rw [State.vecGoesOn_thread, State.setG_thread]
    rfl
end

/-- Settles O16: a load writes a register and a store writes memory, and both step their generator. -/
theorem vectorMemoryMovesElements : Obligations.VectorMemoryMovesElements := by
  unfold Obligations.VectorMemoryMovesElements
  intro s t thr r ag mt hr hag hmt h a stepped word stores
  exact ⟨vld_completes hr hag, vst_completes hr hag,
    fun issues aligned inside => vldl_completes hr hag hmt aligned inside issues,
    fun issues aligned inside => vstl_completes hr hag hmt aligned inside issues,
    fun gb gi gc hb hi hc g issues n1 n24 s23 f1 f24 => vag_completes hag hb hi hc issues ⟨n1, n24⟩ s23 ⟨f1, f24⟩, vagrd_completes hag hr⟩

end Sys2Proof.Machine

namespace Sys2Proof.Machine

/-! ### Floating-point lanes (R169, R173, R176, R199) -/

section
variable (s : State) (t thr g : Nat)

/-- Raising flags and stepping address generators leave the generators. -/
@[simp] theorem State.flagsOr_gen (flags : Flags) : (s.flagsOr t flags).gen t g = s.gen t g := by
  rw [State.flagsOr, State.gen, State.tile_updTile_same]
  rfl

@[simp] theorem State.stepAg_gen (ks : List Nat) : (s.stepAg t thr ks).gen t g = s.gen t g := by
  rw [State.stepAg, State.gen, State.tile_updThread_same]
  rfl
end

/-- The word's operands and destination are registers, and its types are floating-point: what O14's form fixes. -/
structure VWord.Floats (f : VWord) : Prop where
  nr : f.nr = false
  nw : f.nw = false
  agr : f.agr = 0
  agw : f.agw = 0
  sa : f.sa = false
  sb : f.sb = false
  sat : f.sat = false
  fn : f.fn = 0
  ts : f.ts ≤ 1
  td : f.td ≤ 1

section
variable {f : VWord} (fits : f.Fits) (floats : f.Floats)
include fits floats

/-- The checks of a floating-point instruction pass when its rounding mode is defined and a generator is named for mode 4 alone. -/
theorem arithUse_float {fma : Bool} (rnd : f.rnd ≤ 4) (gen : f.rnd = 4 ∨ f.gen = 0) (vc : fma = true ∨ f.vc = 0) :
    (arithUse f.word false fma).ok f.word = true := by
  obtain ⟨nr, nw, agr, agw, sa, sb, sat, fn, ts, td⟩ := floats
  have lacks : (fma || f.vc == 0) = true := by rcases vc with vc | vc <;> simp [vc]
  have draws : (f.rnd == SR || f.gen == 0) = true := by rcases gen with gen | gen <;> simp [gen, SR]
  have float : isFlt f.ts = true := decide_eq_true (by omega)
  simp [VUse.ok_word fits, arithUse, fits.fields, float, lacks, draws, nr, nw, agr, agw, sa, sb, sat, fn, rnd]

theorem floatTypes : addTypes f.word = true ∧ (f.ts = 0 → mulTypes f.word = true) := by
  have hts := floats.ts
  have htd := floats.td
  have float {ty : Nat} (small : ty ≤ 1) : isFlt ty = true := decide_eq_true (by omega)
  exact ⟨by simp [addTypes, fits.fields, float hts, float htd], fun half => by simp [mulTypes, fits.fields, half, float htd]⟩

/-- A floating-point lane is the value of its operands' bits. -/
theorem arithLane_float (ff : Nat → Nat → Nat → Nat → Nat → Nat → Nat × Flags) (fi : Int → Int → Int → Int) (a b c rnd : Nat) :
    arithLane f.word ff fi a b c rnd = ff (fltP f.ts) (laneBits f.ts a) (laneBits f.ts b) (laneBits f.td c) (fltP f.td) rnd := by
  have float : isFlt f.ts = true := decide_eq_true (by have := floats.ts; omega)
  simp only [arithLane, fits.fields, float, if_true]

/-- A stochastic rounding of 64 lanes takes the words of eight blocks (R199). -/
theorem eightBlocks (rnd : f.rnd = 4) : (if isFlt (vTs f.word) then srBlocks f.word else 0) = 8 := by
  simp [fits.fields, srBlocks, rnd, SR, isFlt, Nat.lt_succ_of_le floats.ts]

variable {s : State} {t thr o : Nat} {c : Instr}

/-- An arithmetic instruction of floating-point lanes that draws no words gives each lane its rounded value. -/
theorem writesLanes_float {fma : Bool} {types : Nat → Bool} {ff : Nat → Nat → Nat → Nat → Nat → Nat → Nat → Nat × Flags}
    {fi : Int → Int → Int → Int} (issues : Issues s t thr f.word) (rnd : f.rnd ≤ 3) (gen : f.gen = 0)
    (good : s.vgood t thr (f.va :: ([f.vb] ++ (if fma then [f.vc] else [])))) (op : f.op = o) (defined : definedOp o = true)
    (runs : exec c s = .next (s.vecAt t thr o (fun w s => if !((arithUse w false fma).ok w && types w) then illegal
      else s.elementwise t thr w true fma (if isFlt (vTs w) then srBlocks w else 0) (arithLane w (ff (vRnd w)) fi))))
    (vc : fma = true ∨ f.vc = 0) (typed : types f.word = true) :
    let r := fun l => ff f.rnd (fltP f.ts) (laneBits f.ts ((s.v t thr f.va).getD l 0)) (laneBits f.ts ((s.v t thr f.vb).getD l 0))
      (laneBits f.td ((if fma then s.v t thr f.vc else []).getD l 0)) (fltP f.td) 0
    WritesLanes c s t thr f.vd (fun l => BitVec.ofNat 32 (r l).1) ((List.range 64).foldl (fun g l => g ||| (r l).2) 0) := by
  intro r
  have noDraw : srBlocks f.word = 0 := if_neg (by rw [fits.fields.2.2.2.2.1, SR]; omega)
  refine writesLanes_elementwise (useB := true) (fn := arithLane f.word (ff f.rnd) fi) fits issues op defined runs floats.nr floats.nw
    good ?_ r fun l _ => arithLane_float fits floats ..
  simp only [arithUse_float fits floats (by omega) (.inr gen) vc, typed, noDraw, fits.fields, ite_self, Bool.and_self, Bool.not_true,
    Bool.false_eq_true, if_false]
end

section
variable {s : State} {t thr : Nat} {f : VWord} (fits : f.Fits) (floats : f.Floats) (issues : Issues s t thr f.word)
  (op : f.op = 0x80) (rnd : f.rnd = 4) (vc : f.vc = 0)
include fits floats issues op rnd vc

/-- VADD under stochastic rounding draws from a generator of its thread. -/
theorem vadd_stochastic (good : s.vgood t thr [f.va, f.vb]) (parity : s.isBad (.gen t f.gen) = false)
    (owned : (s.gen t f.gen).owner = some thr) : Completes (.vadd t thr) s (fun s' =>
      (s'.gen t f.gen).ctr = (s.gen t f.gen).ctr + 8 ∧ (s'.gen t f.gen).key = (s.gen t f.gen).key ∧
      ∀ l, l < 64 → (s'.v t thr f.vd).getD l 0 = (wAdd (fltP f.ts) (laneBits f.ts ((s.v t thr f.va).getD l 0)) (fltP f.ts)
        (laneBits f.ts ((s.v t thr f.vb).getD l 0)) (fltP f.td) 4 (srBits ((s.gen t f.gen).draw 8).1 0 l)).1 % 2 ^ 32) := by
  obtain ⟨fVd, fVa, fVb, -, fRnd, -, -, fGen, -⟩ := fits.fields
  obtain ⟨ok, add⟩ := And.intro (arithUse_float fits floats (fma := false) (by omega) (.inl rnd) (.inr vc)) (floatTypes fits floats).1
  generalize draw : (s.gen t f.gen).draw 8 = drawn
  have may : s.mayDraw t thr (vGen f.word) 8 = true := by simp [State.mayDraw, fGen, owned]
  let r := mapLanes (arithLane f.word (fun p a b _ q r => wAdd p a p b q (vRnd f.word) r) (fun a b _ => a + b))
    (s.v t thr f.va) (s.v t thr f.vb) [] drawn.1
  have clean : ((s.setGen t f.gen drawn.2).thread t thr).taint = [] := by rw [State.setGen_thread, issues.clean]
  refine completes_vec issues (fits.opc.trans op) rfl (exec_vadd ..)
    (s₁ := (((s.setGen t f.gen drawn.2).setV t thr f.vd r.1).flagsOr t r.2).stepAg t thr []) ?_ ⟨?_, ?_, fun l small => ?_⟩
  · simp only [ok, add, eightBlocks fits floats rnd, Bool.and_self, Bool.not_true, Bool.false_eq_true, if_false]
    rw [State.elementwise_registers (useB := true) (useC := false) _ (fits.flags.2.2.2.1.trans floats.nr) (fits.flags.2.2.2.2.trans floats.nw) may
      (by rwa [fVa, fVb]), fGen, State.withDraw_good (by decide) parity, draw]
    simp only [fVd, fVa, fVb, if_true, Bool.false_eq_true, if_false, State.setV_raise clean]
    rfl
  · rw [State.vecGoesOn_gen, State.stepAg_gen, State.flagsOr_gen, State.setV_gen, State.setGen_gen, ← draw]
    rfl
  · rw [State.vecGoesOn_gen, State.stepAg_gen, State.flagsOr_gen, State.setV_gen, State.setGen_gen, ← draw]
    rfl
  · rw [State.vecGoesOn_v, State.v_of_thread (v := r.1) l small, mapLanes_fst]
    · simp [small, arithLane_float fits floats, fRnd, rnd]
    · rw [State.stepAg_thread, State.flagsOr_thread, State.setV_thread, smGetD_smSet_same]

/-- VADD under stochastic rounding with a generator of another thread is illegal. -/
theorem vadd_stochastic_illegal (inTask : (s.tile t).firmware = false) (other : (s.gen t f.gen).owner ≠ some thr) :
    Completes (.vadd t thr) s (fun s' => s'.Ends t 2) := by
  obtain ⟨-, -, -, -, -, -, -, fGen, -⟩ := fits.fields
  obtain ⟨ok, add⟩ := And.intro (arithUse_float fits floats (fma := false) (by omega) (.inl rnd) (.inr vc)) (floatTypes fits floats).1
  have denied : s.mayDraw t thr (vGen f.word) 8 = false := by simp [State.mayDraw, fGen, other]
  refine completes_vecFault issues (fits.opc.trans op) rfl (exec_vadd ..) inTask (by decide) (unit := 0) (addr := 0) ?_
  simp only [ok, add, eightBlocks fits floats rnd, Bool.and_self, Bool.not_true, Bool.false_eq_true, if_false]
  simp only [State.elementwise, denied, Bool.not_false, if_true]
  rfl
end

/-- Settles O14: the checks of each form pass, and its lane function is the arithmetic's. -/
theorem floatLanesRoundOnce : Obligations.FloatLanesRoundOnce := by
  unfold Obligations.FloatLanesRoundOnce
  intro s t thr f fits issues nr nw agr agw sa sb sat fn ts td good a b c p q gives
  have floats : f.Floats := ⟨nr, nw, agr, agw, sa, sb, sat, fn, ts, td⟩
  obtain ⟨addT, mulT⟩ := floatTypes fits floats
  refine ⟨fun rnd gen => ?exact, fun rnd op vc parity =>
    ⟨vadd_stochastic fits floats issues op rnd vc good parity, fun other inTask => vadd_stochastic_illegal fits floats issues op rnd vc inTask other⟩⟩
  have float {fma c o types ff fi} := @writesLanes_float f fits floats s t thr o c fma types ff fi issues rnd gen
  exact ⟨fun op vc => float (fma := false) (ff := fun m p a b _ q r => wAdd p a p b q m r) good op rfl (exec_vadd ..) (.inr vc) addT,
    fun op vc => float (fma := false) (ff := fun m p a b _ q r => wSub p a p b q m r) good op rfl (exec_vsub ..) (.inr vc) addT,
    fun half op vc => float (fma := false) (ff := fun m p a b _ q r => wMul p a p b q m r) good op rfl (exec_vmul ..) (.inr vc) (mulT half),
    fun half op goodC => float (fma := true) (ff := fun m p a b c q r => wFma p a p b q c q m r) (List.forall_mem_append.mpr ⟨good, goodC⟩)
      op rfl (exec_vfma ..) (.inl rfl) (mulT half)⟩

end Sys2Proof.Machine

namespace Sys2Proof.Machine

/-! ### Rows of near memory (R176) -/

theorem ofLe_leBytes : ∀ n v : Nat, ofLe (leBytes n v) = v % 256 ^ n
  | 0, v => (Nat.mod_one v).symm
  | n + 1, v => by
    rw [leBytes, ofLe, ofLe_leBytes n, BitVec.toNat_ofNat, pow_succ' 256, Nat.mod_mul]

/-- The words of a row are read back from its bytes. -/
theorem toWords_ofWords : ∀ ws : List Word, toWords ws.length (ofWords ws) = ws
  | [] => rfl
  | w :: ws => by
    have bytes : ofWords (w :: ws) = leBytes 4 w.toNat ++ ofWords ws := rfl
    have first : field (leBytes 4 w.toNat ++ ofWords ws) 0 4 = w.toNat := by
      have four : (leBytes 4 w.toNat ++ ofWords ws).take 4 = leBytes 4 w.toNat := List.take_left' (leBytes_length 4 _)
      rw [field, slice, List.drop_zero, four, leBytes_length, Nat.sub_self, List.replicate_zero, List.append_nil, ofLe_leBytes]
      exact Nat.mod_eq_of_lt w.isLt
    rw [List.length_cons, toWords, bytes, first, List.drop_left' (leBytes_length 4 _), toWords_ofWords ws, BitVec.ofNat_toNat, BitVec.setWidth_eq]

theorem ofWords_length (ws : List Word) : (ofWords ws).length = 4 * ws.length := by
  rw [ofWords, List.length_flatMap]
  simp [Nat.mul_comm]

/-- Stepping address generators leaves memory. -/
@[simp] theorem State.stepAg_mem (s : State) (t thr : Nat) (ks : List Nat) : (s.stepAg t thr ks).mem = s.mem := rfl

@[simp] theorem State.stepAg_near (s : State) (t thr row : Nat) (ks : List Nat) : (s.stepAg t thr ks).near t row = s.near t row := rfl

/-- A row reads what was written to it, and the other bytes stay. -/
theorem State.nearWr_spec {s : State} {t row : Nat} {ws : Lanes} (wf : Memory.wf s.mem = true) (full : ws.length = 64) :
    (s.nearWr t row ws).near t row = ws ∧
    ∀ x, (x < nearAddr t row ∨ nearAddr t row + 256 ≤ x) → memGet (s.nearWr t row ws).mem x = memGet s.mem x := by
  obtain ⟨-, holds, outside⟩ := s.wr_spec (nearAddr t row) (ofWords ws)
  have size : (ofWords ws).length = 256 := by rw [ofWords_length, full]
  obtain ⟨-, bytes⟩ := holds wf
  rw [size] at bytes outside
  refine ⟨?_, outside⟩
  rw [State.near, State.nearWr, bytes, ← full, toWords_ofWords]

/-- An integer lane function of a register and a row. -/
theorem mapLanes_words {fn : LaneFn} (s : State) (t thr r : Nat) (ws : List Word) (g : Word → Word → Word → Word)
    (lane : ∀ a b c : Word, fn a.toNat b.toNat c.toNat 0 = ((g a b c).toNat, 0)) :
    mapLanes fn (s.v t thr r) (ws.map (·.toNat)) [] [] = ((List.range 64).map (fun l => (g (s.lane t thr r l) (ws.getD l 0) 0).toNat), 0) := by
  have at_ (l : Nat) : fn ((s.v t thr r).getD l 0) ((ws.map (·.toNat)).getD l 0) (([] : List Nat).getD l 0) (srBits [] 0 l) =
      ((g (s.lane t thr r l) (ws.getD l 0) 0).toNat, 0) := by
    rw [← lane, State.lane_toNat, srBits_nil, ← List.getD_map (f := BitVec.toNat)]
    rfl
  have none_raised : (List.range 64).foldl (fun g _ => g ||| 0) (0 : Flags) = 0 := by decide
  refine Prod.ext ?_ ?_
  · simp only [mapLanes_fst, at_]
  · simp only [mapLanes_snd, at_, none_raised]

/-- A register of 64 words, read lane by lane. -/
theorem State.v_of_words {s : State} {t thr r : Nat} {ws : List Word} (full : ws.length = 64) (written : smGetD (s.thread t thr).v r [] = ws) :
    s.v t thr r = ws.map (·.toNat) := by
  refine List.ext_getElem (by simp [full]) fun l inside _ => ?_
  have small : l < 64 := by simpa using inside
  rw [← List.getD_eq_getElem _ 0 inside, s.v_getD t thr r small, written, List.getD_eq_getElem _ _ (by omega), List.getElem_map]

section
variable {s : State} {t thr : Nat}

/-- An instruction of two operands whose second is a row, and whose result goes to a row too. -/
theorem State.elementwise_rows {w : Nat} {useB : Bool} (fn : LaneFn) (nr : vNr w = true) (nw : vNw w = true)
    (insideR : ((s.thread t thr).agen (vAgr w)).addr < 512) (insideW : ((s.thread t thr).agen (vAgw w)).addr < 512)
    (good : s.vgood t thr [vVa w]) (parity : s.badMem (nearAddr t ((s.thread t thr).agen (vAgr w)).addr) 256 = false) :
    s.elementwise t thr w useB false 0 fn =
      let r := mapLanes fn (s.v t thr (vVa w)) ((s.near t ((s.thread t thr).agen (vAgr w)).addr).map (·.toNat)) [] []
      .done ((((s.setV t thr (vVd w) r.1).raise t thr r.2).nearWr t ((s.thread t thr).agen (vAgw w)).addr (r.1.map (BitVec.ofNat 32 ·))).stepAg
        t thr [vAgr w, vAgw w]) := by
  have may : s.mayDraw t thr (vGen w) 0 = true := rfl
  unfold State.elementwise
  simp only [nr, nw, may, decide_eq_false (Nat.not_le.mpr insideR), decide_eq_false (Nat.not_le.mpr insideW), Bool.not_true, Bool.and_false,
    Bool.false_eq_true, if_false, if_true, List.append_nil, State.withV_good good, State.withRow_good insideR parity, State.withDraw_none]
  rfl
end

section
variable {s : State} {t thr : Nat} {f : VWord} (fits : f.Fits)
  (form : f = { op := 0x80, vd := f.vd, va := f.va, ts := 5, td := 5, nr := true, agr := f.agr, nw := true, agw := f.agw })
include fits form

/-- The checks of the form pass (R175, R176). -/
theorem vadd_rows_checks : f.op = 0x80 ∧ f.ts = 5 ∧ f.td = 5 ∧ f.sat = false ∧ (arithUse f.word false false).ok f.word = true ∧ addTypes f.word = true ∧
    vNr f.word = true ∧ vNw f.word = true := by
  obtain ⟨-, -, -, nr, nw⟩ := fits.flags
  have ts : f.ts = 5 := congrArg VWord.ts form
  have td : f.td = 5 := congrArg VWord.td form
  refine ⟨congrArg VWord.op form, ts, td, congrArg VWord.sat form, ?_, by simp [addTypes, fits.fields, isFlt, isInt, ts, td], nr.trans (congrArg VWord.nr form),
    nw.trans (congrArg VWord.nw form)⟩
  rw [VUse.ok_word fits]
  generalize word : f.word = w at nr nw
  rw [form]
  simp [arithUse, ← word, fits.fields, isFlt, isInt, ts]

theorem vadd_rows (issues : Issues s t thr f.word) (insideR : ((s.thread t thr).agen f.agr).addr < 512) (insideW : ((s.thread t thr).agen f.agw).addr < 512)
    (good : s.vgood t thr [f.va]) (parity : s.badMem (nearAddr t ((s.thread t thr).agen f.agr).addr) 256 = false) (wf : Memory.wf s.mem = true) :
    let rowR := ((s.thread t thr).agen f.agr).addr
    let rowW := ((s.thread t thr).agen f.agw).addr
    Completes (.vadd t thr) s (fun s' =>
      let sum := fun l => s.lane t thr f.va l + (s.near t rowR).getD l 0
      s'.v t thr f.vd = (List.range 64).map (fun l => (sum l).toNat) ∧ s'.near t rowW = (List.range 64).map sum ∧
      (∀ x, (x < nearAddr t rowW ∨ nearAddr t rowW + 256 ≤ x) → memGet s'.mem x = memGet s.mem x) ∧
      (f.agr ≠ f.agw → (s'.thread t thr).agen f.agr = ((s.thread t thr).agen f.agr).next ∧
        (s'.thread t thr).agen f.agw = ((s.thread t thr).agen f.agw).next)) := by
  obtain ⟨op, ts, td, sat, ok, add, nr, nw⟩ := vadd_rows_checks fits form
  obtain ⟨fVd, fVa, -, -, -, -, -, -, fAgr, fAgw, -⟩ := fits.fields
  have noDraw : (if isFlt (vTs f.word) then srBlocks f.word else 0) = 0 := by simp [fits.fields, ts, isFlt]
  intro rowR rowW
  let sum := fun l => s.lane t thr f.va l + (s.near t rowR).getD l 0
  have lanes : mapLanes (arithLane f.word (fun p a b _ q r => wAdd p a p b q (vRnd f.word) r) (fun a b _ => a + b)) (s.v t thr f.va)
      ((s.near t rowR).map (·.toNat)) [] [] = ((List.range 64).map (fun l => (sum l).toNat), 0) :=
    mapLanes_words s t thr f.va (s.near t rowR) (fun a b _ => a + b) fun a b c => by
      rw [arithLane_word fits ts td sat]
      simp [BitVec.ofInt_add]
  have words : ((List.range 64).map (fun l => (sum l).toNat)).map (BitVec.ofNat 32 ·) = (List.range 64).map sum := by
    rw [← map_ofNat_toNat ((List.range 64).map sum), List.map_map (f := sum)]
    rfl
  obtain ⟨row, outside⟩ := State.nearWr_spec (s := (s.setV t thr f.vd ((List.range 64).map (fun l => (sum l).toNat))).flagsOr t 0) (t := t)
    (row := rowW) (ws := (List.range 64).map sum) wf (by simp)
  refine completes_vec issues (fits.opc.trans op) rfl (exec_vadd ..)
    (s₁ := ((((s.setV t thr f.vd ((List.range 64).map (fun l => (sum l).toNat))).flagsOr t 0).nearWr t rowW ((List.range 64).map sum)).stepAg
      t thr [f.agr, f.agw])) ?_ ⟨?_, ?_, ?_, fun apart => ?_⟩
  · simp only [ok, add, noDraw, Bool.and_self, Bool.not_true, Bool.false_eq_true, if_false]
    rw [State.elementwise_rows _ nr nw (by rwa [fAgr]) (by rwa [fAgw]) (by rwa [fVa]) (by rwa [fAgr]), fVd, fVa, fAgr, fAgw, lanes]
    simp only [words, State.setV_raise issues.clean]
    rfl
  · rw [State.vecGoesOn_v, State.v_of_words (ws := (List.range 64).map sum) (by simp), List.map_map]
    · rfl
    · rw [State.stepAg_thread, State.nearWr, State.wr_thread, State.flagsOr_thread, State.setV_thread, smGetD_smSet_same, words]
  · rw [State.vecGoesOn_near, State.stepAg_near, row]
  · rw [State.vecGoesOn_mem, State.stepAg_mem]
    exact outside
  · rw [State.vecGoesOn_thread, State.stepAg_thread, List.Nodup.dedup (by simp [apart])]
    rw [State.nearWr, State.wr_thread, State.flagsOr_thread, State.setV_thread, List.foldl_cons, List.foldl_cons, List.foldl_nil]
    constructor
    · exact (smGetD_smUpd_ne _ _ _ _ _ apart).trans (smGetD_smUpd_same ..)
    · exact (smGetD_smUpd_same ..).trans (congrArg AddrGen.next (smGetD_smUpd_ne _ _ _ _ _ apart.symm))


theorem vadd_beyond_rows (issues : Issues s t thr f.word) (beyond : 512 ≤ ((s.thread t thr).agen f.agr).addr) (inTask : (s.tile t).firmware = false) :
    Completes (.vadd t thr) s (fun s' => s'.Ends t 4) := by
  obtain ⟨op, ts, -, -, ok, add, nr, -⟩ := vadd_rows_checks fits form
  obtain ⟨-, -, -, -, -, -, -, -, fAgr, -⟩ := fits.fields
  have noDraw : (if isFlt (vTs f.word) then srBlocks f.word else 0) = 0 := by simp [fits.fields, ts, isFlt]
  have may : s.mayDraw t thr (vGen f.word) 0 = true := rfl
  refine completes_vecFault issues (fits.opc.trans op) rfl (exec_vadd ..) inTask (by decide) (unit := 2)
    (addr := BitVec.ofNat 64 ((s.thread t thr).agen f.agr).addr) ?_
  simp only [ok, add, noDraw, Bool.and_self, Bool.not_true, Bool.false_eq_true, if_false]
  simp only [State.elementwise, may, nr, fAgr, decide_eq_true beyond, Bool.not_true, Bool.false_eq_true, if_false, Bool.and_self, if_true]
  rfl
end

/-- Settles O15: a row stands in for vb and takes the result, both generators step, and a row beyond the 512 is a fault. -/
theorem nearMemoryOperandsAndResults : Obligations.NearMemoryOperandsAndResults := by
  unfold Obligations.NearMemoryOperandsAndResults
  intro s t thr f fits issues form h rowR rowW
  exact ⟨vadd_rows fits form issues, vadd_beyond_rows fits form issues⟩

end Sys2Proof.Machine

namespace Sys2Proof.Machine

/-! ### Sampling (R203, R204) -/

section
variable {f : VWord}

/-- Below their fields the words of VSRED, VTOPP and VTOPS are 0. -/
theorem vsredWord_rest (form : f = { op := 0xB1, vd := f.vd, va := f.va }) : bits f.word 45 0 = 0 := by
  rw [form]
  simp only [bits, VWord.word, b2n, Bool.false_eq_true, if_false]; norm_num; omega

theorem vtoppWord_rest (form : f = { op := 0xB3, vd := f.vd }) : bits f.word 50 0 = 0 := by
  rw [form]
  simp only [bits, VWord.word, b2n, Bool.false_eq_true, if_false]; norm_num

theorem vtopsWord_rest (form : f = { op := 0xB4, vd := f.vd, va := f.va, fn := 1 }) : bits f.word 45 24 = 0 ∧ bits f.word 21 14 = 0 := by
  rw [form]
  simp only [bits, VWord.word, b2n, Bool.false_eq_true, if_false]
  norm_num
  omega
end

/-- Whether a logit beats the best one kept in its lane: by its value, and at equal values by the smaller index (R203). -/
def sampleWins (z idx bz bi : Nat) : Bool := decide (ord32 bz < ord32 z) || (ord32 z == ord32 bz && decide (idx < bi))

/-- The best value of a lane and its index, after a logit. -/
def sampleKept (z idx bz bi : Nat) : Nat × Nat := if sampleWins z idx bz bi then (z, idx) else (bz, bi)

theorem sampleKept_fst (z idx bz bi : Nat) : (sampleKept z idx bz bi).1 = if sampleWins z idx bz bi then z else bz := apply_ite Prod.fst ..

theorem sampleKept_snd (z idx bz bi : Nat) : (sampleKept z idx bz bi).2 = if sampleWins z idx bz bi then idx else bi := apply_ite Prod.snd ..

/-! ### The top-k unit's list (R205) -/

/-- Keys descend. -/
def KeysDescend (es : List (Nat × Nat)) : Prop := es.Pairwise (fun a b => topKey b.1 b.2 ≤ topKey a.1 a.2)

theorem topInsert_perm (e : Nat × Nat) : ∀ es, (topInsert e es).Perm (e :: es)
  | [] => .refl _
  | x :: xs => by
    rw [topInsert]
    split
    · exact .refl _
    · exact ((topInsert_perm e xs).cons x).trans (.swap e x xs)

theorem topInsert_descends (e : Nat × Nat) : ∀ es, KeysDescend es → KeysDescend (topInsert e es)
  | [], _ => List.pairwise_singleton ..
  | x :: xs, sorted => by
    obtain ⟨first, rest⟩ := List.pairwise_cons.mp sorted
    rw [topInsert]
    split
    case isTrue above =>
      refine List.pairwise_cons.mpr ⟨fun y there => ?_, sorted⟩
      rcases List.mem_cons.mp there with rfl | there
      · exact above.le
      · exact (first y there).trans above.le
    case isFalse below =>
      refine List.pairwise_cons.mpr ⟨fun y there => ?_, topInsert_descends e xs rest⟩
      rcases List.mem_cons.mp ((topInsert_perm e xs).mem_iff.mp there) with rfl | there
      · exact Nat.not_lt.mp below
      · exact first y there

/-- The n best of a list and of the entries that go in. -/
def topBest (n : Nat) (es entries : List (Nat × Nat)) : List (Nat × Nat) := entries.foldl (fun es e => (topInsert e es).take n) es

theorem topBest_spec (n : Nat) : ∀ (entries es : List (Nat × Nat)), KeysDescend es → es.length ≤ n →
    KeysDescend (topBest n es entries) ∧ (topBest n es entries).length = min n (es.length + entries.length) ∧
    ∀ e ∈ topBest n es entries, e ∈ es ∨ e ∈ entries
  | [], es, sorted, short => ⟨sorted, (Nat.min_eq_right short).symm, fun _ there => .inl there⟩
  | x :: xs, es, sorted, short => by
    have perm := topInsert_perm x es
    have size : ((topInsert x es).take n).length = min n (es.length + 1) := by rw [List.length_take, perm.length_eq, List.length_cons]
    obtain ⟨sorted', length, from_⟩ := topBest_spec n xs ((topInsert x es).take n)
      (List.Pairwise.sublist (List.take_sublist ..) (topInsert_descends x es sorted)) (by omega)
    refine ⟨sorted', length.trans (by rw [size, List.length_cons]; omega), fun e there => ?_⟩
    rcases from_ e there with kept | later
    · rcases List.mem_cons.mp (perm.mem_iff.mp (List.mem_of_mem_take kept)) with rfl | old
      · exact .inr (.head _)
      · exact .inl old
    · exact .inr (.tail _ later)

/-- The entries that 64 lanes of W32 without a NaN give. -/
theorem topEntries_eq {s : State} {t thr a b : Nat} (numbers : ∀ l, l < 64 → isNan32 ((s.v t thr a).getD l 0) = false) :
    (((s.v t thr a).map (logit32 1 ·)).zip (s.v t thr b)).filter (fun e => !isNan32 e.1) =
      (List.range 64).map (fun l => ((s.v t thr a).getD l 0, (s.v t thr b).getD l 0)) := by
  have pairs : ((s.v t thr a).map (logit32 1 ·)).zip (s.v t thr b) =
      (List.range 64).map (fun l => ((s.v t thr a).getD l 0, (s.v t thr b).getD l 0)) := by
    conv_lhs => rw [s.v_eq_range t thr a, s.v_eq_range t thr b]
    rw [List.map_map, List.zip_map']
    rfl
  rw [pairs, List.filter_eq_self]
  intro e there
  obtain ⟨l, small, rfl⟩ := List.mem_map.mp there
  exact congrArg (!·) (numbers l (List.mem_range.mp small))

/-- None of the logits is a NaN. -/
theorem topQuiet {s : State} {t thr a : Nat} (numbers : ∀ l, l < 64 → isNan32 ((s.v t thr a).getD l 0) = false) :
    ((s.v t thr a).map (logit32 1 ·)).any isNan32 = false := by
  rw [s.v_eq_range t thr a, List.map_map, List.any_map, List.any_eq_false]
  intro l there
  exact Bool.not_eq_true _ ▸ numbers l (List.mem_range.mp there)

/-- The list after VTOPK has started with 64 entries. -/
theorem topBest_lanes (s : State) (t thr a b n : Nat) :
    let es := (topBest n [] ((List.range 64).map (fun l => ((s.v t thr a).getD l 0, (s.v t thr b).getD l 0)))).map
      (fun e => (BitVec.ofNat 32 e.1, BitVec.ofNat 32 e.2))
    es.length = min n 64 ∧ (es.map (fun e => topKey e.1.toNat e.2.toNat)).Pairwise (· ≥ ·) ∧
      ∀ e ∈ es, ∃ l, l < 64 ∧ e.1.toNat = (s.v t thr a).getD l 0 ∧ e.2.toNat = (s.v t thr b).getD l 0 := by
  obtain ⟨descend, length, from_⟩ := topBest_spec n ((List.range 64).map (fun l => ((s.v t thr a).getD l 0, (s.v t thr b).getD l 0))) []
    List.Pairwise.nil (Nat.zero_le n)
  generalize topBest n [] _ = best at descend length from_ ⊢
  dsimp only
  have lanes : ∀ e ∈ best, ∃ l, l < 64 ∧ e = ((s.v t thr a).getD l 0, (s.v t thr b).getD l 0) := fun e there => by
    obtain ⟨l, small, same⟩ := List.mem_map.mp ((from_ e there).resolve_left List.not_mem_nil)
    exact ⟨l, List.mem_range.mp small, same.symm⟩
  have words : ∀ e ∈ best, (BitVec.ofNat 32 e.1).toNat = e.1 ∧ (BitVec.ofNat 32 e.2).toNat = e.2 := fun e there => by
    obtain ⟨l, -, rfl⟩ := lanes e there
    exact ⟨Nat.mod_eq_of_lt (s.v_lt ..), Nat.mod_eq_of_lt (s.v_lt ..)⟩
  refine ⟨?_, ?_, fun e there => ?_⟩
  · rw [List.length_map, length]
    simp
  · have keys : (best.map (fun e => (BitVec.ofNat 32 e.1, BitVec.ofNat 32 e.2))).map (fun e => topKey e.1.toNat e.2.toNat) = best.map (fun e => topKey e.1 e.2) := by
      rw [List.map_map]
      refine List.map_congr_left fun e there => ?_
      obtain ⟨first, second⟩ := words e there
      exact congrArg₂ topKey first second
    rw [keys, List.pairwise_map]
    exact descend
  · obtain ⟨x, inside, rfl⟩ := List.mem_map.mp there
    obtain ⟨first, second⟩ := words x inside
    obtain ⟨l, small, rfl⟩ := lanes x inside
    exact ⟨l, small, first, second⟩

section
variable (s : State) (t : Nat)

/-- A change of a tile that leaves its threads. -/
theorem State.updTile_thread {g : Tile → Tile} (k : Nat) (threads : ∀ x, (g x).threads = x.threads := by intro; rfl) :
    (s.updTile t g).thread t k = s.thread t k := by
  rw [State.thread, Tile.th, State.tile_updTile_same, threads]
  rfl

@[simp] theorem State.flagsOr_topk (g : Flags) : ((s.flagsOr t g).tile t).topk = (s.tile t).topk := by
  rw [State.flagsOr, State.tile_updTile_same]
end

section
variable {s : State} {t thr : Nat} {f : VWord} (fits : f.Fits) (issues : Issues s t thr f.word)
include fits issues

/-- Greedy VSAMPLE keeps the winner of each lane with its index. -/
theorem vsample_greedy (form : f = { op := 0xB0, vd := f.vd, va := f.va, vb := f.vb, vc := f.vc, ts := 1, fn := 1 }) (even : f.vd % 2 = 0)
    (good : s.vgood t thr [f.vd, f.vd + 1, f.va, f.vb, f.vc]) (numbers : ∀ l, l < 64 → isNan32 ((s.v t thr f.va).getD l 0) = false) :
    Completes (.vsample t thr) s (fun s' => s'.mem = s.mem ∧ ∀ l, l < 64 →
      let wins := sampleWins ((s.v t thr f.va).getD l 0) ((s.v t thr f.vb).getD l 0) ((s.v t thr f.vd).getD l 0) ((s.v t thr (f.vd + 1)).getD l 0)
      (s'.v t thr f.vd).getD l 0 = (if wins then (s.v t thr f.va).getD l 0 else (s.v t thr f.vd).getD l 0) ∧
      (s'.v t thr (f.vd + 1)).getD l 0 = (if wins then (s.v t thr f.vb).getD l 0 else (s.v t thr (f.vd + 1)).getD l 0)) := by
  have op : opc f.word = 0xB0 := by rw [fits.opc, form]
  have fn : f.fn = 1 := congrArg VWord.fn form
  have ts : f.ts = 1 := congrArg VWord.ts form
  have gen : f.gen = 0 := congrArg VWord.gen form
  have ok : ({ vd := true, va := true, vb := true, vc := true, ts := true, gen := true, fns := 2 } : VUse).ok f.word = true := by
    rw [VUse.ok_word fits, form]
    rfl
  obtain ⟨fVd, fVa, fVb, fVc, -, -, fTs, fGen, -, -, fFn, -⟩ := fits.fields
  have float : isFlt 1 = true := rfl
  have float_logit (v : Nat) : logit32 1 v = v := rfl
  let kept := fun l => sampleKept ((s.v t thr f.va).getD l 0) ((s.v t thr f.vb).getD l 0) ((s.v t thr f.vd).getD l 0) ((s.v t thr (f.vd + 1)).getD l 0)
  let rs := (List.range 64).map (fun l => (kept l, isNan32 ((s.v t thr f.vc).getD l 0)))
  refine completes_vec issues op rfl (exec_vsample ..)
    (s₁ := ((s.setV t thr f.vd (rs.map (·.1.1))).setV t thr (f.vd + 1) (rs.map (·.1.2))).flagsOr t (fif (rs.any (·.2)) fINVALID)) ?_ ?_
  · simp only [ok, fVd, fVa, fVb, fVc, fTs, fGen, fFn, fn, ts, gen, even, float, State.withV_good good, State.mayDraw, beq_self_eq_true,
      if_true, State.withDraw_none, Bool.and_self, Bool.true_or, Bool.not_true, Bool.false_eq_true, if_false]
    rw [List.map_congr_left (l := List.range 64) (g := fun l => (kept l, isNan32 ((s.v t thr f.vc).getD l 0))) ?entry,
      State.setV_raise (by rw [State.setV_thread, issues.clean])]
    case entry =>
      intro l there
      simp only [float_logit, numbers l (List.mem_range.mp there), Bool.not_false, Bool.true_and, Bool.false_or]
      rfl
  · refine ⟨by rw [State.vecGoesOn_mem]; rfl, fun l small => ⟨?_, ?_⟩⟩
    · rw [State.vecGoesOn_v, State.v_of_thread (v := rs.map (·.1.1)) l small]
      · have lane : (rs.map (·.1.1)).getD l 0 = (kept l).1 := by simp [rs, small]
        rw [lane, sampleKept_fst, Nat.mod_eq_of_lt (by split <;> exact s.v_lt ..)]
      · rw [State.flagsOr_thread, State.setV_thread, State.setV_thread, smGetD_smSet_ne _ _ _ _ _ (Nat.ne_of_lt (Nat.lt_succ_self _)), smGetD_smSet_same]
    · rw [State.vecGoesOn_v, State.v_of_thread (v := rs.map (·.1.2)) l small]
      · have lane : (rs.map (·.1.2)).getD l 0 = (kept l).2 := by simp [rs, small]
        rw [lane, sampleKept_snd, Nat.mod_eq_of_lt (by split <;> exact s.v_lt ..)]
      · rw [State.flagsOr_thread, State.setV_thread, State.setV_thread, smGetD_smSet_same]

/-- VSRED leaves the largest key. -/
theorem vsred_completes (form : f = { op := 0xB1, vd := f.vd, va := f.va }) (inside : f.va < 31) (good : s.vgood t thr [f.va, f.va + 1]) :
    Completes (.vsred t thr) s (fun s' => VecOnly s s' t thr id ∧ s'.thread t thr = (s.thread t thr).wrote f.vd (BitVec.ofNat 64
      (((List.range 64).map (fun l => ord32 ((s.v t thr f.va).getD l 0) * 2 ^ 32 +
        (2 ^ 32 - 1 - (s.v t thr (f.va + 1)).getD l 0))).foldl max 0))) := by
  have op : opc f.word = 0xB1 := by rw [fits.opc, form]
  have keys : (List.range 64).map (fun l => topKey ((s.v t thr f.va).getD l 0) ((s.v t thr (f.va + 1)).getD l 0)) =
      (List.range 64).map (fun l => ord32 ((s.v t thr f.va).getD l 0) * 2 ^ 32 + (2 ^ 32 - 1 - (s.v t thr (f.va + 1)).getD l 0)) :=
    List.map_congr_left fun l _ => by rw [topKey, Nat.mod_eq_of_lt (s.v_lt ..)]
  have rest := vsredWord_rest form
  obtain ⟨fVd, fVa, -⟩ := fits.fields
  rw [vVd] at fVd
  rw [vVa] at fVa
  rw [← keys]
  refine completes_vec issues op rfl (exec_vsred ..) (s₁ := s.setG t thr f.vd (BitVec.ofNat 64
    (((List.range 64).map (fun l => topKey ((s.v t thr f.va).getD l 0) ((s.v t thr (f.va + 1)).getD l 0))).foldl max 0)))
    ?_ ⟨((VecOnly.refl s t thr).setG _ _).vecGoesOn _, ?_⟩
  · simp only [fVd, fVa, rest, ne_eq, not_true_eq_false, inside.ne, or_self, if_false]
    exact State.withV_good good _
  · rw [State.vecGoesOn_thread, State.setG_thread]
    rfl

/-- VTOPK that starts: the n best of 64 entries. -/
theorem vtopk_starts (form : f = { op := 0xB2, vd := f.vd, va := f.va, vb := f.vb, ts := 1, fn := 1 })
    (mine : (s.tile t).topk.owner = none ∨ (s.tile t).topk.owner = some thr) {n : Nat} (hn : (s.g t thr f.vd).toNat % 512 = n)
    (n1 : 1 ≤ n) (n256 : n ≤ 256) (good : s.vgood t thr [f.va, f.vb]) (numbers : ∀ l, l < 64 → isNan32 ((s.v t thr f.va).getD l 0) = false) :
    Completes (.vtopk t thr) s (fun s' =>
      (s'.tile t).topk.k = n ∧ (s'.tile t).topk.owner = some thr ∧ (s'.tile t).topk.cut = none ∧
      (s'.tile t).topk.es.length = min n 64 ∧ s'.mem = s.mem ∧
      ((s'.tile t).topk.es.map (fun e => topKey e.1.toNat e.2.toNat)).Pairwise (· ≥ ·) ∧
      ∀ e ∈ (s'.tile t).topk.es, ∃ l, l < 64 ∧ e.1.toNat = (s.v t thr f.va).getD l 0 ∧ e.2.toNat = (s.v t thr f.vb).getD l 0) := by
  have op : opc f.word = 0xB2 := by rw [fits.opc, form]
  have fn : f.fn = 1 := congrArg VWord.fn form
  have ts : f.ts = 1 := congrArg VWord.ts form
  have ok : ({ vd := true, va := true, vb := true, ts := true, fns := 2 } : VUse).ok f.word = true := by
    rw [VUse.ok_word fits, form]
    rfl
  obtain ⟨fVd, fVa, fVb, -, -, -, fTs, -, -, -, fFn, -⟩ := fits.fields
  have hk : bits (s.g t thr f.vd).toNat 8 0 = n := by
    rw [← hn, bits, Nat.pow_zero, Nat.div_one]
    rfl
  have range : (decide (n = 0) || decide (256 < n)) = false := by simp; omega
  have free : ((s.tile t).topk.owner.any (· != thr)) = false := by rcases mine with mine | mine <;> simp [mine]
  have float : isFlt 1 = true := rfl
  let entries := (List.range 64).map (fun l => ((s.v t thr f.va).getD l 0, (s.v t thr f.vb).getD l 0))
  refine completes_vec issues op rfl (exec_vtopk ..) (s₁ := ((s.cleanTopk t).updTile t (fun y => { y with topk :=
    { k := n, owner := some thr, cut := none,
      es := (topBest n [] entries).map (fun e => (BitVec.ofNat 32 e.1, BitVec.ofNat 32 e.2)) } })).flagsOr t 0) ?_ ?_
  · simp only [ok, fVd, fVa, fVb, fTs, fFn, fn, ts, hk, free, range, topQuiet numbers, State.withV_good good, topEntries_eq numbers, beq_self_eq_true,
      float, Bool.and_self, Bool.and_false, Bool.or_self, Bool.not_true, Bool.false_and, Bool.false_eq_true, if_false, if_true]
    rw [State.raise_clean (by rw [State.updTile_thread]; exact issues.clean)]
    rfl
  · rw [State.vecGoesOn_topk, State.flagsOr_topk, State.tile_updTile_same, State.vecGoesOn_mem]
    obtain ⟨length, descend, lanes⟩ := topBest_lanes s t thr f.va f.vb n
    exact ⟨rfl, rfl, rfl, length, rfl, descend, lanes⟩

/-- VTOPP with p = 2 keeps every entry. -/
theorem vtopp_above_one (form : f = { op := 0xB3, vd := f.vd }) (mine : (s.tile t).topk.owner = some thr) (parity : s.topkBad t = none)
    (some_ : (s.tile t).topk.es ≠ []) (two : (s.g t thr f.vd).toNat % 2 ^ 32 = 0x40000000) :
    Completes (.vtopp t thr) s (fun s' =>
      (s'.tile t).topk = { (s.tile t).topk with cut := some (s.tile t).topk.es.length } ∧ s'.mem = s.mem) := by
  have op : opc f.word = 0xB3 := by rw [fits.opc, form]
  have rest := vtoppWord_rest form
  have big : (wCompare 24 3 0x3F800000 0x40000000).1 = true := by decide
  obtain ⟨fVd, -⟩ := fits.fields
  rw [vVd] at fVd
  have length : (s.tile t).topk.list.length = (s.tile t).topk.es.length := List.length_map ..
  have full : (s.tile t).topk.es.length ≠ 0 := fun none_ => some_ (List.eq_nil_of_length_eq_zero none_)
  refine completes_vec issues op rfl (exec_vtopp ..)
    (s₁ := (s.updTile t (fun y => { y with topk := { y.topk with cut := some (s.tile t).topk.es.length } })).flagsOr t
      (fif (isNan32 0x40000000 || isNan32 ((s.g t thr f.vd).toNat / 2 ^ 32)) fINVALID)) ?_ ?_
  · simp only [fVd, rest, mine, parity, two, big, length, full, ne_eq, not_true_eq_false, if_false, Option.isSome_none, Bool.false_eq_true, if_true]
    rw [State.raise_clean (by rw [State.updTile_thread]; exact issues.clean)]
  · rw [State.vecGoesOn_topk, State.flagsOr_topk, State.tile_updTile_same, State.vecGoesOn_mem]
    exact ⟨rfl, rfl⟩

/-- Greedy VTOPS answers the first entry's key. -/
theorem vtops_greedy (form : f = { op := 0xB4, vd := f.vd, va := f.va, fn := 1 }) (mine : (s.tile t).topk.owner = some thr)
    (parity : s.topkBad t = none) (uncut : (s.tile t).topk.cut = none) {e : Word × Word} {es : List (Word × Word)}
    (entries : (s.tile t).topk.es = e :: es) : Completes (.vtops t thr) s (fun s' =>
      VecOnly s s' t thr (fun x => { x with flags := x.flags ||| fif (isNan32 ((s.g t thr f.vd).toNat / 2 ^ 32)) fINVALID }) ∧
      s'.thread t thr = (s.thread t thr).wrote f.va (BitVec.ofNat 64 (topKey e.1.toNat e.2.toNat))) := by
  have op : opc f.word = 0xB4 := by rw [fits.opc, form]
  have fn : f.fn = 1 := congrArg VWord.fn form
  have gen : f.gen = 0 := congrArg VWord.gen form
  obtain ⟨rest, rest'⟩ := vtopsWord_rest form
  obtain ⟨fVd, fVa, -, -, -, -, -, fGen, -, -, fFn, low⟩ := fits.fields
  rw [vVd] at fVd
  rw [vVa] at fVa
  rw [vGen] at fGen
  refine completes_vec issues op rfl (exec_vtops ..)
    (s₁ := (s.setG t thr f.va (BitVec.ofNat 64 (topKey e.1.toNat e.2.toNat))).flagsOr t
      (fif (isNan32 ((s.g t thr f.vd).toNat / 2 ^ 32)) fINVALID)) ?_ ?_
  · simp only [fVd, fVa, vGen, fGen, fFn, fn, gen, rest, rest', low, mine, parity, uncut, entries, TopK.list, ne_eq, not_true_eq_false,
      if_false, Option.isSome_none, Bool.false_eq_true, if_true, beq_self_eq_true, State.withDraw_none, State.mayDraw, Bool.true_or, Bool.not_true, lt_self_iff_false, or_self, Option.getD_none, min_self,
      List.map_cons, List.length_cons, List.take_succ_cons]
    rw [State.raise_clean (by rw [State.setG_thread, issues.clean])]
  · refine ⟨(((VecOnly.refl s t thr).setG _ _).flagsOr _).vecGoesOn _, ?_⟩
    rw [State.vecGoesOn_thread, State.flagsOr_thread, State.setG_thread]
    rfl
end

/-- Settles O18: each instruction's checks pass, and what it keeps is the best of its entries in the order of the keys. -/
theorem samplingInstructionsKeepTheBest : Obligations.SamplingInstructionsKeepTheBest := by
  unfold Obligations.SamplingInstructionsKeepTheBest
  intro s t thr f fits issues h lane k
  exact ⟨vsample_greedy fits issues, vsred_completes fits issues,
    fun form mine n1 n256 good numbers => vtopk_starts fits issues form mine rfl n1 n256 good numbers, vtopp_above_one fits issues,
    fun form mine parity uncut e es entries => vtops_greedy fits issues form mine parity uncut entries⟩

end Sys2Proof.Machine

namespace Sys2Proof.Machine

/-! ### An S-format instruction at issue (R231, R232) -/

section
variable {f : SWord} (fits : f.Fits)
include fits

/-- The check of an encoding, said of the fields. -/
theorem SWord.uses_ok (u : Uses) : u.ok f.word = (u.fns.contains f.fn && (u.gd || (u.pd && decide (f.gd < 8)) || f.gd == 0)
    && (u.ga || f.ga == 0) && (if u.b then (if f.i then f.gb == 0 else f.imm.toNat == 0)
      else (u.gb || f.gb == 0) && !f.i && (u.imm || (u.imm16 && decide (f.imm.toNat < 65536)) || f.imm.toNat == 0))) := by
  simp only [Uses.ok, f.sFn_word fits, f.sGd_word fits, f.sGa_word fits, f.sGb_word fits, f.sI_word fits, f.imm_word fits]

/-- The 16 low bits of the immediate. -/
theorem SWord.imm16_word : bits f.word 23 8 = f.imm.toNat % 2 ^ 16 := by
  have imm := f.imm_word fits
  simp only [bits] at imm ⊢
  omega

omit fits in
/-- The second operand b is encoded as the `b` of a check asks. -/
theorem SWord.UsesB.check (usesB : f.UsesB) : (if f.i then f.gb == 0 else f.imm.toNat == 0) = true := by
  cases isImm : f.i with
  | true => simp [usesB.1 isImm]
  | false => simp [usesB.2 isImm]

theorem SWord.UsesB.ok_alu (usesB : f.UsesB) {fns : List Nat} (listed : f.fn ∈ fns) : Uses.ok { usesAB with fns } f.word = true := by
  rw [SWord.uses_ok fits]
  simp [usesAB, listed, usesB.check]
end

section
variable {s s₁ : State} {t thr : Nat}

theorem ThreadOnly.refl (s : State) (t thr : Nat) : ThreadOnly s s t thr := ⟨rfl, fun _ _ => rfl, rfl, fun _ _ => rfl⟩

/-- A change of the instruction's own thread. -/
theorem ThreadOnly.updThread (h : ThreadOnly s s₁ t thr) (g : Thread → Thread) : ThreadOnly s (s₁.updThread t thr g) t thr where
  state := by
    rw [h.state]
    rfl
  tiles u other := (State.tile_updThread_ne _ _ _ _ _ other).trans (h.tiles u other)
  tile := by
    rw [State.tile_updThread_same, h.tile]
    rfl
  threads k other := (State.thread_updThread_ne _ _ _ _ _ other).trans (h.threads k other)

/-- Counting in the sequencer's block. -/
theorem ThreadOnly.seqCtrAdd (h : ThreadOnly s s₁ t thr) (off n : Nat) : ThreadOnly s (s₁.seqCtrAdd t off n) t thr where
  state := by
    rw [State.seqCtrAdd_state, h.state]
  tiles u other := (State.seqCtrAdd_tile_ne _ _ _ _ _ other).trans (h.tiles u other)
  tile := by
    rw [State.seqCtrAdd_tile_same, h.tile]
  threads k other := (State.seqCtrAdd_thread ..).trans (h.threads k other)

theorem ThreadOnly.setG (h : ThreadOnly s s₁ t thr) (r : Nat) (v : DWord) : ThreadOnly s (s₁.setG t thr r v) t thr := h.updThread _

theorem ThreadOnly.setP (h : ThreadOnly s s₁ t thr) (k : Nat) (v : Bool) : ThreadOnly s (s₁.setP t thr k v) t thr := by
  unfold State.setP
  split
  · exact h
  · exact h.updThread _

/-- A write of a predicate; p0 takes none (R229). -/
theorem State.setP_thread (s : State) (t thr k : Nat) (v : Bool) :
    (s.setP t thr k v).thread t thr = { s.thread t thr with p := if k = 0 then (s.thread t thr).p else setBit (s.thread t thr).p k v } := by
  unfold State.setP
  split
  · rfl
  · exact State.thread_updThread_same ..
end

/-! #### What is left of an instruction's verdict -/

section
variable {s s₁ : State} {t thr : Nat} {c : Instr} {ok : Bool} (clean : (s.thread t thr).taint = [])
include clean

/-- An instruction that is done: its thread goes on at the next instruction. -/
theorem leavesThread_done (settles : exec c s = .next (s.settle t thr ok (.done s₁))) (only : ThreadOnly s s₁ t thr) :
    LeavesThread c s t thr { s₁.thread t thr with pc := (s.thread t thr).pc + 8 } := by
  refine ⟨_, settles.trans (congrArg Host.Outcome.next (s.settle_done clean)), (only.updThread _).seqCtrAdd 0x100 1, ?_⟩
  rw [State.seqCtrAdd_thread, State.thread_updThread_same]

/-- An instruction that goes on at a target. -/
theorem leavesThread_jump {pc : DWord} (settles : exec c s = .next (s.settle t thr ok (.jump pc s₁))) (only : ThreadOnly s s₁ t thr) :
    LeavesThread c s t thr { s₁.thread t thr with pc } := by
  refine ⟨_, settles.trans (congrArg Host.Outcome.next (s.settle_jump clean)), (only.updThread _).seqCtrAdd 0x100 1, ?_⟩
  rw [State.seqCtrAdd_thread, State.thread_updThread_same]

/-- An instruction that waits before its thread goes on. -/
theorem leavesThread_park {st : ThState} {why : Wait} (settles : exec c s = .next (s.settle t thr ok (.park st why s))) :
    LeavesThread c s t thr { s.thread t thr with pc := (s.thread t thr).pc + 8, st, wait := why } :=
  ⟨_, settles.trans (congrArg Host.Outcome.next (State.settle_park clean ..)), threadOnly_upd s t thr _ 0x100 1⟩

/-- An instruction whose whole effect is a general register. -/
theorem leavesThread_setG {r : Nat} {v : DWord} (settles : exec c s = .next (s.settle t thr ok (.done (s.setG t thr r v)))) :
    LeavesThread c s t thr ((s.thread t thr).wrote r v) := by
  have left := leavesThread_done clean settles ((ThreadOnly.refl s t thr).setG r v)
  rwa [State.setG_thread] at left

/-- An instruction whose whole effect is a predicate. -/
theorem leavesThread_setP {k : Nat} {v : Bool} (settles : exec c s = .next (s.settle t thr ok (.done (s.setP t thr k v)))) :
    LeavesThread c s t thr ((s.thread t thr).wroteP k v) := by
  have left := leavesThread_done clean settles ((ThreadOnly.refl s t thr).setP k v)
  rwa [State.setP_thread] at left
end

section
variable {s : State} {t thr o : Nat} {f : SWord} {c : Instr} {ok enc : Nat → Bool} {run : Nat → State → Verdict}
  (fits : f.Fits) (issues : Issues s t thr f.word) (runs : exec c s = .next (s.issueAt t thr o ok (guarded t thr enc run)))
  (op : f.op = o) (defined : definedOp o = true) (good : enc f.word = true)
include fits issues runs op defined good

/-- With a guard that holds the instruction's own verdict is carried out. -/
theorem exec_guarded {v : Verdict} (holds : f.guard s t thr = true) (verdict : run f.word s = v) :
    exec c s = .next (s.settle t thr (ok f.word) v) := by
  rw [runs, s.issueAt_of_issues issues (by rw [f.opc_word fits, op, defined]) (by rw [f.opc_word fits, op]),
    guarded_run s good (by rw [f.guard_word s fits, holds]), verdict]

/-- With a guard that fails the instruction's thread goes on, and that is all (R232). -/
theorem leavesThread_skipped (fails : f.guard s t thr = false) :
    LeavesThread c s t thr { s.thread t thr with pc := (s.thread t thr).pc + 8 } := by
  refine leavesThread_done (ok := ok f.word) issues.clean ?_ (ThreadOnly.refl s t thr)
  rw [runs, s.issueAt_of_issues issues (by rw [f.opc_word fits, op, defined]) (by rw [f.opc_word fits, op]),
    guarded_skip s good (by rw [f.guard_word s fits, fails])]
end

end Sys2Proof.Machine

namespace Sys2Proof.Machine

/-! ### Integer arithmetic (R233) -/

section
variable {w : Nat} (a b : BitVec w)

/-- A choice by "less" and by "at most", where both operands are the same when they are equal. -/
theorem ite_slt_eq_ite_le {x y : BitVec w} (same : a = b → x = y) : (if a.slt b then x else y) = if a.toInt ≤ b.toInt then x else y := by
  rcases lt_trichotomy a.toInt b.toInt with lt | eq | gt
  · simp [BitVec.slt, lt, lt.le]
  · simp [BitVec.slt, eq, same (BitVec.eq_of_toInt_eq eq)]
  · simp [BitVec.slt, gt.not_gt, gt.not_ge]

theorem ite_ult_eq_ite_le {x y : BitVec w} (same : a = b → x = y) : (if a.ult b then x else y) = if a.toNat ≤ b.toNat then x else y := by
  rcases lt_trichotomy a.toNat b.toNat with lt | eq | gt
  · simp [BitVec.ult, lt, lt.le]
  · simp [BitVec.ult, eq, same (BitVec.eq_of_toNat_eq eq)]
  · simp [BitVec.ult, gt.not_gt, gt.not_ge]
end

/-- An instruction of the integer unit writes what its function makes of its two operands. -/
theorem leavesThread_alu {s : State} {t thr o : Nat} {f : SWord} {c : Instr} {u : Uses} {fn : Nat → DWord → DWord → DWord} {v : DWord}
    (fits : f.Fits) (issues : Issues s t thr f.word) (holds : f.guard s t thr = true) (runs : exec c s = .next (s.alu t thr o u fn))
    (op : f.op = o) (defined : definedOp o = true) (good : u.ok f.word = true)
    (value : fn f.word (s.g t thr f.ga) (f.b s t thr) = v) : LeavesThread c s t thr ((s.thread t thr).wrote f.gd v) := by
  refine leavesThread_setG issues.clean (exec_guarded fits issues runs op defined good holds ?_)
  rw [f.sGd_word fits, f.sGa_word fits, f.opB_word s fits, value]

/-- Settles O19: each form names the function of its two operands; MIN and MAX choose alike by "less" and by "at most". -/
theorem scalarArithmeticWritesResult : Obligations.ScalarArithmeticWritesResult := by
  unfold Obligations.ScalarArithmeticWritesResult
  intro s t thr f fits usesB issues holds h a b gives
  have zero (fn : f.fn = 0) : usesAB.ok f.word = true := usesB.ok_alu fits (List.mem_singleton.mpr fn)
  have oneOf (fn : f.fn = 0 ∨ f.fn = 1) : Uses.ok { usesAB with fns := [0, 1] } f.word = true := usesB.ok_alu fits (by simpa using fn)
  have alu {c : Instr} {o : Nat} {u : Uses} {fn : Nat → DWord → DWord → DWord} {v : DWord} (runs : exec c s = .next (s.alu t thr o u fn)) :=
    leavesThread_alu (v := v) fits issues holds runs
  have sFn := f.sFn_word fits
  refine ⟨fun op fn => alu (exec_add ..) op rfl (zero fn) rfl, fun op fn => alu (exec_sub ..) op rfl (zero fn) rfl,
    fun op fn => alu (exec_mul ..) op rfl (zero fn) rfl, fun op fn => alu (exec_mulh ..) op rfl (oneOf (.inl fn)) ?mulhUnsigned,
    fun op fn => alu (exec_mulh ..) op rfl (oneOf (.inr fn)) ?mulhSigned, fun op fn => alu (exec_and ..) op rfl (zero fn) rfl,
    fun op fn => alu (exec_or ..) op rfl (zero fn) rfl, fun op fn => alu (exec_xor ..) op rfl (zero fn) rfl,
    fun op fn => alu (exec_shl ..) op rfl (zero fn) rfl, fun op fn => alu (exec_shr ..) op rfl (zero fn) rfl,
    fun op fn => alu (exec_sar ..) op rfl (zero fn) rfl, fun op fn => alu (exec_min ..) op rfl (oneOf (.inl fn)) ?minSigned,
    fun op fn => alu (exec_min ..) op rfl (oneOf (.inr fn)) ?minUnsigned, fun op fn => alu (exec_max ..) op rfl (oneOf (.inl fn)) ?maxSigned,
    fun op fn => alu (exec_max ..) op rfl (oneOf (.inr fn)) ?maxUnsigned, fun op fn => ?sel⟩
  case mulhUnsigned => simp [sFn, fn, mulHigh, a, b]
  case mulhSigned => simp [sFn, fn, mulHigh, a, b]
  case minSigned => exact (if_pos (sFn.trans fn)).trans (ite_slt_eq_ite_le a b id)
  case minUnsigned => exact (if_neg (by rw [sFn, fn]; decide)).trans (ite_ult_eq_ite_le a b id)
  case maxSigned => exact (if_pos (sFn.trans fn)).trans (ite_slt_eq_ite_le a b Eq.symm)
  case maxUnsigned => exact (if_neg (by rw [sFn, fn]; decide)).trans (ite_ult_eq_ite_le a b Eq.symm)
  case sel =>
    refine leavesThread_setG issues.clean (exec_guarded fits issues (exec_sel ..) op rfl (usesB.ok_alu fits ?_) holds ?_)
    · simp only [List.mem_cons, List.not_mem_nil]
      omega
    · rw [f.sGd_word fits, f.sGa_word fits, f.opB_word s fits, sFn]

/-! ### Predicates (R229, R233) -/

theorem append_low_half (hi : Word) (g : DWord) : BitVec.ofNat 64 (hi.toNat * 2 ^ 32 + g.toNat % 2 ^ 32) = hi ++ g.setWidth 32 := by
  refine BitVec.eq_of_toNat_eq ?_
  have low : g.toNat % 2 ^ 32 < 2 ^ 32 := Nat.mod_lt _ (by decide)
  have := hi.isLt
  rw [BitVec.toNat_append, BitVec.toNat_setWidth, ← Nat.shiftLeft_add_eq_or_of_lt low, Nat.shiftLeft_eq, BitVec.toNat_ofNat,
    Nat.mod_eq_of_lt (by omega)]

/-- Settles O20: MOVHI writes a register made of two halves; CMP and PLOG write what their function says of their operands. -/
theorem predicateInstructionsWriteResult : Obligations.PredicateInstructionsWriteResult := by
  unfold Obligations.PredicateInstructionsWriteResult
  intro s t thr f fits issues holds h a b
  have sFn := f.sFn_word fits
  refine ⟨fun op fn ga gb i => ?movhi, fun op usesB gd => ?cmp, fun op gd ga gb i imm => ?plog⟩
  case movhi =>
    refine leavesThread_setG issues.clean (exec_guarded fits issues (exec_movhi ..) op rfl ?_ holds ?_)
    · rw [SWord.uses_ok fits]
      simp [fn, ga, gb, i]
    · rw [f.sGd_word fits, f.imm_word fits, append_low_half]
  case cmp =>
    have compares {v : Bool} (fn : f.fn ≤ 5) (value : cmpCond f.fn a b = v) : LeavesThread (.cmp t thr) s t thr (h.wroteP f.gd v) := by
      refine leavesThread_setP issues.clean (exec_guarded fits issues (exec_cmp ..) op rfl ?_ holds ?_)
      · rw [SWord.uses_ok fits]
        simp [usesB.check, gd]
        omega
      · rw [f.sGd_word fits, f.sGa_word fits, f.opB_word s fits, sFn, value]
    refine ⟨fun fn => compares (by omega) (by rw [fn]; rfl), fun fn => compares (by omega) ?ne, fun fn => compares (by omega) (by rw [fn]; rfl),
      fun fn => compares (by omega) ?ge, fun fn => compares (by omega) (by rw [fn]; rfl), fun fn => compares (by omega) ?geu⟩
    case ne => simp only [fn, cmpCond, bne, beq_eq_decide, ne_eq, decide_not]
    case ge => simp only [fn, cmpCond, BitVec.slt, ← not_lt, decide_not]
    case geu => simp only [fn, cmpCond, BitVec.ult, ← not_lt, decide_not]
  case plog =>
    have combines {v : Bool} (fn : f.fn ≤ 3) (value : plogOp f.fn (h.pred f.ga) (h.pred f.gb) = v) :
        LeavesThread (.plog t thr) s t thr (h.wroteP f.gd v) := by
      refine leavesThread_setP issues.clean (exec_guarded fits issues (exec_plog ..) op rfl ?_ holds ?_)
      · rw [SWord.uses_ok fits, f.sGa_word fits, f.sGb_word fits]
        simp [i, imm, gd, ga, gb]
        omega
      · rw [f.sGd_word fits, f.sGa_word fits, f.sGb_word fits, sFn]
        exact congrArg (fun v => Verdict.done (s.setP t thr f.gd v)) value
    refine ⟨fun fn => combines (by omega) (by rw [fn]; rfl), fun fn => combines (by omega) (by rw [fn]; rfl),
      fun fn => combines (by omega) (by rw [fn]; rfl), fun fn => combines (by omega) (by rw [fn]; rfl)⟩

/-! ### Branches (R233, R242) -/

/-- A target that the tile's mode lets it issue from is taken. -/
theorem State.branch_taken {s s' : State} {t : Nat} {pc : DWord} (may : s.issuable t pc) : s.branch t pc s' = .jump pc s' := by
  obtain ⟨aligned, inside, region⟩ := may
  unfold State.branch
  rw [if_neg (not_not.mpr aligned), if_pos]
  cases firmware : (s.tile t).firmware with
  | true => rfl
  | false => simp [State.pcOk, firmware, aligned, inside, region firmware]

/-- Settles O21: a branch goes to its target, which `issuable` says may be issued from; LOOP first writes its count. -/
theorem branchesReachTheirTarget : Obligations.BranchesReachTheirTarget := by
  unfold Obligations.BranchesReachTheirTarget
  intro s t thr f fits issues holds fn gb i h target count
  have sImm := f.sImm_word fits
  have sGd := f.sGd_word fits
  have same := ThreadOnly.refl s t thr
  refine ⟨fun op gd ga may => ?br, fun op gd imm may => ?jr, fun op ga counts may => ?loop, fun op ga out => ?loopOut, fun op ga may => ?call⟩
  case br =>
    refine leavesThread_jump issues.clean (exec_guarded fits issues (exec_br ..) op rfl ?_ holds ?_) same
    · rw [SWord.uses_ok fits]
      simp [fn, gb, i, gd, ga]
    · rw [sImm, State.branch_taken may]
  case jr =>
    refine leavesThread_jump issues.clean (exec_guarded fits issues (exec_jr ..) op rfl ?_ holds ?_) same
    · rw [SWord.uses_ok fits]
      simp [fn, gb, i, gd, imm]
    · rw [f.sGa_word fits, State.branch_taken may]
  case loop =>
    have left := leavesThread_jump (s₁ := s.setG t thr f.gd count) (pc := target) issues.clean
      (exec_guarded fits issues (exec_loop ..) op rfl ?_ holds ?_) (same.setG f.gd count)
    · rwa [State.setG_thread] at left
    · rw [SWord.uses_ok fits]
      simp [fn, gb, i, ga]
    · rw [sGd, sImm]
      dsimp only
      rw [if_neg counts, State.branch_taken may]
  case loopOut =>
    refine leavesThread_setG issues.clean (exec_guarded fits issues (exec_loop ..) op rfl ?_ holds ?_)
    · rw [SWord.uses_ok fits]
      simp [fn, gb, i, ga]
    · rw [sGd]
      dsimp only
      rw [if_pos out]
      exact congrArg (fun v => Verdict.done (s.setG t thr f.gd v)) out
  case call =>
    have left := leavesThread_jump (s₁ := s.setG t thr f.gd (h.pc + 8)) (pc := target) issues.clean
      (exec_guarded fits issues (exec_call ..) op rfl ?_ holds ?_) (same.setG f.gd (h.pc + 8))
    · rwa [State.setG_thread] at left
    · rw [SWord.uses_ok fits]
      simp [fn, gb, i, ga]
    · rw [sGd, sImm]
      dsimp only
      rw [State.branch_taken may]

/-! ### Guards that fail (R232) -/

/-- Settles O22: every form passes the check of its encoding, and a guard that fails leaves the rest of it undone. -/
theorem falseGuardHasNoEffect : Obligations.FalseGuardHasNoEffect := by
  unfold Obligations.FalseGuardHasNoEffect
  intro s t thr f fits issues fails skips
  have skip {c : Instr} {o : Nat} {ok enc : Nat → Bool} {run : Nat → State → Verdict} (op : f.op = o) (defined : definedOp o = true)
      (good : enc f.word = true) (runs : exec c s = .next (s.issueAt t thr o ok (guarded t thr enc run))) : skips c :=
    leavesThread_skipped fits issues runs op defined good fails
  have uses := SWord.uses_ok fits
  refine ⟨fun usesB fn => ?operandB, fun i gb imm => ?plain, fun i gb => ?immediate, fun op i gd fn => ?store⟩
  case operandB =>
    have alu {fns : List Nat} (listed : 0 ∈ fns) : Uses.ok { usesAB with fns } f.word = true := usesB.ok_alu fits (fn ▸ listed)
    have zero : usesAB.ok f.word = true := alu (List.mem_singleton.mpr rfl)
    have oneOf : Uses.ok { usesAB with fns := [0, 1] } f.word = true := alu (by simp)
    refine ⟨fun op => skip op rfl zero (exec_add ..), fun op => skip op rfl zero (exec_sub ..), fun op => skip op rfl zero (exec_mul ..),
      fun op => skip op rfl oneOf (exec_mulh ..), fun op => skip op rfl zero (exec_and ..), fun op => skip op rfl zero (exec_or ..),
      fun op => skip op rfl zero (exec_xor ..), fun op => skip op rfl zero (exec_shl ..), fun op => skip op rfl zero (exec_shr ..),
      fun op => skip op rfl zero (exec_sar ..), fun op => skip op rfl oneOf (exec_min ..), fun op => skip op rfl oneOf (exec_max ..),
      fun op => skip op rfl (alu (by simp)) (exec_sel ..), fun op gd => skip op rfl ?_ (exec_cmp ..)⟩
    rw [uses]
    simp [fn, usesB.check, gd]
  case plain =>
    refine ⟨fun op gd ga fn => skip op rfl ?_ (exec_plog ..), fun op gd fn => skip op rfl ?_ (exec_jr ..),
      fun op ga fn => skip op rfl ?_ (exec_tread ..), fun op gd fn ga => skip op rfl ?_ (exec_twait ..),
      fun gd ga => ⟨fun op least most => skip op rfl ?_ (exec_fence ..), fun op fn => skip op rfl ?_ (exec_texit ..),
        fun op fn => skip op rfl ?_ (exec_tend ..)⟩⟩
    · rw [uses, f.sGa_word fits, f.sGb_word fits]
      simp [i, gb, imm, gd, ga]
      omega
    · rw [uses]
      simp [i, gb, imm, gd, fn]
    · rw [uses]
      simp [i, gb, imm, ga]
      omega
    · rw [uses, f.sFn_word fits]
      simp [i, gb, imm, gd]
      omega
    · rw [uses]
      simp [i, gb, imm, gd, ga]
      omega
    · rw [uses]
      simp [i, gb, imm, gd, ga, fn]
    · rw [uses]
      simp [i, gb, imm, gd, ga, fn]
  case immediate =>
    refine ⟨fun op ga fn => skip op rfl ?_ (exec_movhi ..), fun op gd ga fn => skip op rfl ?_ (exec_br ..),
      fun op ga fn => skip op rfl ?_ (exec_loop ..), fun op ga fn => skip op rfl ?_ (exec_call ..), fun op => skip op rfl ?_ (exec_ld ..),
      fun gd ga imm => ⟨fun op => skip op rfl ?_ (exec_spost ..), fun op some_ => skip op rfl ?_ (exec_swait ..)⟩⟩
    · rw [uses]
      simp [i, gb, ga, fn]
    · rw [uses]
      simp [i, gb, gd, ga, fn]
    · rw [uses]
      simp [i, gb, ga, fn]
    · rw [uses]
      simp [i, gb, ga, fn]
    · rw [uses]
      simp [i, gb, fits.fn]
    · rw [uses]
      simp [i, gb, gd, ga, imm, fits.fn]
    · rw [uses, SWord.imm16_word fits, Nat.mod_eq_of_lt (b := 2 ^ 16) imm]
      simp [i, gb, gd, ga, imm, fits.fn]
      exact fun zero => some_ (BitVec.eq_of_toNat_eq zero)
  case store =>
    refine skip op rfl ?_ (exec_st ..)
    rw [uses]
    have := fits.fn
    simp [i, gd]
    omega

end Sys2Proof.Machine

namespace Sys2Proof.Machine

/-! ### Loft accesses of a thread (R234, R235) -/

theorem memGetList_length (m : List Host.Cell) : ∀ n a, (memGetList m a n).length = n
  | 0, _ => rfl
  | n + 1, a => congrArg (· + 1) (memGetList_length m n (a + 1))

/-- The signed reading of n bits, of a number that fits them. -/
theorem bitsInt_of_lt {n v : Nat} (fits : v < 2 ^ n) : bitsInt true n v = if v < 2 ^ (n - 1) then (v : Int) else (v : Int) - (2 ^ n : Nat) := by
  unfold bitsInt
  rw [Nat.mod_eq_of_lt fits]
  by_cases low : v < 2 ^ (n - 1)
  · rw [if_pos low, if_neg (by simpa using low)]
  · rw [if_neg low, if_pos (by simpa using low)]

theorem loftRange_iff (a : DWord) (n : Nat) : loftRange a n = true ↔ a.toNat % n = 0 ∧ a.toNat + n ≤ loftBytes := by
  simp [loftRange]

/-- Bit 3 of a load's or store's fn is its space, bit 2 of a load's its sign extension (R234). -/
theorem bitN_space (fn : Nat) (small : fn < 16) : bitN fn 3 = decide (8 ≤ fn) := by
  rw [bitN_eq]
  exact decide_eq_decide.mpr (by omega)

theorem bitN_signed {fn : Nat} (small : fn < 8) : bitN fn 2 = decide (4 ≤ fn) := by
  rw [bitN_eq]
  exact decide_eq_decide.mpr (by omega)

section
variable {s s₁ : State} {t thr a n off : Nat} {bs : List Byte}

theorem State.loft_lt (s : State) (t a n : Nat) : ofLe (s.loft t a n) < 2 ^ (8 * n) := by
  have bound := ofLe_lt (s.loft t a n)
  rwa [State.loft, State.rd, memGetList_length] at bound

/-- A store to the loft reads back. -/
theorem State.loft_loftWr (wf : Memory.wf s.mem = true) (len : bs.length = n) : (s.loftWr t off bs).loft t off n = bs :=
  len ▸ ((s.wr_spec (loftAddr t off) bs).2.1 wf).2

/-- What is stored has good parity (R591). -/
theorem State.loftBad_loftWr (len : bs.length = n) : (s.loftWr t off bs).loftBad t off n = false := by
  rw [State.loftBad, State.badMem, List.any_eq_false]
  intro p there
  have outside := (List.mem_filter.mp there).2
  rw [len] at outside
  cases p <;> simp_all

/-- A store to the loft, before anything else changes. -/
theorem StoreOnly.loftWr (s : State) (t thr off : Nat) (len : bs.length = n) : StoreOnly s (s.loftWr t off bs) t thr (loftAddr t off) n where
  state := rfl
  bytes x out := memGet_memPutList_out _ _ _ _ (len ▸ out)
  parity p out := by
    rw [State.loftWr, State.wr, List.mem_filter, len, out]
    simp
  tiles _ _ := rfl
  tile := rfl
  threads _ _ := rfl

/-- A change of the instruction's own thread. -/
theorem StoreOnly.updThread (h : StoreOnly s s₁ t thr a n) (g : Thread → Thread) : StoreOnly s (s₁.updThread t thr g) t thr a n where
  state := by
    rw [h.state]
    rfl
  bytes := h.bytes
  parity := h.parity
  tiles u other := (State.tile_updThread_ne _ _ _ _ _ other).trans (h.tiles u other)
  tile := by
    rw [State.tile_updThread_same, h.tile]
    rfl
  threads k other := (State.thread_updThread_ne _ _ _ _ _ other).trans (h.threads k other)

/-- Counting in the sequencer's block. -/
theorem StoreOnly.seqCtrAdd (h : StoreOnly s s₁ t thr a n) (off k : Nat) : StoreOnly s (s₁.seqCtrAdd t off k) t thr a n where
  state := by
    rw [State.seqCtrAdd_state, h.state]
  bytes := by
    rw [State.seqCtrAdd_state]
    exact h.bytes
  parity := by
    rw [State.seqCtrAdd_state]
    exact h.parity
  tiles u other := (State.seqCtrAdd_tile_ne _ _ _ _ _ other).trans (h.tiles u other)
  tile := by
    rw [State.seqCtrAdd_tile_same, h.tile]
  threads k other := (State.seqCtrAdd_thread ..).trans (h.threads k other)

@[simp] theorem State.seqCtrAdd_mem (s : State) (t off n : Nat) : (s.seqCtrAdd t off n).mem = s.mem := by
  rw [State.seqCtrAdd_state]

@[simp] theorem State.seqCtrAdd_bad (s : State) (t off n : Nat) : (s.seqCtrAdd t off n).bad = s.bad := by
  rw [State.seqCtrAdd_state]

/-- An instruction that stores to the loft and is done: what it stored reads back, with good parity. -/
theorem completes_store {c : Instr} {ok : Bool} (clean : (s.thread t thr).taint = [])
    (settles : exec c s = .next (s.settle t thr ok (.done s₁))) (wf : Memory.wf s.mem = true) (len : bs.length = n)
    (only : StoreOnly s s₁ t thr (loftAddr t off) n) (mem : s₁.mem = (s.loftWr t off bs).mem) (bad : s₁.bad = (s.loftWr t off bs).bad) :
    Completes c s (fun s' => StoreOnly s s' t thr (loftAddr t off) n ∧ s'.loft t off n = bs ∧ s'.loftBad t off n = false ∧
      s'.thread t thr = { s₁.thread t thr with pc := (s.thread t thr).pc + 8 }) := by
  refine ⟨_, settles.trans (congrArg Host.Outcome.next (s.settle_done clean)), (only.updThread _).seqCtrAdd 0x100 1, ?_, ?_, ?_⟩
  · rw [State.loft, State.rd, State.seqCtrAdd_mem, State.updThread_mem, mem]
    exact State.loft_loftWr wf len
  · rw [State.loftBad, State.badMem, State.seqCtrAdd_bad, State.updThread_bad, bad]
    exact State.loftBad_loftWr len
  · rw [State.seqCtrAdd_thread, State.thread_updThread_same]
end

/-! #### Loads (R234) -/

/-- What a load of n bytes makes of them, by its fn. -/
theorem extend_of_lt {fn n v : Nat} (small : fn < 8) (fits : v < 2 ^ (8 * n)) : extend (bitN fn 2) n v =
    if fn < 4 then BitVec.ofNat 64 v else BitVec.ofInt 64 (if v < 2 ^ (8 * n - 1) then (v : Int) else (v : Int) - 2 ^ (8 * n)) := by
  rw [extend, bitN_signed small, bitsInt_of_lt fits, Nat.cast_pow, Nat.cast_ofNat]
  by_cases plain : fn < 4
  · rw [if_pos plain, if_neg (by simpa using plain)]
  · rw [if_neg plain, if_pos (by simpa using plain)]

/-- A load from the loft whose range is good. -/
theorem ld_completes {s : State} {t thr : Nat} {f : SWord} (fits : f.Fits) (issues : Issues s t thr f.word) (holds : f.guard s t thr = true)
    (op : f.op = 0x30) (i : f.i = false) (gb : f.gb = 0) (small : f.fn < 8) {n a : Nat} (size : n = 2 ^ (f.fn % 4))
    (addr : a = (s.g t thr f.ga + f.imm.signExtend 64).toNat) (aligned : a % n = 0) (inside : a + n ≤ loftBytes)
    (parity : s.loftBad t a n = false) :
    LeavesThread (.ld t thr) s t thr ((s.thread t thr).wrote f.gd (extend (bitN f.fn 2) n (ofLe (s.loft t a n)))) := by
  subst size addr
  refine leavesThread_setG issues.clean (exec_guarded fits issues (exec_ld ..) op rfl ?_ holds ?_)
  · rw [SWord.uses_ok fits]
    simp [i, gb, fits.fn]
  · rw [f.sFn_word fits, f.sGa_word fits, f.sGd_word fits, f.sImm_word fits]
    dsimp only
    rw [if_neg (by simpa [bitN_space _ fits.fn] using small), if_neg (by simp [(loftRange_iff _ _).mpr ⟨aligned, inside⟩]), if_neg (by rw [parity]; exact Bool.false_ne_true)]

/-! #### Atomics (R235) -/

/-- The fields of an atomic's immediate. -/
theorem atomWord_fields {f : SWord} (fits : f.Fits) {aop size : Nat} {ret : Bool} (listed : aop < 10) (log : size < 4)
    (imm : f.imm = BitVec.ofNat 32 (aop * 2 ^ 28 + size * 2 ^ 26 + b2n ret * 2 ^ 24)) :
    atomAop f.word = aop ∧ atomSize f.word = size ∧ atomSpace f.word = false ∧ atomRet f.word = ret ∧ bits f.word 31 8 = 0 := by
  have := b2n_le ret
  have word := f.imm_word fits
  rw [imm, BitVec.toNat_ofNat, Nat.mod_eq_of_lt (by omega)] at word
  simp only [bits] at word
  have aopIs : atomAop f.word = aop := by
    simp only [atomAop, bits]
    omega
  have sizeIs : atomSize f.word = size := by
    simp only [atomSize, bits]
    omega
  refine ⟨aopIs, sizeIs, bitN_of_field (b := false) (show _ = 0 from ?_), bitN_of_field ?_, ?_⟩
  · omega
  · omega
  · simp only [bits]
    omega

section
variable {s : State} {t thr : Nat} {f : SWord} (fits : f.Fits) (issues : Issues s t thr f.word) (holds : f.guard s t thr = true)
include fits issues holds

/-- An atomic on the loft whose range is good stores the new value, and returns the old one where it is asked to. -/
theorem atom_completes (op : f.op = 0x32) (i : f.i = false) (fn : f.fn = 0) {aop size : Nat} {ret : Bool} (listed : aop < 10) (log : size < 4)
    (imm : f.imm = BitVec.ofNat 32 (aop * 2 ^ 28 + size * 2 ^ 26 + b2n ret * 2 ^ 24)) (sized : aopSize aop size = true)
    (noGd : ret = false → aop ≠ 6 → f.gd = 0) {n a old : Nat} (bytes : n = 2 ^ size) (addr : a = (s.g t thr f.ga).toNat)
    (was : old = ofLe (s.loft t a n)) (aligned : a % n = 0) (inside : a + n ≤ loftBytes) (parity : s.loftBad t a n = false)
    (wf : Memory.wf s.mem = true) : Completes (.atom t thr) s (fun s' => StoreOnly s s' t thr (loftAddr t a) n ∧
      s'.loft t a n = leBytes n (atomicNew aop n old (s.g t thr f.gb).toNat (s.g t thr f.gd).toNat) ∧
      s'.thread t thr = (if ret then (s.thread t thr).wrote f.gd (BitVec.ofNat 64 old)
        else { s.thread t thr with pc := (s.thread t thr).pc + 8 })) := by
  subst bytes addr was
  obtain ⟨aopIs, sizeIs, loft, retIs, zero⟩ := atomWord_fields fits listed log imm
  have coded : atomEnc f.word = true := by
    simp only [atomEnc, f.sFn_word fits, f.sI_word fits, f.sGd_word fits, aopIs, sizeIs, retIs, zero, fn, i, sized]
    cases ret with
    | true => rfl
    | false =>
      by_cases cas : aop = 6
      · simp [cas]
      · simp [noGd rfl cas]
  let a := (s.g t thr f.ga).toNat
  let old := ofLe (s.loft t a (2 ^ size))
  let u := s.loftWr t a (leBytes (2 ^ size) (atomicNew aop (2 ^ size) old (s.g t thr f.gb).toNat (s.g t thr f.gd).toNat))
  have settles := exec_guarded (v := .done (if ret then u.setG t thr f.gd (BitVec.ofNat 64 old) else u)) fits issues (exec_atom ..) op rfl
    coded holds (by
      rw [f.sGa_word fits, f.sGb_word fits, f.sGd_word fits, aopIs, sizeIs, loft, retIs]
      dsimp only
      rw [if_neg (by decide), if_neg (by simp [(loftRange_iff _ _).mpr ⟨aligned, inside⟩]), if_neg (by rw [parity]; exact Bool.false_ne_true)])
  have stored := StoreOnly.loftWr s t thr a (leBytes_length (2 ^ size) (atomicNew aop (2 ^ size) old (s.g t thr f.gb).toNat (s.g t thr f.gd).toNat))
  cases ret with
  | true =>
    obtain ⟨s', runs, only, reads, -, thread⟩ := completes_store issues.clean settles wf (leBytes_length ..) (stored.updThread _) rfl rfl
    refine ⟨s', runs, only, reads, thread.trans ?_⟩
    rw [if_pos rfl, State.setG_thread]
    rfl
  | false =>
    obtain ⟨s', runs, only, reads, -, thread⟩ := completes_store issues.clean settles wf (leBytes_length ..) stored rfl rfl
    exact ⟨s', runs, only, reads, thread⟩
end

/-- The integer atomics on values that fit their size. -/
theorem atomicNew_integer (n old x c : Nat) (hold : old < 2 ^ (8 * n)) (hx : x < 2 ^ (8 * n)) (hc : c < 2 ^ (8 * n)) :
    let m : Int := 2 ^ (8 * n)
    let signed := fun (v : Nat) => if v < 2 ^ (8 * n - 1) then (v : Int) else (v : Int) - m
    (atomicNew 0 n old x c : Int) = (old + x) % m ∧ atomicNew 1 n old x c = (if signed old ≤ signed x then old else x) ∧
    atomicNew 2 n old x c = (if signed x ≤ signed old then old else x) ∧ atomicNew 3 n old x c = Nat.min old x ∧
    atomicNew 4 n old x c = Nat.max old x ∧ atomicNew 5 n old x c = x ∧ atomicNew 6 n old x c = (if old = c then x else old) := by
  simp only [atomicNew, Nat.mod_eq_of_lt hx, Nat.mod_eq_of_lt hc, bitsInt_of_lt hold, bitsInt_of_lt hx, Nat.cast_pow, Nat.cast_ofNat]
  refine ⟨?_, trivial, trivial, trivial, trivial, trivial, trivial⟩
  push_cast
  rfl

/-- Settles O23: the load, the atomic, and what the integer atomics make of their values. -/
theorem loftLoadsAndAtomicsGiveTheirResult : Obligations.LoftLoadsAndAtomicsGiveTheirResult := by
  unfold Obligations.LoftLoadsAndAtomicsGiveTheirResult
  refine ⟨?access, ?integer⟩
  case access =>
    intro s t thr f fits issues holds h
    refine ⟨?load, ?atomic⟩
    case load =>
      intro op i gb small n a v aligned inside parity
      rw [← extend_of_lt small (s.loft_lt t a n)]
      exact ld_completes fits issues holds op i gb small rfl rfl aligned inside parity
    case atomic =>
      intro op i fn aop size ret imm listed log sized noGd n a old new aligned inside parity wf
      exact atom_completes fits issues holds op i fn listed log imm sized noGd rfl rfl rfl aligned inside parity wf
  case integer =>
    intro size old x c _ n m signed hold hx hc
    have small {v : Nat} (below : (v : Int) < m) : v < 2 ^ (8 * n) := by
      have cast : m = ((2 ^ (8 * n) : Nat) : Int) := by
        rw [Nat.cast_pow]
        rfl
      rwa [cast, Nat.cast_lt] at below
    exact atomicNew_integer n old x c (small hold) (small hx) (small hc)

/-! #### Stores (R234) -/

/-- Settles O24: a task's store has no way but to the loft. -/
theorem loftStoreWritesItsBytes : Obligations.LoftStoreWritesItsBytes := by
  unfold Obligations.LoftStoreWritesItsBytes
  intro s t thr f fits issues holds op i gd small inTask h n a aligned inside wf
  have log : f.fn % 4 = f.fn := Nat.mod_eq_of_lt small
  refine completes_store (s₁ := s.loftWr t a (leBytes n (s.g t thr f.gb).toNat)) issues.clean (exec_guarded fits issues (exec_st ..) op rfl ?_ holds ?_) wf (leBytes_length ..)
    (StoreOnly.loftWr s t thr a (leBytes_length n (s.g t thr f.gb).toNat)) rfl rfl
  · rw [SWord.uses_ok fits]
    simp [i, gd]
    omega
  · rw [f.sFn_word fits, f.sGa_word fits, f.sGb_word fits, f.sImm_word fits, log]
    dsimp only
    rw [if_neg (by simp [bitN_space _ fits.fn]; omega), if_neg (by simp [inTask]),
      if_neg (by rw [(loftRange_iff _ _).mpr ⟨aligned, inside⟩]; exact Bool.false_ne_true)]

/-! #### Addresses that end the task (R234 to R237, R254) -/

/-- An instruction that faults ends its task with the fault's code. -/
theorem ends_of_fault {s : State} {t thr w code unit : Nat} {addr : DWord} {c : Instr} {ok : Bool} (issues : Issues s t thr w)
    (inTask : (s.tile t).firmware = false) (bad : code ≠ 0) (settles : exec c s = .next (s.settle t thr ok (.fault code unit addr))) :
    Completes c s (fun s' => s'.Ends t code) := by
  obtain ⟨k, task, goes⟩ := issues.running inTask
  refine ⟨_, settles, ?_⟩
  rw [State.settle_fault issues.clean inTask]
  exact State.endTask_ends task goes bad ..

theorem State.space1_misaligned {s : State} {va : DWord} {n : Nat} (odd : va.toNat % n ≠ 0) (t thr need : Nat) (tagged : Bool)
    (go : DWord → State → Verdict) : s.space1 t thr va n need tagged go = .fault 4 0 va := if_pos odd

/-- Settles O25: alignment is the first check of a space-1 access, and alignment and range the first of a space-0 access. -/
theorem badScalarAddressEndsTask : Obligations.BadScalarAddressEndsTask := by
  unfold Obligations.BadScalarAddressEndsTask
  intro s t thr f fits issues holds inTask i n a wrong ends
  have outside (near : ¬ 8 ≤ f.fn) : loftRange (s.g t thr f.ga + f.imm.signExtend 64) n = false := by
    rw [Bool.eq_false_iff, ne_eq, loftRange_iff]
    rintro ⟨aligned, inside⟩
    rcases wrong with odd | ⟨-, beyond⟩
    · exact odd aligned
    · exact Nat.not_lt.mpr inside beyond
  have odd (far : 8 ≤ f.fn) : (s.g t thr f.ga + f.imm.signExtend 64).toNat % n ≠ 0 :=
    wrong.resolve_right (fun near => Nat.not_lt.mpr far near.1)
  refine ⟨fun op gb => ?load, fun op gd small => ?store⟩
  case load =>
    refine ends_of_fault (unit := 0) (addr := s.g t thr f.ga + f.imm.signExtend 64) issues inTask (by decide)
      (exec_guarded fits issues (exec_ld ..) op rfl ?_ holds ?_)
    · rw [SWord.uses_ok fits]
      simp [i, gb, fits.fn]
    · rw [f.sFn_word fits, f.sGa_word fits, f.sGd_word fits, f.sImm_word fits]
      dsimp only
      rw [bitN_space _ fits.fn]
      by_cases far : 8 ≤ f.fn
      · rw [if_pos (by simpa using far), State.space1_misaligned (odd far)]
      · rw [if_neg (by simpa using far), if_pos (by rw [outside far]; rfl)]
  case store =>
    refine ends_of_fault (unit := 0) (addr := s.g t thr f.ga + f.imm.signExtend 64) issues inTask (by decide)
      (exec_guarded fits issues (exec_st ..) op rfl ?_ holds ?_)
    · rw [SWord.uses_ok fits]
      have := fits.fn
      simp [i, gd]
      omega
    · rw [f.sFn_word fits, f.sGa_word fits, f.sGb_word fits, f.sImm_word fits]
      dsimp only
      rw [bitN_space _ fits.fn]
      by_cases far : 8 ≤ f.fn
      · rw [if_pos (by simpa using far), State.space1_misaligned (odd far)]
      · rw [if_neg (by simpa using far), if_neg (by simp [inTask]), if_pos (by rw [outside far]; rfl)]

end Sys2Proof.Machine

namespace Sys2Proof.Machine

/-! ### Synchronisation and thread control (R238 to R241) -/

theorem State.updTile_congr {s : State} {t : Nat} {f g : Tile → Tile} (same : f (s.tile t) = g (s.tile t)) : s.updTile t f = s.updTile t g := by
  rw [State.updTile, State.updTile, same]

section
variable {s s' : State} {t thr : Nat} {ok : Bool}

/-- An instruction that puts its state together itself only counts itself besides. -/
theorem State.settle_own (clean : (s.thread t thr).taint = []) : s.settle t thr ok (.own s') = s'.seqCtrAdd t 0x100 1 := by
  simp [State.settle, clean]

/-- A thread that waits at a change of its tile (R238). -/
theorem completes_tile_park {c : Instr} {f : Tile → Tile} {st : ThState} {why : Wait} (clean : (s.thread t thr).taint = [])
    (threads : ∀ x, (f x).threads = x.threads) (settles : exec c s = .next (s.settle t thr ok (.park st why (s.updTile t f)))) :
    Completes c s (fun s' => s'.thread t thr = { s.thread t thr with pc := (s.thread t thr).pc + 8, st, wait := why } ∧ TileOnly s s' t thr f) :=
  ⟨_, settles.trans (congrArg Host.Outcome.next (State.settle_park clean ..)), tileOnly_upd _ 0x100 1 threads⟩

/-- An instruction that reads an undefined value takes the next free value (log entry 1). -/
theorem completes_free {c : Instr} {r : Nat} (clean : (s.thread t thr).taint = [])
    (settles : exec c s = .next (s.settle t thr ok (.done ((s.free 64).2.setG t thr r (s.free 64).1)))) :
    Completes c s (fun s' => s'.thread t thr = (s.thread t thr).wrote r (Config.freeValue s.freeCount) ∧ s'.freeCount = s.freeCount + 1) := by
  have value : (s.free 64).1 = Config.freeValue s.freeCount := BitVec.setWidth_eq _
  refine ⟨_, settles.trans (congrArg Host.Outcome.next (s.settle_done clean)), ?_, ?_⟩
  · rw [State.seqCtrAdd_thread, State.thread_updThread_same, State.setG_thread, value]
    rfl
  · rw [State.seqCtrAdd_state]
    rfl

/-! #### The ends of tasks and of firmware (R241, R262) -/

/-- A task that runs and ends without a fault ends OK. -/
theorem State.endTask_ok {k : Task} (task : (s.tile t).task = some k) (goes : k.phase ≠ .ending) (unit : Nat) (pc addr : DWord) :
    (s.endTask t 0 thr unit pc addr).Ends t 0 := by
  unfold State.endTask
  rw [task]
  dsimp only
  rw [if_neg goes, if_pos rfl]
  exact ⟨_, (congrArg Tile.task (State.tile_updTile_same ..)).trans (Tile.recordEnd_task ..), rfl, rfl⟩

theorem State.Ends.seqCtrAdd {code : Nat} (ends : s.Ends t code) (off n : Nat) : (s.seqCtrAdd t off n).Ends t code := by
  rwa [State.Ends, State.seqCtrAdd_tile_same]

/-- Firmware has left a tile, and its thread 0 is off. -/
structure FirmwareLeft (s s' : State) (t : Nat) : Prop where
  mode : (s'.tile t).firmware = false
  thread : (s'.thread t 0).st = .off
  mem : s'.mem = s.mem

/-- With no reset waiting for a tile and no exit from deep idle under way, settling the resets leaves the tiles and the memory. -/
theorem State.settleResets_none (resets : s.bup.resets = []) (exiting : s.bup.exiting = false) :
    s.settleResets.tiles = s.tiles ∧ s.settleResets.mem = s.mem := by
  unfold State.settleResets
  simp only [resets, List.map_nil, List.filter_nil, List.foldl_nil]
  rw [if_neg (by simp [State.updBup, exiting])]
  exact ⟨rfl, rfl⟩

/-- What firmware's end makes of its tile. -/
def Tile.firmwareLeft (x : Tile) : Tile :=
  { x.updTh 0 (fun h => { h with st := .off, wait := .none, miss := none }) with firmware := false, rep := none }

theorem State.endFirmware_left (resets : s.bup.resets = []) (exiting : s.bup.exiting = false) : FirmwareLeft s (s.endFirmware t) t := by
  obtain ⟨tiles, mem⟩ := State.settleResets_none (s := (s.updTile t Tile.firmwareLeft).updCtl t TileCtl.booted) resets exiting
  have tile : (s.endFirmware t).tile t = (s.tile t).firmwareLeft := by
    have same : (s.endFirmware t).tile t = (s.updTile t Tile.firmwareLeft).tile t := congrArg (fun m => smGetD m t ({} : Tile)) tiles
    rw [same, State.tile_updTile_same]
  refine ⟨by rw [tile]; rfl, ?_, mem⟩
  rw [State.thread, tile]
  simp [Tile.firmwareLeft, Tile.updTh, Tile.setTh, Tile.th]

theorem FirmwareLeft.seqCtrAdd (left : FirmwareLeft s s' t) (off n : Nat) : FirmwareLeft s (s'.seqCtrAdd t off n) t where
  mode := by
    rw [State.seqCtrAdd_tile_same]
    exact left.mode
  thread := by
    rw [State.seqCtrAdd_thread]
    exact left.thread
  mem := (State.seqCtrAdd_mem ..).trans left.mem
end

/-- The guard field of a word, pg and pn together. -/
theorem SWord.guardField_word {f : SWord} (fits : f.Fits) : bits f.word 7 4 = f.pg * 2 + b2n f.pn := by
  have := fits.pg; have := fits.fn
  have := b2n_le f.pn
  simp only [bits, SWord.word]
  norm_num at *
  omega

section
variable {s : State} {t thr o : Nat} {f : SWord} {c : Instr} {u : Uses} {run : Nat → State → Verdict}

/-- A firmware instruction in firmware mode, whose guard field is 0 (R262). -/
theorem exec_firmware (fits : f.Fits) (issues : Issues s t thr f.word) (pg : f.pg = 0) (pn : f.pn = false) (op : f.op = o)
    (runs : exec c s = .next (s.firmwareOnly t thr o u run)) (defined : definedOp o = true) (fw : (s.tile t).firmware = true)
    (used : u.ok f.word = true) : exec c s = .next (s.settle t thr false (run f.word s)) := by
  have guardless : bits f.word 7 4 = 0 := by
    rw [SWord.guardField_word fits, pg, pn]
    rfl
  rw [exec_at_issue issues ((f.opc_word fits).trans op) defined runs, fw, used, guardless]
  rfl
end

/-! #### Instructions of a program -/

section
variable {s : State} {t thr : Nat} {f : SWord} (fits : f.Fits) (issues : Issues s t thr f.word) (holds : f.guard s t thr = true)

/-- What a fence waits for is over (R238). -/
theorem State.waitOver_fence {r a : Bool} (pushed : r = true → (∀ k ∈ s.accessesOf (.tile t), k.releaseOf thr = false) ∧ (s.tile t).pushedBy thr = false)
    (loaded : a = true → ∀ k ∈ s.accessesOf (.tile t), k.acquireOf thr = false) : s.waitOver t thr (.fence r a) = true := by
  unfold State.waitOver
  simp only [Bool.and_eq_true, Bool.or_eq_true, Bool.not_eq_true', List.any_eq_false, Bool.not_eq_true]
  refine ⟨?_, ?_⟩
  · cases r with
    | false => exact .inl rfl
    | true => exact .inr (pushed rfl)
  · cases a with
    | false => exact .inl rfl
    | true => exact .inr (loaded rfl)

/-- A store that is not acknowledged keeps a release fence waiting (R238). -/
theorem State.waitOver_fence_pending {a : Bool} (pending : ∃ k ∈ s.accessesOf (.tile t), k.releaseOf thr = true) :
    s.waitOver t thr (.fence true a) = false := by
  obtain ⟨k, there, releases⟩ := pending
  have any : (s.accessesOf (.tile t)).any (fun k => k.releaseOf thr) = true := List.any_eq_true.mpr ⟨k, there, releases⟩
  simp [State.waitOver, any]

include fits issues holds

theorem fence_verdict (op : f.op = 0x38) (i : f.i = false) (gd : f.gd = 0) (ga : f.ga = 0) (gb : f.gb = 0) (imm : f.imm = 0) (least : 1 ≤ f.fn)
    (most : f.fn ≤ 3) : exec (.fence t thr) s = .next (s.settle t thr true
      (if s.waitOver t thr (.fence (f.fn != 2) (f.fn != 1)) then .done s else .park .sync (.fence (f.fn != 2) (f.fn != 1)) s)) := by
  refine exec_guarded fits issues (exec_fence ..) op rfl ?_ holds ?_
  · rw [SWord.uses_ok fits]
    simp [i, gd, ga, gb, imm]
    omega
  · simp only [f.sFn_word fits]

omit issues holds in
theorem SWord.imm16_of_lt (amount : f.imm.toNat < 65536) : bits f.word 23 8 = f.imm.toNat :=
  (SWord.imm16_word fits).trans (Nat.mod_eq_of_lt amount)

theorem spost_completes (op : f.op = 0x39) (i : f.i = false) (gd : f.gd = 0) (ga : f.ga = 0) (gb : f.gb = 0) (amount : f.imm.toNat < 65536)
    (order : (s.tile t).semOrder = []) (fitting : smGetD (s.tile t).sems f.fn 0 + f.imm.toNat ≤ 65535) :
    Completes (.spost t thr) s (fun s' => s'.thread t thr = { s.thread t thr with pc := (s.thread t thr).pc + 8 } ∧
      TileOnly s s' t thr (fun x => { x with sems := smSet x.sems f.fn (smGetD (s.tile t).sems f.fn 0 + f.imm.toNat) })) := by
  refine completes_tile issues.clean (fun _ => rfl) (exec_guarded fits issues (exec_spost ..) op rfl ?_ holds ?_)
  · rw [SWord.uses_ok fits]
    simp [i, gd, ga, gb, amount, fits.fn]
  · dsimp only
    rw [f.sFn_word fits, SWord.imm16_of_lt fits amount, if_neg (Nat.not_lt.mpr fitting)]
    refine congrArg Verdict.done (State.updTile_congr ?_)
    rw [order]
    rfl

/-- A SWAIT where no thread waits for a semaphore. -/
theorem swait_verdict (op : f.op = 0x3A) (i : f.i = false) (gd : f.gd = 0) (ga : f.ga = 0) (gb : f.gb = 0) (amount : f.imm.toNat < 65536)
    (some : 0 < f.imm.toNat) (order : (s.tile t).semOrder = []) : exec (.swait t thr) s = .next (s.settle t thr false
      (if f.imm.toNat ≤ smGetD (s.tile t).sems f.fn 0 then
        .done (s.updTile t (fun x => { x with sems := smSet x.sems f.fn (smGetD (s.tile t).sems f.fn 0 - f.imm.toNat) }))
       else .park .sync (.sem f.fn f.imm.toNat) (s.updTile t (fun x => { x with semOrder := [thr] })))) := by
  refine exec_guarded fits issues (exec_swait ..) op rfl ?_ holds ?_
  · rw [SWord.uses_ok fits, SWord.imm16_of_lt fits amount]
    simp [i, gd, ga, gb, amount, fits.fn]
    omega
  · dsimp only
    rw [f.sFn_word fits, SWord.imm16_of_lt fits amount, order]
    by_cases enough : f.imm.toNat ≤ smGetD (s.tile t).sems f.fn 0
    · rw [if_pos enough, if_pos (by simp [enough])]
      rfl
    · rw [if_neg enough, if_neg (by simp [enough])]
      refine congrArg (Verdict.park .sync _) (State.updTile_congr ?_)
      rw [order]
      rfl

/-- What TREAD reads, by its fn (R239). -/
def State.treadVerdict (s : State) (t thr r : Nat) : Nat → Verdict
  | 0 => .done (s.setG t thr r s.tick.count)
  | 1 => .done ((s.free 64).2.setG t thr r (s.free 64).1)
  | 2 => .done (s.setG t thr r (BitVec.ofNat 64 t))
  | 3 => .done (s.setG t thr r (BitVec.ofNat 64 thr))
  | n =>
    match (s.tile t).task with
    | none => .done ((s.free 64).2.setG t thr r (s.free 64).1)
    | some k => .done (s.setG t thr r (if n = 4 then k.launch.start else k.launch.deadline))

theorem tread_verdict (op : f.op = 0x3B) (i : f.i = false) (ga : f.ga = 0) (gb : f.gb = 0) (imm : f.imm = 0) (small : f.fn < 6) {fn : Nat}
    (form : f.fn = fn) : exec (.tread t thr) s = .next (s.settle t thr true (s.treadVerdict t thr f.gd fn)) := by
  subst form
  refine exec_guarded fits issues (exec_tread ..) op rfl ?_ holds ?_
  · rw [SWord.uses_ok fits]
    simp [i, ga, gb, imm]
    omega
  · rw [f.sFn_word fits, f.sGd_word fits]
    unfold State.treadVerdict
    cases (s.tile t).task <;> rfl

/-- Whether TWAIT waits in Sync, by its fn (R240). -/
def State.twaitVerdict (s : State) (due : DWord) : Nat → Verdict
  | 0 => .park .sync .tickEdge s
  | 1 => .park .sync .guardEdge s
  | _ => if due.toNat ≤ s.tick.count.toNat then .done s else .park .sync (.tickCount due) s

theorem twait_verdict (op : f.op = 0x3C) (i : f.i = false) (gd : f.gd = 0) (gb : f.gb = 0) (imm : f.imm = 0) (ga : f.fn ≠ 2 → f.ga = 0) (small : f.fn < 3)
    {fn : Nat} (form : f.fn = fn) : exec (.twait t thr) s = .next (s.settle t thr false (s.twaitVerdict (s.g t thr f.ga) fn)) := by
  subst form
  refine exec_guarded fits issues (exec_twait ..) op rfl ?_ holds ?_
  · rw [SWord.uses_ok fits, f.sFn_word fits]
    simp [i, gd, gb, imm]
    omega
  · rw [f.sFn_word fits, f.sGa_word fits]
    rfl

theorem texit_verdict (op : f.op = 0x3D) (i : f.i = false) (gd : f.gd = 0) (ga : f.ga = 0) (gb : f.gb = 0) (imm : f.imm = 0) (fn : f.fn = 0) :
    let s₁ := s.updThread t thr (fun h => { h with st := .off, wait := .none })
    exec (.texit t thr) s = .next (s.settle t thr false (.own (if (s₁.tile t).firmware then s₁.endFirmware t
      else if (List.range 8).any (fun k => (s₁.thread t k).st != .off) then s₁ else s₁.endTask t 0 thr 0 0 0))) := by
  refine exec_guarded fits issues (exec_texit ..) op rfl ?_ holds rfl
  rw [SWord.uses_ok fits]
  simp [i, gd, ga, gb, imm, fn]

theorem tend_verdict (op : f.op = 0x3E) (i : f.i = false) (gd : f.gd = 0) (ga : f.ga = 0) (gb : f.gb = 0) (imm : f.imm = 0) (fn : f.fn = 0) :
    exec (.tend t thr) s = .next (s.settle t thr false (.own (if (s.tile t).firmware then s.endFirmware t else s.endTask t 0 thr 0 0 0))) := by
  refine exec_guarded fits issues (exec_tend ..) op rfl ?_ holds rfl
  rw [SWord.uses_ok fits]
  simp [i, gd, ga, gb, imm, fn]

/-- A TEXIT outside firmware leaves its own thread off while another is live, and ends the task OK where none is (R241). -/
theorem texit_completes (op : f.op = 0x3D) (i : f.i = false) (gd : f.gd = 0) (ga : f.ga = 0) (gb : f.gb = 0) (imm : f.imm = 0) (fn : f.fn = 0)
    (inTask : (s.tile t).firmware = false) :
    ((∃ k, k < 8 ∧ k ≠ thr ∧ (s.thread t k).st ≠ .off) → LeavesThread (.texit t thr) s t thr { s.thread t thr with st := .off, wait := .none }) ∧
    ((∀ k, k < 8 → k ≠ thr → (s.thread t k).st = .off) → Completes (.texit t thr) s (fun s' => s'.Ends t 0)) := by
  let s₁ := s.updThread t thr (fun h => { h with st := .off, wait := .none })
  have settles := (texit_verdict fits issues holds op i gd ga gb imm fn).trans (congrArg Host.Outcome.next (State.settle_own issues.clean))
  rw [if_neg (by simp [State.tile_updThread_same, Tile.updTh, Tile.setTh, inTask])] at settles
  refine ⟨fun ⟨k, small, other, live⟩ => ?_, fun off => ?_⟩
  · rw [if_pos] at settles
    · exact ⟨_, settles, threadOnly_upd s t thr _ 0x100 1⟩
    · refine List.any_eq_true.mpr ⟨k, List.mem_range.mpr small, ?_⟩
      rw [State.thread_updThread_ne _ _ _ _ _ other]
      simpa using live
  · rw [if_neg] at settles
    · obtain ⟨k, task, goes⟩ := issues.running inTask
      have task₁ : (s₁.tile t).task = some k := (congrArg Tile.task (State.tile_updThread_same ..)).trans task
      exact ⟨_, settles, (State.endTask_ok task₁ goes ..).seqCtrAdd ..⟩
    · rw [Bool.not_eq_true, List.any_eq_false]
      intro k small
      by_cases own : k = thr
      · rw [own, State.thread_updThread_same]
        exact Bool.false_ne_true
      · rw [State.thread_updThread_ne _ _ _ _ _ own, off k (List.mem_range.mp small) own]
        exact Bool.false_ne_true

/-- A TEND outside firmware ends the task OK (R241). -/
theorem tend_completes (op : f.op = 0x3E) (i : f.i = false) (gd : f.gd = 0) (ga : f.ga = 0) (gb : f.gb = 0) (imm : f.imm = 0) (fn : f.fn = 0)
    (inTask : (s.tile t).firmware = false) : Completes (.tend t thr) s (fun s' => s'.Ends t 0) := by
  obtain ⟨k, task, goes⟩ := issues.running inTask
  refine ⟨_, (tend_verdict fits issues holds op i gd ga gb imm fn).trans (congrArg Host.Outcome.next (State.settle_own issues.clean)), ?_⟩
  rw [if_neg (by simp [inTask])]
  exact (State.endTask_ok task goes ..).seqCtrAdd ..

/-- In firmware mode TEXIT and TEND end firmware (log entry 71). -/
theorem firmware_exits (i : f.i = false) (gd : f.gd = 0) (ga : f.ga = 0) (gb : f.gb = 0) (imm : f.imm = 0) (fn : f.fn = 0)
    (fw : (s.tile t).firmware = true) (resets : s.bup.resets = []) (exiting : s.bup.exiting = false) :
    (f.op = 0x3D → Completes (.texit t thr) s (fun s' => FirmwareLeft s s' t)) ∧ (f.op = 0x3E → Completes (.tend t thr) s (fun s' => FirmwareLeft s s' t)) := by
  refine ⟨fun op => ?_, fun op => ?_⟩
  · refine ⟨_, (texit_verdict fits issues holds op i gd ga gb imm fn).trans (congrArg Host.Outcome.next (State.settle_own issues.clean)), ?_⟩
    rw [if_pos (by simp [State.tile_updThread_same, Tile.updTh, Tile.setTh, fw])]
    have left := State.endFirmware_left (s := s.updThread t thr (fun h => { h with st := .off, wait := .none })) (t := t) resets exiting
    have ended : FirmwareLeft s _ t := ⟨left.mode, left.thread, left.mem⟩
    exact ended.seqCtrAdd ..
  · refine ⟨_, (tend_verdict fits issues holds op i gd ga gb imm fn).trans (congrArg Host.Outcome.next (State.settle_own issues.clean)), ?_⟩
    rw [if_pos fw]
    exact (State.endFirmware_left resets exiting).seqCtrAdd ..
end

/-! #### Firmware's own instructions (R262) -/

section
variable {s : State} {t thr : Nat} {f : SWord} (fits : f.Fits) (issues : Issues s t thr f.word) (i : f.i = false) (imm : f.imm = 0) (fn : f.fn = 0)
  (pg : f.pg = 0) (pn : f.pn = false) (fw : (s.tile t).firmware = true)
include fits issues i imm fn pg pn fw

theorem fend_completes (op : f.op = 0xF2) (gd : f.gd = 0) (ga : f.ga = 0) (gb : f.gb = 0) (resets : s.bup.resets = []) (exiting : s.bup.exiting = false) :
    Completes (.fend t thr) s (fun s' => FirmwareLeft s s' t) := by
  have used : Uses.ok {} f.word = true := by
    rw [SWord.uses_ok fits]
    simp [i, gd, ga, gb, imm, fn]
  refine ⟨_, (exec_firmware fits issues pg pn op (exec_fend ..) rfl fw used).trans (congrArg Host.Outcome.next (State.settle_own issues.clean)), ?_⟩
  exact (State.endFirmware_left resets exiting).seqCtrAdd ..

theorem fget_completes (op : f.op = 0xF0) (gb : f.gb = 0) (inside : (s.g t thr f.ga).toNat < 0x10000) (aligned : (s.g t thr f.ga).toNat % 8 = 0) :
    LeavesThread (.fget t thr) s t thr ((s.thread t thr).wrote f.gd (s.tileRegRead t (s.g t thr f.ga).toNat)) := by
  have used : Uses.ok { gd := true, ga := true } f.word = true := by
    rw [SWord.uses_ok fits]
    simp [i, gb, imm, fn]
  refine leavesThread_setG (ok := false) issues.clean ((exec_firmware fits issues pg pn op (exec_fget ..) rfl fw used).trans ?_)
  simp only [f.sGa_word fits, f.sGd_word fits]
  rw [if_pos ⟨inside, aligned⟩]

omit fits issues i imm fn pg pn fw in
/-- A write of ARR_ERR. -/
theorem State.tileRegWrite_arrErr (s : State) (t : Nat) (lo hi : Option Word) :
    s.tileRegWrite t 0x1018 lo hi = some (s.updTile t (fun x => { x with arrErr := w1cValid x.arrErr hi })) := rfl

/-- Writing 1 to the valid bit of ARR_ERR clears it. -/
theorem fset_completes (op : f.op = 0xF1) (gd : f.gd = 0) (offset : (s.g t thr f.ga).toNat = 0x1018) (bit : (s.g t thr f.gb).getLsbD 63 = true) :
    Completes (.fset t thr) s (fun s' => (s'.tile t).arrErr = (s.tile t).arrErr &&& ~~~(1#64 <<< 63) ∧ s'.mem = s.mem ∧
      s'.thread t thr = { s.thread t thr with pc := (s.thread t thr).pc + 8 }) := by
  have used : Uses.ok { ga := true, gb := true } f.word = true := by
    rw [SWord.uses_ok fits]
    simp [i, gd, imm, fn]
  have settles := exec_firmware fits issues pg pn op (exec_fset ..) rfl fw used
  simp only [f.sGa_word fits, f.sGb_word fits, offset] at settles
  rw [if_pos (by decide), State.tileRegWrite_arrErr, Option.getD_some] at settles
  obtain ⟨s', runs, thread, only⟩ := completes_tile (f := fun x =>
    { x with arrErr := w1cValid x.arrErr (halves 0x1018 true (s.g t thr f.gb)).2 }) issues.clean (fun _ => rfl) settles
  refine ⟨s', runs, ?_, ?_, thread⟩
  · rw [only.tile]
    refine if_pos ?_
    rw [halves, if_pos rfl, Option.any_some, BitVec.getLsbD_setWidth, BitVec.getLsbD_ushiftRight, bit]
    rfl
  · rw [only.state]
end

/-- Settles O26: each instruction's verdict is carried out for its thread, for its tile, or for its task or firmware. -/
theorem synchronisationAndThreadControlComplete : Obligations.SynchronisationAndThreadControlComplete := by
  unfold Obligations.SynchronisationAndThreadControlComplete
  refine ⟨?program, ?control⟩
  case program =>
    intro s t thr f fits issues holds i gb h next amount count
    have clean := issues.clean
    refine ⟨fun op gd ga imm least most => ?fence, fun op gd ga amount order fitting => ?spost, fun op gd ga amount some order => ?swait,
      fun op ga imm => ?tread⟩
    case fence =>
      have settles := fence_verdict fits issues holds op i gd ga gb imm least most
      refine ⟨fun pushed loaded => ?_, fun releases pending => ?_⟩
      · rw [State.waitOver_fence (by simpa using pushed) (by simpa using loaded), if_pos rfl] at settles
        exact leavesThread_done clean settles (ThreadOnly.refl s t thr)
      · rw [(bne_iff_ne).mpr releases, State.waitOver_fence_pending pending, if_neg Bool.false_ne_true] at settles
        exact leavesThread_park clean settles
    case spost => exact spost_completes fits issues holds op i gd ga gb amount order fitting
    case swait =>
      have settles := swait_verdict fits issues holds op i gd ga gb amount some order
      refine ⟨fun enough => ?_, fun lacking => ?_⟩
      · rw [if_pos enough] at settles
        exact completes_tile clean (fun _ => rfl) settles
      · rw [if_neg (Nat.not_le.mpr lacking)] at settles
        exact completes_tile_park clean (fun _ => rfl) settles
    case tread =>
      have settles {n : Nat} (small : n < 6) (fn : f.fn = n) := tread_verdict fits issues holds op i ga gb imm (fn ▸ small) fn
      refine ⟨fun fn => leavesThread_setG clean (settles (by decide) fn), fun fn => completes_free clean (settles (by decide) fn),
        fun fn => leavesThread_setG clean (settles (by decide) fn), fun fn => leavesThread_setG clean (settles (by decide) fn),
        fun k task => ⟨fun fn => ?_, fun fn => ?_⟩, fun idle fn => ?_⟩
      · have reads := settles (by decide) fn
        simp only [State.treadVerdict, task] at reads
        exact leavesThread_setG clean reads
      · have reads := settles (by decide) fn
        simp only [State.treadVerdict, task] at reads
        exact leavesThread_setG clean reads
      · rcases fn with fn | fn
        all_goals
          have reads := settles (by decide) fn
          simp only [State.treadVerdict, idle] at reads
          exact completes_free clean reads
  case control =>
    intro s t thr f fits issues holds i imm h next firmware endsOk
    have clean := issues.clean
    refine ⟨fun op gd gb => ?twait, fun op gd ga gb fn inTask => ?texit, fun op gd ga gb fn inTask => ?tend,
      fun gd ga gb fn fw resets exiting => ?exits, fun op gb fn pg pn fw inside aligned => ?fget, fun op gd fn pg pn fw offset bit => ?fset⟩
    case twait =>
      have settles {n : Nat} (small : n < 3) (fn : f.fn = n) (ga : f.fn ≠ 2 → f.ga = 0) :=
        twait_verdict fits issues holds op i gd gb imm ga (fn ▸ small) fn
      have plain (fn : f.fn = 2) (other : f.fn ≠ 2) : f.ga = 0 := absurd fn other
      refine ⟨fun fn ga => leavesThread_park clean (settles (by decide) fn (fun _ => ga)),
        fun fn ga => leavesThread_park clean (settles (by decide) fn (fun _ => ga)), fun fn reached => ?_, fun fn ahead => ?_⟩
      · have goes := settles (by decide) fn (plain fn)
        simp only [State.twaitVerdict, if_pos reached] at goes
        exact leavesThread_done clean goes (ThreadOnly.refl s t thr)
      · have waits := settles (by decide) fn (plain fn)
        simp only [State.twaitVerdict, if_neg (Nat.not_le.mpr ahead)] at waits
        exact leavesThread_park clean waits
    case texit => exact texit_completes fits issues holds op i gd ga gb imm fn inTask
    case tend => exact tend_completes fits issues holds op i gd ga gb imm fn inTask
    case exits =>
      have left {c : Instr} : Completes c s (fun s' => FirmwareLeft s s' t) → Completes c s (fun s' => (s'.tile t).firmware = false ∧
          (s'.thread t 0).st = .off ∧ s'.mem = s.mem) := fun ⟨s', runs, left⟩ => ⟨s', runs, left.mode, left.thread, left.mem⟩
      obtain ⟨texit, tend⟩ := firmware_exits fits issues holds i gd ga gb imm fn fw resets exiting
      exact ⟨fun op => left (texit op), fun op => left (tend op),
        fun op pg pn => left (fend_completes fits issues i imm fn pg pn fw op gd ga gb resets exiting)⟩
    case fget => exact fget_completes fits issues i imm fn pg pn fw op gb inside aligned
    case fset => exact fset_completes fits issues i imm fn pg pn fw op gd offset bit

end Sys2Proof.Machine

namespace Sys2Proof.Machine

/-! ### Launches (R247 to R249, R254, R266, R268) -/

/-- An erased key is gone. -/
theorem smGet_smErase_same {α : Type} (m : SMap α) (k : Nat) : smGet (smErase m k) k = none := by
  induction m with
  | nil => rfl
  | cons e m ih =>
    unfold smErase
    by_cases here : e.1 = k
    · rw [List.filter_cons_of_neg (by simp [here])]
      exact ih
    · rw [List.filter_cons_of_pos (by simpa using here), smGet, if_neg here]
      exact ih

section
variable {s : State} {t id : Nat} {l : Launch} {src dst : Endpoint} {m : Msg} {part tenant : Nat} {epoch : Byte}

/-- A message that is sent is in the network under the next free number. -/
theorem State.sendMsg_sent : Sent (s.sendMsg src dst m part epoch tenant) dst m := ⟨s.net.nextId, _, smGet_smSet_same .., rfl, rfl, rfl⟩

theorem State.sendMsg_kept (old : id < s.net.nextId) :
    smGet (s.sendMsg src dst m part epoch tenant).net.pkts id = smGet s.net.pkts id := smGet_smSet_ne _ _ _ _ old.ne

/-- A launch that is answered with a report of a code, at a tile that takes none of it. -/
theorem State.rejectLaunch_spec (code : Nat) (old : id < s.net.nextId) : ∃ net, (s.dropPkt id).rejectLaunch t l code = { s with net } ∧ smGet net.pkts id = none ∧
    Sent { s with net } (tileIo l.ioDie t) (.report { ioDie := l.ioDie, ring := l.ring, seq := l.seq, code }) :=
  ⟨_, rfl, (State.sendMsg_kept (s := s.dropPkt id) old).trans (smGet_smErase_same ..), State.sendMsg_sent⟩

/-- The thread and the unit of an end fit their three bits. -/
theorem State.endFields_lt (s : State) (code thr unit : Nat) (pc addr : DWord) :
    (s.endFields code thr unit pc addr).1.1 < 8 ∧ (s.endFields code thr unit pc addr).1.2.1 < 8 := by
  unfold State.endFields
  split
  · exact ⟨Nat.zero_lt_succ _, Nat.zero_lt_succ _⟩
  · exact ⟨BitVec.isLt _, BitVec.isLt _⟩

theorem State.endFields_fit (s : State) (code thr unit : Nat) (pc addr : DWord) : ∃ thr' unit' pc' addr' n, thr' < 8 ∧ unit' < 8 ∧
    s.endFields code thr unit pc addr = ((thr', unit', pc', addr'), { s with freeCount := n }) := by
  obtain ⟨n, frame⟩ := s.endFields_frame code thr unit pc addr
  obtain ⟨hthr, hunit⟩ := s.endFields_lt code thr unit pc addr
  exact ⟨_, _, _, _, n, hthr, hunit, Prod.ext rfl frame⟩

/-- The first end that is not OK is recorded with its code; a recorded one stays (R633). -/
theorem Tile.recordEnd_spec (x : Tile) {code thr unit : Nat} (pc addr : DWord) (bad : code ≠ 0) (small : code < 64) (hthr : thr < 8) (hunit : unit < 8) :
    ∃ fault faultAddr, x.recordEnd code thr unit pc addr = { x with fault, faultAddr } ∧ (x.fault.getLsbD 63 = true → fault = x.fault) ∧
      (x.fault.getLsbD 63 = false → bits fault.toNat 55 50 = code) := by
  unfold Tile.recordEnd
  cases valid : x.fault.getLsbD 63 with
  | true => exact ⟨_, _, if_pos (.inr rfl), fun _ => rfl, nofun⟩
  | false =>
    refine ⟨_, _, if_neg (by simp [bad]), nofun, fun _ => ?_⟩
    rw [BitVec.toNat_ofNat, bits]
    omega

/-- A tile's own report, sent and counted. -/
def State.ownReport (s : State) (t : Nat) (l : Launch) (f : Tile → Tile) (r : TaskReport) : State := ((s.updTile t f).sendReport t l r).seqCtrAdd t 0x118 1

theorem State.ownReport_spec (s : State) (t : Nat) (l : Launch) (f : Tile → Tile) (r : TaskReport) (old : id < s.net.nextId) :
    (∃ net tiles, s.ownReport t l f r = { s with net, tiles } ∧ smGet net.pkts id = smGet s.net.pkts id) ∧
    (∀ u, u ≠ t → (s.ownReport t l f r).tile u = s.tile u) ∧
    (s.ownReport t l f r).tile t = { f (s.tile t) with seqCtr := ctrAdd (f (s.tile t)).seqCtr 0x118 1 } := by
  have sent (u : Nat) : ((s.updTile t f).sendReport t l r).tile u = (s.updTile t f).tile u := rfl
  refine ⟨⟨_, _, rfl, State.sendMsg_kept (s := s.updTile t f) old⟩, fun u other => ?_, ?_⟩
  · rw [State.ownReport, State.seqCtrAdd_tile_ne _ _ _ _ _ other, sent, State.tile_updTile_ne _ _ _ _ other]
  · rw [State.ownReport, State.seqCtrAdd_tile_same, sent, State.tile_updTile_same]

/-- A launch of another time or partition ends with a report of code 0x0C, which the tile counts and records. -/
theorem State.endLaunch_stale (s : State) (t : Nat) (l : Launch) (old : id < s.net.nextId) : ∃ net tiles freeCount fault faultAddr,
    s.endLaunch t l 0x0C = { s with net, tiles, freeCount } ∧ smGet net.pkts id = smGet s.net.pkts id ∧
    (∀ u, u ≠ t → (s.endLaunch t l 0x0C).tile u = s.tile u) ∧
    (s.endLaunch t l 0x0C).tile t = { s.tile t with fault, faultAddr, seqCtr := ctrAdd (s.tile t).seqCtr 0x118 1 } ∧
    ((s.tile t).fault.getLsbD 63 = true → fault = (s.tile t).fault) ∧ ((s.tile t).fault.getLsbD 63 = false → bits fault.toNat 55 50 = 0x0C) := by
  obtain ⟨thr, unit, pc, addr, n, hthr, hunit, fields⟩ := s.endFields_fit 0x0C 0 0 0 0
  obtain ⟨fault, faultAddr, recorded, stays, first⟩ := (s.tile t).recordEnd_spec (code := 0x0C) pc addr (by decide) (by decide) hthr hunit
  have ends : s.endLaunch t l 0x0C = { s with freeCount := n }.ownReport t l (fun x => x.recordEnd 0x0C thr unit pc addr)
      { ring := l.ring, seq := l.seq, code := 0x0C, fThread := thr, fUnit := unit, fPc := pc.setWidth 16, fAddr := addr } := by
    rw [State.endLaunch, fields]
    rfl
  rw [ends]
  obtain ⟨⟨net, tiles, frame, kept⟩, others, tile⟩ := { s with freeCount := n }.ownReport_spec t l (fun x => x.recordEnd 0x0C thr unit pc addr)
    { ring := l.ring, seq := l.seq, code := 0x0C, fThread := thr, fUnit := unit, fPc := pc.setWidth 16, fAddr := addr } old
  exact ⟨net, tiles, n, fault, faultAddr, frame, kept, others,
    tile.trans (congrArg (fun x : Tile => { x with seqCtr := ctrAdd x.seqCtr 0x118 1 }) recorded), stays, first⟩

theorem smGetD_ctrAdd_same (m : SMap (BitVec 48)) (off : Nat) : smGetD (ctrAdd m off 1) off 0 = satAdd 48 (smGetD m off 0) 1 := by
  rw [ctrAdd, if_neg (by decide), smGetD_smUpd_same]

/-- A tile that another agrees with but for its fault and its counters. -/
theorem Tile.eq_with_fault {x y : Tile} {fault faultAddr : DWord} {seqCtr : SMap (BitVec 48)} (same : y = { x with fault, faultAddr, seqCtr }) :
    y = { x with seqCtr := y.seqCtr, fault := y.fault, faultAddr := y.faultAddr } := by
  subst same
  rfl

theorem State.tileOpen_notInReset (opened : s.tileOpen t = true) : (s.ctl t).inReset = false := by
  simp [State.tileOpen] at opened
  exact opened.1.2
end

/-- Settles O27, by the branches of the launch's arrival. -/
theorem launchesAreQueuedOrReported : Obligations.LaunchesAreQueuedOrReported := by
  unfold Obligations.LaunchesAreQueuedOrReported
  intro s id p l arrives t rejected
  have runs {s' : State} (arrival : (if (s.ctl t).inReset then ((s.dropPkt id).rejectLaunch t l 0x0D).intCtr 0x130 1
      else if !s.tileOpen t then (s.dropPkt id).rejectLaunch t l 6
      else if !s.launchFresh t l then ((s.dropPkt id).endLaunch t l 0x0C).intCtr 0x138 1
      else if 4 ≤ (s.tile t).queue.length then s
      else (s.dropPkt id).updTile t (fun x => { x with queue := x.queue ++ [l] })) = s') : exec (.launch id) s = .next s' := by
    rw [exec_launch, execLaunch, arrives.control, arrives.msg]
    exact congrArg Host.Outcome.next arrival
  refine ⟨fun opened fresh room => ?queued, fun old => ⟨fun inReset => ?reset, fun awake closed => ?closed, fun opened stale => ?stale⟩⟩
  case queued =>
    rw [State.tileOpen_notInReset opened, opened, fresh, if_neg Bool.false_ne_true, if_neg (by decide), if_neg (by decide), if_neg (by omega)] at runs
    exact ⟨_, runs rfl, rfl, smGet_smErase_same .., fun u other => State.tile_updTile_ne _ _ _ _ other, State.tile_updTile_same ..⟩
  case reset =>
    obtain ⟨net, reports, gone, sent⟩ := State.rejectLaunch_spec (s := s) (t := t) (l := l) 0x0D old
    rw [inReset, if_pos rfl, reports] at runs
    exact ⟨_, runs rfl, rfl, gone, sent⟩
  case closed =>
    obtain ⟨net, reports, gone, sent⟩ := State.rejectLaunch_spec (s := s) (t := t) (l := l) 6 old
    rw [awake, closed, if_neg Bool.false_ne_true, if_pos (by decide), reports] at runs
    exact ⟨_, runs rfl, rfl, gone, sent⟩
  case stale =>
    rw [State.tileOpen_notInReset opened, opened, stale, if_neg Bool.false_ne_true, if_neg (by decide), if_pos (by decide)] at runs
    obtain ⟨net, tiles, freeCount, fault, faultAddr, ends, kept, others, tile, stays, first⟩ := (s.dropPkt id).endLaunch_stale t l old
    obtain ⟨-, -, r, sent, ring, seq, code, start⟩ := State.endLaunch_spec (s := s.dropPkt id) (t := t) (l := l) 0x0C
    rw [ends] at runs others tile sent
    have counted := congrArg (fun x : Tile => smGetD x.seqCtr 0x118 0) tile
    refine ⟨_, runs rfl, rfl, kept.trans (smGet_smErase_same ..), others, ?_, counted.trans (smGetD_ctrAdd_same ..), ?_, ?_, r, sent, ring, seq, code, start⟩
    · exact Tile.eq_with_fault tile
    · exact fun valid => (congrArg Tile.fault tile).trans (stays valid)
    · exact fun valid => (congrArg (fun x : Tile => bits x.fault.toNat 55 50) tile).trans (first valid)

end Sys2Proof.Machine

namespace Sys2Proof.Machine

/-! ### Waking threads (R243) -/

/-- A thread that waits for something it can wake on. -/
def Thread.waits (h : Thread) : Prop := h.st = .unit ∨ h.st = .sync ∨ h.st = .held

/-- Threads of one tile that waited may go on; nothing else changes. -/
structure Woken (s s' : State) (t : Nat) : Prop where
  state : s' = { s with tiles := s'.tiles }
  tiles : ∀ u, u ≠ t → s'.tile u = s.tile u
  tile : s'.tile t = { s.tile t with threads := (s'.tile t).threads }
  miss : ∀ k, (s'.thread t k).miss = (s.thread t k).miss
  others : ∀ k, ¬ (s.thread t k).waits → s'.thread t k = s.thread t k

section
variable {s s₁ s₂ : State} {t : Nat}

theorem Woken.refl (s : State) (t : Nat) : Woken s s t := ⟨rfl, fun _ _ => rfl, rfl, fun _ => rfl, fun _ _ => rfl⟩

theorem Woken.trans (first : Woken s s₁ t) (second : Woken s₁ s₂ t) : Woken s s₂ t where
  state := by
    rw [second.state, first.state]
  tiles u other := (second.tiles u other).trans (first.tiles u other)
  tile := by
    rw [second.tile, first.tile]
  miss k := (second.miss k).trans (first.miss k)
  others k stays := by
    have same := first.others k stays
    exact (second.others k (by rwa [same])).trans same

/-- What is woken changed only its tiles, if it had changed only them before. -/
theorem Woken.frame (woken : Woken s₁ s₂ t) (before : s₁ = { s with tiles := s₁.tiles }) : s₂ = { s with tiles := s₂.tiles } := by
  rw [woken.state, before]

theorem Woken.updThread {k : Nat} {g : Thread → Thread} (waits : (s.thread t k).waits) (miss : ∀ h, (g h).miss = h.miss) : Woken s (s.updThread t k g) t where
  state := rfl
  tiles u other := State.tile_updThread_ne _ _ _ _ _ other
  tile := by
    rw [State.tile_updThread_same]
    rfl
  miss j := by
    by_cases own : j = k
    · rw [own, State.thread_updThread_same, miss]
    · rw [State.thread_updThread_ne _ _ _ _ _ own]
  others j stays := State.thread_updThread_ne _ _ _ _ _ (fun own => stays (own ▸ waits))

theorem State.wake_woken (s : State) (t : Nat) : Woken s (s.wake t) t := by
  unfold State.wake
  refine List.foldlRecOn (motive := fun s' => Woken s s' t) _ _ (Woken.refl s t) (fun s₁ woken k _ => ?_)
  dsimp only
  split
  · rename_i may
    refine woken.trans (Woken.updThread ?_ (fun _ => rfl))
    simpa [Thread.waits, or_assoc] using (Bool.and_eq_true_iff.mp may).1
  · exact woken
end

/-! ### The record of an end (R254, R310) -/

section
variable {s : State} {t : Nat}

/-- Stopping a task's units leaves its record, but for the tokens it has sent. -/
theorem State.stopWork_record {P : Task → Prop} (tokens : ∀ k sent, P k → P { k with tokensSent := sent }) (record : ∃ k, (s.tile t).task = some k ∧ P k) :
    ∃ k, ((s.stopWork t).tile t).task = some k ∧ P k := by
  obtain ⟨k, task, holds⟩ := record
  have stands := (TaskStands.refl t s).stopArray.stopMvp.stopWinnow.updTile t
    (fun x => { x with str := { x.str with slots := x.str.slots.map (fun e => (e.1, e.2.dropUnsent)) } })
  obtain ⟨sent, kept, -⟩ := State.abortTokens_task (stands.task.trans task)
  exact ⟨_, kept, tokens k sent holds⟩

/-- A failed access ends the task with BUS_ERROR at its thread, pc and address. -/
theorem State.faultEnd_busError {k : Task} (inTask : (s.tile t).firmware = false) (task : (s.tile t).task = some k) (goes : k.phase ≠ .ending)
    (thr : Nat) (pc addr : DWord) : ∃ e, ((s.faultEnd t 6 thr 6 pc addr).tile t).task = some e ∧ e.phase = .ending ∧ e.code = 6 ∧
      e.fThread = thr % 8 ∧ e.fUnit = 6 ∧ e.fPc = pc.setWidth 16 ∧ e.fAddr = addr := by
  have fields : s.endFields 6 thr 6 pc addr = ((thr % 8, 6, pc, addr), s) := rfl
  unfold State.faultEnd
  rw [if_neg (by simp [inTask]), State.endTask, task]
  dsimp only
  rw [if_neg goes, fields, if_neg (by decide)]
  refine State.stopWork_record (P := fun e => e.phase = .ending ∧ e.code = 6 ∧ e.fThread = thr % 8 ∧ e.fUnit = 6 ∧ e.fPc = pc.setWidth 16 ∧ e.fAddr = addr)
    (fun _ _ holds => holds) ?_
  exact ⟨_, (congrArg Tile.task (State.tile_updTile_same ..)).trans (Tile.recordEnd_task ..), rfl, rfl, rfl, rfl, rfl, rfl⟩
end

end Sys2Proof.Machine

namespace Sys2Proof.Machine

/-! ### Threads become Ready and Active (R236, R243, R244, R250, R253, R262) -/

/-- A map made of a list of keys. -/
theorem smGet_tabulate {α : Type} (f : Nat → α) {j : Nat} : ∀ {l : List Nat}, j ∈ l → smGet (l.map (fun k => (k, f k))) j = some (f j)
  | k :: l, there => by
    rw [List.map_cons, smGet]
    by_cases own : k = j
    · rw [if_pos own, own]
    · rw [if_neg own]
      exact smGet_tabulate f ((List.mem_cons.mp there).resolve_left (fun e => own e.symm))

/-- A change of every entry by its key. -/
theorem smGet_mapKeyed {α : Type} (f : Nat → α → α) (j : Nat) : ∀ m : SMap α, smGet (m.map (fun e => (e.1, f e.1 e.2))) j = (smGet m j).map (f j)
  | [] => rfl
  | e :: m => by
    rw [List.map_cons, smGet, smGet]
    by_cases own : e.1 = j
    · rw [if_pos own, if_pos own, own]
      rfl
    · rw [if_neg own, if_neg own]
      exact smGet_mapKeyed f j m

section
variable {s : State} {t : Nat} {k : Task}

/-- A task's threads as its launch names them (R250). -/
def Tile.prepared (k : Task) (x : Tile) : Tile := { x with threads := k.launch.threads, task := some { k with phase := .running, loaded := true } }

theorem State.prepared_plain (task : (s.tile t).task = some k) (plain : k.launch.load = false) (ctx : Option (List Byte)) :
    s.prepared t k.launch ctx = s.updTile t (Tile.prepared k) := by
  unfold State.prepared
  rw [if_neg (by simp [plain]), State.updTask, State.updTile, State.tile_updTile_same]
  simp only [State.updTile, State.setTile, smSet_smSet_same, task, Option.map_some]
  rfl

/-- A task whose program is there and that loads no context is prepared at once. -/
theorem taskPrepared_runs (task : (s.tile t).task = some k) (preparing : k.phase = .preparing) (plain : k.launch.load = false)
    (tag : k.launch.progTag ≠ 0) (same : k.launch.progTag = (s.tile t).progTag) (prog ctx : Option (List Byte)) :
    exec (.taskPrepared t prog ctx) s = .next (s.updTile t (Tile.prepared k)) := by
  rw [exec_taskPrepared, execTaskPrepared, task]
  dsimp only
  rw [if_neg (by simp [preparing]), if_neg (by simp only [not_or, ne_eq, not_not]; exact ⟨tag, same⟩), State.prepared_plain task plain]

/-- A tile whose thread 0 has entered firmware (R262). -/
def Tile.firmwareEntered (x : Tile) : Tile :=
  { x.updTh 0 (fun h => { h with st := .firmware, pc := 0x40, wait := .none, miss := none }) with firmware := true }

theorem firmwareEntry_runs (guard : s.tick.inGuard = true) (up : s.bup.grangerUp = true) (inactive : (s.tile t).active = false)
    (inTask : (s.tile t).firmware = false) (awake : (s.ctl t).power = .awake) : exec (.firmwareEntry t) s = .next (s.updTile t Tile.firmwareEntered) := by
  rw [exec_firmwareEntry, execFirmwareEntry]
  dsimp only
  rw [if_neg (by simp [guard, up, inactive, inTask, awake])]
  rfl

theorem Launch.thread (l : Launch) {j : Nat} (small : j < 8) : smGetD l.threads j {} =
    { st := if l.mask.getLsbD j then .ready else .off, pc := l.entry.setWidth 64, g := indexed (BitVec.ofNat 64 j :: l.args.take 4) } := by
  rw [smGetD, Launch.threads, smGet_tabulate _ (List.mem_range.mpr small)]
  rfl

/-- The sequencer's counters change, and nothing else of the state. -/
structure SeqCounted (s s' : State) (t : Nat) : Prop where
  state : s' = { s with tiles := s'.tiles, health := s'.health, funcs := s'.funcs, host := s'.host, hostMem := s'.hostMem }
  tiles : ∀ u, u ≠ t → s'.tile u = s.tile u
  tile : s'.tile t = { s.tile t with seqCtr := (s'.tile t).seqCtr }

theorem SeqCounted.refl (s : State) (t : Nat) : SeqCounted s s t := ⟨rfl, fun _ _ => rfl, rfl⟩

theorem SeqCounted.seqCtrAdd (s : State) (t off n : Nat) : SeqCounted s (s.seqCtrAdd t off n) t where
  state := State.seqCtrAdd_state ..
  tiles _ other := State.seqCtrAdd_tile_ne _ _ _ _ _ other
  tile := by
    rw [State.seqCtrAdd_tile_same]

/-- What the sequencer makes of a thread when it activates thread i. -/
def Thread.switched (i j : Nat) (h : Thread) : Thread :=
  if j = i then { h with st := .active } else if h.st = .active then { h with st := .ready } else h

def Tile.switched (i : Nat) (x : Tile) : Tile :=
  { x with threads := x.threads.map (fun e => (e.1, e.2.switched i e.1)), lastActive := i }

/-- A thread that the tile does not hold is off, and stays so. -/
theorem Tile.switched_th {x : Tile} {i j : Nat} (ready : (x.th i).st = .ready) : (x.switched i).th j = (x.th j).switched i j := by
  have entry : smGet (x.switched i).threads j = (smGet x.threads j).map (Thread.switched i j) := smGet_mapKeyed (Thread.switched i) j x.threads
  rw [Tile.th, smGetD, entry]
  cases here : smGet x.threads j with
  | some h => simp [Tile.th, smGetD, here]
  | none =>
    have other : j ≠ i := by
      rintro rfl
      rw [Tile.th, smGetD, here] at ready
      cases ready
    simp [Tile.th, smGetD, here, Thread.switched, other]

/-- The next Ready thread in ascending order from the last active one, round the eight (R244). -/
theorem find_ready {p : Nat → Bool} {first n : Nat} (small : n < 8) (ready : p ((first + n) % 8) = true)
    (before : ∀ m, m < n → p ((first + m) % 8) = false) :
    ((List.range 8).map (fun i => (first + i) % 8)).find? p = some ((first + n) % 8) := by
  have found : (List.range 8).find? (p ∘ fun i => (first + i) % 8) = some n := by
    refine List.find?_range_eq_some.mpr ⟨ready, List.mem_range.mpr small, fun m earlier => ?_⟩
    rw [Function.comp_apply, before m earlier]
    rfl
  rw [List.find?_map, found]
  rfl

/-- A running tile whose thread i is the next Ready one: it is activated between two counts of the sequencer. -/
theorem threadSwitch_runs (task : (s.tile t).task = some k) (running : k.phase = .running) (rep : (s.tile t).rep = none) (idle : Nat) {i : Nat}
    (next : ((List.range 8).map (fun i => ((if (s.tile t).lastActive < 8 then (s.tile t).lastActive + 1 else 0) + i) % 8)).find?
      (fun i => ((s.tile t).th i).st == .ready) = some i) :
    ∃ s₁ s', SeqCounted s s₁ t ∧ SeqCounted (s₁.updTile t (Tile.switched i)) s' t ∧ exec (.threadSwitch t idle) s = .next s' := by
  refine ⟨s.seqCtrAdd t 0x110 idle,
    if (s.tile t).lastActive < 8 then ((s.seqCtrAdd t 0x110 idle).updTile t (Tile.switched i)).seqCtrAdd t 0x108 1
      else (s.seqCtrAdd t 0x110 idle).updTile t (Tile.switched i), .seqCtrAdd .., ?_, ?_⟩
  · split
    · exact .seqCtrAdd ..
    · exact .refl ..
  · have entry (e : Nat × Thread) : (if e.1 = i then (e.1, { e.2 with st := .active }) else if e.2.st = .active then (e.1, { e.2 with st := .ready }) else e) =
        (e.1, e.2.switched i e.1) := by
      unfold Thread.switched
      split
      · rfl
      · split <;> rfl
    rw [exec_threadSwitch, execThreadSwitch]
    dsimp only
    rw [task]
    dsimp only
    rw [if_neg (by simp [running, rep]), next]
    simp only [entry]
    rfl

/-- A good answer gives its datum to its thread, which becomes Ready (R236). -/
theorem missReturn_ok {thr : Nat} {m : Miss} {data : List Byte} (waiting : (s.thread t thr).st = .miss) (miss : (s.thread t thr).miss = some m)
    (ans : m.ans = some (.ok, data, false)) : exec (.missReturn t thr) s = .next ((s.updThread t thr (fun h => { h with
      st := (s.tile t).readySt, wait := .none, miss := none,
      g := smSet h.g m.gd (BitVec.ofInt 64 (bitsInt m.sext (8 * m.size) (ofLe (data.take m.size)))) })).wake t) := by
  rw [exec_missReturn, execMissReturn]
  simp only [miss, ans]
  rw [if_neg (by simp [waiting]), if_neg (by simp), if_neg (by simp)]

theorem missReturn_busError {thr : Nat} {m : Miss} {data : List Byte} (waiting : (s.thread t thr).st = .miss) (miss : (s.thread t thr).miss = some m)
    (ans : m.ans = some (.busError, data, false)) : exec (.missReturn t thr) s = .next (s.faultEnd t 6 thr 6 m.pc m.addr) := by
  rw [exec_missReturn, execMissReturn]
  simp only [miss, ans]
  rw [if_neg (by simp [waiting]), if_pos (by decide)]

theorem Tile.readySt_idle (x : Tile) (h : Thread) (st : h.st = x.readySt) : ¬ h.waits := by
  rw [Thread.waits, st, Tile.readySt]
  split <;> simp
end

/-- Settles O29: the preparation, the switch, the answer of a miss, and firmware's entry. -/
theorem threadsBecomeReadyAndActive : Obligations.ThreadsBecomeReadyAndActive := by
  unfold Obligations.ThreadsBecomeReadyAndActive
  intro s t k task x alone
  refine ⟨fun preparing plain tag same prog ctx => ?prepared, ?switch,
    fun thr m data waiting miss => ⟨fun ans => ?answer, fun ans inTask running => ?failed⟩, fun u guard up inactive idle awake => ?firmware⟩
  case prepared =>
    refine ⟨_, taskPrepared_runs task preparing plain tag same prog ctx, rfl, fun u other => State.tile_updTile_ne _ _ _ _ other, ?_, fun j small => ?_⟩
    · rw [State.tile_updTile_same]
      rfl
    · rw [State.thread, State.tile_updTile_same]
      exact k.launch.thread small
  case switch =>
    intro running rep idle n small first i ready before
    obtain ⟨s₁, s', counted, counted', runs⟩ := threadSwitch_runs task running rep idle (i := i)
      (find_ready small (by simpa using ready) (fun m earlier => by simpa using before m earlier))
    have tile : s'.tile t = { x.switched i with seqCtr := (s'.tile t).seqCtr } := by
      rw [counted'.tile, State.tile_updTile_same, counted.tile]
      rfl
    have threads (j : Nat) : s'.thread t j = (x.th j).switched i j := by
      rw [State.thread, tile]
      exact Tile.switched_th ready
    refine ⟨s', runs, ?_, fun u other => ?_, ?_, ?_, fun j other => ?_⟩
    · rw [counted'.state, counted.state]
      rfl
    · rw [counted'.tiles u other, State.tile_updTile_ne _ _ _ _ other, counted.tiles u other]
    · rw [tile]
      rfl
    · rw [threads, Thread.switched, if_pos rfl]
    · rw [threads, Thread.switched, if_neg other]
  case answer =>
    have woken := State.wake_woken (s.updThread t thr (fun h => { h with
      st := (s.tile t).readySt, wait := .none, miss := none,
      g := smSet h.g m.gd (BitVec.ofInt 64 (bitsInt m.sext (8 * m.size) (ofLe (data.take m.size)))) })) t
    refine ⟨_, missReturn_ok waiting miss ans, woken.frame rfl, fun u other => ?_, ?_, ?_⟩
    · rw [woken.tiles u other, State.tile_updThread_ne _ _ _ _ _ other]
    · rw [woken.tile, State.tile_updThread_same]
      exact task
    · rw [woken.others thr, State.thread_updThread_same]
      rw [State.thread_updThread_same]
      exact Tile.readySt_idle (s.tile t) _ rfl
  case failed =>
    obtain ⟨e, record, phase, code, -, -, pc, addr⟩ := State.faultEnd_busError inTask task (by simp [running]) thr m.pc m.addr
    exact ⟨_, missReturn_busError waiting miss ans, e, record, phase, code, pc, addr⟩
  case firmware =>
    refine ⟨_, firmwareEntry_runs guard up inactive idle awake, rfl, fun v other => State.tile_updTile_ne _ _ _ _ other, ?_, ?_, fun j other => ?_⟩
    · rw [State.tile_updTile_same]
      rfl
    · rw [State.thread, State.tile_updTile_same]
      exact smGetD_smSet_same ..
    · rw [State.thread, State.tile_updTile_same]
      exact smGetD_smSet_ne _ _ _ _ _ other

end Sys2Proof.Machine

namespace Sys2Proof.Machine

/-! ### Answers (R236, R237, R363, R367, R369, R373, R597) -/

section
variable {s : State} {id : Nat} {op : PktOp} {p : Packet} {a : Access} {go : Access → Packet → State → State}

/-- An answer whose access still waits for it is taken. -/
theorem State.answered_live (arrived : s.arrived id op = some p) (msg : p.msg = .none) (waits : s.access p.issuer p.tag = some a) (uid : a.uid = p.uid)
    (live : s.lateAnswer a = false) : s.answered id op go = go a p (s.dropPkt id) := by
  have waits' : (s.dropPkt id).access p.issuer p.tag = some a := waits
  have live' : (s.dropPkt id).lateAnswer a = false := live
  unfold State.answered
  rw [arrived]
  dsimp only
  rw [msg]
  dsimp only
  rw [waits']
  dsimp only
  rw [if_neg (by simp [uid]), live', if_neg Bool.false_ne_true]

/-- An answer whose access has ended is discarded. -/
theorem State.answered_ended (arrived : s.arrived id op = some p) (msg : p.msg = .none)
    (ended : ∀ b, s.access p.issuer p.tag = some b → b.uid ≠ p.uid) : s.answered id op go = s.dropPkt id := by
  have same : (s.dropPkt id).access p.issuer p.tag = s.access p.issuer p.tag := rfl
  unfold State.answered
  rw [arrived]
  dsimp only
  rw [msg]
  dsimp only
  rw [same]
  cases waits : s.access p.issuer p.tag with
  | none => rfl
  | some b =>
    dsimp only
    rw [if_pos (ended b waits)]
end

/-! #### The end of an access -/

section
variable {s : State} {a : Access} {t thr : Nat} {st : Status} {data : List Byte}

/-- An access that is retired frees its tag. -/
def State.Freed (s : State) (i : Issuer) (tag : Nat) : Prop := ∀ b ∈ s.accesses, ¬ (b.issuer = i ∧ b.tag = tag)

theorem State.Freed.releaseHeld {i : Issuer} {tag : Nat} : ∀ (n : Nat) {s : State}, s.Freed i tag → (s.releaseHeld i n).Freed i tag
  | 0, _, freed => freed
  | n + 1, s, freed => by
    unfold State.releaseHeld
    split
    · exact freed
    · split
      · exact freed
      · refine State.Freed.releaseHeld n ?_
        rw [State.Freed, State.inject_accesses]
        intro b there
        obtain ⟨c, before, rfl⟩ := List.mem_map.mp there
        split
        · exact freed c before
        · exact freed c before

theorem State.retire_freed (s : State) (i : Issuer) (tag : Nat) : (s.retire i tag).Freed i tag := by
  refine State.Freed.releaseHeld _ ?_
  intro b there
  have kept := (List.mem_filter.mp there).2
  rw [not_and_or]
  simpa using kept

theorem State.retire_tile (s : State) (i : Issuer) (tag u : Nat) : (s.retire i tag).tile u = s.tile u := by
  rw [State.tile, State.retire_tiles]
  rfl

/-- What an answer leaves: the memory as before, its tag free. -/
theorem Woken.freed {s₁ s' : State} {i : Issuer} {tag : Nat} (woken : Woken s₁ s' t) (mem : s₁.mem = s.mem) (freed : s₁.Freed i tag) :
    s'.mem = s.mem ∧ s'.Freed i tag := by
  rw [woken.state]
  exact ⟨mem, freed⟩

theorem Woken.task {s' : State} (woken : Woken s s' t) : (s'.tile t).task = (s.tile t).task := by
  rw [woken.tile]

/-- The answer of a load or an atomic waits in its thread's miss register. -/
theorem State.complete_miss (issuer : a.issuer = .tile t) (purpose : a.purpose = .miss thr) (kept : a.dropped = false) {m : Miss}
    (miss : (s.thread t thr).miss = some m) :
    ((s.complete a st [] data).mem = s.mem ∧ (s.complete a st [] data).Freed a.issuer a.tag) ∧
    ((s.complete a st [] data).thread t thr).miss = some { m with ans := some (st, data, false) } ∧
    ((s.complete a st [] data).tile t).task = (s.tile t).task := by
  let answer : Thread → Thread := fun h => { h with miss := h.miss.map (fun m => { m with ans := some (st, data, false) }) }
  have completes : s.complete a st [] data = ((s.retire a.issuer a.tag).updThread t thr answer).wake t := by
    unfold State.complete
    simp only [issuer, purpose, kept]
    rfl
  rw [completes]
  have woken := State.wake_woken ((s.retire a.issuer a.tag).updThread t thr answer) t
  refine ⟨woken.freed (State.retire_mem ..) (s.retire_freed a.issuer a.tag), ?_, ?_⟩
  · rw [woken.miss, State.thread_updThread_same, State.thread, State.retire_tile]
    exact congrArg (Option.map _) miss
  · rw [woken.task, State.tile_updThread_same, State.retire_tile]
    rfl

/-- A store that is acknowledged OK changes nothing of its task. -/
theorem State.complete_store_ok (issuer : a.issuer = .tile t) {pc va : DWord} (purpose : a.purpose = .store thr pc va) :
    ((s.complete a .ok [] data).mem = s.mem ∧ (s.complete a .ok [] data).Freed a.issuer a.tag) ∧
    ((s.complete a .ok [] data).tile t).task = (s.tile t).task := by
  have completes : s.complete a .ok [] data = (s.retire a.issuer a.tag).wake t := by
    unfold State.complete
    simp only [issuer, purpose]
    rw [if_pos (.inr trivial)]
  rw [completes]
  have woken := State.wake_woken (s.retire a.issuer a.tag) t
  refine ⟨woken.freed (State.retire_mem ..) (s.retire_freed a.issuer a.tag), ?_⟩
  rw [woken.task, State.retire_tile]

/-- A store that is not ends its task with BUS_ERROR at its pc and address. -/
theorem State.complete_store_failed (issuer : a.issuer = .tile t) {pc va : DWord} (purpose : a.purpose = .store thr pc va) (kept : a.dropped = false)
    (bad : st ≠ .ok) {k : Task} (inTask : (s.tile t).firmware = false) (task : (s.tile t).task = some k) (goes : k.phase ≠ .ending) :
    ∃ e, ((s.complete a st [] data).tile t).task = some e ∧ e.phase = .ending ∧ e.code = 6 ∧
      e.fThread = thr % 8 ∧ e.fUnit = 6 ∧ e.fPc = pc.setWidth 16 ∧ e.fAddr = va := by
  have completes : s.complete a st [] data = ((s.retire a.issuer a.tag).faultEnd t 6 thr 6 pc va).wake t := by
    unfold State.complete
    simp only [issuer, purpose]
    rw [if_neg (by simp [kept, bad])]
  rw [completes, (State.wake_woken _ t).task]
  have same := s.retire_tile a.issuer a.tag t
  exact State.faultEnd_busError ((congrArg Tile.firmware same).trans inTask) ((congrArg Tile.task same).trans task) goes ..
end

/-! #### Multicast acknowledgements (R373) -/

/-- The access that a change of the first match leaves. -/
theorem find?_modifyFirst {α : Type} {q : α → Bool} {f : α → α} {x : α} (keeps : ∀ y, q y = true → q (f y) = true) :
    ∀ {l : List α}, l.find? q = some x → (modifyFirst q f l).find? q = some (f x)
  | y :: l, found => by
    unfold modifyFirst
    cases here : q y with
    | true =>
      rw [List.find?_cons_of_pos here] at found
      cases found
      rw [if_pos rfl, List.find?_cons_of_pos (keeps _ here)]
    | false =>
      rw [List.find?_cons_of_neg (by simp [here])] at found
      rw [if_neg Bool.false_ne_true, List.find?_cons_of_neg (by simp [here])]
      exact find?_modifyFirst keeps found

section
variable (a : Access) (u : Nat) (st : Status)

/-- A delivered copy counts; the rest of the record of refusals stays. -/
theorem Access.mcAck_ok : a.mcAck u .ok = { a with mcDue := a.mcDue - 1, mcOk := a.mcOk + 1 } := rfl

/-- A refused copy leaves the lowest refusing tile and its status. -/
theorem Access.mcAck_refused {st : Status} (bad : st ≠ .ok) : ∃ v c, a.mcAck u st = { a with mcDue := a.mcDue - 1, mcRefused := some (v, c) } ∧ v ≤ u ∧
    ∀ w d, a.mcRefused = some (w, d) → v ≤ w := by
  unfold Access.mcAck
  dsimp only
  rw [if_neg bad]
  cases before : a.mcRefused with
  | none => exact ⟨u, st, rfl, le_rfl, nofun⟩
  | some r =>
    obtain ⟨w, d⟩ := r
    by_cases lower : u < w
    · refine ⟨u, st, ?_, le_rfl, ?_⟩
      · simp only [if_pos lower]
      · rintro _ _ ⟨⟩
        exact lower.le
    · refine ⟨w, d, ?_, Nat.not_lt.mp lower, ?_⟩
      · simp only [if_neg lower]
      · rintro _ _ ⟨⟩
        exact le_rfl

theorem Access.mcAck_frame : ∃ ok refused, a.mcAck u st = { a with mcDue := a.mcDue - 1, mcOk := ok, mcRefused := refused } := by
  by_cases good : st = .ok
  · rw [good, Access.mcAck_ok]
    exact ⟨_, _, rfl⟩
  · obtain ⟨v, c, refused, -⟩ := a.mcAck_refused u good
    rw [refused]
    exact ⟨_, _, rfl⟩
end

section
variable {s : State} {id : Nat} {p : Packet} {a : Access}

/-- The access that a packet answers has the packet's issuer and tag. -/
theorem State.access_found {i : Issuer} {tag : Nat} (waits : s.access i tag = some a) : a.issuer = i ∧ a.tag = tag := by
  have found := List.find?_some waits
  simpa using found

/-- A multicast that waits for more acknowledgements counts this one. -/
theorem mcastAck_runs (arrived : s.arrived id .mcastAck = some p) (msg : p.msg = .none) (waits : s.access p.issuer p.tag = some a) (uid : a.uid = p.uid)
    (live : s.lateAnswer a = false) (more : 2 ≤ a.mcDue) :
    ∃ s', exec (.mcastAck id) s = .next s' ∧ s'.mem = s.mem ∧ s'.access a.issuer a.tag = some (a.mcAck p.src.router p.status) := by
  obtain ⟨ok, refused, frame⟩ := a.mcAck_frame p.src.router p.status
  obtain ⟨issuer, tag⟩ := State.access_found waits
  refine ⟨(s.dropPkt id).updAccess a.issuer a.tag (fun _ => a.mcAck p.src.router p.status), ?_, rfl, ?_⟩
  · rw [exec_mcastAck, execMcastAck, State.answered_live arrived msg waits uid live]
    dsimp only
    rw [if_neg (by rw [frame]; dsimp only; omega)]
  · refine find?_modifyFirst (f := fun _ => a.mcAck p.src.router p.status) (fun _ _ => ?_) (x := a) ?_
    · rw [frame]
      simp
    · rw [issuer, tag]
      exact waits
end

/-- Settles O37: each answer runs into the end of its access, or is discarded. -/
theorem answersEndTheirAccess : Obligations.AnswersEndTheirAccess := by
  unfold Obligations.AnswersEndTheirAccess
  intro s a t k live answer freed
  refine ⟨fun issuer first kept task running inTask => ⟨fun thr m purpose miss => ?miss, fun thr pc va id p purpose arrives => ?store⟩,
    fun id p arrives more => ?mcast, fun id op p arrived msg ended => ?ended⟩
  case miss =>
    intro holds
    have held (u : State) (same : u = { s with net := u.net }) (st : Status) (data : List Byte) : holds (u.complete a st [] data) st data := by
      obtain ⟨⟨mem, free⟩, answered, task'⟩ := State.complete_miss (s := u) (st := st) (data := data) issuer purpose kept (m := m) (by rw [same]; exact miss)
      exact ⟨⟨mem.trans (by rw [same]), free⟩, answered, task'.trans (by rw [same]; exact task)⟩
    refine ⟨fun id p arrives => ⟨_, ?_, held (s.dropPkt id) rfl _ _⟩, fun id p arrives => ⟨_, ?_, held (s.dropPkt id) rfl _ _⟩,
      fun i here sent read => ⟨_, ?_, held s rfl _ _⟩⟩
    · obtain ⟨arrived, msg, intact, waits, uid⟩ := arrives
      rw [exec_readRsp, execReadRsp, State.answered_live arrived msg waits uid live]
      simp [intact, first]
    · obtain ⟨arrived, msg, intact, waits, uid⟩ := arrives
      rw [exec_atomicRsp, execAtomicRsp, State.answered_live arrived msg waits uid live]
      simp [intact]
    · rw [exec_accessTimeout, execAccessTimeout, here]
      simp [sent, live, read]
  case store =>
    obtain ⟨arrived, msg, -, waits, uid⟩ := arrives
    have runs : exec (.writeAck id) s = .next ((s.dropPkt id).complete a p.status [] []) := by
      rw [exec_writeAck, execWriteAck, State.answered_live arrived msg waits uid live]
    refine ⟨fun good => ?_, fun bad => ?_⟩
    · rw [good] at runs
      obtain ⟨⟨mem, free⟩, task'⟩ := State.complete_store_ok (s := s.dropPkt id) (data := []) issuer purpose
      exact ⟨_, runs, ⟨mem, free⟩, task'.trans task⟩
    · exact ⟨_, runs, State.complete_store_failed (s := s.dropPkt id) issuer purpose kept bad inTask task (by simp [running])⟩
  case mcast =>
    obtain ⟨arrived, msg, -, waits, uid⟩ := arrives
    obtain ⟨s', runs, mem, stands⟩ := mcastAck_runs arrived msg waits uid live more
    refine ⟨s', runs, mem, _, stands, ?_, fun good => ?_, fun bad => ?_⟩
    · obtain ⟨ok, refused, frame⟩ := a.mcAck_frame p.src.router p.status
      rw [frame]
    · rw [good, Access.mcAck_ok]
      exact ⟨rfl, rfl⟩
    · obtain ⟨v, c, refused, lowest, before⟩ := a.mcAck_refused p.src.router bad
      rw [refused]
      exact ⟨rfl, v, c, rfl, lowest, before⟩
  case ended =>
    have discards (go : Access → Packet → State → State) : s.answered id op go = s.dropPkt id := State.answered_ended arrived msg ended
    refine ⟨?_, ?_, ?_, ?_⟩
    · rintro rfl
      rw [exec_readRsp, execReadRsp, discards]
    · rintro rfl
      rw [exec_writeAck, execWriteAck, discards]
    · rintro rfl
      rw [exec_atomicRsp, execAtomicRsp, discards]
    · rintro rfl
      rw [exec_mcastAck, execMcastAck, discards]

end Sys2Proof.Machine

namespace Sys2Proof.Machine

/-! ### A tile's slots (R269, R271) -/

section
variable (s : State) (t k : Nat)

@[simp] theorem State.slot_updSlot_same (f : Slot → Slot) : (s.updSlot t k f).slot t k = f (s.slot t k) := by
  rw [State.slot, State.updSlot, State.tile_updTile_same]
  exact smGetD_smSet_same ..

/-- A state with the slots of another has each of its slots. -/
theorem State.slot_congr {s s' : State} {t : Nat} (slots : (s'.tile t).str.slots = (s.tile t).str.slots) (k : Nat) : s'.slot t k = s.slot t k :=
  congrArg (fun m => smGetD m k ({} : Slot)) slots

theorem State.slot_updTile (f : Tile → Tile) (kept : ∀ x, (f x).str.slots = x.str.slots) : (s.updTile t f).slot t k = s.slot t k :=
  State.slot_congr (by rw [State.tile_updTile_same, kept]) k

@[simp] theorem State.slot_updThread (thr : Nat) (f : Thread → Thread) : (s.updThread t thr f).slot t k = s.slot t k :=
  s.slot_updTile t k _ (fun _ => rfl)

@[simp] theorem State.slot_setG (thr r : Nat) (v : DWord) : (s.setG t thr r v).slot t k = s.slot t k := s.slot_updThread ..

@[simp] theorem State.thread_updSlot (u j : Nat) (f : Slot → Slot) : (s.updSlot t k f).thread u j = s.thread u j := by
  by_cases own : u = t
  · subst own
    rw [State.thread, State.updSlot, State.tile_updTile_same]
    rfl
  · rw [State.thread, State.updSlot, State.tile_updTile_ne _ _ _ _ own]
    rfl

/-! #### The counters of the stream engine and of Winnow (R318, R352) -/

theorem State.strCtr_counts (off n : Nat) : ∃ funcs host hostMem health, s.strCtr t off n =
    ({ s with funcs, host, hostMem, health } : State).updTile t (fun x => { x with str := { x.str with ctr := ctrAdd x.str.ctr off n } }) := by
  have counts (src : Nat) : ∃ funcs host hostMem health, (s.evAdd t src n).updTile t (fun x => { x with str := { x.str with ctr := ctrAdd x.str.ctr off n } }) =
      ({ s with funcs, host, hostMem, health } : State).updTile t (fun x => { x with str := { x.str with ctr := ctrAdd x.str.ctr off n } }) := by
    obtain ⟨_, _, _, _, frame⟩ := s.evAdd_frame t src n
    exact ⟨_, _, _, _, by rw [frame]⟩
  unfold State.strCtr
  split
  case h_7 => exact ⟨_, _, _, _, rfl⟩
  all_goals exact counts _

theorem State.winCtr_counts (off n : Nat) : ∃ funcs host hostMem health, s.winCtr t off n =
    ({ s with funcs, host, hostMem, health } : State).updTile t (fun x => { x with win := { x.win with ctr := ctrAdd x.win.ctr off n } }) := by
  have counts (src : Nat) : ∃ funcs host hostMem health, (s.evAdd t src n).updTile t (fun x => { x with win := { x.win with ctr := ctrAdd x.win.ctr off n } }) =
      ({ s with funcs, host, hostMem, health } : State).updTile t (fun x => { x with win := { x.win with ctr := ctrAdd x.win.ctr off n } }) := by
    obtain ⟨_, _, _, _, frame⟩ := s.evAdd_frame t src n
    exact ⟨_, _, _, _, by rw [frame]⟩
  unfold State.winCtr
  split
  case h_3 => exact ⟨_, _, _, _, rfl⟩
  all_goals exact counts _

/-- What a counter of tile t's engines leaves of the tile. -/
theorem State.tile_strCtr (off n : Nat) : (s.strCtr t off n).tile t =
    { s.tile t with str := { (s.tile t).str with ctr := ctrAdd (s.tile t).str.ctr off n } } := by
  obtain ⟨_, _, _, _, counts⟩ := s.strCtr_counts t off n
  rw [counts, State.tile_updTile_same]
  rfl

theorem State.tile_winCtr (off n : Nat) : (s.winCtr t off n).tile t =
    { s.tile t with win := { (s.tile t).win with ctr := ctrAdd (s.tile t).win.ctr off n } } := by
  obtain ⟨_, _, _, _, counts⟩ := s.winCtr_counts t off n
  rw [counts, State.tile_updTile_same]
  rfl

@[simp] theorem State.slot_strCtr (off n : Nat) : (s.strCtr t off n).slot t k = s.slot t k :=
  State.slot_congr (by rw [State.tile_strCtr]) k
@[simp] theorem State.slot_winCtr (off n : Nat) : (s.winCtr t off n).slot t k = s.slot t k :=
  State.slot_congr (by rw [State.tile_winCtr]) k
@[simp] theorem State.thread_strCtr (off n : Nat) : (s.strCtr t off n).thread t k = s.thread t k := by
  rw [State.thread, State.tile_strCtr]
  rfl
@[simp] theorem State.thread_winCtr (off n : Nat) : (s.winCtr t off n).thread t k = s.thread t k := by
  rw [State.thread, State.tile_winCtr]
  rfl
@[simp] theorem State.slot_seqCtrAdd (off n : Nat) : (s.seqCtrAdd t off n).slot t k = s.slot t k :=
  State.slot_congr (by rw [State.seqCtrAdd_tile_same]) k

/-- Beside its tile a counter moves what an event that it posts writes. -/
theorem State.strCtr_leaves (off n : Nat) : (s.strCtr t off n).mem = s.mem ∧ (s.strCtr t off n).net = s.net ∧
    (s.strCtr t off n).accesses = s.accesses ∧ ∀ u, u ≠ t → (s.strCtr t off n).tile u = s.tile u := by
  obtain ⟨_, _, _, _, counts⟩ := s.strCtr_counts t off n
  rw [counts]
  exact ⟨rfl, rfl, rfl, fun u other => State.tile_updTile_ne _ _ _ _ other⟩

theorem State.winCtr_leaves (off n : Nat) : (s.winCtr t off n).mem = s.mem ∧ (s.winCtr t off n).net = s.net ∧
    (s.winCtr t off n).accesses = s.accesses ∧ ∀ u, u ≠ t → (s.winCtr t off n).tile u = s.tile u := by
  obtain ⟨_, _, _, _, counts⟩ := s.winCtr_counts t off n
  rw [counts]
  exact ⟨rfl, rfl, rfl, fun u other => State.tile_updTile_ne _ _ _ _ other⟩

@[simp] theorem State.slot_wake : (s.wake t).slot t k = s.slot t k :=
  State.slot_congr (by rw [(s.wake_woken t).tile]) k
end

/-! #### The halves of a slot (R278) -/

section
variable (x : Slot) (i j : Nat)

@[simp] theorem Slot.half_setHalf_same (h : Half) : (x.setHalf i h).half i = h := by
  unfold Slot.half Slot.setHalf
  split <;> rfl

theorem Slot.half_setHalf_ne (h : Half) (other : i % 2 ≠ j % 2) : (x.setHalf i h).half j = x.half j := by
  unfold Slot.half Slot.setHalf
  by_cases even : i % 2 = 0
  · rw [if_pos even, if_neg (by omega), if_neg (by omega)]
  · rw [if_neg even, if_pos (by omega), if_pos (by omega)]

theorem Slot.half_congr (same : i % 2 = j % 2) : x.half i = x.half j := by
  unfold Slot.half
  rw [same]

@[simp] theorem Slot.half_updHalf_same (f : Half → Half) : (x.updHalf i f).half i = f (x.half i) := x.half_setHalf_same ..

/-- What a change of a half leaves of its slot. -/
theorem Slot.updHalf_frame (f : Half → Half) : ∃ h0 h1, x.updHalf i f = { x with h0, h1 } := by
  unfold Slot.updHalf Slot.setHalf
  split
  · exact ⟨_, x.h1, rfl⟩
  · exact ⟨x.h0, _, rfl⟩

/-- Both halves belong to the engine only if each does. -/
theorem Slot.half_engine (both : x.h0.st = .engine ∧ x.h1.st = .engine) : (x.half i).st = .engine := by
  unfold Slot.half
  split
  · exact both.1
  · exact both.2
end

/-! ### Work inside a tile -/

/-- Work of tile t: memory, the tiles beside it and its task stand as before. As with `TaskStands`, each operation has one lemma, and a
chain of operations is a chain of lemmas. -/
structure InTile (t : Nat) (s s' : State) : Prop where
  mem : s'.mem = s.mem
  tiles : ∀ u, u ≠ t → s'.tile u = s.tile u
  task : (s'.tile t).task = (s.tile t).task

theorem InTile.refl (t : Nat) (s : State) : InTile t s s := ⟨rfl, fun _ _ => rfl, rfl⟩

section
variable {t : Nat} {s₀ s s' : State}

theorem InTile.trans (h : InTile t s₀ s) (h' : InTile t s s') : InTile t s₀ s' :=
  ⟨h'.mem.trans h.mem, fun u other => (h'.tiles u other).trans (h.tiles u other), h'.task.trans h.task⟩

theorem InTile.same (h : InTile t s₀ s) (mem : s'.mem = s.mem) (tiles : s'.tiles = s.tiles) : InTile t s₀ s' := by
  have tile (u : Nat) : s'.tile u = s.tile u := congrArg (fun m => smGetD m u ({} : Tile)) tiles
  exact h.trans ⟨mem, fun u _ => tile u, congrArg Tile.task (tile t)⟩

theorem InTile.ite {c : Prop} [Decidable c] (h : InTile t s₀ s) (h' : InTile t s₀ s') : InTile t s₀ (if c then s else s') := by
  split
  · exact h
  · exact h'

theorem InTile.foldl {α : Type} {g : State → α → State} (l : List α) (h : InTile t s₀ s)
    (hg : ∀ s x, InTile t s₀ s → InTile t s₀ (g s x)) : InTile t s₀ (l.foldl g s) :=
  List.foldlRecOn l g h (fun s h x _ => hg s x h)
end

section
variable {t : Nat} {s₀ s : State} (h : InTile t s₀ s)
include h

theorem InTile.updTile (f : Tile → Tile) (hf : ∀ x, (f x).task = x.task := by intro x; rfl) : InTile t s₀ (s.updTile t f) :=
  h.trans ⟨rfl, fun u other => State.tile_updTile_ne _ _ _ _ other, by rw [State.tile_updTile_same, hf]⟩

theorem InTile.updSlot (k : Nat) (f : Slot → Slot) : InTile t s₀ (s.updSlot t k f) := h.updTile _
theorem InTile.updThread (k : Nat) (f : Thread → Thread) : InTile t s₀ (s.updThread t k f) := h.updTile _
theorem InTile.setG (k r : Nat) (v : DWord) : InTile t s₀ (s.setG t k r v) := h.updThread ..
theorem InTile.inject (p : Packet) : InTile t s₀ (s.inject p) := h.same rfl rfl
theorem InTile.dropPkt (id : Nat) : InTile t s₀ (s.dropPkt id) := h.same rfl rfl
theorem InTile.free (w : Nat) : InTile t s₀ (s.free w).2 := h.same rfl rfl
theorem InTile.withAccesses (accesses : List Access) : InTile t s₀ { s with accesses } := h.same rfl rfl
theorem InTile.dropSlotReads (k : Nat) (p : Access → Bool) : InTile t s₀ (s.dropSlotReads t k p) := h.same rfl rfl
theorem InTile.sendToken (k : Nat) (token : Token) : InTile t s₀ (s.sendToken t k token) := h.inject _
theorem InTile.sendCredit (k n : Nat) : InTile t s₀ (s.sendCredit t k n) := h.inject _

theorem InTile.strCtr (off n : Nat) : InTile t s₀ (s.strCtr t off n) := by
  obtain ⟨mem, -, -, tiles⟩ := s.strCtr_leaves t off n
  exact h.trans ⟨mem, tiles, by rw [State.tile_strCtr]⟩

theorem InTile.winCtr (off n : Nat) : InTile t s₀ (s.winCtr t off n) := by
  obtain ⟨mem, -, -, tiles⟩ := s.winCtr_leaves t off n
  exact h.trans ⟨mem, tiles, by rw [State.tile_winCtr]⟩

theorem InTile.wake : InTile t s₀ (s.wake t) := by
  have woken := s.wake_woken t
  exact h.trans ⟨by rw [woken.state], woken.tiles, woken.task⟩

theorem InTile.dropHeld (k : Nat) : InTile t s₀ (s.dropHeld t k) := by
  unfold State.dropHeld
  refine ((InTile.ite ?_ ?_).updSlot ..).winCtr ..
  · exact (InTile.ite (h.inject _) h).inject _
  · exact InTile.ite (h.inject _) h

theorem InTile.redirect (thr : Nat) : InTile t s₀ (s.redirect t thr) := by
  unfold State.redirect
  dsimp only
  split
  · exact h
  · exact ((h.withAccesses _).updThread ..).winCtr ..

theorem InTile.squashTaint (slot half : Nat) : InTile t s₀ (s.squashTaint t slot half) := by
  refine h.foldl _ (fun s k h => ?_)
  split
  · split
    · exact h.updThread ..
    · exact h.redirect k
  · exact h

theorem InTile.discardHeld (k : Nat) : InTile t s₀ (s.discardHeld t k) := by
  unfold State.discardHeld
  have first := InTile.ite (c := (s.slot t k).h0.held = true) ((h.dropHeld k).squashTaint k 0) (h.dropHeld k)
  exact .ite (first.squashTaint k 1) first
end

/-! ### Threads that wait for a half (R285, R287) -/

/-- The slot after an SWAITB: it may have taken a half, and it has other waiters. -/
def Slot.Served (x y : Slot) : Prop := ∃ h0 h1 takeHalf waiters, y = { x with h0, h1, takeHalf, waiters }

theorem Slot.Served.refl (x : Slot) : x.Served x := ⟨_, _, _, _, rfl⟩

theorem Slot.Served.trans {x y z : Slot} (first : x.Served y) (second : y.Served z) : x.Served z := by
  obtain ⟨_, _, _, _, rfl⟩ := first
  obtain ⟨_, _, _, _, rfl⟩ := second
  exact ⟨_, _, _, _, rfl⟩

theorem Slot.take_served {x y : Slot} {w : DWord} (takes : x.take = some (w, y)) : x.Served y := by
  have taken : x.Served { x.updHalf x.takeHalf (fun h => { h with st := .taken }) with takeHalf := (x.takeHalf + 1) % 2 } := by
    obtain ⟨_, _, half⟩ := x.updHalf_frame x.takeHalf (fun h => { h with st := .taken })
    rw [half]
    exact ⟨_, _, _, _, rfl⟩
  unfold Slot.take at takes
  grind [Slot.Served.refl]

section
variable {s : State} {t k : Nat}

theorem State.serveWaiters_none (unwaited : (s.slot t k).waiters = []) (late n : Nat) : s.serveWaiters t k late n = s := by
  cases n with
  | zero => rfl
  | succ n => rw [State.serveWaiters, unwaited]

theorem State.serve_none (unwaited : (s.slot t k).waiters = []) : s.serve t k = s.wake t := by
  rw [State.serve, unwaited]
  rfl

/-- Where the first waiter gets its half, serving goes on with the others. -/
theorem State.serveWaiters_first {thr gd : Nat} {ws : List (Nat × Nat)} {w : DWord} {y : Slot} (waiters : (s.slot t k).waiters = (thr, gd) :: ws)
    (takes : (s.slot t k).take = some (w, y)) (late n : Nat) : ∃ s', InTile t s s' ∧ s'.slot t k = { y with waiters := ws } ∧
      s.serveWaiters t k late (n + 1) = s'.serveWaiters t k late n := by
  rw [State.serveWaiters, waiters]
  dsimp only
  rw [takes]
  dsimp only
  have served := (((InTile.refl t s).updSlot k (fun _ => { y with waiters := ws })).setG thr gd w).updThread thr
  split
  · exact ⟨_, ((served _).strCtr 0x108 1).strCtr 0x110 late, by simp, rfl⟩
  · exact ⟨_, served _, by simp, rfl⟩

/-- Serving waiters is work inside the tile, and of its slot it changes what `Slot.Served` names. -/
theorem State.serveWaiters_spec (late n : Nat) : InTile t s (s.serveWaiters t k late n) ∧ (s.slot t k).Served ((s.serveWaiters t k late n).slot t k) := by
  induction n generalizing s with
  | zero => exact ⟨.refl t s, .refl _⟩
  | succ n ih =>
    cases waiters : (s.slot t k).waiters with
    | nil =>
      rw [State.serveWaiters_none waiters]
      exact ⟨.refl t s, .refl _⟩
    | cons first ws =>
      obtain ⟨thr, gd⟩ := first
      cases takes : (s.slot t k).take with
      | none =>
        rw [State.serveWaiters, waiters]
        dsimp only
        rw [takes]
        exact ⟨.refl t s, .refl _⟩
      | some taken =>
        obtain ⟨w, y⟩ := taken
        obtain ⟨s', inside, slot, goes⟩ := State.serveWaiters_first waiters takes late n
        obtain ⟨inside', served⟩ := ih (s := s')
        rw [goes]
        refine ⟨inside.trans inside', Slot.Served.trans ?_ (slot ▸ served)⟩
        obtain ⟨_, _, _, _, rfl⟩ := Slot.take_served takes
        exact ⟨_, _, _, _, rfl⟩

theorem State.serve_spec : InTile t s (s.serve t k) ∧ (s.slot t k).Served ((s.serve t k).slot t k) := by
  unfold State.serve
  split
  · exact ⟨(InTile.refl t s).wake, by rw [State.slot_wake]; exact .refl _⟩
  · obtain ⟨inside, served⟩ := State.serveWaiters_spec (s := (s.free 32).2) (t := t) (k := k) (s.free 32).1.toNat 8
    exact ⟨(((InTile.refl t s).free 32).trans inside).wake, by rw [State.slot_wake]; exact served⟩
end

end Sys2Proof.Machine

namespace Sys2Proof.Machine

/-! ### The end of a use (R271, R293) -/

section
variable {s : State} {t k : Nat}

/-- An input that still holds a half which has been delivered goes on. -/
theorem State.finishUse_delivered {i : Nat} (input : (s.slot t k).isInput = true) (held : ((s.slot t k).half i).st ≠ .engine) : s.finishUse t k = s := by
  unfold State.finishUse
  dsimp only
  split
  · rfl
  · exact if_neg (fun ⟨_, both⟩ => held ((s.slot t k).half_engine i both))

/-- An input that has elements to deliver goes on. -/
theorem State.finishUse_left (input : (s.slot t k).isInput = true) (left : (s.slot t k).nextDel < (s.slot t k).d.total) : s.finishUse t k = s := by
  unfold State.finishUse
  dsimp only
  split
  · rfl
  · exact if_neg (fun ⟨all, _⟩ => absurd left (Nat.not_lt.mpr all))

/-- The end of a use is work inside the tile, and leaves no fault that the use did not hold. -/
theorem State.finishUse_spec : InTile t s (s.finishUse t k) ∧ ((s.slot t k).faults = [] → ((s.finishUse t k).slot t k).faults = []) := by
  have ends (token : Token) (linked : Prop) [Decidable linked] :
      let u := (if linked then s.sendToken t k token else s).updSlot t k
        (fun x => if x.d.persistent then { x with st := .done } else { x.idled with waiters := x.waiters })
      InTile t s (u.serve t k) ∧ ((s.slot t k).faults = [] → ((u.serve t k).slot t k).faults = []) := by
    intro u
    obtain ⟨inside, _, _, _, _, served⟩ := State.serve_spec (s := u) (t := t) (k := k)
    refine ⟨(InTile.updSlot (.ite ((InTile.refl t s).sendToken ..) (.refl t s)) ..).trans inside, fun sound => ?_⟩
    have same : (if linked then s.sendToken t k token else s).slot t k = s.slot t k := by
      split <;> rfl
    rw [served, State.slot_updSlot_same, same]
    dsimp only
    split
    · exact sound
    · rfl
  have goes : InTile t s s ∧ ((s.slot t k).faults = [] → (s.slot t k).faults = []) := ⟨.refl t s, id⟩
  unfold State.finishUse
  dsimp only
  split
  · exact goes
  · split
    · split
      · exact ends .close _
      · exact goes
    · split
      · exact ends .fin _
      · exact goes

/-- A linked slot that closes is Closed and failed, whatever its waiters get. -/
theorem State.closeSlot_spec (active : (s.slot t k).st = .active) (linked : (s.slot t k).linked = true) : InTile t s (s.closeSlot t k) ∧
    ((s.closeSlot t k).slot t k).st = .closed ∧ ((s.closeSlot t k).slot t k).failed = true := by
  unfold State.closeSlot
  dsimp only
  rw [if_neg (by simp [active, linked])]
  let u := if (s.slot t k).d.dir = 3 then ((s.strCtr t 0x118 (s.slot t k).heldHalves).discardHeld t k).sendToken t k .close else s
  let v := u.updSlot t k (fun x => { x.dropUnsent with st := .closed, failed := true })
  have inside : InTile t s v := (InTile.ite ((((InTile.refl t s).strCtr ..).discardHeld _).sendToken ..) (.refl t s)).updSlot ..
  obtain ⟨inside', _, _, _, _, served⟩ := State.serve_spec (s := v) (t := t) (k := k)
  refine ⟨inside.trans inside', ?_⟩
  rw [served, State.slot_updSlot_same]
  exact ⟨rfl, rfl⟩
end

/-! ### Delivery (R279, R298) -/

section
variable {s : State} {t k i : Nat}

/-- A slot with half i delivered. -/
def Slot.readied (x : Slot) (i : Nat) : Slot :=
  { x.updHalf i (fun h => { h with st := .ready }) with
    nextDel := min x.d.total (((x.half i).group + 1) * x.d.perHalf), delivered := x.delivered + 1 }

theorem Slot.readied_frame (x : Slot) (i : Nat) : ∃ h0 h1 nextDel, x.readied i = { x with h0, h1, nextDel, delivered := x.delivered + 1 } := by
  obtain ⟨_, _, half⟩ := x.updHalf_frame i (fun h => { h with st := .ready })
  unfold Slot.readied
  rw [half]
  exact ⟨_, _, _, rfl⟩

theorem Slot.half_readied_same (x : Slot) (i : Nat) : ((x.readied i).half i).st = .ready := congrArg Half.st (x.half_updHalf_same ..)

theorem Slot.half_readied (x : Slot) {i j : Nat} (ready : (x.half j).st = .ready) : ((x.readied i).half j).st = .ready := by
  by_cases same : i % 2 = j % 2
  · rw [(x.readied i).half_congr j i same.symm]
    exact x.half_readied_same i
  · exact (congrArg Half.st (x.half_setHalf_ne i j _ same)).trans ready

theorem Slot.groupFault_none {x : Slot} (sound : x.faults = []) (g : Nat) : x.groupFault g = none := by
  rw [Slot.groupFault, sound]
  rfl

/-- What delivers a half: its data has come, clean, for an Active slot of a running task. -/
structure Due (s : State) (t k i : Nat) : Prop where
  active : (s.slot t k).st = .active
  running : (s.tile t).task.any (fun k => k.phase == .running) = true
  due : (s.slot t k).dueHalf = some i
  arrived : ((s.slot t k).half i).bytes ≤ ((s.slot t k).half i).count
  free : ((s.slot t k).half i).held = false

/-- A half that is due becomes Ready, waiters are served, and the next one may follow. -/
theorem Due.delivers (due : Due s t k i) (sound : (s.slot t k).groupFault ((s.slot t k).half i).group = none) (late n : Nat) : s.deliver t k late (n + 1) =
    ((((s.updSlot t k (fun x => x.readied i)).serveWaiters t k late 8).finishUse t k).deliver t k late n) := by
  rw [State.deliver]
  dsimp only
  rw [if_neg (by simp [due.active, due.running]), due.due]
  dsimp only
  rw [if_neg (by simp [due.arrived, due.free]), sound]
  rfl

/-- The lowest fault of a half that is due ends the task. -/
theorem Due.faults (due : Due s t k i) {f : SlotFault} (fault : (s.slot t k).groupFault ((s.slot t k).half i).group = some f) (late n : Nat) :
    s.deliver t k late (n + 1) = s.streamFault t k f.code f.cause f.elem f.addr := by
  rw [State.deliver]
  dsimp only
  rw [if_neg (by simp [due.active, due.running]), due.due]
  dsimp only
  rw [if_neg (by simp [due.arrived, due.free]), fault]

/-- Delivery does nothing, or has a half that is due. -/
theorem State.deliver_cases (s : State) (t k late n : Nat) : s.deliver t k late (n + 1) = s ∨ ∃ i, Due s t k i := by
  rw [State.deliver]
  dsimp only
  by_cases stays : (s.slot t k).st ≠ .active ∨ (!(s.tile t).task.any (fun k => k.phase == .running)) = true
  · exact .inl (if_pos stays)
  · rw [if_neg stays]
    obtain ⟨active, running⟩ := not_or.mp stays
    cases due : (s.slot t k).dueHalf with
    | none => exact .inl rfl
    | some i =>
      dsimp only
      by_cases waits : ((s.slot t k).half i).count < ((s.slot t k).half i).bytes ∨ ((s.slot t k).half i).held = true
      · exact .inl (if_pos waits)
      · obtain ⟨arrived, free⟩ := not_or.mp waits
        exact .inr ⟨i, not_not.mp active, by simpa using running, due, Nat.not_lt.mp arrived, by simpa using free⟩

/-- Delivery to a slot that holds no fault is work inside the tile. -/
theorem State.deliver_inTile (sound : (s.slot t k).faults = []) (late n : Nat) : InTile t s (s.deliver t k late n) := by
  induction n generalizing s with
  | zero => exact .refl t s
  | succ n ih =>
    rcases s.deliver_cases t k late n with same | ⟨i, due⟩
    · rw [same]
      exact .refl t s
    · rw [due.delivers (Slot.groupFault_none sound _)]
      let v := (s.updSlot t k (fun x => x.readied i)).serveWaiters t k late 8
      obtain ⟨inside, _, _, _, _, served⟩ := State.serveWaiters_spec (s := s.updSlot t k (fun x => x.readied i)) (t := t) (k := k) late 8
      obtain ⟨finishes, stays⟩ := State.finishUse_spec (s := v) (t := t) (k := k)
      have clean : (v.slot t k).faults = [] := by
        obtain ⟨_, _, _, readied⟩ := (s.slot t k).readied_frame i
        rw [served, State.slot_updSlot_same, readied]
        exact sound
      exact (((((InTile.refl t s).updSlot ..).trans inside).trans finishes).trans (ih (stays clean)))

/-- Where no thread waits, a half that is delivered stays Ready, and the slot goes on. -/
theorem Due.quiet (due : Due s t k i) (sound : (s.slot t k).groupFault ((s.slot t k).half i).group = none) (input : (s.slot t k).isInput = true)
    (unwaited : (s.slot t k).waiters = []) (late n : Nat) : s.deliver t k late (n + 1) = (s.updSlot t k (fun x => x.readied i)).deliver t k late n := by
  obtain ⟨_, _, _, readied⟩ := (s.slot t k).readied_frame i
  rw [due.delivers sound, State.serveWaiters_none (by rw [State.slot_updSlot_same, readied]; exact unwaited), State.finishUse_delivered (i := i)]
  · rw [State.slot_updSlot_same, readied]
    exact input
  · rw [State.slot_updSlot_same, Slot.half_readied_same]
    decide

/-- Where no thread waits and nothing is faulty, delivery changes its tile alone: halves that are Ready stay so, and no delivery is lost. -/
theorem State.deliver_quiet (sound : (s.slot t k).faults = []) (input : (s.slot t k).isInput = true) (unwaited : (s.slot t k).waiters = []) (late n : Nat) :
    (∃ tiles, s.deliver t k late n = { s with tiles }) ∧ (s.slot t k).delivered ≤ ((s.deliver t k late n).slot t k).delivered ∧
    ∀ j, ((s.slot t k).half j).st = .ready → (((s.deliver t k late n).slot t k).half j).st = .ready := by
  induction n generalizing s with
  | zero => exact ⟨⟨s.tiles, rfl⟩, le_rfl, fun _ ready => ready⟩
  | succ n ih =>
    rcases s.deliver_cases t k late n with same | ⟨i, due⟩
    · rw [same]
      exact ⟨⟨s.tiles, rfl⟩, le_rfl, fun _ ready => ready⟩
    · rw [due.quiet (Slot.groupFault_none sound _) input unwaited]
      have slot := s.slot_updSlot_same t k (fun x => x.readied i)
      obtain ⟨_, _, _, readied⟩ := (s.slot t k).readied_frame i
      obtain ⟨⟨tiles, frame⟩, delivered, ready⟩ := ih (s := s.updSlot t k (fun x => x.readied i)) (by rw [slot, readied]; exact sound)
        (by rw [slot, readied]; exact input) (by rw [slot, readied]; exact unwaited)
      refine ⟨⟨tiles, frame⟩, le_trans ?_ delivered, fun j was => ready j ?_⟩
      · rw [slot, readied]
        exact Nat.le_succ _
      · rw [slot]
        exact Slot.half_readied _ was
end

end Sys2Proof.Machine

namespace Sys2Proof.Machine

/-! ### The words of stream instructions (R283) -/

/-- The word of a stream instruction: its opcode, the registers that it names, its slot and its fn bit. -/
def streamWord (op gd ga gb k fn : Nat) : Nat := op * 2 ^ 56 + gd * 2 ^ 51 + ga * 2 ^ 46 + gb * 2 ^ 41 + k * 2 ^ 36 + fn * 2 ^ 32

/-- The fields of a stream instruction's word with fn 0; its reserved bits are 0. -/
structure StreamFields (w op gd ga gb k : Nat) : Prop where
  op : opc w = op
  gd : sGd w = gd
  ga : sGa w = ga
  gb : sGb w = gb
  slot : strSlot w = k
  fn : strFn w = false
  high : bits w 35 33 = 0
  low : bits w 31 0 = 0

theorem streamWord_fields {op gd ga gb k : Nat} (hop : op < 256) (hgd : gd < 32) (hga : ga < 32) (hgb : gb < 32) (hk : k < 32) :
    StreamFields (streamWord op gd ga gb k 0) op gd ga gb k := by
  constructor
  case fn =>
    rw [strFn, bitN_eq, decide_eq_false_iff_not]
    simp only [streamWord]
    norm_num
    omega
  all_goals
    simp only [opc, sGd, sGa, sGb, strSlot, bits, streamWord]
    norm_num
    omega

section
variable {s s₁ : State} {t thr w op gd ga gb k : Nat} {c : Instr}

/-- The check of an encoding, said of the fields. -/
theorem StreamFields.enc (fields : StreamFields w op gd ga gb k) (useGd useGa useGb useFn : Bool) :
    strEnc useGd useGa useGb useFn w = ((useGd || gd == 0) && (useGa || ga == 0) && (useGb || gb == 0)) := by
  have hgd := fields.gd
  have hga := fields.ga
  have hgb := fields.gb
  simp only [sGd, sGa, sGb] at hgd hga hgb
  simp [strEnc, hgd, hga, hgb, fields.fn, fields.high, fields.low]

/-- A stream instruction at issue, well encoded, carries out its verdict. -/
theorem exec_stream {o : Nat} {enc : Nat → Bool} {run : Nat → State → Verdict} (issues : Issues s t thr w) (op : opc w = o)
    (runs : exec c s = .next (s.strInsn t thr o enc run)) (defined : definedOp o = true) (good : enc w = true) :
    exec c s = .next (s.settle t thr false (run w s)) := by
  rw [exec_at_issue issues op defined runs, if_pos good]

/-- A thread at issue waits for nothing. -/
theorem Issues.not_waits (issues : Issues s t thr w) : ¬ (s.thread t thr).waits := by
  have may := issues.may
  simp only [State.mayIssue, Bool.and_eq_true] at may
  obtain ⟨-, mode⟩ := may
  intro waits
  split at mode
  · rw [Bool.and_eq_true, beq_iff_eq, beq_iff_eq] at mode
    obtain ⟨rfl, st⟩ := mode
    rcases waits with h | h | h <;> exact absurd (st.symm.trans h) (by decide)
  · rw [Bool.and_eq_true, beq_iff_eq] at mode
    rcases waits with h | h | h <;> exact absurd (mode.2.symm.trans h) (by decide)

/-- Waking its tile's threads leaves a thread at issue. -/
theorem Issues.wake_thread (issues : Issues s t thr w) (same : s₁.thread t thr = s.thread t thr) : (s₁.wake t).thread t thr = s.thread t thr :=
  ((s₁.wake_woken t).others thr (by rw [same]; exact issues.not_waits)).trans same

/-- The thread goes on at its next instruction; memory and the other tiles stand as before. -/
def Onward (s s' : State) (t thr : Nat) : Prop :=
  s'.thread t thr = { s.thread t thr with pc := (s.thread t thr).pc + 8 } ∧ s'.mem = s.mem ∧ ∀ u, u ≠ t → s'.tile u = s.tile u

/-- An instruction that has worked inside its tile goes on. -/
theorem goesOn (clean : (s.thread t thr).taint = []) (settles : exec c s = .next (s.settle t thr false (.done s₁))) (inside : InTile t s s₁)
    (thread : s₁.thread t thr = s.thread t thr) (k : Nat) : ∃ s', exec c s = .next s' ∧ Onward s s' t thr ∧ s'.accesses = s₁.accesses ∧
      s'.net = s₁.net ∧ s'.slot t k = s₁.slot t k := by
  let v := s₁.updThread t thr (fun x => { x with pc := (s.thread t thr).pc + 8 })
  have frame := v.seqCtrAdd_state t 0x100 1
  refine ⟨_, settles.trans (congrArg Host.Outcome.next (s.settle_done clean)), ⟨?_, ?_, fun u other => ?_⟩, ?_, ?_, ?_⟩
  · rw [State.seqCtrAdd_thread, State.thread_updThread_same, thread]
  · rw [frame]
    exact inside.mem
  · rw [State.seqCtrAdd_tile_ne _ _ _ _ _ other, State.tile_updThread_ne _ _ _ _ _ other, inside.tiles u other]
  · rw [frame]
    rfl
  · rw [frame]
    rfl
  · rw [State.slot_seqCtrAdd, State.slot_updThread]
end

/-! ### Uses of a slot (R277, R278, R288, R289) -/

section
variable (x : Slot) (d : Desc) (g : Nat) (n : Word)

/-- A slot that fills its halves anew: the halves change, and the group that is next. -/
def Slot.Refilled (x y : Slot) : Prop := ∃ h0 h1 nextGroup, y = { x with h0, h1, nextGroup }

theorem Slot.Refilled.setHalf {x y : Slot} (h : x.Refilled y) (i : Nat) (half : Half) : x.Refilled (y.setHalf i half) := by
  obtain ⟨_, _, _, rfl⟩ := h
  unfold Slot.setHalf
  split <;> exact ⟨_, _, _, rfl⟩

theorem Slot.refill_refilled : x.Refilled (x.refill g) := by
  have groups {y : Slot} (nextGroup : Nat) (h : x.Refilled y) : x.Refilled { y with nextGroup } := by
    obtain ⟨_, _, _, rfl⟩ := h
    exact ⟨_, _, _, rfl⟩
  have same : x.Refilled x := ⟨_, _, _, rfl⟩
  unfold Slot.refill
  dsimp only
  refine groups _ ?_
  split <;> split
  · exact (same.setHalf ..).setHalf ..
  · exact same.setHalf ..
  · exact same.setHalf ..
  · exact same

/-- A slot as a use begins. -/
def Slot.begun (x : Slot) (d : Desc) (n : Word) : Slot :=
  { st := .active, d, use := n, arming := x.arming, waiters := x.waiters, early := x.early, credits := x.credits, xlate := x.xlate }

/-- A use starts from element 0, with halves as its direction says. -/
theorem Slot.startUse_refilled : (x.begun d n).Refilled (x.startUse d n) := by
  unfold Slot.startUse
  dsimp only
  split
  · exact (x.begun d n).refill_refilled 0
  · exact ⟨_, _, _, rfl⟩

/-- An input starts to fill with its first group. -/
theorem Slot.startUse_fills (input : d.dir = 0 ∨ d.dir = 3) : (x.startUse d n).h0 = d.filling 0 := by
  unfold Slot.startUse
  dsimp only
  rw [if_pos input]
  rfl

/-- An output starts with both halves Free. -/
theorem Slot.startUse_frees (output : ¬ (d.dir = 0 ∨ d.dir = 3)) : (x.startUse d n).h0.st = .free ∧ (x.startUse d n).h1.st = .free := by
  unfold Slot.startUse
  dsimp only
  rw [if_neg output]
  exact ⟨rfl, rfl⟩

/-- A filling half belongs to the engine, and is due the bytes of its group's elements. -/
theorem Desc.filling_first : (d.filling 0).st = .engine ∧ (d.filling 0).group = 0 ∧ (d.filling 0).bytes = d.groupLen 0 * d.elem := by
  unfold Desc.filling
  split
  · exact ⟨rfl, rfl, rfl⟩
  · rename_i without
    refine ⟨rfl, rfl, ?_⟩
    have empty : d.groupLen 0 = 0 := by
      rw [Nat.pos_iff_ne_zero, not_not, Desc.groups, Nat.div_eq_zero_iff] at without
      unfold Desc.groupLen
      omega
    rw [empty, Nat.zero_mul]
end

end Sys2Proof.Machine

namespace Sys2Proof.Machine

/-! ### Reads of a slot that are dropped (R288, R289, R295) -/

section
variable {s : State} {t k : Nat}

/-- Every read of the slot is dropped. -/
def State.ReadsDropped (s : State) (t k : Nat) : Prop :=
  ∀ b ∈ s.accesses, b.issuer = .tile t → ∀ u g o f l, b.purpose = .streamRd k u g o f l → b.dropped = true

theorem State.dropSlotReads_all (s : State) (t k : Nat) : (s.dropSlotReads t k (fun _ => true)).ReadsDropped t k := by
  intro b there
  obtain ⟨a, -, rfl⟩ := List.mem_map.mp there
  split
  · rename_i read
    split
    · exact fun _ _ _ _ _ _ _ => rfl
    · rename_i other
      intro issuer u g o f l purpose
      cases read.symm.trans purpose
      exact absurd ⟨issuer, rfl, rfl⟩ other
  · rename_i other
    exact fun _ _ _ _ _ _ purpose => absurd purpose (other _ _ _ _ _ _)

@[simp] theorem State.slot_dropSlotReads (p : Access → Bool) (j : Nat) : (s.dropSlotReads t k p).slot t j = s.slot t j := rfl
@[simp] theorem State.thread_dropSlotReads (p : Access → Bool) (j : Nat) : (s.dropSlotReads t k p).thread t j = s.thread t j := rfl

@[simp] theorem State.wake_net : (s.wake t).net = s.net := by rw [(s.wake_woken t).state]
@[simp] theorem State.wake_accesses : (s.wake t).accesses = s.accesses := by rw [(s.wake_woken t).state]
@[simp] theorem State.strCtr_net (s : State) (t off n : Nat) : (s.strCtr t off n).net = s.net := (s.strCtr_leaves t off n).2.1
@[simp] theorem State.winCtr_net (s : State) (t off n : Nat) : (s.winCtr t off n).net = s.net := (s.winCtr_leaves t off n).2.1
end

/-- An instruction that has not issued leaves its thread waiting at it, and nothing else has changed. -/
theorem leavesThread_wait {s : State} {t thr : Nat} {c : Instr} {st : ThState} {why : Wait} (clean : (s.thread t thr).taint = [])
    (settles : exec c s = .next (s.settle t thr false (.wait st why s))) :
    LeavesThread c s t thr { s.thread t thr with st, wait := why } :=
  ⟨_, settles.trans (congrArg Host.Outcome.next (State.settle_wait clean ..)), (ThreadOnly.refl s t thr).updThread _, State.thread_updThread_same ..⟩

/-! ### The stream instructions (R283 to R290, R298, R319) -/

/-- A slot as SARM arms it: a first use, with nothing left of what came before. -/
def Slot.armed (x : Slot) (d : Desc) : Slot :=
  { ({ x with early := [], credits := 0, waiters := [], arming := x.arming + 1 } : Slot).startUse d 0 with xlate := false }

theorem Slot.armed_frame (x : Slot) (d : Desc) : ∃ h0 h1 nextGroup, x.armed d = { st := .active, d, h0, h1, nextGroup, arming := x.arming + 1 } := by
  obtain ⟨h0, h1, nextGroup, begun⟩ := Slot.startUse_refilled ({ x with early := [], credits := 0, waiters := [], arming := x.arming + 1 } : Slot) d 0
  refine ⟨h0, h1, nextGroup, ?_⟩
  rw [Slot.armed, begun]
  rfl

theorem Slot.armed_input (x : Slot) {d : Desc} (input : d.dir = 0) : (x.armed d).h0 = d.filling 0 := Slot.startUse_fills _ d 0 (.inl input)

theorem Slot.armed_output (x : Slot) {d : Desc} (output : d.dir = 1) : (x.armed d).h0.st = .free ∧ (x.armed d).h1.st = .free :=
  Slot.startUse_frees _ d 0 (by omega)

section
variable {s : State} {t thr w gd ga gb k : Nat} (issues : Issues s t thr w)
include issues

/-- SARM arms the slot; at the consumer end of a link two credits go to the producer. -/
theorem sarm_completes (fields : StreamFields w 0x50 0 ga 0 k) (free : s.tileHeld t = false) (idle : (s.slot t k).st = .idle)
    (aligned : (s.g t thr ga).toNat % 64 = 0) (inside : (s.g t thr ga).toNat + 64 ≤ loftBytes) (sound : s.loftBad t (s.g t thr ga).toNat 64 = false)
    (reserved : descReserved (s.loft t (s.g t thr ga).toNat 64) = true) {d : Desc} (desc : Desc.ofBytes (s.loft t (s.g t thr ga).toNat 64) = d)
    (good : s.descOk t d = true) (dir : d.dir ≠ 2) :
    Completes (.sarm t thr) s (fun s' => Onward s s' t thr ∧ s'.accesses = s.accesses ∧ s'.slot t k = (s.slot t k).armed d ∧
      (d.dir ≠ 3 → s'.net = s.net) ∧ (d.dir = 3 → ∃ id p, smGet s'.net.pkts id = some p ∧ p.op = .linkCredit ∧ p.size = 2 ∧
        p.dst = tileEnd d.peerTile ∧ p.slot = d.peerSlot)) := by
  let u := s.updSlot t k (fun x => x.armed d)
  let v := if d.dir = 3 then u.sendCredit t k 2 else u
  have arms : s.arm t k d = v := by
    unfold State.arm
    dsimp only
    rw [if_neg dir]
    rfl
  have settles : exec (.sarm t thr) s = .next (s.settle t thr false (.done v)) := by
    rw [exec_stream issues fields.op (exec_sarm ..) rfl (fields.enc ..)]
    dsimp only
    rw [fields.slot, fields.ga, if_neg (by simp [idle, aligned, inside]), if_neg (by simp [sound]), desc, if_neg (by simp [reserved, good]),
      if_neg (by simp [free]), arms]
  have armed : u.slot t k = (s.slot t k).armed d := State.slot_updSlot_same ..
  obtain ⟨slot, thread, accesses⟩ : v.slot t k = u.slot t k ∧ v.thread t thr = u.thread t thr ∧ v.accesses = u.accesses := by
    unfold v
    split <;> exact ⟨rfl, rfl, rfl⟩
  have inTile : InTile t s v := .ite (((InTile.refl t s).updSlot ..).sendCredit ..) ((InTile.refl t s).updSlot ..)
  obtain ⟨s', runs, onward, same, net, slot'⟩ := goesOn issues.clean settles inTile (thread.trans (State.thread_updSlot ..)) k
  refine ⟨s', runs, onward, same.trans accesses, slot'.trans (slot.trans armed), fun other => ?_, fun link => ?_⟩
  · rw [net, show v = u from if_neg other]
    rfl
  · obtain ⟨_, _, _, frame⟩ := (s.slot t k).armed_frame d
    have desc' : (u.slot t k).d = d := by rw [armed, frame]
    rw [net, show v = u.sendCredit t k 2 from if_pos link]
    exact ⟨u.net.nextId, _, smGet_smSet_same .., rfl, rfl, congrArg (fun d : Desc => tileEnd d.peerTile) desc', congrArg Desc.peerSlot desc'⟩

/-- SREARM starts the next use of a persistent input; the reads of the last one are dropped. -/
theorem srearm_completes (fields : StreamFields w 0x51 0 ga 0 k) (free : s.tileHeld t = false) (active : (s.slot t k).st = .active)
    (persistent : (s.slot t k).d.persistent = true) (input : (s.slot t k).d.dir = 0) (untaken : (s.slot t k).takenCount = 0)
    (unwaited : (s.slot t k).waiters = []) (good : s.descOk t { (s.slot t k).d with base := s.g t thr ga } = true) :
    Completes (.srearm t thr) s (fun s' => Onward s s' t thr ∧ s'.net = s.net ∧ s'.ReadsDropped t k ∧
      s'.slot t k = (s.slot t k).startUse { (s.slot t k).d with base := s.g t thr ga } (satAdd 32 (s.slot t k).use 1)) := by
  let u := ((s.strCtr t 0x118 (s.slot t k).begunHalves).dropSlotReads t k (fun _ => true))
  let v := u.updSlot t k (fun x => x.startUse { (s.slot t k).d with base := s.g t thr ga } (satAdd 32 x.use 1))
  have slot : v.slot t k = (s.slot t k).startUse { (s.slot t k).d with base := s.g t thr ga } (satAdd 32 (s.slot t k).use 1) := by
    simp [v, u]
  have serves : v.serve t k = v.wake t := by
    obtain ⟨_, _, _, begun⟩ := (s.slot t k).startUse_refilled { (s.slot t k).d with base := s.g t thr ga } (satAdd 32 (s.slot t k).use 1)
    exact State.serve_none (by rw [slot, begun]; exact unwaited)
  have settles : exec (.srearm t thr) s = .next (s.settle t thr false (.done (v.wake t))) := by
    have encoded : strEnc false true (strFn w) true w = true := by simp [fields.enc]
    rw [exec_stream issues fields.op (exec_srearm ..) rfl encoded, ← serves]
    dsimp only
    rw [fields.slot, fields.ga, fields.fn, if_neg (by simp [active, persistent, input, untaken, Slot.linked]), if_neg (by simp [good]),
      if_neg (by simp [free]), if_neg (by simp [Slot.draining, Slot.drainCount, input]), if_pos (by simp [Slot.isInput, input])]
    rfl
  have inTile : InTile t s (v.wake t) := ((((InTile.refl t s).strCtr ..).dropSlotReads ..).updSlot ..).wake
  obtain ⟨s', runs, onward, accesses, net, slot'⟩ := goesOn issues.clean settles inTile (issues.wake_thread (by simp [v, u])) k
  refine ⟨s', runs, onward, ?_, ?_, slot'.trans ((State.slot_wake ..).trans slot)⟩
  · rw [net, State.wake_net]
    exact s.strCtr_net t 0x118 (s.slot t k).begunHalves
  · have dropped := (s.strCtr t 0x118 (s.slot t k).begunHalves).dropSlotReads_all t k
    rw [State.ReadsDropped, accesses, State.wake_accesses]
    exact dropped

/-- SWAITB where the slot has a half word to give: the thread gets it. -/
theorem swaitb_takes (fields : StreamFields w 0x52 gd 0 0 k) (unwaited : (s.slot t k).waiters = []) {v : DWord} {y : Slot}
    (takes : (s.slot t k).take = some (v, y)) : Completes (.swaitb t thr) s (fun s' =>
      s'.thread t thr = (s.thread t thr).wrote gd v ∧ s'.mem = s.mem ∧ s'.slot t k = y) := by
  let u := (s.updSlot t k (fun _ => y)).setG t thr gd v
  let u' := if tookInput (s.slot t k) v then u.strCtr t 0x100 1 else u
  have settles : exec (.swaitb t thr) s = .next (s.settle t thr false (.done u')) := by
    rw [exec_stream issues fields.op (exec_swaitb ..) rfl (fields.enc ..)]
    dsimp only
    rw [fields.slot, fields.gd, unwaited, List.isEmpty_nil, if_pos rfl, takes]
  obtain ⟨mem, thread, slot⟩ : u'.mem = u.mem ∧ u'.thread t thr = u.thread t thr ∧ u'.slot t k = u.slot t k := by
    unfold u'
    split
    · exact ⟨(u.strCtr_leaves t 0x100 1).1, State.thread_strCtr .., State.slot_strCtr ..⟩
    · exact ⟨rfl, rfl, rfl⟩
  refine ⟨_, settles.trans (congrArg Host.Outcome.next (s.settle_done issues.clean)), ?_, ?_, ?_⟩
  · rw [State.seqCtrAdd_thread, State.thread_updThread_same, thread, State.setG_thread, State.thread_updSlot]
    rfl
  · rw [State.seqCtrAdd_mem]
    exact mem
  · rw [State.slot_seqCtrAdd, State.slot_updThread, slot, State.slot_setG, State.slot_updSlot_same]

/-- SWAITB where the slot has nothing to give: the thread waits, first in the slot's line. -/
theorem swaitb_waits (fields : StreamFields w 0x52 gd 0 0 k) (unwaited : (s.slot t k).waiters = []) (lacks : (s.slot t k).take = none) :
    Completes (.swaitb t thr) s (fun s' => s'.slot t k = { s.slot t k with waiters := [(thr, gd)] } ∧ s'.mem = s.mem ∧
      s'.thread t thr = { s.thread t thr with pc := (s.thread t thr).pc + 8, st := .unit, wait := .half k gd }) := by
  let u := s.updSlot t k (fun x => { x with waiters := x.waiters ++ [(thr, gd)] })
  have settles : exec (.swaitb t thr) s = .next (s.settle t thr false (.park .unit (.half k gd) u)) := by
    rw [exec_stream issues fields.op (exec_swaitb ..) rfl (fields.enc ..)]
    dsimp only
    rw [fields.slot, fields.gd, unwaited, List.isEmpty_nil, if_pos rfl, lacks]
  refine ⟨_, settles.trans (congrArg Host.Outcome.next (State.settle_park issues.clean ..)), ?_, ?_, ?_⟩
  · rw [State.slot_seqCtrAdd, State.slot_updThread, State.slot_updSlot_same, unwaited]
    rfl
  · rw [State.seqCtrAdd_mem]
    rfl
  · rw [State.seqCtrAdd_thread, State.thread_updThread_same, State.thread_updSlot]

/-- SREL of an input from memory that has more to deliver: the engine fills the half with the next group. -/
theorem srel_completes (fields : StreamFields w 0x53 0 0 0 k) (active : (s.slot t k).st = .active) (input : (s.slot t k).d.dir = 0)
    (taken : ((s.slot t k).half (s.slot t k).relHalf).st = .taken) (left : (s.slot t k).nextDel < (s.slot t k).d.total)
    (unwaited : (s.slot t k).waiters = []) : Completes (.srel t thr) s (fun s' => (Onward s s' t thr ∧ s'.accesses = s.accesses ∧ s'.net = s.net) ∧
      s'.slot t k = { (s.slot t k).setHalf (s.slot t k).relHalf ((s.slot t k).d.filling (s.slot t k).nextGroup) with
        relHalf := ((s.slot t k).relHalf + 1) % 2, nextGroup := (s.slot t k).nextGroup + 1 }) := by
  let x := s.slot t k
  let y : Slot := { x.setHalf x.relHalf (x.d.filling x.nextGroup) with relHalf := (x.relHalf + 1) % 2, nextGroup := x.nextGroup + 1 }
  let u := s.updSlot t k (fun z => { z.setHalf x.relHalf (z.d.filling z.nextGroup) with relHalf := (x.relHalf + 1) % 2, nextGroup := z.nextGroup + 1 })
  have slot : u.slot t k = y := State.slot_updSlot_same ..
  obtain ⟨h0, h1, frame⟩ : ∃ h0 h1, y = { x with h0, h1, relHalf := (x.relHalf + 1) % 2, nextGroup := x.nextGroup + 1 } := by
    obtain ⟨h0, h1, half⟩ := x.updHalf_frame x.relHalf (fun _ => x.d.filling x.nextGroup)
    have half' : x.setHalf x.relHalf (x.d.filling x.nextGroup) = { x with h0, h1 } := half
    exact ⟨h0, h1, by simp only [y, half']⟩
  have finishes : u.finishUse t k = u := State.finishUse_left (by rw [slot, frame]; simp [Slot.isInput, x, input]) (by rw [slot, frame]; exact left)
  have serves : (u.finishUse t k).serve t k = u.wake t := by
    rw [finishes]
    exact State.serve_none (by rw [slot, frame]; exact unwaited)
  have settles : exec (.srel t thr) s = .next (s.settle t thr false (.done (u.wake t))) := by
    rw [exec_stream issues fields.op (exec_srel ..) rfl (fields.enc ..), ← serves]
    dsimp only
    rw [fields.slot, if_neg (by simp [active, taken, Slot.isInput, input]), if_neg (by simp [input])]
    simp only [active, beq_self_eq_true, if_true]
    rfl
  obtain ⟨s', runs, onward, accesses, net, slot'⟩ := goesOn issues.clean settles ((InTile.refl t s).updSlot ..).wake
    (issues.wake_thread (State.thread_updSlot ..)) k
  exact ⟨s', runs, ⟨onward, accesses.trans (State.wake_accesses ..), net.trans (State.wake_net ..)⟩, slot'.trans ((State.slot_wake ..).trans slot)⟩

/-- SPUSH of the length that its group has: the engine drains the half. -/
theorem spush_completes (fields : StreamFields w 0x54 0 0 gb k) (active : (s.slot t k).st = .active) (output : (s.slot t k).isOutput = true)
    (taken : ((s.slot t k).half (s.slot t k).relHalf).st = .taken) (plain : (s.slot t k).ticket = none)
    (whole : (s.g t thr gb).toNat = (s.slot t k).d.groupLen (s.slot t k).pushGroup * (s.slot t k).d.elem)
    (fits : (s.g t thr gb).toNat ≤ (s.slot t k).d.halfBytes) :
    Completes (.spush t thr) s (fun s' => (Onward s s' t thr ∧ s'.accesses = s.accesses ∧ s'.net = s.net) ∧
      s'.slot t k = { (s.slot t k).updHalf (s.slot t k).relHalf (fun b =>
        { b with st := .engine, bytes := (s.g t thr gb).toNat, group := (s.slot t k).pushGroup, thr, tent := false }) with
          relHalf := ((s.slot t k).relHalf + 1) % 2 }) := by
  have elements : (s.g t thr gb).toNat % (s.slot t k).d.elem = 0 := by
    rw [whole]
    exact Nat.mul_mod_left ..
  have settles := exec_stream issues fields.op (exec_spush ..) rfl (fields.enc ..)
  dsimp only at settles
  rw [fields.slot, fields.gb, if_neg (by simp [active, output, taken, elements, fits]), if_neg (by simp [active]), if_neg (by simp [whole])] at settles
  obtain ⟨s', runs, onward, accesses, net, slot⟩ := goesOn issues.clean settles ((InTile.refl t s).updSlot ..) (State.thread_updSlot ..) k
  refine ⟨s', runs, ⟨onward, accesses, net⟩, slot.trans ((State.slot_updSlot_same ..).trans ?_)⟩
  obtain ⟨_, _, half⟩ := (s.slot t k).updHalf_frame (s.slot t k).relHalf (fun b =>
    { b with st := .engine, bytes := (s.g t thr gb).toNat, group := (s.slot t k).pushGroup, thr, tent := false })
  simp [plain, half]

/-- SSKIP within the use: the input goes on at the element, as if nothing beyond what was delivered had been asked for. -/
theorem sskip_completes (fields : StreamFields w 0x55 0 ga 0 k) (active : (s.slot t k).st = .active) (input : (s.slot t k).d.dir = 0)
    (aligned : (s.g t thr ga).toNat % (s.slot t k).d.perHalf = 0) (ahead : (s.slot t k).nextDel ≤ (s.g t thr ga).toNat)
    (within : (s.g t thr ga).toNat < (s.slot t k).d.total) (unwaited : (s.slot t k).waiters = []) (free0 : (s.slot t k).h0.held = false)
    (free1 : (s.slot t k).h1.held = false) : Completes (.sskip t thr) s (fun s' => Onward s s' t thr ∧ s'.net = s.net ∧
      ∃ h0 h1 nextGroup, s'.slot t k = { s.slot t k with
        h0, h1, nextGroup, nextReq := (s.g t thr ga).toNat, reqOff := 0, leaf := none, nextDel := (s.g t thr ga).toNat, faults := [] }) := by
  let x := s.slot t k
  let e := (s.g t thr ga).toNat
  let early := b2n (x.h0.st == .engine && x.h0.begun) + b2n (x.h1.st == .engine && x.h1.begun)
  let u := ((s.discardHeld t k).strCtr t 0x120 early).dropSlotReads t k (fun a =>
    match a.purpose with | .streamRd _ u _ _ _ l => u == x.useId && decide (x.nextDel ≤ l) | _ => false)
  let v := u.updSlot t k (fun x => { x.refill (e / x.d.perHalf) with nextReq := e, reqOff := 0, leaf := none, nextDel := e, faults := [] })
  have discards : s.discardHeld t k = s.dropHeld t k := by
    unfold State.discardHeld
    dsimp only
    rw [free0, free1]
    rfl
  have drops : s.dropHeld t k = (s.updSlot t k (fun x => { x with
      h0 := if x.h0.held then x.h0.emptied else x.h0, h1 := if x.h1.held then x.h1.emptied else x.h1 })).winCtr t 0x148 x.heldHalves := by
    unfold State.dropHeld
    dsimp only
    rw [free0, free1]
    rfl
  have kept : u.slot t k = x := by
    simp only [u, discards, drops, State.slot_dropSlotReads, State.slot_strCtr, State.slot_winCtr, State.slot_updSlot_same, free0, free1]
    rfl
  obtain ⟨h0, h1, nextGroup, refilled⟩ := x.refill_refilled (e / x.d.perHalf)
  have slot : v.slot t k = { x with h0, h1, nextGroup, nextReq := e, reqOff := 0, leaf := none, nextDel := e, faults := [] } := by
    rw [State.slot_updSlot_same, kept, refilled]
  have serves : (v.finishUse t k).serve t k = v.wake t := by
    rw [State.finishUse_left (by rw [slot]; simp [Slot.isInput, x, input]) (by rw [slot]; exact within)]
    exact State.serve_none (by rw [slot]; exact unwaited)
  have settles : exec (.sskip t thr) s = .next (s.settle t thr false (.done (v.wake t))) := by
    rw [exec_stream issues fields.op (exec_sskip ..) rfl (fields.enc ..), ← serves]
    dsimp only
    rw [fields.slot, fields.ga, if_neg (by simp [active, Slot.isInput, input, aligned, ahead, within.le]), if_neg (by simp [active])] <;> rfl
  have thread : v.thread t thr = s.thread t thr := by
    simp [v, u, discards, drops]
  have net : v.net = s.net := by
    have sent : v.net = ((s.discardHeld t k).strCtr t 0x120 early).net := rfl
    rw [sent, discards, drops, State.strCtr_net, State.winCtr_net]
    rfl
  obtain ⟨s', runs, onward, -, net', slot'⟩ := goesOn issues.clean settles
    (((((InTile.refl t s).discardHeld k).strCtr ..).dropSlotReads ..).updSlot ..).wake (issues.wake_thread thread) k
  exact ⟨s', runs, onward, net'.trans ((State.wake_net ..).trans net), h0, h1, nextGroup, slot'.trans ((State.slot_wake ..).trans slot)⟩

/-- SFLUSH of an output waits while one of the slot's writes is not acknowledged. -/
theorem sflush_settles (fields : StreamFields w 0x56 0 0 0 k) (active : (s.slot t k).st = .active) (output : (s.slot t k).isOutput = true) :
    exec (.sflush t thr) s = .next (s.settle t thr false (if s.slotWrites t k then .wait .unit (.retry (.flushed k)) s else .done s)) := by
  rw [exec_stream issues fields.op (exec_sflush ..) rfl (fields.enc ..)]
  dsimp only
  rw [fields.slot, if_neg (by simp [active]), if_neg (by simp [output])]

/-- SSTOP of an input from memory: the slot is Idle, and its reads are dropped. -/
theorem sstop_input (fields : StreamFields w 0x57 0 0 0 k) (active : (s.slot t k).st = .active) (input : (s.slot t k).d.dir = 0)
    (plain : (s.slot t k).tentGroup = none) (unwaited : (s.slot t k).waiters = []) : Completes (.sstop t thr) s (fun s' =>
      Onward s s' t thr ∧ s'.net = s.net ∧ s'.slot t k = { early := (s.slot t k).early, arming := (s.slot t k).arming } ∧ s'.ReadsDropped t k) := by
  let u := (s.strCtr t 0x118 (s.slot t k).begunHalves).dropSlotReads t k (fun _ => true)
  let v := u.updSlot t k (fun x =>
    if x.d.dir = 1 then { x with st := .idle, h0 := { st := .free }, h1 := { st := .free } } else { x.idled with waiters := x.waiters })
  have slot : v.slot t k = { early := (s.slot t k).early, arming := (s.slot t k).arming } := by
    simp [v, u, input, Slot.idled, unwaited]
  have serves : v.serve t k = v.wake t := State.serve_none (by rw [slot])
  have notLinkIn : ¬ (s.slot t k).d.dir = 3 := by omega
  have notLinkOut : ¬ (s.slot t k).d.dir = 2 := by omega
  have isInput : (s.slot t k).isInput = true := by simp [Slot.isInput, input]
  have settles : exec (.sstop t thr) s = .next (s.settle t thr false (.done (v.wake t))) := by
    rw [exec_stream issues fields.op (exec_sstop ..) rfl (fields.enc ..), ← serves]
    dsimp only
    rw [fields.slot, if_neg (by simp [active]), if_neg (by simp [Slot.draining, Slot.drainCount, input]), if_neg (by simp [plain])]
    rw [if_neg (not_not.mpr active), if_neg notLinkIn, if_neg notLinkOut, if_pos isInput]
  have inTile : InTile t s (v.wake t) := ((((InTile.refl t s).strCtr ..).dropSlotReads ..).updSlot ..).wake
  obtain ⟨s', runs, onward, accesses, net, slot'⟩ := goesOn issues.clean settles inTile (issues.wake_thread (by simp [v, u])) k
  refine ⟨s', runs, onward, ?_, slot'.trans ((State.slot_wake ..).trans slot), ?_⟩
  · rw [net, State.wake_net]
    exact s.strCtr_net t 0x118 (s.slot t k).begunHalves
  · have dropped := (s.strCtr t 0x118 (s.slot t k).begunHalves).dropSlotReads_all t k
    rw [State.ReadsDropped, accesses, State.wake_accesses]
    exact dropped

/-- SSTOP of an output to memory that has issued what was pushed: the slot is Idle, with both halves Free. -/
theorem sstop_output (fields : StreamFields w 0x57 0 0 0 k) (active : (s.slot t k).st = .active) (output : (s.slot t k).d.dir = 1)
    (issued : (s.slot t k).draining = false) (plain : (s.slot t k).tentGroup = none) (unwaited : (s.slot t k).waiters = []) :
    Completes (.sstop t thr) s (fun s' => (Onward s s' t thr ∧ s'.accesses = s.accesses ∧ s'.net = s.net) ∧
      s'.slot t k = { s.slot t k with st := .idle, h0 := { st := .free }, h1 := { st := .free } }) := by
  let v := s.updSlot t k (fun x =>
    if x.d.dir = 1 then { x with st := .idle, h0 := { st := .free }, h1 := { st := .free } } else { x.idled with waiters := x.waiters })
  have slot : v.slot t k = { s.slot t k with st := .idle, h0 := { st := .free }, h1 := { st := .free } } :=
    (State.slot_updSlot_same ..).trans (if_pos output)
  have serves : v.serve t k = v.wake t := State.serve_none (by rw [slot]; exact unwaited)
  have notLinkIn : ¬ (s.slot t k).d.dir = 3 := by omega
  have notLinkOut : ¬ (s.slot t k).d.dir = 2 := by omega
  have isOutput : ¬ (s.slot t k).isInput = true := by simp [Slot.isInput, output]
  have settles : exec (.sstop t thr) s = .next (s.settle t thr false (.done (v.wake t))) := by
    rw [exec_stream issues fields.op (exec_sstop ..) rfl (fields.enc ..), ← serves]
    dsimp only
    rw [fields.slot, if_neg (by simp [active]), if_neg (by simp [issued]), if_neg (by simp [plain])]
    rw [if_neg (not_not.mpr active), if_neg notLinkIn, if_neg notLinkOut, if_neg isOutput]
  obtain ⟨s', runs, onward, accesses, net, slot'⟩ := goesOn issues.clean settles ((InTile.refl t s).updSlot ..).wake
    (issues.wake_thread (State.thread_updSlot ..)) k
  exact ⟨s', runs, ⟨onward, accesses.trans (State.wake_accesses ..), net.trans (State.wake_net ..)⟩, slot'.trans ((State.slot_wake ..).trans slot)⟩

/-- SSTOP of an output that still has a pushed half to issue has not issued itself. -/
theorem sstop_waits (fields : StreamFields w 0x57 0 0 0 k) (active : (s.slot t k).st = .active) (drains : (s.slot t k).draining = true) :
    LeavesThread (.sstop t thr) s t thr { s.thread t thr with st := .unit, wait := .retry (.issued k) } := by
  refine leavesThread_wait issues.clean ?_
  rw [exec_stream issues fields.op (exec_sstop ..) rfl (fields.enc ..)]
  dsimp only
  rw [fields.slot, if_neg (by simp [active]), if_pos drains]

/-- SSTAT reads the slot's register. -/
theorem sstat_completes (fields : StreamFields w 0x58 gd 0 0 k) :
    LeavesThread (.sstat t thr) s t thr ((s.thread t thr).wrote gd (s.slotWord t k)) := by
  refine leavesThread_setG (ok := false) issues.clean ?_
  rw [exec_stream issues fields.op (exec_sstat ..) rfl (fields.enc ..)]
  rw [fields.slot, fields.gd]
end

/-! #### What SWAITB gets (R285, R287) -/

section
variable {x : Slot}

theorem Slot.take_idle (idle : x.st = .idle) : x.take = some (halfWord true false 0 0, x) := by
  unfold Slot.take
  dsimp only
  rw [if_pos idle]

/-- An input gives its next half once it is Ready; the last one of the use carries the mark. -/
theorem Slot.take_ready (active : x.st = .active) (input : x.isInput = true) (ready : (x.half x.takeHalf).st = .ready) :
    x.take = some (halfWord (decide (x.d.total ≤ x.nextDel) && (x.half (x.takeHalf + 1)).st != .ready) false (x.half x.takeHalf).bytes
      (x.d.halfOff x.takeHalf), { x.updHalf x.takeHalf (fun b => { b with st := .taken }) with takeHalf := (x.takeHalf + 1) % 2 }) := by
  unfold Slot.take
  dsimp only
  rw [if_neg (by simp [active]), if_pos input, if_pos ready]

/-- An input whose next half has not come, with elements of its use still to deliver, gives nothing yet. -/
theorem Slot.take_none (active : x.st = .active) (input : x.isInput = true) (waits : (x.half x.takeHalf).st ≠ .ready) (left : x.nextDel < x.d.total) :
    x.take = none := by
  unfold Slot.take
  dsimp only
  rw [if_neg (by simp [active]), if_pos input, if_neg waits, if_neg (by simp [active]), if_neg (Nat.not_le.mpr left)]
end

/-- Settles O31: each instruction by its own lemma, said of the fields of its word. -/
theorem streamInstructionsMoveHalves : Obligations.StreamInstructionsMoveHalves := by
  unfold Obligations.StreamInstructionsMoveHalves
  intro s t thr k gd ga gb hk hgd hga hgb h x i word onward keeps a d
  have zero : 0 < 32 := by decide
  refine ⟨fun issues free idle aligned inside sound reserved good dir => ?sarm,
    fun issues free active persistent input untaken unwaited good => ?srearm, fun issues unwaited => ?swaitb,
    fun issues active input taken left unwaited => srel_completes issues (streamWord_fields (by decide) zero zero zero hk) active input taken left unwaited,
    fun issues active output taken plain whole fits =>
      spush_completes issues (streamWord_fields (by decide) zero zero hgb hk) active output taken plain whole fits,
    fun issues active input aligned ahead within unwaited free0 free1 => ?sskip, fun issues active output => ?sflush, fun issues active => ?sstop,
    fun issues => sstat_completes issues (streamWord_fields (by decide) hgd zero zero hk)⟩
  case sarm =>
    obtain ⟨s', runs, goes, accesses, slot, plain, link⟩ := sarm_completes issues (streamWord_fields (by decide) zero hga zero hk) free idle aligned
      inside sound reserved rfl good dir
    obtain ⟨_, _, _, frame⟩ := x.armed_frame d
    refine ⟨s', runs, goes, accesses, ?_⟩
    dsimp only
    rw [slot]
    refine ⟨by rw [frame], by rw [frame], by rw [frame], by rw [frame], by rw [frame], fun output => ?_, fun input => ?_, link⟩
    · obtain ⟨h0, h1⟩ := x.armed_output output
      exact ⟨h0, h1, plain (fun link => absurd (output.symm.trans link) (by decide))⟩
    · rw [x.armed_input input]
      obtain ⟨st, group, bytes⟩ := d.filling_first
      exact ⟨st, group, bytes, plain (fun link => absurd (input.symm.trans link) (by decide))⟩
  case srearm =>
    obtain ⟨s', runs, goes, net, dropped, slot⟩ := srearm_completes issues (streamWord_fields (by decide) zero hga zero hk) free active persistent
      input untaken unwaited good
    obtain ⟨_, _, _, begun⟩ := x.startUse_refilled { x.d with base := s.g t thr ga } (satAdd 32 x.use 1)
    refine ⟨s', runs, goes, net, ?_⟩
    dsimp only
    rw [slot, begun]
    exact ⟨rfl, rfl, rfl, rfl, rfl, dropped⟩
  case swaitb =>
    have fields := streamWord_fields (op := 0x52) (by decide) hgd zero zero hk
    exact ⟨fun active input ready => swaitb_takes issues fields unwaited (Slot.take_ready active input ready),
      fun idle => swaitb_takes issues fields unwaited (Slot.take_idle idle),
      fun active input waits left => swaitb_waits issues fields unwaited (Slot.take_none active input waits left)⟩
  case sskip =>
    obtain ⟨s', runs, goes, net, _, _, _, slot⟩ := sskip_completes issues (streamWord_fields (by decide) zero hga zero hk) active input aligned ahead
      within unwaited free0 free1
    refine ⟨s', runs, goes, net, ?_⟩
    rw [slot]
    exact ⟨active, rfl, rfl, rfl⟩
  case sflush =>
    have settles := sflush_settles issues (streamWord_fields (by decide) zero zero zero hk) active output
    refine ⟨fun acked => ?_, fun writes => ?_⟩
    · rw [if_neg (by simp [acked])] at settles
      exact leavesThread_advanced issues.clean settles
    · rw [if_pos writes] at settles
      exact leavesThread_wait issues.clean settles
  case sstop =>
    have fields := streamWord_fields (op := 0x57) (by decide) zero zero zero hk
    exact ⟨fun input plain unwaited => sstop_input issues fields active input plain unwaited,
      fun output issued plain unwaited => sstop_output issues fields active output issued plain unwaited,
      fun _ drains => sstop_waits issues fields active drains⟩

end Sys2Proof.Machine

namespace Sys2Proof.Machine

/-! ### What a slot's next request depends on (R274 to R276, R295 to R297) -/

/-- The state once a slot of tile t has its turn at the port: cycles have passed, and the classes' credits and the next slot's turn have
changed with them. -/
def State.ported (s : State) (t : Nat) (cr : SMap Nat) (rr : Nat) : State :=
  { s with freeCount := s.freeCount + 1 }.updTile t (fun x => { x with str := { x.str with cr, rr } })

section
variable {s s' : State} {t k : Nat} (cr : SMap Nat) (rr : Nat)

theorem State.portIdle_ported (s : State) (t : Nat) : ∃ cr, s.portIdle t = s.ported t cr (s.tile t).str.rr :=
  ⟨((s.tile t).str.earn (s.free 16).1.toNat).cr, by
    unfold State.portIdle State.ported
    exact State.updTile_congr rfl⟩

theorem State.ported_turn (turn : Nat) : (s.ported t cr rr).updTile t (fun x => { x with str := { x.str with rr := turn } }) = s.ported t cr turn :=
  State.updTile_updTile ..

theorem State.tile_ported : (s.ported t cr rr).tile t = { s.tile t with str := { (s.tile t).str with cr, rr } } := State.tile_updTile_same ..

theorem State.slot_ported (j : Nat) : (s.ported t cr rr).slot t j = s.slot t j := State.slot_congr (by rw [State.tile_ported]) j

theorem State.slotXlate_ported (j : Nat) (a : DWord) (need : Nat) : (s.ported t cr rr).slotXlate t j a need = s.slotXlate t j a need := by
  unfold State.slotXlate State.taskTenant
  rw [State.slot_ported, State.tile_ported]

theorem State.slotReady_ported (j : Nat) : (s.ported t cr rr).slotReady t j = s.slotReady t j := by
  unfold State.slotReady State.streaming
  rw [State.slot_ported, State.tile_ported]
  rfl

/-- A tile's request depends on its task, and on nothing else of the tiles. -/
theorem State.tileReq_congr (frame : s' = { s with tiles := s'.tiles, freeCount := s'.freeCount }) (task : (s'.tile t).task = (s.tile t).task)
    (op : PktOp) (pa : DWord) (n : Nat) (data : List Byte) : s'.tileReq t op pa n data = s.tileReq t op pa n data := by
  have epoch : s'.issuerEpoch (.tile t) = s.issuerEpoch (.tile t) := by
    unfold State.issuerEpoch
    dsimp only
    rw [task]
  have request : s'.mkReq (.tile t) op pa n data = s.mkReq (.tile t) op pa n data := by
    unfold State.mkReq
    rw [epoch, frame]
    rfl
  unfold State.tileReq State.taskTenant State.taskPart
  rw [request, task]

theorem State.tileReq_ported (op : PktOp) (pa : DWord) (n : Nat) (data : List Byte) :
    (s.ported t cr rr).tileReq t op pa n data = s.tileReq t op pa n data :=
  State.tileReq_congr rfl (by rw [State.tile_ported]) ..

theorem State.slotClass_ported (j : Nat) : (s.ported t cr rr).slotClass t j = s.slotClass t j := by
  unfold State.slotClass State.reqClass
  simp only [State.slotReady_ported, State.slot_ported, State.slotXlate_ported, State.tileReq_ported]
end

section
variable {s : State} {t k : Nat} {op : PktOp} {pa : DWord} {n : Nat} {data : List Byte} {r : Packet} {remote : Option Nat}

/-- What a request says, and that its size is its own. -/
theorem State.mkReq_fields {i : Issuer} (made : s.mkReq i op pa n data = some (r, remote)) : r.op = op ∧ r.size = n ∧ r.issuer = i ∧
    ∀ m, s.mkReq i op pa m data = some ({ r with size := m }, remote) := by
  unfold State.mkReq at made ⊢
  split at made
  · cases made
  · obtain ⟨e, endpoint, made⟩ := Option.map_eq_some_iff.mp made
    cases made
    rw [endpoint]
    exact ⟨rfl, rfl, rfl, fun _ => rfl⟩
  · cases made
    exact ⟨rfl, rfl, rfl, fun _ => rfl⟩

theorem State.tileReq_fields (made : s.tileReq t op pa n data = some (r, remote)) : r.op = op ∧ r.size = n ∧ r.issuer = .tile t ∧
    ∀ m, s.tileReq t op pa m data = some ({ r with size := m }, remote) := by
  obtain ⟨⟨p, m⟩, request, made⟩ := Option.map_eq_some_iff.mp made
  cases made
  obtain ⟨op', size, issuer, resized⟩ := State.mkReq_fields request
  refine ⟨op', size, issuer, fun m => ?_⟩
  rw [State.tileReq, resized]
  rfl

/-- The class of the request that a ready input slot would inject. -/
theorem State.slotClass_read (ready : s.slotReady t k = true) (input : (s.slot t k).d.dir = 0) {leaf : Leaf}
    (translates : s.slotXlate t k (s.slot t k).nextSpan.1 needRead = .ok pa leaf) (made : s.tileReq t .read pa n [] = some (r, remote)) :
    s.slotClass t k = some (classOf .read remote.isSome) := by
  obtain ⟨-, -, -, resized⟩ := State.tileReq_fields made
  unfold State.slotClass State.reqClass
  dsimp only
  rw [if_neg (by simp [ready]), if_neg (by simp [input]), if_pos input, if_pos input, translates]
  dsimp only
  rw [resized]
  rfl

theorem State.slotClass_miss (ready : s.slotReady t k = true) (input : (s.slot t k).d.dir = 0)
    (misses : s.slotXlate t k (s.slot t k).nextSpan.1 needRead = .miss) : s.slotClass t k = none := by
  unfold State.slotClass
  dsimp only
  rw [if_neg (by simp [ready]), if_neg (by simp [input]), if_pos input, misses]

/-- A slot that alone is ready has its turn, where its class has a share of the port. -/
theorem State.slotTurn_alone {c : Nat} (share : (s.tile t).str.share c ≠ 0) (alone : ∀ j, j < 32 → j ≠ k → s.slotReady t j = false) :
    s.slotTurn t k c = true := by
  have behind (j : Nat) (small : j < 32) (other : j ≠ k) : s.goesBefore t j c k = false := by
    have unready : s.slotClass t j = none := if_pos (by simp [alone j small other])
    unfold State.goesBefore
    rw [unready]
  have opens : (s.tile t).str.classOpen c = true := by simp [Stream.classOpen, share]
  unfold State.slotTurn
  simpa [opens] using behind

/-- What makes an input slot ready: a tag, an element still to be requested, and the half that takes it. -/
theorem State.slotReady_input (ready : s.slotReady t k = true) (input : (s.slot t k).d.dir = 0) : (s.slot t k).st = .active ∧
    s.slotTagFree t k = true ∧ (s.slot t k).nextReq < (s.slot t k).d.total ∧ ∃ j, [0, 1].find? (fun j => ((s.slot t k).half j).st == .engine &&
      ((s.slot t k).half j).bytes != 0 && ((s.slot t k).half j).group == (s.slot t k).nextReq / (s.slot t k).d.perHalf) = some j := by
  unfold State.slotReady at ready
  dsimp only at ready
  rw [input] at ready
  simp only [Bool.and_eq_true, decide_eq_true_eq, beq_iff_eq] at ready
  obtain ⟨⟨⟨active, tag⟩, -⟩, left, some⟩ := ready
  refine ⟨active, tag, left, Option.isSome_iff_exists.mp ?_⟩
  rw [List.find?_isSome]
  obtain ⟨j, there, takes⟩ := List.any_eq_true.mp some
  exact ⟨j, there, takes⟩

/-- STREAM_INJECT of a ready input slot of a task that the Hard barrier does not hold: its next request, when it is its turn. -/
theorem streamInject_read {task : Task} (has : (s.tile t).task = some task) (ready : s.slotReady t k = true) (input : (s.slot t k).d.dir = 0)
    (free : s.tileHeld t = false)
    (turn : ∀ c, s.slotClass t k = some c → (s.tile t).str.share c ≠ 0 ∧ ∀ j, j < 32 → j ≠ k → s.slotReady t j = false) :
    ∃ cr rr, exec (.streamInject t k) s = .next ((s.ported t cr rr).injectRead t k) := by
  obtain ⟨active, -⟩ := State.slotReady_input ready input
  obtain ⟨cr, idle⟩ := s.portIdle_ported t
  have mine : ¬ ((s.slotClass t k).any (fun c => !(s.ported t cr (s.tile t).str.rr).slotTurn t k c)) = true := by
    cases cls : s.slotClass t k with
    | none => exact Bool.false_ne_true
    | some c =>
      obtain ⟨share, alone⟩ := turn c cls
      have turns : (s.ported t cr (s.tile t).str.rr).slotTurn t k c = true := State.slotTurn_alone (by rw [State.tile_ported]; exact share)
        (fun j small other => by rw [State.slotReady_ported]; exact alone j small other)
      simp [turns]
  have gate : ¬ ((s.slot t k).st ≠ .active ∨ (s.tile t).task = none ∨ s.tileHeld t = true ∨ (!s.slotReady t k) = true) := by
    simp [active, has, free, ready]
  rw [exec_streamInject, execStreamInject]
  dsimp only
  rw [if_neg gate, idle, State.slotClass_ported, if_neg mine, State.ported_turn, input]
  by_cases classed : (s.slotClass t k).isSome = true
  · rw [if_pos classed]
    exact ⟨cr, (k + 1) % 32, rfl⟩
  · rw [if_neg classed]
    exact ⟨cr, (s.tile t).str.rr, rfl⟩
end

/-! ### A packet that is sent (R360, R369, R374) -/

/-- A packet that is injected stands in the torus with what its sender wrote. -/
theorem State.inject_sends (s : State) (p : Packet) : ∃ id pos inPort out tickPar dests ord, smGet (s.inject p).net.pkts id =
    some { p with pos, inPort, vc := false, out, tickPar, dests, ord } :=
  ⟨s.net.nextId, p.src.router, p.src.port, p.src == p.dst && p.src.isIo, s.tick.count.getLsbD 0,
    if p.dests.isEmpty then [p.dst.router] else p.dests, s.net.stamp, smGet_smSet_same ..⟩

theorem State.slot_inject (s : State) (p : Packet) (t k : Nat) : (s.inject p).slot t k = s.slot t k := rfl

/-- A read is never held behind another access. -/
theorem State.issue_unordered {s : State} {a : Access} (free : a.req.op.ordered = false) : s.issue a =
    { s with net := { s.net with stamp := s.net.stamp + 1 }, accesses := s.accesses ++ [a.stamped s.net.stamp] }.inject (a.stamped s.net.stamp).req := by
  have unheld : State.mustHold { s with net := { s.net with stamp := s.net.stamp + 1 } } (a.stamped s.net.stamp) = false := by
    refine List.any_eq_false.mpr (fun b _ => ?_)
    have ordered : (a.stamped s.net.stamp).req.op.ordered = false := free
    simp [Access.holds, ordered]
  unfold State.issue
  dsimp only
  rw [unheld]
  rfl

/-- What a read's issue leaves: its access and its request. -/
theorem State.issue_sends {s : State} {a : Access} (free : a.req.op.ordered = false) :
    (s.issue a).accesses = s.accesses ++ [a.stamped s.net.stamp] ∧
    ∃ id p, smGet (s.issue a).net.pkts id = some p ∧ p.op = a.req.op ∧ p.addr = a.req.addr ∧ p.size = a.req.size ∧ p.issuer = a.req.issuer := by
  rw [State.issue_unordered free, State.inject_accesses]
  obtain ⟨id, _, _, _, _, _, _, sent⟩ := State.inject_sends { s with
    net := { s.net with stamp := s.net.stamp + 1 }, accesses := s.accesses ++ [a.stamped s.net.stamp] } (a.stamped s.net.stamp).req
  exact ⟨rfl, id, _, sent, rfl, rfl, rfl, rfl⟩

theorem State.chargeClass_leaves (s : State) (t : Nat) (op : PktOp) (n : Nat) (remote : Bool) :
    (s.chargeClass t op n remote).accesses = s.accesses ∧ (s.chargeClass t op n remote).mem = s.mem := by
  obtain ⟨_, _, _, _, _, frame⟩ := s.chargeClass_frame t op n remote
  rw [frame]
  exact ⟨rfl, rfl⟩

theorem State.tlbUse_leaves (s : State) (t : Nat) (leaf : Leaf) (op : PktOp) (pa : DWord) (n : Nat) (data : List Byte) :
    (s.tlbUse t leaf).mem = s.mem ∧ (s.tlbUse t leaf).accesses = s.accesses ∧ (s.tlbUse t leaf).tileReq t op pa n data = s.tileReq t op pa n data :=
  ⟨rfl, rfl, State.tileReq_congr rfl (by rw [State.tlbUse, State.tile_updTile_same]) ..⟩

/-- A tile that asks its I/O die for a leaf. -/
theorem State.askXlate_sends {s : State} {t : Nat} {task : Task} (has : (s.tile t).task = some task) (who : Nat) (va : DWord) (need : Nat) :
    (s.askXlate t who va need).mem = s.mem ∧ (s.askXlate t who va need).accesses = s.accesses ∧
    (∀ k, (s.askXlate t who va need).slot t k = s.slot t k) ∧
    ∃ id p, smGet (s.askXlate t who va need).net.pkts id = some p ∧ p.op = .read ∧ p.msg = .xlate who task.launch.tenant va need ∧
      p.dst = tileIo task.launch.ioDie t := by
  have die : s.taskIo t = task.launch.ioDie := by rw [State.taskIo, has]
  have tenant : (s.strCtr t 0x148 1).taskTenant t = some task.launch.tenant := by
    rw [State.taskTenant, State.tile_strCtr]
    simp [has]
  obtain ⟨mem, -, accesses, -⟩ := s.strCtr_leaves t 0x148 1
  unfold State.askXlate
  dsimp only
  rw [State.inject_mem, State.inject_accesses, die, tenant]
  refine ⟨mem, accesses, fun k => (State.slot_inject ..).trans (s.slot_strCtr t k 0x148 1), ?_⟩
  obtain ⟨id, _, _, _, _, _, _, sent⟩ := (s.strCtr t 0x148 1).inject_sends {
    op := .read, src := tileEnd t, dst := tileIo task.launch.ioDie t, pos := t, issuer := .tile t, addr := va,
    tenant := task.launch.tenant, msg := .xlate who task.launch.tenant va need }
  exact ⟨id, _, sent, rfl, rfl, rfl⟩

/-! ### The next read of an input slot (R274 to R276, R279, R306) -/

section
variable {s : State} {t k : Nat} {va : DWord} {n l i' o' : Nat}
  (ready : s.slotReady t k = true) (input : (s.slot t k).d.dir = 0) (span : (s.slot t k).nextSpan = (va, n, l, i', o'))
include ready input span

/-- A slot whose element the tile can translate sends the read, and goes on to the next. -/
theorem State.injectRead_sends {pa : DWord} {leaf : Leaf} {r : Packet} {remote : Option Nat}
    (translates : s.slotXlate t k va needRead = .ok pa leaf) (made : s.tileReq t .read pa n [] = some (r, remote)) :
    let x := s.slot t k
    let s' := s.injectRead t k
    s'.mem = s.mem ∧ (s'.slot t k).nextReq = i' ∧ (s'.slot t k).reqOff = o' ∧
    (∃ b, s'.accesses = s.accesses ++ [b] ∧ b.issuer = .tile t ∧ b.held = false ∧ b.purpose = .streamRd k x.useId
      (x.nextReq / x.d.perHalf) (x.nextReq % x.d.perHalf * x.d.elem + x.reqOff) x.nextReq l) ∧
    ∃ id p, smGet s'.net.pkts id = some p ∧ p.op = .read ∧ p.addr = r.addr ∧ p.size = n ∧ p.issuer = .tile t := by
  intro x
  obtain ⟨-, tag, left, j, takes⟩ := State.slotReady_input ready input
  obtain ⟨op, size, issuer, -⟩ := State.tileReq_fields made
  obtain ⟨u, used, mem, accesses, same⟩ : ∃ u, (if x.reqOff = 0 then s.tlbUse t leaf else s) = u ∧
      u.mem = s.mem ∧ u.accesses = s.accesses ∧ u.tileReq t .read pa n [] = s.tileReq t .read pa n [] := by
    refine ⟨_, rfl, ?_⟩
    split
    · exact s.tlbUse_leaves ..
    · exact ⟨rfl, rfl, rfl⟩
  obtain ⟨charged, stored⟩ := u.chargeClass_leaves t .read n remote.isSome
  obtain ⟨v, a, _, sends, vmem, vaccesses, req, who, purpose, unheld⟩ : ∃ (v : State) (a : Access) (tag : Nat),
      s.injectRead t k = (v.issue a).updSlot t k (fun x => { x with nextReq := i', reqOff := o', leaf := if o' = 0 then none else some leaf }) ∧
      v.mem = s.mem ∧ v.accesses = s.accesses ∧ a.req = { r with rt := x.d.rt, tag } ∧ a.issuer = .tile t ∧
      a.purpose = .streamRd k x.useId (x.nextReq / x.d.perHalf) (x.nextReq % x.d.perHalf * x.d.elem + x.reqOff) x.nextReq l ∧ a.held = false := by
    let v := (u.chargeClass t .read n remote.isSome).updSlot t k (fun x => x.updHalf j (fun h => { h with begun := true }))
    refine ⟨v, v.mkAccess (.tile t) ((v.freeTag (.tile t)).getD 0) (.streamRd k x.useId (x.nextReq / x.d.perHalf)
      (x.nextReq % x.d.perHalf * x.d.elem + x.reqOff) x.nextReq l) { r with rt := x.d.rt } remote, _, ?_, stored.trans mem, charged.trans accesses,
      rfl, rfl, rfl, rfl⟩
    unfold State.injectRead
    dsimp only
    rw [takes]
    dsimp only
    rw [if_neg (by simp [left, tag]), span]
    dsimp only
    rw [translates]
    dsimp only
    rw [used, same, made]
  have free : a.req.op.ordered = false := by
    rw [req]
    exact congrArg PktOp.ordered op
  obtain ⟨added, id, p, sent, sop, addr, ssize, sissuer⟩ := State.issue_sends (s := v) free
  dsimp only
  rw [sends, State.slot_updSlot_same, State.updSlot_mem, State.updSlot_accesses, State.updSlot_net, State.issue_mem, added, vaccesses, vmem]
  rw [req] at sop addr ssize sissuer
  exact ⟨rfl, rfl, rfl, ⟨_, rfl, who, unheld, purpose⟩, id, p, sent, sop.trans op, addr, ssize.trans size, sissuer.trans issuer⟩

/-- A slot whose element the tile cannot translate asks for the leaf, once. -/
theorem State.injectRead_asks (misses : s.slotXlate t k va needRead = .miss) (unasked : (s.slot t k).xlate = false) :
    s.injectRead t k = (s.askXlate t (k + 8) va needRead).updSlot t k (fun x => { x with xlate := true }) := by
  obtain ⟨-, tag, left, j, takes⟩ := State.slotReady_input ready input
  unfold State.injectRead
  dsimp only
  rw [takes]
  dsimp only
  rw [if_neg (by simp [left, tag]), span]
  dsimp only
  rw [misses]
  dsimp only
  rw [if_neg (by simp [unasked])]
end

end Sys2Proof.Machine

namespace Sys2Proof.Machine

/-! ### The record of a task that ends on its stream engine (R255, R298, R309) -/

section
variable {s : State} {t : Nat} {k : Task}

/-- The record of a task that has not begun to end: the first end's, with its fields. -/
theorem State.endTask_record {P : Task → Prop} (tokens : ∀ k sent, P k → P { k with tokensSent := sent }) (task : (s.tile t).task = some k)
    (goes : k.phase ≠ .ending) {code thr unit thr' unit' : Nat} {pc addr pc' addr' : DWord} {s₁ : State}
    (fields : s.endFields code thr unit pc addr = ((thr', unit', pc', addr'), s₁))
    (record : P { k with phase := .ending, code, fThread := thr', fUnit := unit', fPc := pc'.setWidth 16, fAddr := addr' }) :
    ∃ e, ((s.endTask t code thr unit pc addr).tile t).task = some e ∧ P e := by
  rw [State.endTask, task]
  dsimp only
  rw [if_neg goes, fields]
  dsimp only
  let ended : Task := { k with phase := .ending, code, fThread := thr', fUnit := unit', fPc := pc'.setWidth 16, fAddr := addr' }
  have recorded : ((s₁.updTile t (fun x => ({ x with task := some ended }.recordEnd code thr' unit' pc' addr').stopThreads)).tile t).task = some ended :=
    (congrArg Tile.task (State.tile_updTile_same ..)).trans (Tile.recordEnd_task ..)
  split
  · exact ⟨_, recorded, record⟩
  · exact State.stopWork_record tokens ⟨_, recorded, record⟩

/-- A fault of a slot ends the task with the fault's code, and names the slot. -/
theorem State.streamFault_record (task : (s.tile t).task = some k) (goes : k.phase ≠ .ending) (slot code cause elem : Nat) (addr : DWord) :
    ∃ e, ((s.streamFault t slot code cause elem addr).tile t).task = some e ∧ e.phase = .ending ∧ e.code = code ∧ e.faultSlot = some slot ∧
      e.origin = k.origin ∧ e.originCode = k.originCode := by
  have logged : ((s.strErr t cause slot elem addr).tile t).task = some k := by
    rw [State.strErr, State.tile_updTile_same]
    split <;> exact task
  have fresh : (k.phase != .ending) = true := by simp [goes]
  unfold State.streamFault
  rw [task]
  dsimp only
  rw [if_pos fresh]
  obtain ⟨_, _, _, _, _, -, -, fields⟩ := State.endFields_fit ((s.strErr t cause slot elem addr).updTile t
    (fun x => { x with task := x.task.map (fun (k : Task) => { k with faultSlot := some slot }) })) code 0 4 0 addr
  refine State.endTask_record (k := { k with faultSlot := some slot }) (P := fun e => e.phase = .ending ∧ e.code = code ∧ e.faultSlot = some slot ∧
    e.origin = k.origin ∧ e.originCode = k.originCode) (fun _ _ holds => holds) ?_ goes fields ⟨rfl, rfl, rfl, rfl, rfl⟩
  rw [State.tile_updTile_same, logged]
  rfl
end

/-! ### The responses of an input slot's reads (R279, R309) -/

section
variable {s : State} {t k i : Nat}

/-- Where no thread waits, STREAM_READ_RESPONSE of a half that is due makes it Ready. -/
theorem Due.completes (due : Due s t k i) (input : (s.slot t k).d.dir = 0) (unwaited : (s.slot t k).waiters = [])
    (sound : (s.slot t k).faults = []) (late : Nat) : Completes (.streamReadResponse t k late) s (fun s' =>
      s'.mem = s.mem ∧ ((s'.slot t k).half i).st = .ready ∧ (s.slot t k).delivered < (s'.slot t k).delivered) := by
  have isInput : (s.slot t k).isInput = true := by simp [Slot.isInput, input]
  have quiet := due.quiet (Slot.groupFault_none sound _) isInput unwaited late 1
  have slot := s.slot_updSlot_same t k (fun x => x.readied i)
  obtain ⟨_, _, _, readied⟩ := (s.slot t k).readied_frame i
  obtain ⟨-, delivered, ready⟩ := State.deliver_quiet (s := s.updSlot t k (fun x => x.readied i)) (t := t) (k := k)
    (by rw [slot, readied]; exact sound) (by rw [slot, readied]; exact isInput) (by rw [slot, readied]; exact unwaited) late 1
  rw [slot] at delivered ready
  refine ⟨(s.deliver t k late 2).wake t, ?_, ?_, ?_, ?_⟩
  · rw [exec_streamReadResponse, execStreamReadResponse, if_pos input]
  · exact ((State.deliver_inTile sound late 2).wake).mem
  · rw [State.slot_wake, quiet]
    exact ready i (Slot.half_readied_same ..)
  · rw [State.slot_wake, quiet]
    exact Nat.lt_of_lt_of_le (by rw [readied]; exact Nat.lt_succ_self _) delivered

/-- STREAM_READ_RESPONSE of a half that holds a fault ends the task with the fault's code. -/
theorem Due.completes_fault (due : Due s t k i) (input : (s.slot t k).d.dir = 0) {task : Task} (has : (s.tile t).task = some task)
    (goes : task.phase ≠ .ending) {f : SlotFault} (fault : (s.slot t k).groupFault ((s.slot t k).half i).group = some f) (late : Nat) :
    Completes (.streamReadResponse t k late) s (fun s' =>
      ∃ e, (s'.tile t).task = some e ∧ e.phase = .ending ∧ e.code = f.code ∧ e.faultSlot = some k) := by
  obtain ⟨e, ended, phase, code, slot, -⟩ := State.streamFault_record has goes k f.code f.cause f.elem f.addr
  refine ⟨(s.deliver t k late 2).wake t, ?_, e, ?_, phase, code, slot⟩
  · rw [exec_streamReadResponse, execStreamReadResponse, if_pos input]
  · rw [(State.wake_woken _ t).task, due.faults fault]
    exact ended
end

/-! ### The translation service and its answers (R302 to R306) -/

section
variable {s : State} {t k : Nat}

/-- A service that has no leaf for the address answers what the walk answers, and may keep it. -/
theorem State.service_walks {d tenant : Nat} {va : DWord} (missing : tlbFind (smGetD s.xsvc d []) tenant va.toNat = none) :
    ∃ xsvc, s.service d tenant va = ((s.walk tenant va).1, { (s.walk tenant va).2 with xsvc }) := by
  unfold State.service
  dsimp only
  rw [missing]
  dsimp only
  rcases s.walk tenant va with ⟨leaf, u⟩
  cases leaf with
  | none => exact ⟨u.xsvc, rfl⟩
  | some l => exact ⟨_, rfl⟩

/-- TRANSLATION_REQUEST is answered by the walk of the tenant's tree. -/
theorem translationRequest_answers {id who tenant need d j : Nat} {va : DWord} {p : Packet} (arrived : s.arrived id .read = some p)
    (asks : p.msg = .xlate who tenant va need) (port : ifaceAt p.dst = .io d j) (missing : tlbFind (smGetD s.xsvc d []) tenant va.toNat = none) :
    Completes (.translationRequest id) s (fun s' =>
      s' = { (s.walk tenant va).2 with net := s'.net, xsvc := s'.xsvc } ∧ ∃ q e, smGet s'.net.pkts q = some e ∧
        e.op = .readRsp ∧ e.dst = p.src ∧ e.msg = .xlateRsp who va (s.walk tenant va).1) := by
  obtain ⟨xsvc, service⟩ := State.service_walks missing
  let u : State := { (s.walk tenant va).2 with xsvc }
  let answer : Packet := { op := .readRsp, src := p.dst, dst := p.src, pos := p.dst.router, issuer := p.issuer, tenant, addr := va,
                           msg := .xlateRsp who va (s.walk tenant va).1 }
  obtain ⟨q, _, _, _, _, _, _, sent⟩ := (u.dropPkt id).inject_sends answer
  refine ⟨(u.dropPkt id).inject answer, ?_, rfl, q, _, sent, rfl, rfl, rfl⟩
  rw [exec_translationRequest, execTranslationRequest, arrived]
  dsimp only
  rw [asks, port]
  dsimp only
  rw [service]

/-- An answer for the tenant of the tile's task is its own. -/
theorem State.dropPkt_runsTenant (id : Nat) {task : Task} {tenant : Nat} (has : (s.tile t).task = some task) (same : tenant = task.launch.tenant) :
    ¬ (((s.dropPkt id).tile t).task = none ∨ (s.dropPkt id).taskTenant t ≠ some tenant) := by
  have kept : ((s.dropPkt id).tile t).task = some task := has
  rw [State.taskTenant, kept, same]
  simp

section
variable {id who : Nat} {va : DWord} {p : Packet} {task : Task} (has : (s.tile t).task = some task)
  (arrived : s.arrived id .readRsp = some p) (tile : p.dst.router = t) (tenant : p.tenant = task.launch.tenant)
include has arrived tile tenant

/-- TRANSLATION_RESPONSE with a leaf fills the tile's cache. -/
theorem translationResponse_fills {leaf : Leaf} (answer : p.msg = .xlateRsp who va (some leaf)) : Completes (.translationResponse id) s (fun s' =>
    s'.mem = s.mem ∧ (s'.tile t).str.tlb = tlbAdd (s.tile t).str.tlb leaf 64 ∧ (s'.tile t).task = some task) := by
  subst tile
  obtain ⟨u, asked, inside, tlb⟩ : ∃ u, (if 8 ≤ who then (s.dropPkt id).updSlot p.dst.router (who - 8) (fun x => { x with xlate := false })
      else s.dropPkt id) = u ∧ InTile p.dst.router s u ∧ (u.tile p.dst.router).str.tlb = (s.tile p.dst.router).str.tlb := by
    refine ⟨_, rfl, .ite (((InTile.refl _ s).dropPkt id).updSlot ..) ((InTile.refl _ s).dropPkt id), ?_⟩
    split
    · rw [State.updSlot, State.tile_updTile_same]
      rfl
    · rfl
  refine ⟨(u.updTile p.dst.router (fun x => { x with str := { x.str with tlb := tlbAdd x.str.tlb leaf 64 } })).wake p.dst.router, ?_, ?_, ?_, ?_⟩
  · rw [exec_translationResponse, execTranslationResponse, arrived]
    dsimp only
    rw [answer]
    dsimp only
    rw [if_neg (State.dropPkt_runsTenant id has tenant), asked]
  · exact ((inside.updTile _).wake).mem
  · rw [(State.wake_woken _ _).tile, State.tile_updTile_same, ← tlb]
  · exact (((inside.updTile _).wake).task).trans has

/-- TRANSLATION_RESPONSE without a leaf ends the task of the thread that waits for it with a translation fault. -/
theorem translationResponse_faults (answer : p.msg = .xlateRsp who va none) (thread : who < 8) (goes : task.phase ≠ .ending)
    (waits : (s.thread t who).wait = .retry (.xlate va)) : Completes (.translationResponse id) s (fun s' =>
      ∃ e, (s'.tile t).task = some e ∧ e.phase = .ending ∧ e.code = 7 ∧ e.fThread = who ∧ e.fAddr = va) := by
  subst tile
  refine ⟨(s.dropPkt id).endTask p.dst.router 7 who 0 (s.thread p.dst.router who).pc va, ?_, ?_⟩
  · rw [exec_translationResponse, execTranslationResponse, arrived]
    dsimp only
    rw [answer]
    dsimp only
    rw [if_neg (State.dropPkt_runsTenant id has tenant), if_pos thread, if_neg (Nat.not_le.mpr thread)]
    exact congrArg Host.Outcome.next (if_pos waits)
  · have fields : (s.dropPkt id).endFields 7 who 0 (s.thread p.dst.router who).pc va =
      ((who % 8, 0, (s.thread p.dst.router who).pc, va), s.dropPkt id) := rfl
    exact State.endTask_record (s := s.dropPkt id) (P := fun e => e.phase = .ending ∧ e.code = 7 ∧ e.fThread = who ∧ e.fAddr = va)
      (fun _ _ holds => holds) has goes fields ⟨rfl, rfl, Nat.mod_eq_of_lt thread, rfl⟩
end
end

/-! ### The stream engine (R274 to R276, R279, R302 to R306, R309) -/

section
variable {s : State} {t k : Nat} {task : Task} (has : (s.tile t).task = some task) (ready : s.slotReady t k = true)
  (input : (s.slot t k).d.dir = 0) (free : s.tileHeld t = false) {va : DWord} {n l i' o' : Nat} (span : (s.slot t k).nextSpan = (va, n, l, i', o'))
include has ready input free span

/-- STREAM_INJECT of an input slot that can translate, and whose turn it is, sends the read. -/
theorem streamInject_sends {pa : DWord} {leaf : Leaf} {r : Packet} {remote : Option Nat} (translates : s.slotXlate t k va needRead = .ok pa leaf)
    (made : s.tileReq t .read pa n [] = some (r, remote)) (share : (s.tile t).str.share (classOf .read remote.isSome) ≠ 0)
    (alone : ∀ j, j < 32 → j ≠ k → s.slotReady t j = false) :
    let x := s.slot t k
    Completes (.streamInject t k) s (fun s' => s'.mem = s.mem ∧ (s'.slot t k).nextReq = i' ∧ (s'.slot t k).reqOff = o' ∧
      (∃ b, s'.accesses = s.accesses ++ [b] ∧ b.issuer = .tile t ∧ b.held = false ∧ b.purpose = .streamRd k x.useId
        (x.nextReq / x.d.perHalf) (x.nextReq % x.d.perHalf * x.d.elem + x.reqOff) x.nextReq l) ∧
      ∃ id p, smGet s'.net.pkts id = some p ∧ p.op = .read ∧ p.addr = r.addr ∧ p.size = n ∧ p.issuer = .tile t) := by
  have cls := State.slotClass_read ready input (by rw [span]; exact translates) made
  obtain ⟨cr, rr, injects⟩ := streamInject_read has ready input free (fun c named => by
    rw [cls] at named
    cases named
    exact ⟨share, alone⟩)
  have sends := State.injectRead_sends (s := s.ported t cr rr) (t := t) (k := k) (va := va) (n := n) (l := l) (i' := i') (o' := o')
    (by rw [State.slotReady_ported]; exact ready)
    (by rw [State.slot_ported]; exact input) (by rw [State.slot_ported]; exact span) (by rw [State.slotXlate_ported]; exact translates)
    (by rw [State.tileReq_ported]; exact made)
  rw [State.slot_ported] at sends
  exact ⟨_, injects, sends⟩

/-- STREAM_INJECT of an input slot whose leaf the tile does not hold asks for it, once. -/
theorem streamInject_asks (misses : s.slotXlate t k va needRead = .miss) (unasked : (s.slot t k).xlate = false) :
    Completes (.streamInject t k) s (fun s' => s'.mem = s.mem ∧ s'.accesses = s.accesses ∧ s'.slot t k = { s.slot t k with xlate := true } ∧
      ∃ id p, smGet s'.net.pkts id = some p ∧ p.op = .read ∧ p.msg = .xlate (k + 8) task.launch.tenant va needRead ∧
        p.dst = tileIo task.launch.ioDie t) := by
  have cls := State.slotClass_miss ready input (by rw [span]; exact misses)
  obtain ⟨cr, rr, injects⟩ := streamInject_read has ready input free (fun c named => by
    rw [cls] at named
    cases named)
  have asks := State.injectRead_asks (s := s.ported t cr rr) (t := t) (k := k) (va := va) (n := n) (l := l) (i' := i') (o' := o')
    (by rw [State.slotReady_ported]; exact ready)
    (by rw [State.slot_ported]; exact input) (by rw [State.slot_ported]; exact span) (by rw [State.slotXlate_ported]; exact misses)
    (by rw [State.slot_ported]; exact unasked)
  obtain ⟨mem, accesses, slot, sent⟩ := State.askXlate_sends (s := s.ported t cr rr) (by rw [State.tile_ported]; exact has) (k + 8) va needRead
  refine ⟨_, injects, ?_⟩
  dsimp only
  rw [asks, State.slot_updSlot_same, slot, State.slot_ported, State.updSlot_mem, State.updSlot_accesses, State.updSlot_net, mem, accesses]
  exact ⟨rfl, rfl, rfl, sent⟩
end

/-- Settles O32: what has its turn at the port is sent, what has come is delivered, and a translation is answered by the walk. -/
theorem streamEngineReadsAndTranslates : Obligations.StreamEngineReadsAndTranslates := by
  unfold Obligations.StreamEngineReadsAndTranslates
  intro s t k task has running x ten
  have goes : task.phase ≠ .ending := by simp [running]
  refine ⟨fun ready input free n l i' o' va span => ⟨fun pa leaf r remote translates made share alone => ?_, fun misses unasked => ?_⟩,
    fun i active input due held arrived unwaited late => ?_, fun id who tenant need d j va p arrived asks port missing => ?_,
    fun id who va p arrived tile tenant => ⟨fun leaf answer => ?_, fun answer thread waits => ?_⟩⟩
  · exact streamInject_sends has ready input free span translates made share alone
  · exact streamInject_asks has ready input free span misses unasked
  · have isDue : Due s t k i := ⟨active, by simp [has, running], due, arrived, held⟩
    exact ⟨fun sound => isDue.completes input unwaited sound late, fun f fault => isDue.completes_fault input has goes fault late⟩
  · exact translationRequest_answers arrived asks port missing
  · exact translationResponse_fills has arrived tile tenant answer
  · exact translationResponse_faults has arrived tile tenant answer thread goes waits

end Sys2Proof.Machine

namespace Sys2Proof.Machine

/-! ### A link's packet at its tile (R291 to R294, R603) -/

/-- The packet's tile is open, outside a reset, and in the packet's epoch. -/
structure Current (s : State) (p : Packet) : Prop where
  awake : (s.ctl p.dst.router).inReset = false
  opens : s.tileOpen p.dst.router = true
  epoch : ∃ q, s.partOfTile p.dst.router = some q ∧ s.partEpoch q = p.epoch

section
variable {s : State} {id i : Nat} {p : Packet}

theorem Current.bulk {op : PktOp} (current : Current s p) (arrived : s.arrived id op = some p) (go : Packet → State → State) :
    s.bulk id op go = go p (s.dropPkt id) := by
  obtain ⟨q, part, epoch⟩ := current.epoch
  unfold State.bulk
  rw [arrived]
  dsimp only
  rw [if_neg (by simp [current.awake]), if_neg (by simp [current.opens]), part, if_neg (by simp [epoch])]

theorem Current.token {kind : Token → Bool} {k : Token} (current : Current s p) (arrived : s.arrived id .linkToken = some p) (token : p.msg = .token k)
    (handled : kind k = true) (go : Nat → Nat → Token → Packet → State → State) :
    s.token id kind go = go p.dst.router p.slot k p (s.dropPkt id) := by
  unfold State.token
  rw [arrived]
  dsimp only
  rw [token]
  dsimp only
  rw [if_pos handled, current.bulk arrived]

/-! #### A half (R291, R292, R332) -/

/-- The state with a linked half's bytes in the loft half that takes it. -/
def State.landed (s : State) (id : Nat) (p : Packet) (i : Nat) : State :=
  ((s.dropPkt id).loftWr p.dst.router ((s.slot p.dst.router p.slot).d.halfOff i) p.data).updSlot p.dst.router p.slot (fun x =>
    x.updHalf i (fun h => { h with count := h.bytes, begun := true, held := p.tentative, tag := p.tag, uid := p.uid }))

theorem State.landed_mem : (s.landed id p i).mem = memPutList s.mem (loftAddr p.dst.router ((s.slot p.dst.router p.slot).d.halfOff i)) p.data := rfl

theorem State.slot_landed : (s.landed id p i).slot p.dst.router p.slot = (s.slot p.dst.router p.slot).updHalf i (fun h =>
    { h with count := h.bytes, begun := true, held := p.tentative, tag := p.tag, uid := p.uid }) :=
  State.slot_updSlot_same ..

/-- A half that matches what the slot expects. -/
structure Matches (s : State) (p : Packet) (i : Nat) : Prop where
  clean : p.isBad = false
  active : (s.slot p.dst.router p.slot).st = .active
  streams : s.streaming p.dst.router = true
  linked : (s.slot p.dst.router p.slot).d.dir = 3
  peer : s.peerOk p.dst.router (s.slot p.dst.router p.slot) p.src.router p.srcSlot p.group p.tenant = true
  expected : (s.slot p.dst.router p.slot).expectHalf = some i
  bytes : ((s.slot p.dst.router p.slot).half i).bytes = p.size

/-- LINK_HALF of a half that matches: it lands, and unless it is tentative it is acknowledged and delivered. -/
theorem Matches.lands (good : Matches s p i) (current : Current s p) (arrived : s.arrived id .linkHalf = some p) :
    exec (.linkHalf id) s = .next (
      let u := (s.landed id p i).respond p .writeAck .ok []
      if p.tentative then (s.landed id p i).wake p.dst.router
      else if (u.slot p.dst.router p.slot).waiters.isEmpty then (u.deliver p.dst.router p.slot 0 2).wake p.dst.router
      else ((u.free 32).2.deliver p.dst.router p.slot (u.free 32).1.toNat 2).wake p.dst.router) := by
  have slot : (s.dropPkt id).slot p.dst.router p.slot = s.slot p.dst.router p.slot := rfl
  have streams : (s.dropPkt id).streaming p.dst.router = true := good.streams
  have peer : (s.dropPkt id).peerOk p.dst.router (s.slot p.dst.router p.slot) p.src.router p.srcSlot p.group p.tenant = true := good.peer
  rw [exec_linkHalf, execLinkHalf, arrived]
  dsimp only
  rw [if_neg (by simp [good.clean]), current.bulk arrived]
  rw [slot, if_neg (by simp [good.active, streams]), if_neg (by simp [good.linked, peer]), good.expected]
  dsimp only
  rw [if_neg (not_not.mpr good.bytes)] <;> rfl

/-- A half that is not tentative is acknowledged, and its delivery leaves memory as the half left it. -/
theorem Matches.acknowledged (good : Matches s p i) (current : Current s p) (arrived : s.arrived id .linkHalf = some p) (tentative : p.tentative = false)
    (sound : (s.slot p.dst.router p.slot).faults = []) : Completes (.linkHalf id) s (fun s' => s'.mem = (s.landed id p i).mem ∧
      ((s.slot p.dst.router p.slot).waiters = [] → Answered p s' .writeAck .ok [])) := by
  obtain ⟨u, responds⟩ : ∃ u, (s.landed id p i).respond p .writeAck .ok [] = u := ⟨_, rfl⟩
  obtain ⟨h0, h1, half⟩ := (s.slot p.dst.router p.slot).updHalf_frame i (fun h =>
    { h with count := h.bytes, begun := true, held := p.tentative, tag := p.tag, uid := p.uid })
  have slot : u.slot p.dst.router p.slot = { s.slot p.dst.router p.slot with h0, h1 } := by
    rw [← half, ← State.slot_landed, ← responds]
    rfl
  have mem : u.mem = (s.landed id p i).mem := by
    rw [← responds]
    exact State.respond_mem ..
  have answered : Answered p u .writeAck .ok [] := responds ▸ State.respond_answered ..
  have lands := good.lands current arrived
  dsimp only at lands
  rw [responds, if_neg (by simp [tentative])] at lands
  by_cases unwaited : (s.slot p.dst.router p.slot).waiters = []
  · rw [if_pos (by simp [slot, unwaited])] at lands
    obtain ⟨⟨tiles, frame⟩, -⟩ := State.deliver_quiet (s := u) (t := p.dst.router) (k := p.slot) (by rw [slot]; exact sound)
      (by simp [slot, Slot.isInput, good.linked]) (by rw [slot]; exact unwaited) 0 2
    refine ⟨_, lands, ?_, fun _ => ?_⟩
    · rw [← mem, frame, ((InTile.refl _ _).wake).mem]
    · unfold Answered
      rw [State.wake_net, frame]
      exact answered
  · rw [if_neg (by simp [slot, unwaited])] at lands
    have drawn : (u.free 32).2.slot p.dst.router p.slot = u.slot p.dst.router p.slot := rfl
    have inTile : InTile p.dst.router u ((u.free 32).2.deliver p.dst.router p.slot (u.free 32).1.toNat 2) :=
      ((InTile.refl _ u).free 32).trans (State.deliver_inTile (by rw [drawn, slot]; exact sound) ..)
    exact ⟨_, lands, inTile.wake.mem.trans mem, fun no => absurd no unwaited⟩

/-- A tentative half is held without an answer. -/
theorem Matches.heldBack (good : Matches s p i) (current : Current s p) (arrived : s.arrived id .linkHalf = some p) (tentative : p.tentative = true) :
    Completes (.linkHalf id) s (fun s' => s'.mem = (s.landed id p i).mem ∧ s'.net.pkts = smErase s.net.pkts id ∧
      ((s'.slot p.dst.router p.slot).half i).held = true ∧ ((s'.slot p.dst.router p.slot).half i).tag = p.tag) := by
  have lands := good.lands current arrived
  dsimp only at lands
  rw [if_pos tentative] at lands
  refine ⟨_, lands, ((InTile.refl _ _).wake).mem, ?_, ?_, ?_⟩
  · rw [State.wake_net]
    rfl
  · rw [State.slot_wake, State.slot_landed, Slot.half_updHalf_same]
    exact tentative
  · rw [State.slot_wake, State.slot_landed, Slot.half_updHalf_same]

/-- LINK_HALF of a half that matches writes its bytes. -/
theorem Matches.completes (good : Matches s p i) (current : Current s p) (arrived : s.arrived id .linkHalf = some p)
    (sound : (s.slot p.dst.router p.slot).faults = []) (full : p.data.length = p.size) (wf : Memory.wf s.mem = true) :
    let a := loftAddr p.dst.router ((s.slot p.dst.router p.slot).d.halfOff i)
    Completes (.linkHalf id) s (fun s' => s'.rd a p.size = p.data ∧
      (∀ b, (b < a ∨ a + p.size ≤ b) → memGet s'.mem b = memGet s.mem b) ∧
      (p.tentative = false → (s.slot p.dst.router p.slot).waiters = [] →
        ∃ n e, smGet s'.net.pkts n = some e ∧ e.op = .writeAck ∧ e.status = .ok ∧ e.dst = p.src ∧ e.tag = p.tag) ∧
      (p.tentative = true → s'.net.pkts = smErase s.net.pkts id ∧ ((s'.slot p.dst.router p.slot).half i).held = true ∧
        ((s'.slot p.dst.router p.slot).half i).tag = p.tag)) := by
  intro a
  have stored {s' : State} (mem : s'.mem = (s.landed id p i).mem) : s'.rd a p.size = p.data ∧
      ∀ b, (b < a ∨ a + p.size ≤ b) → memGet s'.mem b = memGet s.mem b := full ▸ Stored.of_mem wf (mem.trans State.landed_mem)
  cases tentative : p.tentative with
  | false =>
    obtain ⟨s', runs, mem, answers⟩ := good.acknowledged current arrived tentative sound
    obtain ⟨reads, leaves⟩ := stored mem
    refine ⟨s', runs, reads, leaves, fun _ unwaited => ?_, nofun⟩
    obtain ⟨n, e, sent, op, status, -, dst, -, tag⟩ := answers unwaited
    exact ⟨n, e, sent, op, status, dst, tag⟩
  | true =>
    obtain ⟨s', runs, mem, held⟩ := good.heldBack current arrived tentative
    obtain ⟨reads, leaves⟩ := stored mem
    exact ⟨s', runs, reads, leaves, nofun, fun _ => held⟩

/-! #### Credits and tokens (R292 to R294, R308, R333 to R335) -/

/-- LINK_CREDIT of the producer's peer adds up. -/
theorem linkCredit_counts (current : Current s p) (arrived : s.arrived id .linkCredit = some p) (active : (s.slot p.dst.router p.slot).st = .active)
    (linked : (s.slot p.dst.router p.slot).d.dir = 2)
    (peer : s.peerOk p.dst.router (s.slot p.dst.router p.slot) p.src.router p.srcSlot p.group p.tenant = true) :
    Completes (.linkCredit id) s (fun s' => s' = { s with net := s'.net, tiles := s'.tiles } ∧
      s'.slot p.dst.router p.slot = { s.slot p.dst.router p.slot with credits := (s.slot p.dst.router p.slot).credits + p.size }) := by
  have slot : (s.dropPkt id).slot p.dst.router p.slot = s.slot p.dst.router p.slot := rfl
  have peer' : (s.dropPkt id).peerOk p.dst.router (s.slot p.dst.router p.slot) p.src.router p.srcSlot p.group p.tenant = true := peer
  refine ⟨(s.dropPkt id).updSlot p.dst.router p.slot (fun x => { x with credits := x.credits + p.size }), ?_, rfl, State.slot_updSlot_same ..⟩
  rw [exec_linkCredit, execLinkCredit, current.bulk arrived, State.credit]
  dsimp only
  rw [slot, if_neg (by simp [active]), if_neg (by simp [active]), if_neg (by simp [linked, peer'])]

/-- END at a consumer that has not received the whole use closes it. -/
theorem State.endAtConsumer_closes {t k : Nat} (active : (s.slot t k).st = .active) (linked : (s.slot t k).d.dir = 3)
    (left : (s.slot t k).nextDel < (s.slot t k).d.total) : InTile t s (s.endAtConsumer t k) ∧
      ((s.endAtConsumer t k).slot t k).st = .closed ∧ ((s.endAtConsumer t k).slot t k).failed = true := by
  have closes : s.endAtConsumer t k = s.closeSlot t k := if_neg (by simp [active, linked, left])
  rw [closes]
  exact State.closeSlot_spec active (by simp [Slot.linked, linked])

section
variable (current : Current s p) (arrived : s.arrived id .linkToken = some p) (active : (s.slot p.dst.router p.slot).st = .active)
  (peer : (s.slot p.dst.router p.slot).peerIs p = true)
include current arrived peer

theorem linkEnd_ends (token : p.msg = .token .fin) :
    exec (.linkEnd id) s = .next ((s.dropPkt id).endAtConsumer p.dst.router p.slot) := by
  have peer' : ((s.dropPkt id).slot p.dst.router p.slot).peerIs p = true := peer
  rw [exec_linkEnd, execLinkEnd, current.token arrived token (by decide), if_neg (by decide), if_pos peer']

include active

/-- LINK_ABORT at a consumer without a delivery acts as END. -/
theorem linkAbort_ends {origin code : Nat} (token : p.msg = .token (.abort origin code)) (linked : (s.slot p.dst.router p.slot).d.dir = 3)
    (undelivered : (s.slot p.dst.router p.slot).delivered = 0) :
    exec (.linkAbort id) s = .next ((s.dropPkt id).endAtConsumer p.dst.router p.slot) := by
  have slot : (s.dropPkt id).slot p.dst.router p.slot = s.slot p.dst.router p.slot := rfl
  rw [exec_linkAbort, execLinkAbort, current.token arrived token rfl]
  dsimp only
  rw [slot, if_neg (by simp [active, linked, peer]), if_neg (by simp [undelivered])]

/-- LINK_ABORT at a consumer that had a delivery ends its task with STREAM_ABORT and the origin. -/
theorem linkAbort_aborts {origin code : Nat} {task : Task} (token : p.msg = .token (.abort origin code))
    (linked : (s.slot p.dst.router p.slot).d.dir = 3) (delivered : 0 < (s.slot p.dst.router p.slot).delivered)
    (has : (s.tile p.dst.router).task = some task) (running : task.phase = .running) :
    Completes (.linkAbort id) s (fun s' => ∃ e, (s'.tile p.dst.router).task = some e ∧ e.phase = .ending ∧ e.code = 8 ∧
      e.origin = origin ∧ e.originCode = code) := by
  have slot : (s.dropPkt id).slot p.dst.router p.slot = s.slot p.dst.router p.slot := rfl
  have has' : ((s.dropPkt id).tile p.dst.router).task = some task := has
  have streams : (s.dropPkt id).streaming p.dst.router = true := by
    rw [State.streaming, has']
    simp [running]
  let u := (s.dropPkt id).updTile p.dst.router (fun x => { x with task := x.task.map (fun (k : Task) => { k with origin, originCode := code }) })
  have blamed : ((u.free 64).2.tile p.dst.router).task = some { task with origin, originCode := code } := by
    have same : ((u.free 64).2.tile p.dst.router).task = (u.tile p.dst.router).task := rfl
    rw [same, State.tile_updTile_same, has']
    rfl
  obtain ⟨e, ended, phase, ecode, -, eorigin, eoriginCode⟩ := State.streamFault_record blamed (by simp [running]) p.slot 8 6
    (s.slot p.dst.router p.slot).nextDel (u.free 64).1
  refine ⟨_, ?_, e, ended, phase, ecode, eorigin, eoriginCode⟩
  rw [exec_linkAbort, execLinkAbort, current.token arrived token rfl]
  dsimp only
  rw [slot, if_neg (by simp [active, linked, peer]), if_pos ⟨delivered, streams⟩, has', if_pos (by simp [running])]

/-- LINK_CLOSE at a producer closes its slot. -/
theorem linkClose_closes {task : Task} (token : p.msg = .token .close) (linked : (s.slot p.dst.router p.slot).d.dir = 2)
    (has : (s.tile p.dst.router).task = some task) (running : task.phase = .running) :
    Completes (.linkClose id) s (fun s' => (s'.slot p.dst.router p.slot).st = .closed ∧ (s'.slot p.dst.router p.slot).failed = true ∧
      s'.mem = s.mem) := by
  have slot : (s.dropPkt id).slot p.dst.router p.slot = s.slot p.dst.router p.slot := rfl
  obtain ⟨inTile, closed, failed⟩ := State.closeSlot_spec (s := s.dropPkt id) (t := p.dst.router) (k := p.slot) active
    (by simp [slot, Slot.linked, linked])
  have still : (((s.dropPkt id).closeSlot p.dst.router p.slot).tile p.dst.router).task = some task := inTile.task.trans has
  have quiet : ((s.dropPkt id).closeSlot p.dst.router p.slot).abortTokens p.dst.router = (s.dropPkt id).closeSlot p.dst.router p.slot := by
    unfold State.abortTokens
    rw [still]
    exact if_neg (by simp [running])
  refine ⟨(s.dropPkt id).closeSlot p.dst.router p.slot, ?_, closed, failed, inTile.mem⟩
  rw [exec_linkClose, execLinkClose, current.token arrived token rfl]
  dsimp only
  rw [slot, if_neg (by simp [active]), if_pos ⟨active, linked, peer⟩, quiet]
end
end

/-- Settles O33: what the peer sends at the current epoch reaches its slot. -/
theorem linkPacketsReachTheirSlot : Obligations.LinkPacketsReachTheirSlot := by
  unfold Obligations.LinkPacketsReachTheirSlot
  intro s id p task q t k x has running awake opens part epoch active
  have current : Current s p := ⟨awake, opens, q, part, epoch⟩
  have streams : s.streaming t = true := by
    rw [State.streaming, has]
    simp [running]
  refine ⟨fun arrived clean linked peer sound i expected bytes full wf => ?_, fun arrived linked peer => ?_,
    fun arrived peer => ⟨fun token linked => ⟨fun left => ?_, fun whole => ?_⟩,
      fun origin code token linked => ⟨fun delivered => ?_, fun undelivered left => ?_⟩,
      fun token linked => ?_⟩⟩
  · exact Matches.completes ⟨clean, active, streams, linked, peer, expected, bytes⟩ current arrived sound full wf
  · exact linkCredit_counts current arrived active linked peer
  · obtain ⟨inTile, closed, failed⟩ := State.endAtConsumer_closes (s := s.dropPkt id) active linked left
    exact ⟨_, linkEnd_ends current arrived peer token, closed, failed, inTile.mem⟩
  · have stays : (s.dropPkt id).endAtConsumer t k = s.dropPkt id := if_pos (.inr (.inr whole))
    exact ⟨_, linkEnd_ends current arrived peer token, by rw [stays]; rfl, by rw [stays]; rfl⟩
  · exact linkAbort_aborts current arrived active peer token linked delivered has running
  · obtain ⟨inTile, closed, -⟩ := State.endAtConsumer_closes (s := s.dropPkt id) active linked left
    exact ⟨_, linkAbort_ends current arrived active peer token linked undelivered, closed, inTile.mem⟩
  · exact linkClose_closes current arrived active peer token linked has running

end Sys2Proof.Machine

namespace Sys2Proof.Machine

/-! ### The words of Winnow instructions (R327 to R329, R332, R336, R344) -/

/-- The word of an instruction that names a ticket: its opcode, the ticket, a register and the bits under them. -/
def winWord (op tk r low : Nat) : Nat := op * 2 ^ 56 + tk * 2 ^ 54 + r * 2 ^ 49 + low

/-- The fields of an instruction that names a ticket. -/
structure WinFields (w op tk r low : Nat) : Prop where
  op : opc w = op
  ticket : winTicket w = tk
  reg : winReg w = r
  low : w % 2 ^ 49 = low

theorem winWord_fields {op tk r low : Nat} (hop : op < 256) (htk : tk < 4) (hr : r < 32) (hlow : low < 2 ^ 49) :
    WinFields (winWord op tk r low) op tk r low := by
  constructor
  all_goals
    simp only [opc, winTicket, winReg, bits, winWord]
    norm_num at *
    omega

/-- WWAIT's fn, and its reserved bits. -/
theorem wwait_fields {w : Nat} {fn : Bool} (low : w % 2 ^ 49 = b2n fn * 2 ^ 32) : strFn w = fn ∧ bits w 48 33 = 0 ∧ bits w 31 0 = 0 := by
  have := b2n_le fn
  refine ⟨bitN_of_field ?_, ?_, ?_⟩
  · norm_num at *
    omega
  all_goals
    simp only [bits]
    norm_num at *
    omega

/-- The fields of WPEEK's word; its reserved bits are 0. -/
structure WpeekFields (w vd r k mt : Nat) : Prop where
  op : opc w = 0x64
  dst : mReg w = vd
  offset : sGa w = r
  slot : strSlot w = k
  type : bits w 35 33 = mt
  high : bits w 45 41 = 0
  low : bits w 32 0 = 0

theorem wpeekWord_fields {vd r k mt : Nat} (hvd : vd < 32) (hr : r < 32) (hk : k < 32) (hmt : mt ≤ 3) :
    WpeekFields (0x64 * 2 ^ 56 + vd * 2 ^ 51 + r * 2 ^ 46 + k * 2 ^ 36 + mt * 2 ^ 33) vd r k mt := by
  constructor <;> (simp only [opc, mReg, sGa, strSlot, bits]; norm_num; omega)

/-- The fields of WSPEC's word; its reserved bits are 0. -/
theorem wspecWord_fields (imm : BitVec 32) :
    let w := 0x65 * 2 ^ 56 + imm.toNat * 2 ^ 8
    opc w = 0x65 ∧ sImm w = imm.signExtend 64 ∧ bits w 55 40 = 0 ∧ bits w 7 0 = 0 := by
  have small := imm.isLt
  have field : bits (0x65 * 2 ^ 56 + imm.toNat * 2 ^ 8) 39 8 = imm.toNat := by
    simp only [bits]
    omega
  refine ⟨?_, by rw [sImm, field, BitVec.ofNat_toNat]; rfl, ?_, ?_⟩ <;> (simp only [opc, bits]; omega)

/-- The fields of WBOUND's word; its reserved bits are 0. -/
structure WboundFields (w gd va vb vc gs n : Nat) (acc test : Bool) : Prop where
  op : opc w = 0x66
  dst : bits w 55 51 = gd
  va : vVa w = va
  vb : vVb w = vb
  vc : vVc w = vc
  src : bits w 35 31 = gs
  count : bits w 30 7 + 1 = n
  acc : bitN w 6 = acc
  test : bitN w 5 = test
  low : bits w 4 0 = 0

theorem wboundWord_fields {gd va vb vc gs n : Nat} (acc test : Bool) (hgd : gd < 32) (hva : va < 32) (hvb : vb < 32) (hvc : vc < 32)
    (hgs : gs < 32) (positive : 1 ≤ n) (hn : n ≤ 2 ^ 24) :
    WboundFields (0x66 * 2 ^ 56 + gd * 2 ^ 51 + va * 2 ^ 46 + vb * 2 ^ 41 + vc * 2 ^ 36 + gs * 2 ^ 31 + (n - 1) * 2 ^ 7
      + b2n acc * 2 ^ 6 + b2n test * 2 ^ 5) gd va vb vc gs n acc test := by
  have := b2n_le acc
  have := b2n_le test
  constructor
  case acc =>
    refine bitN_of_field ?_
    norm_num at *
    omega
  case test =>
    refine bitN_of_field ?_
    norm_num at *
    omega
  all_goals
    simp only [opc, vVa, vVb, vVc, bits]
    norm_num at *
    omega

/-! ### Instructions that are done (R231, R242) -/

/-- The state after an instruction that left `s`: its thread goes on at `pc`, and it is counted. -/
def State.advance (s : State) (t thr : Nat) (pc : DWord) : State := (s.updThread t thr (fun h => { h with pc })).seqCtrAdd t 0x100 1

section
variable (s : State) (t thr : Nat) (pc : DWord)

@[simp] theorem State.thread_advance : (s.advance t thr pc).thread t thr = { s.thread t thr with pc } := by
  rw [State.advance, State.seqCtrAdd_thread, State.thread_updThread_same]

@[simp] theorem State.slot_advance (k : Nat) : (s.advance t thr pc).slot t k = s.slot t k := by
  rw [State.advance, State.slot_seqCtrAdd, State.slot_updThread]

@[simp] theorem State.mem_advance : (s.advance t thr pc).mem = s.mem := by
  rw [State.advance, State.seqCtrAdd_state]
  rfl

@[simp] theorem State.win_advance : ((s.advance t thr pc).tile t).win = (s.tile t).win := by
  rw [State.advance, State.seqCtrAdd_tile_same, State.tile_updThread_same]
  rfl

theorem State.tile_advance_ne {u : Nat} (other : u ≠ t) : (s.advance t thr pc).tile u = s.tile u := by
  rw [State.advance, State.seqCtrAdd_tile_ne _ _ _ _ _ other, State.tile_updThread_ne _ _ _ _ _ other]
end

section
variable {s s₁ : State} {t thr w o : Nat} {c : Instr} {ok : Nat → Bool} {run : Nat → State → Verdict}

/-- An instruction at issue whose verdict is that it is done. -/
theorem completes_done {P : State → Prop} (issues : Issues s t thr w) (op : opc w = o) (defined : definedOp o = true)
    (runs : exec c s = .next (s.issueAt t thr o ok run)) (verdict : run w s = .done s₁)
    (holds : P (s₁.advance t thr ((s.thread t thr).pc + 8))) : Completes c s P := by
  refine ⟨_, ?_, holds⟩
  rw [runs, s.issueAt_of_issues issues (by rw [op, defined]) op, verdict, s.settle_done issues.clean]
  rfl

/-- An instruction that has worked inside its tile, and left its thread alone, goes on. -/
theorem onward_advance (inside : InTile t s s₁) (thread : s₁.thread t thr = s.thread t thr) :
    Onward s (s₁.advance t thr ((s.thread t thr).pc + 8)) t thr := by
  refine ⟨by rw [State.thread_advance, thread], by rw [State.mem_advance, inside.mem], fun u other => ?_⟩
  rw [State.tile_advance_ne _ _ _ _ other, inside.tiles u other]
end

/-! ### Tickets (R326) -/

section
variable (s : State) (t k : Nat) (f : Ticket → Ticket)

@[simp] theorem State.win_updTicket : ((s.updTicket t k f).tile t).win =
    { (s.tile t).win with tickets := smSet (s.tile t).win.tickets k (f (s.ticket t k)) } := by
  rw [State.updTicket, State.tile_updTile_same]
  rfl

/-- A state with the tickets of another has each of its tickets. -/
theorem State.ticket_congr {s s' : State} {t : Nat} (tickets : (s'.tile t).win.tickets = (s.tile t).win.tickets) (k : Nat) :
    s'.ticket t k = s.ticket t k :=
  congrArg (fun m => smGetD m k ({} : Ticket)) tickets

@[simp] theorem State.ticket_updTicket_same : (s.updTicket t k f).ticket t k = f (s.ticket t k) := by
  rw [State.ticket, State.win_updTicket]
  exact smGetD_smSet_same ..

@[simp] theorem State.thread_updTicket (thr : Nat) : (s.updTicket t k f).thread t thr = s.thread t thr := by
  rw [State.thread, State.updTicket, State.tile_updTile_same]
  rfl

theorem InTile.updTicket {t : Nat} {s₀ s : State} (h : InTile t s₀ s) (k : Nat) (f : Ticket → Ticket) : InTile t s₀ (s.updTicket t k f) := h.updTile _

theorem InTile.clean {t : Nat} {s₀ s : State} (h : InTile t s₀ s) (p : Place) : InTile t s₀ (s.clean p) := h.same rfl rfl
end

/-! ### The Winnow instructions (R327 to R329, R332, R336, R344, R345) -/

/-- The word passes what WPRED and WCHK check of it alone (R139, R329). -/
structure WinQueued (s : State) (t w : Nat) : Prop where
  width : s.tileW t = 28 + aWsel w
  wsel : aWsel w ≤ 4
  reserved : bits w 48 3 = 0

theorem WinQueued.widthFault {s : State} {t w : Nat} (queued : WinQueued s t w) : widthFault (s.tileW t) w = false := by
  simp [Machine.widthFault, queued.width, Nat.add_comm]

section
variable {s : State} {t thr w tk r low : Nat} (issues : Issues s t thr w)
include issues

/-- WPRED opens a free ticket and queues its job. -/
theorem wpred_completes (fields : WinFields w 0x60 tk r low) (queued : WinQueued s t w) (free : (s.ticket t tk).st = .free)
    (room : (s.tile t).win.predQ.length < 4) : Completes (.wpred t thr) s (fun s' => Onward s s' t thr ∧
      (s'.tile t).win = { (s.tile t).win with tickets := smSet (s.tile t).win.tickets tk { st := .open }, predQ := (s.tile t).win.predQ ++
        [{ ticket := tk, off := (s.g t thr r).toNat % 2 ^ 21, thr, pc := (s.thread t thr).pc }] }) := by
  obtain ⟨op, rfl, rfl, -⟩ := fields
  let u := (s.updTicket t (winTicket w) (fun _ => { st := .open })).clean (.ticket t (winTicket w))
  have win : (u.tile t).win = { (s.tile t).win with tickets := smSet (s.tile t).win.tickets (winTicket w) { st := .open } } :=
    State.win_updTicket ..
  have thread : u.thread t thr = s.thread t thr := State.thread_updTicket ..
  refine completes_done issues op rfl (exec_wpred ..) (s₁ := u.updTile t (fun x => { x with win := { x.win with predQ := x.win.predQ ++
    [{ ticket := winTicket w, off := (s.g t thr (winReg w)).toNat % 2 ^ 21, thr, pc := (s.thread t thr).pc }] } })) ?_ ⟨?_, ?_⟩
  · unfold State.winQueue
    dsimp only
    rw [if_neg (by simp [queued.widthFault]), if_neg (by simp [queued.reserved, queued.wsel]), if_neg (by simp), if_neg (by simp [free]),
      if_neg (by simp [room])]
    rfl
  · refine onward_advance ((((InTile.refl t s).updTicket ..).clean _).updTile _) (Eq.trans ?_ thread)
    rw [State.thread, State.tile_updTile_same]
    rfl
  · rw [State.win_advance, State.tile_updTile_same, win]

/-- WCHK queues the check of an open ticket. -/
theorem wchk_completes (fields : WinFields w 0x61 tk r low) (queued : WinQueued s t w) (sound : s.isBad (.ticket t tk) = false)
    (opened : (s.ticket t tk).st = .open) (unqueued : (s.ticket t tk).chkQueued = false) (room : (s.tile t).win.chkQ.length < 4) :
    Completes (.wchk t thr) s (fun s' => Onward s s' t thr ∧
      (s'.tile t).win = { (s.tile t).win with
        tickets := smSet (s.tile t).win.tickets tk { s.ticket t tk with chkQueued := true }
        chkQ := (s.tile t).win.chkQ ++ [{ ticket := tk, off := (s.g t thr r).toNat % 2 ^ 21, thr, pc := (s.thread t thr).pc }] }) := by
  obtain ⟨op, rfl, rfl, -⟩ := fields
  let u := s.updTicket t (winTicket w) (fun x => { x with chkQueued := true })
  have thread : u.thread t thr = s.thread t thr := State.thread_updTicket ..
  refine completes_done issues op rfl (exec_wchk ..) (s₁ := u.updTile t (fun x => { x with win := { x.win with chkQ := x.win.chkQ ++
    [{ ticket := winTicket w, off := (s.g t thr (winReg w)).toNat % 2 ^ 21, thr, pc := (s.thread t thr).pc }] } })) ?_ ⟨?_, ?_⟩
  · unfold State.winQueue
    dsimp only
    rw [if_neg (by simp [queued.widthFault]), if_neg (by simp [queued.reserved, queued.wsel]), if_neg (by simp [sound]),
      if_neg (by simp [opened, unqueued]), if_neg (by simp [room])]
    rfl
  · refine onward_advance (((InTile.refl t s).updTicket ..).updTile _) (Eq.trans ?_ thread)
    rw [State.thread, State.tile_updTile_same]
    rfl
  · rw [State.win_advance, State.tile_updTile_same, State.win_updTicket]

/-- WTENT puts a linked output that is not tentative under the ticket. -/
theorem wtent_completes {k : Nat} (fields : WinFields w 0x62 tk 0 (k * 2 ^ 36)) (hk : k < 32) (active : (s.slot t k).st = .active)
    (linked : (s.slot t k).d.dir = 2) (small : (s.slot t k).d.halfBytes ≤ 16384) (plain : (s.slot t k).ticket = none) :
    Completes (.wtent t thr) s (fun s' => Onward s s' t thr ∧ s'.slot t k = { s.slot t k with ticket := some tk }) := by
  obtain ⟨op, rfl, reg, low⟩ := fields
  obtain ⟨slot, high, rest⟩ : strSlot w = k ∧ bits w 53 41 = 0 ∧ bits w 35 0 = 0 := by
    simp only [strSlot, winReg, bits] at reg ⊢
    norm_num at *
    omega
  refine completes_done issues op rfl (exec_wtent ..) (s₁ := s.updSlot t k (fun x => { x with ticket := some (winTicket w) })) ?_
    ⟨onward_advance ((InTile.refl t s).updSlot ..) (State.thread_updSlot ..), ?_⟩
  · dsimp only
    rw [slot, if_neg (by simp [high, rest, active, linked, small]), plain, if_neg (by simp)]
  · rw [State.slot_advance, State.slot_updSlot_same]

/-- WWAIT with fn 1 of a resolved ticket reads and frees it. -/
theorem wwait_resolved (fields : WinFields w 0x63 tk r (2 ^ 32)) (sound : s.isBad (.ticket t tk) = false)
    (resolved : (s.ticket t tk).st = .resolved) : Completes (.wwait t thr) s (fun s' =>
      s'.mem = s.mem ∧ s'.ticket t tk = {} ∧ s'.thread t thr = (s.thread t thr).wrote r (s.ticket t tk).word) := by
  obtain ⟨op, rfl, rfl, low⟩ := fields
  obtain ⟨fn, high, rest⟩ := wwait_fields (fn := true) low
  refine completes_done issues op rfl (exec_wwait ..)
    (s₁ := (s.setG t thr (winReg w) (s.ticket t (winTicket w)).word).updTicket t (winTicket w) (fun _ => {})) ?_ ⟨?_, ?_, ?_⟩
  · dsimp only
    rw [if_neg (by simp [high, rest, resolved]), if_neg (by simp [sound]), if_pos fn, if_neg (by simp [resolved])]
  · rw [State.mem_advance]
    rfl
  · rw [State.ticket_congr (congrArg Winnow.tickets (State.win_advance ..)), State.ticket_updTicket_same]
  · rw [State.thread_advance, State.thread_updTicket, State.setG_thread]
    rfl

/-- WWAIT with fn 1 of an open ticket waits until it resolves. -/
theorem wwait_waits (fields : WinFields w 0x63 tk r (2 ^ 32)) (sound : s.isBad (.ticket t tk) = false) (opened : (s.ticket t tk).st = .open) :
    LeavesThread (.wwait t thr) s t thr { s.thread t thr with st := .unit, wait := .retry (.ticket tk true) } := by
  obtain ⟨op, rfl, rfl, low⟩ := fields
  obtain ⟨fn, high, rest⟩ := wwait_fields (fn := true) low
  refine leavesThread_wait issues.clean ((exec_at_issue issues op rfl (exec_wwait ..)).trans ?_)
  dsimp only
  rw [if_neg (by simp [high, rest, opened]), if_neg (by simp [sound]), if_pos fn, if_pos (by simp [opened])]

/-- WWAIT with fn 0 goes on once the predicted mask stands. -/
theorem wwait_predicted (fields : WinFields w 0x63 tk 0 0) (sound : s.isBad (.ticket t tk) = false) (predicted : (s.ticket t tk).predDone = true)
    (opened : (s.ticket t tk).st = .open) : LeavesThread (.wwait t thr) s t thr (s.thread t thr).advanced := by
  obtain ⟨op, rfl, -, low⟩ := fields
  obtain ⟨fn, high, rest⟩ := wwait_fields (fn := false) low
  refine leavesThread_advanced issues.clean ((exec_at_issue issues op rfl (exec_wwait ..)).trans ?_)
  dsimp only
  rw [if_neg (by simp [high, rest, opened]), if_neg (by simp [sound]), if_neg (by simp [fn]), if_pos (.inl predicted)]

/-- WSPEC opens a speculation at its restart pc. -/
theorem wspec_completes {imm : DWord} (op : opc w = 0x65) (offset : sImm w = imm) (high : bits w 55 40 = 0) (low : bits w 7 0 = 0)
    (closed : (s.thread t thr).spec = none) : LeavesThread (.wspec t thr) s t thr
      { s.thread t thr with spec := some ((s.thread t thr).pc + imm * 8), pc := (s.thread t thr).pc + 8 } := by
  let u := s.updThread t thr (fun h => { h with spec := some (h.pc + imm * 8) })
  have done := leavesThread_done (s₁ := u) (c := .wspec t thr) (ok := false) issues.clean ?_ ((ThreadOnly.refl s t thr).updThread _)
  · rwa [State.thread_updThread_same] at done
  · rw [exec_at_issue issues op rfl (exec_wspec ..)]
    dsimp only
    rw [if_neg (by simp [high, low, closed]), offset]

/-- WPEEK reads 64 elements of the next undelivered half; a held one taints the thread. -/
theorem wpeek_completes {k vd mt : Nat} (fields : WpeekFields w vd r k mt) (hmt : mt ≤ 3) (speculates : (s.thread t thr).spec ≠ none)
    (there : (s.slot t k).peekable = true) {a : Nat} (at_ : (s.slot t k).d.halfOff (s.slot t k).takeHalf + (s.g t thr r).toNat % 2 ^ 21 = a)
    (inside : (s.g t thr r).toNat % 2 ^ 21 + mtBytes mt ≤ (s.slot t k).d.halfBytes) (aligned : a % mtBytes mt = 0)
    (sound : s.loftBad t a (mtBytes mt) = false) : Completes (.wpeek t thr) s (fun s' => s'.mem = s.mem ∧ s'.thread t thr = { s.thread t thr with
      v := smSet (s.thread t thr).v vd ((unpackLanes mt (s.loft t a (mtBytes mt))).map (BitVec.ofNat 32 ·))
      taint := if ((s.slot t k).half (s.slot t k).takeHalf).held then [(k, (s.slot t k).takeHalf)] else []
      pc := (s.thread t thr).pc + 8 }) := by
  have clean := issues.clean
  let u := s.setV t thr vd (unpackLanes mt (s.loft t a (mtBytes mt)))
  let v := if ((s.slot t k).half (s.slot t k).takeHalf).held then
    u.updThread t thr (fun h => { h with taint := h.taint ++ [(k, (s.slot t k).takeHalf)] }) else u
  have verdict : (if ((s.slot t k).half (s.slot t k).takeHalf).held ∧ !(s.thread t thr).taint.contains (k, (s.slot t k).takeHalf) then
      u.updThread t thr (fun h => { h with taint := h.taint ++ [(k, (s.slot t k).takeHalf)] }) else u) = v := by
    simp [v, clean]
  refine completes_done issues fields.op rfl (exec_wpeek ..) (s₁ := v) ?_ ⟨?_, ?_⟩
  · dsimp only
    rw [fields.dst, fields.offset, fields.slot, fields.type, at_, if_neg (by simp [fields.high, fields.low, hmt, speculates]),
      if_neg (not_or.mpr ⟨Nat.not_lt.mpr inside, not_not.mpr aligned⟩), if_neg (by simp [there]),
      if_neg (by simp [clean]), if_neg (by simp [sound]), ← verdict]
  · rw [State.mem_advance]
    unfold v
    split <;> rfl
  · rw [State.thread_advance]
    unfold v
    split
    · rw [State.thread_updThread_same, State.setV_thread, clean]
      rfl
    · rw [State.setV_thread, ← clean]

/-- WBOUND writes the bound, and with its test the skip bit. -/
theorem wbound_completes {gd va vb vc gs n : Nat} {acc test : Bool} (fields : WboundFields w gd va vb vc gs n acc test)
    (good : s.vgood t thr [va, vb, vc]) :
    let p := boundSum (s.v t thr va) (s.v t thr vb) (s.v t thr vc)
    let U := if acc then (wAdd 24 ((s.g t thr gd).toNat % 2 ^ 32) 24 p 24 RUP 0).1 else p
    let v := (s.g t thr gs).toNat
    Completes (.wbound t thr) s (fun s' => s'.mem = s.mem ∧ s'.thread t thr = (s.thread t thr).wrote gd
      (BitVec.ofNat 64 (b2n (test && boundSkip U (v % 2 ^ 32) (v / 2 ^ 32) n) * 2 ^ 63 + U))) := by
  intro p U v
  let skip := test && boundSkip U (v % 2 ^ 32) (v / 2 ^ 32) n
  let u := s.setG t thr gd (BitVec.ofNat 64 (b2n skip * 2 ^ 63 + U))
  have inside : InTile t s ((u.winCtr t 0x158 (b2n test)).winCtr t 0x160 (b2n skip)) := (((InTile.refl t s).setG ..).winCtr ..).winCtr ..
  refine completes_done issues fields.op rfl (exec_wbound ..) (s₁ := (u.winCtr t 0x158 (b2n test)).winCtr t 0x160 (b2n skip)) ?_ ⟨?_, ?_⟩
  · dsimp only
    rw [fields.dst, fields.va, fields.vb, fields.vc, fields.src, fields.count, fields.acc, fields.test, if_neg (by simp [fields.low])]
    exact State.withV_good good _
  · rw [State.mem_advance, inside.mem]
  · rw [State.thread_advance, State.thread_winCtr, State.thread_winCtr, State.setG_thread]
    rfl
end

/-- Settles O34: each instruction by its own lemma, said of the fields of its word. -/
theorem winnowInstructionsOpenReadAndBound : Obligations.WinnowInstructionsOpenReadAndBound := by
  unfold Obligations.WinnowInstructionsOpenReadAndBound
  intro s t thr tk k gr vd ws htk hk hgr hvd hws width h w x ticket word onward job
  have queued (op : Nat) : WinQueued s t (winWord op tk gr ws) := by
    obtain ⟨wsel, reserved⟩ : aWsel (winWord op tk gr ws) = ws ∧ bits (winWord op tk gr ws) 48 3 = 0 := by
      simp only [aWsel, bits, winWord]
      norm_num
      omega
    exact ⟨by rw [width, wsel], by rw [wsel]; exact hws, reserved⟩
  have small : ws < 2 ^ 49 := by omega
  have slot : k * 2 ^ 36 < 2 ^ 49 := by omega
  refine ⟨fun issues free room => ?wpred, fun issues sound opened unqueued room => ?wchk, fun issues active linked fits plain => ?wtent,
    fun issues sound => ?wwait, fun issues sound predicted opened => ?predicted, fun imm issues closed => ?wspec,
    fun mt hmt issues speculates there => ?wpeek,
    fun gd va vb vc gs n acc test hgd hva hvb hvc hgs positive hn issues good => ?wbound⟩
  case wpred => exact wpred_completes issues (winWord_fields (by decide) htk hgr small) (queued _) free room
  case wchk => exact wchk_completes issues (winWord_fields (by decide) htk hgr small) (queued _) sound opened unqueued room
  case wtent => exact wtent_completes issues (winWord_fields (by decide) htk (by decide) slot) hk active linked fits plain
  case wwait =>
    have fields := winWord_fields (op := 0x63) (low := 2 ^ 32) (by decide) htk hgr (by decide)
    exact ⟨fun resolved => wwait_resolved issues fields sound resolved, fun opened => wwait_waits issues fields sound opened⟩
  case predicted => exact wwait_predicted issues (winWord_fields (by decide) htk (by decide) (by decide)) sound predicted opened
  case wspec =>
    obtain ⟨op, offset, high, low⟩ := wspecWord_fields imm
    exact wspec_completes issues op offset high low closed
  case wpeek =>
    intro i o a inside aligned sound
    exact wpeek_completes issues (wpeekWord_fields hvd hgr hk hmt) hmt speculates there rfl inside aligned sound
  case wbound => exact wbound_completes issues (wboundWord_fields acc test hgd hva hvb hvc hgs positive hn) good

end Sys2Proof.Machine

namespace Sys2Proof.Machine

/-! ### The Winnow unit of a tile at work (R326, R332, R333, R352) -/

section
variable (s : State) (t k : Nat)

@[simp] theorem Tile.win_updTh (x : Tile) (f : Thread → Thread) : (x.updTh k f).win = x.win := rfl

@[simp] theorem State.win_updSlot (f : Slot → Slot) : ((s.updSlot t k f).tile t).win = (s.tile t).win := by
  rw [State.updSlot, State.tile_updTile_same]
  rfl
@[simp] theorem State.win_setG (r : Nat) (v : DWord) : ((s.setG t k r v).tile t).win = (s.tile t).win := by
  rw [State.setG, State.tile_updThread_same, Tile.win_updTh]
@[simp] theorem State.win_strCtr (off n : Nat) : ((s.strCtr t off n).tile t).win = (s.tile t).win := by
  rw [State.tile_strCtr]
@[simp] theorem State.win_winCtr (off n : Nat) : ((s.winCtr t off n).tile t).win =
    { (s.tile t).win with ctr := ctrAdd (s.tile t).win.ctr off n } := by
  rw [State.tile_winCtr]
@[simp] theorem State.win_wake : ((s.wake t).tile t).win = (s.tile t).win := by
  rw [(s.wake_woken t).tile]

@[simp] theorem State.win_free (w : Nat) : (((s.free w).2).tile t).win = (s.tile t).win := rfl

/-- Serving the threads that wait for a half leaves the Winnow unit. -/
@[simp] theorem State.win_serveWaiters (late n : Nat) : ((s.serveWaiters t k late n).tile t).win = (s.tile t).win := by
  induction n generalizing s with
  | zero => rfl
  | succ n ih =>
    rw [State.serveWaiters]
    dsimp only
    split
    · rfl
    · split
      · rfl
      · rw [ih]
        split <;> simp

@[simp] theorem State.win_serve : ((s.serve t k).tile t).win = (s.tile t).win := by
  unfold State.serve
  split <;> simp

/-- So does the end of a use. -/
@[simp] theorem State.win_finishUse : ((s.finishUse t k).tile t).win = (s.tile t).win := by
  have sent (linked : Prop) [Decidable linked] (token : Token) :
      ((if linked then s.sendToken t k token else s).tile t).win = (s.tile t).win := by
    split <;> rfl
  unfold State.finishUse
  dsimp only
  split
  · rfl
  · split <;> split <;> simp [sent]

/-- Work of tile t that leaves its Winnow unit as it was, the counters apart. -/
def CountsOnly (t : Nat) (s s' : State) : Prop := ∃ ctr, (s'.tile t).win = { (s.tile t).win with ctr }

/-- What a ticket's resolution leaves of the Winnow unit: the ticket has resolved, and the resolution is counted. -/
theorem State.win_resolve (fail ended : Bool) : ∃ ctr, ((s.resolve t k fail ended).tile t).win = { (s.tile t).win with
    tickets := smSet (s.tile t).win.tickets k { s.ticket t k with st := .resolved, fail, ended }, ctr } := by
  let v := (s.updTicket t k (fun x => { x with st := .resolved, fail, ended })).winCtr t (if fail then 0x140 else 0x138) 1
  have win : (v.tile t).win = { (s.tile t).win with
      tickets := smSet (s.tile t).win.tickets k { s.ticket t k with st := .resolved, fail, ended }
      ctr := ctrAdd (s.tile t).win.ctr (if fail then 0x140 else 0x138) 1 } := by
    rw [State.win_winCtr, State.win_updTicket]
  refine ⟨_, Eq.trans ?_ win⟩
  unfold State.resolve
  dsimp only
  rw [State.win_wake]
  refine List.foldlRecOn (motive := fun u : State => (u.tile t).win = (v.tile t).win) _ _ rfl (fun u kept i _ => ?_)
  split
  · exact kept
  · rw [State.win_finishUse, State.win_serve, State.win_updSlot]
    split
    · exact kept
    · exact kept
end

section
variable {t : Nat} {s₀ s : State}

theorem CountsOnly.refl (t : Nat) (s : State) : CountsOnly t s s := ⟨_, rfl⟩

theorem CountsOnly.winCtr (h : CountsOnly t s₀ s) (off n : Nat) : CountsOnly t s₀ (s.winCtr t off n) := by
  obtain ⟨_, win⟩ := h
  exact ⟨_, (State.win_winCtr ..).trans (by rw [win])⟩

theorem CountsOnly.winCycles (h : CountsOnly t s₀ s) (off n : Nat) : CountsOnly t s₀ (s.winCycles t off n) :=
  CountsOnly.winCtr (s := (s.free 32).2) h ..

theorem CountsOnly.wake (h : CountsOnly t s₀ s) : CountsOnly t s₀ (s.wake t) := by
  rwa [CountsOnly, State.win_wake]

/-- Counting leaves the tickets and the jobs. -/
theorem CountsOnly.leaves (h : CountsOnly t s₀ s) : (s.tile t).win.tickets = (s₀.tile t).win.tickets ∧
    (s.tile t).win.predRun = (s₀.tile t).win.predRun ∧ (s.tile t).win.chkRun = (s₀.tile t).win.chkRun := by
  obtain ⟨_, win⟩ := h
  rw [win]
  exact ⟨rfl, rfl, rfl⟩
end

section
variable {t : Nat} {s₀ s : State} (h : InTile t s₀ s)
include h

theorem InTile.serve (k : Nat) : InTile t s₀ (s.serve t k) := h.trans State.serve_spec.1
theorem InTile.finishUse (k : Nat) : InTile t s₀ (s.finishUse t k) := h.trans State.finishUse_spec.1
theorem InTile.cutCycles (off : Nat) (ran : Bool) : InTile t s₀ (s.cutCycles t off ran) := .ite ((h.free 32).winCtr ..) h
theorem InTile.winCycles (off n : Nat) : InTile t s₀ (s.winCycles t off n) := (h.free 32).winCtr ..

/-- A ticket's resolution is work inside the tile. -/
theorem InTile.resolve (k : Nat) (fail ended : Bool) : InTile t s₀ (s.resolve t k fail ended) := by
  unfold State.resolve
  refine (((h.updTicket k _).winCtr ..).foldl _ (fun u i h => ?_)).wake
  dsimp only
  split
  · exact h
  · exact (((InTile.ite (h.sendToken ..) h).updSlot ..).serve i).finishUse i

theorem InTile.endTicket (k : Nat) : InTile t s₀ (s.endTicket t k) := by
  unfold State.endTicket
  dsimp only
  exact .ite h ((((h.cutCycles ..).cutCycles ..).updTile _).resolve ..)
end

/-- An encoding fault that a Winnow engine finds ends the task with its thread, unit and pc. -/
theorem State.endTask_winnowEncoding {s : State} {t : Nat} {k : Task} (task : (s.tile t).task = some k) (goes : k.phase ≠ .ending) (thr : Nat)
    (pc : DWord) : ∃ e, ((s.endTask t 2 thr 5 pc 0).tile t).task = some e ∧ e.phase = .ending ∧ e.code = 2 ∧ e.fUnit = 5 ∧
      e.fThread = thr % 8 ∧ e.fPc = pc.setWidth 16 := by
  have fields : s.endFields 2 thr 5 pc 0 = ((thr % 8, 5, pc, (s.free 64).1), (s.free 64).2) := rfl
  rw [State.endTask, task]
  dsimp only
  rw [if_neg goes, fields, if_neg (by decide)]
  refine State.stopWork_record (P := fun e => e.phase = .ending ∧ e.code = 2 ∧ e.fUnit = 5 ∧ e.fThread = thr % 8 ∧ e.fPc = pc.setWidth 16)
    (fun _ _ holds => holds) ?_
  exact ⟨_, (congrArg Tile.task (State.tile_updTile_same ..)).trans (Tile.recordEnd_task ..), rfl, rfl, rfl, rfl, rfl⟩

/-! ### A job that starts (R322, R323, R329, R330) -/

section
variable {s : State} {t : Nat} {q : WinJob} {rest : List WinJob}

/-- The descriptor of a job that an engine takes reads well and is good. -/
structure JobReads (s : State) (t : Nat) (q : WinJob) (checker : Bool) : Prop where
  aligned : q.off % 64 = 0
  inside : q.off + 64 ≤ loftBytes
  sound : s.loftBad t q.off 64 = false
  ok : (Job.ofBytes (s.loft t q.off 64)).ok (s.loft t q.off 64) (s.tileW t) checker = true

/-- The job with its descriptor. -/
def State.jobOf (s : State) (t : Nat) (q : WinJob) : WinJob :=
  { q with nb := (Job.ofBytes (s.loft t q.off 64)).nb, desc := s.loft t q.off 64 }

/-- The predictor starts its oldest job. -/
theorem jobStart_predicts (queue : (s.tile t).win.predQ = q :: rest) (idle : (s.tile t).win.predRun = none)
    (unchecked : (s.tile t).win.chkRun = none) (reads : JobReads s t q false) :
    Completes (.winnowJobStart t false) s (fun s' => s' = { s with tiles := s'.tiles } ∧ (s'.tile t).win = { (s.tile t).win with
      predQ := rest, predRun := some (s.jobOf t q)
      tickets := smSet (s.tile t).win.tickets q.ticket { s.ticket t q.ticket with nb := (s.jobOf t q).nb } }) := by
  let v := (s.updTile t (fun x => { x with win := { x.win with predQ := rest } })).updTile t
    (fun x => { x with win := { x.win with predRun := some (s.jobOf t q) } })
  let u := v.updTicket t q.ticket (fun x => { x with nb := (s.jobOf t q).nb })
  have win : (v.tile t).win = { (s.tile t).win with predQ := rest, predRun := some (s.jobOf t q) } := by
    rw [State.tile_updTile_same, State.tile_updTile_same]
  have ticket : v.ticket t q.ticket = s.ticket t q.ticket := State.ticket_congr (by rw [win]) _
  refine ⟨u.wake t, ?_, (u.wake_woken t).frame rfl, ?_⟩
  · rw [exec_winnowJobStart, execWinnowJobStart]
    simp only [Bool.false_eq_true, if_false, queue, idle, Option.isSome_none]
    rw [if_neg (by simp [reads.aligned, reads.inside]), if_neg (by exact ne_true_of_eq_false reads.sound),
      if_neg (by exact ne_true_of_eq_false (congrArg not reads.ok)), if_neg (by rw [unchecked]; exact fun ⟨other, _⟩ => other rfl)]
    rfl
  · rw [State.win_wake, State.win_updTicket, win, ticket]

/-- The checker starts its oldest job where the prediction's nb is the same. -/
theorem jobStart_checks (queue : (s.tile t).win.chkQ = q :: rest) (idle : (s.tile t).win.chkRun = none) (reads : JobReads s t q true)
    (agrees : (s.ticket t q.ticket).nb = 0 ∨ (s.ticket t q.ticket).nb = (s.jobOf t q).nb) :
    Completes (.winnowJobStart t true) s (fun s' => s' = { s with tiles := s'.tiles } ∧
      (s'.tile t).win = { (s.tile t).win with chkQ := rest, chkRun := some (s.jobOf t q) }) := by
  let v := s.updTile t (fun x => { x with win := { x.win with chkQ := rest } })
  let u := v.updTile t (fun x => { x with win := { x.win with chkRun := some (s.jobOf t q) } })
  have ticket : v.ticket t q.ticket = s.ticket t q.ticket := State.ticket_congr (by rw [State.tile_updTile_same]) _
  refine ⟨u.wake t, ?_, (u.wake_woken t).frame rfl, ?_⟩
  · rw [exec_winnowJobStart, execWinnowJobStart]
    simp only [if_true, queue, idle, Option.isSome_none, Bool.false_eq_true, if_false]
    rw [if_neg (by simp [reads.aligned, reads.inside]), if_neg (by exact ne_true_of_eq_false reads.sound),
      if_neg (by exact ne_true_of_eq_false (congrArg not reads.ok)),
      if_neg (by exact fun ⟨counts, differs⟩ => agrees.elim (ticket ▸ counts) (ticket ▸ differs))]
    rfl
  · rw [State.win_wake, State.tile_updTile_same, State.tile_updTile_same]

/-- A job whose descriptor is not aligned ends the task with an encoding fault at the instruction that queued it. -/
theorem jobStart_unaligned {task : Task} (has : (s.tile t).task = some task) (running : task.phase = .running)
    (queue : (s.tile t).win.predQ = q :: rest) (idle : (s.tile t).win.predRun = none) (unaligned : q.off % 64 ≠ 0) :
    Completes (.winnowJobStart t false) s (fun s' => ∃ e, (s'.tile t).task = some e ∧ e.phase = .ending ∧ e.code = 2 ∧ e.fUnit = 5 ∧
      e.fThread = q.thr % 8 ∧ e.fPc = q.pc.setWidth 16) := by
  let v := s.updTile t (fun x => { x with win := { x.win with predQ := rest } })
  refine ⟨v.winIllegal t q, ?_, ?_⟩
  · rw [exec_winnowJobStart, execWinnowJobStart]
    simp only [Bool.false_eq_true, if_false, queue, idle, Option.isSome_none]
    rw [if_pos (.inl unaligned)]
  · have kept : InTile t s (v.winErr t 5 q.ticket q.off) := ((InTile.refl t s).updTile _).updTile _
    obtain ⟨e, ended, holds⟩ := State.endTask_winnowEncoding (kept.task.trans has) (by simp [running]) q.thr q.pc
    exact ⟨e, ((InTile.refl t _).endTicket q.ticket).task.trans ended, holds⟩
end

/-! ### Predictions and checks (R324 to R326, R343) -/

section
variable {s s' : State}

theorem State.loftErr_congr (bad : s'.bad = s.bad) (t off n source row : Nat) : s'.loftErr t off n source row = s.loftErr t off n source row := by
  unfold State.loftErr State.loftBad State.badMem State.badOff
  rw [bad]

/-- What a job reads fails parity by what is stored alone. -/
theorem State.jobErr_congr (bad : s'.bad = s.bad) (t W : Nat) (j : Job) (checker : Bool) : s'.jobErr t W j checker = s.jobErr t W j checker := by
  simp only [State.jobErr, State.loftErr_congr bad]

theorem State.jobInput_congr (mem : s'.mem = s.mem) (t : Nat) (j : Job) : s'.jobInput t j = s.jobInput t j := by
  funext i k
  simp only [State.jobInput, State.loft, State.rd, mem]

/-- A prediction is made of memory alone. -/
theorem State.predMask_congr (mem : s'.mem = s.mem) (t W : Nat) (j : Job) : s'.predMask t W j = s.predMask t W j := by
  have hidden : s'.predHidden t j = s.predHidden t j := by
    funext i
    simp only [State.predHidden, State.jobInput_congr mem, State.loft, State.rd, mem]
  have live (h : List LVal) (n : Nat) : s'.predLive t W j h n = s.predLive t W j h n := by
    simp only [State.predLive, State.loft, State.rd, mem]
  simp only [State.predMask, hidden, live]

/-- So is a check. -/
theorem State.chkMask_congr (mem : s'.mem = s.mem) (t W : Nat) (j : Job) : s'.chkMask t W j = s.chkMask t W j := by
  have weight (b c : Nat) : s'.chkWeight t j b c = s.chkWeight t j b c := by
    funext k
    simp only [State.chkWeight, State.loft, State.rd, mem]
  simp only [State.chkMask, State.jobInput_congr mem, weight]
end

theorem State.mem_loftWr (s : State) (t off : Nat) (bs : List Byte) : (s.loftWr t off bs).mem = memPutList s.mem (loftAddr t off) bs := rfl
theorem State.tile_loftWr (s : State) (t off : Nat) (bs : List Byte) (u : Nat) : (s.loftWr t off bs).tile u = s.tile u := rfl
theorem State.mem_updTicket (s : State) (t k : Nat) (f : Ticket → Ticket) : (s.updTicket t k f).mem = s.mem := rfl

section
variable {s : State} {t : Nat} {q : WinJob} (wf : Memory.wf s.mem = true)
include wf

/-- WINNOW_PREDICTION_DONE writes the predicted mask to the job's place and to its ticket. -/
theorem predictionDone_writes (runs : (s.tile t).win.predRun = some q) (sound : s.jobErr t (s.tileW t) (Job.ofBytes q.desc) false = none)
    {m : BitVec 256} (predicts : s.predMask t (s.tileW t) (Job.ofBytes q.desc) = m) : Completes (.winnowPredictionDone t) s (fun s' =>
      Stored s s' (loftAddr t (Job.ofBytes q.desc).mask) (leBytes 32 m.toNat) ∧ (s'.tile t).win.predRun = none ∧
      s'.ticket t q.ticket = { s.ticket t q.ticket with predDone := true, pred := m }) := by
  let taken := s.updTile t (fun x => { x with win := { x.win with predRun := none } })
  let v := taken.loftWr t (Job.ofBytes q.desc).mask (leBytes 32 m.toNat)
  let u := v.updTicket t q.ticket (fun x => { x with predDone := true, pred := m })
  let done := (((u.winCtr t 0x100 q.nb).winCtr t 0x108 (popcount m)).winCycles t 0x128
    ((Job.ofBytes q.desc).m * ((Job.ofBytes q.desc).k + (Job.ofBytes q.desc).nb * s.tileW t) / 16 + 40)).wake t
  have inside : InTile t u done := ((((InTile.refl t u).winCtr ..).winCtr ..).winCycles ..).wake
  have mem : u.mem = memPutList s.mem (loftAddr t (Job.ofBytes q.desc).mask) (leBytes 32 m.toNat) :=
    (State.mem_updTicket ..).trans (State.mem_loftWr ..)
  have win : (v.tile t).win = { (s.tile t).win with predRun := none } := by rw [State.tile_loftWr, State.tile_updTile_same]
  have counts : CountsOnly t u done := ((((CountsOnly.refl t u).winCtr ..).winCtr ..).winCycles ..).wake
  obtain ⟨tickets, predRun, -⟩ := counts.leaves
  have ticket : v.ticket t q.ticket = s.ticket t q.ticket := State.ticket_congr (by rw [win]) _
  have stored : Stored s done (loftAddr t (Job.ofBytes q.desc).mask) (leBytes 32 m.toNat) := Stored.of_mem wf (inside.mem.trans mem)
  refine ⟨done, ?_, stored, ?_, ?_⟩
  · rw [exec_winnowPredictionDone, execWinnowPredictionDone, runs]
    dsimp only
    have reads : taken.jobErr t (s.tileW t) (Job.ofBytes q.desc) false = none := (State.jobErr_congr rfl ..).trans sound
    have writes : taken.predMask t (s.tileW t) (Job.ofBytes q.desc) = m := (State.predMask_congr rfl ..).trans predicts
    rw [reads, writes]
  · rw [predRun, State.win_updTicket, win]
  · rw [State.ticket_congr tickets, State.ticket_updTicket_same, ticket]

/-- WINNOW_CHECK_DONE writes the check mask and the repair mask, and the ticket resolves: Fail where a bit needs repair. -/
theorem checkDone_resolves (runs : (s.tile t).win.chkRun = some q) (predicted : (s.ticket t q.ticket).predDone = true)
    (clean : s.isBad (.ticket t q.ticket) = false) (sound : s.jobErr t (s.tileW t) (Job.ofBytes q.desc) true = none)
    (reads : s.loftErr t (Job.ofBytes q.desc).mask 32 4 0 = none) {c r : BitVec 256} (checks : s.chkMask t (s.tileW t) (Job.ofBytes q.desc) = c)
    (repairs : c &&& ~~~(s.ticket t q.ticket).pred = r) : Completes (.winnowCheckDone t) s (fun s' =>
      Stored s s' (loftAddr t ((Job.ofBytes q.desc).mask + 32)) (leBytes 32 c.toNat ++ leBytes 32 r.toNat) ∧ (s'.tile t).win.chkRun = none ∧
      s'.ticket t q.ticket = { s.ticket t q.ticket with chk := c, repair := r, st := .resolved, fail := r != 0, ended := false }) := by
  let p := (s.ticket t q.ticket).pred
  let taken := s.updTile t (fun x => { x with win := { x.win with chkRun := none } })
  let v := taken.loftWr t ((Job.ofBytes q.desc).mask + 32) (leBytes 32 c.toNat ++ leBytes 32 r.toNat)
  let u := v.updTicket t q.ticket (fun x => { x with chk := c, repair := r })
  let counted := (((u.winCtr t 0x110 (popcount c)).winCtr t 0x118 (popcount r)).winCtr t 0x120 (popcount (p &&& ~~~c))).winCycles t 0x130
    ((Job.ofBytes q.desc).m * (Job.ofBytes q.desc).kb * (Job.ofBytes q.desc).nb * ((s.tileW t + 15) / 16) + 40)
  let done := counted.resolve t q.ticket (r != 0) false
  have inside : InTile t u done := (((((InTile.refl t u).winCtr ..).winCtr ..).winCtr ..).winCycles ..).resolve ..
  have mem : u.mem = memPutList s.mem (loftAddr t ((Job.ofBytes q.desc).mask + 32)) (leBytes 32 c.toNat ++ leBytes 32 r.toNat) :=
    (State.mem_updTicket ..).trans (State.mem_loftWr ..)
  have taken_win : (taken.tile t).win = { (s.tile t).win with chkRun := none } := by rw [State.tile_updTile_same]
  have win : (v.tile t).win = { (s.tile t).win with chkRun := none } := by rw [State.tile_loftWr, taken_win]
  have counts : CountsOnly t u counted := ((((CountsOnly.refl t u).winCtr ..).winCtr ..).winCtr ..).winCycles ..
  obtain ⟨tickets, -, chkRun⟩ := counts.leaves
  obtain ⟨_, resolved⟩ := counted.win_resolve t q.ticket (r != 0) false
  have masked : counted.ticket t q.ticket = { s.ticket t q.ticket with chk := c, repair := r } := by
    rw [State.ticket_congr tickets, State.ticket_updTicket_same, State.ticket_congr (s' := v) (s := s) (by rw [win])]
  have stored : Stored s done (loftAddr t ((Job.ofBytes q.desc).mask + 32)) (leBytes 32 c.toNat ++ leBytes 32 r.toNat) :=
    Stored.of_mem wf (inside.mem.trans mem)
  refine ⟨done, ?_, stored, ?_, ?_⟩
  · have ticket : taken.ticket t q.ticket = s.ticket t q.ticket := State.ticket_congr (by rw [taken_win]) _
    have job : taken.jobErr t (s.tileW t) (Job.ofBytes q.desc) true = none := (State.jobErr_congr rfl ..).trans sound
    have state : taken.ticketErr t q.ticket = none := if_neg (ne_true_of_eq_false clean)
    have mask : taken.loftErr t (Job.ofBytes q.desc).mask 32 4 0 = none := (State.loftErr_congr rfl ..).trans reads
    have writes : taken.chkMask t (s.tileW t) (Job.ofBytes q.desc) = c := (State.chkMask_congr rfl ..).trans checks
    rw [exec_winnowCheckDone, execWinnowCheckDone, runs]
    dsimp only
    rw [predicted, if_neg (by decide), job, state, mask]
    dsimp only [firstOf]
    rw [writes, ticket, repairs]
  · rw [resolved]
    dsimp only
    rw [chkRun, State.win_updTicket, win]
  · rw [State.ticket, resolved, smGetD_smSet_same, masked]
end

end Sys2Proof.Machine

namespace Sys2Proof.Machine

/-! ### Threads that wake, and each of a tile's threads in turn (R243) -/

section
variable (s : State) (t : Nat)

/-- Waking leaves a thread, or makes it ready. -/
theorem State.wake_thread (k : Nat) : (s.wake t).thread t k = s.thread t k ∨ ∃ st, (s.wake t).thread t k = (s.thread t k).ready st := by
  unfold State.wake
  refine List.foldlRecOn (motive := fun u : State => u.thread t k = s.thread t k ∨ ∃ st, u.thread t k = (s.thread t k).ready st) _ _ (.inl rfl)
    (fun u woken j _ => ?_)
  dsimp only
  split
  · by_cases own : k = j
    · subst own
      refine .inr ⟨(u.tile t).readySt, (State.thread_updThread_same ..).trans ?_⟩
      rcases woken with same | ⟨st, same⟩ <;> rw [same]
      rfl
    · rw [State.thread_updThread_ne _ _ _ _ _ own]
      exact woken
  · exact woken

@[simp] theorem State.taint_wake (k : Nat) : ((s.wake t).thread t k).taint = (s.thread t k).taint := by
  rcases s.wake_thread t k with same | ⟨st, same⟩ <;> rw [same]
  rfl
end

section
variable {t : Nat} {g : State → Nat → State} {f : Thread → Thread} {P : State → Prop}

/-- Work that goes through a tile's threads, and changes each by itself. -/
theorem State.thread_each (keeps : ∀ s k, P s → P (g s k))
    (step : ∀ s k j, P s → (g s k).thread t j = if j = k then f (s.thread t j) else s.thread t j) :
    ∀ {l : List Nat}, l.Nodup → ∀ {s}, P s → ∀ j, (l.foldl g s).thread t j = if j ∈ l then f (s.thread t j) else s.thread t j
  | [], _, _, _, _ => rfl
  | k :: l, once, s, holds, j => by
    obtain ⟨fresh, once⟩ := List.nodup_cons.mp once
    rw [List.foldl_cons, State.thread_each keeps step once (keeps s k holds), step s k j holds]
    by_cases own : j = k
    · subst own
      rw [if_neg fresh, if_pos rfl, if_pos List.mem_cons_self]
    · simp [own]
end

/-! ### Held halves that are committed (R335, R338, R339) -/

/-- A thread that a committed half leaves. -/
def Thread.untainted (h : Thread) (e : Nat × Nat) : Thread :=
  if h.taint.contains e && !h.redirect then
    if (h.taint.filter (fun x => x != e)).isEmpty then { h with taint := [] }.closeSpec else { h with taint := h.taint.filter (fun x => x != e) }
  else h

/-- The half is not on the list of a thread that no squash redirects. -/
theorem Thread.untainted_taint {h : Thread} (stays : h.redirect = false) (e : Nat × Nat) : e ∉ (h.untainted e).taint := by
  unfold Thread.untainted
  split
  · split
    · exact List.not_mem_nil
    · simp
  · rename_i free
    simpa [stays] using free

/-- What a committed half does to one thread. -/
def State.untaintAt (t slot half : Nat) (s : State) (k : Nat) : State :=
  let h := s.thread t k
  if h.taint.contains (slot, half) && !h.redirect then
    let rest := h.taint.filter (fun e => e != (slot, half))
    if rest.isEmpty then (s.flagsOr t h.specFlags).updThread t k (fun h => { h with taint := [] }.closeSpec)
    else s.updThread t k (fun h => { h with taint := rest })
  else s

theorem State.untaint_eq (s : State) (t slot half : Nat) : s.untaint t slot half = (List.range 8).foldl (State.untaintAt t slot half) s := rfl

theorem State.thread_untaintAt (s : State) (t slot half k j : Nat) : (s.untaintAt t slot half k).thread t j =
    if j = k then (s.thread t j).untainted (slot, half) else s.thread t j := by
  unfold State.untaintAt
  dsimp only
  by_cases own : j = k
  · subst own
    rw [if_pos rfl, Thread.untainted]
    split
    · split
      · rw [State.thread_updThread_same, State.flagsOr_thread]
      · rw [State.thread_updThread_same]
    · rfl
  · rw [if_neg own]
    split
    · split
      · rw [State.thread_updThread_ne _ _ _ _ _ own, State.flagsOr_thread]
      · rw [State.thread_updThread_ne _ _ _ _ _ own]
    · rfl

/-- COMMIT takes the half off each thread's list. -/
theorem State.thread_untaint (s : State) (t slot half : Nat) {j : Nat} (small : j < 8) :
    (s.untaint t slot half).thread t j = (s.thread t j).untainted (slot, half) := by
  rw [State.untaint_eq, State.thread_each (f := fun h => h.untainted (slot, half)) (P := fun _ => True) (fun _ _ _ => trivial)
    (fun u k i _ => u.thread_untaintAt t slot half k i) List.nodup_range trivial, if_pos (List.mem_range.mpr small)]

/-! ### Held halves that are squashed (R333, R338, R342) -/

/-- A thread that goes to its restart pc. -/
def Thread.restarted (h : Thread) (pc : DWord) : Thread :=
  { h with pc, spec := none, taint := [], specFlags := 0, redirect := false, wait := .none, miss := none, st := if h.st = .active then .active else .ready }

theorem Thread.restarted_waits (h : Thread) (pc : DWord) : ¬ (h.restarted pc).waits := by
  unfold Thread.restarted Thread.waits
  dsimp only
  split <;> decide

/-- A thread that is sent to its restart pc, if it speculates. -/
def Thread.redirected (h : Thread) : Thread := h.spec.elim h h.restarted

theorem State.thread_redirect (s : State) (t thr j : Nat) :
    (s.redirect t thr).thread t j = if j = thr then (s.thread t j).redirected else s.thread t j := by
  unfold State.redirect
  dsimp only
  by_cases own : j = thr
  · subst own
    rw [if_pos rfl, Thread.redirected]
    split
    · rename_i closed
      rw [closed]
      rfl
    · rename_i pc speculates
      rw [State.thread_winCtr, State.thread_updThread_same, speculates]
      rfl
  · rw [if_neg own]
    split
    · rfl
    · rw [State.thread_winCtr, State.thread_updThread_ne _ _ _ _ _ own]
      rfl

/-- Sending a thread to its restart pc leaves the packets, the slots and the REP of its tile. -/
theorem State.redirect_leaves (s : State) (t thr : Nat) : (s.redirect t thr).net = s.net ∧ ((s.redirect t thr).tile t).str = (s.tile t).str ∧
    ((s.redirect t thr).tile t).rep = (s.tile t).rep := by
  unfold State.redirect
  dsimp only
  split
  · exact ⟨rfl, rfl, rfl⟩
  · rw [State.winCtr_net, State.tile_winCtr, State.tile_updThread_same]
    exact ⟨rfl, rfl, rfl⟩

/-- What a squashed half does to one thread. -/
def State.squashAt (t slot half : Nat) (s : State) (k : Nat) : State :=
  if (s.thread t k).taint.contains (slot, half) then
    if (s.tile t).rep.any (fun r => r.thr == k) then s.updThread t k (fun h => { h with redirect := true }) else s.redirect t k
  else s

theorem State.squashTaint_eq (s : State) (t slot half : Nat) : s.squashTaint t slot half = (List.range 8).foldl (State.squashAt t slot half) s := rfl

theorem State.squashAt_leaves (s : State) (t slot half k : Nat) : (s.squashAt t slot half k).net = s.net ∧
    ((s.squashAt t slot half k).tile t).str = (s.tile t).str ∧ ((s.squashAt t slot half k).tile t).rep = (s.tile t).rep := by
  unfold State.squashAt
  split
  · split
    · rw [State.tile_updThread_same]
      exact ⟨rfl, rfl, rfl⟩
    · exact s.redirect_leaves t k
  · exact ⟨rfl, rfl, rfl⟩

/-- A squash leaves the packets and the slots of its tile. -/
theorem State.squashTaint_leaves (s : State) (t slot half : Nat) : (s.squashTaint t slot half).net = s.net ∧
    ((s.squashTaint t slot half).tile t).str = (s.tile t).str := by
  rw [State.squashTaint_eq]
  refine List.foldlRecOn (motive := fun u : State => u.net = s.net ∧ (u.tile t).str = (s.tile t).str) _ _ ⟨rfl, rfl⟩
    (fun u ⟨net, str⟩ k _ => ?_)
  obtain ⟨net', str', -⟩ := u.squashAt_leaves t slot half k
  exact ⟨net'.trans net, str'.trans str⟩

/-- Where no REP runs, every thread that the half taints goes to its restart pc. -/
theorem State.thread_squashTaint {s : State} {t : Nat} (still : (s.tile t).rep = none) (slot half : Nat) {j : Nat} (small : j < 8)
    (tainted : (slot, half) ∈ (s.thread t j).taint) : (s.squashTaint t slot half).thread t j = (s.thread t j).redirected := by
  rw [State.squashTaint_eq, State.thread_each (P := fun u => (u.tile t).rep = none)
    (f := fun h => if h.taint.contains (slot, half) then h.redirected else h) (fun u k still => ?keeps) (fun u k i still => ?step)
    List.nodup_range still, if_pos (List.mem_range.mpr small), if_pos (by simpa using tainted)]
  case keeps => exact (u.squashAt_leaves t slot half k).2.2.trans still
  case step =>
    unfold State.squashAt
    rw [still]
    by_cases own : i = k
    · subst own
      rw [if_pos rfl]
      split
      · rw [if_neg (by simp), State.thread_redirect, if_pos rfl]
      · rfl
    · rw [if_neg own]
      split
      · rw [if_neg (by simp), State.thread_redirect, if_neg own]
      · rfl

/-- The slot after its held first half is given up. -/
theorem State.dropHeld_first {s : State} {t k : Nat} (held : (s.slot t k).h0.held = true) (free : (s.slot t k).h1.held = false) :
    s.dropHeld t k = ((s.ackHalf t (s.slot t k).d.peerTile (s.slot t k).h0 .ok).updSlot t k (fun x =>
      { x with h0 := if x.h0.held then x.h0.emptied else x.h0, h1 := if x.h1.held then x.h1.emptied else x.h1 })).winCtr
        t 0x148 (s.slot t k).heldHalves := by
  unfold State.dropHeld
  dsimp only
  rw [if_pos held, free]
  rfl

/-- An acknowledgement of a half to a producer. -/
structure AckOf (peer : Nat) (h : Half) (e : Packet) : Prop where
  op : e.op = .writeAck
  status : e.status = .ok
  dst : e.dst = tileEnd peer
  tag : e.tag = h.tag

theorem State.ackHalf_sends (s : State) (t peer : Nat) (h : Half) :
    ∃ e, smGet (s.ackHalf t peer h .ok).net.pkts s.net.nextId = some e ∧ AckOf peer h e := ⟨_, smGet_smSet_same .., rfl, rfl, rfl, rfl⟩

theorem State.tile_freeFill (s : State) (a n u : Nat) : (s.freeFill a n).tile u = s.tile u := rfl
theorem State.net_freeFill (s : State) (a n : Nat) : (s.freeFill a n).net = s.net := rfl

/-- Undefined bytes are those of their range. -/
theorem State.freeFill_outside (s : State) {a n b : Nat} (outside : b < a ∨ a + n ≤ b) : memGet (s.freeFill a n).mem b = memGet s.mem b :=
  memGet_memPutList_out _ _ _ _ (by rwa [List.length_map, List.length_range])

/-- What SQUASH and COMMIT are about: an Active consumer whose first half alone is held. -/
structure HoldsFirst (s : State) (p : Packet) : Prop where
  active : (s.slot p.dst.router p.slot).st = .active
  linked : (s.slot p.dst.router p.slot).d.dir = 3
  peer : (s.slot p.dst.router p.slot).peerIs p = true
  held : (s.slot p.dst.router p.slot).h0.held = true
  free : (s.slot p.dst.router p.slot).h1.held = false

section
variable {s : State} {id : Nat} {p : Packet} (current : Current s p) (arrived : s.arrived id .linkToken = some p) (holds : HoldsFirst s p)
include current arrived holds

/-- SQUASH gives the half up and sends its tainted threads to their restart pc. -/
theorem exec_squash_held (token : p.msg = .token .squash) : exec (.squash id) s = .next
    (((((s.dropPkt id).dropHeld p.dst.router p.slot).squashTaint p.dst.router p.slot 0).freeFill
      (loftAddr p.dst.router ((s.slot p.dst.router p.slot).d.halfOff 0)) (s.slot p.dst.router p.slot).h0.bytes).wake p.dst.router) := by
  have slot : (s.dropPkt id).slot p.dst.router p.slot = s.slot p.dst.router p.slot := rfl
  have discards : (s.dropPkt id).discardHeld p.dst.router p.slot =
      ((s.dropPkt id).dropHeld p.dst.router p.slot).squashTaint p.dst.router p.slot 0 := by
    unfold State.discardHeld
    dsimp only
    rw [slot, if_pos holds.held, if_neg (by simp [holds.free])]
  rw [exec_squash, execSquash, current.token arrived token (by decide)]
  dsimp only
  rw [slot, if_neg (by simp [holds.active, holds.linked, holds.peer]), discards, if_pos holds.held, if_neg (by simp [holds.free])]

/-- SQUASH of a held first half: it is acknowledged and emptied, its bytes are undefined, and its tainted threads restart. -/
theorem squash_empties (token : p.msg = .token .squash) :
    let t := p.dst.router
    let k := p.slot
    let x := s.slot t k
    Completes (.squash id) s (fun s' => (∃ n e, smGet s'.net.pkts n = some e ∧ AckOf x.d.peerTile x.h0 e) ∧ (s'.slot t k).h0 = x.h0.emptied ∧
      (∀ a, (a < loftAddr t (x.d.halfOff 0) ∨ loftAddr t (x.d.halfOff 0) + x.h0.bytes ≤ a) → memGet s'.mem a = memGet s.mem a) ∧
      ∀ thr pc, thr < 8 → (k, 0) ∈ (s.thread t thr).taint → (s.tile t).rep = none → (s.thread t thr).spec = some pc →
        s'.thread t thr = (s.thread t thr).restarted pc) := by
  intro t k x
  let u := s.dropPkt id
  obtain ⟨v, dropped⟩ : ∃ v, u.dropHeld t k = v := ⟨_, rfl⟩
  obtain ⟨w, squashed⟩ : ∃ w, v.squashTaint t k 0 = w := ⟨_, rfl⟩
  obtain ⟨filled, fills⟩ : ∃ filled, w.freeFill (loftAddr t (x.d.halfOff 0)) x.h0.bytes = filled := ⟨_, rfl⟩
  have drops := State.dropHeld_first (s := u) (t := t) (k := k) holds.held holds.free
  have woken := filled.wake_woken t
  obtain ⟨net, str⟩ := v.squashTaint_leaves t k 0
  rw [squashed] at net str
  have tile : filled.tile t = w.tile t := fills ▸ State.tile_freeFill ..
  have runs := exec_squash_held current arrived holds token
  rw [dropped, squashed, fills] at runs
  refine ⟨filled.wake t, runs, ?acked, ?slot, fun a outside => ?mem, fun thr pc small tainted still speculates => ?threads⟩
  case acked =>
    obtain ⟨e, sent, ack⟩ := u.ackHalf_sends t x.d.peerTile x.h0
    refine ⟨u.net.nextId, e, ?_, ack⟩
    rw [State.wake_net, ← fills, State.net_freeFill, net, ← dropped, drops, State.winCtr_net]
    exact sent
  case slot =>
    rw [State.slot_wake, State.slot_congr (s := v) (s' := filled) (by rw [tile, str]), ← dropped, drops, State.slot_winCtr, State.slot_updSlot_same]
    exact if_pos holds.held
  case mem =>
    have inside : InTile t s w := by
      rw [← squashed, ← dropped]
      exact (((InTile.refl t s).dropPkt id).dropHeld k).squashTaint k 0
    rw [woken.state, ← inside.mem]
    dsimp only
    rw [← fills, State.freeFill_outside _ outside]
  case threads =>
    have same : v.thread t thr = s.thread t thr := by
      rw [← dropped, drops, State.thread_winCtr, State.thread_updSlot]
      rfl
    have rep : (v.tile t).rep = none := by
      rw [← dropped, drops, State.tile_winCtr, State.updSlot, State.tile_updTile_same]
      exact still
    have restarts : filled.thread t thr = (s.thread t thr).restarted pc := by
      rw [State.thread, tile, ← squashed]
      refine (State.thread_squashTaint rep k 0 small (same ▸ tainted)).trans ?_
      rw [same, Thread.redirected, speculates]
      rfl
    rw [woken.others thr (by rw [restarts]; exact (s.thread t thr).restarted_waits pc), restarts]
end

end Sys2Proof.Machine

namespace Sys2Proof.Machine

/-! ### What delivery and the end of a task leave to COMMIT (R279, R308, R334, R335, R338)

A half that becomes Ready may bring the slot's use to its end, or a fault that ends the task. -/

/-- Work of tile t after which every packet that was sent still stands, no first half has become held, and no thread is to be sent to its
restart pc. As with `TaskStands`, each operation has one lemma, and a chain of operations is a chain of lemmas. -/
structure Undisturbed (t : Nat) (s s' : State) : Prop where
  next : s.net.nextId ≤ s'.net.nextId
  sent : ∀ n, n < s.net.nextId → smGet s'.net.pkts n = smGet s.net.pkts n
  redirect : ∀ k, ((s.tile t).th k).redirect = false → ((s'.tile t).th k).redirect = false
  held : ∀ k, ((s.tile t).slot k).h0.held = false → ((s'.tile t).slot k).h0.held = false

theorem Undisturbed.refl (t : Nat) (s : State) : Undisturbed t s s := ⟨le_rfl, fun _ _ => rfl, fun _ h => h, fun _ h => h⟩

theorem Tile.recordEnd_leaves (x : Tile) (code thr unit : Nat) (pc addr : DWord) : (x.recordEnd code thr unit pc addr).threads = x.threads ∧
    (x.recordEnd code thr unit pc addr).str = x.str := by
  unfold Tile.recordEnd
  split <;> exact ⟨rfl, rfl⟩

/-- Stopping a task's threads sends none of them to its restart pc. -/
theorem Tile.stopThreads_redirect (x : Tile) (k : Nat) (stays : (x.th k).redirect = false) : (x.stopThreads.th k).redirect = false := by
  let stopped : Nat → Thread → Thread := fun j h => if x.rep.any (fun r => r.thr == j) then h else
    { h with st := .off, wait := .none, miss := none, spec := none, taint := [], specFlags := 0, redirect := false }
  have threads : x.stopThreads.threads = x.threads.map (fun e => (e.1, stopped e.1 e.2)) := by
    unfold Tile.stopThreads stopped
    refine List.map_congr_left (fun e _ => ?_)
    split <;> rfl
  unfold Tile.th at stays ⊢
  rw [threads, smGetD, smGet_mapKeyed]
  rw [smGetD] at stays
  cases there : smGet x.threads k with
  | none => rfl
  | some h =>
    rw [there] at stays
    dsimp only [Option.map_some, Option.getD_some, stopped]
    split
    · exact stays
    · rfl

/-- A half that a slot gives to a thread stays held, or free, as it was. -/
theorem Slot.take_held {x y : Slot} {w : DWord} (takes : x.take = some (w, y)) (free : x.h0.held = false) : y.h0.held = false := by
  have taken : ({ x.updHalf x.takeHalf (fun h => { h with st := .taken }) with takeHalf := (x.takeHalf + 1) % 2 } : Slot).h0.held = false := by
    unfold Slot.updHalf Slot.setHalf Slot.half
    split
    · exact free
    · exact free
  unfold Slot.take at takes
  grind

theorem Slot.readied_held {x : Slot} (i : Nat) (free : x.h0.held = false) : (x.readied i).h0.held = false := by
  unfold Slot.readied Slot.updHalf Slot.setHalf Slot.half
  split
  · exact free
  · exact free

theorem Slot.dropUnsent_held {x : Slot} (free : x.h0.held = false) : x.dropUnsent.h0.held = false := by
  unfold Slot.dropUnsent
  split
  · dsimp only
    split
    · exact free
    · exact free
  · exact free

section
variable {t : Nat} {s₀ s s' : State}

theorem Undisturbed.trans (h : Undisturbed t s₀ s) (h' : Undisturbed t s s') : Undisturbed t s₀ s' where
  next := h.next.trans h'.next
  sent n old := (h'.sent n (old.trans_le h.next)).trans (h.sent n old)
  redirect k stays := h'.redirect k (h.redirect k stays)
  held k free := h'.held k (h.held k free)

theorem Undisturbed.same (h : Undisturbed t s₀ s) (tiles : s'.tiles = s.tiles) (net : s'.net = s.net) : Undisturbed t s₀ s' := by
  have tile : s'.tile t = s.tile t := congrArg (fun m => smGetD m t ({} : Tile)) tiles
  exact h.trans ⟨net ▸ le_rfl, fun _ _ => by rw [net], fun _ stays => by rwa [tile], fun _ free => by rwa [tile]⟩

theorem Undisturbed.ite {c : Prop} [Decidable c] (h : Undisturbed t s₀ s) (h' : Undisturbed t s₀ s') : Undisturbed t s₀ (if c then s else s') := by
  split
  · exact h
  · exact h'

theorem Undisturbed.foldl {α : Type} {g : State → α → State} (l : List α) (h : Undisturbed t s₀ s)
    (hg : ∀ s x, Undisturbed t s₀ s → Undisturbed t s₀ (g s x)) : Undisturbed t s₀ (l.foldl g s) :=
  List.foldlRecOn l g h (fun s h x _ => hg s x h)
end

section
variable {t : Nat} {s₀ s : State} (h : Undisturbed t s₀ s)
include h

/-- A change of the tile that sends no thread to its restart pc and holds no half. -/
theorem Undisturbed.changeTile (f : Tile → Tile) (redirect : ∀ k, ((s.tile t).th k).redirect = false → ((f (s.tile t)).th k).redirect = false)
    (held : ∀ k, ((s.tile t).slot k).h0.held = false → ((f (s.tile t)).slot k).h0.held = false) : Undisturbed t s₀ (s.updTile t f) := by
  refine h.trans ⟨le_rfl, fun _ _ => rfl, fun k stays => ?_, fun k free => ?_⟩
  · rw [State.tile_updTile_same]
    exact redirect k stays
  · rw [State.tile_updTile_same]
    exact held k free

theorem Undisturbed.updTile (f : Tile → Tile) (threads : ∀ x, (f x).threads = x.threads := by intro x; rfl)
    (slots : ∀ x, (f x).str.slots = x.str.slots := by intro x; rfl) : Undisturbed t s₀ (s.updTile t f) :=
  h.changeTile f (fun k stays => by rwa [Tile.th, threads]) (fun k free => by rwa [Tile.slot, slots])

theorem Undisturbed.updThread (k : Nat) (f : Thread → Thread) (hf : ∀ h, h.redirect = false → (f h).redirect = false) :
    Undisturbed t s₀ (s.updThread t k f) := by
  refine h.changeTile _ (fun j stays => ?_) (fun _ free => free)
  by_cases own : j = k
  · subst own
    rw [Tile.updTh, Tile.th_setTh_same]
    exact hf _ stays
  · rwa [Tile.updTh, Tile.th_setTh_ne _ _ _ _ own]

/-- A change of a slot that, as the slot stands, holds no half. -/
theorem Undisturbed.changeSlot (k : Nat) (f : Slot → Slot) (hf : (s.slot t k).h0.held = false → (f (s.slot t k)).h0.held = false) :
    Undisturbed t s₀ (s.updSlot t k f) := by
  refine h.changeTile _ (fun _ stays => stays) (fun j free => ?_)
  by_cases own : j = k
  · subst own
    rw [Tile.slot, Tile.setSlot, smGetD_smSet_same]
    exact hf free
  · rwa [Tile.slot, Tile.setSlot, smGetD_smSet_ne _ _ _ _ _ own]

theorem Undisturbed.updSlot (k : Nat) (f : Slot → Slot) (hf : ∀ x, x.h0.held = false → (f x).h0.held = false) :
    Undisturbed t s₀ (s.updSlot t k f) := h.changeSlot k f (hf _)

theorem Undisturbed.inject (p : Packet) : Undisturbed t s₀ (s.inject p) :=
  h.trans ⟨Nat.le_succ _, fun _ old => smGet_smSet_ne _ _ _ _ (Nat.ne_of_lt old), fun _ stays => stays, fun _ free => free⟩

theorem Undisturbed.setG (k r : Nat) (v : DWord) : Undisturbed t s₀ (s.setG t k r v) := h.updThread k _ (fun _ stays => stays)
theorem Undisturbed.free (w : Nat) : Undisturbed t s₀ (s.free w).2 := h.same rfl rfl
theorem Undisturbed.clean (p : Place) : Undisturbed t s₀ (s.clean p) := h.same rfl rfl
theorem Undisturbed.loftWr (off : Nat) (bs : List Byte) : Undisturbed t s₀ (s.loftWr t off bs) := h.same rfl rfl
theorem Undisturbed.flagsOr (f : Flags) : Undisturbed t s₀ (s.flagsOr t f) := h.updTile _
theorem Undisturbed.someFlags (f : Flags) : Undisturbed t s₀ (s.someFlags t f) := (h.free 7).flagsOr _
theorem Undisturbed.sendToken (k : Nat) (token : Token) : Undisturbed t s₀ (s.sendToken t k token) := h.inject _

/-! #### Counters -/

theorem Undisturbed.evAdd (src n : Nat) : Undisturbed t s₀ (s.evAdd t src n) := by
  obtain ⟨_, _, _, _, e⟩ := s.evAdd_frame t src n
  exact h.same (by rw [e]) (by rw [e])

theorem Undisturbed.arrCtrAdd (off n : Nat) : Undisturbed t s₀ (s.arrCtrAdd t off n) := by
  unfold State.arrCtrAdd
  exact (Undisturbed.ite (h.evAdd ..) h).updTile _

theorem Undisturbed.mvpCtrAdd (off n : Nat) : Undisturbed t s₀ (s.mvpCtrAdd t off n) := by
  unfold State.mvpCtrAdd
  split
  · exact (h.evAdd ..).updTile _
  · exact (h.evAdd ..).updTile _
  · exact h.updTile _

theorem Undisturbed.winCtr (off n : Nat) : Undisturbed t s₀ (s.winCtr t off n) := by
  obtain ⟨_, _, _, _, counts⟩ := s.winCtr_counts t off n
  rw [counts]
  refine Undisturbed.updTile ?_ _
  exact h.same rfl rfl

theorem Undisturbed.strCtr (off n : Nat) : Undisturbed t s₀ (s.strCtr t off n) := by
  obtain ⟨_, _, _, _, counts⟩ := s.strCtr_counts t off n
  rw [counts]
  refine Undisturbed.updTile ?_ _
  exact h.same rfl rfl

/-! #### Units that stop (R158, R220, R340) -/

theorem Undisturbed.applyRow (r : RowOut) : Undisturbed t s₀ (s.applyRow t r) := by
  have stored := h.foldl (g := fun s e => s.loftWr t e.1 e.2) r.loft (fun _ _ h => h.loftWr ..)
  unfold State.applyRow
  refine Undisturbed.updTile ?_ _
  split
  · exact (stored.updTile _).clean _
  · exact stored

theorem Undisturbed.applyRows (rs : List RowOut) : Undisturbed t s₀ (s.applyRows t rs) := h.foldl rs (fun _ _ h => h.applyRow _)

theorem Undisturbed.ahistDone (op : UnitOp) : Undisturbed t s₀ (s.ahistDone t op) := .ite ((h.loftWr ..).updTile _) (h.loftWr ..)

theorem Undisturbed.stopArray : Undisturbed t s₀ (s.stopArray t) := by
  unfold State.stopArray
  dsimp only
  split
  · exact h.updTile _
  · refine Undisturbed.updTile ?_ _
    have rows (rs : List (UnitRun × RowOut)) (n : Nat) : Undisturbed t s₀ (((s.free 32).2.applyRuns t rs).arrCtrAdd t 0x100 n) :=
      (((h.free 32).applyRows _).arrCtrAdd ..).arrCtrAdd ..
    have flagged := fun rs n => (rows rs n).foldl (g := fun s (r : UnitRun) => s.someFlags t r.load) (s.tile t).arrRun (fun _ _ h => h.someFlags _)
    split
    · split
      · exact (flagged ..).ahistDone _
      · exact flagged ..
    · exact flagged ..

theorem Undisturbed.mvpKeep (n : Nat) : Undisturbed t s₀ (s.mvpKeep t n) := by
  unfold State.mvpKeep
  dsimp only
  have passes := fun rs a b => ((h.applyRows rs).mvpCtrAdd 0x108 a).mvpCtrAdd 0x100 b
  split
  · exact (((passes ..).free 32).someFlags _).mvpCtrAdd ..
  · exact passes ..

theorem Undisturbed.stopMvp : Undisturbed t s₀ (s.stopMvp t) := by
  unfold State.stopMvp
  dsimp only
  split
  · exact h.updTile _
  · exact (((h.free 32).mvpKeep _).foldl _ (fun _ _ h => h.someFlags _)).updTile _

theorem Undisturbed.cutCycles (off : Nat) (ran : Bool) : Undisturbed t s₀ (s.cutCycles t off ran) := .ite ((h.free 32).winCtr ..) h

theorem Undisturbed.stopWinnow : Undisturbed t s₀ (s.stopWinnow t) := by
  unfold State.stopWinnow
  exact (((h.cutCycles ..).cutCycles ..).updTile _).winCtr ..

/-! #### The end of a task (R254 to R256, R308, R310) -/

theorem Undisturbed.dropHeld (k : Nat) : Undisturbed t s₀ (s.dropHeld t k) := by
  unfold State.dropHeld
  refine (Undisturbed.updSlot ?_ k _ (fun _ free => ?_)).winCtr ..
  · exact .ite (.inject (.ite (h.inject _) h) _) (.ite (h.inject _) h)
  · rw [if_neg (by simp [free])]
    exact free

theorem Undisturbed.sendEndTokens (origin code : Nat) : Undisturbed t s₀ (s.sendEndTokens t origin code) := by
  refine h.foldl _ (fun s k h => ?_)
  dsimp only
  split
  · exact h
  · split
    · exact (Undisturbed.ite (h.sendToken ..) h).sendToken ..
    · split
      · exact ((h.strCtr ..).dropHeld _).sendToken ..
      · exact h

theorem Undisturbed.abortTokens : Undisturbed t s₀ (s.abortTokens t) := by
  unfold State.abortTokens
  split
  · exact h
  · exact .ite ((h.sendEndTokens ..).updTile _) h

/-- The tile's threads stop, and its record of an end is made. -/
theorem Undisturbed.stopThreads (k : Task) (code thr unit : Nat) (pc addr : DWord) :
    Undisturbed t s₀ (s.updTile t (fun x => ({ x with task := some k }.recordEnd code thr unit pc addr).stopThreads)) := by
  refine h.changeTile _ (fun j stays => Tile.stopThreads_redirect _ j ?_) (fun j free => ?_)
  · rwa [Tile.th, (Tile.recordEnd_leaves ..).1]
  · rwa [Tile.slot, Tile.stopThreads, (Tile.recordEnd_leaves ..).2]

theorem Undisturbed.dropUnsent : Undisturbed t s₀ (s.updTile t (fun x =>
    { x with str := { x.str with slots := x.str.slots.map (fun e => (e.1, e.2.dropUnsent)) } })) := by
  refine h.changeTile _ (fun _ stays => stays) (fun j free => ?_)
  rw [Tile.slot, smGetD, smGet_mapKeyed (fun _ => Slot.dropUnsent)]
  rw [Tile.slot, smGetD] at free
  cases there : smGet (s.tile t).str.slots j with
  | none => rfl
  | some y =>
    rw [there] at free
    exact Slot.dropUnsent_held free

theorem Undisturbed.endTask (code thr unit : Nat) (pc addr : DWord) : Undisturbed t s₀ (s.endTask t code thr unit pc addr) := by
  obtain ⟨n, frame⟩ := s.endFields_frame code thr unit pc addr
  unfold State.endTask
  split
  · exact h
  · split
    · exact .ite h (h.updTile _)
    · revert frame
      generalize s.endFields code thr unit pc addr = fields
      obtain ⟨⟨thr, unit, pc, addr⟩, u⟩ := fields
      rintro rfl
      have counted : Undisturbed t s₀ { s with freeCount := n } := h.same rfl rfl
      have stopped (k : Task) := counted.stopThreads k code thr unit pc addr
      exact .ite (stopped _) (stopped _).stopArray.stopMvp.stopWinnow.dropUnsent.abortTokens

theorem Undisturbed.strErr (cause k elem : Nat) (addr : DWord) : Undisturbed t s₀ (s.strErr t cause k elem addr) := by
  unfold State.strErr
  generalize BitVec.ofNat 64 _ = err
  refine h.updTile _ (fun x => ?_) (fun x => ?_)
  · split <;> rfl
  · simp only [apply_ite Tile.str, apply_ite Stream.slots, ite_self]

theorem Undisturbed.streamFault (k code cause elem : Nat) (addr : DWord) : Undisturbed t s₀ (s.streamFault t k code cause elem addr) := by
  have recorded := h.strErr cause k elem addr
  unfold State.streamFault
  dsimp only
  refine Undisturbed.endTask (.ite ?_ recorded) ..
  exact recorded.updTile _

/-! #### Waiters, uses and deliveries (R271, R279, R285, R287, R293) -/

theorem Undisturbed.wake : Undisturbed t s₀ (s.wake t) := by
  unfold State.wake
  exact h.foldl _ (fun s k h => .ite (h.updThread k _ (fun _ stays => stays)) h)

/-- A waiting thread gets its half. -/
theorem Undisturbed.gives {k : Nat} {w : DWord} {y : Slot} (takes : (s.slot t k).take = some (w, y)) (ws : List (Nat × Nat)) (thr gd : Nat)
    (st : ThState) : Undisturbed t s₀ (((s.updSlot t k (fun _ => { y with waiters := ws })).setG t thr gd w).updThread t thr (fun h => h.ready st)) :=
  ((h.changeSlot k _ (fun free => (Slot.take_held takes free : y.h0.held = false))).setG ..).updThread _ _ (fun _ stays => stays)

theorem Undisturbed.serveWaiters (k late n : Nat) : Undisturbed t s₀ (s.serveWaiters t k late n) := by
  induction n generalizing s with
  | zero => exact h
  | succ n ih =>
    rw [State.serveWaiters]
    dsimp only
    split
    · exact h
    · split
      · exact h
      · rename_i takes
        exact ih (.ite (((h.gives takes ..).strCtr ..).strCtr ..) (h.gives takes ..))

theorem Undisturbed.serve (k : Nat) : Undisturbed t s₀ (s.serve t k) := by
  unfold State.serve
  exact .ite h.wake ((h.free 32).serveWaiters ..).wake

theorem Undisturbed.finishUse (k : Nat) : Undisturbed t s₀ (s.finishUse t k) := by
  have ends (token : Token) (linked : Prop) [Decidable linked] : Undisturbed t s₀ (((if linked then s.sendToken t k token else s).updSlot t k
      (fun x => if x.d.persistent then { x with st := .done } else { x.idled with waiters := x.waiters })).serve t k) := by
    refine (Undisturbed.updSlot (.ite (h.sendToken ..) h) k _ (fun _ free => ?_)).serve k
    split
    · exact free
    · rfl
  unfold State.finishUse
  exact .ite h (.ite (.ite (ends ..) h) (.ite (ends ..) h))

/-- Delivery, whatever it comes to. -/
theorem Undisturbed.deliver (k late n : Nat) : Undisturbed t s₀ (s.deliver t k late n) := by
  induction n generalizing s with
  | zero => exact h
  | succ n ih =>
    rcases s.deliver_cases t k late n with same | ⟨i, due⟩
    · rw [same]
      exact h
    · cases fault : (s.slot t k).groupFault ((s.slot t k).half i).group with
      | none =>
        rw [due.delivers fault]
        exact ih (((h.updSlot k _ (fun _ free => Slot.readied_held i free)).serveWaiters ..).finishUse k)
      | some f =>
        rw [due.faults fault]
        exact h.streamFault ..

theorem Undisturbed.untaint (slot half : Nat) : Undisturbed t s₀ (s.untaint t slot half) := by
  rw [State.untaint_eq]
  refine h.foldl _ (fun s k h => ?_)
  unfold State.untaintAt
  exact .ite (.ite ((h.flagsOr _).updThread k _ (fun _ stays => stays)) (h.updThread k _ (fun _ stays => stays))) h
end

end Sys2Proof.Machine

namespace Sys2Proof.Machine

/-! ### COMMIT (R333, R335, R338, R339) -/

/-- A slot whose halves are no longer held. -/
def Slot.committed (x : Slot) : Slot := { x with h0 := { x.h0 with held := false }, h1 := { x.h1 with held := false } }

section
variable {s : State} {id : Nat} {p : Packet} (current : Current s p) (arrived : s.arrived id .linkToken = some p) (holds : HoldsFirst s p)
include current arrived holds

/-- COMMIT acknowledges the half, delivers what is due, and takes the half off the taint lists. How long waiters have waited is a free value. -/
theorem exec_commit_held (token : p.msg = .token .commit) : ∃ late freeCount,
    let acked := (s.dropPkt id).ackHalf p.dst.router (s.slot p.dst.router p.slot).d.peerTile (s.slot p.dst.router p.slot).h0 .ok
    let taken := acked.updSlot p.dst.router p.slot Slot.committed
    exec (.commit id) s = .next
      (((({ taken with freeCount } : State).deliver p.dst.router p.slot late 2).untaint p.dst.router p.slot 0).wake p.dst.router) := by
  have slot : (s.dropPkt id).slot p.dst.router p.slot = s.slot p.dst.router p.slot := rfl
  have runs := (exec_commit s id).trans (congrArg Host.Outcome.next (current.token arrived token (kind := fun k => k == .commit) (by decide) _))
  dsimp only at runs
  rw [slot, if_neg (by simp [holds.active, holds.linked, holds.peer])] at runs
  simp only [holds.held, holds.free, if_true, Bool.false_eq_true, if_false] at runs
  by_cases unwaited : (s.slot p.dst.router p.slot).waiters.isEmpty = true
  · rw [if_pos unwaited] at runs
    exact ⟨_, _, runs⟩
  · rw [if_neg unwaited] at runs
    exact ⟨_, _, runs⟩

/-- COMMIT of a held first half: it is acknowledged and no longer held, and taints no thread. -/
theorem commit_releases (token : p.msg = .token .commit) :
    let t := p.dst.router
    let k := p.slot
    let x := s.slot t k
    (∀ thr, thr < 8 → (s.thread t thr).redirect = false) →
    Completes (.commit id) s (fun s' => (∃ n e, smGet s'.net.pkts n = some e ∧ AckOf x.d.peerTile x.h0 e) ∧ (s'.slot t k).h0.held = false ∧
      ∀ thr, thr < 8 → (k, 0) ∉ (s'.thread t thr).taint) := by
  intro t k x stays
  let u := s.dropPkt id
  let acked := u.ackHalf t x.d.peerTile x.h0 .ok
  let taken := acked.updSlot t k Slot.committed
  obtain ⟨late, freeCount, runs⟩ := exec_commit_held current arrived holds token
  let v : State := { taken with freeCount }
  let delivered := v.deliver t k late 2
  have start : Undisturbed t acked v := ((Undisturbed.refl t acked).updSlot k _ (fun _ _ => rfl)).same rfl rfl
  have delivers : Undisturbed t v delivered := (Undisturbed.refl t v).deliver ..
  have rest : Undisturbed t delivered ((delivered.untaint t k 0).wake t) := ((Undisturbed.refl t delivered).untaint ..).wake
  refine ⟨(delivered.untaint t k 0).wake t, runs, ?_, ?_, fun thr small => ?_⟩
  · obtain ⟨e, sent, ack⟩ := u.ackHalf_sends t x.d.peerTile x.h0
    exact ⟨u.net.nextId, e, ((start.trans (delivers.trans rest)).sent _ (Nat.lt_succ_self _)).trans sent, ack⟩
  · rw [State.slot]
    refine (delivers.trans rest).held k ?_
    have tile : v.tile t = taken.tile t := rfl
    have slot : (taken.tile t).slot k = (acked.slot t k).committed := State.slot_updSlot_same ..
    rw [tile, slot, Slot.committed]
  · rw [State.taint_wake, State.thread_untaint _ _ _ _ small]
    exact Thread.untainted_taint ((start.trans delivers).redirect thr (stays thr small)) _
end

/-- Settles O35: the engines by the job that starts or is done, and a consumer's held half by its token. -/
theorem winnowJobsResolveTickets : Obligations.WinnowJobsResolveTickets := by
  unfold Obligations.WinnowJobsResolveTickets
  intro s t task has running wf w
  refine ⟨fun q rest => ⟨fun queue idle unchecked => ⟨fun aligned inside sound ok => ?_, fun unaligned => ?_⟩,
    fun queue idle aligned inside sound ok agrees => ?_⟩, fun q => ⟨fun runs sound => ?_, fun runs predicted clean sound reads => ?_⟩,
    fun id part k p slot dst arrived awake opens partOf epoch => ?tokens⟩
  · exact jobStart_predicts queue idle unchecked ⟨aligned, inside, sound, ok⟩
  · exact jobStart_unaligned has running queue idle unaligned
  · exact jobStart_checks queue idle ⟨aligned, inside, sound, ok⟩ agrees
  · obtain ⟨s', done, stored, free, ticket⟩ := predictionDone_writes wf runs sound rfl
    exact ⟨s', done, stored, free, ticket⟩
  · obtain ⟨s', done, stored, free, ticket⟩ := checkDone_resolves wf runs predicted clean sound reads rfl rfl
    exact ⟨s', done, stored, free, ticket⟩
  case tokens =>
    subst slot dst
    intro x acked peer active linked held free
    have current : Current s p := ⟨awake, opens, part, partOf, epoch⟩
    have holds : HoldsFirst s p := ⟨active, linked, peer, held, free⟩
    refine ⟨fun token stays => ?_, fun token => ?_⟩
    · obtain ⟨s', runs, ⟨n, e, sent, ack⟩, released, clean⟩ := commit_releases current arrived holds token stays
      exact ⟨s', runs, ⟨n, e, sent, ack.op, ack.status, ack.dst, ack.tag⟩, released, clean⟩
    · obtain ⟨s', runs, ⟨n, e, sent, ack⟩, emptied, bytes, restarts⟩ := squash_empties current arrived holds token
      refine ⟨s', runs, ⟨n, e, sent, ack.op, ack.status, ack.dst, ack.tag⟩, emptied, bytes, fun thr pc small tainted still speculates => ?_⟩
      rw [restarts thr pc small tainted still speculates]
      exact ⟨rfl, rfl, rfl⟩

end Sys2Proof.Machine
